-- ==== Sys2Proof/Word.lean ====
section
/-! DEFINITION. The word types of the N16 and the names of its numbers (spec 00 R1, R4; 19 R280). -/
namespace Sys2Proof

/-- A byte is 8 bits (R1). -/
abbrev Byte := BitVec 8

/-- A word is 64 bits (R1). -/
abbrev Word := BitVec 64

/-- An instruction word is 32 bits (R1, R278). -/
abbrev InsnWord := BitVec 32

/-- The contents of a vector register, VW = 256 bits (R19, R356). -/
abbrev Vec := BitVec 256

/-- The contents of a predicate register, one bit a byte lane (R19, R21). -/
abbrev Pred := BitVec 32

/-- The number of a scalar register, s0-s63 (R280). -/
abbrev SReg := BitVec 6

/-- The number of a vector register, v0-v31 (R280). -/
abbrev VReg := BitVec 5

/-- The number of a predicate register, p0-p7 (R280). -/
abbrev PReg := BitVec 3

/-- The field ap: it names the pair s(2ap), s(2ap + 1) (R280). -/
abbrev Pair := BitVec 5

end Sys2Proof
end

