-- ==== Sys2Proof/Syntax.lean ====
section
/-! DEFINITION. The syntax of the model: every row of spec/opcode_table.json is one constructor of `Instr`.
The first 240 are the encoded instructions of Zhorix (spec 19 to 23), with their fields.  The rest are the
device's own steps (spec 95), each whole and indivisible; they have no encoding and no fields: the packet or the
place that a step acts on is an `Event`, which the state holds while the step is performed. -/
namespace Sys2Proof

/-! ## Fields of encoded instructions -/

/-- Access sizes B, H, W, D: 1, 2, 4, 8 bytes (R1). -/
inductive Size | b | h | w | d
  deriving DecidableEq, Repr

/-- Memory scopes, codes 0 to 4 (R6). -/
inductive Scope | core | tile | stack | pkg | dom
  deriving DecidableEq, Repr

/-- An ordering with its scope; a plain ordering carries scope code 0 (R6). -/
inductive Order | plain | acq (s : Scope) | rel (s : Scope) | ar (s : Scope)
  deriving DecidableEq, Repr

/-- The ordering of the R format, which has no scope field (R282). -/
inductive ROrder | plain | acq | rel | ar
  deriving DecidableEq, Repr

/-- Element types, codes 0 to 13 (R283). -/
inductive VType
  | i8 | i16 | i32 | i64 | z8 | z16 | z32 | z64 | f16 | bf16 | f32 | f64 | e4m3 | e5m2
  deriving DecidableEq, Repr

/-- The four rounding modes (R226). -/
inductive Round | rne | rtz | rdn | rup
  deriving DecidableEq, Repr

/-- A rounding field: a static mode, or dynamic by c3 RM (R226). -/
inductive RField | static (r : Round) | dyn
  deriving DecidableEq, Repr

/-- Precision of a scalar floating-point instruction (R307). -/
inductive Prec | d | s
  deriving DecidableEq, Repr

/-- Conditions of FCMP (R308). -/
inductive FCond | eq | ne | lt | le
  deriving DecidableEq, Repr

/-- Conditions of VCMP (R349). -/
inductive VCond | eq | ne | lt | le | gt | ge
  deriving DecidableEq, Repr

/-- Modes of VCMP (R349). -/
inductive VMode | write | merge | and
  deriving DecidableEq, Repr

/-- Kinds of FCVT, coded 0 to 7 (R310). -/
inductive CvtKind | f64 | f32 | f16 | bf16 | i64 | z64 | i32 | z32
  deriving DecidableEq, Repr

/-- The ftype codes of VFMA (R283). -/
inductive FType | f64 | f32 | bf16 | f16
  deriving DecidableEq, Repr

/-- Operations of VRED, VSCAN and VMRED (R352). -/
inductive RedOp | sum | min | max | and | or | xor
  deriving DecidableEq, Repr

/-- Overflow modes of VCVT: as c3 CVTNAN (between integers: wrap), saturate, NaN (R351). -/
inductive OvMode | c3 | sat | nan
  deriving DecidableEq, Repr

/-! ## Places and packets of the device's own steps -/

/-- A row of a logical core, which is a thread when a thread lives there. -/
structure Thr where
  core : Nat
  row  : Nat
  deriving DecidableEq, Repr

/-- Trap causes (R115); the codes are `Cause.code`. -/
inductive Cause
  | breakpoint | illegalInsn | illegalReg | priv | trapInsn | rowProtect | misaligned | objNull | objPerm
  | outOfShape | majUnsupported | notResident | noQuorum | tagExhausted | stackDown | waitLimit
  | poisonConsumed | pairUnrecovered
  deriving DecidableEq, Repr

/-- Atomic operations (R328). -/
inductive AmoOp
  | add | and | or | xor | smin | smax | umin | umax | swap | fadd | fmin | fmax | cas
  deriving DecidableEq, Repr

/-- Width of an atomic (R328). -/
inductive AmoW | w64 | w32
  deriving DecidableEq, Repr

/-- A row-space packet (R67, R68): the reference as sent, the word index, PRIV of the sender, bits 45:0 of
the sender's reference, the request it answers (0 for none), and the operand words.  Of one that waits at its row: whether
its store to c0 is done (R70), and the word that it will answer (R334). -/
structure RowPkt where
  ref    : Word
  widx   : Nat
  priv   : Bool
  sender : BitVec 46
  req    : Nat
  x      : Word
  y      : Word
  stored : Bool := false
  old    : Word := 0
  deriving DecidableEq, Repr

/-- What a row-space packet does (R333). -/
inductive RowFn | read | write | add | cas
  deriving DecidableEq, Repr

/-- What an object access does at admission (R101, R326 to R329), or an owner-side step of an
object-management operation (R137, R171, R174). -/
inductive ObjOp
  | load (n : Nat)
  | store (n : Nat) (x : Word)
  | ldfe | ldff | stef (x : Word) | stff (x : Word) | sete
  | amo (op : AmoOp) (w : AmoW) (x cmp : Word)
  | vload (mask : Pred)
  | vbcast (n : Nat) (any : Bool)
  | vstore (mask : Pred) (x : Vec)
  | retire
  deriving DecidableEq, Repr

/-- An object access on its way to, or queued at, its owner (R92): handle, sub-tile, generation, the frame's
core and row, the byte offset, the operation, the request (0 once its issuer needs no further answer), the tile it
came from, its sending number, and the tile it was sent to, which answers for it to fence probes (R112). -/
structure ObjPkt where
  handle  : Nat
  sub     : Nat
  gen     : Nat
  frame   : Thr
  off     : Nat
  op      : ObjOp
  req     : Nat
  srcTile : Nat
  seq     : Nat
  via     : Nat
  deriving DecidableEq, Repr

/-- What a majority request asks of a replica (R178, R179). -/
inductive MajOp | read | write | repair
  deriving DecidableEq, Repr

/-- A majority request to one replica (R178, R183): the frame, the tag row, the granule 0 to 63, and for a
write the tag and the 64 bytes. -/
structure MajPkt where
  handle  : Nat
  sub     : Nat
  gen     : Nat
  frame   : Thr
  trow    : Nat
  granule : Nat
  replica : Nat
  op      : MajOp
  tag     : Word
  data    : BitVec 512
  req     : Nat
  round   : Nat
  srcTile : Nat
  seq     : Nat
  deriving DecidableEq, Repr

/-- A replica's answer (R178, R185). -/
inductive MajAns | value (tag : Word) (data : BitVec 512) | accept | newer | poisoned | redirect
  deriving DecidableEq, Repr

/-- An active message (R106). -/
structure Msg where
  target : Word
  h      : Nat
  a      : Word
  b      : Word
  c      : Word
  priv   : Bool
  sender : BitVec 46
  req    : Nat
  scope  : Option Scope
  deriving DecidableEq, Repr

/-- What kind of record an inbox entry is; it decides what a diversion does (R69, R116, R340). -/
inductive InboxKind | message | trap | fault | diversion | job | launch
  deriving DecidableEq, Repr

/-- A 16-byte inbox entry on its way to a row (R109, R340). -/
structure InboxMsg where
  kind   : InboxKind
  target : Word
  w0     : Word
  w1     : Word
  sender : BitVec 46
  req    : Nat
  scope  : Option Scope
  deriving DecidableEq, Repr

/-- Requests of instructions that act where no other step says so: at the I/O die (R320, R371, R373 to R375), or at the
core that REPART names (R317). -/
inductive ReqOp | launch | cntadd | cntwait | cancel | capr | creduce | repart
  deriving DecidableEq, Repr

/-- What a walk reads (R153): a record, or a sub-tile entry of the object named. -/
inductive WalkAddr | record (handle : Nat) | entry (handle sub : Nat)
  deriving DecidableEq, Repr

/-- A walk (R153): its number, the tile that runs it, what it reads, the place of the entry in memory, how many words it has,
and the place of the record's w0, which a walk of a sub-tile entry reads as well. -/
structure WalkPkt where
  no    : Nat
  tile  : Nat
  addr  : WalkAddr
  place : Nat
  count : Nat
  recAt : Option Nat
  deriving DecidableEq, Repr

/-- What a walk found at its admission: the words read, and whether one was poisoned. -/
structure WalkData where
  words    : List Word
  poisoned : Bool
  deriving DecidableEq, Repr

/-- An answer that ends a park (R28). -/
inductive Ans
  | value (x : Vec) (poison : Bool)
  | trap (c : Cause) (sub : Nat)
  deriving DecidableEq, Repr

/-- The device's own steps (spec 95) with the places and packets they act on: one constructor for each row of the
opcode table without an encoding.  The state holds the step being performed; `Event.instr` is its row. -/
inductive Event
  -- heddle commands applied at their target (R64, R75)
  | start (p : RowPkt) | stop (p : RowPkt) | redirect (p : RowPkt) | resume (p : RowPkt) | step (p : RowPkt)
  | heddleCancel (p : RowPkt) | heddleNone (p : RowPkt) | reservedCommand (p : RowPkt)
  -- outside accesses and windows (R17, R71, R79)
  | outsideRead (p : RowPkt) | outsideWrite (p : RowPkt) | outsideRamoadd (p : RowPkt) | outsideRcas (p : RowPkt)
  | outsideActivation (core sub : Nat) | borrowWindow (core sub : Nat)
  -- the treadle, credits and refresh (R12, R13, R35, R37)
  | quantumExpiry (core sub : Nat) | memParkExpiry (core sub : Nat) | treadleClose (core sub : Nat)
  | rowClose (core sub : Nat) | rowActivation (core sub : Nat) | creditEarned (core : Nat)
  | refresh (core sub : Nat) | refreshEnd (core sub : Nat)
  | codeRowOpen (core row : Nat) | codeRowFill (core handle part : Nat) | longOpDone (t : Thr)
  -- replies, retries, walks and waits (R28, R103, R153, R154, R105)
  | reply (req : Nat) (a : Ans) | retry (req : Nat) | retryBackoff (req : Nat) | redirectAnswer (req : Nat)
  | walk (p : WalkPkt) | walkReply (p : WalkPkt) (x : WalkData)
  | waitLimitExpiry (req : Nat) | cancelWait (req : Nat) (owner : Nat) | cancelWaitAnswer (req : Nat) (served : Bool)
  -- object accesses at their owner, and fences (R92, R93, R112)
  | objectAccessArrival (p : ObjPkt) | admission (p : ObjPkt)
  | fenceProbe (req tile seq : Nat) | probeEcho (req tile : Nat) | fenceEcho (req tile : Nat)
  -- gating and messages (R81, R82, R106 to R109)
  | coreGate (core : Nat) | coreWake (core : Nat)
  | inboxEntry (m : InboxMsg) | activeMessage (m : Msg) | handlerStart (core : Nat)
  -- queues, launches and counters (R51 to R61)
  | doorbell (q : Nat) (v : Word) | thaw (q : Nat) | dispatch (q : Nat) | counterPacket (q : Nat) | fencePacket (q : Nat)
  | placement (l : Nat) (rows : List Thr) | reservation (l : Nat) (rows : List Thr) | agentReport (tile : Nat)
  | launchCompletion (l : Nat) | counterDecrement (n : Nat) (err : Bool) (req : Nat) | counterWrite (n : Nat) (v : Word) (pf : Bool)
  | priorityLoan (part : Nat) (row : Option Thr) (prio : Nat) | partitionReset (part : Nat)
  -- swap and pairs (R121, R122, R126 to R128)
  | swapOut | swapIn
  | checkpoint (core row : Nat) | fingerprint (core row : Nat) (fp : Word) | fingerprintTimeout (core row : Nat)
  | shadowCopy (core row : Nat) (commit : Bool)
  -- claims, relocation, synchronisation (R155, R160, R171)
  | claim (req : Nat) | relocCopy (req : Nat) | objsyncDrop (req tile handle : Nat)
  -- majority objects and stack health (R177 to R190)
  | tagAndGranuleRead (p : MajPkt) | phase2Write (p : MajPkt) | majorityAnswer (p : MajPkt) (a : MajAns)
  | rholdWrite (v : Word) (req : Nat) | stackFailure (stack : Nat) | markDown (stack : Nat) | markUp (stack : Nat)
  | markRebuild (stack : Nat) | scrubPass (stack : Nat)
  -- fabric, power, hosts and firmware (R197 to R208)
  | pathFailure (dev : Nat) | pathRecovery (dev : Nat) | powerSample (watts : BitVec 13) (issue : BitVec 32)
  | hsem (port : Nat) (v : BitVec 2) | partitionEnable (slot : Nat) | vfReset (slot : Nat)
  | tileReassign (tile : Nat) (v : Word) | memberWithdrawal (group : Nat) (member : BitVec 46)
  | firmwareStage (port : Nat) (image : List Word) (good : Bool) | attestationRequest (signature : List Byte)
  | bringUp (absent : List (Nat × BitVec 512)) (firmwareGood : Bool)
  | corestatWrite (p : RowPkt) | registerWrite (off : Nat) (v : Word) (port : Nat) (slot : Nat)
  -- engine jobs (R212 to R214, R246, R261 to R274, R364)
  | matrixJob (tile : Nat) | mldbJob (tile : Nat) | moutJob (tile : Nat) | mzeroJob (tile : Nat) | mtestJob (tile : Nat)
  | copyJob (tile : Nat) | cpyxJob (tile : Nat) | cpycJob (tile : Nat) | pointerWrite (tile : Nat)
  | gathJob (tile : Nat) | scatJob (tile : Nat) | scataddJob (tile : Nat)
  | rowStep (core : Nat) | serviceInterval (core : Nat) | collectiveCombine (group : Nat)
  -- requests of instructions at the I/O die, and of REPART at its core: part of the instruction's own row
  | request (op : ReqOp) (req : Nat)
  -- a member of another module has contributed to a collective (R274): part of CREDUCE's row
  | contribution (group : Nat) (member : BitVec 46) (block : List Word) (data : List Byte)
  -- a host's access through the BARs of the PF, slot 0, or of a VF (R201, R202, R381): part of the row of what it becomes
  | hostRow (slot : Nat) (f : RowFn) (ref : Word) (widx : Nat) (x y : Word) | hostRead (slot off : Nat)
  -- illegal words and physical events (R281, R99, R256, R37)
  | illegalInsn (w : InsnWord) | bitError (t : Thr) (widx : Nat) (double : Bool)
  | subArrayFault (tile k : Nat) | temperatureSensor (stack : Nat) (hot : Bool)
  deriving DecidableEq, Repr

/-- Instructions and steps: one constructor for each row of the opcode table, in its order. -/
inductive Instr
  -- integer register-register, major 0x01 (R298)
  | add (d a b : SReg) | sub (d a b : SReg) | addw (d a b : SReg) | subw (d a b : SReg)
  | and (d a b : SReg) | or (d a b : SReg) | xor (d a b : SReg) | andn (d a b : SReg) | orn (d a b : SReg)
  | shl (d a b : SReg) | shr (d a b : SReg) | sra (d a b : SReg) | rol (d a b : SReg) | ror (d a b : SReg)
  | slt (d a b : SReg) | sltu (d a b : SReg) | seq (d a b : SReg) | sne (d a b : SReg)
  | min (d a b : SReg) | max (d a b : SReg) | minu (d a b : SReg) | maxu (d a b : SReg)
  | sadd (d a b : SReg) | ssub (d a b : SReg)
  | clz (d a : SReg) | ctz (d a : SReg) | popc (d a : SReg) | brev (d a : SReg) | bswap (d a : SReg)
  | sextb (d a : SReg) | sexth (d a : SReg) | sextw (d a : SReg)
  | zextw (d a : SReg) | zextb (d a : SReg) | zexth (d a : SReg)
  -- multiply and divide, major 0x02 (R299)
  | mul (d a b : SReg) | mulh (d a b : SReg) | mulhu (d a b : SReg) | mulhsz (d a b : SReg) | mulw (d a b : SReg)
  | div (d a b : SReg) | divu (d a b : SReg) | rem (d a b : SReg) | remu (d a b : SReg)
  | divw (d a b : SReg) | remw (d a b : SReg)
  -- immediate forms, majors 0x03 to 0x09 (R300, R301)
  | addi (d a : SReg) (i : BitVec 14) | andi (d a : SReg) (i : BitVec 14) | ori (d a : SReg) (i : BitVec 14)
  | xori (d a : SReg) (i : BitVec 14) | slti (d a : SReg) (i : BitVec 14) | sltiu (d a : SReg) (i : BitVec 14)
  | shli (d a : SReg) (k : BitVec 6) | shri (d a : SReg) (k : BitVec 6) | srai (d a : SReg) (k : BitVec 6)
  | rori (d a : SReg) (k : BitVec 6)
  -- constants (R302, R303)
  | lil (d : SReg) (i : BitVec 20) | lik (d : SReg) (c : BitVec 2) (i : BitVec 16)
  -- scalar floating point, major 0x0C (R307 to R310)
  | fadd (d a b : SReg) (p : Prec) (r : RField) | fsub (d a b : SReg) (p : Prec) (r : RField)
  | fmul (d a b : SReg) (p : Prec) (r : RField) | fdiv (d a b : SReg) (p : Prec) (r : RField)
  | fsqrt (d a : SReg) (p : Prec) (r : RField)
  | fmin (d a b : SReg) (p : Prec) | fmax (d a b : SReg) (p : Prec)
  | fcmp (d a b : SReg) (p : Prec) (c : FCond) | fkind (d a : SReg) (p : Prec)
  | fcvt (d a : SReg) (dst src : CvtKind) (r : RField)
  | fcopys (d a b : SReg) (p : Prec) | fabs (d a : SReg) (p : Prec) | fneg (d a : SReg) (p : Prec)
  -- fused multiply-add, majors 0x0D and 0x0E (R311)
  | ffmaD (d a b c : SReg) | ffmsD (d a b c : SReg) | fnmaD (d a b c : SReg) | fnmsD (d a b c : SReg)
  | ffmaS (d a b c : SReg) | ffmsS (d a b c : SReg) | fnmaS (d a b c : SReg) | fnmsS (d a b c : SReg)
  -- branches and calls, majors 0x0F to 0x16 (R304 to R306)
  | beq (a b : SReg) (o : BitVec 14) | bne (a b : SReg) (o : BitVec 14)
  | blt (a b : SReg) (o : BitVec 14) | bge (a b : SReg) (o : BitVec 14)
  | bltu (a b : SReg) (o : BitVec 14) | bgeu (a b : SReg) (o : BitVec 14)
  | call (d : SReg) (o : BitVec 20) | callr (d a : SReg) (i : BitVec 14)
  -- own-row accesses, majors 0x17 to 0x19 (R324, R325)
  | ldr (d a : SReg) (z : Size) (sx : Bool) (o : BitVec 11) | str (d a : SReg) (z : Size) (o : BitVec 11)
  | vldr (v : VReg) (a : SReg) (o : BitVec 9) | vstr (v : VReg) (a : SReg) (o : BitVec 9)
  -- object accesses, major 0x1A (R326, R327)
  | ldo (d : SReg) (p : Pair) (r : Order) (z : Size) | sto (a : SReg) (p : Pair) (r : Order) (z : Size)
  | ldfe (d : SReg) (p : Pair) (r : Order) | ldff (d : SReg) (p : Pair) (r : Order)
  | stef (a : SReg) (p : Pair) (r : Order) | stff (a : SReg) (p : Pair) (r : Order) | sete (p : Pair) (r : Order)
  -- atomics, majors 0x1B and 0x1C (R328)
  | amoAddD (d a : SReg) (p : Pair) (r : Order) | amoAndD (d a : SReg) (p : Pair) (r : Order)
  | amoOrD (d a : SReg) (p : Pair) (r : Order) | amoXorD (d a : SReg) (p : Pair) (r : Order)
  | amoSminD (d a : SReg) (p : Pair) (r : Order) | amoSmaxD (d a : SReg) (p : Pair) (r : Order)
  | amoUminD (d a : SReg) (p : Pair) (r : Order) | amoUmaxD (d a : SReg) (p : Pair) (r : Order)
  | amoSwapD (d a : SReg) (p : Pair) (r : Order) | amoFaddD (d a : SReg) (p : Pair) (r : Order)
  | amoFminD (d a : SReg) (p : Pair) (r : Order) | amoFmaxD (d a : SReg) (p : Pair) (r : Order)
  | amoCasD (d a : SReg) (p : Pair) (r : Order)
  | amoAddW (d a : SReg) (p : Pair) (r : Order) | amoAndW (d a : SReg) (p : Pair) (r : Order)
  | amoOrW (d a : SReg) (p : Pair) (r : Order) | amoXorW (d a : SReg) (p : Pair) (r : Order)
  | amoSminW (d a : SReg) (p : Pair) (r : Order) | amoSmaxW (d a : SReg) (p : Pair) (r : Order)
  | amoUminW (d a : SReg) (p : Pair) (r : Order) | amoUmaxW (d a : SReg) (p : Pair) (r : Order)
  | amoSwapW (d a : SReg) (p : Pair) (r : Order) | amoFaddW (d a : SReg) (p : Pair) (r : Order)
  | amoFminW (d a : SReg) (p : Pair) (r : Order) | amoFmaxW (d a : SReg) (p : Pair) (r : Order)
  | amoCasW (d a : SReg) (p : Pair) (r : Order)
  -- vector object accesses, major 0x1D (R216, R329)
  | vldo (v : VReg) (g : PReg) (p : Pair) (r : Order) (t : VType)
  | vsto (v : VReg) (g : PReg) (p : Pair) (r : Order) (t : VType)
  | vldb (v : VReg) (g : PReg) (p : Pair) (r : Order) (t : VType)
  -- object management, major 0x1E (R331)
  | objq (d a : SReg) (p : Pair) | commit (d a : SReg) (p : Pair) | decommit (d : SReg) (p : Pair)
  | alloc (d : SReg) (p : Pair) | free (d a : SReg) (p : Pair) | reloc (d a : SReg) (p : Pair)
  | objsync (d : SReg) (p : Pair) | fillc (d a : SReg) (p : Pair)
  -- row space, major 0x1F (R333)
  | rld (d r : SReg) (w : BitVec 9) (o : ROrder) | rst (d r : SReg) (w : BitVec 9) (o : ROrder)
  | hdl (d r : SReg) (o : ROrder)
  | ramoadd (d r : SReg) (w : BitVec 9) (o : ROrder) | rcas (d r : SReg) (w : BitVec 9) (o : ROrder)
  -- fences and messages, majors 0x20 and 0x21 (R335 to R339)
  | fence (s : Scope) | fenceAcq (s : Scope) | fenceRel (s : Scope)
  | msend (d a : SReg) (p : Pair) (r : Order) | ibrecv (d : SReg) | ibpeek (d : SReg) | ibdrop
  -- control words, major 0x22 (R312 to R314)
  | mfc (d : SReg) (n : BitVec 4) | mtc (a : SReg) (n : BitVec 4) | live (k : BitVec 8)
  -- tasks, major 0x23 (R372 to R376)
  | launch (d a : SReg) (p : Pair) (r : Order) | cntdec (a : SReg) (r : Order)
  | cntadd (a : SReg) (p : Pair) (r : Order) | cntwait (a : SReg) (r : Order)
  | cancel (d a : SReg) (p : Pair) | yield | park | exit
  -- system, major 0x24 (R315 to R320)
  | trap (c : BitVec 10) | brk | repart (d a : SReg) | pair (d : SReg) | unpair (d : SReg) | capr (d a : SReg) | nop
  -- integer vector, major 0x25 (R346)
  | vadd (v a b : VReg) (g : PReg) (t : VType) | vsub (v a b : VReg) (g : PReg) (t : VType)
  | vmul (v a b : VReg) (g : PReg) (t : VType) | vmulh (v a b : VReg) (g : PReg) (t : VType)
  | vand (v a b : VReg) (g : PReg) (t : VType) | vor (v a b : VReg) (g : PReg) (t : VType)
  | vxor (v a b : VReg) (g : PReg) (t : VType) | vshl (v a b : VReg) (g : PReg) (t : VType)
  | vshr (v a b : VReg) (g : PReg) (t : VType) | vsra (v a b : VReg) (g : PReg) (t : VType)
  | vmin (v a b : VReg) (g : PReg) (t : VType) | vmax (v a b : VReg) (g : PReg) (t : VType)
  | vsadd (v a b : VReg) (g : PReg) (t : VType) | vssub (v a b : VReg) (g : PReg) (t : VType)
  | vabs (v a : VReg) (g : PReg) (t : VType) | vpopc (v a : VReg) (g : PReg) (t : VType)
  -- floating-point vector, majors 0x26 and 0x27 (R347, R348)
  | vfadd (v a b : VReg) (g : PReg) (t : VType) | vfsub (v a b : VReg) (g : PReg) (t : VType)
  | vfmul (v a b : VReg) (g : PReg) (t : VType) | vfdiv (v a b : VReg) (g : PReg) (t : VType)
  | vfsqrt (v a : VReg) (g : PReg) (t : VType)
  | vfmin (v a b : VReg) (g : PReg) (t : VType) | vfmax (v a b : VReg) (g : PReg) (t : VType)
  | vfabs (v a : VReg) (g : PReg) (t : VType) | vfneg (v a : VReg) (g : PReg) (t : VType)
  | vfcopys (v a b : VReg) (g : PReg) (t : VType)
  | vfma (v a b c : VReg) (g : PReg) (f : FType)
  -- comparison, selection, conversion (R349 to R351)
  | vcmp (d : PReg) (a b : VReg) (g : PReg) (k : VCond) (t : VType) (m : VMode)
  | vsel (v a b : VReg) (g : PReg) (t : VType) | vperm (v a b : VReg) (g : PReg) (t : VType)
  | vslide (v a b : VReg) (g : PReg) (t : VType) | vcompress (v a b : VReg) (g : PReg) (t : VType)
  | vexpand (v a b : VReg) (g : PReg) (t : VType)
  | vcvt (v a : VReg) (r : RField) (o : OvMode) (g : PReg) (t s : VType)
  -- reductions (R352 to R354)
  | vred (v a : VReg) (g : PReg) (t : VType) (o : RedOp)
  | vmred (d : PReg) (a b : VReg) (g : PReg) (o : RedOp) (t : VType)
  | vscan (v a : VReg) (g : PReg) (t : VType) (o : RedOp)
  -- special functions (R355)
  | vrcp (v a : VReg) (g : PReg) (t : VType) | vrsq (v a : VReg) (g : PReg) (t : VType)
  | vexp2 (v a : VReg) (g : PReg) (t : VType) | vlog2 (v a : VReg) (g : PReg) (t : VType)
  | vsin (v a : VReg) (g : PReg) (t : VType) | vcos (v a : VReg) (g : PReg) (t : VType)
  | vtanh (v a : VReg) (g : PReg) (t : VType)
  -- scalar to vector (R356)
  | vbcast (v : VReg) (a : SReg) (g : PReg) (e : Size) | vins (v : VReg) (a b : SReg) (e : Size)
  | vext (v : VReg) (a b : SReg) (e : Size) | vwhile (d : PReg) (a b : SReg) (e : Size) | vlen (a : SReg)
  -- predicates (R358)
  | pand (d a b : PReg) | por (d a b : PReg) | pxor (d a b : PReg) | pnot (d a : PReg)
  | pcnt (d : SReg) (a : PReg) (t : VType) | pfirst (d a : PReg) (t : VType) | pset (d : PReg) (a : SReg)
  -- engines (R361 to R371)
  | mldb (d a : SReg) | mldbW (d a : SReg) | mmul (d a : SReg) | mmulW (d a : SReg)
  | mout (d a : SReg) (p : Pair) | mzero (d a : SReg) | mtest (d : SReg) | mstat (d a : SReg)
  | cpy (d a : SReg) | cpyx (d a : SReg) | cpyc (d a : SReg)
  | gath (d a : SReg) | scat (d a : SReg) | scatadd (d a : SReg)
  | jpoll (d a : SReg) | jwait (d a : SReg) | creduce (d a : SReg) | rseq (d a : SReg) | rswait (d : SReg)
  -- the device's own steps (spec 95), which act on the step that the state holds as being performed
  | start | stop | redirect | resume | step | heddleCancel | heddleNone | reservedCommand | outsideRead
  | outsideWrite | outsideRamoadd | outsideRcas | outsideActivation | borrowWindow | quantumExpiry
  | memParkExpiry | treadleClose | rowClose | rowActivation | creditEarned | refresh | refreshEnd | codeRowOpen
  | codeRowFill | longOpDone | reply | retry | retryBackoff | redirectAnswer | walk | walkReply
  | waitLimitExpiry | cancelWait | cancelWaitAnswer | objectAccessArrival | admission | fenceProbe | probeEcho
  | fenceEcho | coreGate | coreWake | inboxEntry | activeMessage | handlerStart | doorbell | thaw | dispatch
  | counterPacket | fencePacket | placement | reservation | agentReport | launchCompletion | counterDecrement
  | counterWrite | priorityLoan | partitionReset | swapOut | swapIn | checkpoint | fingerprint
  | fingerprintTimeout | shadowCopy | claim | relocCopy | objsyncDrop | tagAndGranuleRead | phase2Write
  | majorityAnswer | rholdWrite | stackFailure | markDown | markUp | markRebuild | scrubPass | pathFailure
  | pathRecovery | powerSample | hsem | partitionEnable | vfReset | tileReassign | memberWithdrawal
  | firmwareStage | attestationRequest | bringUp | corestatWrite | registerWrite | matrixJob | mldbJob
  | moutJob | mzeroJob | mtestJob | copyJob | cpyxJob | cpycJob | pointerWrite | gathJob | scatJob | scataddJob
  | rowStep | serviceInterval | collectiveCombine | illegalInsn | bitError | subArrayFault | temperatureSensor
  deriving DecidableEq, Repr

/-- The row of the opcode table that a request belongs to. -/
def ReqOp.instr : ReqOp → Instr
  | .launch => .launch 0 0 0 .plain
  | .cntadd => .cntadd 0 0 .plain
  | .cntwait => .cntwait 0 .plain
  | .cancel => .cancel 0 0 0
  | .capr => .capr 0 0
  | .creduce => .creduce 0 0
  | .repart => .repart 0 0

/-- The row of the opcode table that a host's access to a row becomes. -/
def RowFn.instr : RowFn → Instr
  | .read => .outsideRead
  | .write => .outsideWrite
  | .add => .outsideRamoadd
  | .cas => .outsideRcas

/-- The row of the opcode table that a step is. -/
def Event.instr : Event → Instr
  | .start .. => .start
  | .stop .. => .stop
  | .redirect .. => .redirect
  | .resume .. => .resume
  | .step .. => .step
  | .heddleCancel .. => .heddleCancel
  | .heddleNone .. => .heddleNone
  | .reservedCommand .. => .reservedCommand
  | .outsideRead .. => .outsideRead
  | .outsideWrite .. => .outsideWrite
  | .outsideRamoadd .. => .outsideRamoadd
  | .outsideRcas .. => .outsideRcas
  | .outsideActivation .. => .outsideActivation
  | .borrowWindow .. => .borrowWindow
  | .quantumExpiry .. => .quantumExpiry
  | .memParkExpiry .. => .memParkExpiry
  | .treadleClose .. => .treadleClose
  | .rowClose .. => .rowClose
  | .rowActivation .. => .rowActivation
  | .creditEarned .. => .creditEarned
  | .refresh .. => .refresh
  | .refreshEnd .. => .refreshEnd
  | .codeRowOpen .. => .codeRowOpen
  | .codeRowFill .. => .codeRowFill
  | .longOpDone .. => .longOpDone
  | .reply .. => .reply
  | .retry .. => .retry
  | .retryBackoff .. => .retryBackoff
  | .redirectAnswer .. => .redirectAnswer
  | .walk .. => .walk
  | .walkReply .. => .walkReply
  | .waitLimitExpiry .. => .waitLimitExpiry
  | .cancelWait .. => .cancelWait
  | .cancelWaitAnswer .. => .cancelWaitAnswer
  | .objectAccessArrival .. => .objectAccessArrival
  | .admission .. => .admission
  | .fenceProbe .. => .fenceProbe
  | .probeEcho .. => .probeEcho
  | .fenceEcho .. => .fenceEcho
  | .coreGate .. => .coreGate
  | .coreWake .. => .coreWake
  | .inboxEntry .. => .inboxEntry
  | .activeMessage .. => .activeMessage
  | .handlerStart .. => .handlerStart
  | .doorbell .. => .doorbell
  | .thaw .. => .thaw
  | .dispatch .. => .dispatch
  | .counterPacket .. => .counterPacket
  | .fencePacket .. => .fencePacket
  | .placement .. => .placement
  | .reservation .. => .reservation
  | .agentReport .. => .agentReport
  | .launchCompletion .. => .launchCompletion
  | .counterDecrement .. => .counterDecrement
  | .counterWrite .. => .counterWrite
  | .priorityLoan .. => .priorityLoan
  | .partitionReset .. => .partitionReset
  | .swapOut => .swapOut
  | .swapIn => .swapIn
  | .checkpoint .. => .checkpoint
  | .fingerprint .. => .fingerprint
  | .fingerprintTimeout .. => .fingerprintTimeout
  | .shadowCopy .. => .shadowCopy
  | .claim .. => .claim
  | .relocCopy .. => .relocCopy
  | .objsyncDrop .. => .objsyncDrop
  | .tagAndGranuleRead .. => .tagAndGranuleRead
  | .phase2Write .. => .phase2Write
  | .majorityAnswer .. => .majorityAnswer
  | .rholdWrite .. => .rholdWrite
  | .stackFailure .. => .stackFailure
  | .markDown .. => .markDown
  | .markUp .. => .markUp
  | .markRebuild .. => .markRebuild
  | .scrubPass .. => .scrubPass
  | .pathFailure .. => .pathFailure
  | .pathRecovery .. => .pathRecovery
  | .powerSample .. => .powerSample
  | .hsem .. => .hsem
  | .partitionEnable .. => .partitionEnable
  | .vfReset .. => .vfReset
  | .tileReassign .. => .tileReassign
  | .memberWithdrawal .. => .memberWithdrawal
  | .firmwareStage .. => .firmwareStage
  | .attestationRequest .. => .attestationRequest
  | .bringUp .. => .bringUp
  | .corestatWrite .. => .corestatWrite
  | .registerWrite .. => .registerWrite
  | .matrixJob .. => .matrixJob
  | .mldbJob .. => .mldbJob
  | .moutJob .. => .moutJob
  | .mzeroJob .. => .mzeroJob
  | .mtestJob .. => .mtestJob
  | .copyJob .. => .copyJob
  | .cpyxJob .. => .cpyxJob
  | .cpycJob .. => .cpycJob
  | .pointerWrite .. => .pointerWrite
  | .gathJob .. => .gathJob
  | .scatJob .. => .scatJob
  | .scataddJob .. => .scataddJob
  | .rowStep .. => .rowStep
  | .serviceInterval .. => .serviceInterval
  | .collectiveCombine .. => .collectiveCombine
  | .request op _ => op.instr
  | .contribution .. => .creduce 0 0
  | .hostRow _ f _ _ _ _ => RowFn.instr f
  | .hostRead .. => .registerWrite
  | .illegalInsn .. => .illegalInsn
  | .bitError .. => .bitError
  | .subArrayFault .. => .subArrayFault
  | .temperatureSensor .. => .temperatureSensor

end Sys2Proof
end

