-- ==== Sys2Proof/Config.lean ====
section
/-! DEFINITION. What the part fixes, and the free values: constants without a body stand for what the manual
leaves open (guide: no proof can see their value). -/
namespace Sys2Proof.Config

/-! ## Figures of the part (spec 14, "The module"; 02) -/

/-- Stacks of the module. -/
def stackCount : Nat := 16
/-- Tiles of the module: 16 stacks of 128. -/
def tiles : Nat := 2048
/-- Cores of a tile. -/
def coresPerTile : Nat := 512
/-- Logical cores of the module. -/
def cores : Nat := 1048576
/-- Rows of a core (R29). -/
def rowsPerCore : Nat := 96
/-- Rows 0-83 are thread rows, frames or other data rows (R29). -/
def dataRows : Nat := 84
/-- Bytes of a row (R19). -/
def rowBytes : Nat := 4096

/-- A row activation takes 15 executor cycles (R12). -/
def activateCycles : Nat := 15
/-- A row close takes 15 executor cycles (R12). -/
def closeCycles : Nat := 15
/-- Each outside access is applied in 20 executor cycles (R17, R79). -/
def applyCycles : Nat := 20
/-- A window or R17 opening serves up to 8 accesses (R17, R79). -/
def windowAccesses : Nat := 8
/-- A queued access waits 128 cycles before a window (R79). -/
def windowWait : Nat := 128
/-- A refresh takes 105 executor cycles (R37). -/
def refreshCycles : Nat := 105
/-- A refresh every 4 ms at 1.05 GHz, so that each of the eight subarrays is refreshed every 32 ms (R37). -/
def refreshStep : Nat := 4200000
/-- Accesses that a core's outside-access queue holds (R79). -/
def queueSize : Nat := 32
/-- A credit is earned in 2,048 executor cycles (R13). -/
def earnCycles : Nat := 2048
/-- A core holds at most 32 credits (R13, R31). -/
def maxCredits : Nat := 32
/-- 64 turns of a slot are 512 executor cycles (R33, R35). -/
def memParkCycles : Nat := 512
/-- Opening a code row in a fetch buffer takes 30 executor cycles (R32). -/
def codeOpenCycles : Nat := 30
/-- Longest wait of a gated core's first packet before it is taken up: 1 µs less the 20 cycles of its application (R82). -/
def wakeCycles : Nat := 1030
/-- A core gates after 65,536 cycles without an activation (R81). -/
def gateCycles : Nat := 65536
/-- A fingerprint is awaited for 2^20 cycles (R127). -/
def fingerprintCycles : Nat := 1048576
/-- A shadow copy takes 160 cycles (R126), and so does a row step (R271). -/
def rowStepCycles : Nat := 160
/-- A spill or a restore takes 45 cycles (R271). -/
def spillCycles : Nat := 45
/-- Inbox entries (R109). -/
def inboxSize : Nat := 64
/-- Wait-list entries (R103). -/
def waitListSize : Nat := 32
/-- Accesses that a job has under way at once (R266). -/
def jobAccesses : Nat := 256
/-- Jobs of a tile's queues (R210, R261, R266). -/
def jobQueueSize : Nat := 64
/-- Record-cache entries of a tile (R153). -/
def recordCacheSize : Nat := 512
/-- Sub-tile-cache entries of a tile (R153). -/
def subCacheSize : Nat := 4096
/-- The module control object in a packet: no record's handle (R202). -/
def moduleObj : Nat := 4294967296
/-- Walks that a tile runs at once (R153). -/
def walkLimit : Nat := 64
/-- Granules of a tile's 1 MiB row-side cache (R97). -/
def granuleCacheSize : Nat := 16384
/-- Bytes of a service row before its inbox (R29, R109). -/
def inboxBase : Nat := 1056
/-- Packets of a launch held before placement (R62). -/
def heldMessages : Nat := 16
/-- Held effects of a pair (R125). -/
def heldEffects : Nat := 32
/-- Forwarded values of a pair (R125). -/
def forwardedValues : Nat := 64
/-- Instructions of a pair's interval (R126). -/
def intervalLength : Nat := 256

/-! ## Free values -/

/-- Whether VEXP2, VLOG2, VSIN, VCOS or VTANH (functions 2 to 6 of VSFU) returns the neighbour above the exact
result: fixed for a given input, otherwise open (R231, R355).  Free value, log 10. -/
opaque sfuAbove (fn : Nat) (t : VType) (x : Nat) : Bool

/-- The n-th undefined byte: segments not saved by a swap (R122).  Free value, log 11. -/
opaque freeByte (n : Nat) : Byte

/-- What the spill rows of a sequencer kernel hold (R271, R273: no format is stated).  Free value, log 12. -/
opaque freeWord (n : Nat) : Word

/-- What the n-th byte that an engine reads from another module holds (R195: the other module is not modelled).  Free
value, log 15. -/
opaque remoteByte (n : Nat) : Byte

/-- How many messages a tile interface holds behind a full inbox before it answers RETRY (R337: the manual gives no
number).  Free value, log 14. -/
opaque interfaceSize : Nat

/-- The shape of a group's combination tree (R274: "the group's fixed tree", its shape is not given): the choice made at
step i for a group, an epoch and a count of members.  Free value, log 16. -/
opaque reduceChoice (group epoch count i : Nat) : Nat

/-- Words, up to 1,023, that stand unused behind the capability record with this identifier (R204: only that the list begins at
0x1000).  Free value, log 13. -/
opaque capGap (id : Nat) : Nat

/-- VER of the capability record with this identifier (R204).  Free value, log 13. -/
opaque capVer (id : Nat) : BitVec 8

/-- Words of the bodies of records 1, 4 and 5, whose layouts the manual does not give (R204).  Free value, log 13. -/
opaque capWords (id : Nat) : Nat

/-- Word i of the module record's body, which reports the count of present cores (R204).  Free value, log 13. -/
opaque capModule (present i : Nat) : Word

/-- The word of the engine record's body for a tile: its fenced sub-arrays and DENSEOFF (R204, R255).  Free value, log 13. -/
opaque capEngine (fenced : Nat) (denseOff : Bool) : Word

/-- Word i of the fabric record's body, which reports DEVID and, as they stand at the time of the read, the states of the UALink and
Ultra Ethernet ports, of which the manual says only over which devices a path works (R204, R197).  Free value, log 13. -/
opaque capFabric (devid : Nat) (paths : List Nat) (time i : Nat) : Word

/-- Word i of the version in the firmware record's body (R204).  Free value, log 13. -/
opaque capVersion (image : List Word) (i : Nat) : Word

end Sys2Proof.Config
end

