-- ==== Sys2Proof/WellFormed.lean ====
section
/-! DEFINITION. Which terms of `Instr` are instructions of the part: R281 to R286 for the encoded ones (what a
word can say), and the ranges of places for the device's own steps. -/
namespace Sys2Proof

/-! ## What a type, an ordering and a conversion accept -/

/-- Codes 0 to 7, the integer types (R283). -/
def VType.isInt : VType → Bool
  | .i8 | .i16 | .i32 | .i64 | .z8 | .z16 | .z32 | .z64 => true
  | .f16 | .bf16 | .f32 | .f64 | .e4m3 | .e5m2 => false

/-- Codes 8 to 11, the floating types of arithmetic (R283, R347). -/
def VType.isArith : VType → Bool
  | .f16 | .bf16 | .f32 | .f64 => true
  | .i8 | .i16 | .i32 | .i64 | .z8 | .z16 | .z32 | .z64 | .e4m3 | .e5m2 => false

/-- Operations that accept floating types (R283, R352). -/
def RedOp.onFloat : RedOp → Bool
  | .sum | .min | .max => true
  | .and | .or | .xor => false

/-- Kinds 0 to 3 of FCVT are floating (R310). -/
def CvtKind.isFloat : CvtKind → Bool
  | .f64 | .f32 | .f16 | .bf16 => true
  | .i64 | .z64 | .i32 | .z32 => false

/-- plain, acq or ar (R286). -/
def Order.acqAr : Order → Bool
  | .plain | .acq _ | .ar _ => true
  | .rel _ => false

/-- plain, rel or ar (R286). -/
def Order.relAr : Order → Bool
  | .plain | .rel _ | .ar _ => true
  | .acq _ => false

/-- plain or rel (R286). -/
def Order.plainRel : Order → Bool
  | .plain | .rel _ => true
  | .acq _ | .ar _ => false

/-- plain or acq (R286). -/
def Order.plainAcq : Order → Bool
  | .plain | .acq _ => true
  | .rel _ | .ar _ => false

/-- The combinations of VCVT that R351 lists: destination and source differ, and mode NaN needs a floating
destination. -/
def cvtOk (d s : VType) (o : OvMode) : Bool :=
  d != s && !(d.isInt && o == .nan)

/-- The place exists: a core of the full module and one of 128 row numbers (R29, R66). -/
def Thr.ok (t : Thr) : Bool := t.core < Config.cores && t.row < 128

/-- The whole check: every constructor, those with nothing to check as well. -/
def Instr.wf : Instr → Bool
  | .ldo _ _ r _ | .ldfe _ _ r | .ldff _ _ r => r.acqAr
  | .vldo _ _ _ r _ | .vldb _ _ _ r _ => r.acqAr
  | .stef _ _ r | .stff _ _ r | .sete _ r => r.relAr
  | .msend _ _ _ r | .launch _ _ _ r | .cntdec _ r | .cntadd _ _ r => r.plainRel
  | .cntwait _ r => r.plainAcq
  | .rld _ _ _ o => o != .rel
  | .rst _ _ w _ => w != 496#9
  | .vadd _ _ _ _ t | .vsub _ _ _ _ t | .vmul _ _ _ _ t | .vmulh _ _ _ _ t | .vand _ _ _ _ t | .vor _ _ _ _ t
  | .vxor _ _ _ _ t | .vshl _ _ _ _ t | .vshr _ _ _ _ t | .vsra _ _ _ _ t | .vmin _ _ _ _ t | .vmax _ _ _ _ t
  | .vsadd _ _ _ _ t | .vssub _ _ _ _ t | .vabs _ _ _ t | .vpopc _ _ _ t => t.isInt
  | .vfadd _ _ _ _ t | .vfsub _ _ _ _ t | .vfmul _ _ _ _ t | .vfdiv _ _ _ _ t | .vfsqrt _ _ _ t
  | .vfmin _ _ _ _ t | .vfmax _ _ _ _ t | .vfabs _ _ _ t | .vfneg _ _ _ t | .vfcopys _ _ _ _ t
  | .vrcp _ _ _ t | .vrsq _ _ _ t => t.isArith
  | .vexp2 _ _ _ t | .vlog2 _ _ _ t | .vsin _ _ _ t | .vcos _ _ _ t | .vtanh _ _ _ t => t.isArith && t != .f64
  | .vcmp _ _ _ _ _ t _ => t.isInt || t.isArith
  | .vred _ _ _ t o | .vscan _ _ _ t o => t.isInt || (t.isArith && o.onFloat)
  | .vmred _ _ _ _ o t => t.isInt || (t.isArith && o.onFloat)
  | .vcvt _ _ _ o _ t s => cvtOk t s o
  | .fcvt _ _ dst src _ => dst != src && (dst.isFloat || src.isFloat)
  | .ldr _ _ z sx _ => !(z == .d && sx)
  | .vldr _ _ _ | .vstr _ _ _ => true
  | .add _ _ _ | .sub _ _ _ | .addw _ _ _ | .subw _ _ _ | .and _ _ _ | .or _ _ _ | .xor _ _ _ | .andn _ _ _
  | .orn _ _ _ | .shl _ _ _ | .shr _ _ _ | .sra _ _ _ | .rol _ _ _ | .ror _ _ _ | .slt _ _ _ | .sltu _ _ _
  | .seq _ _ _ | .sne _ _ _ | .min _ _ _ | .max _ _ _ | .minu _ _ _ | .maxu _ _ _ | .sadd _ _ _ | .ssub _ _ _
  | .clz _ _ | .ctz _ _ | .popc _ _ | .brev _ _ | .bswap _ _ | .sextb _ _ | .sexth _ _ | .sextw _ _
  | .zextw _ _ | .zextb _ _ | .zexth _ _ | .mul _ _ _ | .mulh _ _ _ | .mulhu _ _ _ | .mulhsz _ _ _
  | .mulw _ _ _ | .div _ _ _ | .divu _ _ _ | .rem _ _ _ | .remu _ _ _ | .divw _ _ _ | .remw _ _ _
  | .addi _ _ _ | .andi _ _ _ | .ori _ _ _ | .xori _ _ _ | .slti _ _ _ | .sltiu _ _ _ | .shli _ _ _
  | .shri _ _ _ | .srai _ _ _ | .rori _ _ _ | .lil _ _ | .lik _ _ _ | .fadd _ _ _ _ _ | .fsub _ _ _ _ _
  | .fmul _ _ _ _ _ | .fdiv _ _ _ _ _ | .fsqrt _ _ _ _ | .fmin _ _ _ _ | .fmax _ _ _ _ | .fcmp _ _ _ _ _
  | .fkind _ _ _ | .fcopys _ _ _ _ | .fabs _ _ _ | .fneg _ _ _ | .ffmaD _ _ _ _ | .ffmsD _ _ _ _
  | .fnmaD _ _ _ _ | .fnmsD _ _ _ _ | .ffmaS _ _ _ _ | .ffmsS _ _ _ _ | .fnmaS _ _ _ _ | .fnmsS _ _ _ _
  | .beq _ _ _ | .bne _ _ _ | .blt _ _ _ | .bge _ _ _ | .bltu _ _ _ | .bgeu _ _ _ | .call _ _ | .callr _ _ _
  | .str _ _ _ _ | .sto _ _ _ _ | .amoAddD _ _ _ _ | .amoAndD _ _ _ _ | .amoOrD _ _ _ _ | .amoXorD _ _ _ _
  | .amoSminD _ _ _ _ | .amoSmaxD _ _ _ _ | .amoUminD _ _ _ _ | .amoUmaxD _ _ _ _ | .amoSwapD _ _ _ _
  | .amoFaddD _ _ _ _ | .amoFminD _ _ _ _ | .amoFmaxD _ _ _ _ | .amoCasD _ _ _ _ | .amoAddW _ _ _ _
  | .amoAndW _ _ _ _ | .amoOrW _ _ _ _ | .amoXorW _ _ _ _ | .amoSminW _ _ _ _ | .amoSmaxW _ _ _ _
  | .amoUminW _ _ _ _ | .amoUmaxW _ _ _ _ | .amoSwapW _ _ _ _ | .amoFaddW _ _ _ _ | .amoFminW _ _ _ _
  | .amoFmaxW _ _ _ _ | .amoCasW _ _ _ _ | .vsto _ _ _ _ _ | .objq _ _ _ | .commit _ _ _ | .decommit _ _
  | .alloc _ _ | .free _ _ _ | .reloc _ _ _ | .objsync _ _ | .fillc _ _ _ | .hdl _ _ _ | .ramoadd _ _ _ _
  | .rcas _ _ _ _ | .fence _ | .fenceAcq _ | .fenceRel _ | .ibrecv _ | .ibpeek _ | .ibdrop | .mfc _ _
  | .mtc _ _ | .live _ | .cancel _ _ _ | .yield | .park | .exit | .trap _ | .brk | .repart _ _ | .pair _
  | .unpair _ | .capr _ _ | .nop | .vfma _ _ _ _ _ _ | .vsel _ _ _ _ _ | .vperm _ _ _ _ _ | .vslide _ _ _ _ _
  | .vcompress _ _ _ _ _ | .vexpand _ _ _ _ _ | .vbcast _ _ _ _ | .vins _ _ _ _ | .vext _ _ _ _
  | .vwhile _ _ _ _ | .vlen _ | .pand _ _ _ | .por _ _ _ | .pxor _ _ _ | .pnot _ _ | .pcnt _ _ _
  | .pfirst _ _ _ | .pset _ _ | .mldb _ _ | .mldbW _ _ | .mmul _ _ | .mmulW _ _ | .mout _ _ _ | .mzero _ _
  | .mtest _ | .mstat _ _ | .cpy _ _ | .cpyx _ _ | .cpyc _ _ | .gath _ _ | .scat _ _ | .scatadd _ _
  | .jpoll _ _ | .jwait _ _ | .creduce _ _ | .rseq _ _ | .rswait _ => true
  | .start | .stop | .redirect | .resume | .step | .heddleCancel | .heddleNone | .reservedCommand
  | .outsideRead | .outsideWrite | .outsideRamoadd | .outsideRcas | .outsideActivation | .borrowWindow
  | .quantumExpiry | .memParkExpiry | .treadleClose | .rowClose | .rowActivation | .creditEarned | .refresh
  | .refreshEnd | .codeRowOpen | .codeRowFill | .longOpDone | .reply | .retry | .retryBackoff
  | .redirectAnswer | .walk | .walkReply | .waitLimitExpiry | .cancelWait | .cancelWaitAnswer
  | .objectAccessArrival | .admission | .fenceProbe | .probeEcho | .fenceEcho | .coreGate | .coreWake
  | .inboxEntry | .activeMessage | .handlerStart | .doorbell | .thaw | .dispatch | .counterPacket
  | .fencePacket | .placement | .reservation | .agentReport | .launchCompletion | .counterDecrement
  | .counterWrite | .priorityLoan | .partitionReset | .swapOut | .swapIn | .checkpoint | .fingerprint
  | .fingerprintTimeout | .shadowCopy | .claim | .relocCopy | .objsyncDrop | .tagAndGranuleRead
  | .phase2Write | .majorityAnswer | .rholdWrite | .stackFailure | .markDown | .markUp | .markRebuild
  | .scrubPass | .pathFailure | .pathRecovery | .powerSample | .hsem | .partitionEnable | .vfReset
  | .tileReassign | .memberWithdrawal | .firmwareStage | .attestationRequest | .bringUp | .corestatWrite
  | .registerWrite | .matrixJob | .mldbJob | .moutJob | .mzeroJob | .mtestJob | .copyJob | .cpyxJob
  | .cpycJob | .pointerWrite | .gathJob | .scatJob | .scataddJob | .rowStep | .serviceInterval
  | .collectiveCombine | .illegalInsn | .bitError | .subArrayFault | .temperatureSensor => true

/-- The places that a step acts on exist. -/
def Event.wf : Event → Bool
  | .start p | .stop p | .redirect p | .resume p | .step p | .heddleCancel p | .heddleNone p
  | .reservedCommand p | .outsideRead p | .outsideWrite p | .outsideRamoadd p | .outsideRcas p
  | .corestatWrite p => p.widx < 512
  | .outsideActivation core k | .borrowWindow core k | .quantumExpiry core k | .memParkExpiry core k
  | .treadleClose core k | .rowClose core k | .rowActivation core k | .refresh core k
  | .refreshEnd core k => core < Config.cores && k < 8
  | .creditEarned core | .codeRowFill core _ _ | .coreGate core | .coreWake core | .handlerStart core
  | .rowStep core | .serviceInterval core => core < Config.cores
  | .codeRowOpen core row | .checkpoint core row | .fingerprint core row _ | .fingerprintTimeout core row
  | .shadowCopy core row _ => core < Config.cores && row < 128
  | .longOpDone t => t.ok
  | .agentReport tile | .tileReassign tile _ | .matrixJob tile | .mldbJob tile | .moutJob tile
  | .mzeroJob tile | .mtestJob tile | .copyJob tile | .cpyxJob tile | .cpycJob tile | .pointerWrite tile
  | .gathJob tile | .scatJob tile | .scataddJob tile | .subArrayFault tile _ => tile < Config.tiles
  | .stackFailure stack | .markDown stack | .markUp stack | .markRebuild stack | .scrubPass stack
  | .temperatureSensor stack _ => stack < Config.stackCount
  | .doorbell q _ | .thaw q | .dispatch q | .counterPacket q | .fencePacket q => q < 2048
  | .counterDecrement n _ _ | .counterWrite n _ _ => n < 65536
  | .partitionEnable slot | .vfReset slot => slot < 64
  | .hsem port _ | .firmwareStage port _ _ => port < 2
  | .memberWithdrawal group _ | .collectiveCombine group => group < 256
  | .bitError t widx _ => t.ok && widx < 512
  | .objectAccessArrival p | .admission p => p.frame.ok && p.off < 4096
  | .tagAndGranuleRead p | .phase2Write p | .majorityAnswer p _ => p.frame.ok && p.trow < 128 && p.granule < 64
  | .walk p | .walkReply p _ => p.tile < Config.tiles && p.place < Config.cores * 524288
  | .contribution group .. => group < 256
  | .hostRow slot _ _ widx _ _ => slot < 64 && widx < 512
  | .hostRead slot _ => slot < 64
  | .reply _ _ | .retry _ | .retryBackoff _ | .redirectAnswer _
  | .waitLimitExpiry _ | .cancelWait _ _ | .cancelWaitAnswer _ _ | .fenceProbe _ _ _ | .probeEcho _ _
  | .fenceEcho _ _ | .inboxEntry _ | .activeMessage _ | .placement _ _ | .reservation _ _
  | .launchCompletion _ | .priorityLoan _ _ _ | .partitionReset _ | .swapOut | .swapIn | .claim _ | .relocCopy _
  | .objsyncDrop _ _ _ | .rholdWrite _ _ | .pathFailure _ | .pathRecovery _ | .powerSample _ _
  | .attestationRequest _ | .bringUp _ _ | .registerWrite _ _ _ _ | .illegalInsn _ | .request _ _ => true

end Sys2Proof
end

