-- ==== Sys2Proof/Decode.lean ====
section
/-! DEFINITION. The decoder of instruction words, total and rejecting by name, and the encoder: the formats of
R279, the fields of R280, the majors and functions of R284 and R285, the fates of R281. -/
namespace Sys2Proof

/-- Why a word is no instruction (R281). -/
inductive Reject
  /-- 0x0000_0000, majors 0x00, 0x35 and 0x3B to 0x3F. -/
  | reservedMajor
  /-- A reserved function, condition, kind, mode, size or chunk value. -/
  | reservedFunction
  /-- An unused register field or a must-be-zero bit is set. -/
  | unusedField
  /-- A type or ftype code the instruction does not accept. -/
  | typeCode
  /-- An ordering or scope code the instruction does not accept. -/
  | orderCode
  /-- A rounding field of 100, 101 or 110. -/
  | roundingField
  deriving DecidableEq, Repr

/-! ## Field codes -/

def Size.code : Size → BitVec 2
  | .b => 0 | .h => 1 | .w => 2 | .d => 3
def Size.ofCode (c : BitVec 2) : Size :=
  match c.toNat with | 0 => .b | 1 => .h | 2 => .w | _ => .d

def Scope.code : Scope → BitVec 3
  | .core => 0 | .tile => 1 | .stack => 2 | .pkg => 3 | .dom => 4
def Scope.ofCode (c : BitVec 3) : Option Scope :=
  match c.toNat with | 0 => some .core | 1 => some .tile | 2 => some .stack | 3 => some .pkg | 4 => some .dom | _ => none

def Order.code : Order → BitVec 2
  | .plain => 0 | .acq _ => 1 | .rel _ => 2 | .ar _ => 3
def Order.scopeCode : Order → BitVec 3
  | .plain => 0 | .acq s | .rel s | .ar s => s.code
/-- ord and scope (R6, R282): plain ordering carries scope 0. -/
def Order.ofCode (o : BitVec 2) (s : BitVec 3) : Option Order :=
  match o.toNat with
  | 0 => if s = 0 then some .plain else none
  | 1 => (Scope.ofCode s).map .acq
  | 2 => (Scope.ofCode s).map .rel
  | _ => (Scope.ofCode s).map .ar

def ROrder.code : ROrder → BitVec 2
  | .plain => 0 | .acq => 1 | .rel => 2 | .ar => 3
def ROrder.ofCode (c : BitVec 2) : ROrder :=
  match c.toNat with | 0 => .plain | 1 => .acq | 2 => .rel | _ => .ar

def VType.code : VType → BitVec 4
  | .i8 => 0 | .i16 => 1 | .i32 => 2 | .i64 => 3 | .z8 => 4 | .z16 => 5 | .z32 => 6 | .z64 => 7
  | .f16 => 8 | .bf16 => 9 | .f32 => 10 | .f64 => 11 | .e4m3 => 12 | .e5m2 => 13
def VType.ofCode (c : BitVec 4) : Option VType :=
  match c.toNat with
  | 0 => some .i8 | 1 => some .i16 | 2 => some .i32 | 3 => some .i64
  | 4 => some .z8 | 5 => some .z16 | 6 => some .z32 | 7 => some .z64
  | 8 => some .f16 | 9 => some .bf16 | 10 => some .f32 | 11 => some .f64
  | 12 => some .e4m3 | 13 => some .e5m2 | _ => none

def FType.code : FType → BitVec 3
  | .f64 => 0 | .f32 => 1 | .bf16 => 2 | .f16 => 3
def FType.ofCode (c : BitVec 3) : Option FType :=
  match c.toNat with | 0 => some .f64 | 1 => some .f32 | 2 => some .bf16 | 3 => some .f16 | _ => none

def Round.code : Round → BitVec 2
  | .rne => 0 | .rtz => 1 | .rdn => 2 | .rup => 3
def Round.ofCode (c : BitVec 2) : Round :=
  match c.toNat with | 0 => .rne | 1 => .rtz | 2 => .rdn | _ => .rup

/-- The rounding field (R226). -/
def RField.code : RField → BitVec 3
  | .static .rne => 0 | .static .rtz => 1 | .static .rdn => 2 | .static .rup => 3 | .dyn => 7
def RField.ofCode (c : BitVec 3) : Option RField :=
  match c.toNat with
  | 0 => some (.static .rne) | 1 => some (.static .rtz) | 2 => some (.static .rdn) | 3 => some (.static .rup)
  | 7 => some .dyn | _ => none

def Prec.code : Prec → BitVec 1
  | .d => 0 | .s => 1
def Prec.ofCode (c : BitVec 1) : Prec :=
  match c.toNat with | 0 => .d | _ => .s

def FCond.code : FCond → BitVec 3
  | .eq => 0 | .ne => 1 | .lt => 2 | .le => 3
def FCond.ofCode (c : BitVec 3) : Option FCond :=
  match c.toNat with | 0 => some .eq | 1 => some .ne | 2 => some .lt | 3 => some .le | _ => none

def VCond.code : VCond → BitVec 4
  | .eq => 0 | .ne => 1 | .lt => 2 | .le => 3 | .gt => 4 | .ge => 5
def VCond.ofCode (c : BitVec 4) : Option VCond :=
  match c.toNat with
  | 0 => some .eq | 1 => some .ne | 2 => some .lt | 3 => some .le | 4 => some .gt | 5 => some .ge | _ => none

def VMode.code : VMode → BitVec 2
  | .write => 0 | .merge => 1 | .and => 2
def VMode.ofCode (c : BitVec 2) : Option VMode :=
  match c.toNat with | 0 => some .write | 1 => some .merge | 2 => some .and | _ => none

def CvtKind.code : CvtKind → BitVec 3
  | .f64 => 0 | .f32 => 1 | .f16 => 2 | .bf16 => 3 | .i64 => 4 | .z64 => 5 | .i32 => 6 | .z32 => 7
def CvtKind.ofCode (c : BitVec 3) : CvtKind :=
  match c.toNat with
  | 0 => .f64 | 1 => .f32 | 2 => .f16 | 3 => .bf16 | 4 => .i64 | 5 => .z64 | 6 => .i32 | _ => .z32

def RedOp.code : RedOp → BitVec 4
  | .sum => 0 | .min => 1 | .max => 2 | .and => 3 | .or => 4 | .xor => 5
def RedOp.ofCode (c : BitVec 4) : Option RedOp :=
  match c.toNat with
  | 0 => some .sum | 1 => some .min | 2 => some .max | 3 => some .and | 4 => some .or | 5 => some .xor | _ => none

def OvMode.code : OvMode → BitVec 2
  | .c3 => 0 | .sat => 1 | .nan => 2
def OvMode.ofCode (c : BitVec 2) : Option OvMode :=
  match c.toNat with | 0 => some .c3 | 1 => some .sat | 2 => some .nan | _ => none

/-! ## Formats (R279), the fields listed from the high bits down -/

def fmtS3 (op : BitVec 6) (d a b : BitVec 6) (fn : BitVec 8) : InsnWord := op ++ d ++ a ++ b ++ fn
def fmtS4 (op : BitVec 6) (d a b c : BitVec 6) (fn : BitVec 2) : InsnWord := op ++ d ++ a ++ b ++ c ++ fn
def fmtSI (op : BitVec 6) (d a : BitVec 6) (i : BitVec 14) : InsnWord := op ++ d ++ a ++ i
def fmtSL (op : BitVec 6) (d : BitVec 6) (i : BitVec 20) : InsnWord := op ++ d ++ i
def fmtRL (op : BitVec 6) (d a : BitVec 6) (z : BitVec 2) (sx : BitVec 1) (o : BitVec 11) : InsnWord :=
  op ++ d ++ a ++ z ++ sx ++ o
def fmtVR (v : BitVec 5) (dir : BitVec 1) (a : BitVec 6) (o : BitVec 9) : InsnWord :=
  0x19#6 ++ v ++ dir ++ a ++ o ++ 0#5
def fmtM (op : BitVec 6) (d a : BitVec 6) (p : BitVec 5) (o : BitVec 2) (s : BitVec 3) (fn : BitVec 4) : InsnWord :=
  op ++ d ++ a ++ p ++ o ++ s ++ fn
def fmtVM (v : BitVec 5) (g : BitVec 3) (p : BitVec 5) (o : BitVec 2) (s : BitVec 3) (t fn : BitVec 4) : InsnWord :=
  0x1D#6 ++ v ++ g ++ p ++ o ++ s ++ t ++ fn
def fmtR (d r : BitVec 6) (w : BitVec 9) (o : BitVec 2) (fn : BitVec 3) : InsnWord :=
  0x1F#6 ++ d ++ r ++ w ++ o ++ fn
def fmtV3 (op : BitVec 6) (v a b : BitVec 5) (g : BitVec 3) (t fn : BitVec 4) : InsnWord :=
  op ++ v ++ a ++ b ++ g ++ t ++ fn
def fmtV4 (v a b c : BitVec 5) (g f : BitVec 3) : InsnWord := 0x27#6 ++ v ++ a ++ b ++ c ++ g ++ f
def fmtVC (op : BitVec 6) (d : BitVec 3) (a b : BitVec 5) (g : BitVec 3) (k t : BitVec 4) (m : BitVec 2) : InsnWord :=
  op ++ d ++ a ++ b ++ g ++ k ++ t ++ m
def fmtVS (v : BitVec 5) (a b : BitVec 6) (g : BitVec 3) (e fn : BitVec 3) : InsnWord :=
  0x2F#6 ++ v ++ a ++ b ++ g ++ e ++ fn

/-- Bits lo + len - 1 : lo of a word. -/
def field (w : InsnWord) (lo len : Nat) : BitVec len := w.extractLsb' lo len

/-- Go on when the condition holds, else reject by name. -/
def need (c : Bool) (r : Reject) (k : Except Reject Instr) : Except Reject Instr := if c then k else .error r

/-- Take a field code, or reject by name. -/
def take {α : Type} (c : Option α) (r : Reject) (k : α → Except Reject Instr) : Except Reject Instr :=
  match c with
  | some x => k x
  | none => .error r

/-- An ordering that the instruction accepts (R286). -/
def takeOrder (w : InsnWord) (ordLo scopeLo : Nat) (accepts : Order → Bool) (k : Order → Except Reject Instr) :
    Except Reject Instr :=
  take (Order.ofCode (field w ordLo 2) (field w scopeLo 3)) .orderCode fun r => need (accepts r) .orderCode (k r)

/-! ## Decoding, a function for each group of majors -/

/-- Major 0x01 (R285, R298). -/
def decodeInt (w : InsnWord) : Except Reject Instr :=
  let d := field w 20 6
  let a := field w 14 6
  let b := field w 8 6
  let un (i : Instr) := need (b == 0) .unusedField (.ok i)
  match (field w 0 8).toNat with
  | 0x00 => .ok (.add d a b) | 0x01 => .ok (.sub d a b) | 0x02 => .ok (.addw d a b) | 0x03 => .ok (.subw d a b)
  | 0x04 => .ok (.and d a b) | 0x05 => .ok (.or d a b) | 0x06 => .ok (.xor d a b) | 0x07 => .ok (.andn d a b)
  | 0x08 => .ok (.orn d a b) | 0x09 => .ok (.shl d a b) | 0x0A => .ok (.shr d a b) | 0x0B => .ok (.sra d a b)
  | 0x0C => .ok (.rol d a b) | 0x0D => .ok (.ror d a b) | 0x0E => .ok (.slt d a b) | 0x0F => .ok (.sltu d a b)
  | 0x10 => .ok (.seq d a b) | 0x11 => .ok (.sne d a b) | 0x12 => .ok (.min d a b) | 0x13 => .ok (.max d a b)
  | 0x14 => .ok (.minu d a b) | 0x15 => .ok (.maxu d a b) | 0x16 => .ok (.sadd d a b) | 0x17 => .ok (.ssub d a b)
  | 0x18 => un (.clz d a) | 0x19 => un (.ctz d a) | 0x1A => un (.popc d a) | 0x1B => un (.brev d a)
  | 0x1C => un (.bswap d a) | 0x1D => un (.sextb d a) | 0x1E => un (.sexth d a) | 0x1F => un (.sextw d a)
  | 0x20 => un (.zextw d a) | 0x21 => un (.zextb d a) | 0x22 => un (.zexth d a)
  | _ => .error .reservedFunction

/-- Major 0x02 (R285, R299). -/
def decodeMul (w : InsnWord) : Except Reject Instr :=
  let d := field w 20 6
  let a := field w 14 6
  let b := field w 8 6
  match (field w 0 8).toNat with
  | 0x00 => .ok (.mul d a b) | 0x01 => .ok (.mulh d a b) | 0x02 => .ok (.mulhu d a b) | 0x03 => .ok (.mulhsz d a b)
  | 0x04 => .ok (.mulw d a b) | 0x05 => .ok (.div d a b) | 0x06 => .ok (.divu d a b) | 0x07 => .ok (.rem d a b)
  | 0x08 => .ok (.remu d a b) | 0x09 => .ok (.divw d a b) | 0x0A => .ok (.remw d a b)
  | _ => .error .reservedFunction

/-- Major 0x09, SHIFTI (R301). -/
def decodeShift (w : InsnWord) : Except Reject Instr :=
  let d := field w 20 6
  let a := field w 14 6
  let k := field w 0 6
  need (field w 6 6 == 0) .unusedField <|
  match (field w 12 2).toNat with
  | 0 => .ok (.shli d a k) | 1 => .ok (.shri d a k) | 2 => .ok (.srai d a k) | _ => .ok (.rori d a k)

/-- Major 0x0C (R307 to R310). -/
def decodeFp (w : InsnWord) : Except Reject Instr :=
  let d := field w 20 6
  let a := field w 14 6
  let b := field w 8 6
  let p := Prec.ofCode (field w 7 1)
  let rnd (k : RField → Except Reject Instr) := take (RField.ofCode (field w 4 3)) .roundingField k
  let un (k : Except Reject Instr) := need (b == 0) .unusedField k
  let z (i : Instr) := need (field w 4 3 == 0) .unusedField (.ok i)
  match (field w 0 4).toNat with
  | 0 => rnd fun r => .ok (.fadd d a b p r)
  | 1 => rnd fun r => .ok (.fsub d a b p r)
  | 2 => rnd fun r => .ok (.fmul d a b p r)
  | 3 => rnd fun r => .ok (.fdiv d a b p r)
  | 4 => un (rnd fun r => .ok (.fsqrt d a p r))
  | 5 => z (.fmin d a b p)
  | 6 => z (.fmax d a b p)
  | 7 => take (FCond.ofCode (field w 4 3)) .reservedFunction fun c => .ok (.fcmp d a b p c)
  | 8 => un (z (.fkind d a p))
  | 9 =>
    let dst := CvtKind.ofCode (field w 11 3)
    let src := CvtKind.ofCode (field w 8 3)
    need (field w 7 1 == 0) .unusedField <|
    need (dst != src && (dst.isFloat || src.isFloat)) .reservedFunction <|
    rnd fun r => .ok (.fcvt d a dst src r)
  | 10 => z (.fcopys d a b p)
  | 11 => un (z (.fabs d a p))
  | 12 => un (z (.fneg d a p))
  | _ => .error .reservedFunction

/-- Majors 0x0D and 0x0E (R311). -/
def decodeFma (w : InsnWord) (p : Prec) : Except Reject Instr :=
  let d := field w 20 6
  let a := field w 14 6
  let b := field w 8 6
  let c := field w 2 6
  match p, (field w 0 2).toNat with
  | .d, 0 => .ok (.ffmaD d a b c) | .d, 1 => .ok (.ffmsD d a b c)
  | .d, 2 => .ok (.fnmaD d a b c) | .d, _ => .ok (.fnmsD d a b c)
  | .s, 0 => .ok (.ffmaS d a b c) | .s, 1 => .ok (.ffmsS d a b c)
  | .s, 2 => .ok (.fnmaS d a b c) | .s, _ => .ok (.fnmsS d a b c)

/-- Major 0x17 (R281, R324). -/
def decodeLdr (w : InsnWord) : Except Reject Instr :=
  let z := Size.ofCode (field w 12 2)
  let sx := field w 11 1 == 1
  need (!(z == .d && sx)) .reservedFunction (.ok (.ldr (field w 20 6) (field w 14 6) z sx (field w 0 11)))

/-- Major 0x18 (R281, R324). -/
def decodeStr (w : InsnWord) : Except Reject Instr :=
  need (field w 11 1 == 0) .unusedField
    (.ok (.str (field w 20 6) (field w 14 6) (Size.ofCode (field w 12 2)) (field w 0 11)))

/-- Major 0x19 (R325). -/
def decodeVr (w : InsnWord) : Except Reject Instr :=
  need (field w 0 5 == 0) .unusedField <|
  if field w 20 1 == 0 then .ok (.vldr (field w 21 5) (field w 14 6) (field w 5 9))
  else .ok (.vstr (field w 21 5) (field w 14 6) (field w 5 9))

/-- Major 0x1A (R284, R286, R326, R327). -/
def decodeObj (w : InsnWord) : Except Reject Instr :=
  let d := field w 20 6
  let a := field w 14 6
  let p := field w 9 5
  let da (i : Order → Instr) (acc : Order → Bool) :=
    need (a == 0) .unusedField (takeOrder w 7 4 acc fun r => .ok (i r))
  let aa (i : Order → Instr) (acc : Order → Bool) :=
    need (d == 0) .unusedField (takeOrder w 7 4 acc fun r => .ok (i r))
  match (field w 0 4).toNat with
  | 0 | 1 | 2 | 3 => da (fun r => .ldo d p r (Size.ofCode (field w 0 2))) Order.acqAr
  | 4 | 5 | 6 | 7 => aa (fun r => .sto a p r (Size.ofCode (field w 0 2))) fun _ => true
  | 8 => da (.ldfe d p) Order.acqAr
  | 9 => da (.ldff d p) Order.acqAr
  | 10 => aa (.stef a p) Order.relAr
  | 11 => aa (.stff a p) Order.relAr
  | 12 => need (d == 0 && a == 0) .unusedField (takeOrder w 7 4 Order.relAr fun r => .ok (.sete p r))
  | _ => .error .reservedFunction

/-- Major 0x1B (R328). -/
def decodeAmoD (w : InsnWord) : Except Reject Instr :=
  let d := field w 20 6
  let a := field w 14 6
  let p := field w 9 5
  let k (i : Order → Instr) := takeOrder w 7 4 (fun _ => true) fun r => .ok (i r)
  match (field w 0 4).toNat with
  | 0 => k (.amoAddD d a p) | 1 => k (.amoAndD d a p) | 2 => k (.amoOrD d a p) | 3 => k (.amoXorD d a p)
  | 4 => k (.amoSminD d a p) | 5 => k (.amoSmaxD d a p) | 6 => k (.amoUminD d a p) | 7 => k (.amoUmaxD d a p)
  | 8 => k (.amoSwapD d a p) | 9 => k (.amoFaddD d a p) | 10 => k (.amoFminD d a p) | 11 => k (.amoFmaxD d a p)
  | 12 => k (.amoCasD d a p)
  | _ => .error .reservedFunction

/-- Major 0x1C (R328). -/
def decodeAmoW (w : InsnWord) : Except Reject Instr :=
  let d := field w 20 6
  let a := field w 14 6
  let p := field w 9 5
  let k (i : Order → Instr) := takeOrder w 7 4 (fun _ => true) fun r => .ok (i r)
  match (field w 0 4).toNat with
  | 0 => k (.amoAddW d a p) | 1 => k (.amoAndW d a p) | 2 => k (.amoOrW d a p) | 3 => k (.amoXorW d a p)
  | 4 => k (.amoSminW d a p) | 5 => k (.amoSmaxW d a p) | 6 => k (.amoUminW d a p) | 7 => k (.amoUmaxW d a p)
  | 8 => k (.amoSwapW d a p) | 9 => k (.amoFaddW d a p) | 10 => k (.amoFminW d a p) | 11 => k (.amoFmaxW d a p)
  | 12 => k (.amoCasW d a p)
  | _ => .error .reservedFunction

/-- Major 0x1D (R329). -/
def decodeVobj (w : InsnWord) : Except Reject Instr :=
  let v := field w 21 5
  let g := field w 18 3
  let p := field w 13 5
  let k (acc : Order → Bool) (i : Order → VType → Instr) :=
    take (VType.ofCode (field w 4 4)) .typeCode fun t => takeOrder w 11 8 acc fun r => .ok (i r t)
  match (field w 0 4).toNat with
  | 0 => k Order.acqAr (.vldo v g p)
  | 1 => k (fun _ => true) (.vsto v g p)
  | 2 => k Order.acqAr (.vldb v g p)
  | _ => .error .reservedFunction

/-- Major 0x1E (R331). -/
def decodeMgmt (w : InsnWord) : Except Reject Instr :=
  let d := field w 20 6
  let a := field w 14 6
  let p := field w 9 5
  let k (i : Instr) := need (field w 4 5 == 0) .orderCode (.ok i)
  let k0 (i : Instr) := need (a == 0) .unusedField (k i)
  match (field w 0 4).toNat with
  | 0 => k (.objq d a p) | 1 => k (.commit d a p) | 2 => k0 (.decommit d p) | 3 => k0 (.alloc d p)
  | 4 => k (.free d a p) | 5 => k (.reloc d a p) | 6 => k0 (.objsync d p) | 7 => k (.fillc d a p)
  | _ => .error .reservedFunction

/-- Major 0x1F (R333): RST with word index 496 is HDL. -/
def decodeRow (w : InsnWord) : Except Reject Instr :=
  let d := field w 20 6
  let r := field w 14 6
  let x := field w 5 9
  let o := ROrder.ofCode (field w 3 2)
  match (field w 0 3).toNat with
  | 0 => need (o != .rel) .orderCode (.ok (.rld d r x o))
  | 1 => if x = 496#9 then .ok (.hdl d r o) else .ok (.rst d r x o)
  | 2 => .ok (.ramoadd d r x o)
  | 3 => .ok (.rcas d r x o)
  | _ => .error .reservedFunction

/-- Major 0x20 (R335). -/
def decodeFence (w : InsnWord) : Except Reject Instr :=
  need (field w 5 21 == 0) .unusedField <|
  match (field w 3 2).toNat with
  | 0 => take (Scope.ofCode (field w 0 3)) .orderCode fun s => .ok (.fence s)
  | 1 => take (Scope.ofCode (field w 0 3)) .orderCode fun s => .ok (.fenceAcq s)
  | 2 => take (Scope.ofCode (field w 0 3)) .orderCode fun s => .ok (.fenceRel s)
  | _ => .error .reservedFunction

/-- Major 0x21 (R337 to R339). -/
def decodeMsg (w : InsnWord) : Except Reject Instr :=
  let d := field w 20 6
  let a := field w 14 6
  let p := field w 9 5
  let o := field w 4 5
  match (field w 0 4).toNat with
  | 0 => takeOrder w 7 4 Order.plainRel fun r => .ok (.msend d a p r)
  | 1 => need (a == 0 && p == 0) .unusedField (need (o == 0) .orderCode (.ok (.ibrecv d)))
  | 2 => need (a == 0 && p == 0) .unusedField (need (o == 0) .orderCode (.ok (.ibpeek d)))
  | 3 => need (d == 0 && a == 0 && p == 0) .unusedField (need (o == 0) .orderCode (.ok .ibdrop))
  | _ => .error .reservedFunction

/-- Major 0x22 (R312 to R314). -/
def decodeCtl (w : InsnWord) : Except Reject Instr :=
  let d := field w 20 6
  let a := field w 14 6
  match (field w 4 2).toNat with
  | 0 => need (a == 0 && field w 6 8 == 0) .unusedField (.ok (.mfc d (field w 0 4)))
  | 1 => need (d == 0 && field w 6 8 == 0) .unusedField (.ok (.mtc a (field w 0 4)))
  | 2 => need (d == 0 && a == 0 && field w 0 4 == 0) .unusedField (.ok (.live (field w 6 8)))
  | _ => .error .reservedFunction

/-- Major 0x23 (R372 to R376). -/
def decodeTask (w : InsnWord) : Except Reject Instr :=
  let d := field w 20 6
  let a := field w 14 6
  let p := field w 9 5
  let o := field w 4 5
  match (field w 0 4).toNat with
  | 0 => takeOrder w 7 4 Order.plainRel fun r => .ok (.launch d a p r)
  | 1 => need (d == 0 && p == 0) .unusedField (takeOrder w 7 4 Order.plainRel fun r => .ok (.cntdec a r))
  | 2 => need (d == 0) .unusedField (takeOrder w 7 4 Order.plainRel fun r => .ok (.cntadd a p r))
  | 3 => need (d == 0 && p == 0) .unusedField (takeOrder w 7 4 Order.plainAcq fun r => .ok (.cntwait a r))
  | 4 => need (o == 0) .orderCode (.ok (.cancel d a p))
  | 5 => need (d == 0 && a == 0 && p == 0) .unusedField (need (o == 0) .orderCode (.ok .yield))
  | 6 => need (d == 0 && a == 0 && p == 0) .unusedField (need (o == 0) .orderCode (.ok .park))
  | 7 => need (d == 0 && a == 0 && p == 0) .unusedField (need (o == 0) .orderCode (.ok .exit))
  | _ => .error .reservedFunction

/-- Major 0x24 (R315 to R320). -/
def decodeSys (w : InsnWord) : Except Reject Instr :=
  let d := field w 20 6
  let a := field w 14 6
  let c := field w 4 10
  match (field w 0 4).toNat with
  | 0 => need (d == 0 && a == 0) .unusedField (.ok (.trap c))
  | 1 => need (d == 0 && a == 0 && c == 0) .unusedField (.ok .brk)
  | 2 => need (c == 0) .unusedField (.ok (.repart d a))
  | 3 => need (a == 0 && c == 0) .unusedField (.ok (.pair d))
  | 4 => need (a == 0 && c == 0) .unusedField (.ok (.unpair d))
  | 5 => need (c == 0) .unusedField (.ok (.capr d a))
  | 6 => need (d == 0 && a == 0 && c == 0) .unusedField (.ok .nop)
  | _ => .error .reservedFunction

/-- Major 0x25 (R346). -/
def decodeVint (w : InsnWord) : Except Reject Instr :=
  let v := field w 21 5
  let a := field w 16 5
  let b := field w 11 5
  let g := field w 8 3
  let un (k : Except Reject Instr) := need (b == 0) .unusedField k
  take (VType.ofCode (field w 4 4)) .typeCode fun t => need t.isInt .typeCode <|
  match (field w 0 4).toNat with
  | 0 => .ok (.vadd v a b g t) | 1 => .ok (.vsub v a b g t) | 2 => .ok (.vmul v a b g t) | 3 => .ok (.vmulh v a b g t)
  | 4 => .ok (.vand v a b g t) | 5 => .ok (.vor v a b g t) | 6 => .ok (.vxor v a b g t) | 7 => .ok (.vshl v a b g t)
  | 8 => .ok (.vshr v a b g t) | 9 => .ok (.vsra v a b g t) | 10 => .ok (.vmin v a b g t) | 11 => .ok (.vmax v a b g t)
  | 12 => .ok (.vsadd v a b g t) | 13 => .ok (.vssub v a b g t)
  | 14 => un (.ok (.vabs v a g t)) | _ => un (.ok (.vpopc v a g t))

/-- Major 0x26 (R347). -/
def decodeVfp (w : InsnWord) : Except Reject Instr :=
  let v := field w 21 5
  let a := field w 16 5
  let b := field w 11 5
  let g := field w 8 3
  let un (k : Except Reject Instr) := need (b == 0) .unusedField k
  take (VType.ofCode (field w 4 4)) .typeCode fun t => need t.isArith .typeCode <|
  match (field w 0 4).toNat with
  | 0 => .ok (.vfadd v a b g t) | 1 => .ok (.vfsub v a b g t) | 2 => .ok (.vfmul v a b g t) | 3 => .ok (.vfdiv v a b g t)
  | 4 => un (.ok (.vfsqrt v a g t)) | 5 => .ok (.vfmin v a b g t) | 6 => .ok (.vfmax v a b g t)
  | 7 => un (.ok (.vfabs v a g t)) | 8 => un (.ok (.vfneg v a g t)) | 9 => .ok (.vfcopys v a b g t)
  | _ => .error .reservedFunction

/-- Major 0x27 (R348). -/
def decodeVfma (w : InsnWord) : Except Reject Instr :=
  take (FType.ofCode (field w 0 3)) .typeCode fun f =>
    .ok (.vfma (field w 21 5) (field w 16 5) (field w 11 5) (field w 6 5) (field w 3 3) f)

/-- Major 0x28 (R349). -/
def decodeVcmp (w : InsnWord) : Except Reject Instr :=
  take (VCond.ofCode (field w 6 4)) .reservedFunction fun k =>
  take (VType.ofCode (field w 2 4)) .typeCode fun t => need (t.isInt || t.isArith) .typeCode <|
  take (VMode.ofCode (field w 0 2)) .reservedFunction fun m =>
    .ok (.vcmp (field w 23 3) (field w 18 5) (field w 13 5) (field w 10 3) k t m)

/-- Major 0x29 (R350). -/
def decodeVsel (w : InsnWord) : Except Reject Instr :=
  let v := field w 21 5
  let a := field w 16 5
  let b := field w 11 5
  let g := field w 8 3
  take (VType.ofCode (field w 4 4)) .typeCode fun t =>
  match (field w 0 4).toNat with
  | 0 => .ok (.vsel v a b g t) | 1 => .ok (.vperm v a b g t) | 2 => .ok (.vslide v a b g t)
  | 3 => .ok (.vcompress v a b g t) | 4 => .ok (.vexpand v a b g t)
  | _ => .error .reservedFunction

/-- Major 0x2A (R351). -/
def decodeVcvt (w : InsnWord) : Except Reject Instr :=
  take (VType.ofCode (field w 4 4)) .typeCode fun t =>
  take (VType.ofCode (field w 0 4)) .typeCode fun s =>
  take (RField.ofCode (field w 13 3)) .roundingField fun r =>
  take (OvMode.ofCode (field w 11 2)) .reservedFunction fun o =>
  need (cvtOk t s o) .reservedFunction (.ok (.vcvt (field w 21 5) (field w 16 5) r o (field w 8 3) t s))

/-- Majors 0x2B and 0x2D (R352, R353). -/
def decodeVred (w : InsnWord) (i : VReg → VReg → PReg → VType → RedOp → Instr) : Except Reject Instr :=
  take (RedOp.ofCode (field w 0 4)) .reservedFunction fun o =>
  take (VType.ofCode (field w 4 4)) .typeCode fun t =>
  need (t.isInt || (t.isArith && o.onFloat)) .typeCode <|
  need (field w 11 5 == 0) .unusedField (.ok (i (field w 21 5) (field w 16 5) (field w 8 3) t o))

/-- Major 0x2C (R354). -/
def decodeVmred (w : InsnWord) : Except Reject Instr :=
  take (RedOp.ofCode (field w 6 4)) .reservedFunction fun o =>
  take (VType.ofCode (field w 2 4)) .typeCode fun t =>
  need (t.isInt || (t.isArith && o.onFloat)) .typeCode <|
  need (field w 0 2 == 0) .reservedFunction
    (.ok (.vmred (field w 23 3) (field w 18 5) (field w 13 5) (field w 10 3) o t))

/-- Major 0x2E (R355). -/
def decodeVsfu (w : InsnWord) : Except Reject Instr :=
  let v := field w 21 5
  let a := field w 16 5
  let g := field w 8 3
  take (VType.ofCode (field w 4 4)) .typeCode fun t => need t.isArith .typeCode <|
  need (field w 11 5 == 0) .unusedField <|
  let n (i : Instr) := need (t != .f64) .typeCode (.ok i)
  match (field w 0 4).toNat with
  | 0 => .ok (.vrcp v a g t) | 1 => .ok (.vrsq v a g t)
  | 2 => n (.vexp2 v a g t) | 3 => n (.vlog2 v a g t) | 4 => n (.vsin v a g t) | 5 => n (.vcos v a g t)
  | 6 => n (.vtanh v a g t)
  | _ => .error .reservedFunction

/-- Major 0x2F (R356). -/
def decodeVxs (w : InsnWord) : Except Reject Instr :=
  let v := field w 21 5
  let a := field w 15 6
  let b := field w 9 6
  let g := field w 6 3
  let e := Size.ofCode (field w 3 2)
  need (field w 5 1 == 0) .reservedFunction <|
  match (field w 0 3).toNat with
  | 0 => need (b == 0) .unusedField (.ok (.vbcast v a g e))
  | 1 => need (g == 0) .unusedField (.ok (.vins v a b e))
  | 2 => need (g == 0) .unusedField (.ok (.vext v a b e))
  | 3 => need (g == 0 && field w 24 2 == 0) .unusedField (.ok (.vwhile (field w 21 3) a b e))
  | 4 => need (v == 0 && b == 0 && g == 0 && field w 3 2 == 0) .unusedField (.ok (.vlen a))
  | _ => .error .reservedFunction

/-- Major 0x30 (R358). -/
def decodePred (w : InsnWord) : Except Reject Instr :=
  let d := field w 20 3
  let a := field w 14 3
  let b := field w 8 3
  let pd := field w 23 3 == 0
  let pa := field w 17 3 == 0
  let b0 := field w 8 6 == 0
  let t0 := field w 4 4 == 0
  let three (i : Instr) := need (pd && pa && field w 11 3 == 0 && t0) .unusedField (.ok i)
  match (field w 0 4).toNat with
  | 0 => three (.pand d a b)
  | 1 => three (.por d a b)
  | 2 => three (.pxor d a b)
  | 3 => need (pd && pa && b0 && t0) .unusedField (.ok (.pnot d a))
  | 4 => need (pa && b0) .unusedField (take (VType.ofCode (field w 4 4)) .typeCode fun t => .ok (.pcnt (field w 20 6) a t))
  | 5 => need (pd && pa && b0) .unusedField (take (VType.ofCode (field w 4 4)) .typeCode fun t => .ok (.pfirst d a t))
  | 6 => need (pd && b0 && t0) .unusedField (.ok (.pset d (field w 14 6)))
  | _ => .error .reservedFunction

/-- Majors 0x31, 0x32, 0x34 and 0x36 to 0x3A, format X (R361). -/
def decodeX (w : InsnWord) : Except Reject Instr :=
  let d := field w 20 6
  let a := field w 14 6
  need (field w 8 6 == 0) .unusedField <|
  let u (i : Instr) := need (a == 0) .unusedField (.ok i)
  match (field w 26 6).toNat, (field w 0 8).toNat with
  | 0x31, 0 => .ok (.mldb d a) | 0x31, 1 => .ok (.mldbW d a)
  | 0x32, 0 => .ok (.mmul d a) | 0x32, 1 => .ok (.mmulW d a)
  | 0x34, 0 => .ok (.mzero d a) | 0x34, 1 => u (.mtest d) | 0x34, 2 => .ok (.mstat d a)
  | 0x36, 0 => .ok (.cpy d a) | 0x36, 1 => .ok (.cpyx d a) | 0x36, 2 => .ok (.cpyc d a)
  | 0x37, 0 => .ok (.gath d a) | 0x37, 1 => .ok (.scat d a) | 0x37, 2 => .ok (.scatadd d a)
  | 0x38, 0 => .ok (.jpoll d a) | 0x38, 1 => .ok (.jwait d a)
  | 0x39, 0 => .ok (.creduce d a)
  | 0x3A, 0 => .ok (.rseq d a) | 0x3A, 1 => u (.rswait d)
  | _, _ => .error .reservedFunction

/-- Major 0x33, MOUT (R363). -/
def decodeMout (w : InsnWord) : Except Reject Instr :=
  need (field w 0 4 == 0) .reservedFunction <|
  need (field w 4 5 == 0) .orderCode (.ok (.mout (field w 20 6) (field w 14 6) (field w 9 5)))

/-- One instruction word (R278, R284). -/
def decode (w : InsnWord) : Except Reject Instr :=
  let d := field w 20 6
  let a := field w 14 6
  match (field w 26 6).toNat with
  | 0x01 => decodeInt w
  | 0x02 => decodeMul w
  | 0x03 => .ok (.addi d a (field w 0 14))
  | 0x04 => .ok (.andi d a (field w 0 14))
  | 0x05 => .ok (.ori d a (field w 0 14))
  | 0x06 => .ok (.xori d a (field w 0 14))
  | 0x07 => .ok (.slti d a (field w 0 14))
  | 0x08 => .ok (.sltiu d a (field w 0 14))
  | 0x09 => decodeShift w
  | 0x0A => .ok (.lil d (field w 0 20))
  | 0x0B => need (field w 16 2 == 0) .unusedField (.ok (.lik d (field w 18 2) (field w 0 16)))
  | 0x0C => decodeFp w
  | 0x0D => decodeFma w .d
  | 0x0E => decodeFma w .s
  | 0x0F => .ok (.beq d a (field w 0 14))
  | 0x10 => .ok (.bne d a (field w 0 14))
  | 0x11 => .ok (.blt d a (field w 0 14))
  | 0x12 => .ok (.bge d a (field w 0 14))
  | 0x13 => .ok (.bltu d a (field w 0 14))
  | 0x14 => .ok (.bgeu d a (field w 0 14))
  | 0x15 => .ok (.call d (field w 0 20))
  | 0x16 => .ok (.callr d a (field w 0 14))
  | 0x17 => decodeLdr w
  | 0x18 => decodeStr w
  | 0x19 => decodeVr w
  | 0x1A => decodeObj w
  | 0x1B => decodeAmoD w
  | 0x1C => decodeAmoW w
  | 0x1D => decodeVobj w
  | 0x1E => decodeMgmt w
  | 0x1F => decodeRow w
  | 0x20 => decodeFence w
  | 0x21 => decodeMsg w
  | 0x22 => decodeCtl w
  | 0x23 => decodeTask w
  | 0x24 => decodeSys w
  | 0x25 => decodeVint w
  | 0x26 => decodeVfp w
  | 0x27 => decodeVfma w
  | 0x28 => decodeVcmp w
  | 0x29 => decodeVsel w
  | 0x2A => decodeVcvt w
  | 0x2B => decodeVred w .vred
  | 0x2C => decodeVmred w
  | 0x2D => decodeVred w .vscan
  | 0x2E => decodeVsfu w
  | 0x2F => decodeVxs w
  | 0x30 => decodePred w
  | 0x33 => decodeMout w
  | 0x31 | 0x32 | 0x34 | 0x36 | 0x37 | 0x38 | 0x39 | 0x3A => decodeX w
  | _ => .error .reservedMajor

/-! ## Bytes -/

/-- The little-endian word of four bytes (R1). -/
def wordOfBytes (b0 b1 b2 b3 : Byte) : InsnWord := b3 ++ b2 ++ b1 ++ b0

/-- The four bytes of an instruction word, lowest address first (R1, R278). -/
def bytesOfWord (w : InsnWord) : List Byte := [field w 0 8, field w 8 8, field w 16 8, field w 24 8]

/-- Decode the first instruction of a byte string; `none` when fewer than four bytes are left. -/
def decodeBytes : List Byte → Option (Except Reject Instr × List Byte)
  | b0 :: b1 :: b2 :: b3 :: rest => some (decode (wordOfBytes b0 b1 b2 b3), rest)
  | _ => none

/-- The host's question: the instruction read from a row of the opcode table.  Every instruction has one
32-bit word, so bits numbered above 31 make no instruction. -/
def decodeTableWord (nbits w : Nat) : Option Instr :=
  if 32 < nbits || 4294967296 ≤ w then none
  else match decodeBytes (bytesOfWord (BitVec.ofNat 32 w)) with
    | some (.ok i, _) => some i
    | _ => none

/-- The word of an encoded instruction (R279, R284 to R286); the device's own steps have none. -/
def encode : Instr → Option InsnWord
  | .add d a b => some (fmtS3 0x01 d a b 0x00)
  | .sub d a b => some (fmtS3 0x01 d a b 0x01)
  | .addw d a b => some (fmtS3 0x01 d a b 0x02)
  | .subw d a b => some (fmtS3 0x01 d a b 0x03)
  | .and d a b => some (fmtS3 0x01 d a b 0x04)
  | .or d a b => some (fmtS3 0x01 d a b 0x05)
  | .xor d a b => some (fmtS3 0x01 d a b 0x06)
  | .andn d a b => some (fmtS3 0x01 d a b 0x07)
  | .orn d a b => some (fmtS3 0x01 d a b 0x08)
  | .shl d a b => some (fmtS3 0x01 d a b 0x09)
  | .shr d a b => some (fmtS3 0x01 d a b 0x0A)
  | .sra d a b => some (fmtS3 0x01 d a b 0x0B)
  | .rol d a b => some (fmtS3 0x01 d a b 0x0C)
  | .ror d a b => some (fmtS3 0x01 d a b 0x0D)
  | .slt d a b => some (fmtS3 0x01 d a b 0x0E)
  | .sltu d a b => some (fmtS3 0x01 d a b 0x0F)
  | .seq d a b => some (fmtS3 0x01 d a b 0x10)
  | .sne d a b => some (fmtS3 0x01 d a b 0x11)
  | .min d a b => some (fmtS3 0x01 d a b 0x12)
  | .max d a b => some (fmtS3 0x01 d a b 0x13)
  | .minu d a b => some (fmtS3 0x01 d a b 0x14)
  | .maxu d a b => some (fmtS3 0x01 d a b 0x15)
  | .sadd d a b => some (fmtS3 0x01 d a b 0x16)
  | .ssub d a b => some (fmtS3 0x01 d a b 0x17)
  | .clz d a => some (fmtS3 0x01 d a 0 0x18)
  | .ctz d a => some (fmtS3 0x01 d a 0 0x19)
  | .popc d a => some (fmtS3 0x01 d a 0 0x1A)
  | .brev d a => some (fmtS3 0x01 d a 0 0x1B)
  | .bswap d a => some (fmtS3 0x01 d a 0 0x1C)
  | .sextb d a => some (fmtS3 0x01 d a 0 0x1D)
  | .sexth d a => some (fmtS3 0x01 d a 0 0x1E)
  | .sextw d a => some (fmtS3 0x01 d a 0 0x1F)
  | .zextw d a => some (fmtS3 0x01 d a 0 0x20)
  | .zextb d a => some (fmtS3 0x01 d a 0 0x21)
  | .zexth d a => some (fmtS3 0x01 d a 0 0x22)
  | .mul d a b => some (fmtS3 0x02 d a b 0x00)
  | .mulh d a b => some (fmtS3 0x02 d a b 0x01)
  | .mulhu d a b => some (fmtS3 0x02 d a b 0x02)
  | .mulhsz d a b => some (fmtS3 0x02 d a b 0x03)
  | .mulw d a b => some (fmtS3 0x02 d a b 0x04)
  | .div d a b => some (fmtS3 0x02 d a b 0x05)
  | .divu d a b => some (fmtS3 0x02 d a b 0x06)
  | .rem d a b => some (fmtS3 0x02 d a b 0x07)
  | .remu d a b => some (fmtS3 0x02 d a b 0x08)
  | .divw d a b => some (fmtS3 0x02 d a b 0x09)
  | .remw d a b => some (fmtS3 0x02 d a b 0x0A)
  | .addi d a i => some (fmtSI 0x03 d a i)
  | .andi d a i => some (fmtSI 0x04 d a i)
  | .ori d a i => some (fmtSI 0x05 d a i)
  | .xori d a i => some (fmtSI 0x06 d a i)
  | .slti d a i => some (fmtSI 0x07 d a i)
  | .sltiu d a i => some (fmtSI 0x08 d a i)
  | .shli d a k => some (fmtSI 0x09 d a (0#2 ++ 0#6 ++ k))
  | .shri d a k => some (fmtSI 0x09 d a (1#2 ++ 0#6 ++ k))
  | .srai d a k => some (fmtSI 0x09 d a (2#2 ++ 0#6 ++ k))
  | .rori d a k => some (fmtSI 0x09 d a (3#2 ++ 0#6 ++ k))
  | .lil d i => some (fmtSL 0x0A d i)
  | .lik d c i => some (fmtSL 0x0B d (c ++ 0#2 ++ i))
  | .fadd d a b p r => some (fmtS3 0x0C d a b (p.code ++ r.code ++ 0#4))
  | .fsub d a b p r => some (fmtS3 0x0C d a b (p.code ++ r.code ++ 1#4))
  | .fmul d a b p r => some (fmtS3 0x0C d a b (p.code ++ r.code ++ 2#4))
  | .fdiv d a b p r => some (fmtS3 0x0C d a b (p.code ++ r.code ++ 3#4))
  | .fsqrt d a p r => some (fmtS3 0x0C d a 0 (p.code ++ r.code ++ 4#4))
  | .fmin d a b p => some (fmtS3 0x0C d a b (p.code ++ 0#3 ++ 5#4))
  | .fmax d a b p => some (fmtS3 0x0C d a b (p.code ++ 0#3 ++ 6#4))
  | .fcmp d a b p c => some (fmtS3 0x0C d a b (p.code ++ c.code ++ 7#4))
  | .fkind d a p => some (fmtS3 0x0C d a 0 (p.code ++ 0#3 ++ 8#4))
  | .fcvt d a x y r => some (fmtS3 0x0C d a (x.code ++ y.code) (0#1 ++ r.code ++ 9#4))
  | .fcopys d a b p => some (fmtS3 0x0C d a b (p.code ++ 0#3 ++ 10#4))
  | .fabs d a p => some (fmtS3 0x0C d a 0 (p.code ++ 0#3 ++ 11#4))
  | .fneg d a p => some (fmtS3 0x0C d a 0 (p.code ++ 0#3 ++ 12#4))
  | .ffmaD d a b c => some (fmtS4 0x0D d a b c 0)
  | .ffmsD d a b c => some (fmtS4 0x0D d a b c 1)
  | .fnmaD d a b c => some (fmtS4 0x0D d a b c 2)
  | .fnmsD d a b c => some (fmtS4 0x0D d a b c 3)
  | .ffmaS d a b c => some (fmtS4 0x0E d a b c 0)
  | .ffmsS d a b c => some (fmtS4 0x0E d a b c 1)
  | .fnmaS d a b c => some (fmtS4 0x0E d a b c 2)
  | .fnmsS d a b c => some (fmtS4 0x0E d a b c 3)
  | .beq a b o => some (fmtSI 0x0F a b o)
  | .bne a b o => some (fmtSI 0x10 a b o)
  | .blt a b o => some (fmtSI 0x11 a b o)
  | .bge a b o => some (fmtSI 0x12 a b o)
  | .bltu a b o => some (fmtSI 0x13 a b o)
  | .bgeu a b o => some (fmtSI 0x14 a b o)
  | .call d o => some (fmtSL 0x15 d o)
  | .callr d a i => some (fmtSI 0x16 d a i)
  | .ldr d a z x o => some (fmtRL 0x17 d a z.code (BitVec.ofBool x) o)
  | .str d a z o => some (fmtRL 0x18 d a z.code 0 o)
  | .vldr v a o => some (fmtVR v 0 a o)
  | .vstr v a o => some (fmtVR v 1 a o)
  | .ldo d p r z => some (fmtM 0x1A d 0 p r.code r.scopeCode (0#2 ++ z.code))
  | .sto a p r z => some (fmtM 0x1A 0 a p r.code r.scopeCode (1#2 ++ z.code))
  | .ldfe d p r => some (fmtM 0x1A d 0 p r.code r.scopeCode 8)
  | .ldff d p r => some (fmtM 0x1A d 0 p r.code r.scopeCode 9)
  | .stef a p r => some (fmtM 0x1A 0 a p r.code r.scopeCode 10)
  | .stff a p r => some (fmtM 0x1A 0 a p r.code r.scopeCode 11)
  | .sete p r => some (fmtM 0x1A 0 0 p r.code r.scopeCode 12)
  | .amoAddD d a p r => some (fmtM 0x1B d a p r.code r.scopeCode 0)
  | .amoAndD d a p r => some (fmtM 0x1B d a p r.code r.scopeCode 1)
  | .amoOrD d a p r => some (fmtM 0x1B d a p r.code r.scopeCode 2)
  | .amoXorD d a p r => some (fmtM 0x1B d a p r.code r.scopeCode 3)
  | .amoSminD d a p r => some (fmtM 0x1B d a p r.code r.scopeCode 4)
  | .amoSmaxD d a p r => some (fmtM 0x1B d a p r.code r.scopeCode 5)
  | .amoUminD d a p r => some (fmtM 0x1B d a p r.code r.scopeCode 6)
  | .amoUmaxD d a p r => some (fmtM 0x1B d a p r.code r.scopeCode 7)
  | .amoSwapD d a p r => some (fmtM 0x1B d a p r.code r.scopeCode 8)
  | .amoFaddD d a p r => some (fmtM 0x1B d a p r.code r.scopeCode 9)
  | .amoFminD d a p r => some (fmtM 0x1B d a p r.code r.scopeCode 10)
  | .amoFmaxD d a p r => some (fmtM 0x1B d a p r.code r.scopeCode 11)
  | .amoCasD d a p r => some (fmtM 0x1B d a p r.code r.scopeCode 12)
  | .amoAddW d a p r => some (fmtM 0x1C d a p r.code r.scopeCode 0)
  | .amoAndW d a p r => some (fmtM 0x1C d a p r.code r.scopeCode 1)
  | .amoOrW d a p r => some (fmtM 0x1C d a p r.code r.scopeCode 2)
  | .amoXorW d a p r => some (fmtM 0x1C d a p r.code r.scopeCode 3)
  | .amoSminW d a p r => some (fmtM 0x1C d a p r.code r.scopeCode 4)
  | .amoSmaxW d a p r => some (fmtM 0x1C d a p r.code r.scopeCode 5)
  | .amoUminW d a p r => some (fmtM 0x1C d a p r.code r.scopeCode 6)
  | .amoUmaxW d a p r => some (fmtM 0x1C d a p r.code r.scopeCode 7)
  | .amoSwapW d a p r => some (fmtM 0x1C d a p r.code r.scopeCode 8)
  | .amoFaddW d a p r => some (fmtM 0x1C d a p r.code r.scopeCode 9)
  | .amoFminW d a p r => some (fmtM 0x1C d a p r.code r.scopeCode 10)
  | .amoFmaxW d a p r => some (fmtM 0x1C d a p r.code r.scopeCode 11)
  | .amoCasW d a p r => some (fmtM 0x1C d a p r.code r.scopeCode 12)
  | .vldo v g p r t => some (fmtVM v g p r.code r.scopeCode t.code 0)
  | .vsto v g p r t => some (fmtVM v g p r.code r.scopeCode t.code 1)
  | .vldb v g p r t => some (fmtVM v g p r.code r.scopeCode t.code 2)
  | .objq d a p => some (fmtM 0x1E d a p 0 0 0)
  | .commit d a p => some (fmtM 0x1E d a p 0 0 1)
  | .decommit d p => some (fmtM 0x1E d 0 p 0 0 2)
  | .alloc d p => some (fmtM 0x1E d 0 p 0 0 3)
  | .free d a p => some (fmtM 0x1E d a p 0 0 4)
  | .reloc d a p => some (fmtM 0x1E d a p 0 0 5)
  | .objsync d p => some (fmtM 0x1E d 0 p 0 0 6)
  | .fillc d a p => some (fmtM 0x1E d a p 0 0 7)
  | .rld d r w o => some (fmtR d r w o.code 0)
  | .rst d r w o => some (fmtR d r w o.code 1)
  | .hdl d r o => some (fmtR d r 496#9 o.code 1)
  | .ramoadd d r w o => some (fmtR d r w o.code 2)
  | .rcas d r w o => some (fmtR d r w o.code 3)
  | .fence s => some (fmtS3 0x20 0 0 0 (0#3 ++ 0#2 ++ s.code))
  | .fenceAcq s => some (fmtS3 0x20 0 0 0 (0#3 ++ 1#2 ++ s.code))
  | .fenceRel s => some (fmtS3 0x20 0 0 0 (0#3 ++ 2#2 ++ s.code))
  | .msend d a p r => some (fmtM 0x21 d a p r.code r.scopeCode 0)
  | .ibrecv d => some (fmtM 0x21 d 0 0 0 0 1)
  | .ibpeek d => some (fmtM 0x21 d 0 0 0 0 2)
  | .ibdrop => some (fmtM 0x21 0 0 0 0 0 3)
  | .mfc d n => some (fmtSI 0x22 d 0 (0#8 ++ 0#2 ++ n))
  | .mtc a n => some (fmtSI 0x22 0 a (0#8 ++ 1#2 ++ n))
  | .live k => some (fmtSI 0x22 0 0 (k ++ 2#2 ++ 0#4))
  | .launch d a p r => some (fmtM 0x23 d a p r.code r.scopeCode 0)
  | .cntdec a r => some (fmtM 0x23 0 a 0 r.code r.scopeCode 1)
  | .cntadd a p r => some (fmtM 0x23 0 a p r.code r.scopeCode 2)
  | .cntwait a r => some (fmtM 0x23 0 a 0 r.code r.scopeCode 3)
  | .cancel d a p => some (fmtM 0x23 d a p 0 0 4)
  | .yield => some (fmtM 0x23 0 0 0 0 0 5)
  | .park => some (fmtM 0x23 0 0 0 0 0 6)
  | .exit => some (fmtM 0x23 0 0 0 0 0 7)
  | .trap c => some (fmtSI 0x24 0 0 (c ++ 0#4))
  | .brk => some (fmtSI 0x24 0 0 1)
  | .repart d a => some (fmtSI 0x24 d a 2)
  | .pair d => some (fmtSI 0x24 d 0 3)
  | .unpair d => some (fmtSI 0x24 d 0 4)
  | .capr d a => some (fmtSI 0x24 d a 5)
  | .nop => some (fmtSI 0x24 0 0 6)
  | .vadd v a b g t => some (fmtV3 0x25 v a b g t.code 0)
  | .vsub v a b g t => some (fmtV3 0x25 v a b g t.code 1)
  | .vmul v a b g t => some (fmtV3 0x25 v a b g t.code 2)
  | .vmulh v a b g t => some (fmtV3 0x25 v a b g t.code 3)
  | .vand v a b g t => some (fmtV3 0x25 v a b g t.code 4)
  | .vor v a b g t => some (fmtV3 0x25 v a b g t.code 5)
  | .vxor v a b g t => some (fmtV3 0x25 v a b g t.code 6)
  | .vshl v a b g t => some (fmtV3 0x25 v a b g t.code 7)
  | .vshr v a b g t => some (fmtV3 0x25 v a b g t.code 8)
  | .vsra v a b g t => some (fmtV3 0x25 v a b g t.code 9)
  | .vmin v a b g t => some (fmtV3 0x25 v a b g t.code 10)
  | .vmax v a b g t => some (fmtV3 0x25 v a b g t.code 11)
  | .vsadd v a b g t => some (fmtV3 0x25 v a b g t.code 12)
  | .vssub v a b g t => some (fmtV3 0x25 v a b g t.code 13)
  | .vabs v a g t => some (fmtV3 0x25 v a 0 g t.code 14)
  | .vpopc v a g t => some (fmtV3 0x25 v a 0 g t.code 15)
  | .vfadd v a b g t => some (fmtV3 0x26 v a b g t.code 0)
  | .vfsub v a b g t => some (fmtV3 0x26 v a b g t.code 1)
  | .vfmul v a b g t => some (fmtV3 0x26 v a b g t.code 2)
  | .vfdiv v a b g t => some (fmtV3 0x26 v a b g t.code 3)
  | .vfsqrt v a g t => some (fmtV3 0x26 v a 0 g t.code 4)
  | .vfmin v a b g t => some (fmtV3 0x26 v a b g t.code 5)
  | .vfmax v a b g t => some (fmtV3 0x26 v a b g t.code 6)
  | .vfabs v a g t => some (fmtV3 0x26 v a 0 g t.code 7)
  | .vfneg v a g t => some (fmtV3 0x26 v a 0 g t.code 8)
  | .vfcopys v a b g t => some (fmtV3 0x26 v a b g t.code 9)
  | .vfma v a b c g f => some (fmtV4 v a b c g f.code)
  | .vcmp d a b g k t m => some (fmtVC 0x28 d a b g k.code t.code m.code)
  | .vsel v a b g t => some (fmtV3 0x29 v a b g t.code 0)
  | .vperm v a b g t => some (fmtV3 0x29 v a b g t.code 1)
  | .vslide v a b g t => some (fmtV3 0x29 v a b g t.code 2)
  | .vcompress v a b g t => some (fmtV3 0x29 v a b g t.code 3)
  | .vexpand v a b g t => some (fmtV3 0x29 v a b g t.code 4)
  | .vcvt v a r o g t s => some (fmtV3 0x2A v a (r.code ++ o.code) g t.code s.code)
  | .vred v a g t o => some (fmtV3 0x2B v a 0 g t.code o.code)
  | .vmred d a b g o t => some (fmtVC 0x2C d a b g o.code t.code 0)
  | .vscan v a g t o => some (fmtV3 0x2D v a 0 g t.code o.code)
  | .vrcp v a g t => some (fmtV3 0x2E v a 0 g t.code 0)
  | .vrsq v a g t => some (fmtV3 0x2E v a 0 g t.code 1)
  | .vexp2 v a g t => some (fmtV3 0x2E v a 0 g t.code 2)
  | .vlog2 v a g t => some (fmtV3 0x2E v a 0 g t.code 3)
  | .vsin v a g t => some (fmtV3 0x2E v a 0 g t.code 4)
  | .vcos v a g t => some (fmtV3 0x2E v a 0 g t.code 5)
  | .vtanh v a g t => some (fmtV3 0x2E v a 0 g t.code 6)
  | .vbcast v a g e => some (fmtVS v a 0 g (0#1 ++ e.code) 0)
  | .vins v a b e => some (fmtVS v a b 0 (0#1 ++ e.code) 1)
  | .vext v a b e => some (fmtVS v a b 0 (0#1 ++ e.code) 2)
  | .vwhile d a b e => some (fmtVS (0#2 ++ d) a b 0 (0#1 ++ e.code) 3)
  | .vlen a => some (fmtVS 0 a 0 0 0 4)
  | .pand d a b => some (fmtS3 0x30 (0#3 ++ d) (0#3 ++ a) (0#3 ++ b) 0)
  | .por d a b => some (fmtS3 0x30 (0#3 ++ d) (0#3 ++ a) (0#3 ++ b) 1)
  | .pxor d a b => some (fmtS3 0x30 (0#3 ++ d) (0#3 ++ a) (0#3 ++ b) 2)
  | .pnot d a => some (fmtS3 0x30 (0#3 ++ d) (0#3 ++ a) 0 3)
  | .pcnt d a t => some (fmtS3 0x30 d (0#3 ++ a) 0 (t.code ++ 4#4))
  | .pfirst d a t => some (fmtS3 0x30 (0#3 ++ d) (0#3 ++ a) 0 (t.code ++ 5#4))
  | .pset d a => some (fmtS3 0x30 (0#3 ++ d) a 0 6)
  | .mldb d a => some (fmtS3 0x31 d a 0 0)
  | .mldbW d a => some (fmtS3 0x31 d a 0 1)
  | .mmul d a => some (fmtS3 0x32 d a 0 0)
  | .mmulW d a => some (fmtS3 0x32 d a 0 1)
  | .mout d a p => some (fmtM 0x33 d a p 0 0 0)
  | .mzero d a => some (fmtS3 0x34 d a 0 0)
  | .mtest d => some (fmtS3 0x34 d 0 0 1)
  | .mstat d a => some (fmtS3 0x34 d a 0 2)
  | .cpy d a => some (fmtS3 0x36 d a 0 0)
  | .cpyx d a => some (fmtS3 0x36 d a 0 1)
  | .cpyc d a => some (fmtS3 0x36 d a 0 2)
  | .gath d a => some (fmtS3 0x37 d a 0 0)
  | .scat d a => some (fmtS3 0x37 d a 0 1)
  | .scatadd d a => some (fmtS3 0x37 d a 0 2)
  | .jpoll d a => some (fmtS3 0x38 d a 0 0)
  | .jwait d a => some (fmtS3 0x38 d a 0 1)
  | .creduce d a => some (fmtS3 0x39 d a 0 0)
  | .rseq d a => some (fmtS3 0x3A d a 0 0)
  | .rswait d => some (fmtS3 0x3A d 0 0 1)
  | .start | .stop | .redirect | .resume | .step | .heddleCancel | .heddleNone | .reservedCommand
  | .outsideRead | .outsideWrite | .outsideRamoadd | .outsideRcas | .outsideActivation | .borrowWindow
  | .quantumExpiry | .memParkExpiry | .treadleClose | .rowClose | .rowActivation | .creditEarned | .refresh
  | .refreshEnd | .codeRowOpen | .codeRowFill | .longOpDone | .reply | .retry | .retryBackoff
  | .redirectAnswer | .walk | .walkReply | .waitLimitExpiry | .cancelWait | .cancelWaitAnswer
  | .objectAccessArrival | .admission | .fenceProbe | .probeEcho | .fenceEcho | .coreGate | .coreWake
  | .inboxEntry | .activeMessage | .handlerStart | .doorbell | .thaw | .dispatch | .counterPacket
  | .fencePacket | .placement | .reservation | .agentReport | .launchCompletion | .counterDecrement
  | .counterWrite | .priorityLoan | .partitionReset | .swapOut | .swapIn | .checkpoint | .fingerprint
  | .fingerprintTimeout | .shadowCopy | .claim | .relocCopy | .objsyncDrop | .tagAndGranuleRead
  | .phase2Write | .majorityAnswer | .rholdWrite | .stackFailure | .markDown | .markUp | .markRebuild
  | .scrubPass | .pathFailure | .pathRecovery | .powerSample | .hsem | .partitionEnable | .vfReset
  | .tileReassign | .memberWithdrawal | .firmwareStage | .attestationRequest | .bringUp | .corestatWrite
  | .registerWrite | .matrixJob | .mldbJob | .moutJob | .mzeroJob | .mtestJob | .copyJob | .cpyxJob
  | .cpycJob | .pointerWrite | .gathJob | .scatJob | .scataddJob | .rowStep | .serviceInterval
  | .collectiveCombine | .illegalInsn | .bitError | .subArrayFault | .temperatureSensor => none

end Sys2Proof
end

