-- ==== Sys2Proof/Machine/State.lean ====
section
/-! DEFINITION. The state of one N16 module as plain data, and the state after reset (INVENTORY.md, State).
A place of DRAM is a byte address: ((core × 128 + row) × 4096 + offset), with core the logical core number
(stack, tile, index: R67).  A register of a thread is its bytes in the thread's row (R19, R42). -/
namespace Sys2Proof.Machine

/-! ## Rows, subarrays and credits of a core (spec 02) -/

/-- Why a row is being activated: for its thread (R35), to serve outside accesses with the row to reopen
afterwards (R17, R79), or as the reopening that ends a borrow window (R79). -/
inductive Purpose | thread | serve (back : Option Nat) | reopen
  deriving DecidableEq, Repr

/-- What follows a close: nothing, after the treadle closed a thread's row or after an opening for outside accesses (R17), an
activation, a refresh with the row to reopen, or the row sequencer. -/
inductive After | free | served | activate (row : Nat) (p : Purpose) | refresh (back : Option Nat) | take
  deriving DecidableEq, Repr

/-- A subarray's row buffer (R29): closed, waiting for a credit (R36), in the 15 cycles of an activation or a
close (R12), open for a thread, serving outside accesses with so many more of the eight allowed (R17, R79),
in a refresh (R37), or held by the row sequencer (R270). -/
inductive SubMode
  | closed
  | waiting (row : Nat) (p : Purpose) (since : Nat)
  | activating (row : Nat) (p : Purpose)
  | opened (row : Nat)
  | closing (row : Nat) (a : After)
  | serving (row : Nat) (back : Option Nat) (left : Nat)
  | refreshing (back : Option Nat)
  | taken
  deriving DecidableEq, Repr

/-- A row buffer's request for its column's vertical bus (R95). -/
inductive BusSt | none | waiting | granted
  deriving DecidableEq, Repr

/-- A subarray: its mode, the row last closed by the treadle (R11), whether a refresh of it has fallen due (R37), whether its
thread is held out of issue because the treadle acts at the boundary that a long operation has reached (R12, R37), whether the
activation under way spends no credit (R36), whether a credit is held for the activation that follows its close (R36), and its bus
request (R95). -/
structure SubSt where
  mode    : SubMode := .closed
  last    : Option Nat := none
  due     : Bool := false
  hold    : Bool := false
  free    : Bool := false
  kept    : Bool := false
  bus     : BusSt := .none
  deriving DecidableEq, Repr

/-- A register write held back until a long operation ends (R34, R297, R344). -/
inductive RegWrite | none | s (r : Nat) (x : Word) | v (r : Nat) (x : Vec) (mask : Pred)
  deriving DecidableEq, Repr

/-- A long operation in progress: its end, its result and the flags it raises (R34, R228). -/
structure LongOp where
  due   : Nat
  write : RegWrite
  flags : Word
  deriving DecidableEq, Repr

/-- What a core keeps for a thread outside its row. -/
structure ThrCtl where
  /-- Cycle of the last issue (R33). -/
  lastIssue : Option Nat := none
  /-- The long operation that holds it out of issue (R34). -/
  long      : Option LongOp := none
  /-- Instructions issued since the row opened (R35). -/
  issued    : Nat := 0
  /-- The launch's quantum, 0 for the core's (R10). -/
  quantum   : Nat := 0
  /-- A STEP is in progress (R75), and the packet whose sender hears of its end (R65). -/
  stepping  : Bool := false
  stepPkt   : Option RowPkt := none
  /-- Cycle in which the thread parked (R35). -/
  parkedAt  : Nat := 0
  /-- The reply that arrived while the row was closed (R28). -/
  reply     : Option (Nat × Ans) := none
  /-- Heddle commands that wait for the outstanding instruction to be settled (R77). -/
  cmds      : List RowPkt := []
  /-- It waits for a code row being opened in a fetch buffer (R32). -/
  codeWait  : Bool := false
  /-- YIELD: resume at the slot's next turn (R376). -/
  yielded   : Bool := false
  /-- Launch index of the thread (R49). -/
  index     : Nat := 0
  deriving DecidableEq, Repr

/-- Whose job an engine's access belongs to, or that it is a row write of the distributor or the I/O die: which credits (R36) and which
bus requests (R95) it competes with. -/
inductive FeedCls | matrix | copy | gather | scrub | system
  deriving DecidableEq, Repr

/-- What a job's access does at its admission (R262, R266, R275): it fetches the granule for the job; it meets a granule that
the job's own step acts on (log 4); it writes words, by address with bits and mask, full where `full` says so; or it adds to
the 32-bit element at an offset of the granule. -/
inductive FeedDo
  | fetch
  | meet
  | put (full : Bool) (ws : List (Nat × Word × Word))
  | add (f32 : Bool) (off : Nat) (x : Nat)
  deriving DecidableEq, Repr

/-- An access of an engine's job: the granule, the job's number, what it does; of a write the slot of the object's partition, its
handle, sub-tile and generation as it was translated (R104), whether its sub-tiles have frames, and how many of the job's
elements come before its first; the engine's tile, and its place in that tile's order of translations (R155). -/
structure Feed where
  gran   : Nat
  no     : Nat := 0
  cls    : FeedCls := .copy
  tile   : Nat := 0
  seq    : Nat := 0
  act    : FeedDo
  slot   : Nat := 0
  oh     : Nat := 0
  sub    : Nat := 0
  gen    : Nat := 0
  framed : Bool := false
  first  : Nat := 0
  deriving DecidableEq, Repr

/-- A granule that a job has fetched: its bytes, and the offsets of its poisoned words. -/
structure Granule where
  gran : Nat
  data : BitVec 512
  bad  : List Nat
  deriving DecidableEq, Repr

/-- While a job's own step runs: what it has fetched, whether each element is an access of its own (R266), the writes that it
sends, and whether some leave the module. -/
structure Acting where
  got  : List Granule := []
  each : Bool := false
  out  : List Feed := []
  far  : Bool := false
  deriving DecidableEq, Repr

/-- What a queued access does when it is served: a step of the part, the row-side cache's own fill (R97), or an access of an
engine's job; whether it was admitted on its arrival. -/
inductive QDo | step (e : Event) | fill | feed (f : Feed) (early : Bool)
  deriving DecidableEq, Repr

/-- An access queued at a core's ingress (R70, R79, R92): arrival, row, and what it does. -/
structure QEnt where
  arr : Nat
  row : Nat
  act : QDo
  deriving DecidableEq, Repr

/-- A code row (R32): its row 85 to 95, the code object and the part of 1,024 instructions it caches. -/
structure CodeRow where
  row    : Nat
  handle : Nat
  part   : Nat
  deriving DecidableEq, Repr

/-- What a sequencer kernel does: its subarrays are being closed (R270), it stands at a step boundary (and has looked for
outside accesses there or not), a row step is under way, a service interval with so many more accesses and the row last
activated in it (R271), or it ends with a status word after a spill (R273). -/
inductive SeqPhase | starting | ready (looked : Bool) | stepping | serving (left : Nat) (row : Option Nat) | ending (status : Word)
  deriving DecidableEq, Repr

/-- A kernel of the row sequencer (R267 to R273): job, block words, the chain it started with, the next step and the steps
run under this command, the accumulator row, when its present activity ends, the free values in its spill rows, and its
completion. -/
structure SeqSt where
  thr     : Thr
  block   : List Word
  chain   : List Word
  key     : BitVec 16
  priv    : Bool
  stepNo  : Nat
  ran     : Nat
  acc     : List Byte
  cancel  : Bool
  status  : Option Word
  phase   : SeqPhase := .starting
  endAt   : Nat := 0
  spilled : Nat := 0
  deriving DecidableEq, Repr

/-- A core outside its rows. -/
structure CoreSt where
  subs      : List SubSt := List.replicate 8 {}
  /-- When the next refresh falls due, and of which subarray (R37). -/
  refAt     : Nat := 4200000
  refSub    : Nat := 0
  thr       : List (Nat × ThrCtl) := []
  /-- CORESTAT CREDIT, EARN, WIDEM, QUANT and ACTCOUNT (R31). -/
  credits   : Nat := 32
  earnFrom  : Nat := 0
  wide      : Bool := false
  quantum   : Nat := 4096
  actCount  : Word := 0
  /-- The outside-access queue with the packets held behind it at the tile interface (R79). -/
  oq        : List QEnt := []
  /-- Inbox entries in arrival order: slot, addressed row, scope of a release message (R109, R338). -/
  ibOrder   : List (Nat × Nat × Option Scope) := []
  /-- Inbox entries held at the tile interface (R109). -/
  ibHeld    : List InboxMsg := []
  /-- Wait-list slots in arrival order, with the request each serves (R103). -/
  waits     : List (Nat × Nat) := []
  /-- The code-row directory, least recently used first (R32). -/
  code      : List CodeRow := []
  /-- Rows open in the two fetch buffers, least recently used first (R32). -/
  buffers   : List Nat := []
  /-- A handler runs in the service slot (R108). -/
  handler   : Bool := false
  /-- Messages held for the service slot (R108). -/
  msgs      : List Msg := []
  gated     : Bool := false
  /-- Packets that the tile interface holds, for a gated core until it wakes (R82) or behind a full queue (R79). -/
  held      : List (Nat × QDo) := []
  /-- Cycle of the last activation (R81). -/
  lastAct   : Nat := 0
  /-- Accesses held for a MOVING frame (R171). -/
  moving    : List ObjPkt := []
  seq       : Option SeqSt := none
  /-- Kernels stopped by their step count, in their spill rows (R273). -/
  spilled   : List SeqSt := []
  /-- Kernels whose completion is held for RSWAIT, JWAIT or JPOLL (R369). -/
  finished  : List SeqSt := []
  /-- RSEQ commands waiting for the sequencer (R267). -/
  seqWait   : List Nat := []
  deriving DecidableEq, Repr

/-! ## Tiles (spec 10, 17, 18) -/

/-- A sub-tile cache entry (R153): word 0 of a RESIDENT table entry. -/
structure SubEnt where
  handle : Nat
  sub    : Nat
  w0     : Word
  deriving DecidableEq, Repr

/-- A job of an engine queue (R210, R252, R258 to R260): the entry, the command, its issuer, block and formats
as copied at issue, the waiting thread's request, and its completion. -/
structure Job where
  entry   : Nat
  cmd     : Instr
  thr     : Thr
  block   : List Word
  fmt     : Word
  key     : BitVec 16
  priv    : Bool
  /-- The request of a waiting form, 0 for none. -/
  req     : Nat
  /-- The job's number, whether its granules have been fetched and its own step may act, how many of its accesses are under
  way, those that follow them, and what it has fetched (R36, R266, R275, log 4). -/
  no      : Nat := 0
  ready   : Bool := false
  feeding : Nat := 0
  todo    : List Feed := []
  got     : List Granule := []
  /-- The status word of a job whose writes are under way (R262), and the first of them that failed: the elements before it and
  its status word (R259). -/
  done    : Option Word := none
  failed  : Option (Nat × Word) := none
  status  : Option Word := none
  cancel  : Bool := false
  /-- JWAITs parked on the job (R365). -/
  waiters : List Nat := []
  /-- Pointer values still to write (R263), the request of the release that the next one waits for, 0 for none, and the status
  word that follows them. -/
  ptrs    : List Nat := []
  release : Nat := 0
  result  : Word := 0
  deriving DecidableEq, Repr

/-- Format tag of an accumulator bank (R240). -/
inductive AccTag | none | f32 | i32
  deriving DecidableEq, Repr

/-- An accumulator bank (R240): its tag and its 128 × 128 elements, row by row; no elements means zeros. -/
structure AccBank where
  tag   : AccTag := .none
  cells : List (BitVec 32) := []
  deriving DecidableEq, Repr

/-- A B bank (R244): EMPTY, STREAM, or LOADED with its format, F, the presence of each 16 × 16 block by block rows,
the logical B by rows of 128 elements, its block size, and the layout of its blocks: sub-array and number of each 16 × 16 block. -/
inductive BBank
  | empty
  | stream
  | loaded (fmt : Nat) (f : Nat) (present : List Bool) (data : List Byte) (size : Nat) (layout : List (Nat × Nat))
  deriving DecidableEq, Repr

/-- A request of a row buffer for the vertical bus (R95): core, subarray, layer, and how many cycles of 64 bytes it needs beyond
the next one. -/
structure BusReq where
  core  : Nat
  sub   : Nat
  layer : Nat
  more  : Nat
  deriving DecidableEq, Repr

/-- A class of requests at a vertical bus (R95, R96): the raised ones, one of a core, those that stand behind another of their
core in the order in which they came, and the layer L that last won. -/
structure BusClass where
  raised : List BusReq := []
  behind : List BusReq := []
  last   : Nat := 15
  deriving DecidableEq, Repr

/-- The vertical bus of a column (R95): its two classes, and the base-die cycle in which bulk last won. -/
structure ColumnSt where
  ord    : BusClass := {}
  bulk   : BusClass := {}
  bulkAt : Option Nat := none
  deriving DecidableEq, Repr

/-- A walk that a tile runs, or has waiting behind 64 others (R153): its number, what it reads, the requests that wait for it, and
whether a drop has overtaken it (R155). -/
structure WalkSt where
  no      : Nat
  addr    : WalkAddr
  waiters : List Nat
  stale   : Bool := false
  deriving DecidableEq, Repr

structure TileSt where
  /-- Vertical buses by column (R95). -/
  columns  : List (Nat × ColumnSt) := []
  /-- Record cache, least recently used first (R153). -/
  recs     : List (Nat × List Word) := []
  /-- Sub-tile cache, least recently used first (R153). -/
  subs     : List SubEnt := []
  /-- Granules in the row-side cache, least recently used first (R97). -/
  grans    : List Nat := []
  /-- Fence probes that wait for earlier accesses: request, probing tile, sending number (R112). -/
  probes   : List (Nat × Nat × Nat) := []
  /-- OBJSYNC drops that wait for translated accesses: request, sending number (R155). -/
  drops    : List (Nat × Nat) := []
  /-- Walks that the tile runs, in the order of the misses (R153). -/
  walking  : List WalkSt := []
  /-- Walks held at this owner for a claimed or MOVING entry (R160). -/
  walks    : List WalkPkt := []
  /-- Claimed entries: object and sub-tile (R160). -/
  claims   : List (Nat × Nat) := []
  jobs     : List Job := []
  copies   : List Job := []
  gathers  : List Job := []
  /-- Requests that wait for a free queue entry (R210, R261). -/
  full     : List Nat := []
  acc      : List AccBank := List.replicate 4 {}
  bbanks   : List BBank := [.empty, .empty]
  /-- Fenced sub-arrays, in the order of fencing (R256). -/
  fenced   : List Nat := []
  /-- Sub-arrays with a fault no self-test has met (R256). -/
  faulty   : List Nat := []
  /-- ENGSTAT (R255). -/
  jobsDone : BitVec 64 := 0
  nanJob   : BitVec 32 := 0
  ovfJob   : BitVec 32 := 0
  suspect  : BitVec 32 := 0
  testInt  : BitVec 8 := 64
  /-- Jobs completed since the last self-test (R256). -/
  sinceTest : Nat := 0
  /-- TILEPART (R203). -/
  slot     : Nat := 0
  assigned : Bool := false
  busy     : Bool := false
  /-- FREE rows of each touched core as last reported to the distributor (R50). -/
  report   : List (Nat × List Nat) := []
  deriving DecidableEq, Repr

/-! ## Stacks (spec 11, 13) -/

/-- A pool's frames on one stack (R167): the free list, head first, and the allocated frames.  A frame is
core × 128 + row. -/
structure PoolSt where
  handle : Nat
  free   : List Nat := []
  alloc  : List Nat := []
  deriving DecidableEq, Repr

structure StackSt where
  pools : List PoolSt := []
  /-- Replica packets held by RHOLD, in arrival order (R177). -/
  held  : List Event := []
  /-- The stack's sensor reads above 85 °C (R37). -/
  hot   : Bool := false
  /-- A scrub pass is in progress (R189): the number of its granules, how many are still queued at their owners, and whether all
  have been read (R36, log 4). -/
  scrub : Bool := false
  scrubNo : Nat := 0
  scrubFeeding : Nat := 0
  scrubReady : Bool := false
  deriving DecidableEq, Repr

/-! ## Requests of parked threads -/

/-- Where a request stands: its release fence, its translation (a walk is out), sent, waiting in backoff after
RETRY (R103), claiming a table entry (R160), waiting for tiles to drop (R155, R161), in an engine or at the
I/O die, at the replicas of a majority object, or answered while its row is closed (R28). -/
inductive Phase | fence | translate | sent | backoff | claim | moving | copying | drop | engine | majority | answered
  deriving DecidableEq, Repr

/-- Whether a cancel-wait is out for it, and why (R77, R78, R105). -/
inductive CancelWait | none | limit | stop
  deriving DecidableEq, Repr

/-- A parked thread's outstanding instruction, kept by its core and tile outside the row (R28). -/
structure Req where
  id      : Nat
  thr     : Thr
  insn    : Instr
  word    : InsnWord
  phase   : Phase
  handle  : Word := 0
  coord   : Word := 0
  x       : Word := 0
  y       : Word := 0
  z       : Word := 0
  vec     : Vec := 0
  key     : BitVec 16 := 0
  priv    : Bool := false
  /-- Its place in the order of its tile's translations (R155). -/
  seq     : Nat := 0
  /-- A register that holds data of the operation is poisoned: what translation traps on comes first (R115, R130). -/
  bad     : Bool := false
  /-- Tiles, and 2048 for the I/O die, whose echoes are awaited (R112); of a majority load, the replicas whose
  answers to its write-back are awaited (R179). -/
  echoes  : List Nat := []
  /-- Bits of c4 that the fence probes for (R112). -/
  mask    : Word := 0
  sub     : Nat := 0
  gen     : Nat := 0
  frame   : Nat := 0
  dev     : Nat := 0
  off     : Nat := 0
  /-- No thread waits for its answer: a held effect of a pair that the leader has sent (R126), or the operation of a
  thread that has ended (R130). -/
  held    : Bool := false
  /-- RETRYs of this issue (R103). -/
  retries : Nat := 0
  /-- When the wait limit expires (R105). -/
  limit   : Option Nat := none
  cw      : CancelWait := .none
  /-- The object that the translation named: the parent's handle through a view (R152). -/
  oh      : Nat := 0
  /-- Replicas: number, frame and tag row; and the quorum (R181, R182). -/
  reps    : List (Nat × Thr × Nat) := []
  quorum  : Nat := 0
  /-- Answers of replicas (R178, R185). -/
  answers : List (Nat × MajAns) := []
  /-- Replicas that will not answer: the packet was outstanding when their stack went DOWN (R188). -/
  lost    : List Nat := []
  round   : Nat := 0
  tag     : Word := 0
  data    : BitVec 512 := 0
  /-- The status that a management operation will answer. -/
  status  : Word := 0
  /-- The command block or packet, copied at issue (R210, R362, R373). -/
  block   : List Word := []
  /-- The sequencer's chain, copied at issue (R269). -/
  chain   : List Word := []
  deriving DecidableEq, Repr

/-! ## The I/O die (spec 03, 08, 13, 14, 18) -/

/-- A COUNTER or FENCE packet that holds dispatch of its queue (R52): it waits on its counter, or has been released by it,
by one that carries ERRTOK or CANCEL or not. -/
inductive QHold | none | waiting | released (cancelled : Bool)
  deriving DecidableEq, Repr

structure QueueSt where
  base   : BitVec 32 := 0
  size   : BitVec 5 := 0
  head   : Word := 0
  tail   : Word := 0
  fence  : Word := 0
  key    : BitVec 16 := 0
  privq  : Bool := false
  frozen : Bool := false
  part   : BitVec 16 := 0
  devfed : Bool := false
  en     : Bool := false
  comp   : Word := 0
  irqEn  : Bool := false
  irqVec : BitVec 11 := 0
  hold   : QHold := .none
  /-- Who issued the LAUNCHes from QFENCE on, with the KEY then: ring index, KEY, thread (R49, R61). -/
  issuers : List (Word × BitVec 16 × Thr) := []
  deriving DecidableEq, Repr

/-- Who waits on a counter (R52, R374): a launch, a queue's held packet, or a CNTWAIT. -/
inductive Waiter | launch (l : Nat) | queue (q : Nat) | request (r : Nat)
  deriving DecidableEq, Repr

structure CounterSt where
  owner   : BitVec 16 := 0
  overrun    : Bool := false
  cancel  : Bool := false
  errtok  : Bool := false
  value   : BitVec 32 := 0
  waiters : List Waiter := []
  deriving DecidableEq, Repr

/-- States of a launch (R53). -/
inductive LState | queued | waiting | ready | placed | complete
  deriving DecidableEq, Repr

/-- A launch's counter slot (R44, R53, R62). -/
structure LaunchSt where
  id       : Nat
  queue    : Nat
  index    : Word
  packet   : List Word
  part     : BitVec 16
  /-- KEY of every thread once KEY 0 is resolved (R49). -/
  key      : BitVec 16
  state    : LState
  status   : Nat := 0
  /-- First row of each thread, follower and shadows apart (R47). -/
  rows     : List Thr := []
  /-- Order of becoming READY (R59). -/
  readyAt  : Nat := 0
  /-- Effective priority (R60). -/
  prio     : Nat := 0
  /-- Launching thread, none for a host-fed queue. -/
  launcher : Option Thr := none
  /-- KEY of the launching thread at its LAUNCH. -/
  lkey     : BitVec 16 := 0
  /-- Threads ended (R53). -/
  ended    : List Thr := []
  failed   : Bool := false
  cancel   : Bool := false
  /-- The packet had been refused by an error token or a cancelled counter. -/
  token    : Bool := false
  swapped  : Bool := false
  /-- Swap object of an ABSENT launch (R122). -/
  swapObj  : Nat := 0
  msgs     : List Msg := []
  /-- Dispatch of its queue has still to pass it (R52, R53). -/
  inRing   : Bool := true
  deriving DecidableEq, Repr

structure PartSt where
  key      : BitVec 16 := 0
  en       : Bool := false
  reset    : Bool := false
  suprow   : Word := 0
  objplace : Word := 0
  lost     : BitVec 32 := 0
  objext   : BitVec 32 := 0
  deriving DecidableEq, Repr

/-- A CREDUCE that the collective unit has accepted (R274). -/
structure Contrib where
  member : BitVec 46
  number : Nat
  req    : Nat
  thr    : Thr
  block  : List Word
  key    : BitVec 16
  priv   : Bool
  data   : List Byte
  deriving DecidableEq, Repr

structure GroupSt where
  count   : Nat := 0
  epoch   : BitVec 16 := 0
  key     : BitVec 16 := 0
  members : List (BitVec 46) := []
  /-- Members present, withdrawn ones left out. -/
  counts  : List (BitVec 46 × Nat) := []
  ops     : List Contrib := []
  deriving DecidableEq, Repr

/-- A request that left the module and is not acknowledged (R196, R197): the tile and thread that sent it, its sending
number, the device, the reference it aims at, the request that its answer ends, 0 for none, and an inbox entry's contents. -/
structure Outbound where
  tile   : Nat
  seq    : Nat
  dev    : Nat
  ref    : Word
  sender : BitVec 46
  req    : Nat
  entry  : Option InboxMsg
  deriving DecidableEq, Repr

structure IoSt where
  queues     : List (Nat × QueueSt) := []
  counters   : List (Nat × CounterSt) := []
  launches   : List LaunchSt := []
  nextLaunch : Nat := 1
  nextReady  : Nat := 0
  swapLaunch : BitVec 24 := 0
  swapHandle : BitVec 32 := 0
  swapStatus : BitVec 2 := 0
  rhold      : BitVec 16 := 0
  health     : BitVec 32 := 0
  devid      : BitVec 19 := 0
  pwrlim     : BitVec 13 := 4800
  pwrWatts   : BitVec 13 := 0
  pwrIssue   : BitVec 32 := 0
  errSingle  : BitVec 32 := 0
  errPoison  : BitVec 32 := 0
  hsem       : BitVec 2 := 0
  parts      : List (Nat × PartSt) := []
  chains     : List (Nat × Word) := []
  groups     : List (Nat × GroupSt) := []
  /-- Requests that left the module and are not acknowledged (R196). -/
  outbound   : List Outbound := []
  /-- Probes of the I/O die that wait for them: request, tile, sending number. -/
  probes     : List (Nat × Nat × Nat) := []
  /-- Packets that left for other modules of the domain, in order: device, packet (R195). -/
  left       : List (Nat × Event) := []
  /-- Devices of the domain with a working path (R195, R197). -/
  domain     : List Nat := []
  /-- The firmware image that is staged, and the one that runs (R207). -/
  image      : List Word := []
  running    : List Word := []
  staged     : Bool := false
  firmwareOk : Bool := true
  nonce      : List Byte := List.replicate 32 0
  reports    : BitVec 64 := 0
  /-- The body of the last attestation report, its signature apart (R207). -/
  report     : List Word := []
  signature  : List Byte := []
  /-- Answers to host accesses, in order (R381). -/
  hostAnswers : List Word := []
  /-- Capability list published (R208 step 4). -/
  published  : Bool := true
  deriving DecidableEq, Repr

/-! ## Pairs (spec 08) -/

/-- How a pair's next checkpoint ends the interval (R125, R128, R372). -/
inductive PairEnd | none | once | exit
  deriving DecidableEq, Repr

/-- A pair (R124 to R128): its rows, c14 at the start of the interval, forwarded values and how many the
follower has taken, held effects, whether the interval has mismatched once, the fingerprints known, and the
outside accesses taken at the next checkpoint. -/
structure PairSt where
  leader   : Thr
  follower : Thr
  start    : Word := 0
  fwd      : List Ans := []
  taken    : Nat := 0
  held     : List Req := []
  missed   : Bool := false
  ending   : PairEnd := .none
  /-- The PC of a once-only instruction and its answer: after a rollback it is not issued again (R125, R129). -/
  again    : Option (Nat × Ans) := none
  /-- A checkpoint is called for the boundary at which c14 is stopAt: a side that stands there is held out of issue. -/
  called   : Bool := false
  stopAt   : Word := 0
  fpLead   : Option Word := none
  fpFoll   : Option Word := none
  /-- The sides are in their shadow copy: commit or restore, and how many are done. -/
  copying  : Option Bool := none
  copied   : Nat := 0
  trapLead : Option (Cause × Word) := none
  trapFoll : Option (Cause × Word) := none
  outside  : List Event := []
  /-- Held effects that a commit has still to send, and the majority store that is out, 0 for none (R126, R191, R193). -/
  sending  : List Req := []
  storing  : Nat := 0
  /-- The pair has ended (R127, R130): its rows wait for the launch's end. -/
  dead     : Bool := false
  deriving DecidableEq, Repr

/-! ## What moves next -/

/-- Traffic classes (R94), and steps of the part itself. -/
inductive Cls | req | rsp | bulk | local
  deriving DecidableEq, Repr

/-- A scheduled step: run it, bring it to a core's ingress for a row, bring a granule of an engine's job there, apply a queued access at the row
buffer of subarray k, or grant the vertical bus of a column. -/
inductive Act
  | run (e : Event)
  | arrive (core row : Nat) (e : Event)
  | feed (f : Feed)
  | serve (core k row : Nat) (q : QDo)
  | bus (tile col : Nat)
  deriving DecidableEq, Repr

/-- A packet or a step on its way (R94: one order for each class, source and destination). -/
structure Sched where
  due : Nat
  cls : Cls
  src : Nat
  dst : Nat
  act : Act
  deriving DecidableEq, Repr

/-! ## The whole -/

/-- The module.  `now`, `agenda`, `cursor`, `cur`, `doing`, `delays`, `fresh`, `nextReq`, `nextSeq`, `trace` and `acting` are the model's
own: they say which step comes next (log 2), how long packets take (log 3), name requests, and hold no part of the module. -/
structure State where
  now     : Nat
  agenda  : List Sched
  /-- Cores that have not yet had their turn in this cycle. -/
  cursor  : List Nat
  /-- The issuing thread: what an encoded instruction acts on. -/
  cur     : Thr
  /-- The word being issued, for c10 (R115). -/
  curWord : InsnWord
  /-- The step of the part being performed, none while an instruction issues. -/
  doing   : Option Event
  delays  : List Nat
  fresh   : Nat
  nextReq : Nat
  nextSeq : Nat
  /-- While a job is tried out to learn which granules it needs, those it has met, newest first, and whether it reads them
  (log 4). -/
  trace   : Option (List (Nat × Bool))
  /-- While a job's own step runs, or is tried out, what it works with. -/
  acting  : Option Acting
  mem     : List Host.Cell
  /-- Addresses of words whose FE is 0 (R98). -/
  empty   : List Nat
  /-- Addresses of words whose POISON is 1 (R98). -/
  poison  : List Nat
  /-- Stored bit errors not yet met: word address, double (R99). -/
  bitErrs : List (Nat × Bool)
  cores   : List (Nat × CoreSt)
  tiles   : List (Nat × TileSt)
  stackSt  : List (Nat × StackSt)
  reqs    : List Req
  io      : IoSt
  pairs   : List PairSt
  /-- Physical cores absent in each carved tile (R91). -/
  absent  : List (Nat × BitVec 512)
  deriving DecidableEq, Repr

/-- Reset: the module after bring-up step 4 (R208), before any fabric manager or host has written: every row
zero with every word full, nothing assigned, every core with 32 credits. -/
def State.reset : State where
  now := 0
  agenda := []
  cursor := []
  cur := ⟨0, 0⟩
  curWord := 0
  doing := none
  delays := []
  fresh := 0
  nextReq := 1
  nextSeq := 1
  trace := none
  acting := none
  mem := []
  empty := []
  poison := []
  bitErrs := []
  cores := []
  tiles := []
  stackSt := []
  reqs := []
  io := {}
  pairs := []
  absent := []

/-- Why the machine stops with a fault. -/
inductive Fault
  /-- A step at no place of the module.  Raised by nothing: no step of the module names such a place, and `step` passes one
  over (R91, log 1); safe. -/
  | noSuchPlace
  deriving DecidableEq, Repr

/-- Why an instruction has no meaning. -/
inductive Refusal
  /-- Not modelled.  Raised by `exec` alone; safe. -/
  | notModelled (mnemonic : String)
  deriving DecidableEq, Repr

end Sys2Proof.Machine
end

