-- ==== Sys2Proof/Machine/Mem.lean ====
section
/-! DEFINITION. Bytes, words and their side bits (R98), tables by key, and the registers of a row (R19, R20, R38). -/
namespace Sys2Proof.Machine

/-! ## Tables by key -/

/-- The entry of a key, or the default. -/
def look {α : Type} (d : α) : List (Nat × α) → Nat → α
  | [], _ => d
  | (k, x) :: l, n => if k = n then x else look d l n

/-- Set the entry of a key; keys stay in rising order. -/
def store {α : Type} : List (Nat × α) → Nat → α → List (Nat × α)
  | [], n, y => [(n, y)]
  | (k, x) :: l, n, y =>
    if n = k then (n, y) :: l else if n < k then (n, y) :: (k, x) :: l else (k, x) :: store l n y

/-- The first element that satisfies a test, taken out of a list. -/
def pick {α : Type} (p : α → Bool) : List α → Option (α × List α)
  | [] => none
  | x :: l => if p x then some (x, l) else (pick p l).map fun r => (r.1, x :: r.2)

/-- Insert a number into a rising list without repeats. -/
def insertNat (n : Nat) : List Nat → List Nat
  | [] => [n]
  | k :: l => if n = k then k :: l else if n < k then n :: k :: l else k :: insertNat n l

/-! ## Memory: one canonical form -/

/-- What a byte that nothing is listed for reads as: bring-up zeroes every row (R208 step 3). -/
def Memory.unlisted : Byte := 0

/-- Addresses strictly rising above a bound, and no entry equal to what an unlisted address reads as. -/
def Memory.wfFrom : Nat → List Host.Cell → Bool
  | _, [] => true
  | lo, (a, b) :: l => lo ≤ a && b != Memory.unlisted && Memory.wfFrom (a + 1) l

/-- The canonical form of memory. -/
def Memory.wf (m : List Host.Cell) : Bool := Memory.wfFrom 0 m

/-- Read one byte. -/
def Memory.get : List Host.Cell → Nat → Byte
  | [], _ => Memory.unlisted
  | (k, b) :: l, a => if k = a then b else Memory.get l a

/-- The cells of a run of bytes, those that read as unlisted left out. -/
def Memory.cells (lo : Nat) : List Byte → List Host.Cell
  | [] => []
  | b :: bs => if b = Memory.unlisted then Memory.cells (lo + 1) bs else (lo, b) :: Memory.cells (lo + 1) bs

/-- Write a run of bytes. -/
def Memory.put (m : List Host.Cell) (lo : Nat) (bs : List Byte) : List Host.Cell :=
  m.filter (fun c => c.1 < lo) ++ Memory.cells lo bs ++ m.filter (fun c => lo + bs.length ≤ c.1)

/-- Read a run of bytes. -/
def Memory.slice (m : List Host.Cell) (lo n : Nat) : List Byte :=
  let w := m.filter fun c => lo ≤ c.1 && c.1 < lo + n
  (List.range n).map fun i => Memory.get w (lo + i)

/-! ## Bytes and words (R1: little-endian) -/

/-- The number that bytes spell, lowest address first. -/
def ofBytes : List Byte → Nat
  | [] => 0
  | b :: bs => b.toNat + 256 * ofBytes bs

/-- The n bytes of a number, lowest address first. -/
def toBytes : Nat → Nat → List Byte
  | 0, _ => []
  | n + 1, x => BitVec.ofNat 8 x :: toBytes n (x / 256)

/-! ## Places -/

/-- Byte 0 of a row. -/
def rowAddr (core row : Nat) : Nat := (core * 128 + row) * 4096
/-- The tile of a core (R46: bits 19:9). -/
def tileOf (core : Nat) : Nat := core / 512
/-- The stack of a core (R67). -/
def stackOf (core : Nat) : Nat := core / 65536
/-- The core of a byte address. -/
def coreOfAddr (a : Nat) : Nat := a / 524288
/-- The row of a byte address. -/
def rowOfAddr (a : Nat) : Nat := a / 4096 % 128
/-- Byte a of a thread's own row; from 4096 on, of its second row (R38). -/
def ownAddr (t : Thr) (a : Nat) : Nat :=
  if a < 4096 then rowAddr t.core t.row + a else rowAddr t.core (t.row + 12) + (a - 4096)
/-- The I/O die as an end of packets. -/
def ioDie : Nat := 2048

/-! ## Words with their side bits -/

def getBytes (s : State) (a n : Nat) : List Byte := Memory.slice s.mem a n
def getNat (s : State) (a n : Nat) : Nat := ofBytes (getBytes s a n)
/-- The 64-bit word at an address. -/
def getWord (s : State) (a : Nat) : Word := BitVec.ofNat 64 (getNat s a 8)
/-- FE of the word at an address (R98). -/
def isFull (s : State) (a : Nat) : Bool := !s.empty.contains a
/-- POISON of the word at an address (R98). -/
def isPoisoned (s : State) (a : Nat) : Bool := s.poison.contains a

/-- Set FE of a word. -/
def setFull (s : State) (a : Nat) (full : Bool) : State :=
  { s with empty := if full then s.empty.filter (· != a) else insertNat a s.empty }

/-- Write bytes: words written whole lose POISON, others keep it (R99); FE stays (R100). -/
def putBytes (s : State) (a : Nat) (bs : List Byte) : State :=
  { s with mem := Memory.put s.mem a bs
           poison := s.poison.filter fun p => !(a ≤ p && p + 8 ≤ a + bs.length)
           bitErrs := s.bitErrs.filter fun p => !(a ≤ p.1 && p.1 + 8 ≤ a + bs.length) }

def putWord (s : State) (a : Nat) (x : Word) : State := putBytes s a (toBytes 8 x.toNat)

/-- Set FE full on every word of a run of bytes (R100). -/
def fillFE (s : State) (a n : Nat) : State :=
  { s with empty := s.empty.filter fun p => !(a / 8 * 8 ≤ p && p < a + n) }

/-- Write bytes with every word they touch set full (R100: engine writes, placement, COMMIT). -/
def putFull (s : State) (a : Nat) (bs : List Byte) : State := fillFE (putBytes s a bs) a bs.length

/-- Zero a whole row with every word full (R54, R136, R203). -/
def zeroRow (s : State) (core row : Nat) : State := putFull s (rowAddr core row) (List.replicate 4096 0)

/-- A read meets stored bit errors: one bit is corrected and counted, two set POISON (R99). -/
def touchWord (s : State) (a : Nat) : State :=
  match pick (fun p => p.1 == a) s.bitErrs with
  | none => s
  | some ((_, false), rest) =>
    { s with bitErrs := rest
             io := { s.io with errSingle := if s.io.errSingle = 0xFFFFFFFF#32 then s.io.errSingle else s.io.errSingle + 1 } }
  | some ((_, true), rest) =>
    { s with bitErrs := rest
             poison := insertNat a s.poison
             io := { s.io with errPoison := if s.io.errPoison = 0xFFFFFFFF#32 then s.io.errPoison else s.io.errPoison + 1 } }

/-- Every word that holds one of n bytes at a. -/
def wordsOf (a n : Nat) : List Nat := (List.range ((a + n + 7) / 8 - a / 8)).map fun i => (a / 8 + i) * 8

/-- Read a run: meet its bit errors. -/
def touch (s : State) (a n : Nat) : State := (wordsOf a n).foldl touchWord s

/-- A run holds a poisoned word. -/
def runPoisoned (s : State) (a n : Nat) : Bool := (wordsOf a n).any (isPoisoned s)

/-- Copy a row whole, with the side bits of its words (R98). -/
def copyRow (s : State) (src dst : Thr) : State :=
  let a := rowAddr src.core src.row
  let b := rowAddr dst.core dst.row
  let s := touch s a 4096
  let e := s.empty.filter fun p => a ≤ p && p < a + 4096
  let q := s.poison.filter fun p => a ≤ p && p < a + 4096
  let s := putFull s b (getBytes s a 4096)
  { s with empty := e.foldl (fun l p => insertNat (p - a + b) l) s.empty
           poison := q.foldl (fun l p => insertNat (p - a + b) l) s.poison }

/-! ## Cores, tiles, stacks -/

/-- A core that nothing has touched yet: as after reset, its refresh schedule going on (R37). -/
def freshCore (now : Nat) : CoreSt :=
  { refAt := (now / Config.refreshStep + 1) * Config.refreshStep, refSub := now / Config.refreshStep % 8 }

def getCore (s : State) (c : Nat) : CoreSt := look (freshCore s.now) s.cores c
def setCore (s : State) (c : Nat) (x : CoreSt) : State := { s with cores := store s.cores c x }
def modCore (s : State) (c : Nat) (f : CoreSt → CoreSt) : State := setCore s c (f (getCore s c))
def getTile (s : State) (t : Nat) : TileSt := look {} s.tiles t
def setTile (s : State) (t : Nat) (x : TileSt) : State := { s with tiles := store s.tiles t x }
def modTile (s : State) (t : Nat) (f : TileSt → TileSt) : State := setTile s t (f (getTile s t))
def getStack (s : State) (k : Nat) : StackSt := look {} s.stackSt k
def setStack (s : State) (k : Nat) (x : StackSt) : State := { s with stackSt := store s.stackSt k x }
def modStack (s : State) (k : Nat) (f : StackSt → StackSt) : State := setStack s k (f (getStack s k))

def getThr (s : State) (t : Thr) : ThrCtl := look {} (getCore s t.core).thr t.row
def setThr (s : State) (t : Thr) (x : ThrCtl) : State :=
  modCore s t.core fun c => { c with thr := store c.thr t.row x }
def modThr (s : State) (t : Thr) (f : ThrCtl → ThrCtl) : State := setThr s t (f (getThr s t))

def getSub (s : State) (c k : Nat) : SubSt := (getCore s c).subs.getD k {}
def setSub (s : State) (c k : Nat) (x : SubSt) : State := modCore s c fun c => { c with subs := c.subs.set k x }
def modSub (s : State) (c k : Nat) (f : SubSt → SubSt) : State := setSub s c k (f (getSub s c k))

/-- The core names a present core (R91): its index is below the count of cores of its tile that are not absent. -/
def corePresent (s : State) (c : Nat) : Bool :=
  c < Config.cores && c % 512 < 512 - (look 0#512 s.absent (tileOf c)).cpop.toNat

/-! ## Registers of a thread (R19, R20, R38) -/

def sAddr (t : Thr) (n : Nat) : Nat := rowAddr t.core t.row + 8 * n
def vAddr (t : Thr) (n : Nat) : Nat :=
  if n < 16 then rowAddr t.core t.row + 512 + 32 * n else rowAddr t.core (t.row + 12) + 512 + 32 * (n - 16)
def pAddr (t : Thr) (n : Nat) : Nat := rowAddr t.core t.row + 1024 + 4 * n
def cAddr (t : Thr) (n : Nat) : Nat := rowAddr t.core t.row + 3968 + 8 * n

/-- s0 reads zero (R20). -/
def getS (s : State) (t : Thr) (n : SReg) : Word := if n = 0 then 0 else getWord s (sAddr t n.toNat)
/-- A write to s0 is discarded (R20). -/
def setS (s : State) (t : Thr) (n : SReg) (x : Word) : State := if n = 0 then s else putWord s (sAddr t n.toNat) x
def getV (s : State) (t : Thr) (n : VReg) : Vec := BitVec.ofNat 256 (getNat s (vAddr t n.toNat) 32)
def setV (s : State) (t : Thr) (n : VReg) (x : Vec) : State := putBytes s (vAddr t n.toNat) (toBytes 32 x.toNat)
/-- p0 reads all ones (R20). -/
def getP (s : State) (t : Thr) (n : PReg) : Pred :=
  if n = 0 then BitVec.allOnes 32 else BitVec.ofNat 32 (getNat s (pAddr t n.toNat) 4)
/-- A write to p0 is discarded (R20). -/
def setP (s : State) (t : Thr) (n : PReg) (x : Pred) : State :=
  if n = 0 then s else putBytes s (pAddr t n.toNat) (toBytes 4 x.toNat)

/-- A control word; bits 62 and 63 of c5 read 1 (R23). -/
def getC (s : State) (t : Thr) (n : Nat) : Word :=
  let x := getWord s (cAddr t n)
  if n = 5 then x ||| 0xC000000000000000#64 else x
def setC (s : State) (t : Thr) (n : Nat) (x : Word) : State := putWord s (cAddr t n) x

/-- Bits lo + len - 1 : lo of a word, as a number. -/
def bits (x : Word) (lo len : Nat) : Nat := (x.extractLsb' lo len).toNat

/-- Replace bits lo + len - 1 : lo of a word. -/
def setBits (x : Word) (lo len : Nat) (v : Nat) : Word :=
  let m : Word := BitVec.ofNat 64 (2 ^ len - 1) <<< lo
  (x &&& ~~~m) ||| ((BitVec.ofNat 64 v <<< lo) &&& m)

/-- Byte of the own row that a store may not change: s0 and p0 (R20). -/
def protectedByte (a : Nat) : Bool := a < 8 || (1024 ≤ a && a < 1028)

/-- EARN (R31): cycles since the last credit was earned or the count started. -/
def earnOf (s : State) (c : CoreSt) : Nat := if c.credits = Config.maxCredits then 0 else (s.now - c.earnFrom) % 2048
/-- CORESTAT (R31). -/
def corestat (s : State) (core : Nat) : Word :=
  let c := getCore s core
  BitVec.ofNat 64 (earnOf s c * 16777216 + c.credits * 131072 + (if c.wide then 65536 else 0) + c.quantum)

/-- A byte of the service row: its core-status words are the core's own (R30, R31). -/
def serviceByte (s : State) (core a : Nat) : Byte :=
  if 3936 ≤ a && a < 3944 then (corestat s core).extractLsb' (8 * (a - 3936)) 8
  else if 3944 ≤ a && a < 3952 then (getCore s core).actCount.extractLsb' (8 * (a - 3944)) 8
  else Memory.get s.mem (rowAddr core 84 + a)

/-- Read bytes of the own row: s0 reads zero, p0 all ones, c5 with bits 62 and 63 (R20, R23, R42). -/
def ownBytes (s : State) (t : Thr) (a n : Nat) : List Byte :=
  (List.range n).map fun i =>
    let b := a + i
    if b < 8 then 0#8
    else if 1024 ≤ b && b < 1028 then 0xFF#8
    else if b = 4015 then Memory.get s.mem (ownAddr t b) ||| 0xC0#8
    else if t.row = 84 && 3936 ≤ b && b < 3952 then serviceByte s t.core b
    else Memory.get s.mem (ownAddr t b)

/-- Write bytes of the own row, the bytes of s0 and p0 discarded (R20): these bytes are stored as they stand. -/
def putOwn (s : State) (t : Thr) (a : Nat) (bs : List Byte) : State :=
  putBytes s (ownAddr t a) (bs.mapIdx fun i b => if protectedByte (a + i) then Memory.get s.mem (ownAddr t (a + i)) else b)

end Sys2Proof.Machine
end

