-- ==== Sys2Proof/Machine/Ops.lean ====
section
/-! DEFINITION. The operations that meanings share: packets (R94), thread states (R27), records for the
supervisor (R69), taking a trap (R115, R116), ending a thread (R130), parking (R26) and retiring (R278). -/
namespace Sys2Proof

/-- Trap causes (R115). -/
def Cause.code : Cause → Nat
  | .illegalInsn => 0x01 | .illegalReg => 0x02 | .rowProtect => 0x03 | .priv => 0x04 | .breakpoint => 0x05
  | .waitLimit => 0x06 | .trapInsn => 0x07 | .misaligned => 0x08 | .objNull => 0x10 | .objPerm => 0x11
  | .outOfShape => 0x12 | .notResident => 0x13 | .stackDown => 0x14 | .noQuorum => 0x15 | .tagExhausted => 0x16
  | .majUnsupported => 0x17 | .poisonConsumed => 0x21 | .pairUnrecovered => 0x22

end Sys2Proof

namespace Sys2Proof.Machine

/-! ## Packets and scheduled steps -/

/-- Insert after everything due no later. -/
def insertSched (x : Sched) : List Sched → List Sched
  | [] => [x]
  | y :: l => if x.due < y.due then x :: y :: l else y :: insertSched x l

/-- The latest due time of the packets already on one way (R94). -/
def lastDue (cls : Cls) (src dst : Nat) (l : List Sched) : Nat :=
  l.foldl (fun m x => if x.cls = cls ∧ x.src = src ∧ x.dst = dst then max m x.due else m) 0

/-- A step of the part's own, so many cycles from now. -/
def post (s : State) (d : Nat) (e : Event) : State :=
  { s with agenda := insertSched ⟨s.now + d, .local, 0, 0, .run e⟩ s.agenda }

/-- The step that comes next, before anything else that is due: the rest of the step being performed. -/
def follow (s : State) (e : Event) : State :=
  { s with agenda := ⟨s.now, .local, 0, 0, .run e⟩ :: s.agenda }

/-- Take a step of the part's own off the agenda. -/
def unpost (s : State) (e : Event) : State :=
  { s with agenda := s.agenda.filter fun x => !(x.act == .run e) }

/-- A packet between two ends: it takes the next time of the free schedule, one cycle when that is used up
(R380), and does not overtake packets of its class on the same way (R94). -/
def send (s : State) (cls : Cls) (src dst : Nat) (a : Act) : State :=
  let d := s.delays.headD 1
  let due := max (s.now + d) (lastDue cls src dst s.agenda)
  { s with delays := s.delays.tail, agenda := insertSched ⟨due, cls, src, dst, a⟩ s.agenda }

/-! ## Names and states of threads -/

/-- Thread states (R27). -/
def stFree : Nat := 0
def stIdle : Nat := 1
def stRun : Nat := 2
def stParked : Nat := 3
def stTrapped : Nat := 4
def stCancelled : Nat := 5
def stDone : Nat := 6
def stAbsent : Nat := 7

def tstate (s : State) (t : Thr) : Nat := bits (getC s t 0) 4 4
def setTState (s : State) (t : Thr) (n : Nat) : State := setC s t 0 (setBits (getC s t 0) 4 4 n)
def prioOf (s : State) (t : Thr) : Nat := bits (getC s t 0) 9 7
def keyOf (s : State) (t : Thr) : BitVec 16 := (getC s t 7).extractLsb' 0 16
def isPriv (s : State) (t : Thr) : Bool := bits (getC s t 7) 16 1 = 1
def isWide (s : State) (t : Thr) : Bool := bits (getC s t 7) 17 1 = 1
def isPaired (s : State) (t : Thr) : Bool := bits (getC s t 7) 18 2 ≠ 0
def isHandler (t : Thr) : Bool := t.row = 84
def pcOf (s : State) (t : Thr) : Nat := bits (getC s t 1) 0 32
def codeOf (s : State) (t : Thr) : Nat := bits (getC s t 1) 32 32
def setPc (s : State) (t : Thr) (pc : Nat) : State := setC s t 1 (setBits (getC s t 1) 0 32 pc)

/-- Bits 45:0 of a thread's row reference (R67). -/
def refOf (s : State) (t : Thr) : BitVec 46 :=
  BitVec.ofNat 46 (s.io.devid.toNat * 134217728 + t.core * 128 + t.row)
/-- A thread's row reference with its KEY (R88). -/
def keyedRef (s : State) (t : Thr) : Word := keyOf s t ++ 0#2 ++ refOf s t

/-- Fields of a row reference (R67). -/
def refKey (r : Word) : BitVec 16 := r.extractLsb' 48 16
def refDev (r : Word) : Nat := bits r 27 19
def refCore (r : Word) : Nat := bits r 7 20
def refRow (r : Word) : Nat := bits r 0 7
def refThr (r : Word) : Thr := ⟨refCore r, refRow r⟩
/-- The thread that bits 45:0 of a reference name. -/
def senderThr (r : BitVec 46) : Thr := refThr (r.setWidth 64)

/-- Pairs (R124): the pair a thread belongs to, and whether it leads. -/
def pairOf (s : State) (t : Thr) : Option PairSt := s.pairs.find? fun p => !p.dead && (p.leader = t || p.follower = t)
def modPair (s : State) (leader : Thr) (f : PairSt → PairSt) : State :=
  { s with pairs := s.pairs.map fun p => if p.leader = leader then f p else p }

/-! ## Partitions and the supervisor queue (R69, R202) -/

def getPart (s : State) (slot : Nat) : PartSt := look {} s.io.parts slot
def modPart (s : State) (slot : Nat) (f : PartSt → PartSt) : State :=
  { s with io := { s.io with parts := store s.io.parts slot (f (getPart s slot)) } }
/-- The slot of a tile; a tile that belongs to none is the PF's. -/
def slotOf (s : State) (tile : Nat) : Nat := if (getTile s tile).assigned then (getTile s tile).slot else 0
/-- The partition key of a tile; 0 when it belongs to none. -/
def partKey (s : State) (tile : Nat) : BitVec 16 :=
  if (getTile s tile).assigned then (getPart s (getTile s tile).slot).key else 0
/-- The slot that a partition key names. -/
def slotOfKey (s : State) (key : BitVec 16) : Nat := ((s.io.parts.find? fun p => p.2.key = key).map (·.1)).getD 0

/-- LOST, saturating (R202). -/
def countLost (s : State) (slot : Nat) : State :=
  modPart s slot fun p => { p with lost := if p.lost = 0xFFFFFFFF#32 then p.lost else p.lost + 1 }

/-- Health of a stack (R187): 0 UP, 1 DOWN, 2 REBUILD. -/
def healthOf (s : State) (k : Nat) : Nat := (s.io.health.extractLsb' (2 * k) 2).toNat
def stackDown (s : State) (k : Nat) : Bool := healthOf s k = 1
/-- Another module answers (R195, R197, R205). -/
def reachable (s : State) (dev : Nat) : Bool := s.io.domain.contains dev

/-- An inbox entry goes to the service row of its target's core; a reference to no present core is diverted there
and then (R91, R109). -/
def inboxAct (s : State) (m : InboxMsg) : Act :=
  if corePresent s (refCore m.target) then .arrive (refCore m.target) 84 (.inboxEntry m) else .run (.inboxEntry m)

/-- Send a record to a partition's supervisor queue; with no supervisor row, a supervisor row on a DOWN stack or
an unreachable module, it is discarded and counted (R69). -/
def toSupervisor (s : State) (srcTile slot : Nat) (w0 w1 : Word) : State :=
  let r := (getPart s slot).suprow
  let m : InboxMsg := ⟨.diversion, r, w0, w1, 0, slot, none⟩
  if r = 0 then countLost s slot
  else if refDev r ≠ s.io.devid.toNat then
    if reachable s (refDev r) then { s with io := { s.io with left := s.io.left ++ [(refDev r, .inboxEntry m)] } }
    else countLost s slot
  else if stackDown s (stackOf (refCore r)) then countLost s slot
  else send s .req srcTile (tileOf (refCore r)) (inboxAct s m)

/-- A diversion record (R69). -/
def diversion (s : State) (srcTile slot : Nat) (tref : Word) (sub : Nat) (sender : BitVec 46) : State :=
  toSupervisor s srcTile slot tref (0x20#8 ++ BitVec.ofNat 8 sub ++ 0#2 ++ sender)

/-- A packet leaves the module for a device: the I/O die awaits its acknowledgement (R196). -/
def leaveModule (s : State) (tile dev : Nat) (ref : Word) (sender : BitVec 46) (req : Nat) (e : Event) : State :=
  { s with nextSeq := s.nextSeq + 1
           io := { s.io with left := s.io.left ++ [(dev, e)]
                             outbound := s.io.outbound ++ [⟨tile, s.nextSeq, dev, ref, sender, req,
                               match e with | .inboxEntry m => some m | _ => none⟩] } }

/-- An inbox entry that its row cannot take (R69, R116, R165, R197): a trap record goes to the supervisor queue of its sender's
partition in its own form, a record for that queue is counted, and any other entry leaves a diversion record. -/
def entryFails (s : State) (srcTile : Nat) (m : InboxMsg) (sub : Nat) : State :=
  let slot := slotOf s srcTile
  match m.kind with
  | .trap => toSupervisor s srcTile slot m.w0 m.w1
  | .diversion => countLost s m.req
  | .message | .fault | .job | .launch => diversion s srcTile slot m.target sub m.sender

/-- Send an inbox entry to the row its target names.  What cannot leave (R190, R197) is settled here: a trap
record goes to the supervisor queue in its own form (R116), any other entry as a diversion record (R165), and the
sender of a message is answered. -/
def toInbox (s : State) (srcTile : Nat) (m : InboxMsg) : State :=
  let fail (sub : Nat) : State :=
    let s := entryFails s srcTile m sub
    if m.kind = .message && m.req ≠ 0 then send s .rsp ioDie srcTile (.run (.reply m.req (.value 0 false))) else s
  if refDev m.target ≠ s.io.devid.toNat then
    if reachable s (refDev m.target) then leaveModule s srcTile (refDev m.target) m.target m.sender 0 (.inboxEntry m)
    else fail 0x06
  else if stackDown s (stackOf (refCore m.target)) then fail 0x07
  else send s .req srcTile (tileOf (refCore m.target)) (inboxAct s m)

/-! ## Requests and their answers (R28, R65) -/

def findReq (s : State) (id : Nat) : Option Req := s.reqs.find? fun r => r.id = id
def reqOf (s : State) (t : Thr) : Option Req := s.reqs.find? fun r => r.thr = t && !r.held
def dropReq (s : State) (id : Nat) : State := { s with reqs := s.reqs.filter fun r => r.id ≠ id }
def modReq (s : State) (id : Nat) (f : Req → Req) : State :=
  { s with reqs := s.reqs.map fun r => if r.id = id then f r else r }
/-- Add a request under a new name. -/
def addReq (s : State) (r : Req) : State :=
  { s with reqs := s.reqs ++ [{ r with id := s.nextReq }], nextReq := s.nextReq + 1 }

/-- Send the answer that ends a park to the issuer's tile (R28). -/
def answer (s : State) (srcTile : Nat) (id : Nat) (a : Ans) : State :=
  match findReq s id with
  | none => s
  | some r => send s .rsp srcTile (tileOf r.thr.core) (.run (.reply id a))

def ansWord (x : Word) : Ans := .value (x.setWidth 256) false

/-- Answer the sender of a packet: a request of a thread, or the host (R381). -/
def answerPkt (s : State) (p : RowPkt) (a : Ans) : State :=
  if p.req = 0 then
    match a with
    | .value x _ => if p.sender.extractLsb' 0 7 = 127#7 then { s with io := { s.io with hostAnswers := s.io.hostAnswers ++ [x.extractLsb' 0 64] } } else s
    | .trap .. => s
  else answer s (tileOf (refCore p.ref)) p.req a

/-- The step of a heddle packet (R64). -/
def heddleEvent (p : RowPkt) : Event :=
  match bits p.x 0 4 with
  | 0 => .heddleNone p
  | 1 => .start p
  | 2 => .stop p
  | 3 => .redirect p
  | 4 => .resume p
  | 5 => .step p
  | 6 => .heddleCancel p
  | _ => .reservedCommand p

/-- The commands that waited for a thread's outstanding instruction take their effect, in order (R77). -/
def runCmds (s : State) (t : Thr) : State :=
  let c := getThr s t
  if c.cmds.isEmpty then s
  else c.cmds.foldl (fun s p => post s 0 (heddleEvent p)) (setThr s t { c with cmds := [] })

/-! ## Launches and the end of a thread -/

def findLaunch (s : State) (id : Nat) : Option LaunchSt := s.io.launches.find? fun l => l.id = id
def modLaunch (s : State) (id : Nat) (f : LaunchSt → LaunchSt) : State :=
  { s with io := { s.io with launches := s.io.launches.map fun l => if l.id = id then f l else l } }
def launchIdOf (s : State) (t : Thr) : Nat := bits (getC s t 7) 24 24

/-- A thread became DONE or CANCELLED: the I/O die counts it, and the last one completes the launch (R53, R54). -/
def threadEnded (s : State) (t : Thr) (failed : Bool) : State :=
  match s.io.launches.find? (fun l => l.state = .placed ∧ l.rows.contains t ∧ !l.ended.contains t) with
  | none => s
  | some l =>
    let ended := t :: l.ended
    let s := modLaunch s l.id fun l => { l with ended := ended, failed := l.failed || failed }
    if ended.length = l.rows.length then send s .req (tileOf t.core) ioDie (.run (.launchCompletion l.id)) else s

/-- Send the trap record of a thread (R88, R116): to c12, or to the supervisor queue when c12 is 0 or poisoned. -/
def trapRecord (s : State) (t : Thr) (cause : Nat) (word : InsnWord) : State :=
  let w1 : Word := BitVec.ofNat 8 cause ++ (getC s t 7).extractLsb' 24 24 ++ word
  let s := touchWord s (cAddr t 12)
  let q := getC s t 12
  if q = 0 ∨ isPoisoned s (cAddr t 12) then toSupervisor s (tileOf t.core) (slotOf s (tileOf t.core)) (keyedRef s t) w1
  else toInbox s (tileOf t.core) ⟨.trap, q, keyedRef s t, w1, refOf s t, 0, none⟩

/-- End the running handler (R108): the next message starts. -/
def endHandler (s : State) (core : Nat) : State :=
  let c := getCore s core
  let s := setCore s core { c with handler := false }
  if c.msgs.isEmpty then s else post s 1 (.handlerStart core)

/-- Write c10: cause in bits 39:32 and the word (R115). -/
def setFinfo (s : State) (t : Thr) (cause : Nat) (word : InsnWord) : State :=
  setC s t 10 (BitVec.ofNat 64 (cause * 4294967296 + word.toNat))

/-- The instruction is UNPAIR. -/
def isUnpair : Instr → Bool
  | .unpair _ => true
  | _ => false

/-- The thread is parked in UNPAIR: it waits for the checkpoint before it (R319). -/
def atUnpair (s : State) (t : Thr) : Bool :=
  tstate s t = stParked && match reqOf s t with | some r => isUnpair r.insn | none => false

/-- Call a checkpoint for the boundary a side has reached, or for the later one of the two sides (R126, R128). -/
def callCheckpoint (s : State) (p : PairSt) (n : Word) : State :=
  let far (a b : Word) : Word := if (a - p.start).toNat < (b - p.start).toNat then b else a
  let m := far (far (far n (getC s p.leader 14)) (getC s p.follower 14)) (if p.called then p.stopAt else p.start)
  modPair s p.leader fun p => { p with called := true, stopAt := m }

/-- A trap or poison on one side of a pair: the other side goes on to the same instruction, and the checkpoint
decides (R128, R130). -/
def sideTrap (s : State) (p : PairSt) (t : Thr) (c : Cause) : State :=
  let n := getC s t 14
  let s := modPair s p.leader fun p =>
    if p.leader = t then { p with trapLead := some (c, n) } else { p with trapFoll := some (c, n) }
  callCheckpoint s p (n + 1)

/-- c9 for a cause found before translation has a sub-tile: 0xFFFF_FFFF (R115). -/
def noSubtile (handle : Word) : Word := 0xFFFFFFFF#32 ++ handle.extractLsb' 0 32
def withSubtile (handle : Word) (sub : Nat) : Word := BitVec.ofNat 32 sub ++ handle.extractLsb' 0 32

/-- The operation of an ended thread goes on beyond the row: it is at its owner, and nobody waits for its answer. -/
def goesOn (r : Req) : Bool :=
  match r.phase with
  | .fence | .translate | .backoff | .answered => false
  | .sent | .claim | .moving | .copying | .drop | .engine | .majority =>
    match r.insn with
    | .ibrecv _ | .jwait .. | .cntwait .. | .rswait _ => false
    | _ => true

/-- A thread no longer waits for its outstanding operation: one that is under way beyond its row goes on. -/
def leaveReqs (s : State) (t : Thr) : State :=
  { s with reqs := s.reqs.filterMap fun r =>
      if r.thr = t && !r.held then (if goesOn r then some { r with held := true } else none) else some r }

/-- An ended thread waits for nothing, and commands that waited for it find it CANCELLED (R77). -/
def leaveAll (s : State) (t : Thr) : State :=
  threadEnded (runCmds (leaveReqs (modThr s t fun c =>
    { c with stepping := false, long := none, reply := none, yielded := false, codeWait := false }) t) t) t true

/-- End one thread that consumed poison (R130): record, scrub, c0, c7 and c10. -/
def endThread (s : State) (t : Thr) (c : Cause) (word : InsnWord) (record : Bool) : State :=
  let c7 := getC s t 7
  let prio := prioOf s t
  let s := if record then trapRecord s t c.code word else s
  if isHandler t then
    endHandler (putBytes (putBytes s (sAddr t 0) (List.replicate 1056 0)) (cAddr t 0) (List.replicate 128 0)) t.core
  else
    let s := putBytes s (rowAddr t.core t.row) (List.replicate 4096 0)
    let s := if bits c7 17 1 = 1 then putBytes s (rowAddr t.core (t.row + 12)) (List.replicate 4096 0) else s
    let s := setC (setC s t 7 c7) t 0 (BitVec.ofNat 64 (stCancelled * 16 + prio * 512))
    leaveAll (setFinfo s t c.code word) t

/-- End a side of a pair that cannot be recovered (R127): CANCELLED with c10, its registers as they stand. -/
def cancelSide (s : State) (t : Thr) (c : Cause) (word : InsnWord) : State :=
  leaveAll (setFinfo (setC (setTState s t stCancelled) t 2 0) t c.code word) t

/-- Both sides of a pair have ended: held effects are discarded, and the outside accesses that waited find them so (R127, R130). -/
def closePair (s : State) (p : PairSt) : State :=
  let s := modPair s p.leader fun p => { p with dead := true, held := [], fwd := [], called := false, outside := [] }
  p.outside.foldl (fun s e => post s 0 e) s

/-- PAIR_UNRECOVERED (R127): the leader's core sends the record. -/
def losePair (s : State) (p : PairSt) (word : InsnWord) : State :=
  let s := trapRecord s p.leader Cause.pairUnrecovered.code word
  closePair (cancelSide (cancelSide s p.leader .pairUnrecovered word) p.follower .pairUnrecovered word) p

/-- Both sides consume poison in a forwarded value (R130): each is scrubbed, and the leader's record is sent. -/
def endPair (s : State) (p : PairSt) (word : InsnWord) : State :=
  closePair (endThread (endThread s p.leader .poisonConsumed word true) p.follower .poisonConsumed word false) p

/-- POISON_CONSUMED (R130): c10 holds the word at PC, 0 if that was poisoned itself. -/
def consumePoison (s : State) (t : Thr) (word : InsnWord) : State := endThread s t .poisonConsumed word true

/-- Poison met in a thread's own row: in a pair it counts as a mismatch (R130). -/
def ownPoison (s : State) (t : Thr) (word : InsnWord) : State :=
  match pairOf s t with
  | some p => sideTrap s p t .poisonConsumed
  | none => consumePoison s t word

/-- A precise trap takes effect (R115, R116): STATE TRAPPED, PC kept, c2 zero, c10 written, one record sent where
`record` says so.  A trap ends a handler (R108). -/
def applyTrap (s : State) (t : Thr) (c : Cause) (word : InsnWord) (record : Bool) : State :=
  let s := setFinfo s t c.code word
  if isHandler t then
    endHandler (toSupervisor s (tileOf t.core) (slotOf s (tileOf t.core)) (keyedRef s t)
      (BitVec.ofNat 8 c.code ++ (getC s t 7).extractLsb' 24 24 ++ word)) t.core
  else
    let s := setC (setTState s t stTrapped) t 2 0
    let s := modThr s t fun c => { c with stepping := false }
    if !record then s
    else
      let s := trapRecord s t c.code word
      -- the record reads c12 (R130)
      if isPoisoned s (cAddr t 12) then ownPoison s t word else s

/-- An instruction traps: c9 where stated (R115); in a pair the checkpoint decides (R128). -/
def takeTrap (s : State) (t : Thr) (c : Cause) (word : InsnWord) (c9 : Option Word) : State :=
  let s := match c9 with | some x => setC s t 9 x | none => s
  match pairOf s t with
  | some p => sideTrap s p t c
  | none => applyTrap s t c word true

/-- A trap of the issuing thread that writes no c9. -/
def trapNow (s : State) (c : Cause) : State := takeTrap s s.cur c s.curWord none

/-- An instruction reads these words of its own row (R99, R130): stored errors are met, a poisoned word is consumed, else the
effect. -/
def withRegs (s : State) (ws : List Nat) (k : State → State) : State :=
  let s := ws.foldl touchWord s
  if ws.any (isPoisoned s) then ownPoison s s.cur s.curWord else k s

/-- An instruction reads these words of its own row, and what they hold may be a cause with a number in R115: it comes before poison in
them, which has none, so that the bytes of a poisoned word decide it (DESIGN CHOICE, log 56). -/
def withChecked (s : State) (ws : List Nat) (f : State → Option Cause) (k : State → State) : State :=
  let s := ws.foldl touchWord s
  match f s with
  | some c => trapNow s c
  | none => if ws.any (isPoisoned s) then ownPoison s s.cur s.curWord else k s

/-- An instruction that retires reads these words of its own row and c14, and c13 in a pair (R99, R130). -/
def withWords (s : State) (ws : List Nat) (k : State → State) : State :=
  let t := s.cur
  let ws := cAddr t 14 :: (if isPaired s t then cAddr t 13 :: ws else ws)
  let s := ws.foldl touchWord s
  if ws.any (isPoisoned s) then ownPoison s t s.curWord else k s

/-- The words that a retirement reads: c14, and c13 of a paired thread (R130). -/
def retireWords (s : State) (t : Thr) : List Nat := cAddr t 14 :: if isPaired s t then [cAddr t 13] else []

/-- A thread retires an instruction whose word is w: the words of its retirement are met, and a poisoned one is consumed. -/
def retiring (s : State) (t : Thr) (w : InsnWord) (k : State → State) : State :=
  let ws := retireWords s t
  let s := ws.foldl touchWord s
  if ws.any (isPoisoned s) then ownPoison s t w else k s

/-- The words of an issued instruction's registers; s0 and p0 read as constants (R20). -/
def sWords (t : Thr) (l : List SReg) : List Nat := (l.filter (· != 0)).map fun n => sAddr t n.toNat
def vWords (t : Thr) (l : List VReg) : List Nat := l.flatMap fun n => wordsOf (vAddr t n.toNat) 32
def pWords (t : Thr) (l : List PReg) : List Nat := (l.filter (· != 0)).map fun n => pAddr t n.toNat / 8 * 8

/-! ## Retiring (R41, R124, R278) -/

/-- The pairing fingerprint after an instruction (R124). -/
def fingerprintStep (f v : Word) : Word := f.rotateLeft 7 ^^^ v

/-- PC and c14 go on, and c13 of a paired thread takes v (R41, R124). -/
def countRetired (s : State) (t : Thr) (pc : Nat) (v : Word) : State :=
  let s := setPc s t pc
  let s := setC s t 14 (getC s t 14 + 1)
  if isPaired s t then setC s t 13 (fingerprintStep (getC s t 13) v) else s

/-- A STEP ends with the instruction that retires (R75). -/
def endStep (s : State) (t : Thr) : State :=
  if (getThr s t).stepping then
    modThr (if tstate s t = stRun then setTState s t stIdle else s) t fun c => { c with stepping := false }
  else s

/-- A pair's interval ends where its length is reached or an end was asked for (R126). -/
def endInterval (s : State) (t : Thr) : State :=
  match pairOf s t with
  | none => s
  | some p =>
    if (getC s t 14 - p.start).toNat ≥ Config.intervalLength ∨ p.ending ≠ .none then callCheckpoint s p (getC s t 14)
    else s

/-- Retire at a PC: c14 counts, c13 of a paired thread takes v, a STEP ends, and a pair's interval may (R75, R126). -/
def retireTo (s : State) (t : Thr) (pc : Nat) (v : Word) : State := endInterval (endStep (countRetired s t pc v) t) t

/-- Retire at the next instruction. -/
def retire (s : State) (t : Thr) (v : Word) : State := retireTo s t ((pcOf s t + 4) % 4294967296) v

/-- Retire with v the PC offset after the instruction (R124: nothing written). -/
def retirePlain (s : State) (t : Thr) : State := retire s t (BitVec.ofNat 64 ((pcOf s t + 4) % 4294967296))

/-- Write a scalar register and retire; a write that s0 discards writes nothing (R20, R297). -/
def retireS (s : State) (t : Thr) (d : SReg) (x : Word) : State :=
  if d = 0 then retirePlain s t else retire (setS s t d x) t x
/-- Write a vector register and retire: v is the xor of its four words (R124). -/
def foldVec (x : Vec) : Word := x.extractLsb' 0 64 ^^^ x.extractLsb' 64 64 ^^^ x.extractLsb' 128 64 ^^^ x.extractLsb' 192 64
def retireV (s : State) (t : Thr) (d : VReg) (x : Vec) : State := retire (setV s t d x) t (foldVec x)
/-- Write a predicate register and retire; a write that p0 discards writes nothing. -/
def retireP (s : State) (t : Thr) (d : PReg) (x : Pred) : State :=
  if d = 0 then retirePlain s t else retire (setP s t d x) t (x.setWidth 64)

/-! ## Sticky flags of c3 (R24) -/

def fNV : Word := 1
def fDZ : Word := 2
def fOF : Word := 4
def fUF : Word := 8
def fNX : Word := 16
def fSAT : Word := 32
/-- Set sticky bits; none is ever cleared here. -/
def raise (s : State) (t : Thr) (f : Word) : State := if f = 0 then s else setC s t 3 (getC s t 3 ||| f)

/-! ## Parking (R26, R28, R34) -/

/-- c2 PARK. -/
def parkWord (kind cause : Nat) (detail : Word) : Word := detail <<< 16 ||| BitVec.ofNat 64 (cause * 256 + kind)

/-- The thread parks: STATE PARKED and c2 (R26).  A handler's service slot parks as a thread does (R108). -/
def park (s : State) (t : Thr) (kind cause : Nat) (detail : Word) : State :=
  modThr (setC (setTState s t stParked) t 2 (parkWord kind cause detail)) t fun c => { c with parkedAt := s.now }

/-- The thread leaves PARKED for RUN: c2 is zero (R26). -/
def unpark (s : State) (t : Thr) : State := setC (setTState s t stRun) t 2 0

end Sys2Proof.Machine
end

