-- ==== Sys2Proof/Machine/Rows.lean ====
section
/-! DEFINITION. The rows of a core: which row is a thread, the treadle (R11, R12, R35), credits (R13, R36),
outside accesses and borrow windows (R17, R79), the vertical bus (R95), refresh (R37), gating (R81), and the choice of the
slot that issues (R33). -/
namespace Sys2Proof.Machine

/-! ## Rows and frames -/

/-- Address of the frame-state entry of a row (R104). -/
def frameAddr (core row : Nat) : Nat := rowAddr core 84 + 2592 + 16 * row
def frameHandle (s : State) (core row : Nat) : Nat := bits (getWord s (frameAddr core row)) 32 32
def frameGen (s : State) (core row : Nat) : Nat := bits (getWord s (frameAddr core row)) 18 14
/-- USE (R104): 0 no frame, 1 frame, 2 MOVING, 3 held by a pool. -/
def frameUse (s : State) (core row : Nat) : Nat := if row < 84 then bits (getWord s (frameAddr core row)) 16 2 else 0
def frameCache (s : State) (core row : Nat) : Bool := bits (getWord s (frameAddr core row)) 15 1 = 1
def frameSub (s : State) (core row : Nat) : Nat := bits (getWord s (frameAddr core row + 8)) 0 32
/-- A frame-state entry is read (R99). -/
def touchFrame (s : State) (f : Thr) : State := if f.row < 84 then touch s (frameAddr f.core f.row) 16 else s
/-- Write a frame-state entry (R104). -/
def setFrame (s : State) (core row handle sub gen use : Nat) (cache : Bool) : State :=
  putWord (putWord s (frameAddr core row)
    (BitVec.ofNat 64 (handle * 4294967296 + gen * 262144 + use * 65536 + (if cache then 32768 else 0))))
    (frameAddr core row + 8) (BitVec.ofNat 64 sub)

/-- The subarray that governs a row: row ÷ 12, and in wide mode the first of its pair (R29, R38). -/
def subOf (c : CoreSt) (row : Nat) : Nat := if c.wide && row < 72 then row / 24 * 2 else row / 12
/-- The first row of a row's pair in wide mode, else the row (R38). -/
def homeRow (c : CoreSt) (row : Nat) : Nat := if c.wide && row < 72 && row / 12 % 2 = 1 then row - 12 else row
/-- Rows that a subarray opens together (R38). -/
def rowsOf (c : CoreSt) (row : Nat) : Nat := if c.wide && row < 72 then 2 else 1

/-- The row is a shadow row of a pair (R48). -/
def isShadow (s : State) (core row : Nat) : Bool :=
  let row := homeRow (getCore s core) row
  s.pairs.any fun p => (p.leader.core = core ∧ p.leader.row + 1 = row) ∨ (p.follower.core = core ∧ p.follower.row + 1 = row)

/-- The row holds a thread's control block: no frame, no shadow row, no second row of a wide thread. -/
def isThreadRow (s : State) (core row : Nat) : Bool :=
  row < 84 && frameUse s core row = 0 && !isShadow s core row && homeRow (getCore s core) row = row

/-- The row is FREE: no thread, no frame, KEY 0 (R27, R50). -/
def isFreeRow (s : State) (core row : Nat) : Bool :=
  row < 84 && frameUse s core row = 0 && !isShadow s core row && tstate s ⟨core, row⟩ = stFree
    && !(homeRow (getCore s core) row ≠ row ∧ tstate s ⟨core, homeRow (getCore s core) row⟩ ≠ stFree)

/-- A core's FREE rows have changed: its agent reports within 256 base-die cycles (R50). -/
def noteFree (s : State) (core : Nat) : State :=
  let e := Event.agentReport (tileOf core)
  let s := modCore s core id
  if s.agenda.any fun x => x.act == .run e then s
  else { post s (min (s.delays.headD 1) 128) e with delays := s.delays.tail }

/-- The follower's place (R48). -/
def partnerOf (t : Thr) : Thr := ⟨t.core ^^^ 1, t.row⟩
/-- The shadow row of a side (R48). -/
def shadowOf (t : Thr) : Thr := ⟨t.core, t.row + 1⟩

/-- Copy a thread's row or row pair. -/
def copyThread (s : State) (wide : Bool) (a b : Thr) : State :=
  let s := copyRow s a b
  if wide then copyRow s ⟨a.core, a.row + 12⟩ ⟨b.core, b.row + 12⟩ else s

/-- Make a pair of a leader (R48, R124): the follower is its copy, and both sides their shadow copies. -/
def makePair (s : State) (wide : Bool) (t : Thr) : State :=
  let f := partnerOf t
  let s := copyThread s wide t f
  let s := setC s f 7 (setBits (getC s f 7) 18 2 2)
  let s := setThr s f { quantum := (getThr s t).quantum, index := (getThr s t).index }
  let s := copyThread (copyThread s wide t (shadowOf t)) wide f (shadowOf f)
  noteFree (noteFree { s with pairs := s.pairs ++ [{ leader := t, follower := f, start := getC s t 14 }] } t.core) f.core

/-- The rows of subarray k that wait: their thread is RUN and they are closed (R35). -/
def waitingRows (s : State) (core k : Nat) : List Nat :=
  let c := getCore s core
  let openRow := match (getSub s core k).mode with | .opened r => some r | _ => none
  ((List.range 12).map (12 * k + ·)).filter fun r =>
    isThreadRow s core r && tstate s ⟨core, r⟩ = stRun && subOf c r = k && openRow ≠ some r

/-- The waiting row to open next: highest PRIO, then the next in row order after the row that the treadle last closed (R11, R35).
That row is kept for ever (DESIGN CHOICE: R11 does not say whether the order begins again at the lowest index after the subarray stood
with no open and no runnable row, log 5). -/
def nextRow (s : State) (core k : Nat) : Option Nat :=
  let w := waitingRows s core k
  let top := w.foldl (fun m r => max m (prioOf s ⟨core, r⟩)) 0
  let best := w.filter fun r => prioOf s ⟨core, r⟩ = top
  match (getSub s core k).last with
  | none => best.head?
  | some l => ((best.filter (l < ·)) ++ best.filter (· ≤ l)).head?

/-! ## The vertical bus (R95, R96) -/

/-- The physical number of a core in its tile (R91): its remap table lists the present ones in ascending order. -/
def physOf (s : State) (core : Nat) : Nat :=
  let gone := look 0#512 s.absent (tileOf core)
  if gone = 0 then core % 512 else ((List.range 512).filter fun p => !gone.getLsbD p).getD (core % 512) (core % 512)

/-- The bytes that cross the bus for a queued access: a fill of a code row its 4,096 (R32), a walk its words, any other access at most
one granule. -/
def QDo.bytes : QDo → Nat
  | .step (.codeRowFill ..) => 4096
  | .step (.walk p) => 8 * p.count
  | .step _ | .fill | .feed .. => 64

/-- A request is raised at once where its core has none in the class; behind another it is raised when that one's turn is over,
so that a core has one request in a class (R96).  A core's own requests follow each other in the order in which they came
(DESIGN CHOICE: R95 orders the layers, log 65). -/
def BusClass.add (c : BusClass) (r : BusReq) : BusClass :=
  if c.raised.any fun x => x.core = r.core then { c with behind := c.behind ++ [r] } else { c with raised := c.raised ++ [r] }

/-- The first requesting layer after the one that last won in the class (R95). -/
def BusClass.first (c : BusClass) : Option BusReq :=
  (List.range 16).findSome? fun i => c.raised.find? fun r => r.layer = (c.last + 1 + i) % 16

/-- A request wins a cycle, which carries up to 64 bytes: what is left of it is raised again, else its core's next one is. -/
def BusClass.win (c : BusClass) (r : BusReq) : BusClass :=
  let c := { c with raised := c.raised.erase r, last := r.layer }
  if r.more ≠ 0 then { c with raised := c.raised ++ [{ r with more := r.more - 1 }] }
  else match pick (fun x => x.core = r.core) c.behind with
    | some (x, rest) => { c with raised := c.raised ++ [x], behind := rest }
    | none => c

/-- No request waits in the class. -/
def BusClass.idle (c : BusClass) : Bool := c.raised.isEmpty && c.behind.isEmpty

/-- Put a request for the bus of the core's column; its first grant is due in the coming cycle. -/
def putBus (s : State) (core k : Nat) (bulk : Bool) (bytes : Nat) : State :=
  let p := physOf s core
  let col := p / 16
  let r : BusReq := ⟨core, k, p % 16, (bytes - 1) / 64⟩
  let s := modTile s (tileOf core) fun t =>
    let c := look {} t.columns col
    { t with columns := store t.columns col (if bulk then { c with bulk := c.bulk.add r } else { c with ord := c.ord.add r }) }
  if s.agenda.any fun x => x.act == .bus (tileOf core) col then s
  else { s with agenda := insertSched ⟨s.now + 1, .local, 0, 0, .bus (tileOf core) col⟩ s.agenda }

/-- A row buffer raises a request for the bus, unless it has one. -/
def raiseBus (s : State) (core k : Nat) (bulk : Bool) (bytes : Nat) : State :=
  if (getSub s core k).bus ≠ .none then s
  else putBus (modSub s core k fun x => { x with bus := .waiting }) core k bulk bytes

/-- The grant of one base-die cycle (R95): bulk where it waits and won none of the previous three, else ordinary first. -/
def ColumnSt.grant (c : ColumnSt) (cyc : Nat) : ColumnSt × Option BusReq :=
  let bulkTurn := match c.bulkAt with | none => true | some b => b + 3 < cyc
  let ordinary (r : BusReq) : ColumnSt × Option BusReq := ({ c with ord := c.ord.win r }, some r)
  let heavy (r : BusReq) : ColumnSt × Option BusReq := ({ c with bulk := c.bulk.win r, bulkAt := some cyc }, some r)
  match c.ord.first, c.bulk.first with
  | some r, none => ordinary r
  | none, some r => heavy r
  | some r, some b => if bulkTurn then heavy b else ordinary r
  | none, none => (c, none)

/-- The last grant of a request has come: its row buffer may use it. -/
def busGranted (s : State) : Option BusReq → State
  | none => s
  | some r => if r.more = 0 then modSub s r.core r.sub fun x => { x with bus := .granted } else s

/-- The bus of a column in one executor cycle, which is two base-die cycles. -/
def busCycle (s : State) (tile col : Nat) : State :=
  let a := (look {} (getTile s tile).columns col).grant (2 * s.now)
  let b := a.1.grant (2 * s.now + 1)
  let s := modTile s tile fun t => { t with columns := store t.columns col b.1 }
  let s := busGranted (busGranted s a.2) b.2
  if b.1.ord.idle && b.1.bulk.idle then s
  else { s with agenda := insertSched ⟨s.now + 1, .local, 0, 0, .bus tile col⟩ s.agenda }

/-- A request of the copy streamer for a frame's row, which holds no row buffer's place, is under way (R95). -/
def busBusy (s : State) (core k : Nat) : Bool :=
  let c := look {} (getTile s (tileOf core)).columns (physOf s core / 16)
  (c.bulk.raised ++ c.bulk.behind).any fun r => r.core = core && r.sub = k

/-! ## Credits (R13, R36) -/

/-- A queued access is a row write that the distributor or the I/O die makes itself: its activations spend no credit (R36, R60). -/
def QDo.free : QDo → Bool
  | .step (.priorityLoan ..) => true
  | .feed f _ => f.cls = .system
  | .step _ | .fill => false

/-- It has still to be admitted: what was admitted on its arrival only fills the row-side cache (R97). -/
def QDo.stands : QDo → Bool
  | .fill | .feed _ true => false
  | .step _ | .feed _ false => true

/-- A queued access is a matrix feed (R36). -/
def QDo.matrix : QDo → Bool
  | .feed f _ => f.cls = .matrix
  | .step _ | .fill => false

/-- A queued access is bulk traffic (R94, R95). -/
def QDo.bulk : QDo → Bool
  | .feed f _ => f.cls ≠ .gather && f.cls ≠ .system
  | .step _ | .fill => false

/-- Spend credits for activations: the count starts when the core held 32 (R13); ACTCOUNT counts (R31). -/
def spendCredits (s : State) (core n : Nat) : State :=
  let c := getCore s core
  let s := setCore s core
    { c with credits := c.credits - n, actCount := c.actCount + BitVec.ofNat 64 n, lastAct := s.now,
             earnFrom := if c.credits = Config.maxCredits ∧ n ≠ 0 then s.now else c.earnFrom }
  if c.credits = Config.maxCredits ∧ n ≠ 0 then post s Config.earnCycles (.creditEarned core) else s

/-- Credits that opening a row in subarray k spends now (R36, R38). -/
def creditsFor (s : State) (core k row : Nat) : Nat :=
  if (getSub s core k).free then 0 else rowsOf (getCore s core) row

/-- Begin an activation, with its credits where it spends any: it completes 15 cycles on (R12). -/
def beginActivation (s : State) (core k row : Nat) (p : Purpose) : State :=
  let s := spendCredits s core (creditsFor s core k row)
  post (modSub s core k fun x => { x with mode := .activating row p }) Config.activateCycles (.rowActivation core k)

/-- Begin a close: it completes 15 cycles on (R12). -/
def beginClose (s : State) (core k row : Nat) (a : After) : State :=
  post (modSub s core k fun x => { x with mode := .closing row a, hold := false, kept := false }) Config.closeCycles (.rowClose core k)

/-! ## Who waits for credits (R36) -/

/-- The sequencer stands at a step boundary, waiting for credits. -/
def seqWaits (c : CoreSt) (now : Nat) : Bool :=
  match c.seq with
  | some k => match k.phase with
    | .ready _ => decide (k.endAt ≤ now)
    | .starting | .stepping | .serving .. | .ending _ => false
  | none => false

/-- A row that waits for a credit: subarray, row, purpose, since when. -/
abbrev Waiting := Nat × Nat × Purpose × Nat

/-- The rows of a core that wait for credits, lowest subarray first. -/
def creditWaits (s : State) (core : Nat) : List Waiting :=
  (List.range 7).filterMap fun k => match (getSub s core k).mode with
    | .waiting r p since => some (k, r, p, since)
    | _ => none

/-- All the accesses that a row is to be opened for are matrix feeds. -/
def feedsOnly (s : State) (core r : Nat) : Bool :=
  let c := getCore s core
  let mine := c.oq.filter fun q => q.row < 84 && homeRow c q.row = r
  !mine.isEmpty && mine.all fun q => q.act.matrix

/-- The place of a waiting row in R36's order: outside accesses and reopenings, matrix feeds, treadle switches. -/
def creditClass (s : State) (core : Nat) (w : Waiting) : Nat :=
  match w.2.2.1 with
  | .thread => 3
  | .reopen => 1
  | .serve _ => if feedsOnly s core w.2.1 then 2 else 1

/-- The first in arrival order. -/
def firstWaiting (l : List Waiting) : Option Waiting :=
  l.foldl (fun m x => match m with
    | none => some x
    | some y => if x.2.2.2 < y.2.2.2 then some x else m) none

/-- An activation that comes before every treadle switch waits for a credit. -/
def othersWait (s : State) (core : Nat) : Bool :=
  seqWaits (getCore s core) s.now || (creditWaits s core).any fun w => match w.2.2.1 with | .thread => false | _ => true

/-- Credits held for the activations that follow the closes which the treadle has begun for a switch (R36). -/
def promised (s : State) (core : Nat) : Nat :=
  ((List.range 7).map fun k =>
    let x := getSub s core k
    match x.mode with
    | .closing r .free => if x.kept then rowsOf (getCore s core) r else 0
    | _ => 0).sum

/-- Credits that an activation may take now. -/
def freeCredits (s : State) (core : Nat) : Nat := (getCore s core).credits - promised s core

/-- The treadle may take the credits for a row (R36). -/
def treadleCredit (s : State) (core row : Nat) : Bool := rowsOf (getCore s core) row ≤ freeCredits s core && !othersWait s core

/-- Grant the credits that are held to the first activation that waits for one: outside accesses and reopenings in arrival
order, matrix feeds and the sequencer in request order, then the treadle, lowest subarray first. -/
def grantCredits (s : State) (core : Nat) : State :=
  let c := getCore s core
  let waits := creditWaits s core
  let start (w : Waiting) : State :=
    if creditsFor s core w.1 w.2.1 ≤ freeCredits s core then beginActivation s core w.1 w.2.1 w.2.2.1 else s
  match firstWaiting (waits.filter fun w => creditClass s core w = 1) with
  | some w => start w
  | none =>
    let seqAt := match c.seq with | some k => k.endAt | none => 0
    match firstWaiting (waits.filter fun w => creditClass s core w = 2) with
    | some w => if seqWaits c s.now && seqAt ≤ w.2.2.2 then post s 0 (.rowStep core) else start w
    | none =>
      if seqWaits c s.now then post s 0 (.rowStep core)
      else match waits.head? with
        | some w => start w
        | none => s

/-- An activation that spends credits waits for its turn in R36's order, since when it asks; one that spends none begins. -/
def wantActivation (s : State) (core k row : Nat) (p : Purpose) (since : Nat) : State :=
  if creditsFor s core k row = 0 then beginActivation s core k row p
  else grantCredits (modSub s core k fun x => { x with mode := .waiting row p since }) core

/-! ## Outside accesses (R17, R70, R79) -/

/-- The oldest queued access to subarray k. -/
def oldest (s : State) (core k : Nat) : Option QEnt :=
  let c := getCore s core
  c.oq.find? fun q => subOf c q.row = k ∧ q.row < 84

/-- The oldest queued access to a closed row of subarray k, whose open row is r. -/
def oldestClosed (s : State) (core k r : Nat) : Option QEnt :=
  let c := getCore s core
  c.oq.find? fun q => subOf c q.row = k ∧ q.row < 84 ∧ homeRow c q.row ≠ r

/-- No division or special-function operation is outstanding (R35). -/
def atBoundary (s : State) (t : Thr) : Bool := (getThr s t).long.isNone

/-- A window is due (R79): the open thread does not run, or the oldest access has waited 128 cycles. -/
def windowDue (s : State) (core k r : Nat) : Bool :=
  match oldestClosed s core k r with
  | some q => tstate s ⟨core, r⟩ ≠ stRun || q.arr + Config.windowWait ≤ s.now
  | none => false

/-- See to the queued accesses of subarray k: those to the open row follow the core's turn (R70, R117), those to a closed row
may make a window due, and a closed subarray opens their row before the treadle opens any (R17). -/
def kick (s : State) (core k : Nat) : State :=
  match (getSub s core k).mode with
  | .opened r => if windowDue s core k r then post s 1 (.borrowWindow core k) else s
  | .closed => if (oldest s core k).isSome then post s 0 (.outsideActivation core k) else s
  | .waiting _ .thread _ =>
    if (oldest s core k).isSome then post (modSub s core k fun x => { x with mode := .closed }) 0 (.outsideActivation core k) else s
  | _ => s

/-- A packet for a replica of a majority object (R177). -/
def isReplicaPkt : Event → Bool
  | .tagAndGranuleRead _ | .phase2Write _ => true
  | _ => false

/-- RHOLD holds a stack's replicas (R177). -/
def holdsReplicas (s : State) (stack : Nat) : Bool := s.io.rhold.getLsbD stack

/-- The core's outside-access queue is full (R79); the service row's accesses take no place in it. -/
def queueFull (c : CoreSt) : Bool := Config.queueSize ≤ (c.oq.filter fun q => q.row < 84).length

/-- An access joins its core's queue. -/
def joinQueue (s : State) (core row : Nat) (a : QDo) : State :=
  let c := getCore s core
  kick (setCore s core { c with oq := c.oq ++ [⟨s.now, row, a⟩] }) core (subOf c row)

/-- An access reaches a core's ingress: a gated core wakes first (R82), and the tile holds what comes behind a full queue, in
arrival order (R79).  The first held packet is applied within 1,050 cycles, its own 20 included. -/
def ingress (s : State) (core row : Nat) (a : QDo) : State :=
  let c := getCore s core
  if c.gated then
    let s := setCore s core { c with held := c.held ++ [(row, a)] }
    if c.held.isEmpty then
      { post s (min (s.delays.headD 1) Config.wakeCycles) (.coreWake core) with delays := s.delays.tail }
    else s
  else if queueFull c || !c.held.isEmpty then setCore s core { c with held := c.held ++ [(row, a)] }
  else joinQueue s core row a

/-! ## The row-side cache (R97) -/

/-- The granules of n bytes. -/
def granRange (a n : Nat) : List Nat := (List.range ((a + n + 63) / 64 - a / 64)).map (a / 64 + ·)

/-- Use granules: the most recently used go to the end; the cache holds 16,384. -/
def useGranules (s : State) (tile : Nat) (gs : List Nat) : State :=
  modTile s tile fun t =>
    let l := t.grans.filter (fun g => !gs.contains g) ++ gs
    { t with grans := l.drop (l.length - Config.granuleCacheSize) }

/-- Earlier accepted accesses to the row are queued, or under way at its row buffer. -/
def rowQueued (s : State) (core row : Nat) : Bool :=
  let c := getCore s core
  c.oq.any (fun q => q.row = row && q.act.stands) || c.held.any (fun q => q.1 = row && q.2.stands)
    || s.agenda.any fun x => match x.act with
      | .serve d _ r a => d = core && r = row && a.stands
      | _ => false

/-- The sequencer holds, or closes for itself, the row's subarray: accesses to it wait for a service interval (R270). -/
def takenRow (s : State) (core row : Nat) : Bool :=
  match (getSub s core (subOf (getCore s core) row)).mode with
  | .taken | .closing _ .take => true
  | _ => false

/-- A read of a row is admitted on arrival: its row is cacheable, and nothing stands before it. -/
def onArrival (s : State) (core row : Nat) : Bool :=
  row < 84 && frameCache s core row && !(getCore s core).gated && !rowQueued s core row && !takenRow s core row

/-- Admit a read of n bytes on its arrival; where a granule is not cached, the row is opened to fill it. -/
def admitCached (s : State) (core row a n : Nat) (e : Event) : State :=
  let gs := granRange a n
  let missing := gs.filter fun g => !(getTile s (tileOf core)).grans.contains g
  missing.foldl (fun s _ => ingress s core row .fill) (follow (useGranules s (tileOf core) gs) e)

/-- A packet reaches its core; RHOLD holds those of replicas (R177), and the row-side cache serves walks (R97). -/
def arrive (s : State) (core row : Nat) (e : Event) : State :=
  if isReplicaPkt e && holdsReplicas s (stackOf core) then
    modStack s (stackOf core) fun k => { k with held := k.held ++ [e] }
  else match e with
    | .walk p => if onArrival s core row then admitCached s core row p.place (8 * p.count) e else ingress s core row (.step e)
    | _ => ingress s core row (.step e)

/-- What the tile holds behind a full queue follows as far as there is room (R79). -/
def admitHeld (s : State) (core : Nat) : List (Nat × QDo) → State
  | [] => modCore s core fun c => { c with held := [] }
  | (row, a) :: l =>
    if queueFull (getCore s core) then modCore s core fun c => { c with held := (row, a) :: l }
    else admitHeld (joinQueue s core row a) core l

/-- Take a queued access out for the row buffer of subarray k, where it is applied after d cycles. -/
def applyIn (s : State) (core k d row : Nat) (a : QDo) : State :=
  { s with agenda := insertSched ⟨s.now + d, .local, 0, 0, .serve core k row a⟩ s.agenda }

/-- Apply at an open row buffer the first queued access to it, once its bus request is granted (R70, R95): k 7 is the service
row, which is always open. -/
def flushRow (s : State) (core k : Nat) (mine : QEnt → Bool) : State :=
  match pick mine (getCore s core).oq with
  | none => s
  | some (q, rest) =>
    if (getSub s core k).bus = .granted then
      let s := modSub (modCore s core fun c => { c with oq := rest }) core k fun x => { x with bus := .none }
      let s := applyIn s core k 0 q.row q.act
      match rest.find? mine with
      | some q => raiseBus s core k q.act.bulk q.act.bytes
      | none => s
    else raiseBus s core k q.act.bulk q.act.bytes

/-- After the core's turn, the accesses queued for the open row of subarray k are seen to, at a boundary (R70, R117, R344). -/
def flushOpen (s : State) (core k : Nat) : State :=
  match (getSub s core k).mode with
  | .opened r =>
    let c := getCore s core
    if atBoundary s ⟨core, r⟩ then flushRow s core k fun q => q.row < 84 && homeRow c q.row = r else s
  | _ => s

/-- The accesses to the service row are seen to. -/
def flushService (s : State) (core : Nat) : State := flushRow s core 7 fun q => 84 ≤ q.row

/-- Serve the next queued access to the row that is open for them, 20 cycles each (R17, R79), or close it. -/
def serveNext (s : State) (core k : Nat) : State :=
  let done (r : Nat) (back : Option Nat) : State :=
    beginClose s core k r (match back with | some b => .activate b .reopen | none => .served)
  match (getSub s core k).mode with
  | .serving r back (n + 1) =>
    let c := getCore s core
    match pick (fun q => q.row < 84 && homeRow c q.row = r) c.oq with
    | some (q, rest) =>
      let s := modSub (setCore s core { c with oq := rest }) core k fun x => { x with mode := .serving r back n }
      applyIn (raiseBus s core k q.act.bulk q.act.bytes) core k Config.applyCycles q.row q.act
    | none => done r back
  | .serving r back 0 => done r back
  | _ => s

/-- An access taken out for service waits for the grant of its request for the bus (R95). -/
def serveWaits (s : State) (core k : Nat) : Bool :=
  match (getSub s core k).mode with
  | .serving .. | .taken => (getSub s core k).bus == .waiting
  | _ => false

/-- The grant has been used. -/
def serveGranted (s : State) (core k : Nat) : State :=
  match (getSub s core k).mode with
  | .serving .. | .taken => modSub s core k fun x => { x with bus := .none }
  | _ => s

/-- Open, or wait for the credit to open, the row of a queued access (R17, R79). -/
def openFor (s : State) (core k : Nat) (q : QEnt) (back : Option Nat) : State :=
  wantActivation (modSub s core k fun x => { x with free := q.act.free }) core k (homeRow (getCore s core) q.row) (.serve back) q.arr

/-- Step OUTSIDE_ACTIVATION (R17): the row of the oldest queued access is opened, before the treadle opens any. -/
def outsideActivation (s : State) (core k : Nat) : State :=
  match (getSub s core k).mode, oldest s core k with
  | .closed, some q => openFor s core k q none
  | _, _ => s

/-- Step BORROW_WINDOW (R79): the open row is closed for the row of the oldest access and reopened afterwards. -/
def borrowWindow (s : State) (core k : Nat) : State :=
  match (getSub s core k).mode with
  | .opened r =>
    match oldestClosed s core k r with
    | some q =>
      if atBoundary s ⟨core, r⟩ then
        beginClose (modSub s core k fun x => { x with free := q.act.free }) core k r
          (.activate (homeRow (getCore s core) q.row) (.serve (some r)))
      else s
    | none => s
  | _ => s

/-- Step CREDIT_EARNED (R13). -/
def creditEarned (s : State) (core : Nat) : State :=
  let c := getCore s core
  if c.credits < Config.maxCredits then
    let s := setCore s core { c with credits := c.credits + 1, earnFrom := s.now }
    let s := if c.credits + 1 < Config.maxCredits then post s Config.earnCycles (.creditEarned core) else s
    grantCredits s core
  else s

/-! ## Refresh (R15, R37, R38) -/

/-- Time between two refreshes of a core (R37). -/
def refreshInterval (s : State) (core : Nat) : Nat :=
  if (getStack s (stackOf core)).hot then Config.refreshStep / 2 else Config.refreshStep

/-- The next refresh of the core falls due in the coming cycle. -/
def refreshTick (s : State) (core : Nat) : State :=
  let c := getCore s core
  if c.refAt ≤ s.now + 1 then
    modSub (setCore s core { c with refAt := c.refAt + refreshInterval s core, refSub := (c.refSub + 1) % 8 })
      core c.refSub fun x => { x with due := true }
  else s

/-- The subarray whose refresh is due of those that subarray k governs (R38). -/
def refreshDue (s : State) (core k : Nat) : Option Nat :=
  (if (getCore s core).wide && k < 6 then [k, k + 1] else [k]).find? fun j => (getSub s core j).due

/-- The subarray whose row buffer a refresh of subarray k closes (R38). -/
def refreshHome (s : State) (core k : Nat) : Nat := if (getCore s core).wide && k < 6 then k / 2 * 2 else k

/-- Refreshing subarray k meets the stored bit errors of its rows (R99). -/
def refreshErrors (s : State) (core k : Nat) : State :=
  let mine := s.bitErrs.filter fun p => coreOfAddr p.1 = core ∧ rowOfAddr p.1 / 12 = k
  mine.foldl (fun s p => touchWord s p.1) s

/-- Step REFRESH (R15, R37): a closed or open subarray is closed for 105 cycles.  One that is busy, or whose
thread has a long operation outstanding, is refreshed when that ends. -/
def refresh (s : State) (core k : Nat) : State :=
  let h := refreshHome s core k
  let go (back : Option Nat) : State :=
    let s := modSub s core h fun x => { x with mode := .refreshing back, hold := false }
    let s := modSub s core k fun x => { x with due := false }
    post (refreshErrors s core k) Config.refreshCycles (.refreshEnd core h)
  match (getSub s core h).mode with
  | .closed => if k = 7 && !atBoundary s ⟨core, 84⟩ then s else go none
  | .waiting _ .thread _ | .waiting _ (.serve none) _ => go none
  | .opened r => if atBoundary s ⟨core, r⟩ then go (some r) else s
  | _ => s

/-- A refresh of subarray k that has fallen due meanwhile begins at once (R37). -/
def refreshNow (s : State) (core k : Nat) : State :=
  match refreshDue s core k with
  | some j => refresh s core j
  | none => s

/-! ## The treadle (R35) -/

/-- Turns of slot k in the cycles after a up to b (R33). -/
def turns (k a b : Nat) : Nat := (b + 8 - k) / 8 - (a + 8 - k) / 8

/-- Q of a row (R10, R35). -/
def quantumOf (s : State) (t : Thr) : Nat :=
  if (getThr s t).quantum = 0 then (getCore s t.core).quantum else (getThr s t).quantum

/-- The closing condition of R35 that an open row meets, as the step that closes it. -/
def closing (s : State) (core k r : Nat) : Option Event :=
  let t : Thr := ⟨core, r⟩
  let st := tstate s t
  let w := waitingRows s core k
  let credit := treadleCredit s core r
  let own := prioOf s t
  let kind := bits (getC s t 2) 0 4
  let higher := w.any fun x => own < prioOf s ⟨core, x⟩
  let equal := w.any fun x => own = prioOf s ⟨core, x⟩
  if st = stDone ∨ st = stCancelled ∨ st = stFree ∨ st = stAbsent then some (.treadleClose core k)
  else if credit && higher then some (.treadleClose core k)
  else if st = stRun then
    if credit && equal && quantumOf s t ≤ (getThr s t).issued then some (.quantumExpiry core k) else none
  else if st = stParked && (getThr s t).yielded then
    -- YIELD gives way to an equal PRIO, not to a lower one (R376)
    if credit && equal then some (.treadleClose core k) else none
  else if st = stParked ∧ kind = 1 then
    if credit && !w.isEmpty && 64 ≤ turns k (getThr s t).parkedAt s.now then some (.memParkExpiry core k) else none
  else if credit && !w.isEmpty then some (.treadleClose core k)
  else none

/-- Complete a YIELD (R376): PC advances and the thread is RUN; c14 is read (R130). -/
def completeYield (s : State) (t : Thr) : State :=
  retiring (unpark (modThr s t fun c => { c with yielded := false }) t) t ((encode .yield).getD 0) fun s => retirePlain s t

/-- A thread that has yielded goes on before its row closes. -/
def endYield (s : State) (t : Thr) : State := if (getThr s t).yielded && tstate s t = stParked then completeYield s t else s

/-- The treadle begins to close the open row (R12): steps QUANTUM_EXPIRY, MEM_PARK_EXPIRY and TREADLE_CLOSE. -/
def treadleShut (s : State) (core k : Nat) : State :=
  match (getSub s core k).mode with
  | .opened r =>
    if atBoundary s ⟨core, r⟩ && (closing s core k r).isSome then
      let switch := (nextRow s core k).isSome && treadleCredit s core r
      let s := beginClose (endYield s ⟨core, r⟩) core k r .free
      if switch then modSub s core k fun x => { x with kept := true } else s
    else s
  | _ => s

/-- What the treadle does to the open row r of subarray k at its next boundary, if anything: a refresh first (R37), a borrow
window (R79), a close (R35). -/
def dueStep (s : State) (core k r : Nat) : Option Event :=
  match refreshDue s core k with
  | some j => some (.refresh core j)
  | none => if windowDue s core k r then some (.borrowWindow core k) else closing s core k r

/-- A long operation has completed: where the treadle acts at that boundary, the thread does not issue before it (R12, R37). -/
def holdForTreadle (s : State) (t : Thr) : State :=
  let k := subOf (getCore s t.core) t.row
  if (if t.row < 84 then (getSub s t.core k).mode = .opened t.row && (dueStep s t.core k t.row).isSome else (getSub s t.core 7).due) then
    modSub s t.core k fun x => { x with hold := true }
  else s

/-- What the treadle finds in subarray k at the end of a cycle: the next step, due in the cycle after (R12, R37). -/
def treadleSub (s : State) (core k : Nat) : State :=
  let sub := getSub s core k
  match sub.mode with
  | .opened r =>
    if !atBoundary s ⟨core, r⟩ then s
    else
      let s := if sub.hold then modSub s core k fun x => { x with hold := false } else s
      match dueStep s core k r with
      | some e => post s 1 e
      | none => s
  | .closed =>
    match refreshDue s core k with
    | some j => post s 1 (.refresh core j)
    | none =>
      if (oldest s core k).isSome then post s 0 (.outsideActivation core k)
      else match nextRow s core k with
        | some r => if treadleCredit s core r then post s 1 (.rowActivation core k) else s
        | none => s
  | .waiting _ .thread _ | .waiting _ (.serve none) _ =>
    match refreshDue s core k with | some j => post s 1 (.refresh core j) | none => s
  | .waiting .. | .taken | .activating .. | .closing .. | .serving .. | .refreshing .. => s

/-- A core may be gated (R81). -/
def gateDue (s : State) (core : Nat) : Bool :=
  let c := getCore s core
  !c.gated && c.lastAct + Config.gateCycles ≤ s.now && c.ibOrder.isEmpty && c.ibHeld.isEmpty && c.oq.isEmpty && c.held.isEmpty
    && !c.handler && c.seq.isNone
    && c.subs.all (fun x => match x.mode with | .closed | .refreshing none => true | _ => false)
    && (List.range 84).all fun r => !(isThreadRow s core r && (tstate s ⟨core, r⟩ = stRun || tstate s ⟨core, r⟩ = stParked))

/-- What a core does after its turn: the accesses to open rows are seen to (R70, R117), and the treadle looks at every
subarray. -/
def treadle (s : State) (core : Nat) : State :=
  let s := refreshTick s core
  let s := if (getCore s core).gated || (getCore s core).held.isEmpty then s else admitHeld s core (getCore s core).held
  let s := if (getCore s core).oq.isEmpty then s else flushService ((List.range 7).foldl (fun s k => flushOpen s core k) s) core
  let s := (List.range 7).foldl (fun s k => treadleSub s core k) s
  let s := if (creditWaits s core).isEmpty then s else grantCredits s core
  let s := if (getSub s core 7).due && (getSub s core 7).mode = .closed then post s 1 (.refresh core 7) else s
  if gateDue s core then post s 1 (.coreGate core) else s

/-- What the closed subarray does next: a refresh that has fallen due (R37), a queued outside access, else a waiting row
(R17, R35), for which a credit may be held (R36). -/
def afterClose (s : State) (core k : Nat) (kept : Bool) : State :=
  if (refreshDue s core k).isSome then refreshNow s core k
  else match oldest s core k with
  | some q => openFor s core k q none
  | none =>
    match nextRow s core k with
    | some r =>
      let s := modSub s core k fun x => { x with free := false }
      if kept && rowsOf (getCore s core) r ≤ (getCore s core).credits then beginActivation s core k r .thread
      else wantActivation s core k r .thread s.now
    | none => s

/-- Step ROW_CLOSE (R12): the close is over. -/
def rowClose (s : State) (core k : Nat) : State :=
  match (getSub s core k).mode with
  | .closing r a =>
    let kept := (getSub s core k).kept
    let s := modSub s core k fun x => { x with mode := .closed, kept := false, last := match a with | .free => some r | _ => x.last }
    match a with
    | .free | .served => afterClose s core k kept
    | .activate row p =>
      wantActivation s core k row p (match p, oldest s core k with | .serve _, some q => q.arr | _, _ => s.now)
    | .refresh back => modSub s core k fun x => { x with mode := .refreshing back }
    | .take => modSub s core k fun x => { x with mode := .taken }
  | _ => s

/-- Step CORE_GATE (R81): the core holds 32 credits. -/
def coreGate (s : State) (core : Nat) : State :=
  if gateDue s core then modCore (unpost s (.creditEarned core)) core fun c => { c with gated := true, credits := Config.maxCredits }
  else s

/-- Step CORE_WAKE (R82): held packets are applied in arrival order.  The 65,536 cycles without an activation are counted again from the
wake (DESIGN CHOICE, log 69: R81 does not say whether a wake ends the count). -/
def coreWake (s : State) (core : Nat) : State :=
  let c := getCore s core
  admitHeld (setCore s core { c with gated := false, held := [], lastAct := s.now }) core c.held

/-- Wake a core that a placement aims at (R82). -/
def wakeCore (s : State) (core : Nat) : State := if (getCore s core).gated then coreWake s core else s

/-! ## Issue (R33) -/

/-- The governor lets the turn of this cycle issue (R199): it withholds turns evenly while the last sample
exceeds PWRLIM. -/
def turnAllowed (s : State) : Bool :=
  if s.io.pwrlim.toNat < s.io.pwrWatts.toNat then
    s.now * s.io.pwrIssue.toNat / 4294967296 < (s.now + 1) * s.io.pwrIssue.toNat / 4294967296
  else true

/-- A side stands at the boundary of the called checkpoint, at its own trap, or at an UNPAIR, which goes no further (R126, R128,
R319). -/
def atCheckpoint (s : State) (p : PairSt) (t : Thr) : Bool :=
  p.called && ((p.stopAt - p.start).toNat ≤ (getC s t 14 - p.start).toNat
    || (if t = p.leader then p.trapLead.isSome else p.trapFoll.isSome) || atUnpair s t)

/-- A paired thread is held out of issue: a checkpoint is called and it stands at a boundary, or it must wait for
forwarded values or room for them (R125, R126). -/
def pairHeld (s : State) (t : Thr) : Bool :=
  match pairOf s t with
  | none => false
  | some p => atCheckpoint s p t || p.copying.isSome || (t = p.leader && p.fwd.length - p.taken ≥ Config.forwardedValues)

/-- The thread of slot k, if it can issue now (R33). -/
def slotThread (s : State) (core k : Nat) : Option Thr :=
  let ready (t : Thr) : Option Thr :=
    let c := getThr s t
    if tstate s t = stRun && c.long.isNone && !c.codeWait && !pairHeld s t
        && (match c.lastIssue with | some l => l + 4 ≤ s.now | none => true) then some t else none
  if k = 7 then
    if (getCore s core).handler && (getSub s core 7).mode = .closed && !(getSub s core 7).hold then ready ⟨core, 84⟩ else none
  else if (getSub s core k).hold then none
  else match (getSub s core k).mode with
    | .opened r => ready ⟨core, r⟩
    | _ => none

/-- The thread that issues in this cycle: the owner of the turn, else the first slot after it that can (R33). -/
def choose (s : State) (core : Nat) : Option Thr :=
  if (getCore s core).gated || !turnAllowed s then none
  else (List.range 8).findSome? fun i => slotThread s core ((s.now + i) % 8)

/-- The turn of a slot whose thread has yielded (R376): the thread is RUN.  A withheld turn is an empty turn (R199). -/
def yieldTurn (s : State) (core : Nat) : State :=
  if !turnAllowed s then s else match (getSub s core (s.now % 8)).mode with
  | .opened r =>
    let t : Thr := ⟨core, r⟩
    if (getThr s t).yielded && tstate s t = stParked && (waitingRows s core (s.now % 8)).all (fun x => prioOf s ⟨core, x⟩ < prioOf s t)
    then completeYield s t else s
  | _ => s

/-- Count an issue (R33, R35). -/
def noteIssue (s : State) (t : Thr) : State :=
  modThr s t fun c => { c with lastIssue := some s.now, issued := c.issued + 1 }

end Sys2Proof.Machine
end

