-- ==== Sys2Proof/Machine/Flags.lean ====
section
/-! DEFINITION. The sticky flags and the rounding of exact results (R24, R222 to R229). -/
namespace Sys2Proof.Machine

/-- A result of at most 64 bits with the conditions that it raises (R228). -/
abbrev FRes := Nat × Word

/-- A floating-point format (R222): exponent and fraction bits, bias, and whether it has infinities (R223). -/
structure FFmt where
  ebits  : Nat
  fbits  : Nat
  bias   : Nat
  hasInf : Bool
  deriving DecidableEq, Repr

def FFmt.f64 : FFmt := ⟨11, 52, 1023, true⟩
def FFmt.f32 : FFmt := ⟨8, 23, 127, true⟩
def FFmt.f16 : FFmt := ⟨5, 10, 15, true⟩
def FFmt.bf16 : FFmt := ⟨8, 7, 127, true⟩
def FFmt.e4m3 : FFmt := ⟨4, 3, 7, false⟩
def FFmt.e5m2 : FFmt := ⟨5, 2, 15, true⟩

def FFmt.width (f : FFmt) : Nat := 1 + f.ebits + f.fbits
/-- FZ and DAZ apply: not to e4m3 and e5m2 (R227). -/
def FFmt.flushes (f : FFmt) : Bool := f.width ≠ 8
def FFmt.topExp (f : FFmt) : Nat := 2 ^ f.ebits - 1
/-- The sign bit in place. -/
def FFmt.sign (f : FFmt) (neg : Bool) : Nat := if neg then 2 ^ (f.ebits + f.fbits) else 0
/-- The canonical NaN (R225). -/
def FFmt.nan (f : FFmt) : Nat :=
  if f.hasInf then f.topExp * 2 ^ f.fbits + 2 ^ (f.fbits - 1) else 2 ^ (f.ebits + f.fbits) - 1
def FFmt.inf (f : FFmt) (neg : Bool) : Nat := f.sign neg + f.topExp * 2 ^ f.fbits
/-- The largest finite magnitude (R222, R223). -/
def FFmt.largest (f : FFmt) : Nat :=
  if f.hasInf then f.topExp * 2 ^ f.fbits - 1 else 2 ^ (f.ebits + f.fbits) - 2

/-- A value as an operation reads it: a NaN and whether it signals, an infinity, or ± m × 2^e. -/
inductive FVal
  | nan (signalling : Bool)
  | inf (neg : Bool)
  | fin (neg : Bool) (m : Nat) (e : Int)
  deriving DecidableEq, Repr

/-- Read an encoding (R222, R223, R225); with daz a subnormal reads as zero with its sign (R227). -/
def FFmt.unpack (f : FFmt) (daz : Bool) (x : Nat) : FVal :=
  let neg := x / 2 ^ (f.ebits + f.fbits) % 2 = 1
  let e := x / 2 ^ f.fbits % 2 ^ f.ebits
  let m := x % 2 ^ f.fbits
  if e = f.topExp ∧ f.hasInf then
    if m = 0 then .inf neg else .nan (m < 2 ^ (f.fbits - 1))
  else if !f.hasInf && e = f.topExp && m = 2 ^ f.fbits - 1 then .nan false
  else if e = 0 then
    if daz && f.flushes then .fin neg 0 0 else .fin neg m (1 - f.bias - f.fbits)
  else .fin neg (m + 2 ^ f.fbits) (e - f.bias - f.fbits)

/-- m × 2^e as a multiple of 2^q, rounded in a mode, and whether that is inexact (R226). -/
def roundAt (r : Round) (neg : Bool) (m : Nat) (e q : Int) : Nat × Bool :=
  if q ≤ e then (m * 2 ^ (e - q).toNat, false)
  else
    let k := (q - e).toNat
    let n := m / 2 ^ k
    let rem := m % 2 ^ k
    let half := 2 ^ (k - 1)
    let up : Bool := match r with
      | .rne => half < rem || (rem == half && n % 2 == 1)
      | .rtz => false
      | .rdn => neg
      | .rup => !neg
    if rem = 0 then (n, false) else (if up then n + 1 else n, true)

/-- What an overflow delivers (R228, R229). -/
inductive Over | mode (r : Round) | saturate | nanMode (r : Round)
  deriving DecidableEq, Repr

/-- The result of an overflow (R228, R229). -/
def FFmt.overflow (f : FFmt) (neg : Bool) (o : Over) : FRes :=
  let byMode (r : Round) : FRes :=
    let toInf := match r with | .rne => true | .rtz => false | .rdn => neg | .rup => !neg
    (if toInf then f.inf neg else f.sign neg + f.largest, fOF ||| fNX)
  match o with
  | .saturate => (f.sign neg + f.largest, fSAT ||| fNX)
  | .mode r => if f.hasInf then byMode r else (f.nan, fOF ||| fNX)
  | .nanMode r => if f.hasInf then byMode r else (f.nan, fOF ||| fNX)

/-- Deliver ± m × 2^e, rounded once: tiny results, flushing and overflow as R227 to R229 state. -/
def FFmt.round (f : FFmt) (r : Round) (fz : Bool) (o : Over) (neg : Bool) (m : Nat) (e : Int) : FRes :=
  if m = 0 then (f.sign neg, 0)
  else
    let emin : Int := 1 - f.bias
    let top : Int := Nat.log2 m + e
    let u := (roundAt r neg m e (top - f.fbits)).1
    let tiny : Bool := (Nat.log2 u : Int) + (top - f.fbits) < emin
    if tiny && fz && f.flushes then (f.sign neg, fUF ||| fNX)
    else
      let q := max (top - f.fbits) (emin - f.fbits)
      let d := roundAt r neg m e q
      let n := if 2 ^ (f.fbits + 1) ≤ d.1 then d.1 / 2 else d.1
      let q := if 2 ^ (f.fbits + 1) ≤ d.1 then q + 1 else q
      let code := if n < 2 ^ f.fbits then n else ((q + f.fbits + f.bias).toNat - 1) * 2 ^ f.fbits + n
      if f.largest < code then f.overflow neg o
      else (f.sign neg + code, if d.2 then (if tiny then fNX ||| fUF else fNX) else 0)

/-- The rounding environment that an instruction reads from c3 (R24), or an engine's own (R227). -/
structure FEnv where
  rm     : Round
  fz     : Bool
  daz    : Bool
  cvtnan : Bool
  deriving DecidableEq, Repr

/-- RNE without FZ and DAZ: engine jobs and atomics at an owner (R134, R227). -/
def FEnv.engine : FEnv := ⟨.rne, false, false, false⟩

/-- The rounding mode of a code of c3 RM (R226). -/
def roundOfCode : Nat → Round
  | 0 => .rne
  | 1 => .rtz
  | 2 => .rdn
  | _ => .rup

/-- The environment in c3 (R24). -/
def envOf (c3 : Word) : FEnv := ⟨roundOfCode (bits c3 8 2), bits c3 10 1 = 1, bits c3 11 1 = 1, bits c3 12 1 = 1⟩

/-- A rounding field overrides RM (R226). -/
def FEnv.withField (e : FEnv) : RField → FEnv
  | .static r => { e with rm := r }
  | .dyn => e

end Sys2Proof.Machine
end

