-- ==== Sys2Proof/Machine/Float.lean ====
section
/-! DEFINITION. Floating-point arithmetic, comparison and conversion (R225 to R231), each from the exact result
rounded once. -/
namespace Sys2Proof.Machine

/-! ## Exact helpers -/

/-- The bits of a square root below bit k, added to r. -/
def isqrtBits : Nat → Nat → Nat → Nat
  | 0, _, r => r
  | k + 1, n, r => isqrtBits k n (if (r + 2 ^ k) * (r + 2 ^ k) ≤ n then r + 2 ^ k else r)

/-- The integer square root. -/
def isqrt (n : Nat) : Nat := isqrtBits (Nat.log2 n / 2 + 1) n 0

/-- A signed number as sign and magnitude. -/
def signed (neg : Bool) (m : Nat) : Int := if neg then -(m : Int) else m

/-- NV when a signalling NaN is among the operands (R228). -/
def nvOf (l : List FVal) : Word := if l.any fun v => v == .nan true then fNV else 0
def FVal.isNan : FVal → Bool
  | .nan _ => true
  | .inf _ | .fin .. => false
def FVal.neg : FVal → FVal
  | .nan s => .nan s
  | .inf n => .inf !n
  | .fin n m e => .fin (!n) m e

/-- The exact sum of two finite numbers, rounded once; the sign of an exact zero by R225. -/
def fsumFin (f : FFmt) (v : FEnv) (n1 : Bool) (m1 : Nat) (e1 : Int) (n2 : Bool) (m2 : Nat) (e2 : Int) : FRes :=
  let e := min e1 e2
  let x := signed n1 (m1 * 2 ^ (e1 - e).toNat) + signed n2 (m2 * 2 ^ (e2 - e).toNat)
  if x = 0 then
    (f.sign (if m1 = 0 ∧ m2 = 0 ∧ n1 = n2 then n1 else v.rm == .rdn), 0)
  else f.round v.rm v.fz (.mode v.rm) (x < 0) x.natAbs e

/-- a + b of read values. -/
def fsumVal (f : FFmt) (v : FEnv) : FVal → FVal → FRes
  | .nan a, b => (f.nan, nvOf [.nan a, b])
  | a, .nan b => (f.nan, nvOf [a, .nan b])
  | .inf a, .inf b => if a = b then (f.inf a, 0) else (f.nan, fNV)
  | .inf a, .fin .. => (f.inf a, 0)
  | .fin .., .inf b => (f.inf b, 0)
  | .fin n1 m1 e1, .fin n2 m2 e2 => fsumFin f v n1 m1 e1 n2 m2 e2

def fadd (f : FFmt) (v : FEnv) (a b : Nat) : FRes := fsumVal f v (f.unpack v.daz a) (f.unpack v.daz b)
def fsub (f : FFmt) (v : FEnv) (a b : Nat) : FRes := fsumVal f v (f.unpack v.daz a) (f.unpack v.daz b).neg

def fmulVal (f : FFmt) (v : FEnv) : FVal → FVal → FRes
  | .nan a, b => (f.nan, nvOf [.nan a, b])
  | a, .nan b => (f.nan, nvOf [a, .nan b])
  | .inf a, .inf b => (f.inf (a != b), 0)
  | .inf a, .fin n m _ => if m = 0 then (f.nan, fNV) else (f.inf (a != n), 0)
  | .fin n m _, .inf b => if m = 0 then (f.nan, fNV) else (f.inf (n != b), 0)
  | .fin n1 m1 e1, .fin n2 m2 e2 => f.round v.rm v.fz (.mode v.rm) (n1 != n2) (m1 * m2) (e1 + e2)

def fmul (f : FFmt) (v : FEnv) (a b : Nat) : FRes := fmulVal f v (f.unpack v.daz a) (f.unpack v.daz b)

/-- The quotient with two more bits than any rounding needs, the last one sticky. -/
def fdivFin (f : FFmt) (v : FEnv) (neg : Bool) (m1 : Nat) (e1 : Int) (m2 : Nat) (e2 : Int) : FRes :=
  let k := f.fbits + 4 + Nat.log2 m2
  let n := m1 * 2 ^ k
  f.round v.rm v.fz (.mode v.rm) neg (2 * (n / m2) + (if n % m2 = 0 then 0 else 1)) (e1 - e2 - k - 1)

def fdivVal (f : FFmt) (v : FEnv) : FVal → FVal → FRes
  | .nan a, b => (f.nan, nvOf [.nan a, b])
  | a, .nan b => (f.nan, nvOf [a, .nan b])
  | .inf _, .inf _ => (f.nan, fNV)
  | .inf a, .fin n _ _ => (f.inf (a != n), 0)
  | .fin n _ _, .inf b => (f.sign (n != b), 0)
  | .fin n1 m1 e1, .fin n2 m2 e2 =>
    if m2 = 0 then (if m1 = 0 then (f.nan, fNV) else (f.inf (n1 != n2), fDZ))
    else if m1 = 0 then (f.sign (n1 != n2), 0)
    else fdivFin f v (n1 != n2) m1 e1 m2 e2

def fdiv (f : FFmt) (v : FEnv) (a b : Nat) : FRes := fdivVal f v (f.unpack v.daz a) (f.unpack v.daz b)

def fsqrtVal (f : FFmt) (v : FEnv) : FVal → FRes
  | .nan a => (f.nan, nvOf [.nan a])
  | .inf n => if n then (f.nan, fNV) else (f.inf false, 0)
  | .fin n m e =>
    if m = 0 then (f.sign n, 0)
    else if n then (f.nan, fNV)
    else
      let k := 2 * f.fbits + 8
      let k := if (e - k) % 2 = 0 then k else k + 1
      let x := m * 2 ^ k
      let r := isqrt x
      f.round v.rm v.fz (.mode v.rm) false (2 * r + (if r * r = x then 0 else 1)) ((e - k) / 2 - 1)

def fsqrt (f : FFmt) (v : FEnv) (a : Nat) : FRes := fsqrtVal f v (f.unpack v.daz a)

/-- a × b + c of read values, rounded once (R226, R228). -/
def fmaVal (f : FFmt) (v : FEnv) (a b c : FVal) : FRes :=
  match a, b with
  | .inf _, .fin _ 0 _ => (f.nan, fNV)
  | .fin _ 0 _, .inf _ => (f.nan, fNV)
  | .nan x, b => (f.nan, nvOf [.nan x, b, c])
  | a, .nan y => (f.nan, nvOf [a, .nan y, c])
  | .inf x, .inf y => fsumVal f v (.inf (x != y)) c
  | .inf x, .fin n _ _ => fsumVal f v (.inf (x != n)) c
  | .fin n _ _, .inf y => fsumVal f v (.inf (n != y)) c
  | .fin n1 m1 e1, .fin n2 m2 e2 => fsumVal f v (.fin (n1 != n2) (m1 * m2) (e1 + e2)) c

/-- ±(a × b) ± c (R311). -/
def ffma (f : FFmt) (v : FEnv) (negProd negC : Bool) (a b c : Nat) : FRes :=
  let a := f.unpack v.daz a
  let c := f.unpack v.daz c
  fmaVal f v (if negProd then a.neg else a) (f.unpack v.daz b) (if negC then c.neg else c)

/-! ## Order (R230) -/

/-- a < b of numbers, −0 equal to +0. -/
def fltVal : FVal → FVal → Bool
  | .nan _, _ => false
  | _, .nan _ => false
  | .inf a, .inf b => a && !b
  | .inf a, .fin .. => a
  | .fin .., .inf b => !b
  | .fin n1 m1 e1, .fin n2 m2 e2 =>
    let e := min e1 e2
    signed n1 (m1 * 2 ^ (e1 - e).toNat) < signed n2 (m2 * 2 ^ (e2 - e).toNat)

/-- Comparison conditions of VCMP and FCMP, with NV (R230). -/
def fcompare (f : FFmt) (daz : Bool) (c : VCond) (a b : Nat) : Bool × Word :=
  let x := f.unpack daz a
  let y := f.unpack daz b
  if x.isNan || y.isNan then
    match c with
    | .eq => (false, nvOf [x, y])
    | .ne => (true, nvOf [x, y])
    | .lt | .le | .gt | .ge => (false, fNV)
  else
    let lt := fltVal x y
    let gt := fltVal y x
    (match c with
      | .eq => !lt && !gt | .ne => lt || gt | .lt => lt | .le => !gt | .gt => gt | .ge => !lt, 0)

/-- The operand as it is read: with DAZ a subnormal is a zero (R227). -/
def FFmt.asRead (f : FFmt) (daz : Bool) (x : Nat) : Nat :=
  match f.unpack daz x with
  | .fin n 0 _ => f.sign n
  | .fin .. | .inf _ | .nan _ => x

/-- Minimum and maximum (R230): −0 is less than +0; one NaN gives the other operand. -/
def fminmax (f : FFmt) (daz isMax : Bool) (a b : Nat) : FRes :=
  let x := f.unpack daz a
  let y := f.unpack daz b
  let nv := nvOf [x, y]
  if x.isNan then (if y.isNan then f.nan else f.asRead daz b, nv)
  else if y.isNan then (f.asRead daz a, nv)
  else
    let sgn (n : Nat) : Bool := n / 2 ^ (f.ebits + f.fbits) % 2 = 1
    let aLess := fltVal x y || (!fltVal y x && sgn a && !sgn b)
    (f.asRead daz (if aLess != isMax then a else b), nv)

/-- FZ on a result that is an operand (R227, R307). -/
def flushResult (f : FFmt) (fz : Bool) (r : FRes) : FRes :=
  match f.unpack false r.1 with
  | .fin n m e => if fz && m ≠ 0 then (match f.round .rne true (.mode .rne) n m e with | (x, fl) => (x, r.2 ||| fl)) else r
  | .inf _ | .nan _ => r

/-! ## Kinds (R309) -/

def fkind (f : FFmt) (x : Nat) : Word :=
  let sgn : Word := if x / 2 ^ (f.ebits + f.fbits) % 2 = 1 then 8 else 0
  match f.unpack false x with
  | .nan s => sgn ||| (if s then 5 else 4)
  | .inf _ => sgn ||| 3
  | .fin _ m e =>
    let int : Word := if e ≥ 0 ∨ m % 2 ^ (-e).toNat = 0 then 16 else 0
    let cls : Word := if m = 0 then 0 else if x / 2 ^ f.fbits % 2 ^ f.ebits = 0 then 1 else 2
    sgn ||| int ||| cls

/-! ## Conversions (R229) -/

/-- The overflow mode in force: c3 CVTNAN unless named (R229). -/
def overOf (v : FEnv) : OvMode → Over
  | .c3 => if v.cvtnan then .nanMode v.rm else .saturate
  | .sat => .saturate
  | .nan => .nanMode v.rm

/-- Floating to floating; an infinity into e4m3 follows the overflow mode. -/
def cvtFloat (d s : FFmt) (v : FEnv) (o : OvMode) (x : Nat) : FRes :=
  match s.unpack v.daz x with
  | .nan sig => (d.nan, nvOf [.nan sig])
  | .inf n =>
    if d.hasInf then (d.inf n, 0)
    else match overOf v o with
      | .saturate => (d.sign n + d.largest, fSAT)
      | .mode _ | .nanMode _ => (d.nan, fNV)
  | .fin n m e => d.round v.rm v.fz (overOf v o) n m e

/-- Floating to integer: rounded, then clamped to lo .. hi. -/
def cvtToInt (s : FFmt) (v : FEnv) (lo hi : Int) (x : Nat) : Int × Word :=
  match s.unpack v.daz x with
  | .nan _ => (0, fNV ||| fSAT)
  | .inf n => (if n then lo else hi, fNV ||| fSAT)
  | .fin n m e =>
    let r := roundAt v.rm n m e 0
    let i := signed n r.1
    if i < lo then (lo, fNV ||| fSAT)
    else if hi < i then (hi, fNV ||| fSAT)
    else (i, if r.2 then fNX else 0)

/-- Integer to floating; OF is raised for 64-bit sources only (R229, R351, log 48). -/
def cvtFromInt (d : FFmt) (v : FEnv) (o : OvMode) (wide : Bool) (i : Int) : FRes :=
  let r := d.round v.rm v.fz (overOf v o) (i < 0) i.natAbs 0
  (r.1, if wide then r.2 else r.2 &&& ~~~fOF)

end Sys2Proof.Machine
end

