-- ==== Sys2Proof/Machine/Operands.lean ====
section
/-! DEFINITION. The operand forms of the encoded instructions: sizes and types (R1, R283), lanes and predicates
(R19, R21), and the frames that meanings fill: read the named words, compute, write and retire. -/
namespace Sys2Proof

/-- Bytes of a size (R1). -/
def Size.bytes : Size → Nat
  | .b => 1 | .h => 2 | .w => 4 | .d => 8

/-- E of a type code (R283). -/
def VType.size : VType → Nat
  | .i8 | .z8 | .e4m3 | .e5m2 => 1
  | .i16 | .z16 | .f16 | .bf16 => 2
  | .i32 | .z32 | .f32 => 4
  | .i64 | .z64 | .f64 => 8

/-- The i types (R219). -/
def VType.isSigned : VType → Bool
  | .i8 | .i16 | .i32 | .i64 => true
  | .z8 | .z16 | .z32 | .z64 | .f16 | .bf16 | .f32 | .f64 | .e4m3 | .e5m2 => false

end Sys2Proof

namespace Sys2Proof.Machine

abbrev Out := Host.Outcome State Fault Refusal

/-- The floating-point format of a type code (R222, R283). -/
def fmtOf : VType → FFmt
  | .f16 => .f16
  | .bf16 => .bf16
  | .f64 => .f64
  | .e4m3 => .e4m3
  | .e5m2 => .e5m2
  | .f32 | .i8 | .i16 | .i32 | .i64 | .z8 | .z16 | .z32 | .z64 => .f32

def fmtOfPrec : Prec → FFmt
  | .d => .f64
  | .s => .f32

/-- The ftype codes of VFMA (R283). -/
def FType.vtype : FType → VType
  | .f64 => .f64
  | .f32 => .f32
  | .bf16 => .bf16
  | .f16 => .f16

/-- The two's-complement value of the low w bits. -/
def sval (w x : Nat) : Int := if x % 2 ^ w < 2 ^ (w - 1) then (x % 2 ^ w : Nat) else ((x % 2 ^ w : Nat) : Int) - 2 ^ w
/-- A value modulo 2^w. -/
def wrap (w : Nat) (x : Int) : Nat := (x % (2 ^ w : Nat)).toNat
/-- The value of a lane or register by a type's signedness (R219). -/
def ival (t : VType) (x : Nat) : Int := if t.isSigned then sval (8 * t.size) x else (x : Int)
/-- Least and greatest value of an integer type (R219). -/
def ilo (t : VType) : Int := if t.isSigned then -(2 ^ (8 * t.size - 1) : Nat) else 0
def ihi (t : VType) : Int := if t.isSigned then (2 ^ (8 * t.size - 1) : Nat) - 1 else (2 ^ (8 * t.size) : Nat) - 1
/-- A saturating result (R221). -/
def clampTo (lo hi x : Int) : Int × Word := if x < lo then (lo, fSAT) else if hi < x then (hi, fSAT) else (x, 0)

/-- A 32-bit result sign-extended (R219). -/
def sext32 (x : BitVec 32) : Word := x.signExtend 64

/-! ## Lanes and predicates (R19, R21) -/

/-- Lanes of an E-byte type in a register. -/
def lanesOf (E : Nat) (v : Vec) : List Nat := (List.range (32 / E)).map fun i => (v.extractLsb' (8 * E * i) (8 * E)).toNat
/-- The register that holds these lanes. -/
def ofLanes (E : Nat) (l : List Nat) : Vec := BitVec.ofNat 256 (l.foldr (fun x acc => x % 2 ^ (8 * E) + 2 ^ (8 * E) * acc) 0)
/-- Element i is active (R21). -/
def active (g : Pred) (E i : Nat) : Bool := g.getLsbD (i * E)
/-- All E bits of each element's group (R21). -/
def groups (E : Nat) (l : List Bool) : Pred :=
  BitVec.ofNat 32 (l.foldr (fun b acc => (if b then 2 ^ E - 1 else 0) + 2 ^ E * acc) 0)
/-- The byte lanes of the active elements. -/
def activeBytes (g : Pred) (E : Nat) : Pred := groups E ((List.range (32 / E)).map (active g E))

/-- Write the byte lanes of a mask; a word is written whole only when all its bytes are (R99). -/
def setVMasked (s : State) (t : Thr) (d : VReg) (x : Vec) (m : Pred) : State :=
  (List.range 4).foldl (fun s w =>
    let a := vAddr t d.toNat + 8 * w
    let bs := (List.range 8).map fun i => (i, x.extractLsb' (64 * w + 8 * i) 8)
    if m.extractLsb' (8 * w) 8 = 0xFF#8 then putBytes s a (bs.map (·.2))
    else bs.foldl (fun s p => if m.getLsbD (8 * w + p.1) then putBytes s (a + p.1) [p.2] else s) s) s

/-! ## Frames of register instructions -/

/-- Read scalar registers and compute one (R297). -/
def withS (s : State) (rs : List SReg) (k : State → State) : Out := .next (withWords s (sWords s.cur rs) k)

/-- Read scalar registers for an operation that retires later (R34). -/
def withSLong (s : State) (rs : List SReg) (k : State → State) : Out := .next (withRegs s (sWords s.cur rs) k)

/-- `OP sd, sa, sb` with a result and no flag. -/
def opSSS (s : State) (d a b : SReg) (f : Word → Word → Word) : Out :=
  withS s [a, b] fun s => retireS s s.cur d (f (getS s s.cur a) (getS s s.cur b))

/-- `OP sd, sa`. -/
def opSS (s : State) (d a : SReg) (f : Word → Word) : Out :=
  withS s [a] fun s => retireS s s.cur d (f (getS s s.cur a))

/-- Write a scalar register, raise flags and retire. -/
def retireSF (s : State) (t : Thr) (d : SReg) (x f : Word) : State := retireS (raise s t f) t d x

/-- c3 joins the words read where a flag is to be set (R130). -/
def withFlags (s : State) (f : Word) (k : State → State) : State :=
  if f = 0 then k s else withWords s [cAddr s.cur 3] k

/-- An instruction that may set SAT and reads c3 only then (R130, R221). -/
def opSat (s : State) (d a b : SReg) (f : Word → Word → Int) : Out :=
  withS s [a, b] fun s =>
    let r := clampTo (-(2 ^ 63 : Nat)) ((2 ^ 63 : Nat) - 1) (f (getS s s.cur a) (getS s s.cur b))
    withFlags s r.2 fun s => retireSF s s.cur d (BitVec.ofInt 64 r.1) r.2

/-- Hold the thread out of issue; the result is written and the instruction retires when the time is over
(R34, R297, R344). -/
def startLong (s : State) (cycles : Nat) (w : RegWrite) (f : Word) : State :=
  let t := s.cur
  post (modThr s t fun c => { c with long := some ⟨s.now + cycles, w, f⟩ }) cycles (.longOpDone t)

/-- A scalar operation that reads c3. -/
def withC3 (s : State) (rs : List SReg) (k : State → FEnv → State) : Out :=
  .next (withWords s (cAddr s.cur 3 :: sWords s.cur rs) fun s => k s (envOf (getC s s.cur 3)))

/-- A long scalar operation that reads c3. -/
def withC3Long (s : State) (rs : List SReg) (k : State → FEnv → State) : Out :=
  .next (withRegs s (cAddr s.cur 3 :: sWords s.cur rs) fun s => k s (envOf (getC s s.cur 3)))

/-- The source in the selected precision (R307). -/
def precVal (p : Prec) (x : Word) : Nat := match p with | .d => x.toNat | .s => x.toNat % 2 ^ 32

/-- A floating-point result and its flags, in one turn or as a long operation. -/
def finishF (s : State) (d : SReg) (r : FRes) (long : Option Nat) : State :=
  match long with
  | none => retireSF s s.cur d (BitVec.ofNat 64 r.1) r.2
  | some n => startLong s n (.s d.toNat (BitVec.ofNat 64 r.1)) r.2

/-- A narrow thread that names v16 to v31 traps (R40); then the named words are read. -/
def withV (s : State) (named reads : List VReg) (ps : List PReg) (extra : List Nat) (k : State → State) : Out :=
  .next (if named.any (fun v => 16#5 ≤ v) && !isWide s s.cur then trapNow s .illegalReg
    else withWords s (extra ++ vWords s.cur reads ++ pWords s.cur ps) k)

/-- The same for an operation that retires later (R34). -/
def withVLong (s : State) (named reads : List VReg) (ps : List PReg) (extra : List Nat) (k : State → State) : Out :=
  .next (if named.any (fun v => 16#5 ≤ v) && !isWide s s.cur then trapNow s .illegalReg
    else withRegs s (extra ++ vWords s.cur reads ++ pWords s.cur ps) k)

/-- Write the active lanes of vd, raise the flags of the active lanes and retire. -/
def finishV (s : State) (d : VReg) (E : Nat) (g : Pred) (l : List FRes) : State :=
  let x := ofLanes E (l.map (·.1))
  let f := ((l.mapIdx fun i r => if active g E i then r.2 else 0).foldl (· ||| ·) 0)
  withFlags s f fun s =>
    let s := setVMasked (raise s s.cur f) s.cur d x (activeBytes g E)
    retire s s.cur (foldVec (getV s s.cur d))

/-- The words of a destination that keeps some of its lanes: none is read (R41). -/
def opV2 (s : State) (d a b : VReg) (g : PReg) (E : Nat) (extra : List Nat) (f : State → Nat → Nat → FRes) : Out :=
  withV s [d, a, b] [a, b] [g] extra fun s =>
    finishV s d E (getP s s.cur g)
      (List.zipWith (f s) (lanesOf E (getV s s.cur a)) (lanesOf E (getV s s.cur b)))

def opV1 (s : State) (d a : VReg) (g : PReg) (E : Nat) (extra : List Nat) (f : State → Nat → FRes) : Out :=
  withV s [d, a] [a] [g] extra fun s =>
    finishV s d E (getP s s.cur g) ((lanesOf E (getV s s.cur a)).map (f s))

/-- Merge the active lanes of a new value into an old one. -/
def mergeLanes (g : Pred) (E : Nat) (old new : List Nat) : List Nat :=
  (List.zip old new).mapIdx fun i p => if active g E i then p.2 else p.1

/-- A long vector operation: the whole register as it will stand is kept until the time is over. -/
def finishVLong (s : State) (d : VReg) (E : Nat) (g : Pred) (cycles : Nat) (l : List FRes) : State :=
  let f := ((l.mapIdx fun i r => if active g E i then r.2 else 0).foldl (· ||| ·) 0)
  startLong s cycles (.v d.toNat (ofLanes E (l.map (·.1))) (activeBytes g E)) f

end Sys2Proof.Machine
end

