-- ==== Sys2Proof/Machine/Scalar.lean ====
section
/-! DEFINITION. Integer instructions, immediates and constants (R298 to R303). -/
namespace Sys2Proof.Machine

/-- 1 or 0. -/
def flag (b : Bool) : Word := if b then 1 else 0
/-- The shift count of a 64-bit shift (R221, R298). -/
def shiftCount (y : Word) : Nat := y.toNat % 64

/-! ## Major 0x01 (R298) -/

def execAdd (d a b : SReg) (s : State) : Out := opSSS s d a b fun x y => x + y
def execSub (d a b : SReg) (s : State) : Out := opSSS s d a b fun x y => x - y
def execAddw (d a b : SReg) (s : State) : Out := opSSS s d a b fun x y => sext32 ((x + y).setWidth 32)
def execSubw (d a b : SReg) (s : State) : Out := opSSS s d a b fun x y => sext32 ((x - y).setWidth 32)
def execAnd (d a b : SReg) (s : State) : Out := opSSS s d a b fun x y => x &&& y
def execOr (d a b : SReg) (s : State) : Out := opSSS s d a b fun x y => x ||| y
def execXor (d a b : SReg) (s : State) : Out := opSSS s d a b fun x y => x ^^^ y
def execAndn (d a b : SReg) (s : State) : Out := opSSS s d a b fun x y => x &&& ~~~y
def execOrn (d a b : SReg) (s : State) : Out := opSSS s d a b fun x y => x ||| ~~~y
def execShl (d a b : SReg) (s : State) : Out := opSSS s d a b fun x y => x <<< shiftCount y
def execShr (d a b : SReg) (s : State) : Out := opSSS s d a b fun x y => x >>> shiftCount y
def execSra (d a b : SReg) (s : State) : Out := opSSS s d a b fun x y => x.sshiftRight (shiftCount y)
def execRol (d a b : SReg) (s : State) : Out := opSSS s d a b fun x y => x.rotateLeft (shiftCount y)
def execRor (d a b : SReg) (s : State) : Out := opSSS s d a b fun x y => x.rotateRight (shiftCount y)
def execSlt (d a b : SReg) (s : State) : Out := opSSS s d a b fun x y => flag (x.slt y)
def execSltu (d a b : SReg) (s : State) : Out := opSSS s d a b fun x y => flag (x.ult y)
def execSeq (d a b : SReg) (s : State) : Out := opSSS s d a b fun x y => flag (x == y)
def execSne (d a b : SReg) (s : State) : Out := opSSS s d a b fun x y => flag (x != y)
def execMin (d a b : SReg) (s : State) : Out := opSSS s d a b fun x y => if x.slt y then x else y
def execMax (d a b : SReg) (s : State) : Out := opSSS s d a b fun x y => if x.slt y then y else x
def execMinu (d a b : SReg) (s : State) : Out := opSSS s d a b fun x y => if x.ult y then x else y
def execMaxu (d a b : SReg) (s : State) : Out := opSSS s d a b fun x y => if x.ult y then y else x

/-- SADD clamps the exact signed sum and sets SAT (R221). -/
def execSadd (d a b : SReg) (s : State) : Out := opSat s d a b fun x y => x.toInt + y.toInt
/-- SSUB clamps the exact signed difference. -/
def execSsub (d a b : SReg) (s : State) : Out := opSat s d a b fun x y => x.toInt - y.toInt

/-- Bit i of the result is bit 63 − i. -/
def reverseBits (x : Word) : Word := x.reverse
/-- Byte i of the result is byte 7 − i. -/
def reverseBytes (x : Word) : Word := BitVec.ofNat 64 (ofBytes (toBytes 8 x.toNat).reverse)

def execClz (d a : SReg) (s : State) : Out := opSS s d a fun x => BitVec.ofNat 64 x.clz.toNat
def execCtz (d a : SReg) (s : State) : Out := opSS s d a fun x => BitVec.ofNat 64 x.ctz.toNat
def execPopc (d a : SReg) (s : State) : Out := opSS s d a fun x => x.cpop
def execBrev (d a : SReg) (s : State) : Out := opSS s d a fun x => reverseBits x
def execBswap (d a : SReg) (s : State) : Out := opSS s d a fun x => reverseBytes x
def execSextb (d a : SReg) (s : State) : Out := opSS s d a fun x => (x.setWidth 8).signExtend 64
def execSexth (d a : SReg) (s : State) : Out := opSS s d a fun x => (x.setWidth 16).signExtend 64
def execSextw (d a : SReg) (s : State) : Out := opSS s d a fun x => (x.setWidth 32).signExtend 64
def execZextw (d a : SReg) (s : State) : Out := opSS s d a fun x => (x.setWidth 32).setWidth 64
def execZextb (d a : SReg) (s : State) : Out := opSS s d a fun x => (x.setWidth 8).setWidth 64
def execZexth (d a : SReg) (s : State) : Out := opSS s d a fun x => (x.setWidth 16).setWidth 64

/-! ## Multiply and divide, major 0x02 (R299, R220) -/

/-- Bits 127:64 of a product. -/
def highWord (p : Int) : Word := BitVec.ofInt 64 (p / 2 ^ 64)

def execMul (d a b : SReg) (s : State) : Out := opSSS s d a b fun x y => x * y
def execMulh (d a b : SReg) (s : State) : Out := opSSS s d a b fun x y => highWord (x.toInt * y.toInt)
def execMulhu (d a b : SReg) (s : State) : Out := opSSS s d a b fun x y => highWord (x.toNat * y.toNat)
def execMulhsz (d a b : SReg) (s : State) : Out := opSSS s d a b fun x y => highWord (x.toInt * y.toNat)
def execMulw (d a b : SReg) (s : State) : Out := opSSS s d a b fun x y => sext32 ((x * y).setWidth 32)

/-- Signed division (R220): by 0 gives all ones, MIN by −1 gives MIN. -/
def divS {n : Nat} (x y : BitVec n) : BitVec n := if y = 0 then BitVec.allOnes n else BitVec.ofInt n (x.toInt.tdiv y.toInt)
/-- Signed remainder: by 0 gives the dividend, MIN by −1 gives 0. -/
def remS {n : Nat} (x y : BitVec n) : BitVec n := if y = 0 then x else BitVec.ofInt n (x.toInt.tmod y.toInt)
/-- Unsigned division. -/
def divU (x y : Word) : Word := if y = 0 then BitVec.allOnes 64 else x / y
/-- Unsigned remainder. -/
def remU (x y : Word) : Word := if y = 0 then x else x % y

/-- A division: long for so many cycles (R297). -/
def opDiv (s : State) (cycles : Nat) (d a b : SReg) (f : Word → Word → Word) : Out :=
  withSLong s [a, b] fun s => startLong s cycles (.s d.toNat (f (getS s s.cur a) (getS s s.cur b))) 0

def execDiv (d a b : SReg) (s : State) : Out := opDiv s 36 d a b fun x y => divS x y
def execDivu (d a b : SReg) (s : State) : Out := opDiv s 36 d a b fun x y => divU x y
def execRem (d a b : SReg) (s : State) : Out := opDiv s 36 d a b fun x y => remS x y
def execRemu (d a b : SReg) (s : State) : Out := opDiv s 36 d a b fun x y => remU x y
def execDivw (d a b : SReg) (s : State) : Out := opDiv s 20 d a b fun x y => sext32 (divS (x.setWidth 32) (y.setWidth 32))
def execRemw (d a b : SReg) (s : State) : Out := opDiv s 20 d a b fun x y => sext32 (remS (x.setWidth 32) (y.setWidth 32))

/-! ## Immediate forms, majors 0x03 to 0x09 (R300, R301) -/

def execAddi (d a : SReg) (i : BitVec 14) (s : State) : Out := opSS s d a fun x => x + i.signExtend 64
def execAndi (d a : SReg) (i : BitVec 14) (s : State) : Out := opSS s d a fun x => x &&& i.setWidth 64
def execOri (d a : SReg) (i : BitVec 14) (s : State) : Out := opSS s d a fun x => x ||| i.setWidth 64
def execXori (d a : SReg) (i : BitVec 14) (s : State) : Out := opSS s d a fun x => x ^^^ i.setWidth 64
def execSlti (d a : SReg) (i : BitVec 14) (s : State) : Out := opSS s d a fun x => flag (x.slt (i.signExtend 64))
def execSltiu (d a : SReg) (i : BitVec 14) (s : State) : Out := opSS s d a fun x => flag (x.ult (i.signExtend 64))
def execShli (d a : SReg) (k : BitVec 6) (s : State) : Out := opSS s d a fun x => x <<< k.toNat
def execShri (d a : SReg) (k : BitVec 6) (s : State) : Out := opSS s d a fun x => x >>> k.toNat
def execSrai (d a : SReg) (k : BitVec 6) (s : State) : Out := opSS s d a fun x => x.sshiftRight k.toNat
def execRori (d a : SReg) (k : BitVec 6) (s : State) : Out := opSS s d a fun x => x.rotateRight k.toNat

/-! ## Constants (R302, R303) -/

def execLil (d : SReg) (i : BitVec 20) (s : State) : Out := withS s [] fun s => retireS s s.cur d (i.signExtend 64)
/-- LIK replaces chunk c of its register. -/
def execLik (d : SReg) (c : BitVec 2) (i : BitVec 16) (s : State) : Out :=
  opSS s d d fun x => setBits x (16 * c.toNat) 16 i.toNat

end Sys2Proof.Machine
end

