-- ==== Sys2Proof/Machine/Control.lean ====
section
/-! DEFINITION. Branches and calls (R304 to R306), scalar floating point (R307 to R311), control words (R312 to
R314), own-row accesses (R324, R325) and the traps and NOP of major 0x24 (R315, R316). -/
namespace Sys2Proof.Machine

/-! ## Branches and calls -/

/-- A PC offset moved by a signed number of words, modulo 2^32. -/
def pcPlus (pc : Nat) (o : Int) : Nat := ((pc + 4 * o) % 4294967296).toNat

/-- Retire at a PC that is also v (R297). -/
def retireAt (s : State) (t : Thr) (pc : Nat) : State := retireTo s t pc (BitVec.ofNat 64 pc)

/-- A branch (R304). -/
def opBranch (s : State) (a b : SReg) (o : BitVec 14) (cond : Word → Word → Bool) : Out :=
  withS s [a, b] fun s =>
    let pc := pcOf s s.cur
    retireAt s s.cur (if cond (getS s s.cur a) (getS s s.cur b) then pcPlus pc o.toInt else pcPlus pc 1)

def execBeq (a b : SReg) (o : BitVec 14) (s : State) : Out := opBranch s a b o fun x y => x == y
def execBne (a b : SReg) (o : BitVec 14) (s : State) : Out := opBranch s a b o fun x y => x != y
def execBlt (a b : SReg) (o : BitVec 14) (s : State) : Out := opBranch s a b o fun x y => x.slt y
def execBge (a b : SReg) (o : BitVec 14) (s : State) : Out := opBranch s a b o fun x y => !x.slt y
def execBltu (a b : SReg) (o : BitVec 14) (s : State) : Out := opBranch s a b o fun x y => x.ult y
def execBgeu (a b : SReg) (o : BitVec 14) (s : State) : Out := opBranch s a b o fun x y => !x.ult y

/-- Write the link and go to a PC (R305, R306): with sd = 0 the link is discarded. -/
def callTo (s : State) (d : SReg) (pc : Nat) : State :=
  let link : Word := BitVec.ofNat 64 (pcPlus (pcOf s s.cur) 1)
  if d = 0 then retireAt s s.cur pc else retireTo (setS s s.cur d link) s.cur pc link

def execCall (d : SReg) (o : BitVec 20) (s : State) : Out :=
  withS s [] fun s => callTo s d (pcPlus (pcOf s s.cur) o.toInt)

def execCallr (d a : SReg) (i : BitVec 14) (s : State) : Out :=
  let target (s : State) : Nat := (getS s s.cur a + i.signExtend 64).toNat % 4294967296
  .next (withChecked s (sWords s.cur [a]) (fun s => if target s % 4 ≠ 0 then some .misaligned else none) fun s =>
    withWords s [] fun s => callTo s d (target s))

/-! ## Scalar floating point, major 0x0C -/

/-- A two-operand operation that reads c3 (R307). -/
def opFF (s : State) (d a b : SReg) (p : Prec) (r : RField) (long : Option Nat) (f : FFmt → FEnv → Nat → Nat → FRes) : Out :=
  let k (s : State) (v : FEnv) : State :=
    finishF s d (f (fmtOfPrec p) (v.withField r) (precVal p (getS s s.cur a)) (precVal p (getS s s.cur b))) long
  match long with
  | none => withC3 s [a, b] k
  | some _ => withC3Long s [a, b] k

def execFadd (d a b : SReg) (p : Prec) (r : RField) (s : State) : Out := opFF s d a b p r none fadd
def execFsub (d a b : SReg) (p : Prec) (r : RField) (s : State) : Out := opFF s d a b p r none fsub
def execFmul (d a b : SReg) (p : Prec) (r : RField) (s : State) : Out := opFF s d a b p r none fmul
/-- FDIV is long: 44 cycles for .d, 24 for .s (R297). -/
def execFdiv (d a b : SReg) (p : Prec) (r : RField) (s : State) : Out :=
  opFF s d a b p r (some (match p with | .d => 44 | .s => 24)) fdiv
def execFsqrt (d a : SReg) (p : Prec) (r : RField) (s : State) : Out :=
  withC3Long s [a] fun s v =>
    finishF s d (fsqrt (fmtOfPrec p) (v.withField r) (precVal p (getS s s.cur a)))
      (some (match p with | .d => 44 | .s => 24))

/-- FMIN and FMAX: FZ applies to the result (R307). -/
def opFMinMax (s : State) (d a b : SReg) (p : Prec) (isMax : Bool) : Out :=
  withC3 s [a, b] fun s v =>
    let f := fmtOfPrec p
    finishF s d (flushResult f v.fz (fminmax f v.daz isMax (precVal p (getS s s.cur a)) (precVal p (getS s s.cur b)))) none

def execFmin (d a b : SReg) (p : Prec) (s : State) : Out := opFMinMax s d a b p false
def execFmax (d a b : SReg) (p : Prec) (s : State) : Out := opFMinMax s d a b p true

/-- The condition of VCMP that a condition of FCMP is. -/
def FCond.vcond : FCond → VCond
  | .eq => .eq | .ne => .ne | .lt => .lt | .le => .le

def execFcmp (d a b : SReg) (p : Prec) (c : FCond) (s : State) : Out :=
  withC3 s [a, b] fun s v =>
    let r := fcompare (fmtOfPrec p) v.daz (FCond.vcond c) (precVal p (getS s s.cur a)) (precVal p (getS s s.cur b))
    retireSF s s.cur d (flag r.1) r.2

def execFkind (d a : SReg) (p : Prec) (s : State) : Out := opSS s d a fun x => fkind (fmtOfPrec p) (precVal p x)

/-- Copies of bits in a precision (R225). -/
def signBit (p : Prec) : Word := match p with | .d => 0x8000000000000000#64 | .s => 0x80000000#64
def precMask (p : Prec) : Word := match p with | .d => BitVec.allOnes 64 | .s => 0xFFFFFFFF#64

def execFcopys (d a b : SReg) (p : Prec) (s : State) : Out :=
  opSSS s d a b fun x y => ((x &&& ~~~signBit p) ||| (y &&& signBit p)) &&& precMask p
def execFabs (d a : SReg) (p : Prec) (s : State) : Out := opSS s d a fun x => (x &&& ~~~signBit p) &&& precMask p
def execFneg (d a : SReg) (p : Prec) (s : State) : Out := opSS s d a fun x => (x ^^^ signBit p) &&& precMask p

/-- The type whose values a kind of FCVT has (R310). -/
def CvtKind.vtype : CvtKind → VType
  | .f64 => .f64 | .f32 => .f32 | .f16 => .f16 | .bf16 => .bf16 | .i64 => .i64 | .z64 => .z64 | .i32 => .i32 | .z32 => .z32

/-- A conversion between a floating type and another type, as the bits of the destination type (R229). -/
def convertLane (d s : VType) (v : FEnv) (o : OvMode) (x : Nat) : FRes :=
  match d.isInt, s.isInt with
  | false, false => cvtFloat (fmtOf d) (fmtOf s) v o x
  | true, false => match cvtToInt (fmtOf s) v (ilo d) (ihi d) x with | (i, f) => (wrap (8 * d.size) i, f)
  | false, true => cvtFromInt (fmtOf d) v o (s.size = 8) (ival s x)
  | true, true => match o with
    | .sat => match clampTo (ilo d) (ihi d) (ival s x) with | (i, f) => (wrap (8 * d.size) i, f)
    | .c3 | .nan => (wrap (8 * d.size) (ival s x), 0)

/-- Where the result stands in s[sd]: i32 sign-extended, the others zero-extended (R310). -/
def placeCvt (k : CvtKind) (x : Nat) : Word :=
  match k with
  | .i32 => sext32 (BitVec.ofNat 32 x)
  | .f64 | .f32 | .f16 | .bf16 | .i64 | .z64 | .z32 => BitVec.ofNat 64 x

def execFcvt (d a : SReg) (dst src : CvtKind) (r : RField) (s : State) : Out :=
  withC3 s [a] fun s v =>
    let x := (getS s s.cur a).toNat % 2 ^ (8 * (CvtKind.vtype src).size)
    let y := convertLane (CvtKind.vtype dst) (CvtKind.vtype src) (v.withField r) .c3 x
    retireSF s s.cur d (placeCvt dst y.1) y.2

/-! ## Fused multiply-add (R311) -/

def opFma (s : State) (d a b c : SReg) (p : Prec) (negProd negC : Bool) : Out :=
  withC3 s [a, b, c] fun s v =>
    finishF s d (ffma (fmtOfPrec p) v negProd negC (precVal p (getS s s.cur a)) (precVal p (getS s s.cur b))
      (precVal p (getS s s.cur c))) none

def execFfmaD (d a b c : SReg) (s : State) : Out := opFma s d a b c .d false false
def execFfmaS (d a b c : SReg) (s : State) : Out := opFma s d a b c .s false false
def execFfmsD (d a b c : SReg) (s : State) : Out := opFma s d a b c .d false true
def execFfmsS (d a b c : SReg) (s : State) : Out := opFma s d a b c .s false true
def execFnmaD (d a b c : SReg) (s : State) : Out := opFma s d a b c .d true false
def execFnmaS (d a b c : SReg) (s : State) : Out := opFma s d a b c .s true false
def execFnmsD (d a b c : SReg) (s : State) : Out := opFma s d a b c .d true true
def execFnmsS (d a b c : SReg) (s : State) : Out := opFma s d a b c .s true true

/-! ## Control words (R312, R313) -/

/-- The c7 that MFC reads: in a pair the leader's on both sides (R312). -/
def readC (s : State) (t : Thr) (n : Nat) : Word :=
  if n = 7 then (match pairOf s t with | some p => getC s p.leader 7 | none => getC s t 7) else getC s t n

def execMfc (d : SReg) (n : BitVec 4) (s : State) : Out :=
  .next (withWords s [cAddr s.cur n.toNat] fun s => retireS s s.cur d (readC s s.cur n.toNat))

/-- The bits of a control word that MTC writes (R313); 0 where it has no effect. -/
def mtcMask : Nat → Word
  | 0 => 0x0000FFFFFFFFFE00#64
  | 3 => 0x1F3F#64
  | 4 => BitVec.allOnes 64
  | 5 => BitVec.allOnes 64
  | 6 => BitVec.allOnes 64
  | 7 => 0x0000FFFFFF01FFFF#64
  | 8 => 0xFFFF#64
  | 11 => 0xFFFFFFFD#64
  | 12 => BitVec.allOnes 64
  | _ => 0

/-- HERR after an MTC of c0: written as W1C, and set by a non-zero CMD (R74, R313). -/
def mtcHerr (old x : Word) : Nat := if bits x 0 4 ≠ 0 then 1 else if bits x 8 1 = 1 then 0 else bits old 8 1

/-- The new value of a control word under MTC (R313). -/
def mtcValue (n : Nat) (old x : Word) : Word :=
  match n with
  | 0 => setBits ((old &&& ~~~mtcMask 0) ||| (x &&& mtcMask 0)) 8 1 (mtcHerr old x)
  | 3 | 8 | 11 => x &&& mtcMask n
  | _ => (old &&& ~~~mtcMask n) ||| (x &&& mtcMask n)

/-- MTC.  v, "the 64-bit value written" of R124, is s[sa] with the bits that are written (DESIGN CHOICE, log 55). -/
def execMtc (a : SReg) (n : BitVec 4) (s : State) : Out :=
  .next (if (n = 7 ∨ n = 12) ∧ !isPriv s s.cur then trapNow s .priv
    else withWords s (sWords s.cur [a]) fun s =>
      if mtcMask n.toNat = 0 then retirePlain s s.cur
      else
        let x := getS s s.cur a
        retire (setC s s.cur n.toNat (mtcValue n.toNat (getWord s (cAddr s.cur n.toNat)) x)) s.cur
          (if n = 5 then x ||| 0xC000000000000000#64 else x &&& mtcMask n.toNat))

/-! ## TRAP, BRK and NOP (R315, R316) -/

def execTrap (_c : BitVec 10) (s : State) : Out := .next (trapNow s .trapInsn)
def execBrk (s : State) : Out := .next (trapNow s .breakpoint)
def execNop (s : State) : Out := withS s [] fun s => retirePlain s s.cur

/-! ## Own-row accesses (R324, R325, R22) -/

/-- The bytes of the thread's row or row pair (R324). -/
def rowSize (s : State) (t : Thr) : Int := if isWide s t then 8192 else 4096

/-- The trap that an own-row access of n bytes takes, if any (R22, R324, R325); a handler's store keeps off the service row's tables
(R108). What a store meets is asked of its first byte, as the pseudocode of R324 and R325 does (log 49). -/
def ownTrap (s : State) (t : Thr) (a : Int) (n : Nat) (store : Bool) : Option Cause :=
  if a < 0 ∨ rowSize s t < a + n then some .rowProtect
  else if store ∧ 3968 ≤ a ∧ a < 4096 then some .rowProtect
  else if store ∧ isHandler t ∧ 1056 ≤ a ∧ a < 3968 then some .rowProtect
  else if a % n ≠ 0 then some .misaligned
  else none

/-- An own-row access of n bytes at an address that its register and offset give: it traps, or goes on. -/
def withOwn (s : State) (a : SReg) (o : Int) (n : Nat) (store : Bool) (k : State → Nat → State) : State :=
  let at_ (s : State) : Int := (getS s s.cur a).toInt + o
  withChecked s (sWords s.cur [a]) (fun s => ownTrap s s.cur (at_ s) n store) fun s => k s (at_ s).toNat

/-- Extend n bytes to a register. -/
def extend (n : Nat) (sx : Bool) (x : Nat) : Word := if sx then BitVec.ofInt 64 (sval (8 * n) x) else BitVec.ofNat 64 x

/-- An own-row read of control word c7 in a pair is the leader's, as MFC reads it (R312, R324). -/
def ownNat (s : State) (t : Thr) (a n : Nat) : Nat :=
  match pairOf s t with
  | some p =>
    let l := ownBytes s t a n
    if a ≤ 4024 + 7 ∧ 4024 < a + n then
      ofBytes (l.mapIdx fun i b => if 4024 ≤ a + i ∧ a + i < 4032 then (getC s p.leader 7).extractLsb' (8 * (a + i - 4024)) 8 else b)
    else ofBytes l
  | none => ofBytes (ownBytes s t a n)

/-- The words of the row that an own-row read of n bytes meets. -/
def ownWords (t : Thr) (a n : Nat) : List Nat := wordsOf (ownAddr t a) n

def execLdr (d a : SReg) (z : Size) (sx : Bool) (o : BitVec 11) (s : State) : Out :=
  .next (withOwn s a o.toInt z.bytes false fun s x => withWords s (ownWords s.cur x z.bytes) fun s =>
    retireS s s.cur d (extend z.bytes sx (ownNat s s.cur x z.bytes)))

def execStr (d a : SReg) (z : Size) (o : BitVec 11) (s : State) : Out :=
  .next (withOwn s a o.toInt z.bytes true fun s x => withWords s (sWords s.cur [d]) fun s =>
    let y := (getS s s.cur d).toNat % 2 ^ (8 * z.bytes)
    retire (putOwn s s.cur x (toBytes z.bytes y)) s.cur (BitVec.ofNat 64 x ^^^ BitVec.ofNat 64 y))

def execVldr (v : VReg) (a : SReg) (o : BitVec 9) (s : State) : Out :=
  .next (if 16#5 ≤ v && !isWide s s.cur then trapNow s .illegalReg
    else withOwn s a (o.toInt * 32) 32 false fun s x => withWords s (ownWords s.cur x 32) fun s =>
      retireV s s.cur v (BitVec.ofNat 256 (ownNat s s.cur x 32)))

def execVstr (v : VReg) (a : SReg) (o : BitVec 9) (s : State) : Out :=
  .next (if 16#5 ≤ v && !isWide s s.cur then trapNow s .illegalReg
    else withOwn s a (o.toInt * 32) 32 true fun s x => withWords s (vWords s.cur [v]) fun s =>
      let y := getV s s.cur v
      retire (putOwn s s.cur x (toBytes 32 y.toNat)) s.cur (BitVec.ofNat 64 x ^^^ foldVec y))

/-- LONG_OP_DONE, the register's part (R34): write, set the flags, retire. -/
def longDone (s : State) (t : Thr) : State :=
  match (getThr s t).long with
  | none => s
  | some l =>
    let s := modThr s t fun c => { c with long := none }
    let s := if l.flags = 0 then s else raise s t l.flags
    match l.write with
    | .none => retirePlain s t
    | .s r x => retireS s t (BitVec.ofNat 6 r) x
    | .v r x m =>
      let s := setVMasked s t (BitVec.ofNat 5 r) x m
      retire s t (foldVec (getV s t (BitVec.ofNat 5 r)))

end Sys2Proof.Machine
end

