-- ==== Sys2Proof/Machine/Sfu.lean ====
section
/-! DEFINITION. Special functions (R231, R355).  VRCP and VRSQ are rounded once from the exact result.  The other
five return one of the two neighbours of the exact result: which one is a free value (log 10), and the exact
result is located by fixed-point series of 800 fractional bits. -/
namespace Sys2Proof.Machine

/-! ## Fixed-point series: numbers scaled by 2^800 -/

def fxBits : Nat := 800
def fxOne : Nat := 2 ^ fxBits

/-- Σ x^i / i! for n terms: term is the next one, i its index. -/
def expSeries (x : Nat) : Nat → Nat → Nat → Nat
  | 0, _, _ => 0
  | n + 1, i, term => term + expSeries x n (i + 1) (term * x / fxOne / (i + 1))

/-- e^x for 0 ≤ x < 1. -/
def fxExp (x : Nat) : Nat := expSeries x 200 0 fxOne

/-- Σ z^(2i+1) / (2i+1) for n terms, or the alternating sum. -/
def atanSeries (z2 : Nat) (alt : Bool) : Nat → Nat → Nat → Bool → Int
  | 0, _, _, _ => 0
  | n + 1, i, p, neg =>
    signed neg (p / (2 * i + 1)) + atanSeries z2 alt n (i + 1) (p * z2 / fxOne) (if alt then !neg else false)

/-- 2 × artanh z. -/
def fxLnRatio (z : Nat) : Nat := 2 * (atanSeries (z * z / fxOne) false 420 0 z false).toNat
/-- ln 2 = 2 × artanh (1/3). -/
def fxLn2 : Nat := fxLnRatio (fxOne / 3)
/-- π = 16 arctan (1/5) − 4 arctan (1/239). -/
def fxPi : Nat :=
  (16 * atanSeries (fxOne / 25) true 400 0 (fxOne / 5) false - 4 * atanSeries (fxOne / 57121) true 400 0 (fxOne / 239) false).toNat

/-- Σ ± x^k / k! over every second k, from the term of index i. -/
def trigSeries (x2 : Nat) : Nat → Nat → Nat → Bool → Int
  | 0, _, _, _ => 0
  | n + 1, i, term, neg =>
    signed neg term + trigSeries x2 n (i + 2) (term * x2 / fxOne / ((i + 1) * (i + 2))) (!neg)

def fxSin (x : Nat) : Int := trigSeries (x * x / fxOne) 120 1 x false
def fxCos (x : Nat) : Int := trigSeries (x * x / fxOne) 120 0 fxOne false

/-- m × 2^e in fixed point. -/
def toFx (m : Nat) (e : Int) : Nat := if 0 ≤ e + fxBits then m * 2 ^ (e + fxBits).toNat else m / 2 ^ (-(e + fxBits)).toNat

/-! ## Delivery -/

/-- An inexact result: one neighbour or the other by the free value, then flushing and overflow in the mode in
force (R227, R228, R231).  x is the magnitude in fixed point, the exact result above it. -/
def neighbour (fn : Nat) (t : VType) (v : FEnv) (input : Nat) (neg : Bool) (x : Nat) (e : Int) : FRes :=
  let r := if Config.sfuAbove fn t input then Round.rup else Round.rdn
  (fmtOf t).round r v.fz (.mode v.rm) neg (2 * x + 1) (e - 1)

/-- Correctly rounded 1 ÷ √(m × 2^e). -/
def rsqrtFin (f : FFmt) (v : FEnv) (m : Nat) (e : Int) : FRes :=
  let m' := if e % 2 = 0 then m else 2 * m
  let e' := if e % 2 = 0 then e else e - 1
  let k := f.fbits + 6 + Nat.log2 m'
  let n := 2 ^ (2 * k)
  let q := isqrt (n / m')
  f.round v.rm v.fz (.mode v.rm) false (2 * q + (if q * q * m' = n then 0 else 1)) (-(e' / 2) - k - 1)

/-- VRCP (R355). -/
def sfuRcp (t : VType) (v : FEnv) (x : Nat) : FRes := fdivVal (fmtOf t) v (.fin false 1 0) ((fmtOf t).unpack v.daz x)

/-- VRSQ (R355). -/
def sfuRsq (t : VType) (v : FEnv) (x : Nat) : FRes :=
  let f := fmtOf t
  match f.unpack v.daz x with
  | .nan s => (f.nan, nvOf [.nan s])
  | .inf n => if n then (f.nan, fNV) else (f.sign false, 0)
  | .fin n m e => if m = 0 then (f.inf n, fDZ) else if n then (f.nan, fNV) else rsqrtFin f v m e

/-- VEXP2 (R231). -/
def sfuExp2 (t : VType) (v : FEnv) (x : Nat) : FRes :=
  let f := fmtOf t
  match f.unpack v.daz x with
  | .nan s => (f.nan, nvOf [.nan s])
  | .inf n => if n then (f.sign false, 0) else (f.inf false, 0)
  | .fin n m e =>
    -- beyond ±4096 the result is far outside every format, as at ±4096
    let big : Bool := 12 < Nat.log2 m + e
    let i : Int := if big then signed n 4096 else (signed n (toFx m e)) / fxOne
    let frac : Nat := if big then 0 else ((signed n (toFx m e)) % fxOne).toNat
    if frac = 0 then
      -- an integer: 2^i, exact where it is representable
      if i < 1 - f.bias - f.fbits then neighbour 2 t v x false 0 (i - 1)
      else f.round v.rm v.fz (.mode v.rm) false 1 i
    else neighbour 2 t v x false (fxExp (frac * fxLn2 / fxOne)) (i - fxBits)

/-- VLOG2 (R231). -/
def sfuLog2 (t : VType) (v : FEnv) (x : Nat) : FRes :=
  let f := fmtOf t
  match f.unpack v.daz x with
  | .nan s => (f.nan, nvOf [.nan s])
  | .inf n => if n then (f.nan, fNV) else (f.inf false, 0)
  | .fin n m e =>
    if m = 0 then (f.inf true, fDZ)
    else if n then (f.nan, fNV)
    else
      let k : Int := Nat.log2 m + e
      let p := 2 ^ Nat.log2 m
      if m = p then f.round v.rm v.fz (.mode v.rm) (k < 0) k.natAbs 0
      else
        let l := fxLnRatio ((m - p) * fxOne / (m + p)) * fxOne / fxLn2
        let y : Int := k * fxOne + l
        neighbour 3 t v x (y < 0) (if y < 0 then (-y).toNat - 1 else y.toNat) (-fxBits)

/-- The quadrant of an angle and what is left of it, below π/2. -/
def reduce (m : Nat) (e : Int) : Nat × Nat :=
  let a := toFx m e
  let half := fxPi / 2
  (a / half % 4, a % half)

/-- sin, or cos with one quadrant more, of m × 2^e: the sign and the magnitude. -/
def sinCos (quadrant r : Nat) : Int :=
  match quadrant % 4 with
  | 0 => fxSin r
  | 1 => fxCos r
  | 2 => -fxSin r
  | _ => -fxCos r

def sfuSinCos (cos : Bool) (t : VType) (v : FEnv) (x : Nat) : FRes :=
  let f := fmtOf t
  match f.unpack v.daz x with
  | .nan s => (f.nan, nvOf [.nan s])
  | .inf _ => (f.nan, fNV)
  | .fin n m e =>
    if m = 0 then (if cos then f.round .rne v.fz (.mode .rne) false 1 0 else (f.sign n, 0))
    else
      let q := reduce m e
      let y := sinCos (q.1 + if cos then 1 else 0) q.2
      neighbour (if cos then 5 else 4) t v x ((y < 0) != (n && !cos)) (y.natAbs - 1) (-fxBits)

/-- VTANH (R231). -/
def sfuTanh (t : VType) (v : FEnv) (x : Nat) : FRes :=
  let f := fmtOf t
  match f.unpack v.daz x with
  | .nan s => (f.nan, nvOf [.nan s])
  | .inf n => f.round .rne v.fz (.mode .rne) n 1 0
  | .fin n m e =>
    if m = 0 then (f.sign n, 0)
    else if 8 ≤ Nat.log2 m + e then neighbour 6 t v x n (fxOne - 1) (-fxBits)
    else
      let a := 2 * toFx m e
      let p := fxExp (a % fxLn2) * 2 ^ (a / fxLn2)
      neighbour 6 t v x n ((p - fxOne) * fxOne / (p + fxOne) - 1) (-fxBits)

end Sys2Proof.Machine
end

