-- ==== Sys2Proof/Machine/Vector.lean ====
section
/-! DEFINITION. Vector, special-function and predicate instructions (R342 to R359). -/
namespace Sys2Proof.Machine

/-! ## Integer arithmetic (R346) -/

/-- Width of a lane in bits. -/
def laneW (t : VType) : Nat := 8 * t.size
/-- The shift count of a lane (R221). -/
def laneShift (t : VType) (y : Nat) : Nat := y % laneW t
/-- A lane operation without a flag. -/
def noFlag (x : Nat) : FRes := (x, 0)
/-- An exact value modulo the lane width. -/
def laneOf (t : VType) (x : Int) : FRes := (wrap (laneW t) x, 0)
/-- An exact value clamped to the type's range (R221). -/
def laneSat (t : VType) (x : Int) : FRes :=
  match clampTo (ilo t) (ihi t) x with
  | (y, f) => (wrap (laneW t) y, f)

/-- Minimum and maximum by the type's signedness (R346). -/
def laneMin (t : VType) (isMax : Bool) (x y : Nat) : Nat := if (ival t x < ival t y) != isMax then x else y

def execVadd (v a b : VReg) (g : PReg) (t : VType) (s : State) : Out :=
  opV2 s v a b g t.size [] fun _ x y => laneOf t (x + y)
def execVsub (v a b : VReg) (g : PReg) (t : VType) (s : State) : Out :=
  opV2 s v a b g t.size [] fun _ x y => laneOf t (x - y)
def execVmul (v a b : VReg) (g : PReg) (t : VType) (s : State) : Out :=
  opV2 s v a b g t.size [] fun _ x y => laneOf t (x * y)
def execVmulh (v a b : VReg) (g : PReg) (t : VType) (s : State) : Out :=
  opV2 s v a b g t.size [] fun _ x y => laneOf t (ival t x * ival t y / 2 ^ laneW t)
def execVand (v a b : VReg) (g : PReg) (t : VType) (s : State) : Out :=
  opV2 s v a b g t.size [] fun _ x y => noFlag (x &&& y)
def execVor (v a b : VReg) (g : PReg) (t : VType) (s : State) : Out :=
  opV2 s v a b g t.size [] fun _ x y => noFlag (x ||| y)
def execVxor (v a b : VReg) (g : PReg) (t : VType) (s : State) : Out :=
  opV2 s v a b g t.size [] fun _ x y => noFlag (x ^^^ y)
def execVshl (v a b : VReg) (g : PReg) (t : VType) (s : State) : Out :=
  opV2 s v a b g t.size [] fun _ x y => laneOf t (x * 2 ^ laneShift t y : Nat)
def execVshr (v a b : VReg) (g : PReg) (t : VType) (s : State) : Out :=
  opV2 s v a b g t.size [] fun _ x y => noFlag (x / 2 ^ laneShift t y)
def execVsra (v a b : VReg) (g : PReg) (t : VType) (s : State) : Out :=
  opV2 s v a b g t.size [] fun _ x y => laneOf t (sval (laneW t) x / 2 ^ laneShift t y)
def execVmin (v a b : VReg) (g : PReg) (t : VType) (s : State) : Out :=
  opV2 s v a b g t.size [] fun _ x y => noFlag (laneMin t false x y)
def execVmax (v a b : VReg) (g : PReg) (t : VType) (s : State) : Out :=
  opV2 s v a b g t.size [] fun _ x y => noFlag (laneMin t true x y)
def execVsadd (v a b : VReg) (g : PReg) (t : VType) (s : State) : Out :=
  opV2 s v a b g t.size [] fun _ x y => laneSat t (ival t x + ival t y)
def execVssub (v a b : VReg) (g : PReg) (t : VType) (s : State) : Out :=
  opV2 s v a b g t.size [] fun _ x y => laneSat t (ival t x - ival t y)
def execVabs (v a : VReg) (g : PReg) (t : VType) (s : State) : Out :=
  opV1 s v a g t.size [] fun _ x => laneOf t (ival t x).natAbs
def execVpopc (v a : VReg) (g : PReg) (t : VType) (s : State) : Out :=
  opV1 s v a g t.size [] fun _ x => noFlag (BitVec.ofNat 64 x).cpop.toNat

/-! ## Floating-point arithmetic (R347, R348) -/

/-- A floating-point lane operation in the environment of c3. -/
def opVF (s : State) (d a b : VReg) (g : PReg) (t : VType) (f : FFmt → FEnv → Nat → Nat → FRes) : Out :=
  opV2 s d a b g t.size [cAddr s.cur 3] fun s => f (fmtOf t) (envOf (getC s s.cur 3))

def execVfadd (v a b : VReg) (g : PReg) (t : VType) (s : State) : Out := opVF s v a b g t (fadd)
def execVfsub (v a b : VReg) (g : PReg) (t : VType) (s : State) : Out := opVF s v a b g t (fsub)
def execVfmul (v a b : VReg) (g : PReg) (t : VType) (s : State) : Out := opVF s v a b g t (fmul)
def execVfmin (v a b : VReg) (g : PReg) (t : VType) (s : State) : Out := opVF s v a b g t (fun f v => fminmax f v.daz false)
def execVfmax (v a b : VReg) (g : PReg) (t : VType) (s : State) : Out := opVF s v a b g t (fun f v => fminmax f v.daz true)

/-- Cycles of VFDIV, VFSQRT, VRCP and VRSQ (R344). -/
def divCycles : VType → Nat
  | .f64 => 48
  | .f32 => 28
  | _ => 20

def execVfdiv (v a b : VReg) (g : PReg) (t : VType) (s : State) : Out :=
  withVLong s [v, a, b] [a, b] [g] [cAddr s.cur 3] fun s =>
    finishVLong s v t.size (getP s s.cur g) (divCycles t)
      (List.zipWith (fdiv (fmtOf t) (envOf (getC s s.cur 3))) (lanesOf t.size (getV s s.cur a)) (lanesOf t.size (getV s s.cur b)))

/-- A long operation on one vector (R344). -/
def opVLong (s : State) (d a : VReg) (g : PReg) (t : VType) (cycles : Nat) (f : FEnv → Nat → FRes) : Out :=
  withVLong s [d, a] [a] [g] [cAddr s.cur 3] fun s =>
    finishVLong s d t.size (getP s s.cur g) cycles ((lanesOf t.size (getV s s.cur a)).map (f (envOf (getC s s.cur 3))))

def execVfsqrt (v a : VReg) (g : PReg) (t : VType) (s : State) : Out := opVLong s v a g t (divCycles t) (fsqrt (fmtOf t))

/-- The sign bit of a lane. -/
def laneSign (t : VType) : Nat := 2 ^ (laneW t - 1)
def execVfabs (v a : VReg) (g : PReg) (t : VType) (s : State) : Out :=
  opV1 s v a g t.size [] fun _ x => noFlag (x % laneSign t)
def execVfneg (v a : VReg) (g : PReg) (t : VType) (s : State) : Out :=
  opV1 s v a g t.size [] fun _ x => noFlag (x ^^^ laneSign t)
def execVfcopys (v a b : VReg) (g : PReg) (t : VType) (s : State) : Out :=
  opV2 s v a b g t.size [] fun _ x y => noFlag (x % laneSign t + y / laneSign t * laneSign t)

def execVfma (v a b c : VReg) (g : PReg) (f : FType) (s : State) : Out :=
  withV s [v, a, b, c] [a, b, c] [g] [cAddr s.cur 3] fun s =>
    let t := FType.vtype f
    finishV s v t.size (getP s s.cur g)
      (List.zipWith (fun (p : Nat × Nat) z => ffma (fmtOf t) (envOf (getC s s.cur 3)) false false p.1 p.2 z)
        (List.zip (lanesOf t.size (getV s s.cur a)) (lanesOf t.size (getV s s.cur b))) (lanesOf t.size (getV s s.cur c)))

/-! ## Comparison (R349) -/

/-- Integer comparison by the type's signedness. -/
def icompare (t : VType) (c : VCond) (x y : Nat) : Bool :=
  let a := ival t x
  let b := ival t y
  match c with
  | .eq => a == b | .ne => a != b | .lt => a < b | .le => a ≤ b | .gt => b < a | .ge => b ≤ a

/-- Write a predicate register, raise flags and retire. -/
def finishP (s : State) (d : PReg) (x : Pred) (f : Word) : State :=
  withFlags s f fun s => retireP (raise s s.cur f) s.cur d x

def execVcmp (d : PReg) (a b : VReg) (g : PReg) (k : VCond) (t : VType) (m : VMode) (s : State) : Out :=
  withV s [a, b] [a, b] (match m with | .write => [g] | .merge | .and => [g, d])
      (if t.isInt then [] else [cAddr s.cur 3]) fun s =>
    let v := envOf (getC s s.cur 3)
    let r := List.zipWith (fun x y => if t.isInt then (icompare t k x y, (0 : Word)) else fcompare (fmtOf t) v.daz k x y)
      (lanesOf t.size (getV s s.cur a)) (lanesOf t.size (getV s s.cur b))
    let act := activeBytes (getP s s.cur g) t.size
    let hold := groups t.size (r.map (·.1))
    let old := getP s s.cur d
    let f := (r.mapIdx fun i p => if active (getP s s.cur g) t.size i then p.2 else 0).foldl (· ||| ·) 0
    finishP s d (match m with
      | .write => act &&& hold
      | .merge => (act &&& hold) ||| (~~~act &&& old)
      | .and => act &&& hold &&& old) f

/-! ## Selection and rearrangement (R350) -/

/-- Every lane of vd is written. -/
def opVSel (s : State) (d a b : VReg) (g : PReg) (t : VType) (f : Pred → List Nat → List Nat → List Nat) : Out :=
  withV s [d, a, b] [a, b] [g] [] fun s =>
    retireV s s.cur d (ofLanes t.size (f (getP s s.cur g) (lanesOf t.size (getV s s.cur a)) (lanesOf t.size (getV s s.cur b))))

/-- Lanes of x that are active. -/
def activeLanes (g : Pred) (E : Nat) (x : List Nat) : List Nat :=
  (x.mapIdx fun i y => (i, y)).filterMap fun p => if active g E p.1 then some p.2 else none

/-- Active lanes take the next of a list, inactive ones keep their own. -/
def expandInto (act : List Bool) (src old : List Nat) : List Nat :=
  match act, src, old with
  | true :: g, x :: xs, _ :: o => x :: expandInto g xs o
  | false :: g, xs, y :: o => y :: expandInto g xs o
  | _, _, o => o

def execVsel (v a b : VReg) (g : PReg) (t : VType) (s : State) : Out :=
  opVSel s v a b g t fun p x y => mergeLanes p t.size y x
def execVcompress (v a b : VReg) (g : PReg) (t : VType) (s : State) : Out :=
  opVSel s v a b g t fun p x y => let l := activeLanes p t.size x; l ++ y.drop l.length
def execVexpand (v a b : VReg) (g : PReg) (t : VType) (s : State) : Out :=
  opVSel s v a b g t fun p x y => expandInto ((List.range x.length).map (active p t.size)) x y

def execVperm (v a b : VReg) (g : PReg) (t : VType) (s : State) : Out :=
  withV s [v, a, b] [a, b] [g] [] fun s =>
    let x := lanesOf t.size (getV s s.cur a)
    finishV s v t.size (getP s s.cur g) ((lanesOf t.size (getV s s.cur b)).map fun i => noFlag (x.getD i 0))

def execVslide (v a b : VReg) (g : PReg) (t : VType) (s : State) : Out :=
  withV s [v, a, b] [a, b] [g] [] fun s =>
    let x := lanesOf t.size (getV s s.cur a)
    let k := ((getV s s.cur b).extractLsb' 0 64).toInt
    finishV s v t.size (getP s s.cur g) ((List.range x.length).map fun (i : Nat) =>
      noFlag (if 0 ≤ (i : Int) - k then x.getD ((i : Int) - k).toNat 0 else 0))

/-! ## Conversion (R351) -/

/-- Elements that a conversion handles. -/
def cvtCount (d s : VType) : Nat := 32 / max d.size s.size

def execVcvt (v a : VReg) (r : RField) (o : OvMode) (g : PReg) (t u : VType) (s : State) : Out :=
  withV s [v, a] [a] [g] (if t.isInt && u.isInt then [] else [cAddr s.cur 3]) fun s =>
    let env := (envOf (getC s s.cur 3)).withField r
    let n := cvtCount t u
    let p := getP s s.cur g &&& groups t.size (List.replicate n true)
    finishV s v t.size p (((lanesOf u.size (getV s s.cur a)).take n).map (convertLane t u env o))

/-! ## Reductions and scans (R232, R233, R352 to R354) -/

/-- One node of a reduction, with its flags. -/
def redStep (o : RedOp) (t : VType) (v : FEnv) (x y : Nat) : FRes :=
  match o with
  | .sum => if t.isInt then laneOf t (x + y) else fadd (fmtOf t) v x y
  | .min => if t.isInt then noFlag (laneMin t false x y) else flushResult (fmtOf t) v.fz (fminmax (fmtOf t) v.daz false x y)
  | .max => if t.isInt then noFlag (laneMin t true x y) else flushResult (fmtOf t) v.fz (fminmax (fmtOf t) v.daz true x y)
  | .and => noFlag (x &&& y)
  | .or => noFlag (x ||| y)
  | .xor => noFlag (x ^^^ y)

/-- The identity of an operation (R232). -/
def redIdentity (o : RedOp) (t : VType) : Nat :=
  match o with
  | .sum => if t.isInt then 0 else laneSign t
  | .min => if t.isInt then wrap (laneW t) (ihi t) else (fmtOf t).inf false
  | .max => if t.isInt then wrap (laneW t) (ilo t) else (fmtOf t).inf true
  | .and => 2 ^ laneW t - 1
  | .or | .xor => 0

/-- One level of the tree of R232, with the conditions raised so far. -/
def redLevel (o : RedOp) (t : VType) (v : FEnv) : List Nat → List Nat × Word
  | x :: y :: l =>
    let r := redStep o t v x y
    let q := redLevel o t v l
    (r.1 :: q.1, r.2 ||| q.2)
  | l => (l, 0)

/-- The tree of R232: so many levels. -/
def redTree (o : RedOp) (t : VType) (v : FEnv) : Nat → List Nat → FRes
  | 0, l => (l.headD 0, 0)
  | n + 1, l =>
    let q := redLevel o t v l
    let r := redTree o t v n q.1
    (r.1, q.2 ||| r.2)

def execVred (v a : VReg) (g : PReg) (t : VType) (o : RedOp) (s : State) : Out :=
  withV s [v, a] [a] [g] (if t.isInt then [] else [cAddr s.cur 3]) fun s =>
    let p := getP s s.cur g
    let l := (lanesOf t.size (getV s s.cur a)).mapIdx fun i x => if active p t.size i then x else redIdentity o t
    let r := redTree o t (envOf (getC s s.cur 3)) (Nat.log2 l.length) l
    withFlags s r.2 fun s => retireV (raise s s.cur r.2) s.cur v (ofLanes t.size [r.1])

/-- Inclusive prefixes over the active lanes (R233): the result of the last active lane goes on. -/
def scanLanes (o : RedOp) (t : VType) (v : FEnv) : Option Nat → List (Bool × Nat) → List FRes
  | _, [] => []
  | acc, (false, x) :: l => (x, 0) :: scanLanes o t v acc l
  | none, (true, x) :: l => (x, 0) :: scanLanes o t v (some x) l
  | some y, (true, x) :: l => let r := redStep o t v y x; r :: scanLanes o t v (some r.1) l

def execVscan (v a : VReg) (g : PReg) (t : VType) (o : RedOp) (s : State) : Out :=
  withV s [v, a] [a] [g] (if t.isInt then [] else [cAddr s.cur 3]) fun s =>
    let p := getP s s.cur g
    let l := (lanesOf t.size (getV s s.cur a)).mapIdx fun i x => (active p t.size i, x)
    finishV s v t.size p (scanLanes o t (envOf (getC s s.cur 3)) none l)

/-- Combine the values of one key in ascending order (R233). -/
def foldGroup (o : RedOp) (t : VType) (v : FEnv) (acc : FRes) : List Nat → FRes
  | [] => acc
  | x :: l => let r := redStep o t v acc.1 x; foldGroup o t v (r.1, acc.2 ||| r.2) l

/-- The leader of each distinct key among the active lanes and its group's combination (R354). -/
def leaders (o : RedOp) (t : VType) (v : FEnv) (l : List (Bool × Nat × Nat)) : List (Option FRes) :=
  l.mapIdx fun i x =>
    if x.1 && !(l.take i).any (fun y => y.1 && y.2.1 == x.2.1) then
      some (foldGroup o t v (x.2.2, 0) (((l.drop (i + 1)).filter fun y => y.1 && y.2.1 == x.2.1).map (·.2.2)))
    else none

/-- VMRED.  v of R124 is the xor of what the two destinations take, and counts the mask also where pd is p0 (DESIGN CHOICE, log
55). -/
def execVmred (d : PReg) (a b : VReg) (g : PReg) (o : RedOp) (t : VType) (s : State) : Out :=
  withV s [a, b] [a, b] [g] (if t.isInt then [] else [cAddr s.cur 3]) fun s =>
    let E := t.size
    let p := getP s s.cur g
    let keys := lanesOf E (getV s s.cur a)
    let l := (List.zip keys (lanesOf E (getV s s.cur b))).mapIdx fun i x => (active p E i, x.1, x.2)
    let r := leaders o t (envOf (getC s s.cur 3)) l
    let f := r.foldl (fun f x => match x with | some y => f ||| y.2 | none => f) (0 : Word)
    let m := groups E (r.map Option.isSome)
    withFlags s f fun s =>
      let s := setVMasked (raise s s.cur f) s.cur b (ofLanes E (r.map fun x => match x with | some y => y.1 | none => 0)) m
      retire (setP s s.cur d m) s.cur (foldVec (getV s s.cur b) ^^^ m.setWidth 64)

/-! ## Special functions (R355): long (R344) -/

/-- Cycles of the five functions of R231. -/
def sfuCycles : VType → Nat
  | .f32 => 32
  | _ => 24

def execVrcp (v a : VReg) (g : PReg) (t : VType) (s : State) : Out :=
  opVLong s v a g t (match t with | .f64 => 48 | _ => sfuCycles t) (sfuRcp t)
def execVrsq (v a : VReg) (g : PReg) (t : VType) (s : State) : Out :=
  opVLong s v a g t (match t with | .f64 => 48 | _ => sfuCycles t) (sfuRsq t)
def execVexp2 (v a : VReg) (g : PReg) (t : VType) (s : State) : Out := opVLong s v a g t (sfuCycles t) (sfuExp2 t)
def execVlog2 (v a : VReg) (g : PReg) (t : VType) (s : State) : Out := opVLong s v a g t (sfuCycles t) (sfuLog2 t)
def execVsin (v a : VReg) (g : PReg) (t : VType) (s : State) : Out := opVLong s v a g t (sfuCycles t) (sfuSinCos false t)
def execVcos (v a : VReg) (g : PReg) (t : VType) (s : State) : Out := opVLong s v a g t (sfuCycles t) (sfuSinCos true t)
def execVtanh (v a : VReg) (g : PReg) (t : VType) (s : State) : Out := opVLong s v a g t (sfuCycles t) (sfuTanh t)

/-! ## Scalars and vectors (R356) -/

def execVbcast (v : VReg) (a : SReg) (g : PReg) (e : Size) (s : State) : Out :=
  withV s [v] [] [g] (sWords s.cur [a]) fun s =>
    finishV s v e.bytes (getP s s.cur g) (List.replicate (32 / e.bytes) (noFlag (getS s s.cur a).toNat))

def execVins (v : VReg) (a b : SReg) (e : Size) (s : State) : Out :=
  withV s [v] [] [] (sWords s.cur [a, b]) fun s =>
    let i := (getS s s.cur b).toNat
    if i < 32 / e.bytes then
      finishV s v e.bytes (groups e.bytes ((List.range (32 / e.bytes)).map (· == i)))
        (List.replicate (32 / e.bytes) (noFlag (getS s s.cur a).toNat))
    else retirePlain s s.cur

def execVext (v : VReg) (a b : SReg) (e : Size) (s : State) : Out :=
  withV s [v] [v] [] (sWords s.cur [b]) fun s =>
    retireS s s.cur a (BitVec.ofNat 64 ((lanesOf e.bytes (getV s s.cur v)).getD (getS s s.cur b).toNat 0))

def execVwhile (d : PReg) (a b : SReg) (e : Size) (s : State) : Out :=
  withS s [a, b] fun s =>
    let x := (getS s s.cur a).toInt
    let y := (getS s s.cur b).toInt
    retireP s s.cur d (groups e.bytes ((List.range (32 / e.bytes)).map fun (i : Nat) => decide (x + (i : Int) < y)))

def execVlen (a : SReg) (s : State) : Out := withS s [] fun s => retireS s s.cur a 256

/-! ## Predicates (R358) -/

/-- A predicate operation on two registers. -/
def opPPP (s : State) (d a b : PReg) (f : Pred → Pred → Pred) : Out :=
  .next (withWords s (pWords s.cur [a, b]) fun s => retireP s s.cur d (f (getP s s.cur a) (getP s s.cur b)))

def execPand (d a b : PReg) (s : State) : Out := opPPP s d a b fun x y => x &&& y
def execPor (d a b : PReg) (s : State) : Out := opPPP s d a b fun x y => x ||| y
def execPxor (d a b : PReg) (s : State) : Out := opPPP s d a b fun x y => x ^^^ y
def execPnot (d a : PReg) (s : State) : Out :=
  .next (withWords s (pWords s.cur [a]) fun s => retireP s s.cur d (~~~(getP s s.cur a)))

/-- The elements of a predicate at a size. -/
def elements (x : Pred) (E : Nat) : List Bool := (List.range (32 / E)).map (active x E)

def execPcnt (d : SReg) (a : PReg) (t : VType) (s : State) : Out :=
  .next (withWords s (pWords s.cur [a]) fun s =>
    retireS s s.cur d (BitVec.ofNat 64 ((elements (getP s s.cur a) t.size).countP id)))
def execPfirst (d a : PReg) (t : VType) (s : State) : Out :=
  .next (withWords s (pWords s.cur [a]) fun s =>
    let l := elements (getP s s.cur a) t.size
    retireP s s.cur d (groups t.size (l.mapIdx fun i b => b && !(l.take i).any id)))
def execPset (d : PReg) (a : SReg) (s : State) : Out :=
  withS s [a] fun s => retireP s s.cur d ((getS s s.cur a).setWidth 32)

end Sys2Proof.Machine
end

