-- ==== Sys2Proof/Machine/Records.lean ====
section
/-! DEFINITION. Object records (R142 to R149, R166, R181), placement over present cores (R47, R147), coordinates
and layout (R141, R146, R151), and permission classes (R150). -/
namespace Sys2Proof.Machine

/-- A record: its sixteen words (R139). -/
abbrev Rec := List Word

def rw (r : Rec) (i : Nat) : Word := r.getD i 0
def rKind (r : Rec) : Nat := bits (rw r 0) 0 4
def rRank (r : Rec) : Nat := bits (rw r 0) 4 4
def rEfmt (r : Rec) : Nat := bits (rw r 0) 8 8
def rOspol (r : Rec) : Nat := bits (rw r 0) 16 8
def rRespol (r : Rec) : Nat := bits (rw r 0) 24 8
def rGen (r : Rec) : Nat := bits (rw r 0) 48 16
def rExt (r : Rec) (j : Nat) : Nat := if j < 2 then bits (rw r 1) (32 * j) 32 else bits (rw r 2) (32 * (j - 2)) 32
def rTlog (r : Rec) (j : Nat) : Nat := bits (rw r 3) (8 * j) 8
def rPerm (r : Rec) (j : Nat) : Nat := bits (rw r 3) (32 + 2 * j) 2
def rCache (r : Rec) : Bool := bits (rw r 3) 40 1 = 1
def rPlace (r : Rec) : Word := rw r 4
def rTable (r : Rec) : Nat := bits (rw r 5) 0 32
def rFaultRow (r : Rec) : Word := rw r 9

/-- Bytes of an element by its type code (R283). -/
def codeSize : Nat → Nat
  | 0 | 4 | 12 | 13 => 1
  | 1 | 5 | 8 | 9 => 2
  | 2 | 6 | 10 => 4
  | _ => 8

/-- Tile extent and sub-tile count of a dimension (R146). -/
def rTile (r : Rec) (j : Nat) : Nat := if j < rRank r then 2 ^ rTlog r j else 1
def rSub (r : Rec) (j : Nat) : Nat := if j < rRank r then (rExt r j + rTile r j - 1) / rTile r j else 1
/-- The count of sub-tiles. -/
def rCount (r : Rec) : Nat := rSub r 0 * rSub r 1 * rSub r 2 * rSub r 3

/-! ## Placement (R47, R91, R147) -/

/-- Present cores of a tile (R91). -/
def presentIn (s : State) (tile : Nat) : Nat := 512 - (look 0#512 s.absent tile).cpop.toNat
/-- The tile belongs to the slot (R203). -/
def inSlot (s : State) (slot tile : Nat) : Bool := (getTile s tile).assigned && (getTile s tile).slot = slot

/-- The k-th present core of a partition in n tiles from tile t on, from index i of that one (R47). -/
def kthFrom (s : State) (slot : Nat) : Nat → Nat → Nat → Nat → Option Nat
  | 0, _, _, _ => none
  | n + 1, t, i, k =>
    let m := if inSlot s slot t then presentIn s t - i else 0
    if k < m then some (t * 512 + i + k) else kthFrom s slot n (t + 1) 0 (k - m)

/-- The k-th core after a core (R47). -/
def kthCore (s : State) (slot first k : Nat) : Option Nat :=
  kthFrom s slot (Config.tiles - first / 512) (first / 512) (first % 512) k

/-- The k-th core of a count of present cores in n tiles from tile t on, from index i of that one (R47). -/
def kthAnyFrom (s : State) : Nat → Nat → Nat → Nat → Option Nat
  | 0, _, _, _ => none
  | n + 1, t, i, k =>
    let m := presentIn s t - i
    if k < m then some (t * 512 + i + k) else kthAnyFrom s n (t + 1) 0 (k - m)

/-- The k-th present core after a core (R47). -/
def kthPresent (s : State) (first k : Nat) : Option Nat :=
  kthAnyFrom s (Config.tiles - first / 512) (first / 512) (first % 512) k

/-- Fields of a placement word (R147). -/
def plFirst (w : Word) : Nat := bits w 0 20
def plCount (w : Word) : Nat := bits w 20 20
def plRow (w : Word) : Nat := bits w 40 7
def plCycle (w : Word) : Nat := bits w 47 2

/-- Where sub-tile n of S lies (R147). -/
def placeSub (s : State) (slot : Nat) (w : Word) (S n : Nat) : Option (Nat × Nat) :=
  let b := (S + plCount w - 1) / plCount w
  let k := if plCycle w = 0 then n % plCount w else n / b
  let r := plRow w + (if plCycle w = 0 then n / plCount w else n % b)
  (kthCore s slot (plFirst w) k).map fun c => (c, r)

/-- A placement word that R147 accepts for S sub-tiles. -/
def placeOk (s : State) (slot : Nat) (w : Word) (S : Nat) : Bool :=
  bits w 49 15 = 0 && plCycle w < 2 && plCount w ≠ 0 && (kthCore s slot (plFirst w) (plCount w - 1)).isSome
    && plRow w + (S + plCount w - 1) / plCount w ≤ 84

/-! ## Validity (R144) -/

/-- The greatest extent of a rank (R144). -/
def extLimit : Nat → Nat
  | 1 => 4294967295
  | 2 => 2147483648
  | 3 => 1048576
  | _ => 32768

/-- The PERM fields below RANK are a permutation and the others name themselves (R144). -/
def permOk (r : Rec) : Bool :=
  (List.range 4).all fun j =>
    if j < rRank r then rPerm r j < rRank r && (List.range j).all fun i => rPerm r i ≠ rPerm r j else rPerm r j = j

/-- Extents, tiles and layout (R144). -/
def shapeOk (r : Rec) : Bool :=
  (List.range 4).all (fun j =>
    if j < rRank r then 1 ≤ rExt r j && rExt r j ≤ extLimit (rRank r) else rExt r j = 0 && rTlog r j = 0)
  && permOk r && bits (rw r 3) 41 23 = 0
  && rTlog r 0 + rTlog r 1 + rTlog r 2 + rTlog r 3 + Nat.log2 (codeSize (rEfmt r)) = 12
  && rCount r ≤ 4294967296

/-- NREP and STACKS of a majority record (R181). -/
def rNrep (r : Rec) : Nat := bits (rw r 7) 16 4
def rStacks (r : Rec) : List Nat := (List.range 16).filter fun k => bits (rw r 7) k 1 = 1
/-- The quorum Q (R181). -/
def rQuorum (r : Rec) : Nat := if rNrep r = 3 then 2 else 3

/-- The rules of R144 that need neither another record nor the place of a computed or code object. -/
def recSound (r : Rec) : Bool :=
  let zero (l : List Nat) : Bool := l.all fun i => rw r i = 0
  bits (rw r 0) 44 4 = 0 && zero [11, 12, 13, 14, 15] &&
  match rKind r with
  | 1 => 1 ≤ rRank r && rRank r ≤ 4 && rEfmt r ≤ 13 && rOspol r ≤ 3 && rRespol r = 0 && shapeOk r
      && zero [5, 6, 7, 8, 9]
  | 2 => 1 ≤ rRank r && rRank r ≤ 4 && rEfmt r ≤ 13 && rOspol r ≤ 3 && rRespol r ≤ 2 && shapeOk r
      && zero [4, 6, 7] && bits (rw r 5) 32 32 = 0 && bits (rw r 8) 32 32 = 0
  | 3 => 1 ≤ rRank r && rRank r ≤ 4 && rEfmt r ≤ 13 && rOspol r ≤ 3 && rRespol r = 0 && shapeOk r
      && zero [4, 6, 8, 9] && bits (rw r 5) 32 32 = 0 && !rCache r && bits (rw r 7) 20 44 = 0
      && (rNrep r = 3 || rNrep r = 5) && (rStacks r).length = rNrep r
  | 4 => 1 ≤ rRank r && rRank r ≤ 4 && rEfmt r ≤ 13 && rOspol r ≤ 3 && rRespol r = 0 && zero [3, 7, 8, 9]
      && bits (rw r 4) 32 32 = 0
      && (List.range 4).all fun j =>
        if j < rRank r then 1 ≤ rExt r j && rExt r j ≤ extLimit (rRank r) else rExt r j = 0
  | 5 => bits (rw r 0) 4 28 = 0 && zero [1, 2, 3, 4, 5, 6, 7, 9] && bits (rw r 8) 16 48 = 0
  | 6 => rRank r = 1 && rEfmt r = 6 && rOspol r = 0 && rRespol r = 0 && shapeOk r && rTlog r 0 = 10 && !rCache r
      && rPerm r 0 = 0 && bits (rw r 5) 32 32 = 0 && bits (rw r 6) 8 56 = 0 && zero [7, 8, 9]
  | _ => false

/-- The place of a computed or code object is one that R147 accepts. -/
def placeFits (s : State) (slot : Nat) (r : Rec) : Bool :=
  (rKind r ≠ 1 && rKind r ≠ 6) || placeOk s slot (rPlace r) (rCount r)

/-- The rules of R144 that need no other record. -/
def recOk (s : State) (slot : Nat) (r : Rec) : Bool := recSound r && placeFits s slot r

/-- The object is the module control object (R202): the computed object of handle 2, which has no place. -/
def isModule (h : Nat) (r : Rec) : Bool := h = 2 && rKind r = 1 && rPlace r = 0

/-- `recOk`, the place of the module control object apart, which has none in memory. -/
def handleRecOk (s : State) (slot h : Nat) (r : Rec) : Bool := recSound r && (isModule h r || placeFits s slot r)

/-- TABLE of a framed or majority-framed record names a fitting object (R157, R181). -/
def tableOk (s : State) (slot : Nat) (r t : Rec) : Bool :=
  rKind t = 1 && rRank t = 1 && rEfmt t = 7 && recOk s slot t
    && (if rKind r = 2 then 2 else 4) * rCount r ≤ rExt t 0

/-- The parent of a view (R148). -/
def parentOk (v p : Rec) : Bool :=
  (rKind p = 1 || rKind p = 2 || rKind p = 3) && rRank p = rRank v && rEfmt p = rEfmt v

/-! ## Classes (R150) -/

/-- The classes that a record grants to a key; key 0 is nobody's, so that owner key 0 means privileged threads alone (R202). -/
def classesOf (r : Rec) (key : BitVec 16) (priv : Bool) : Nat :=
  let w := rw r 10
  if priv || (key ≠ 0 && key = w.extractLsb' 0 16) then bits (rw r 0) 32 6
  else if key ≠ 0 && (key = w.extractLsb' 16 16 || key = w.extractLsb' 32 16 || key = w.extractLsb' 48 16) then
    bits (rw r 0) 38 6
  else 0
/-- The class numbered 0 read, 1 write, 2 atomic, 3 FE, 4 commit, 5 relocate is granted. -/
def grants (r : Rec) (key : BitVec 16) (priv : Bool) (cls : Nat) : Bool := (classesOf r key priv).testBit cls

/-! ## Coordinates (R141, R146, R148, R151) -/

/-- Width of a coordinate field (R141). -/
def coordW : Nat → Nat
  | 1 => 48
  | 2 => 32
  | 3 => 21
  | _ => 16

/-- The coordinates that a word packs, none when a bit that must be zero is set (R141). -/
def unpackCoord (rank : Nat) (w : Word) : Option (List Int) :=
  if (rank = 1 ∧ bits w 48 16 ≠ 0) ∨ (rank = 3 ∧ bits w 63 1 ≠ 0) then none
  else some ((List.range 4).map fun j =>
    if j < rank then sval (coordW rank) (bits w (j * coordW rank) (coordW rank)) else 0)

/-- In shape (R151). -/
def inShape (r : Rec) (c : List Int) : Bool :=
  (List.range (rRank r)).all fun j => 0 ≤ c.getD j 0 && c.getD j 0 < (rExt r j : Int)

/-- What the out-of-shape policy makes of coordinates (R151). -/
inductive Shaped | at (c : List Int) | trap | zero
  deriving DecidableEq, Repr

/-- Apply OSPOL; zeroOk says whether policy ZERO ends the access (loads, stores, OBJQ). -/
def applyOspol (r : Rec) (zeroOk : Bool) (c : List Int) : Shaped :=
  if inShape r c then .at c
  else match rOspol r with
    | 1 => if zeroOk then .zero else .trap
    | 2 => .at (c.mapIdx fun j x => if j < rRank r then min (max x 0) (rExt r j - 1) else 0)
    | 3 => .at (c.mapIdx fun j x => if j < rRank r then x % (rExt r j : Int) else 0)
    | _ => .trap

/-- View coordinates to parent coordinates (R148); ORIGIN's bits that must be zero are ignored, and so are the steps of dimensions at or
above RANK (DESIGN CHOICE: the spec does not say that such a view is invalid, log 66). -/
def mapView (v : Rec) (c : List Int) : List Int :=
  match unpackCoord (rRank v) (if rRank v = 1 then (rw v 5) &&& 0xFFFFFFFFFFFF#64 else if rRank v = 3 then (rw v 5) &&& 0x7FFFFFFFFFFFFFFF#64 else rw v 5) with
  | none => c
  | some o => c.mapIdx fun j x =>
    if j < rRank v then
      (BitVec.ofInt 64 (o.getD j 0 + sval 16 (bits (rw v 6) (16 * j) 16) * x)).toInt
    else 0

/-- Sub-tile number and byte offset of in-shape coordinates (R146). -/
def subtileOf (r : Rec) (c : List Int) : Nat × Nat :=
  let x (j : Nat) : Nat := (c.getD j 0).toNat
  let sb (j : Nat) : Nat := x j / rTile r j
  let l (j : Nat) : Nat := x j % rTile r j
  let d (k : Nat) : Nat := rPerm r k
  (sb 0 + rSub r 0 * (sb 1 + rSub r 1 * (sb 2 + rSub r 2 * sb 3)),
   (l (d 0) + rTile r (d 0) * (l (d 1) + rTile r (d 1) * (l (d 2) + rTile r (d 2) * l (d 3)))) * codeSize (rEfmt r))

/-- The element at a storage index of a sub-tile is in shape: not in its padding (R146, R330). -/
def storedInShape (r : Rec) (sub idx : Nat) : Bool :=
  let s0 := sub % rSub r 0
  let s1 := sub / rSub r 0 % rSub r 1
  let s2 := sub / (rSub r 0 * rSub r 1) % rSub r 2
  let s3 := sub / (rSub r 0 * rSub r 1 * rSub r 2)
  let d (k : Nat) : Nat := rPerm r k
  let i0 := idx % rTile r (d 0)
  let q0 := idx / rTile r (d 0)
  let i1 := q0 % rTile r (d 1)
  let q1 := q0 / rTile r (d 1)
  let i2 := q1 % rTile r (d 2)
  let i3 := q1 / rTile r (d 2)
  let loc (j : Nat) : Nat := if d 0 = j then i0 else if d 1 = j then i1 else if d 2 = j then i2 else i3
  let st (j : Nat) : Nat := if j = 0 then s0 else if j = 1 then s1 else if j = 2 then s2 else s3
  (List.range (rRank r)).all fun j => st j * rTile r j + loc j < rExt r j

/-- The byte lanes of a 32-byte access at an offset that are in shape for lanes of E bytes (R330). -/
def lanesInShape (r : Rec) (sub off E : Nat) : Pred :=
  let z := codeSize (rEfmt r)
  groups E ((List.range (32 / E)).map fun i =>
    (List.range E).all fun b => 4096 ≤ off + i * E + b || storedInShape r sub ((off + i * E + b) / z))

/-! ## The object table (R139, R202) -/

/-- Byte address of z64 element e of a rank-1 computed object with placement w and an extent (R147). -/
def elemAddr (s : State) (slot : Nat) (w : Word) (ext e : Nat) : Option (Nat × Nat × Nat) :=
  (placeSub s slot w ((ext + 511) / 512) (e / 512)).map fun p => (p.1, p.2, 8 * (e % 512))

/-- The place of a record's word 0: core, row and byte offset. -/
def recordPlace (s : State) (slot handle : Nat) : Option (Nat × Nat × Nat) :=
  elemAddr s slot (getPart s slot).objplace (getPart s slot).objext.toNat (16 * handle)

/-- The handle names a record of the table: not 0, below the extent, none of the reserved system handles. -/
def handleOk (s : State) (slot handle : Nat) : Bool :=
  handle ≠ 0 && !(4 ≤ handle && handle < 64) && handle < (getPart s slot).objext.toNat / 16

/-- The words of a record. -/
def recordWords (s : State) (slot h : Nat) : List Nat :=
  match recordPlace s slot h with
  | some p => (List.range 16).map fun i => rowAddr p.1 p.2.1 + p.2.2 + 8 * i
  | none => []

/-- A record is read: stored errors in its words are met (R99). -/
def meetRecord (s : State) (slot h : Nat) : State :=
  if s.bitErrs.isEmpty || !handleOk s slot h then s else (recordWords s slot h).foldl touchWord s

/-- Read n words of memory. -/
def readWords (s : State) (a n : Nat) : List Word := (List.range n).map fun i => getWord s (a + 8 * i)

/-- The record of a handle as memory holds it now. -/
def recordNow (s : State) (slot handle : Nat) : Option Rec :=
  if handleOk s slot handle then (recordPlace s slot handle).map fun p => readWords s (rowAddr p.1 p.2.1 + p.2.2) 16
  else none

/-- The module control object's record (R202): computed, rank 1, z64, 0x60200 elements, owner key 0, read and write. -/
def moduleRecord : Rec :=
  [0x0000000300000711#64, 0x60200#64, 0, 0xE400000009#64, 0, 0, 0, 0, 0, 0, 0, 0, 0, 0, 0, 0]

/-- The place of entry n of a sub-tile table with a record (R157, R182): core, row and offset. -/
def entryPlace (s : State) (slot : Nat) (r t : Rec) (n : Nat) : Option (Nat × Nat × Nat) :=
  elemAddr s slot (rPlace t) (rExt t 0) ((if rKind r = 2 then 2 else 4) * n)

/-- The record that hardware acts on without a cache (the distributor, code-row fills, engines). -/
def validNow (s : State) (slot handle : Nat) : Option Rec :=
  match recordNow s slot handle with
  | none => none
  | some r =>
    if !handleRecOk s slot handle r then none
    else match rKind r with
      | 2 | 3 => match recordNow s slot (rTable r) with
        | some t => if tableOk s slot r t then some r else none
        | none => none
      | 4 => match recordNow s slot (bits (rw r 4) 0 32) with
        | some p => if parentOk r p && handleRecOk s slot (bits (rw r 4) 0 32) p then some r else none
        | none => none
      | _ => some r

/-- The place of sub-tile n of a computed or code object: core and row (R147). -/
def computedPlace (s : State) (slot : Nat) (r : Rec) (n : Nat) : Option (Nat × Nat) := placeSub s slot (rPlace r) (rCount r) n

end Sys2Proof.Machine
end

