-- ==== Sys2Proof/Machine/Fetch.lean ====
section
/-! DEFINITION. Fetching: code rows and fetch buffers (R32, R278), the checks before an issue (R16, R119, R130),
and the liveness table (R123, R149). -/
namespace Sys2Proof.Machine

/-- The record of a code object as the core sees it: none when it is no valid KIND 6 record (R149). -/
def codeRecord (s : State) (core handle : Nat) : Option Rec :=
  match validNow s (slotOf s (tileOf core)) handle with
  | some r => if rKind r = 6 then some r else none
  | none => none

/-- The size of a code object in bytes (R149); 0 when it is not valid. -/
def codeBytes (s : State) (core handle : Nat) : Nat :=
  match codeRecord s core handle with
  | some r => 4 * rExt r 0
  | none => 0

/-- The code row that caches a part of a code object (R32). -/
def codeRowOf (s : State) (core handle part : Nat) : Option CodeRow :=
  (getCore s core).code.find? fun c => c.handle = handle ∧ c.part = part

/-- Put an element at the recently used end. -/
def moveBack {α : Type} [DecidableEq α] (l : List α) (x : α) : List α := l.filter (· ≠ x) ++ [x]

/-- The word of a code object at a byte offset, wherever it stands (R75, R130). -/
def wordAt (s : State) (core handle pc : Nat) : InsnWord :=
  if codeBytes s core handle ≤ pc then 0
  else match codeRowOf s core handle (pc / 4096) with
    | some c => BitVec.ofNat 32 (getNat s (rowAddr core c.row + pc % 4096) 4)
    | none =>
      match codeRecord s core handle with
      | none => 0
      | some r =>
        match computedPlace s (slotOf s (tileOf core)) r (pc / 4096) with
        | some (c, row) => BitVec.ofNat 32 (getNat s (rowAddr c row + pc % 4096) 4)
        | none => 0

/-- The word at a thread's PC. -/
def wordAtPc (s : State) (t : Thr) : InsnWord := wordAt s t.core (codeOf s t) (pcOf s t)

/-- The code rows of a core that are being opened. -/
def opening (s : State) (core : Nat) : List Nat :=
  s.agenda.filterMap fun x => match x.act with
    | .run (.codeRowOpen c r) => if c = core then some r else none
    | _ => none

/-- Begin to open a code row in the less recently used fetch buffer (R32); with both buffers taken by rows that are being opened
it waits. -/
def openCodeRow (s : State) (core row : Nat) : State :=
  let l := opening s core
  if l.contains row || 2 ≤ l.length then s
  else
    let s := modCore s core fun c => { c with buffers := c.buffers.drop (c.buffers.length + l.length - 1) }
    post s Config.codeOpenCycles (.codeRowOpen core row)

/-- The row is the one that a thread would fetch from. -/
def fetchesFrom (s : State) (t : Thr) (handle part : Nat) : Bool := codeOf s t = handle && pcOf s t / 4096 = part

/-- The threads of a core that have a control entry. -/
def ctlThreads (s : State) (core : Nat) : List Thr := (getCore s core).thr.map fun p => ⟨core, p.1⟩

/-- The code row that a thread would fetch from is being opened. -/
def awaitsOpening (s : State) (t : Thr) : Bool :=
  match codeRowOf s t.core (codeOf s t) (pcOf s t / 4096) with
  | some c => (opening s t.core).contains c.row
  | none => false

/-- Step CODE_ROW_OPEN (R32): the row is open, and the stalled threads go on whose code row is not being opened. -/
def codeRowOpened (s : State) (core row : Nat) : State :=
  let s := modCore s core fun c =>
    if c.code.any (fun x => x.row = row) then { c with buffers := (moveBack c.buffers row).drop ((moveBack c.buffers row).length - 2) } else c
  (ctlThreads s core).foldl (fun s t => if awaitsOpening s t then s else modThr s t fun c => { c with codeWait := false }) s

/-- A free code row, else the least recently used one (R32). -/
def codeVictim (c : CoreSt) : Nat :=
  match ((List.range 11).map (85 + ·)).find? fun r => !c.code.any fun x => x.row = r with
  | some r => r
  | none => (c.code.head?.map (·.row)).getD 85

/-- Cache a part of a code object in a code row: copied whole, every word full and sound. -/
def fillCodeRow (s : State) (core handle part : Nat) : State :=
  match codeRecord s core handle with
  | none => s
  | some r =>
    match computedPlace s (slotOf s (tileOf core)) r part with
    | none => s
    | some (oc, orow) =>
      let c := getCore s core
      let victim := match codeRowOf s core handle part with
        | some x => x.row
        | none => codeVictim c
      let s := setCore s core
        { c with code := c.code.filter (fun x => x.row ≠ victim) ++ [⟨victim, handle, part⟩],
                 buffers := if (codeRowOf s core handle part).isSome then c.buffers else c.buffers.filter (· ≠ victim) }
      let s := touch s (rowAddr oc orow) 4096
      let bad := (wordsOf (rowAddr oc orow) 4096).filter (isPoisoned s)
      let s := putFull s (rowAddr core victim) (getBytes s (rowAddr oc orow) 4096)
      { s with poison := bad.foldl (fun l a => insertNat (a - rowAddr oc orow + rowAddr core victim) l) s.poison }

/-- The owner of a part of a code object lies on a DOWN stack. -/
def codeOwnerDown (s : State) (core handle part : Nat) : Bool :=
  match codeRecord s core handle with
  | none => false
  | some r => match computedPlace s (slotOf s (tileOf core)) r part with
    | some (oc, _) => stackDown s (stackOf oc)
    | none => false

/-- Threads parked for a code-row fill: KIND MEM, CAUSE 0 (R32). -/
def waitsForFill (s : State) (t : Thr) : Bool := tstate s t = stParked && bits (getC s t 2) 0 16 = 1

/-- Step CODE_ROW_FILL (R32, R149): one admission at the owner; the threads that parked for it are RUN.  A refresh
of subarray 7 holds it (R37). -/
def codeRowFilled (s : State) (core handle part : Nat) : State :=
  match (getSub s core 7).mode with
  | .refreshing _ => post s 1 (.codeRowFill core handle part)
  | _ =>
    if codeOwnerDown s core handle part then
      -- the owner lies on a DOWN stack (R190)
      (ctlThreads s core).foldl (fun s t =>
        if waitsForFill s t && fetchesFrom s t handle part then
          takeTrap (unpark s t) t .stackDown 0 (some (withSubtile (BitVec.ofNat 64 handle) part)) else s) s
    else
      let s := fillCodeRow s core handle part
      (ctlThreads s core).foldl (fun s t =>
        if waitsForFill s t && fetchesFrom s t handle part then unpark s t else s) s

/-- Ask for a code-row fill: a packet of class BULK (DESIGN CHOICE: R94 names no class for it, log 65). -/
def wantFill (s : State) (core handle part : Nat) : State :=
  let s := meetRecord s (slotOf s (tileOf core)) handle
  match codeRecord s core handle with
  | none => s
  | some r =>
    match computedPlace s (slotOf s (tileOf core)) r part with
    | none => s
    | some (oc, orow) => send s .bulk (tileOf core) (tileOf oc) (.arrive oc orow (.codeRowFill core handle part))

/-- What a fetch finds: the word, with the code row's own address, or nothing this cycle. -/
inductive Fetched | word (w : InsnWord) (addr : Nat) | beyond | wait
  deriving DecidableEq, Repr

/-- Fetch for a thread that has the turn (R32, R278): the size of its code object is read (R99). -/
def fetch (s : State) (t : Thr) : State × Fetched :=
  let h := codeOf s t
  let s := meetRecord s (slotOf s (tileOf t.core)) h
  let pc := pcOf s t
  if codeBytes s t.core h ≤ pc then (s, .beyond)
  else
    match codeRowOf s t.core h (pc / 4096) with
    | none => (wantFill (park s t 1 0 (BitVec.ofNat 64 h)) t.core h (pc / 4096), .wait)
    | some c =>
      if (getCore s t.core).buffers.contains c.row then
        let a := rowAddr t.core c.row + pc % 4096
        let s := modCore s t.core fun x => { x with buffers := moveBack x.buffers c.row, code := moveBack x.code c }
        (s, .word (BitVec.ofNat 32 (getNat s a 4)) a)
      else (openCodeRow (modThr s t fun x => { x with codeWait := true }) t.core c.row, .wait)

/-- Everything before an issue: the fetch, poison in c0, c1 and c11 (R130), the breakpoint of c11 (R16, R119), which comes
before what has no precedence number (R115), and poison in the fetched word; in a pair that counts as a mismatch, as
poison of the own row does (DESIGN CHOICE, log 56).  The word to issue, if one is. -/
def prelude (s : State) (t : Thr) : State × Option InsnWord :=
  match fetch s t with
  | (s, .wait) => (s, none)
  | (s, .beyond) =>
    let ws := [cAddr t 0, cAddr t 1, cAddr t 11]
    let s := ws.foldl touchWord s
    if ws.any (isPoisoned s) then (ownPoison s t 0, none)
    else if bits (getC s t 11) 0 1 = 1 ∧ bits (getC s t 11) 2 30 = pcOf s t / 4 then (takeTrap s t .breakpoint 0 none, none)
    else (takeTrap s t .illegalInsn 0 none, none)
  | (s, .word w a) =>
    let ws := [cAddr t 0, cAddr t 1, cAddr t 11]
    let s := (a / 8 * 8 :: ws).foldl touchWord s
    if ws.any (isPoisoned s) then (ownPoison s t (if isPoisoned s (a / 8 * 8) then 0 else w), none)
    else if bits (getC s t 11) 0 1 = 1 ∧ bits (getC s t 11) 2 30 = pcOf s t / 4 then (takeTrap s t .breakpoint w none, none)
    else if isPoisoned s (a / 8 * 8) then
      -- the row is filled again before the next fetch (R130)
      (ownPoison (modCore s t.core fun c => { c with code := c.code.filter fun x => x.row ≠ rowOfAddr a }) t 0, none)
    else (s, some w)

/-- The address of entry k of a code object's liveness table, where there is one (R123, R149). -/
def livenessAt (s : State) (core handle k : Nat) : Option Nat :=
  match codeRecord s core handle with
  | none => none
  | some r =>
    if k = 255 ∨ bits (rw r 6) 0 8 ≤ k ∨ rTable r = 0 then none
    else
      let slot := slotOf s (tileOf core)
      match validNow s slot (rTable r) with
      | none => none
      | some t =>
        if rKind t = 1 ∧ rRank t = 1 ∧ rEfmt t = 7 ∧ k < rExt t 0 then
          (elemAddr s slot (rPlace t) (rExt t 0) k).map fun p => rowAddr p.1 p.2.1 + p.2.2
        else none

/-- Entry k of a code object's liveness table; all ones where there is none (R123, R149). -/
def livenessOf (s : State) (core handle k : Nat) : Word :=
  match livenessAt s core handle k with
  | some a => getWord s a ||| 0xC000000000000000#64
  | none => BitVec.allOnes 64

/-- Write a thread's c5 from the liveness table: reading it meets stored errors (R99), and a poisoned entry leaves c5 poisoned
(DEDUCED: nothing has received a value that R130 names, log 52). -/
def setLive (s : State) (t : Thr) (handle k : Nat) : State :=
  let slot := slotOf s (tileOf t.core)
  let s := meetRecord s slot handle
  let s := match codeRecord s t.core handle with | some r => meetRecord s slot (rTable r) | none => s
  match livenessAt s t.core handle k with
  | none => setC s t 5 (livenessOf s t.core handle k)
  | some a =>
    let s := touchWord s a
    let bad := isPoisoned s a
    let s := setC s t 5 (livenessOf s t.core handle k)
    if bad then { s with poison := insertNat (cAddr t 5) s.poison } else s

/-- LIVE (R123, R314). -/
def execLive (k : BitVec 8) (s : State) : Out :=
  withS s [] fun s =>
    retire (setLive s s.cur (codeOf s s.cur) k.toNat) s.cur (livenessOf s s.cur.core (codeOf s s.cur) k.toNat)

end Sys2Proof.Machine
end

