-- ==== Sys2Proof/Machine/Beyond.lean ====
section
/-! DEFINITION. Instructions that go beyond the own row: how they park and what they ask (R28, R34, R322), their
classes in a pair (R125), and what their answer writes (R28, step REPLY). -/
namespace Sys2Proof.Machine

/-- Classes of R125. -/
inductive PCls | read | held | once
  deriving DecidableEq, Repr

/-- The class of an instruction in a pair (R125). -/
def classOf : Instr → PCls
  | .ldo _ _ r _ | .vldo _ _ _ r _ | .vldb _ _ _ r _ | .ldff _ _ r => if r = .plain then .read else .once
  | .rld _ _ _ o => if o = .plain then .read else .once
  | .objq .. | .ibpeek _ | .capr .. => .read
  | .sto _ _ r _ | .vsto _ _ _ r _ | .stff _ _ r | .sete _ r | .msend _ _ _ r => if r = .plain then .held else .once
  | .rst _ _ _ o | .hdl _ _ o => if o = .plain then .held else .once
  | _ => .once

/-- A request as an instruction of the issuing thread makes it. -/
def newReq (s : State) (i : Instr) : Req :=
  { id := s.nextReq, thr := s.cur, insn := i, word := s.curWord, phase := .sent,
    key := keyOf s s.cur, priv := isPriv s s.cur }

/-- The follower takes the leader's answers in order (R125): the next one, when it has come. -/
def takeForward (s : State) (p : PairSt) : State :=
  match p.fwd[p.taken]?, reqOf s p.follower with
  | some a, some r =>
    let s := modPair s p.leader fun p => { p with taken := p.taken + 1 }
    send s .rsp (tileOf p.follower.core) (tileOf p.follower.core) (.run (.reply r.id a))
  | _, _ => s

/-- Park with a request and start it.  In a pair the leader acts and the follower waits for the forwarded answer;
a once-only instruction first ends the interval with a checkpoint (R125). -/
def beyond (s : State) (kind cause : Nat) (detail : Word) (r : Req) (start : State → Nat → State) : State :=
  let t := s.cur
  let go (s : State) : State := start (addReq (park s t kind cause detail) r) s.nextReq
  match pairOf s t with
  | none => go s
  | some p =>
    let act (s : State) : State :=
      if t = p.leader then
        match p.again with
        | some (pc, a) =>
          if pc = pcOf s t then
            send (addReq (park s t kind cause detail) r) .rsp (tileOf t.core) (tileOf t.core) (.run (.reply s.nextReq a))
          else go s
        | none => go s
      else match pairOf (addReq (park s t kind cause detail) r) t with
        | some p => takeForward (addReq (park s t kind cause detail) r) p
        | none => s
    match classOf r.insn with
    | .read | .held => act s
    | .once =>
      if getC s t 14 = p.start then act (modPair s p.leader fun p => { p with ending := .once })
      else callCheckpoint s p (getC s t 14)

/-- Words that an instruction beyond the own row reads besides its operands: c7 for its packets, c4 where it is a
release or posted, c8 where it waits (R130). -/
def packetWords (t : Thr) : List Nat := [cAddr t 7]
def postedWords (t : Thr) : List Nat := [cAddr t 7, cAddr t 4]
def waitWords (t : Thr) : List Nat := [cAddr t 7, cAddr t 8]

/-- The registers of a pair field: the handle and the coordinates (R139, R280). -/
def pairEven (p : Pair) : SReg := p ++ 0#1
def pairOdd (p : Pair) : SReg := p ++ 1#1

/-- The second register of a pair of registers named by its even one. -/
def nextReg (d : SReg) : SReg := d + 1

/-- v of an object store (R124). -/
def storeV (handle coord data : Word) : Word := handle.rotateLeft 32 ^^^ coord ^^^ data

/-- EXIT retires (R376): c14 counts it, PC stays, the thread is DONE; a handler ends; in a pair the checkpoint that
follows makes both sides DONE (R372). -/
def finishExit (s : State) (t : Thr) : State :=
  let v : Word := BitVec.ofNat 64 (pcOf s t)
  match pairOf s t with
  | some p => retireTo (modPair s p.leader fun p => { p with ending := .exit }) t (pcOf s t) v
  | none =>
    let s := retireTo s t (pcOf s t) v
    if isHandler t then endHandler (setTState s t stDone) t.core
    else threadEnded (setTState s t stDone) t false

/-- Write the answer x of a completed instruction into the row and retire (step REPLY): c14 is read (R130). -/
def deliver (s : State) (r : Req) (x : Vec) : State :=
  let t := r.thr
  let w : Word := x.extractLsb' 0 64
  match r.insn with
  | .ldo d _ _ z => retireS s t d (extend z.bytes true x.toNat)
  | .ldfe d _ _ | .ldff d _ _ => retireS s t d w
  | .sto _ _ _ z => retire s t (storeV r.handle r.coord (BitVec.ofNat 64 (r.x.toNat % 2 ^ (8 * z.bytes))))
  | .stef .. | .stff .. => retire s t (storeV r.handle r.coord r.x)
  | .sete .. => retire s t (storeV r.handle r.coord 0)
  | .amoAddD d .. | .amoAndD d .. | .amoOrD d .. | .amoXorD d .. | .amoSminD d .. | .amoSmaxD d .. | .amoUminD d ..
  | .amoUmaxD d .. | .amoSwapD d .. | .amoFaddD d .. | .amoFminD d .. | .amoFmaxD d .. | .amoCasD d .. =>
    retireS s t d w
  | .amoAddW d .. | .amoAndW d .. | .amoOrW d .. | .amoXorW d .. | .amoSminW d .. | .amoSmaxW d .. | .amoUminW d ..
  | .amoUmaxW d .. | .amoSwapW d .. | .amoFaddW d .. | .amoFminW d .. | .amoFmaxW d .. | .amoCasW d .. =>
    retireS s t d (sext32 (x.extractLsb' 0 32))
  | .vldo v _ _ _ u =>
    let s := setVMasked s t v x (activeBytes (r.y.setWidth 32) u.size)
    retire s t (foldVec (getV s t v))
  | .vldb v _ _ _ u =>
    let y := ofLanes u.size (List.replicate (32 / u.size) (x.toNat % 2 ^ (8 * u.size)))
    let s := setVMasked s t v y (activeBytes (r.y.setWidth 32) u.size)
    retire s t (foldVec (getV s t v))
  | .vsto .. => retire s t (storeV r.handle r.coord (foldVec r.vec))
  | .rst _ _ n _ => retire s t (r.handle ^^^ n.setWidth 64 ^^^ r.x)
  | .hdl .. => retire s t (r.handle ^^^ 496 ^^^ r.x)
  | .fence _ | .fenceAcq _ | .fenceRel _ | .msend .. | .cntdec .. | .cntadd .. | .cntwait .. => retirePlain s t
  | .ibrecv d =>
    let y : Word := x.extractLsb' 64 64
    retire (setS (setS s t d w) t (nextReg d) y) t (w ^^^ y)
  | .ibpeek d | .rld d .. | .ramoadd d .. | .rcas d .. | .objq d .. | .commit d .. | .decommit d _ | .alloc d _ | .free d ..
  | .reloc d .. | .objsync d _ | .fillc d .. | .repart d _ | .unpair d | .capr d _ | .launch d .. | .cancel d ..
  | .mldb d _ | .mldbW d _ | .mmul d _ | .mmulW d _ | .mout d .. | .mzero d _ | .mtest d | .cpy d _ | .cpyx d _ | .cpyc d _
  | .gath d _ | .scat d _ | .scatadd d _ | .jpoll d _ | .jwait d _ | .creduce d _ | .rseq d _ | .rswait d | .mstat d _ =>
    retireS s t d w
  | .pair d =>
    -- R318: s[sd] and c7 first, then the copies
    let s := retireS s t d w
    if w = 0 then makePair (setC (setC s t 7 (setBits (getC s t 7) 18 2 1)) t 13 0) false t else s
  | .exit => finishExit s t
  | _ => retirePlain s t

/-- Causes whose trap writes c9 with a sub-tile number when the answer to a parked instruction raises them (R115): an
MISALIGNED that is answered is an object access's. -/
def Cause.writesC9 : Cause → Bool
  | .objNull | .objPerm | .outOfShape | .misaligned | .majUnsupported | .notResident | .noQuorum | .tagExhausted | .stackDown => true
  | .breakpoint | .illegalInsn | .illegalReg | .priv | .trapInsn | .rowProtect | .waitLimit
  | .poisonConsumed | .pairUnrecovered => false

/-- The leader's answer goes to the follower too (R125); the answer of a once-only instruction at pc is kept. -/
def forward (s : State) (t : Thr) (pc : Nat) (a : Ans) : State :=
  match pairOf s t with
  | none => s
  | some p =>
    if t = p.leader then
      let waiting := p.fwd.length = p.taken && (reqOf s p.follower).isSome
      let s := modPair s p.leader fun p =>
        { p with fwd := p.fwd ++ [a], again := if p.ending = .none then none else some (pc, a) }
      match pairOf s t with
      | some p => if waiting then takeForward s p else s
      | none => s
    else s

/-- Complete a parked instruction whose row is open (R28, R115, R130): its answer is written, or the thread traps or
is ended. -/
def complete (s : State) (r : Req) (a : Ans) : State :=
  let t := r.thr
  let pc := pcOf s t
  -- the answer of a PAIR, which makes the pair, is none that its follower takes (R318)
  let paired := (pairOf s t).isSome
  let s := dropReq s r.id
  let s := match a with
    | .value x false => retiring (unpark s t) t r.word fun s => deliver s r x
    | .value _ true =>
      match pairOf s t with
      -- poison in a forwarded value is consumed by both sides (R130)
      | some p => endPair s p r.word
      | none => consumePoison s t r.word
    | .trap c sub =>
      takeTrap (unpark s t) t c r.word (if Cause.writesC9 c then some (withSubtile r.handle sub) else none)
  runCmds (if paired then forward s t pc a else s) t

/-- The row of a thread is open for it. -/
def rowOpen (s : State) (t : Thr) : Bool :=
  if 84 ≤ t.row then true
  else
    let c := getCore s t.core
    (getSub s t.core (subOf c t.row)).mode = .opened (homeRow c t.row)

/-- A store that a pair has sent is complete: what it holds behind it goes out next (R126, R191, R193). -/
def heldDone (s : State) (id : Nat) : State :=
  { s with pairs := s.pairs.map fun p => if p.storing = id then { p with storing := 0 } else p }

/-- An answer that ends a park arrives (R28): a closed row's thread is RUN at once, and the core holds the reply.
An answer to an operation that has been withdrawn is discarded (R77). -/
def replyArrives (s : State) (id : Nat) (a : Ans) : State :=
  match findReq s id with
  | none => s
  | some r =>
    let s := { s with io := { s.io with outbound := s.io.outbound.filter fun o => o.req ≠ id } }
    if r.held then heldDone (dropReq s id) id
    else if tstate s r.thr ≠ stParked || r.phase = .answered then s
    else if rowOpen s r.thr then complete s r a
    else
      modThr (unpark (modReq s id fun r => { r with phase := .answered }) r.thr) r.thr fun c => { c with reply := some (id, a) }

/-- PARK ends (R376). -/
def wakePark (s : State) (t : Thr) : State :=
  match s.reqs.find? fun r => r.thr = t && !r.held && r.insn == .park with
  | some r => replyArrives s r.id (ansWord 0)
  | none => s

/-- The core writes a held reply when the row opens, before the thread's first issue (R28). -/
def writeHeld (s : State) (t : Thr) : State :=
  match (getThr s t).reply with
  | none => s
  | some (id, a) =>
    let s := modThr s t fun c => { c with reply := none }
    match findReq s id with
    | none => s
    | some r => complete s r a

/-- Step LONG_OP_DONE (R34): a word that waits at the row buffer and the commands that wait come next. -/
def execLongOpDone (s : State) : Out :=
  match s.doing with
  | some (.longOpDone t) =>
    .next (match (getThr s t).long with
      | none => s
      | some l =>
        let s := retiring (modThr s t fun c => { c with long := none }) t (wordAtPc s t) fun s =>
          longDone (modThr s t fun c => { c with long := some l }) t
        holdForTreadle (runCmds s t) t)
  | _ => .next s

end Sys2Proof.Machine
end

