-- ==== Sys2Proof/Machine/Heddle.lean ====
section
/-! DEFINITION. Outside accesses to rows and heddle commands: the key check (R67, R68), diversions (R69), control
words from outside (R71), commands from every state (R64, R75) and the settling of outstanding instructions
(R77, R78). -/
namespace Sys2Proof.Machine

/-- The thread row at which a step is applied as an outside access, if it is one (R70, R60). -/
def Event.atRow : Event → Option Thr
  | .start p | .stop p | .redirect p | .resume p | .step p | .heddleCancel p | .heddleNone p | .reservedCommand p
  | .outsideRead p | .outsideWrite p | .outsideRamoadd p | .outsideRcas p => some (refThr p.ref)
  | .priorityLoan _ row _ => row
  | _ => none

/-- Divert a packet: no effect, a record for the supervisor, and an answer of 0 (R69). -/
def divert (s : State) (p : RowPkt) (sub : Nat) : State :=
  let tile := tileOf (refCore p.ref)
  answerPkt (diversion s tile (slotOf s tile) p.ref sub p.sender) p (ansWord 0)

/-- The word is a control word: of a first row only (R67). -/
def isControl (s : State) (core row widx : Nat) : Bool := 496 ≤ widx && homeRow (getCore s core) row = row

/-- The thread row that a packet's row belongs to: of a wide thread's second row, its first (R67). -/
def pktHome (s : State) (p : RowPkt) : Thr := ⟨refCore p.ref, homeRow (getCore s (refCore p.ref)) (refRow p.ref)⟩

/-- The row is a pair's follower row (R128). -/
def isFollowerRow (s : State) (core row : Nat) : Bool :=
  s.pairs.any fun p => p.follower = ⟨core, homeRow (getCore s core) row⟩

/-- Why a packet is diverted, if it is: the first code of R68 that applies. -/
def rowCheck (s : State) (p : RowPkt) (f : RowFn) : Option Nat :=
  let core := refCore p.ref
  let row := refRow p.ref
  let w := f = .write || f = .cas
  let bad := refKey p.ref = 0 || bits p.ref 46 2 ≠ 0 || !corePresent s core
  if row = 84 then
    if bad || f = .add || p.widx < 492 || 495 < p.widx then some 0x04
    else if refKey p.ref ≠ partKey s (tileOf core) then some 0x01
    else if w && p.widx = 492 && !p.priv then some 0x03
    else none
  else
    let home := pktHome s p
    if bad || 85 ≤ row || frameUse s core row ≠ 0 || (f = .add && isControl s core row p.widx)
        || (f ≠ .read && (isShadow s core row || isFollowerRow s core row)) then some 0x04
    else if isPoisoned s (cAddr home 7) then some 0x04
    else if tstate s home = stAbsent then some 0x02
    else if keyOf s home = 0 || keyOf s home ≠ refKey p.ref then some 0x01
    else if w && isControl s core row p.widx && (p.widx = 503 || p.widx = 508) && !p.priv then some 0x03
    else none

/-- The key check of a packet reads c7 of the row's thread (R130). -/
def readsKey (s : State) (p : RowPkt) : Bool :=
  refRow p.ref < 84 && corePresent s (refCore p.ref) && frameUse s (refCore p.ref) (refRow p.ref) = 0

/-- The key check meets stored errors of the row's frame-state entry and of c7 (R99). -/
def meetKey (s : State) (p : RowPkt) : State :=
  let s := touchFrame s (refThr p.ref)
  if readsKey s p then touchWord s (cAddr (pktHome s p) 7) else s

/-- A key check that meets a poisoned c7 ends the row's thread as well (R130). -/
def checkPoison (s : State) (p : RowPkt) : State :=
  let home := pktHome s p
  if readsKey s p && isPoisoned s (cAddr home 7) then ownPoison s home (wordAtPc s home) else s

/-- Run a packet's effect, or divert it. -/
def checked (s : State) (p : RowPkt) (f : RowFn) (k : State → State) : State :=
  let s := meetKey s p
  match rowCheck s p f with
  | some sub => checkPoison (divert s p sub) p
  | none => k s

/-! ## Words of a row from outside (R31, R67, R71) -/

/-- The word that an outside read returns. -/
def rowWord (s : State) (core row widx : Nat) : Word :=
  if row = 84 then
    if widx = 492 then corestat s core else if widx = 493 then (getCore s core).actCount else 0
  else if homeRow (getCore s core) row = row then
    if widx = 0 then 0
    else if widx = 128 then getWord s (rowAddr core row + 1024) ||| 0xFFFFFFFF#64
    else if 496 ≤ widx then getC s ⟨core, row⟩ (widx - 496)
    else getWord s (rowAddr core row + 8 * widx)
  else getWord s (rowAddr core row + 8 * widx)

/-- Write a word that is not c0 as R71 states. -/
def writeRowWord (s : State) (core row widx : Nat) (x : Word) : State :=
  let a := rowAddr core row + 8 * widx
  if row = 84 then s
  else if homeRow (getCore s core) row = row then
    if widx = 0 then s
    else if widx = 128 then putWord s a (setBits x 0 32 (bits (getWord s a) 0 32))
    else if 496 ≤ widx then
      let n := widx - 496
      if mtcMask n = 0 then s else putWord s a (mtcValue n (getWord s a) x)
    else putWord s a x
  else putWord s a x

/-- An outside write to a word below 496 wakes a PARK of the row's thread (R376). -/
def wakeRow (s : State) (core row widx : Nat) : State :=
  if row = 84 || 496 ≤ widx then s else wakePark s ⟨core, homeRow (getCore s core) row⟩

/-! ## Settling an outstanding instruction (R77) -/

/-- Stop awaiting: the request leaves every list it may wait in. -/
def withdrawReq (s : State) (r : Req) : State :=
  let s := dropReq s r.id
  let job (j : Job) : Job := { j with waiters := j.waiters.filter (· ≠ r.id) }
  { s with
    tiles := s.tiles.map fun t => (t.1, { t.2 with jobs := t.2.jobs.map job, copies := t.2.copies.map job, gathers := t.2.gathers.map job })
    io := { s.io with counters := s.io.counters.map fun c => (c.1, { c.2 with waiters := c.2.waiters.filter (· ≠ .request r.id) }) } }

/-- Send a cancel-wait to the owner of the awaited word, in this module or another (R77, R105, R195). -/
def sendCancelWait (s : State) (r : Req) : State :=
  let core := r.frame / 128
  if r.dev ≠ s.io.devid.toNat then
    if reachable s r.dev then { s with io := { s.io with left := s.io.left ++ [(r.dev, .cancelWait r.id core)] } } else s
  else send s .req (tileOf r.thr.core) (tileOf core) (.arrive core (r.frame % 128) (.cancelWait r.id core))

/-- How an outstanding request is settled (R77). -/
inductive Settling | withdraw | cancelWait | complete
  deriving DecidableEq, Repr

def settlingOf (r : Req) : Settling :=
  match r.insn with
  | .ldo .. | .vldo .. | .vldb .. | .rld .. | .objq .. | .capr .. => .withdraw
  -- a cancel-wait of the wait limit decides (R78)
  | .ldff .. => if r.phase = .sent && r.cw ≠ .none then .cancelWait else .withdraw
  | .jwait .. | .ibrecv _ | .cntwait .. | .rswait _ | .park => .withdraw
  | .fence _ | .fenceAcq _ | .fenceRel _ => .withdraw
  | .ldfe .. | .stef .. => if r.phase = .sent then .cancelWait else .withdraw
  | .commit .. | .objsync .. | .fillc .. => .complete
  | _ => if r.phase = .fence then .withdraw else .complete

/-- Settle what a PARKED thread has outstanding; false when its completion must be awaited. -/
def settle (s : State) (t : Thr) : State × Bool :=
  match reqOf s t with
  | none =>
    if (getThr s t).yielded then (completeYield s t, true)
    else (unpark s t, true)
  | some r =>
    match settlingOf r with
    | .withdraw =>
      let s := match r.insn with
        | .ldff .. => if r.phase = .sent && r.cw = .none then sendCancelWait s r else s
        | _ => s
      (unpark (withdrawReq s r) t, true)
    | .cancelWait =>
      let s := if r.cw = .none then sendCancelWait s r else s
      (modReq s r.id fun r => { r with cw := .stop }, false)
    | .complete => (s, false)

/-! ## Commands (R64, R75) -/

/-- An outside store to c0: PRIO and TARGET are taken, HERR is W1C, STATE stays, CMD reads 0 (R64, R70). -/
def storeHeddle (s : State) (t : Thr) (x : Word) : State :=
  let old := getC s t 0
  let new := setBits ((old &&& ~~~mtcMask 0) ||| (x &&& mtcMask 0)) 0 4 0
  setC s t 0 (setBits new 8 1 (if bits x 8 1 = 1 then 0 else bits old 8 1))

/-- Refused: HERR is set and nothing else changes. -/
def refuse (s : State) (t : Thr) : State := setC s t 0 (setBits (getC s t 0) 8 1 1)

/-- PC := 4 × TARGET. -/
def redirectPc (s : State) (t : Thr) (x : Word) : State := setPc s t (4 * bits x 16 32)

/-- CANCELLED by a command: c10 has 0x3F and the word at PC, and no record is sent (R75). -/
def cancelThread (s : State) (t : Thr) : State :=
  let s := setFinfo s t 0x3F (wordAtPc s t)
  let s := setC (setTState s t stCancelled) t 2 0
  threadEnded (modThr s t fun c => { c with stepping := false, yielded := false, codeWait := false }) t false

/-- The effect of a command on a thread that is not PARKED (R75).  REDIRECT leaves a STEP that is in progress as it is (DESIGN
CHOICE, log 57). -/
def actCommand (s : State) (t : Thr) (x : Word) (cmd : Nat) : State :=
  let st := tstate s t
  let idle (s : State) : State := modThr (setTState s t stIdle) t fun c => { c with stepping := false }
  match cmd with
  | 0 => s
  | 1 => if st = stIdle then setTState s t stRun else refuse s t
  | 2 => if st = stIdle then s else if st = stRun ∨ st = stTrapped then idle s else refuse s t
  | 3 =>
    if codeBytes s t.core (codeOf s t) ≤ 4 * bits x 16 32 then refuse s t
    else if st = stIdle ∨ st = stRun then redirectPc s t x
    else if st = stTrapped then idle (redirectPc s t x)
    else refuse s t
  | 4 => if st = stIdle ∨ st = stTrapped then setTState s t stRun else refuse s t
  | 5 =>
    if st = stIdle ∨ st = stTrapped then modThr (setTState s t stRun) t fun c => { c with stepping := true }
    else refuse s t
  | 6 => if st = stIdle ∨ st = stRun ∨ st = stTrapped then cancelThread s t else s
  | _ => refuse s t

/-- A heddle CANCEL of a CANCEL instruction has taken its effect on its row, or can take none: the instruction is answered once
all have (R375). -/
def cancelEcho (s : State) (p : RowPkt) : State :=
  match (if p.y = 0 || p.req ≠ 0 || p.sender ≠ 0 then none else findReq s p.y.toNat) with
  | none => s
  | some r =>
    match r.insn with
    | .cancel .. =>
      let l := r.echoes.filter (· ≠ refCore p.ref * 128 + refRow p.ref)
      let s := modReq s r.id fun r => { r with echoes := l }
      if l.isEmpty then send s .rsp ioDie (tileOf r.thr.core) (.run (.reply r.id (ansWord 0))) else s
    | _ => s

/-- A command has taken its whole effect (R65): its sender is answered, with the old word where it was an RCAS. -/
def commandDone (s : State) (p : RowPkt) : State := cancelEcho (answerPkt s p (ansWord p.old)) p

/-- The sender of a STEP that has ended is answered (R65). -/
def answerStep (s : State) (t : Thr) : State :=
  match (getThr s t).stepPkt with
  | some p => commandDone (modThr s t fun c => { c with stepPkt := none }) p
  | none => s

/-- A command that reaches its thread (R75 to R78): answered once it has taken its whole effect (R65), a STEP at the end of its
instruction.  One that the thread sent to its own row first completes its HDL or RST (R76).  While one waits, later accesses
to the row are applied (DESIGN CHOICE, log 58). -/
def command (s : State) (p : RowPkt) (cmd : Nat) : State :=
  let t := refThr p.ref
  let s := if p.stored then s else storeHeddle s t p.x
  let s := if cmd = 3 then meetRecord s (slotOf s (tileOf t.core)) (codeOf s t) else s
  let wait (s : State) : State := modThr s t fun c => { c with cmds := c.cmds ++ [{ p with stored := true }] }
  let settles := cmd = 2 || cmd = 3 || cmd = 6
  let own := match reqOf s t with | some r => if r.id = p.req && (cmd ≠ 3 || 4 * bits p.x 16 32 < codeBytes s t.core (codeOf s t)) then some r else none | none => none
  match (if settles then own else none) with
  | some r => actCommand (complete s r (ansWord p.old)) t p.x cmd
  | none =>
  if (getThr s t).long.isSome || !(getThr s t).cmds.isEmpty then wait s
  else
    let s := if settles then writeHeld s t else s
    if tstate s t = stParked then
      if cmd = 0 then commandDone s p
      else if cmd = 4 && bits (getC s t 2) 0 4 = 8 then commandDone (unpark s t) p
      else if cmd = 3 && codeBytes s t.core (codeOf s t) ≤ 4 * bits p.x 16 32 then commandDone (refuse s t) p
      else if settles then
        match settle s t with
        | (s, true) => commandDone (actCommand s t p.x cmd) p
        | (s, false) => wait s
      else commandDone (refuse s t) p
    else if cmd = 5 && (tstate s t = stIdle || tstate s t = stTrapped) then
      modThr (actCommand (answerStep s t) t p.x cmd) t fun c => { c with stepPkt := some p }
    else commandDone (actCommand s t p.x cmd) p

/-! ## Pairs from outside (R128) -/

/-- A pair stands at the beginning of an interval, with nothing under way but a wait that a command can withdraw. -/
def atRest (s : State) (q : PairSt) : Bool :=
  q.held.isEmpty && q.copying.isNone && (getThr s q.leader).long.isNone && (getThr s q.follower).long.isNone
    && getC s q.leader 14 = q.start && getC s q.follower 14 = q.start && q.trapLead.isNone && q.trapFoll.isNone
    && (tstate s q.leader ≠ stParked || match reqOf s q.leader with | some r => settlingOf r ≠ .complete | none => true)

/-- A new interval from the leader's row: the follower and the shadow rows are its copies (R124). -/
def restPair (s : State) (q : PairSt) : State :=
  let l := q.leader
  let wide := isWide s l
  let s := match reqOf s q.follower with | some r => dropReq s r.id | none => s
  let s := setC s l 13 0
  let s := copyThread s wide l q.follower
  let s := setC s q.follower 7 (setBits (getC s l 7) 18 2 2)
  let s := modThr s q.follower fun c => { c with long := none, reply := none, yielded := false, stepping := (getThr s l).stepping }
  let s := copyThread (copyThread s wide l (shadowOf l)) wide q.follower (shadowOf q.follower)
  modPair s l fun p =>
    { p with start := getC s l 14, fwd := [], taken := 0, held := [], called := false, ending := .none, fpLead := none, fpFoll := none
             trapLead := none, trapFoll := none }

/-- The follower and the shadow rows receive the word that the leader's row has now, or its second row; their c7 keep
PAIRED and PARTNER. -/
def mirrorWord (s : State) (q : PairSt) (row widx : Nat) : State :=
  let d := row - q.leader.row
  let x := getWord s (rowAddr q.leader.core row + 8 * widx)
  [q.follower, shadowOf q.leader, shadowOf q.follower].foldl (fun s t =>
    let a := rowAddr t.core (t.row + d) + 8 * widx
    putWord s a (if d = 0 ∧ widx = 503 then setBits x 18 2 (bits (getWord s a) 18 2) else x)) s

/-- They receive what a command did; one that waits has written PRIO, TARGET and HERR only. -/
def mirrorCommand (s : State) (q : PairSt) : State :=
  if tstate s q.leader = stParked then
    [q.follower, shadowOf q.leader, shadowOf q.follower].foldl (fun s t => setC s t 0 (setBits (getC s q.leader 0) 4 4 (tstate s t))) s
  else restPair s q

/-- They receive the priority that the distributor has written (R60). -/
def mirrorPrio (s : State) (q : PairSt) : State :=
  [q.follower, shadowOf q.leader, shadowOf q.follower].foldl (fun s t => setC s t 0 (setBits (getC s t 0) 9 7 (prioOf s q.leader))) s

/-- What a step did to the leader's row, done to the other rows of the pair. -/
def mirror (s : State) (q : PairSt) : Event → State
  | .priorityLoan .. => mirrorPrio s q
  | .outsideWrite p | .outsideRamoadd p => mirrorWord s q (refRow p.ref) p.widx
  | .outsideRcas p =>
    if p.widx = 496 ∧ refRow p.ref = q.leader.row then mirrorCommand s q else mirrorWord s q (refRow p.ref) p.widx
  | _ => mirrorCommand s q

/-- The boundary at which the leader's core calls the checkpoint: a read that is under way is withdrawn, any other
instruction comes first. -/
def callOutside (s : State) (q : PairSt) : State :=
  let l := q.leader
  let n := getC s l 14
  match (if tstate s l = stParked then reqOf s l else none) with
  | none => callCheckpoint s q (if (getThr s l).long.isSome then n + 1 else n)
  | some r =>
    match classOf r.insn with
    | .read =>
      let s := match r.insn with
        | .ldff .. => if r.phase = .sent && r.cw = .none then sendCancelWait s r else s
        | _ => s
      callCheckpoint (unpark (withdrawReq s r) l) q n
    -- an UNPAIR stands at the checkpoint that it has called itself (R297, R319)
    | .held | .once => callCheckpoint s q (if isUnpair r.insn then n else n + 1)

/-- Writes and commands to a pair's leader, the thread t, are taken at a checkpoint (R128): at once where the pair stands at
one. -/
def deferPair (s : State) (t : Thr) (e : Event) (k : State → State) : State :=
  match pairOf s t with
  | none => k s
  | some q =>
    if atRest s q then mirror (k s) q e
    else callOutside (modPair s q.leader fun q => { q with outside := q.outside ++ [e] }) q

/-- RST of a word that takes no command (R71). -/
def storeWord (s : State) (p : RowPkt) : State :=
  checked s p .write fun s => deferPair s (pktHome s p) (.outsideWrite p) fun s =>
    wakeRow (answerPkt (writeRowWord s (refCore p.ref) (refRow p.ref) p.widx p.x) p (ansWord 0)) (refCore p.ref) (refRow p.ref) p.widx

/-- A heddle packet at its target; word 496 of a wide thread's second row is row data (R67).  A command that has waited passed the key
check when it was applied. -/
def heddle (s : State) (p : RowPkt) (cmd : Nat) : State :=
  if p.stored then deferPair s (pktHome s p) (heddleEvent p) fun s => command s p cmd
  else if refRow p.ref < 84 && !isControl s (refCore p.ref) (refRow p.ref) p.widx then storeWord s p
  else
    let s := checked s p .write fun s => deferPair s (pktHome s p) (heddleEvent p) fun s => command s p cmd
    if (rowCheck s p .write).isSome then cancelEcho s p else s

/-! ## The steps -/

def execStart (s : State) : Out := match s.doing with | some (.start p) => .next (heddle s p 1) | _ => .next s
def execStop (s : State) : Out := match s.doing with | some (.stop p) => .next (heddle s p 2) | _ => .next s
def execRedirect (s : State) : Out := match s.doing with | some (.redirect p) => .next (heddle s p 3) | _ => .next s
def execResume (s : State) : Out := match s.doing with | some (.resume p) => .next (heddle s p 4) | _ => .next s
def execStep (s : State) : Out := match s.doing with | some (.step p) => .next (heddle s p 5) | _ => .next s
def execHeddleCancel (s : State) : Out := match s.doing with | some (.heddleCancel p) => .next (heddle s p 6) | _ => .next s
def execHeddleNone (s : State) : Out := match s.doing with | some (.heddleNone p) => .next (heddle s p 0) | _ => .next s
/-- CMD 7 to 15 are refused (R75). -/
def execReservedCommand (s : State) : Out :=
  match s.doing with | some (.reservedCommand p) => .next (heddle s p 7) | _ => .next s

/-- Step OUTSIDE_READ: RLD (R71, R333). -/
def outsideRead (s : State) (p : RowPkt) : State :=
  checked s p .read fun s =>
    let core := refCore p.ref
    let row := refRow p.ref
    let a := rowAddr core row + 8 * p.widx
    let s := if row = 84 then s else touchWord s a
    answerPkt s p (.value ((rowWord s core row p.widx).setWidth 256) (row ≠ 84 && isPoisoned s a))
/-- The step that a row-space packet is at its target (R333). -/
def rowEvent (f : RowFn) (p : RowPkt) : Event :=
  match f with
  | .read => .outsideRead p
  | .write =>
    if refRow p.ref = 84 && p.widx = 492 then .corestatWrite p
    else if p.widx = 496 then heddleEvent p
    else .outsideWrite p
  | .add => .outsideRamoadd p
  | .cas => .outsideRcas p

/-- A host's row-space packet (R381): PRIV through the PF only, and the sender is the module with CORE 0 and ROW 127. -/
def hostPkt (s : State) (slot : Nat) (ref : Word) (widx : Nat) (x y : Word) : RowPkt :=
  ⟨ref, widx, slot = 0, refOf s ⟨0, 127⟩, 0, x, y, false, 0⟩

/-- A host's access leaves the I/O die as one packet (R381), or is diverted there (R190, R197). -/
def hostAccess (s : State) (slot : Nat) (f : RowFn) (ref : Word) (widx : Nat) (x y : Word) : State :=
  let p := hostPkt s slot ref widx x y
  let fail (sub : Nat) : State := answerPkt (diversion s ioDie slot ref sub p.sender) p (ansWord 0)
  if refDev ref ≠ s.io.devid.toNat then
    if reachable s (refDev ref) then { s with io := { s.io with left := s.io.left ++ [(refDev ref, rowEvent f p)] } } else fail 0x06
  else if stackDown s (stackOf (refCore ref)) then fail 0x07
  else send s .req ioDie (tileOf (refCore ref)) (.arrive (refCore ref) (refRow ref) (rowEvent f p))

/-- What a step of this part of the table is: a packet at its target, or a host's access on its way to one. -/
def rowStepOf (s : State) (k : RowPkt → State) (p : Option RowPkt) : State :=
  match p, s.doing with
  | some p, _ => k p
  | none, some (.hostRow slot f ref widx x y) => hostAccess s slot f ref widx x y
  | none, _ => s

def execOutsideRead (s : State) : Out :=
  .next (rowStepOf s (outsideRead s) (match s.doing with | some (.outsideRead p) => some p | _ => none))

/-- Step OUTSIDE_WRITE: RST (R71, R333); a store to c0 is a heddle store (R64). -/
def outsideWrite (s : State) (p : RowPkt) : State :=
  if p.widx = 496 && refRow p.ref ≠ 84 && isControl s (refCore p.ref) (refRow p.ref) 496 then heddle s p (bits p.x 0 4)
  else storeWord s p
def execOutsideWrite (s : State) : Out :=
  .next (rowStepOf s (outsideWrite s) (match s.doing with | some (.outsideWrite p) => some p | _ => none))

/-- Step OUTSIDE_RAMOADD (R333): a poisoned word is replied poisoned and keeps its value (log 20). -/
def outsideAdd (s : State) (p : RowPkt) : State :=
  checked s p .add fun s => deferPair s (pktHome s p) (.outsideRamoadd p) fun s =>
    let core := refCore p.ref
    let row := refRow p.ref
    let a := rowAddr core row + 8 * p.widx
    let s := touchWord s a
    let old := rowWord s core row p.widx
    if isPoisoned s a then answerPkt s p (.value (old.setWidth 256) true)
    else wakeRow (answerPkt (writeRowWord s core row p.widx (old + p.x)) p (ansWord old)) core row p.widx
def execOutsideRamoadd (s : State) : Out :=
  .next (rowStepOf s (outsideAdd s) (match s.doing with | some (.outsideRamoadd p) => some p | _ => none))

/-- CORESTAT takes QUANT; 0 stores 4,096 (R31). -/
def writeQuant (s : State) (core : Nat) (x : Word) : State :=
  modCore s core fun c => { c with quantum := if bits x 0 16 = 0 then 4096 else bits x 0 16 }

/-- Step OUTSIDE_RCAS (R334): x is compared, y written as RST would. -/
def outsideCas (s : State) (p : RowPkt) : State :=
  checked s p .cas fun s => deferPair s (pktHome s p) (.outsideRcas p) fun s =>
    let core := refCore p.ref
    let row := refRow p.ref
    let a := rowAddr core row + 8 * p.widx
    let s := if row = 84 then s else touchWord s a
    let old := rowWord s core row p.widx
    if row ≠ 84 && isPoisoned s a then answerPkt s p (.value (old.setWidth 256) true)
    else if old ≠ p.x then answerPkt s p (ansWord old)
    else if row = 84 then answerPkt (if p.widx = 492 then writeQuant s core p.y else s) p (ansWord old)
    else if isControl s core row p.widx && p.widx = 496 then
      -- a heddle store; the old value is the answer once the command has taken its whole effect (R65)
      command s { p with x := p.y, y := 0, old := old } (bits p.y 0 4)
    else wakeRow (answerPkt (writeRowWord s core row p.widx p.y) p (ansWord old)) core row p.widx
def execOutsideRcas (s : State) : Out :=
  .next (rowStepOf s (outsideCas s) (match s.doing with | some (.outsideRcas p) => some p | _ => none))

/-- Step CORESTAT_WRITE (R31, R67). -/
def execCorestatWrite (s : State) : Out :=
  match s.doing with
  | some (.corestatWrite p) =>
    .next (checked s p .write fun s =>
      answerPkt (if refRow p.ref = 84 && p.widx = 492 then writeQuant s (refCore p.ref) p.x
        else writeRowWord s (refCore p.ref) (refRow p.ref) p.widx p.x) p (ansWord 0))
  | _ => .next s

end Sys2Proof.Machine
end

