-- ==== Sys2Proof/Machine/Translate.lean ====
section
/-! DEFINITION. Translation (R152): from a handle and coordinates to a place, a constant, a fault or a trap; the tile's
caches (R153); what an access finds in an entry (R162, R184); placement queries (R156). -/
namespace Sys2Proof.Machine

/-- Where translation takes records and sub-tile entries from: the caches of a tile, or memory; none is a miss. -/
structure Src where
  recs : Nat → Option Rec
  ents : Nat → Nat → Option (List Word)

/-- What an access asks of translation: class, alignment, whether policy ZERO completes it (R151), whether it
writes (R162), whether it is an atomic or a full/empty operation, and the lanes of a VLDO or VSTO (R330). -/
structure Acc where
  cls    : Nat
  width  : Nat
  zeroOk : Bool
  writes : Bool
  word   : Bool := false
  lane   : Nat := 0
  mask   : Pred := 0

/-- The outcome of a translation. -/
inductive Tr
  | walk (w : WalkAddr)
  | trap (c : Cause) (sub : Nat)
  /-- Policy ZERO ends the access (R151). -/
  | zero
  /-- A CONSTANT sub-tile, or an ABSENT one under ZEROREAD (R163). -/
  | const (x : Word) (sub off : Nat) (lanes : Pred)
  /-- Park with a fault record (R133). -/
  | fault (sub : Nat) (row : Word)
  | place (handle sub gen dev : Nat) (frame : Thr) (off : Nat) (lanes : Pred)
  | maj (r : Rec) (handle sub off : Nat) (entry : List Word) (lanes : Pred)
  /-- The answer of OBJQ (R156). -/
  | answer (x : Word)

/-- The sub-tile number of a cause found before there is one (R115). -/
def noSub : Nat := 4294967295

def objNull : Tr := .trap .objNull noSub

/-- The record of a handle. -/
def withRecord (s : State) (slot : Nat) (src : Src) (h : Nat) (k : Rec → Tr) : Tr :=
  if !handleOk s slot h then objNull
  else match src.recs h with
    | none => .walk (.record h)
    | some r => k r

/-- A record is valid, with the record of its TABLE where it has one (R144, R157, R181).  The module control object, handle 2,
is valid without a place in memory (R202). -/
def withSound (s : State) (slot : Nat) (src : Src) (h : Nat) (r : Rec) (k : Tr) : Tr :=
  if !handleRecOk s slot h r then objNull
  else if rKind r = 2 || rKind r = 3 then
    withRecord s slot src (rTable r) fun t => if tableOk s slot r t then k else objNull
  else k

/-- Apply the out-of-shape policy (R151). -/
def withShape (r : Rec) (a : Acc) (c : List Int) (k : List Int → Tr) : Tr :=
  match applyOspol r a.zeroOk c with
  | .at c => k c
  | .trap => .trap .outOfShape noSub
  | .zero => .zero

/-- Unpack the coordinate register (R141). -/
def withCoord (r : Rec) (w : Word) (k : List Int → Tr) : Tr :=
  match unpackCoord (rRank r) w with
  | none => .trap .outOfShape noSub
  | some c => k c

/-- Translation up to the sub-tile: k takes the parent's record and handle, the sub-tile and the offset; whole is
what OBJQ answers from the object's own record (R152, R156). -/
def translateTo (s : State) (slot : Nat) (src : Src) (key : BitVec 16) (priv : Bool) (h c : Word) (a : Acc)
    (whole : Option (Rec → Tr)) (k : Rec → Nat → Nat → Nat → Tr) : Tr :=
  if bits h 32 32 ≠ 0 then objNull
  else withRecord s slot src h.toNat fun r =>
    if rKind r = 4 then
      if !recOk s slot r then objNull
      else withRecord s slot src (bits (rw r 4) 0 32) fun p =>
        withSound s slot src (bits (rw r 4) 0 32) p
          (if !parentOk r p then objNull
          else if !(grants r key priv a.cls && grants p key priv a.cls) then .trap .objPerm noSub
          else match whole with
            | some f => f r
            | none => withCoord r c fun c => withShape r a c fun c => withShape p a (mapView r c) fun c =>
                k p (bits (rw r 4) 0 32) (subtileOf p c).1 (subtileOf p c).2)
    else withSound s slot src h.toNat r
      (if rKind r = 5 then objNull
      else if (rKind r = 6 && a.word) || !grants r key priv a.cls then .trap .objPerm noSub
      else match whole with
        | some f => f r
        | none => withCoord r c fun c => withShape r a c fun c => k r h.toNat (subtileOf r c).1 (subtileOf r c).2)

/-- Replicas of a majority entry: number, frame and tag row (R181, R182). -/
def replicasOf (r : Rec) (e : List Word) : List (Nat × Thr × Nat) :=
  (rStacks r).mapIdx fun k st =>
    let x := bits (e.getD (1 + k / 2) 0) (30 * (k % 2)) 30
    (k, ⟨st * 65536 + x / 128 % 65536, x % 128⟩, x / 8388608)

/-- The replicas on UP stacks (R185, R187). -/
def upReplicas (s : State) (l : List (Nat × Thr × Nat)) : List (Nat × Thr × Nat) :=
  l.filter fun p => healthOf s (stackOf p.2.1.core) = 0

/-- What an access finds in a framed entry (R162). -/
def framedAt (p : Rec) (ph sub off : Nat) (lanes : Pred) (a : Acc) (e : List Word) : Tr :=
  let w0 := e.getD 0 0
  let fault : Tr := if rFaultRow p ≠ 0 then .fault sub (rFaultRow p) else .trap .notResident sub
  match bits w0 0 2 with
  | 0 =>
    if rRespol p = 0 then .trap .notResident sub
    else if rRespol p = 2 && !a.writes then .const 0 sub off lanes
    else fault
  | 2 => if a.writes then fault else .const (e.getD 1 0) sub off lanes
  | _ => .place ph sub (bits w0 2 14) (bits w0 43 19) (refThr (w0 >>> 16)) off lanes

/-- From the sub-tile to the place (R146, R152, R162, R184). -/
def locate (s : State) (slot : Nat) (src : Src) (a : Acc) (p : Rec) (ph sub off : Nat) : Tr :=
  let lanes := if a.lane = 0 then BitVec.allOnes 32 else lanesInShape p sub off a.lane
  if a.lane ≠ 0 && rOspol p = 0 && (activeBytes a.mask a.lane &&& ~~~lanes) ≠ 0 then .trap .outOfShape noSub
  else if off % a.width ≠ 0 then .trap .misaligned sub
  else if isModule ph p then .place Config.moduleObj sub 0 s.io.devid.toNat ⟨0, 0⟩ off lanes
  else if rKind p = 2 then
    match src.ents ph sub with
    | none => .walk (.entry ph sub)
    | some e => framedAt p ph sub off lanes a e
  else if rKind p = 3 then
    if a.word then .trap .majUnsupported sub
    else match src.ents ph sub with
      | none => .walk (.entry ph sub)
      | some e =>
        if bits (e.getD 0 0) 0 2 ≠ 1 then .trap .notResident sub
        else if (upReplicas s (replicasOf p e)).length < rQuorum p then .trap .noQuorum sub
        else .maj p ph sub off e lanes
  else match computedPlace s slot p sub with
    | none => objNull
    | some (core, row) => .place ph sub 0 s.io.devid.toNat ⟨core, row⟩ off lanes

/-- Translate an access (R152). -/
def translate (s : State) (slot : Nat) (src : Src) (key : BitVec 16) (priv : Bool) (h c : Word) (a : Acc) : Tr :=
  translateTo s slot src key priv h c a none (locate s slot src a)

/-! ## OBJQ (R156) -/

/-- A row reference of this module with KEY 0. -/
def plainRef (s : State) (t : Thr) : Word := (refOf s t).setWidth 64

/-- The answers of queries 0 to 2 for an element's sub-tile: a framed object is walked for each (R156), and a majority object
answers only where an access would (R184).  Query 0 of the module control object, which has no row, answers 0 (DESIGN CHOICE,
log 71: R156 names no row for it). -/
def objqAt (s : State) (slot : Nat) (src : Src) (q : Nat) (p : Rec) (ph sub off : Nat) : Tr :=
  let hi : Word := BitVec.ofNat 64 (sub * 4294967296)
  let place : Word := hi ||| BitVec.ofNat 64 off
  if rKind p = 2 || rKind p = 3 then
    match src.ents ph sub with
    | none => .walk (.entry ph sub)
    | some e =>
      let w0 := e.getD 0 0
      if rKind p = 3 then
        if bits w0 0 2 ≠ 1 then .trap .notResident sub
        else if (upReplicas s (replicasOf p e)).length < rQuorum p then .trap .noQuorum sub
        else if q = 2 then .answer place
        else if q = 1 then .answer w0
        else .answer (match (upReplicas s (replicasOf p e)).head? with | some x => plainRef s x.2.1 | none => 0)
      else if q = 2 then .answer place
      else if q = 1 then .answer (hi ||| (w0 &&& 0xFFFF))
      else .answer (if bits w0 0 2 = 1 ∨ bits w0 0 2 = 3 then (w0 >>> 16) &&& 0x3FFFFFFFFFFF else 0)
  else if q = 2 then .answer place
  else if q = 1 then .answer (hi ||| 1)
  else if isModule ph p then .answer 0
  else match computedPlace s slot p sub with
    | none => objNull
    | some (core, row) => .answer (plainRef s ⟨core, row⟩)

/-- OBJQ with its selector; handle, record and class are checked before a selector without meaning answers (R331). -/
def translateQuery (s : State) (slot : Nat) (src : Src) (key : BitVec 16) (priv : Bool) (h c sel : Word) : Tr :=
  let q := bits sel 0 8
  let none_ := 3 < q || bits sel 12 52 ≠ 0 || (q ≠ 3 && bits sel 8 4 ≠ 0)
  translateTo s slot src key priv h c { cls := 0, width := 1, zeroOk := true, writes := false }
    (if none_ then some fun _ => .answer (BitVec.allOnes 64)
    else if q = 3 then some fun r => .answer (rw r (bits sel 8 4)) else none) (objqAt s slot src q)

/-! ## The caches of a tile (R153) -/

/-- The records and entries that a tile has; ovr is the entry that a walk has just brought, and subs says whether
cached entries may be used (R156). -/
def tileSrc (s : State) (tile : Nat) (ovr : Option (Nat × Nat × List Word)) (subs : Bool) : Src where
  recs h := ((getTile s tile).recs.find? fun p => p.1 = h).map (·.2)
  ents h n :=
    match ovr with
    | some (h', n', e) => if h = h' ∧ n = n' then some e else none
    | none => if subs then ((getTile s tile).subs.find? fun x => x.handle = h ∧ x.sub = n).map fun x => [x.w0, 0] else none

/-- Words of a sub-tile entry as memory holds them now (R157, R182). -/
def entryNow (s : State) (slot h n : Nat) : Option (List Word) :=
  match recordNow s slot h with
  | none => none
  | some r =>
    match recordNow s slot (rTable r) with
    | none => none
    | some t => (entryPlace s slot r t n).map fun p =>
        readWords s (rowAddr p.1 p.2.1 + p.2.2) (if rKind r = 2 then 2 else 4)

/-- Records and entries as memory holds them: what engines translate by, whose jobs are one step. -/
def nowSrc (s : State) (slot : Nat) : Src where
  recs h := recordNow s slot h
  ents h n := entryNow s slot h n

/-- Put a record at the recently used end of the record cache. -/
def cacheRecord (s : State) (tile h : Nat) (r : Rec) : State :=
  modTile s tile fun t =>
    let l := t.recs.filter (fun p => p.1 ≠ h) ++ [(h, r)]
    { t with recs := l.drop (l.length - Config.recordCacheSize) }

/-- Put a RESIDENT entry at the recently used end of the sub-tile cache. -/
def cacheEntry (s : State) (tile h n : Nat) (w0 : Word) : State :=
  modTile s tile fun t =>
    let l := t.subs.filter (fun x => !(x.handle = h && x.sub = n)) ++ [⟨h, n, w0⟩]
    { t with subs := l.drop (l.length - Config.subCacheSize) }

/-- Drop one entry (R154). -/
def dropEntry (s : State) (tile h n : Nat) : State :=
  modTile s tile fun t => { t with subs := t.subs.filter fun x => !(x.handle = h && x.sub = n) }

/-- Drop a record and every entry of its handle (R153, R155). -/
def dropHandle (s : State) (tile h : Nat) : State :=
  modTile s tile fun t => { t with recs := t.recs.filter (fun p => p.1 ≠ h), subs := t.subs.filter fun x => x.handle ≠ h }

/-- A handle and those that its record names: the parent of a view, and the table of a framed or majority object. -/
def linkedHandles (src : Src) (h : Nat) : List Nat :=
  let table (r : Rec) : List Nat := if rKind r = 2 || rKind r = 3 then [rTable r] else []
  match src.recs h with
  | none => []
  | some r =>
    if rKind r = 4 then
      let p := bits (rw r 4) 0 32
      h :: p :: match src.recs p with | some x => table x | none => []
    else h :: table r

/-- A translation that has looked at records has used them: they are the most recently used (R153). -/
def useRecords (s : State) (tile h : Nat) : State :=
  (linkedHandles (tileSrc s tile none false) h).foldl (fun s h =>
    modTile s tile fun t => { t with recs := t.recs.filter (fun p => p.1 ≠ h) ++ t.recs.filter (fun p => p.1 = h) }) s

/-- A translation that has found its place by a cached entry has used it (R153). -/
def useEntry (s : State) (tile ph sub : Nat) : State :=
  modTile s tile fun t =>
    { t with subs := t.subs.filter (fun x => !(x.handle = ph && x.sub = sub)) ++ t.subs.filter fun x => x.handle = ph && x.sub = sub }

/-- The place that a walk reads: core, row and offset. -/
def walkPlace (s : State) (tile : Nat) (w : WalkAddr) : Option (Nat × Nat × Nat) :=
  let slot := slotOf s tile
  match w with
  | .record h => recordPlace s slot h
  | .entry h n =>
    match (tileSrc s tile none false).recs h with
    | none => none
    | some r =>
      match (tileSrc s tile none false).recs (rTable r) with
      | none => none
      | some t => entryPlace s slot r t n

/-- Words that a walk reads: an entry of two or four words. -/
def walkCount (s : State) (tile : Nat) (w : WalkAddr) : Nat :=
  match w with
  | .record _ => 16
  | .entry h _ => match (tileSrc s tile none false).recs h with
    | some r => if rKind r = 2 then 2 else 4
    | none => 2

/-- The packet of a walk as its tile sends it; none where the tile has lost the record that it needs. -/
def walkPkt (s : State) (tile no : Nat) (w : WalkAddr) : Option WalkPkt :=
  (walkPlace s tile w).map fun p =>
    { no := no, tile := tile, addr := w, place := rowAddr p.1 p.2.1 + p.2.2, count := walkCount s tile w
      recAt := match w with
        | .record _ => none
        | .entry h _ => (recordPlace s (slotOf s tile) h).map fun q => rowAddr q.1 q.2.1 + q.2.2 }

/-- The sub-tile number of a walk that a DOWN stack does not answer (R190). -/
def walkSub : WalkAddr → Nat
  | .record _ => noSub
  | .entry _ n => n

/-- Send a walk that its tile has begun; on a DOWN stack each request that waits for it is answered STACK_DOWN (R190), and where
the record has gone meanwhile each is translated again. -/
def issueWalk (s : State) (tile : Nat) (x : WalkSt) : State :=
  let drop (s : State) : State := modTile s tile fun t => { t with walking := t.walking.filter fun y => y.no ≠ x.no }
  match walkPkt s tile x.no x.addr with
  | none => x.waiters.foldl (fun s id => post s 0 (.redirectAnswer id)) (drop s)
  | some p =>
    let core := coreOfAddr p.place
    if stackDown s (stackOf core) then
      x.waiters.foldl (fun s id => post s 0 (.reply id (.trap .stackDown (walkSub x.addr)))) (drop s)
    else send s .req tile (tileOf core) (.arrive core (rowOfAddr p.place) (.walk p))

/-- Walk for a request (R153): a miss on an entry that is being walked joins that walk, and a tile runs 64 at once. -/
def startWalk (s : State) (r : Req) (w : WalkAddr) : State :=
  let tile := tileOf r.thr.core
  let s := modReq s r.id fun r => { r with phase := .translate }
  let l := (getTile s tile).walking
  if l.any fun x => x.addr = w && !x.stale then
    modTile s tile fun t => { t with walking := t.walking.map fun x =>
      if x.addr = w && !x.stale then { x with waiters := x.waiters ++ [r.id] } else x }
  else
    let x : WalkSt := ⟨s.nextSeq, w, [r.id], false⟩
    let s := modTile { s with nextSeq := s.nextSeq + 1 } tile fun t => { t with walking := t.walking ++ [x] }
    if l.length < Config.walkLimit then issueWalk s tile x else s

/-- The walk that waits first behind the 64 begins; where it ends as it begins, the next one does, of n at most. -/
def issueNext (s : State) (tile : Nat) : Nat → State
  | 0 => s
  | n + 1 =>
    match (getTile s tile).walking[Config.walkLimit - 1]? with
    | none => s
    | some x =>
      let s := issueWalk s tile x
      if (getTile s tile).walking.any fun y => y.no = x.no then s else issueNext s tile n

/-- A walk has ended: the first that waits behind the 64 begins. -/
def endWalk (s : State) (tile no : Nat) : State :=
  let s := modTile s tile fun t => { t with walking := t.walking.filter fun y => y.no ≠ no }
  issueNext s tile (getTile s tile).walking.length

/-- The entry is claimed or MOVING: its walks are held at its owner (R160). -/
def entryHeld (s : State) (p : WalkPkt) (x : List Word) : Bool :=
  match p.addr with
  | .record _ => false
  | .entry h n => (getTile s (tileOf (coreOfAddr p.place))).claims.contains (h, n) || (p.count = 2 && bits (x.getD 0 0) 0 2 = 3)

/-- Answer a walk with the entry as it stands; an entry's walk reads w0 of the record as well (R153). -/
def answerWalk (s : State) (p : WalkPkt) : State :=
  let s := touch s p.place (8 * p.count)
  let s := match p.recAt with | some a => touchWord s a | none => s
  let x := readWords s p.place p.count
  let extra : List Word := match p.recAt with | some a => [getWord s a] | none => []
  let bad := runPoisoned s p.place (8 * p.count) || (match p.recAt with | some a => isPoisoned s a | none => false)
  send s .rsp (tileOf (coreOfAddr p.place)) p.tile (.run (.walkReply p ⟨x ++ extra, bad⟩))

/-- Step WALK (R153, R160): the read is admitted at the owner, or held there. -/
def walkAdmitted (s : State) (p : WalkPkt) : State :=
  let s := touch s p.place (8 * p.count)
  if entryHeld s p (readWords s p.place p.count) then
    modTile s (tileOf (coreOfAddr p.place)) fun t => { t with walks := t.walks ++ [p] }
  else answerWalk s p
def execWalk (s : State) : Out := match s.doing with | some (.walk p) => .next (walkAdmitted s p) | _ => .next s

/-- The walks held for an entry are answered, as the change ends, with the entry as it stands now (R160). -/
def releaseWalks (s : State) (tile h n : Nat) : State :=
  let mine := (getTile s tile).walks.filter fun p => p.addr == .entry h n
  let s := modTile s tile fun t => { t with walks := t.walks.filter fun p => !(p.addr == .entry h n) }
  mine.foldl answerWalk s

end Sys2Proof.Machine
end

