-- ==== Sys2Proof/Machine/Majority.lean ====
section
/-! DEFINITION. Majority objects: tags, the packets of the protocol and a replica's two steps (R177 to R179, R181 to
R186). -/
namespace Sys2Proof.Machine

/-! ## Tags (R178, R183) -/

/-- Bits 61:0 of a tag, by which tags compare. -/
def tagKey (t : Word) : Nat := bits t 0 62
/-- The state of a tag: 0 written, 1 never written, 2 and 3 poisoned (R185). -/
def tagState (t : Word) : Nat := bits t 62 2
/-- The sequence of a tag. -/
def tagSeq (t : Word) : Nat := bits t 27 35
/-- The tag that a store of a writer puts after a sequence (R178). -/
def nextTag (seq writer : Nat) : Word := BitVec.ofNat 64 ((seq + 1) * 134217728 + writer)
/-- The writer field of a thread: CORE and ROW of its reference (R176). -/
def writerOf (t : Thr) : Nat := t.core * 128 + t.row

/-- The tag word of a packet's granule (R183). -/
def tagAddr (p : MajPkt) : Nat := rowAddr p.frame.core p.trow + 8 * (64 * (p.sub % 8) + p.granule)
/-- The granule's bytes. -/
def granuleAddr (p : MajPkt) : Nat := rowAddr p.frame.core p.frame.row + 64 * p.granule

/-- The frame's entry names the packet's sub-tile and generation (R104, R183). -/
def replicaFits (s : State) (p : MajPkt) : Bool :=
  let c := p.frame.core
  let r := p.frame.row
  frameHandle s c r = p.handle && frameSub s c r = p.sub && frameGen s c r = p.gen && frameUse s c r = 1

/-- A replica's granule counts as poisoned: data, tag word or tag state (R185). -/
def replicaPoisoned (s : State) (p : MajPkt) : Bool :=
  runPoisoned s (granuleAddr p) 64 || isPoisoned s (tagAddr p) || 2 ≤ tagState (getWord s (tagAddr p))

/-- A granule read at a replica (R185): poison in the data writes state 10 into the tag. -/
def replicaRead (s : State) (p : MajPkt) : State × MajAns :=
  if !replicaFits s p then (s, .redirect)
  else
    let s := touchWord (touch s (granuleAddr p) 64) (tagAddr p)
    if replicaPoisoned s p then
      (if runPoisoned s (granuleAddr p) 64 then putBytes s (tagAddr p + 7) [BitVec.ofNat 8 (bits (getWord s (tagAddr p)) 56 6 + 128)] else s,
        .poisoned)
    else (s, .value (getWord s (tagAddr p)) (BitVec.ofNat 512 (getNat s (granuleAddr p) 64)))

/-- A phase-2 write, write-back or repair at a replica (R178, R185). -/
def replicaWrite (s : State) (p : MajPkt) : State × MajAns :=
  if !replicaFits s p then (s, .redirect)
  else
    let s := touchWord (touch s (granuleAddr p) 64) (tagAddr p)
    if replicaPoisoned s p || tagKey (getWord s (tagAddr p)) < tagKey p.tag then
      (putFull (putFull s (granuleAddr p) (toBytes 64 p.data.toNat)) (tagAddr p) (toBytes 8 p.tag.toNat), .accept)
    else (s, .newer)

/-- Apply a packet at its replica and answer it: repairs are answered to nobody, and the answer of a replica in REBUILD counts for
nothing (R185, R188). -/
def applyReplica (s : State) (p : MajPkt) : State :=
  let r := match p.op with
    | .read => replicaRead s p
    | .write | .repair => replicaWrite s p
  if p.op = .repair || healthOf s (stackOf p.frame.core) = 2 then r.1
  else send r.1 .rsp (tileOf p.frame.core) p.srcTile (.run (.majorityAnswer p r.2))

/-- A packet at its replica: held while RHOLD holds the stack (R177), and lost on a DOWN stack (R185, R188). -/
def replicaStep (s : State) (p : MajPkt) (e : Event) : State :=
  let k := stackOf p.frame.core
  if stackDown s k then s
  else if holdsReplicas s k then modStack s k fun x => { x with held := x.held ++ [e] }
  else applyReplica s p

/-- Step TAG_AND_GRANULE_READ. -/
def execTagAndGranuleRead (s : State) : Out :=
  match s.doing with | some (.tagAndGranuleRead p) => .next (replicaStep s p (.tagAndGranuleRead p)) | _ => .next s
/-- Step PHASE_2_WRITE. -/
def execPhase2Write (s : State) : Out :=
  match s.doing with | some (.phase2Write p) => .next (replicaStep s p (.phase2Write p)) | _ => .next s

/-! ## Sending (R178, R179, R185) -/

/-- Send one packet to one replica. -/
def sendReplica (s : State) (r : Req) (op : MajOp) (tag : Word) (data : BitVec 512) (x : Nat × Thr × Nat) : State :=
  let tile := tileOf r.thr.core
  let p : MajPkt := ⟨r.oh, r.sub, r.gen, x.2.1, x.2.2, r.off / 64, x.1, op, tag, data, r.id, r.round, tile, s.nextSeq⟩
  send { s with nextSeq := s.nextSeq + 1 } .req tile (tileOf x.2.1.core)
    (.arrive x.2.1.core x.2.1.row (if op = .read then .tagAndGranuleRead p else .phase2Write p))

/-- Replicas that writes go to: UP and REBUILD (R185). -/
def writeReplicas (s : State) (l : List (Nat × Thr × Nat)) : List (Nat × Thr × Nat) :=
  l.filter fun p => healthOf s (stackOf p.2.1.core) ≠ 1

/-- Phase 1 of a store, or the reads of a load.  Rounds of reads are odd, and the writes that follow have the next
number, so that an answer to an earlier round is known. -/
def majReads (s : State) (id : Nat) : State :=
  match findReq s id with
  | none => s
  | some r =>
    let r := { r with phase := .majority, round := r.round + 1 + r.round % 2, answers := [], lost := [] }
    let s := modReq s id fun _ => r
    (upReplicas s r.reps).foldl (fun s x => sendReplica s r .read 0 0 x) s

end Sys2Proof.Machine
end

