-- ==== Sys2Proof/Machine/Access.lean ====
section
/-! DEFINITION. Issuing object accesses (R322, R323, R326 to R330): fences first (R112, R113), translation and what it
leads to, the held effects and matched reads of a pair (R125), and sending to the owner (R92, R111, R195, R197). -/
namespace Sys2Proof.Machine

/-! ## Fences (R112, R113) -/

/-- The tiles that a fence with this value of c4 probes; 2048 is the I/O die. -/
def probedTiles (t : Thr) (m : Word) : List Nat :=
  let own := stackOf t.core
  let stackBits := (List.range 16).flatMap fun k => if m.getLsbD k then (List.range 128).map (k * 128 + ·) else []
  let groupBits := (List.range 32).flatMap fun g =>
    if m.getLsbD (16 + g) && !m.getLsbD own then (List.range 4).map (own * 128 + 4 * g + ·) else []
  stackBits ++ groupBits ++ if m.getLsbD 63 then [ioDie] else []

/-- Write c4 of a thread; the follower of a pair has the same c4 (R124, R125). -/
def setTouch (s : State) (t : Thr) (x : Word) : State :=
  match pairOf s t with
  | some p => setC (setC s p.leader 4 x) p.follower 4 x
  | none => setC s t 4 x

/-- Perform fence(rel) and go on with k; with no bit of c4 set, at once.  A tile of a DOWN stack is answered for by the
I/O die (R190). -/
def withFence (s : State) (id : Nat) (k : State → Nat → State) : State :=
  match findReq s id with
  | none => s
  | some r =>
    let m := getC s r.thr 4
    let tiles := probedTiles r.thr m
    if m = 0 then k s id
    else if tiles.isEmpty then k (setTouch s r.thr 0) id
    else
      let my := tileOf r.thr.core
      let seq := s.nextSeq
      let s := modReq { s with nextSeq := seq + 1 } id fun r => { r with phase := .fence, echoes := tiles, mask := m }
      tiles.foldl (fun s t =>
        if t < ioDie ∧ stackDown s (t / 128) then send s .rsp ioDie my (.run (.fenceEcho id t))
        else send s .req my t (.run (.fenceProbe id t seq))) s

/-- The ordering asks for a fence first. -/
def fences : Order → Bool
  | .rel _ | .ar _ => true
  | .plain | .acq _ => false

/-- A posted form: it completes when its owner tile accepts it (R110). -/
def posted : Instr → Bool
  | .sto _ _ r _ | .vsto _ _ _ r _ | .stff _ _ r | .sete _ r =>
    match r with
    | .plain | .rel _ => true
    | .acq _ | .ar _ => false
  | _ => false

/-! ## What an access asks (R322) -/

/-- The operation and width of an atomic (R328). -/
def amoOf : Instr → Option (AmoOp × AmoW)
  | .amoAddD .. => some (.add, .w64) | .amoAndD .. => some (.and, .w64) | .amoOrD .. => some (.or, .w64)
  | .amoXorD .. => some (.xor, .w64) | .amoSminD .. => some (.smin, .w64) | .amoSmaxD .. => some (.smax, .w64)
  | .amoUminD .. => some (.umin, .w64) | .amoUmaxD .. => some (.umax, .w64) | .amoSwapD .. => some (.swap, .w64)
  | .amoFaddD .. => some (.fadd, .w64) | .amoFminD .. => some (.fmin, .w64) | .amoFmaxD .. => some (.fmax, .w64)
  | .amoCasD .. => some (.cas, .w64)
  | .amoAddW .. => some (.add, .w32) | .amoAndW .. => some (.and, .w32) | .amoOrW .. => some (.or, .w32)
  | .amoXorW .. => some (.xor, .w32) | .amoSminW .. => some (.smin, .w32) | .amoSmaxW .. => some (.smax, .w32)
  | .amoUminW .. => some (.umin, .w32) | .amoUmaxW .. => some (.umax, .w32) | .amoSwapW .. => some (.swap, .w32)
  | .amoFaddW .. => some (.fadd, .w32) | .amoFminW .. => some (.fmin, .w32) | .amoFmaxW .. => some (.fmax, .w32)
  | .amoCasW .. => some (.cas, .w32)
  | _ => none

/-- The request writes the pointer word of a copy: no instruction of the thread's does. -/
def Req.isPointer (r : Req) : Bool := r.held && r.word = 0

/-- What a request asks of translation (R150, R322, R329, R330): a copy's pointer needs write (R263). -/
def accOf (r : Req) : Acc :=
  match r.insn with
  | .sto _ _ _ z => { cls := 1, width := z.bytes, zeroOk := true, writes := true }
  | .stff .. => { cls := if r.isPointer then 1 else 3, width := 8, zeroOk := false, writes := true, word := true }
  | .ldfe .. | .stef .. | .sete .. => { cls := 3, width := 8, zeroOk := false, writes := true, word := true }
  | .ldff .. => { cls := 3, width := 8, zeroOk := false, writes := false, word := true }
  | .vldo _ _ _ _ t => { cls := 0, width := 32, zeroOk := true, writes := false, lane := t.size, mask := r.y.setWidth 32 }
  | .vsto _ _ _ _ t => { cls := 1, width := 32, zeroOk := true, writes := true, lane := t.size, mask := r.y.setWidth 32 }
  | .vldb _ _ _ _ t => { cls := 0, width := t.size, zeroOk := true, writes := false }
  | .ldo _ _ _ z => { cls := 0, width := z.bytes, zeroOk := true, writes := false }
  | i => match amoOf i with
    | some (_, .w64) => { cls := 2, width := 8, zeroOk := false, writes := true, word := true }
    | some (_, .w32) => { cls := 2, width := 4, zeroOk := false, writes := true, word := true }
    | none => { cls := 0, width := 1, zeroOk := true, writes := false }

/-- The byte lanes that a vector access moves: active and in shape (R329, R330). -/
def movedLanes (r : Req) : Pred :=
  match r.insn with
  | .vldo _ _ _ _ t | .vsto _ _ _ _ t => activeBytes (r.y.setWidth 32) t.size &&& r.z.setWidth 32
  | .vldb _ _ _ _ t => activeBytes (r.y.setWidth 32) t.size
  | _ => BitVec.allOnes 32

/-- A vector access with no active lane sends no packet (R329). -/
def noLane (r : Req) : Bool :=
  match r.insn with
  | .vldo _ _ _ _ t | .vsto _ _ _ _ t | .vldb _ _ _ _ t => activeBytes (r.y.setWidth 32) t.size = 0
  | _ => false

/-- The operation at admission. -/
def opOf (r : Req) : ObjOp :=
  match r.insn with
  | .sto _ _ _ z => .store z.bytes r.x
  | .ldfe .. => .ldfe
  | .ldff .. => .ldff
  | .stef .. => .stef r.x
  | .stff .. => .stff r.x
  | .sete .. => .sete
  | .vldo .. => .vload (movedLanes r)
  | .vsto .. => .vstore (movedLanes r) r.vec
  | .vldb _ _ _ _ t => .vbcast t.size (!noLane r)
  | .ldo _ _ _ z => .load z.bytes
  | i => match amoOf i with
    | some (o, w) => .amo o w r.x r.y
    | none => .load 8

/-- The value of a load from the bytes at its place. -/
def loadVec (r : Req) (at_ : Nat → Byte) : Vec :=
  match r.insn with
  | .vldo .. => BitVec.ofNat 256 (ofBytes ((List.range 32).map fun i => if (movedLanes r).getLsbD i then at_ i else 0))
  | _ => BitVec.ofNat 256 (ofBytes ((List.range (accOf r).width).map at_))

/-- The bytes that a store writes, by offset from its place. -/
def storeBytes (r : Req) : List (Nat × Byte) :=
  match r.insn with
  | .vsto .. => (List.range 32).filterMap fun i => if (movedLanes r).getLsbD i then some (i, r.vec.extractLsb' (8 * i) 8) else none
  | .sto .. | .stff .. => (List.range (accOf r).width).map fun i => (i, r.x.extractLsb' (8 * i) 8)
  | _ => []

/-! ## Pairs: held effects and matched reads (R125) -/

/-- What a read of a pair's leader finds among the held effects. -/
inductive HeldMatch | none | value (x : Vec) | overlap
  deriving DecidableEq, Repr

/-- Two row-space requests name the same word. -/
def sameWord (a b : Req) : Bool := a.handle = b.handle && a.z = b.z

/-- The request is a row-space access. -/
def isRowSpace : Instr → Bool
  | .rld .. | .rst .. | .hdl .. => true
  | _ => false

/-- Compare a read with the held effects, newest first. -/
def heldMatch (r : Req) : List Req → HeldMatch
  | [] => .none
  | h :: l =>
    if isRowSpace r.insn then
      if isRowSpace h.insn && sameWord r h then .value (h.x.setWidth 256) else heldMatch r l
    else
      let n := (accOf r).width
      let m := (accOf h).width
      match h.insn with
      | .sto .. | .vsto .. | .stff .. | .sete .. =>
        if h.oh = r.oh && h.sub = r.sub && h.off < r.off + n && r.off < h.off + m then
          if h.off = r.off && m = n && (storeBytes h).length = n then
            .value (loadVec r fun i => ((storeBytes h).getD i (0, 0)).2)
          else .overlap
        else heldMatch r l
      | _ => heldMatch r l

/-- A read that overlaps a held store ends the interval first: both sides stand at the instruction again. -/
def overlapCheckpoint (s : State) (p : PairSt) : State :=
  let undo (s : State) (t : Thr) : State :=
    match reqOf s t with
    | some r => if tstate s t = stParked then unpark (dropReq s r.id) t else s
    | none => s
  callCheckpoint (undo (undo s p.leader) p.follower) p (getC s p.leader 14)

/-- The leader holds a plain store, and answers a read that a held store matches; others go on (R125). -/
def pairHold (s : State) (r : Req) (go : State → State) : State :=
  match pairOf s r.thr with
  | none => go s
  | some p =>
    if r.held then go s
    else match classOf r.insn with
      | .once => go s
      | .read => match heldMatch r p.held.reverse with
        | .none => go s
        | .value x => replyArrives s r.id (.value x false)
        | .overlap => overlapCheckpoint s p
      | .held =>
        let n := getC s r.thr 14 + 1
        let s := modPair s p.leader fun p => { p with held := p.held ++ [{ r with held := true }] }
        let s := replyArrives s r.id (ansWord 0)
        if Config.heldEffects ≤ p.held.length + 1 then callCheckpoint s p n else s

/-! ## Sending (R92, R111, R195, R197) -/

/-- The bit of c4 for an owner tile (R111).  A posted store to the module control object sets the bit of what leaves the module:
its owner is the I/O die (DESIGN CHOICE, log 59). -/
def postedBit (t : Thr) (tile : Nat) : Nat :=
  if tile = ioDie then 63
  else if tile / 128 = stackOf t.core then 16 + tile % 128 / 4
  else tile / 128

/-- Send a request for another module through the I/O die (R195, R196); with no path to it, it is answered as a
diverted packet is (R197). -/
def sendOut (s : State) (r : Req) (dev : Nat) (ref : Word) (e : Event) (done : Bool) : State :=
  let tile := tileOf r.thr.core
  if reachable s dev then
    let s := leaveModule s tile dev ref (refOf s r.thr) (if done then 0 else r.id) e
    if done then send s .rsp ioDie tile (.run (.reply r.id (ansWord 0))) else s
  else send (diversion s tile (slotOf s tile) ref 0x06 (refOf s r.thr)) .rsp ioDie tile (.run (.reply r.id (ansWord 0)))

/-- Send a translated access to its owner. -/
def sendAccess (s : State) (id : Nat) : State :=
  match findReq s id with
  | none => s
  | some r =>
    let t := r.thr
    let tile := tileOf t.core
    let f : Thr := ⟨r.frame / 128, r.frame % 128⟩
    let here := r.dev = s.io.devid.toNat
    let dst := if r.oh = Config.moduleObj then ioDie else tileOf f.core
    if here && r.oh ≠ Config.moduleObj && stackDown s (stackOf f.core) then replyArrives s id (.trap .stackDown r.sub)
    else
      let s := modReq s id fun r => { r with phase := .sent }
      let s := if posted r.insn then setTouch s t (getC s t 4 ||| (1#64 <<< (if here then postedBit t dst else 63))) else s
      let p : ObjPkt := ⟨r.oh, r.sub, r.gen, f, r.off, opOf r, id, tile, r.seq, dst⟩
      if here then send s .req tile dst (.run (.objectAccessArrival p))
      else sendOut s r r.dev (BitVec.ofNat 64 (r.dev * 134217728 + r.frame)) (.objectAccessArrival p) (posted r.insn)

/-- A residency fault (R133): the thread parks with KIND FAULT, c9 and c10 are written, and one record is sent.  A store that a pair
held for its checkpoint, sent and redirected to a sub-tile that is ABSENT by then, is dropped with no park and no record: its
instruction has retired (DESIGN CHOICE, log 70). -/
def residencyFault (s : State) (r : Req) (sub : Nat) (row : Word) : State :=
  let t := r.thr
  let s := dropReq s r.id
  if r.held then s
  else
    let s := setC (setFinfo (setC s t 9 (withSubtile r.handle sub)) t 0x13 r.word) t 2 (parkWord 8 0x13 0)
    runCmds (toInbox s (tileOf t.core) ⟨.fault, row, keyedRef s t, withSubtile r.handle sub, refOf s t, 0, none⟩) t

/-- A translation that finds neither a trap nor a fault: poisoned data is consumed then (R115, R130). -/
def Tr.sound : Tr → Bool
  | .walk _ | .trap .. | .fault .. => false
  | .zero | .const .. | .place .. | .maj .. | .answer _ => true

/-- A place on a stack of this module that is DOWN is a trap at translation (R115, R190). -/
def Tr.onDown (s : State) : Tr → Tr
  | .place h sub gen dev f off lanes =>
    if dev = s.io.devid.toNat && h ≠ Config.moduleObj && stackDown s (stackOf f.core) then .trap .stackDown sub
    else .place h sub gen dev f off lanes
  | x => x

/-- The request leads to a packet of its thread. -/
def Tr.sends (r : Req) : Tr → Bool
  | .place .. | .maj .. => !noLane r
  | .walk _ | .trap .. | .fault .. | .zero | .const .. | .answer _ => false

/-- The control words that the thread's packet reads (R130); a held store or pointer write is no instruction of its thread by now. -/
def sentWords (r : Req) : List Nat :=
  if r.held then [] else if posted r.insn then postedWords r.thr else packetWords r.thr

/-- A thread that parked at its operation consumes poison that it has read from its own row. -/
def consumeData (s : State) (r : Req) : State :=
  if r.held then dropReq s r.id else ownPoison (unpark (dropReq s r.id) r.thr) r.thr r.word

/-- What a translation leads to.  A vector access without an active lane sends no packet, but is checked like any other (R329). -/
def resolve (s : State) (r : Req) (x : Tr) : State :=
  let x := x.onDown s
  let ws := if x.sends r then sentWords r else []
  let s := ws.foldl touchWord s
  let done (v : Vec) : State := replyArrives s r.id (.value v false)
  if (r.bad && x.sound) || ws.any (isPoisoned s) then consumeData s r
  else match x with
  | .walk w => startWalk s r w
  | .trap c sub => replyArrives s r.id (.trap c sub)
  | .zero => done (match r.insn with | .objq .. => BitVec.ofNat 256 18446744073709551615 | _ => 0)
  | .answer w => send s .rsp (tileOf r.thr.core) (tileOf r.thr.core) (.run (.reply r.id (ansWord w)))
  | .const v sub off lanes =>
    let r := { r with sub := sub, off := off, z := lanes.setWidth 64 }
    done (loadVec r fun i => v.extractLsb' (8 * ((off + i) % 8)) 8)
  | .fault sub row => residencyFault s r sub row
  | .place h sub gen dev f off lanes =>
    let r := { r with oh := h, sub := sub, gen := gen, dev := dev, frame := f.core * 128 + f.row, off := off, z := lanes.setWidth 64, seq := s.nextSeq }
    let s := modReq { s with nextSeq := s.nextSeq + 1 } r.id fun _ => r
    if noLane r then done 0 else pairHold s r fun s => sendAccess s r.id
  | .maj p h sub off e lanes =>
    let r := { r with oh := h, sub := sub, gen := bits (e.getD 0 0) 2 14, off := off, z := lanes.setWidth 64
                      dev := s.io.devid.toNat, reps := replicasOf p e, quorum := rQuorum p, seq := s.nextSeq }
    let s := modReq { s with nextSeq := s.nextSeq + 1 } r.id fun _ => r
    if noLane r then done 0 else pairHold s r fun s => majReads s r.id

/-- Translate a request at its tile with what the caches hold, and an entry that a walk has brought. -/
def translateReq (s : State) (id : Nat) (ovr : Option (Nat × Nat × List Word)) : State :=
  match findReq s id with
  | none => s
  | some r =>
    let tile := tileOf r.thr.core
    let slot := slotOf s tile
    let s := useRecords (modReq s id fun r => { r with phase := .translate }) tile r.handle.toNat
    match r.insn with
    | .objq .. => resolve s r (translateQuery s slot (tileSrc s tile ovr false) r.key r.priv r.handle r.coord r.x)
    | _ =>
      let x := translate s slot (tileSrc s tile ovr true) r.key r.priv r.handle r.coord (accOf r)
      let s := match x with
        | .place h sub .. => useEntry s tile h sub
        | .maj .. | .const .. | .walk _ | .trap .. | .zero | .fault .. | .answer _ => s
      resolve s r x

/-! ## The instructions -/

/-- The access's own start: its fence, then its translation (R323). -/
def startAccess (r : Order) (s : State) (id : Nat) : State :=
  if fences r then withFence s id fun s id => translateReq s id none else translateReq s id none

/-- The thread is a pair's follower: it issues, and does not translate (R125). -/
def follows (s : State) (t : Thr) : Bool := match pairOf s t with | some p => p.follower = t | none => false

/-- An instruction reads these words of its own row, and others that hold data of its operation: a poisoned one of those is
consumed once the operation is known not to trap (R115, R130). -/
def withData (s : State) (ws data : List Nat) (k : State → Bool → State) : State :=
  withRegs s (if follows s s.cur then ws ++ data else ws) fun s =>
    let s := data.foldl touchWord s
    k s (data.any (isPoisoned s))

/-- An object access with the pair's registers, and the words of its data.  A cause of R115's list precedes the consumption of
poison, so that only a fence reads c7 and c4 before it. -/
def objAccess (i : Instr) (p : Pair) (r : Order) (data : List Nat) (kind cause : Nat)
    (mk : State → Req → Req) (start : State → Nat → State) (s : State) : State :=
  withData s (if fences r then postedWords s.cur else []) (sWords s.cur [pairEven p, pairOdd p] ++ data) fun s bad =>
    let h := getS s s.cur (pairEven p)
    let q := { newReq s i with handle := h, coord := getS s s.cur (pairOdd p), bad := bad }
    beyond s kind cause (h &&& 0xFFFFFFFF) (mk s q) start

/-- LDO (R326). -/
def execLdo (d : SReg) (p : Pair) (r : Order) (z : Size) (s : State) : Out :=
  .next (objAccess (.ldo d p r z) p r [] 1 0x1A (fun _ q => q) (startAccess r) s)
/-- STO (R326). -/
def execSto (a : SReg) (p : Pair) (r : Order) (z : Size) (s : State) : Out :=
  .next (objAccess (.sto a p r z) p r (sWords s.cur [a]) 1 0x1A (fun s q => { q with x := getS s s.cur a }) (startAccess r) s)

/-- The wait limit of c8 at issue (R25, R105). -/
def startWait (r : Order) (s : State) (id : Nat) : State :=
  match findReq s id with
  | none => s
  | some q =>
    let n := bits (getC s q.thr 8) 0 16 * 1024
    let s := if n = 0 then s
      else post (modReq s id fun q => { q with limit := some (s.now + n) }) n (.waitLimitExpiry id)
    startAccess r s id

/-- LDFE, LDFF and STEF wait; in a handler they are illegal (R108, R327). -/
def waitingAccess (i : Instr) (p : Pair) (r : Order) (regs : List SReg) (fn : Nat) (mk : State → Req → Req) (s : State) : State :=
  if isHandler s.cur then trapNow s .illegalInsn
  else objAccess i p r (sWords s.cur regs ++ [cAddr s.cur 8]) 2 fn mk (startWait r) s

def execLdfe (d : SReg) (p : Pair) (r : Order) (s : State) : Out :=
  .next (waitingAccess (.ldfe d p r) p r [] 8 (fun _ q => q) s)
def execLdff (d : SReg) (p : Pair) (r : Order) (s : State) : Out :=
  .next (waitingAccess (.ldff d p r) p r [] 9 (fun _ q => q) s)
def execStef (a : SReg) (p : Pair) (r : Order) (s : State) : Out :=
  .next (waitingAccess (.stef a p r) p r [a] 10 (fun s q => { q with x := getS s s.cur a }) s)
def execStff (a : SReg) (p : Pair) (r : Order) (s : State) : Out :=
  .next (objAccess (.stff a p r) p r (sWords s.cur [a]) 1 0x1A (fun s q => { q with x := getS s s.cur a }) (startAccess r) s)
def execSete (p : Pair) (r : Order) (s : State) : Out :=
  .next (objAccess (.sete p r) p r [] 1 0x1A (fun _ q => q) (startAccess r) s)

/-- An atomic (R328): s[sa] is the operand, and CAS reads s[sd] at issue. -/
def amoAccess (i : Instr) (d a : SReg) (p : Pair) (r : Order) (cause : Nat) (cas : Bool) (s : State) : State :=
  objAccess i p r (sWords s.cur (if cas then [a, d] else [a])) 1 cause
    (fun s q => { q with x := getS s s.cur a, y := if cas then getS s s.cur d else 0 }) (startAccess r) s

def execAmoAddD (d a : SReg) (p : Pair) (r : Order) (s : State) : Out :=
  .next (amoAccess (.amoAddD d a p r) d a p r 0x1B false s)
def execAmoAndD (d a : SReg) (p : Pair) (r : Order) (s : State) : Out :=
  .next (amoAccess (.amoAndD d a p r) d a p r 0x1B false s)
def execAmoOrD (d a : SReg) (p : Pair) (r : Order) (s : State) : Out :=
  .next (amoAccess (.amoOrD d a p r) d a p r 0x1B false s)
def execAmoXorD (d a : SReg) (p : Pair) (r : Order) (s : State) : Out :=
  .next (amoAccess (.amoXorD d a p r) d a p r 0x1B false s)
def execAmoSminD (d a : SReg) (p : Pair) (r : Order) (s : State) : Out :=
  .next (amoAccess (.amoSminD d a p r) d a p r 0x1B false s)
def execAmoSmaxD (d a : SReg) (p : Pair) (r : Order) (s : State) : Out :=
  .next (amoAccess (.amoSmaxD d a p r) d a p r 0x1B false s)
def execAmoUminD (d a : SReg) (p : Pair) (r : Order) (s : State) : Out :=
  .next (amoAccess (.amoUminD d a p r) d a p r 0x1B false s)
def execAmoUmaxD (d a : SReg) (p : Pair) (r : Order) (s : State) : Out :=
  .next (amoAccess (.amoUmaxD d a p r) d a p r 0x1B false s)
def execAmoSwapD (d a : SReg) (p : Pair) (r : Order) (s : State) : Out :=
  .next (amoAccess (.amoSwapD d a p r) d a p r 0x1B false s)
def execAmoFaddD (d a : SReg) (p : Pair) (r : Order) (s : State) : Out :=
  .next (amoAccess (.amoFaddD d a p r) d a p r 0x1B false s)
def execAmoFminD (d a : SReg) (p : Pair) (r : Order) (s : State) : Out :=
  .next (amoAccess (.amoFminD d a p r) d a p r 0x1B false s)
def execAmoFmaxD (d a : SReg) (p : Pair) (r : Order) (s : State) : Out :=
  .next (amoAccess (.amoFmaxD d a p r) d a p r 0x1B false s)
def execAmoCasD (d a : SReg) (p : Pair) (r : Order) (s : State) : Out :=
  .next (amoAccess (.amoCasD d a p r) d a p r 0x1B true s)
def execAmoAddW (d a : SReg) (p : Pair) (r : Order) (s : State) : Out :=
  .next (amoAccess (.amoAddW d a p r) d a p r 0x1C false s)
def execAmoAndW (d a : SReg) (p : Pair) (r : Order) (s : State) : Out :=
  .next (amoAccess (.amoAndW d a p r) d a p r 0x1C false s)
def execAmoOrW (d a : SReg) (p : Pair) (r : Order) (s : State) : Out :=
  .next (amoAccess (.amoOrW d a p r) d a p r 0x1C false s)
def execAmoXorW (d a : SReg) (p : Pair) (r : Order) (s : State) : Out :=
  .next (amoAccess (.amoXorW d a p r) d a p r 0x1C false s)
def execAmoSminW (d a : SReg) (p : Pair) (r : Order) (s : State) : Out :=
  .next (amoAccess (.amoSminW d a p r) d a p r 0x1C false s)
def execAmoSmaxW (d a : SReg) (p : Pair) (r : Order) (s : State) : Out :=
  .next (amoAccess (.amoSmaxW d a p r) d a p r 0x1C false s)
def execAmoUminW (d a : SReg) (p : Pair) (r : Order) (s : State) : Out :=
  .next (amoAccess (.amoUminW d a p r) d a p r 0x1C false s)
def execAmoUmaxW (d a : SReg) (p : Pair) (r : Order) (s : State) : Out :=
  .next (amoAccess (.amoUmaxW d a p r) d a p r 0x1C false s)
def execAmoSwapW (d a : SReg) (p : Pair) (r : Order) (s : State) : Out :=
  .next (amoAccess (.amoSwapW d a p r) d a p r 0x1C false s)
def execAmoFaddW (d a : SReg) (p : Pair) (r : Order) (s : State) : Out :=
  .next (amoAccess (.amoFaddW d a p r) d a p r 0x1C false s)
def execAmoFminW (d a : SReg) (p : Pair) (r : Order) (s : State) : Out :=
  .next (amoAccess (.amoFminW d a p r) d a p r 0x1C false s)
def execAmoFmaxW (d a : SReg) (p : Pair) (r : Order) (s : State) : Out :=
  .next (amoAccess (.amoFmaxW d a p r) d a p r 0x1C false s)
def execAmoCasW (d a : SReg) (p : Pair) (r : Order) (s : State) : Out :=
  .next (amoAccess (.amoCasW d a p r) d a p r 0x1C true s)

/-- A vector object access (R216, R329): v16 to v31 need a wide thread (R40). -/
def vecAccess (i : Instr) (v : VReg) (g : PReg) (p : Pair) (r : Order) (store : Bool) (s : State) : State :=
  if 16#5 ≤ v && !isWide s s.cur then trapNow s .illegalReg
  else objAccess i p r (pWords s.cur [g] ++ if store then vWords s.cur [v] else []) 1 0x1D
    (fun s q => { q with y := (getP s s.cur g).setWidth 64, z := BitVec.allOnes 64, vec := if store then getV s s.cur v else 0 })
    (startAccess r) s

def execVldo (v : VReg) (g : PReg) (p : Pair) (r : Order) (t : VType) (s : State) : Out :=
  .next (vecAccess (.vldo v g p r t) v g p r false s)
def execVsto (v : VReg) (g : PReg) (p : Pair) (r : Order) (t : VType) (s : State) : Out :=
  .next (vecAccess (.vsto v g p r t) v g p r true s)
def execVldb (v : VReg) (g : PReg) (p : Pair) (r : Order) (t : VType) (s : State) : Out :=
  .next (vecAccess (.vldb v g p r t) v g p r false s)

end Sys2Proof.Machine
end

