-- ==== Sys2Proof/Machine/Digest.lean ====
section
/-! DEFINITION. SHA3-256 of a sequence of words, which R207 names by its name (log 13). -/
namespace Sys2Proof.Machine

/-- Rotations of the 25 lanes; lane x + 5y stands at index x + 5y. -/
def laneTurns : List Nat := [0, 1, 62, 28, 27, 36, 44, 6, 55, 20, 3, 10, 43, 25, 39, 41, 45, 15, 21, 8, 18, 2, 61, 56, 14]

/-- Constants of the 24 rounds. -/
def roundConstants : List Word :=
  [0x0000000000000001#64, 0x0000000000008082#64, 0x800000000000808A#64, 0x8000000080008000#64, 0x000000000000808B#64,
   0x0000000080000001#64, 0x8000000080008081#64, 0x8000000000008009#64, 0x000000000000008A#64, 0x0000000000000088#64,
   0x0000000080008009#64, 0x000000008000000A#64, 0x000000008000808B#64, 0x800000000000008B#64, 0x8000000000008089#64,
   0x8000000000008003#64, 0x8000000000008002#64, 0x8000000000000080#64, 0x000000000000800A#64, 0x800000008000000A#64,
   0x8000000080008081#64, 0x8000000000008080#64, 0x0000000080000001#64, 0x8000000080008008#64]

/-- One round of the permutation. -/
def hashRound (a : List Word) (rc : Word) : List Word :=
  let c := (List.range 5).map fun x => (List.range 5).foldl (fun v y => v ^^^ a.getD (x + 5 * y) 0) 0
  let d := (List.range 5).map fun x => c.getD ((x + 4) % 5) 0 ^^^ (c.getD ((x + 1) % 5) 0).rotateLeft 1
  let t := a.mapIdx fun i v => (v ^^^ d.getD (i % 5) 0).rotateLeft (laneTurns.getD i 0)
  let b := (List.range 25).map fun i => t.getD ((i % 5 + 3 * (i / 5)) % 5 + 5 * (i % 5)) 0
  (List.range 25).map fun i =>
    let e (k : Nat) : Word := b.getD ((i % 5 + k) % 5 + i / 5 * 5) 0
    (e 0 ^^^ (~~~e 1 &&& e 2)) ^^^ if i = 0 then rc else 0

/-- Take in n blocks of 17 words. -/
def hashBlocks : Nat → List Word → List Word → List Word
  | 0, st, _ => st
  | n + 1, st, l => hashBlocks n (roundConstants.foldl hashRound (List.zipWith (· ^^^ ·) st (l.take 17 ++ List.replicate 8 0))) (l.drop 17)

/-- The words that end a message of n words. -/
def hashPad (n : Nat) : List Word :=
  if n % 17 = 16 then [0x8000000000000006#64] else 6 :: List.replicate (15 - n % 17) 0 ++ [0x8000000000000000#64]

/-- The four words of the SHA3-256 digest of a sequence of words, lowest byte first. -/
def sha3 (l : List Word) : List Word :=
  (hashBlocks (l.length / 17 + 1) (List.replicate 25 0) (l ++ hashPad l.length)).take 4

end Sys2Proof.Machine
end

