-- ==== Sys2Proof/Machine/Bar.lean ====
section
/-! DEFINITION. The device registers of BAR0 as they read (R51, R55, R120, R177, R187, R199 to R207, R255, R269, R274,
R378). -/
namespace Sys2Proof.Machine

def getQueue (s : State) (q : Nat) : QueueSt := look {} s.io.queues q
def modQueue (s : State) (q : Nat) (f : QueueSt → QueueSt) : State :=
  { s with io := { s.io with queues := store s.io.queues q (f (getQueue s q)) } }
def getCounter (s : State) (n : Nat) : CounterSt := look {} s.io.counters n
def modCounter (s : State) (n : Nat) (f : CounterSt → CounterSt) : State :=
  { s with io := { s.io with counters := store s.io.counters n (f (getCounter s n)) } }
def getGroup (s : State) (g : Nat) : GroupSt := look {} s.io.groups g
def modGroup (s : State) (g : Nat) (f : GroupSt → GroupSt) : State :=
  { s with io := { s.io with groups := store s.io.groups g (f (getGroup s g)) } }

def bit (b : Bool) : Nat := if b then 1 else 0

/-- QCTL (R51): THAW reads 0. -/
def qctl (q : QueueSt) : Word :=
  BitVec.ofNat 64 (q.key.toNat * 2 ^ 48 + bit q.privq * 2 ^ 34 + bit q.frozen * 2 ^ 32 + q.part.toNat * 65536 + bit q.devfed * 2 + bit q.en)

/-- A word of a queue's register block (R51, R201). -/
def queueWord (q : QueueSt) (i : Nat) : Word :=
  match i with
  | 0 => q.base.setWidth 64
  | 1 => q.size.setWidth 64
  | 2 => q.head
  | 3 => q.tail
  | 4 => q.fence
  | 5 => qctl q
  | 6 => q.comp
  | _ => BitVec.ofNat 64 (bit q.irqEn * 2 ^ 63 + q.irqVec.toNat)

/-- The state word of a counter (R55). -/
def counterWord (c : CounterSt) : Word :=
  BitVec.ofNat 64 (c.owner.toNat * 2 ^ 48 + bit c.overrun * 2 ^ 34 + bit c.cancel * 2 ^ 33 + bit c.errtok * 2 ^ 32 + c.value.toNat)

/-- A word of an ENGSTAT block (R255): with fewer than 64 sub-arrays left, DENSEOFF is set (R257). -/
def engstat (t : TileSt) (i : Nat) : Word :=
  match i with
  | 0 => t.jobsDone
  | 1 => BitVec.ofNat 64 (t.nanJob.toNat * 4294967296 + t.ovfJob.toNat)
  | 2 => BitVec.ofNat 64 (t.suspect.toNat * 4294967296)
  | _ => BitVec.ofNat 64 (bit (2 < t.fenced.length) * 65536 + t.fenced.length * 256 + t.testInt.toNat)

/-- TILEPART of a tile (R203). -/
def tilepart (t : TileSt) : Word := BitVec.ofNat 64 (bit t.busy * 128 + bit t.assigned * 64 + t.slot)

/-- A word of a PARTCFG entry (R202). -/
def partcfg (p : PartSt) (i : Nat) : Word :=
  match i with
  | 0 => BitVec.ofNat 64 (bit p.reset * 131072 + bit p.en * 65536 + p.key.toNat)
  | 1 => p.suprow
  | 2 => p.objplace
  | _ => BitVec.ofNat 64 (p.lost.toNat * 4294967296 + p.objext.toNat)

/-- A word of the chain table (R269): reset 0xFF in KERN. -/
def chainWord (s : State) (i : Nat) : Word := look 0xFF00000000000000#64 s.io.chains i

/-- A word of a group table (R274). -/
def groupWord (g : GroupSt) (i : Nat) : Word :=
  if i = 0 then BitVec.ofNat 64 (g.key.toNat * 2 ^ 48 + g.epoch.toNat * 65536 + g.count)
  else (g.members.getD (i - 1) 0).setWidth 64

/-- The capability records, in the order of their identifiers (R204). -/
def capIds : List Nat := [1, 2, 3, 4, 5, 7]

/-- Cores present in the module (R91). -/
def presentCores (s : State) : Nat := Config.cores - (s.absent.foldl (fun n p => n + p.2.cpop.toNat) 0)

/-- Word i of the carving record's body: the absent cores of a tile in eight words (R204). -/
def carvingWord (s : State) (i : Nat) : Word := (look 0#512 s.absent (i / 8)).extractLsb' (64 * (i % 8)) 64

/-- PARTCFG with every TILEPART, in the order of their offsets (R207). -/
def partitionWords (s : State) : List Word :=
  (List.range 256).map (fun i => partcfg (getPart s (i / 4)) (i % 4)) ++ (List.range Config.tiles).map fun t => tilepart (getTile s t)

/-- The words of an attestation report before its signature: nonce, digests of the firmware that runs, of the carving record and of
the partitions, and the count (R207). -/
def reportWords (s : State) (count : Word) : List Word :=
  (List.range 4).map (fun i => BitVec.ofNat 64 (ofBytes ((s.io.nonce.drop (8 * i)).take 8)))
    ++ sha3 s.io.running ++ sha3 ((List.range (8 * Config.tiles)).map (carvingWord s)) ++ sha3 (partitionWords s) ++ [count]

/-- Word i of the last attestation report (R207). -/
def reportWord (s : State) (i : Nat) : Word :=
  if i < 17 then s.io.report.getD i 0 else BitVec.ofNat 64 (ofBytes ((s.io.signature.drop (8 * (i - 17))).take 8))

/-- Words of the firmware record's version, before its digest (R204, log 13). -/
def versionWords : Nat := Config.capWords 5 % 1024

/-- Length of a capability's body in bytes (R204, R207). -/
def capLen (id : Nat) : Nat :=
  match id with
  | 2 => 64 * Config.tiles
  | 3 => 8 * Config.tiles
  | 5 => 8 * (versionWords + 4)
  | 7 => 17 * 8 + 2420
  | _ => 8 * (Config.capWords id % 1024)

/-- Body word i of a capability (R204): what the manual lays out, and free values that follow what the others report (log 13). -/
def capWord (s : State) (id i : Nat) : Word :=
  match id with
  | 1 => Config.capModule (presentCores s) i
  | 2 => carvingWord s i
  | 3 => let f := (getTile s i).fenced.length; Config.capEngine f (2 < f)
  | 4 => Config.capFabric s.io.devid.toNat s.io.domain s.now i
  | 5 => if i < versionWords then Config.capVersion s.io.running i else (sha3 s.io.running).getD (i - versionWords) 0
  | _ => reportWord s i

/-- Word 0 of a capability record's header (R204). -/
def capHeader (id : Nat) (next : BitVec 32) : Word := next ++ 0#8 ++ Config.capVer id ++ BitVec.ofNat 16 id

/-- Where the headers of the records stand, from an offset on: each follows the body before it (R204, log 13). -/
def capPlaces : Nat → List Nat → List (Nat × Nat)
  | _, [] => []
  | o, id :: l => (id, o) :: capPlaces (o + 16 + (capLen id + 7) / 8 * 8 + 8 * (Config.capGap id % 1024)) l

/-- The word at an offset of the list: a header names the next one, the last 0, and its body follows it (R204). -/
def capIn (s : State) (off : Nat) : List (Nat × Nat) → Word
  | [] => 0
  | (id, o) :: l =>
    if off < o then 0
    else if off < o + 8 then capHeader id (BitVec.ofNat 32 ((l.head?.map (·.2)).getD 0))
    else if off < o + 16 then BitVec.ofNat 64 (capLen id)
    else if off < o + 16 + capLen id then capWord s id ((off - o - 16) / 8)
    else capIn s off l

/-- The word of the capability list at a BAR0 offset (R204). -/
def capAt (s : State) (off : Nat) : Word := capIn s off (capPlaces 0x1000 capIds)

/-- What a 64-bit read of BAR0 returns through the PF; until the list is published only HSEM reads, and the first
capability header with NEXT 0 (R208, R378). -/
def barRead (s : State) (off : Nat) : Word :=
  if off = 0x100 then s.io.hsem.setWidth 64
  else if !s.io.published then
    (if off = 0x1000 then capHeader 1 0 else if off = 0x1008 then BitVec.ofNat 64 (capLen 1) else 0)
  else if off < 0x100000 then (if 0x1000 ≤ off then capAt s off else 0)
  else if off < 0x120000 then queueWord (getQueue s ((off - 0x100000) / 64)) (off / 8 % 8)
  else if off < 0x200000 then 0
  else if off < 0x280000 then counterWord (getCounter s ((off - 0x200000) / 8))
  else if off < 0x300000 then 0
  else if off < 0x301000 then
    match off - 0x300000 with
    | 0 => BitVec.ofNat 64 (s.io.swapLaunch.toNat * 2 ^ 40 + s.io.swapHandle.toNat * 256 + s.io.swapStatus.toNat * 4)
    | 0x100 => s.io.rhold.setWidth 64
    | 0x108 => s.io.health.setWidth 64
    | 0x110 => s.io.devid.setWidth 64
    | 0x118 => s.io.pwrlim.setWidth 64
    | 0x120 => BitVec.ofNat 64 (s.io.pwrIssue.toNat * 4294967296 + s.io.pwrWatts.toNat)
    | 0x128 => BitVec.ofNat 64 (s.io.errPoison.toNat * 4294967296 + s.io.errSingle.toNat)
    | o =>
      if 0x300 ≤ o ∧ o < 0x320 then BitVec.ofNat 64 (ofBytes ((s.io.nonce.drop ((o - 0x300) / 8 * 8)).take 8))
      else if 0x400 ≤ o then chainWord s ((o - 0x400) / 8) else 0
  else if 0x400000 ≤ off ∧ off < 0x404000 then tilepart (getTile s ((off - 0x400000) / 8))
  else if 0x500000 ≤ off ∧ off < 0x500800 then partcfg (getPart s ((off - 0x500000) / 32)) (off / 8 % 4)
  else if 0x600000 ≤ off ∧ off < 0x610000 then engstat (getTile s ((off - 0x600000) / 32)) (off / 8 % 4)
  else if 0x800000 ≤ off ∧ off < 0xC00000 then groupWord (getGroup s ((off - 0x800000) / 0x4000)) (off % 0x4000 / 8)
  else 0

/-- A slot's BAR0 exposes what a partition key owns: the PF's everything, a VF's what is its own (R202). -/
def exposed (s : State) (slot : Nat) (k : BitVec 16) : Bool := slot = 0 || (k = (getPart s slot).key && k ≠ 0)

/-- A 64-bit read of BAR0 through the PF, slot 0, or a VF, whose BAR0 exposes only its queue blocks and counters: any other
offset reads 0 (R202, R378). -/
def slotRead (s : State) (slot off : Nat) : Word :=
  if off % 8 ≠ 0 then 0
  else if slot = 0 then barRead s off
  else if 0x100000 ≤ off && off < 0x120000 then
    (if exposed s slot (getQueue s ((off - 0x100000) / 64)).part then barRead s off else 0)
  else if 0x200000 ≤ off && off < 0x280000 then
    (if exposed s slot (getCounter s ((off - 0x200000) / 8)).owner then barRead s off else 0)
  else 0

/-- BAR0 offset of an element of the module control object (R202). -/
def moduleOffset (elem : Nat) : Option Nat := if 0x60000 ≤ elem then some (0x300000 + 8 * (elem - 0x60000)) else none
/-- Read an element of the module control object (R202). -/
def moduleRead (s : State) (elem : Nat) : Word := match moduleOffset elem with | some o => barRead s o | none => 0

end Sys2Proof.Machine
end

