-- ==== Sys2Proof/Machine/Pools.lean ====
section
/-! DEFINITION. Sub-tile entries and claims (R158 to R161), pools (R166, R167), frames that leave a sub-tile (R137,
R173), and the drop of cached translations with its echoes (R155). -/
namespace Sys2Proof.Machine

/-! ## Entries (R158) -/

/-- Byte address of a framed entry. -/
def entryAddr (s : State) (slot h n : Nat) : Option Nat :=
  match recordNow s slot h with
  | none => none
  | some r =>
    match recordNow s slot (rTable r) with
    | none => none
    | some t => (entryPlace s slot r t n).map fun p => rowAddr p.1 p.2.1 + p.2.2

/-- An entry is read, with the records that lead to it: stored errors are met (R99). -/
def meetEntry (s : State) (slot h n : Nat) : State :=
  if s.bitErrs.isEmpty then s
  else
    let s := meetRecord s slot h
    let s := match recordNow s slot h with | some r => meetRecord s slot (rTable r) | none => s
    match entryAddr s slot h n with | some a => touch s a 16 | none => s

def entState (w0 : Word) : Nat := bits w0 0 2
def entGen (w0 : Word) : Nat := bits w0 2 14
/-- Bits 45:0 of the frame's reference. -/
def entFrame (w0 : Word) : Nat := bits w0 16 46
def mkEntry (frame gen st : Nat) : Word := BitVec.ofNat 64 (frame * 65536 + gen * 4 + st)
/-- The generation after g; 0 is never reached again (R161). -/
def nextGen (g : Nat) : Nat := if g = 16383 then 1 else g + 1
def writeEntry (s : State) (a : Nat) (w0 w1 : Word) : State := putWord (putWord s a w0) (a + 8) w1

/-- The tile of an entry's owner. -/
def entryTile (s : State) (slot h n : Nat) : Nat :=
  match entryAddr s slot h n with
  | some a => tileOf (coreOfAddr a)
  | none => 0
/-- An operation holds the entry (R160). -/
def isClaimed (s : State) (slot h n : Nat) : Bool := (getTile s (entryTile s slot h n)).claims.contains (h, n)
def claimEntry (s : State) (slot h n : Nat) : State :=
  modTile s (entryTile s slot h n) fun t => { t with claims := t.claims ++ [(h, n)] }
/-- The change ends: the claim goes and the held walks are answered (R160). -/
def unclaim (s : State) (slot h n : Nat) : State :=
  let tile := entryTile s slot h n
  releaseWalks (modTile s tile fun t => { t with claims := t.claims.filter (· ≠ (h, n)) }) tile h n

/-! ## Pools (R166, R167) -/

/-- Handles name objects of one partition. -/
def poolKey (slot h : Nat) : Nat := slot * 4294967296 + h
def getPool (s : State) (stack key : Nat) : PoolSt := ((getStack s stack).pools.find? fun p => p.handle = key).getD { handle := key }
def setPool (s : State) (stack : Nat) (x : PoolSt) : State :=
  modStack s stack fun k => { k with pools := k.pools.filter (fun p => p.handle ≠ x.handle) ++ [x] }
/-- A frame as core × 128 + row, from bits 45:0 of a reference. -/
def frameStack (f : Nat) : Nat := stackOf (f / 128)
/-- The frame is allocated from the pool. -/
def isAllocated (s : State) (key f : Nat) : Bool := (getPool s (frameStack f) key).alloc.contains f
/-- Push a frame onto the free list of its stack. -/
def pushFrame (s : State) (key f : Nat) : State :=
  let p := getPool s (frameStack f) key
  setPool s (frameStack f) { p with free := f :: p.free, alloc := p.alloc.filter (· ≠ f) }
/-- An allocated frame is committed to a sub-tile: the pool holds it no longer. -/
def takeFrame (s : State) (key f : Nat) : State :=
  let p := getPool s (frameStack f) key
  setPool s (frameStack f) { p with alloc := p.alloc.filter (· ≠ f) }
/-- ALLOC's head of a list (R167). -/
def popFrame (s : State) (stack key : Nat) : State × Option Nat :=
  let p := getPool s stack key
  match p.free with
  | [] => (s, none)
  | f :: l => (setPool s stack { p with free := l, alloc := f :: p.alloc }, some f)
/-- The pool of a framed record. -/
def rPool (r : Rec) : Nat := bits (rw r 8) 0 32

/-! ## The row-side cache (R97) -/

/-- Drop the granules of a row. -/
def dropGranules (s : State) (core row : Nat) : State :=
  modTile s (tileOf core) fun t => { t with grans := t.grans.filter fun g => g / 64 ≠ core * 128 + row }

/-! ## Wait lists (R103) -/

def waitAddr (core e : Nat) : Nat := rowAddr core 84 + 2080 + 16 * e
/-- OP, ROW and WIDX of a wait-list entry. -/
def waitOp (s : State) (core e : Nat) : Nat := bits (getWord s (waitAddr core e)) 62 2
def waitRow (s : State) (core e : Nat) : Nat := bits (getWord s (waitAddr core e)) 55 7
def waitWidx (s : State) (core e : Nat) : Nat := bits (getWord s (waitAddr core e)) 46 9
def waitValue (s : State) (core e : Nat) : Word := getWord s (waitAddr core e + 8)
/-- Free a wait-list entry. -/
def clearWait (s : State) (core e : Nat) : State :=
  modCore (putWord (putWord s (waitAddr core e) 0) (waitAddr core e + 8) 0) core fun c =>
    { c with waits := c.waits.filter fun p => p.1 ≠ e }

/-- Remove the waiters of a frame and answer each REDIRECT, in arrival order (R173). -/
def redirectWaiters (s : State) (core row : Nat) : State :=
  let mine := (getCore s core).waits.filter fun p => waitRow s core p.1 = row
  mine.foldl (fun s p =>
    let s := clearWait s core p.1
    match findReq s p.2 with
    | none => s
    | some r => send s .rsp (tileOf core) (tileOf r.thr.core) (.run (.redirectAnswer r.id))) s

/-! ## Drops and echoes (R155, R161) -/

/-- The tiles of a partition. -/
def tilesOfSlot (s : State) (slot : Nat) : List Nat := (List.range Config.tiles).filter (inSlot s slot)

/-- Have every tile of the partition drop a handle; the request goes on when all have echoed. -/
def startDrop (s : State) (id slot h : Nat) : State :=
  let tiles := tilesOfSlot s slot
  match findReq s id with
  | none => s
  | some r =>
    let s := modReq s id fun r => { r with phase := .drop, echoes := tiles }
    let my := tileOf r.thr.core
    tiles.foldl (fun s t =>
      if stackDown s (t / 128) then send s .rsp ioDie my (.run (.fenceEcho id t))
      else send s .req my t (.run (.objsyncDrop id t h))) s

/-- An operation ends with a status; one whose generation wrapped first has every tile drop the handle (R161). -/
def finishOp (s : State) (srcTile id slot h : Nat) (wrapped : Bool) (status : Word) : State :=
  if wrapped then startDrop (modReq s id fun r => { r with status := status }) id slot h
  else answer s srcTile id (ansWord status)

/-! ## A frame leaves its sub-tile (R137, R169) -/

/-- The old frame's owner: USE 11 with the next generation, granules dropped, waiters redirected (R137, R173). -/
def vacateFrame (s : State) (handle sub gen : Nat) (f : Thr) : State :=
  redirectWaiters (dropGranules (setFrame s f.core f.row handle sub (nextGen gen) 3 false) f.core f.row) f.core f.row

/-- Admission of DECOMMIT or of FILLC on a RESIDENT entry: the frame, the entry, the pool, the reply (R137, R169). -/
def retireAdmission (s : State) (p : ObjPkt) : State :=
  match findReq s p.req with
  | none => s
  | some r =>
    let slot := slotOf s (tileOf r.thr.core)
    let s := vacateFrame s p.handle p.sub p.gen p.frame
    let g := nextGen p.gen
    let s := match entryAddr s slot p.handle p.sub with
      | none => s
      | some a =>
        match r.insn with
        | .fillc .. => writeEntry s a (mkEntry 0 g 2) r.x
        | _ => writeEntry s a (mkEntry 0 g 0) 0
    let s := unclaim s slot p.handle p.sub
    let key := match recordNow s slot p.handle with | some x => poolKey slot (rPool x) | none => 0
    let s := pushFrame s key (p.frame.core * 128 + p.frame.row)
    -- accesses that arrived behind it carry the old generation (R137)
    let late := (getCore s p.frame.core).moving.filter fun q => q.frame = p.frame
    let s := modCore s p.frame.core fun c => { c with moving := c.moving.filter fun q => q.frame ≠ p.frame }
    let s := late.foldl (fun s q => post s 0 (.objectAccessArrival q)) s
    finishOp s (tileOf p.frame.core) p.req slot p.handle (p.gen = 16383) 0

end Sys2Proof.Machine
end

