-- ==== Sys2Proof/Machine/Admit.lean ====
section
/-! DEFINITION. Object accesses at their owner: arrival and acceptance (R92, R104, R110, R171), the row-side cache (R97),
admission (R93), full/empty words and wait lists (R101, R103), atomics (R328), and fence probes (R112). -/
namespace Sys2Proof.Machine

/-- The place of a packet. -/
def pktAddr (p : ObjPkt) : Nat := rowAddr p.frame.core p.frame.row + p.off

/-- Answer the issuer of a packet; a posted access has its answer already. -/
def answerObj (s : State) (p : ObjPkt) (a : Ans) : State :=
  if p.req = 0 then s
  else send s .rsp (if p.handle = Config.moduleObj then ioDie else tileOf p.frame.core) p.srcTile (.run (.reply p.req a))

/-- The frame-state entry names the packet's sub-tile and generation (R104). -/
def frameFits (s : State) (p : ObjPkt) : Bool :=
  let c := p.frame.core
  let r := p.frame.row
  frameHandle s c r = p.handle && frameSub s c r = p.sub && frameGen s c r = p.gen
    && (frameUse s c r = 1 || frameUse s c r = 2)

/-! ## Packets not yet admitted, and the echoes that wait for them (R112, R155) -/

/-- The object packet of a step. -/
def objOf : Event → Option ObjPkt
  | .admission p | .objectAccessArrival p => some p
  | _ => none

/-- The step that a queued access is. -/
def QDo.step? : QDo → Option Event
  | .step e => some e
  | .fill | .feed .. => none

def actEvent : Act → Option Event
  | .run e | .arrive _ _ e => some e
  | .serve _ _ _ a => a.step?
  | .feed .. | .bus .. => none

/-- Steps queued at a core. -/
def queuedSteps (c : CoreSt) : List Event :=
  c.oq.filterMap (·.act.step?) ++ c.held.filterMap (·.2.step?) ++ c.moving.map .admission

/-- Steps on their way or queued at cores. -/
def stepsUnderWay (s : State) : List Event :=
  s.agenda.filterMap (fun x => actEvent x.act) ++ s.cores.flatMap fun c => queuedSteps c.2

/-- Object accesses that are not yet admitted. -/
def unadmitted (s : State) : List ObjPkt := (stepsUnderWay s).filterMap objOf

/-- A replica packet of a step, and those held by RHOLD (R177). -/
def majOf : Event → Option MajPkt
  | .tagAndGranuleRead p | .phase2Write p => some p
  | _ => none
def unadmittedMaj (s : State) : List MajPkt :=
  ((stepsUnderWay s) ++ s.stackSt.flatMap fun k => k.2.held).filterMap majOf

/-- A tile echoes a probe once every access that the probing tile sent to it earlier has been admitted (R112). -/
def probeDue (s : State) (l : List ObjPkt) (tile : Nat) (p : Nat × Nat × Nat) : Bool :=
  l.all fun q => !(q.via = tile && q.srcTile = p.2.1 && q.seq < p.2.2)
    && (tile ≠ ioDie || s.io.outbound.all fun o => !(o.tile = p.2.1 && o.seq < p.2.2))

/-- The writes of engine jobs that are not yet admitted. -/
def feedOfDo : QDo → Option Feed
  | .feed f _ => some f
  | .step _ | .fill => none
def unadmittedFeeds (s : State) : List Feed :=
  (s.agenda.filterMap fun x => match x.act with
    | .feed f => some f
    | .serve _ _ _ a => feedOfDo a
    | .run _ | .arrive .. | .bus .. => none)
  ++ (s.cores.flatMap fun c => c.2.oq.filterMap (feedOfDo ·.act) ++ c.2.held.filterMap (feedOfDo ·.2))
  ++ s.tiles.flatMap fun t => (t.2.jobs ++ t.2.copies ++ t.2.gathers).flatMap (·.todo)

/-- Accesses that stand at their issuer's tile, translated and not yet sent whole: stores of a pair's leader (R125), and majority
accesses, whose later packets follow the answers to the first (R178, R179). -/
def unsent (s : State) : List Req :=
  s.reqs.filter (fun r => r.phase = .majority) ++ s.pairs.flatMap fun p => p.held ++ p.sending

/-- A tile echoes a drop once every access that it translated before has been admitted or redirected (R155). -/
def dropDue (s : State) (l : List ObjPkt) (m : List MajPkt) (tile : Nat) (p : Nat × Nat) : Bool :=
  (l.all fun q => !(q.srcTile = tile && q.seq < p.2)) && (m.all fun q => !(q.srcTile = tile && q.seq < p.2))
    && ((unsent s).all fun r => !(tileOf r.thr.core = tile && r.seq < p.2))
    && (unadmittedFeeds s).all fun f => !(f.tile = tile && f.seq < p.2)

/-- Echo the probes and drops of every tile that nothing holds any longer. -/
def echoes (s : State) : State :=
  if s.io.probes.isEmpty && s.tiles.all (fun t => t.2.probes.isEmpty && t.2.drops.isEmpty) then s
  else
    let l := unadmitted s
    let m := unadmittedMaj s
    let s := s.tiles.foldl (fun s t =>
      let due := t.2.probes.filter (probeDue s l t.1)
      let drops := t.2.drops.filter (dropDue s l m t.1)
      if due.isEmpty && drops.isEmpty then s
      else
        let s := modTile s t.1 fun x => { x with probes := x.probes.filter fun p => !due.contains p
                                                 drops := x.drops.filter fun p => !drops.contains p }
        let s := due.foldl (fun s p => post s 0 (.probeEcho p.1 t.1)) s
        drops.foldl (fun s p => send s .rsp t.1 t.1 (.run (.fenceEcho p.1 t.1))) s) s
    let io := s.io.probes.filter (probeDue s l ioDie)
    io.foldl (fun s p => post { s with io := { s.io with probes := s.io.probes.filter (· ≠ p) } } 0 (.probeEcho p.1 ioDie)) s

/-! ## Arrival (R92 stage 4) -/

/-- A retirement of the row is accepted but not yet admitted: what arrives behind it carries an old generation. -/
def retirementQueued (s : State) (f : Thr) : Bool :=
  (unadmitted s).any fun q => q.frame = f && q.op == .retire

/-- The operation only reads. -/
def opReads : ObjOp → Bool
  | .load _ | .vload _ | .vbcast .. => true
  | .store .. | .ldfe | .ldff | .stef _ | .stff _ | .sete | .amo .. | .vstore .. | .retire => false

/-- Bytes of an operation. -/
def opWidth : ObjOp → Nat
  | .load n | .store n _ | .vbcast n _ => n
  | .vload _ | .vstore .. => 32
  | .ldfe | .ldff | .stef _ | .stff _ | .sete | .amo .. | .retire => 8

/-- Accept an access into the ingress (R92, R97): a cacheable read with nothing queued before it is admitted on
arrival; where the granule is not cached its row is opened to fill it. -/
def enqueue (s : State) (p : ObjPkt) : State :=
  let c := p.frame.core
  if opReads p.op && onArrival s c p.frame.row then admitCached s c p.frame.row (pktAddr p) (opWidth p.op) (.admission p)
  else arrive s c p.frame.row (.admission p)

/-- An admitted access uses the row-side cache (R97): a read brings its granules, any other updates those that are there. -/
def useCache (s : State) (p : ObjPkt) : State :=
  let tile := tileOf p.frame.core
  if p.frame.row < 84 && frameCache s p.frame.core p.frame.row then
    let gs := granRange (pktAddr p) (opWidth p.op)
    useGranules s tile (if opReads p.op then gs else gs.filter (getTile s tile).grans.contains)
  else s

/-- The owner tile accepts an access: a posted one completes (R110). -/
def accept (s : State) (p : ObjPkt) : State × ObjPkt :=
  match findReq s p.req with
  | none => (s, p)
  | some r => if posted r.insn then (answerObj s p (ansWord 0), { p with req := 0 }) else (s, p)

/-- Answer REDIRECT (R104). -/
def redirect (s : State) (p : ObjPkt) : State :=
  send s .rsp (tileOf p.frame.core) p.srcTile (.run (.redirectAnswer p.req))

/-- An access at a DOWN stack is answered STACK_DOWN (R190); a retirement gives its claim back. -/
def downAnswer (s : State) (p : ObjPkt) : State :=
  let s := if p.op = .retire then
      match findReq s p.req with
      | some r => unclaim s (slotOf s (tileOf r.thr.core)) p.handle p.sub
      | none => s
    else s
  answerObj s p (.trap .stackDown p.sub)

/-- Step OBJECT_ACCESS_ARRIVAL. -/
def accessArrives (s : State) (p : ObjPkt) : State :=
  let f := p.frame
  let s := touchFrame s f
  if p.handle = Config.moduleObj then
    let (s, p) := accept s p
    post s 0 (.admission p)
  else if stackDown s (stackOf f.core) then downAnswer s p
  else if !frameFits s p then redirect s p
  else if frameUse s f.core f.row = 2 then
    -- held for the MOVING frame, in arrival order (R171)
    let (s, p) := accept s p
    modCore s f.core fun c => { c with moving := c.moving ++ [p] }
  else if p.op ≠ .retire && retirementQueued s f then modCore s f.core fun c => { c with moving := c.moving ++ [p] }
  else
    let (s, p) := accept s p
    enqueue s p
def execObjectAccessArrival (s : State) : Out :=
  match s.doing with | some (.objectAccessArrival p) => .next (echoes (accessArrives s p)) | _ => .next s

/-! ## Waits (R101, R103) -/

/-- Serve the waiters of a word after it was filled or emptied; each turn removes one waiter. -/
def serveWord (fuel : Nat) (s : State) (core row a : Nat) (fill : Bool) : State :=
  match fuel with
  | 0 => s
  | n + 1 =>
    let mine := (getCore s core).waits.filter fun p => waitRow s core p.1 = row && waitWidx s core p.1 = a % 4096 / 8
    let reply (s : State) (id : Nat) (x : Word) (bad : Bool) : State := answer s (tileOf core) id (.value (x.setWidth 256) bad)
    if fill then
      match mine.find? fun p => waitOp s core p.1 ≠ 3 with
      | none => s
      | some (e, id) =>
        let takes := waitOp s core e = 1
        let s := reply (clearWait s core e) id (getWord s a) (isPoisoned s a)
        if takes then serveWord n (setFull s a false) core row a false else serveWord n s core row a true
    else
      match mine.find? fun p => waitOp s core p.1 = 3 with
      | none => s
      | some (e, id) =>
        let x := waitValue s core e
        let s := reply (setFull (putWord (clearWait s core e) a x) a true) id 0 false
        serveWord n s core row a true

/-- The core reads its wait list (R99). -/
def touchWaits (s : State) (core : Nat) : State :=
  if (getCore s core).waits.isEmpty then s else touch s (waitAddr core 0) (16 * Config.waitListSize)

/-- Serve until nobody more can be served. -/
def serve (s : State) (core row a : Nat) (fill : Bool) : State :=
  serveWord ((getCore s core).waits.length + 1) (touchWaits s core) core row a fill

/-- Take a wait-list entry; a full list answers RETRY and changes nothing (R103). -/
def waitFor (s : State) (p : ObjPkt) (op : Nat) (value : Word) : State :=
  let core := p.frame.core
  let s := touchWaits s core
  match (List.range Config.waitListSize).find? fun e => waitOp s core e = 0 with
  | none => send s .rsp (tileOf core) p.srcTile (.run (.retry p.req))
  | some e =>
    let ref : BitVec 46 := match findReq s p.req with | some r => refOf s r.thr | none => 0
    let w0 : Word := BitVec.ofNat 64 (op * 2 ^ 62 + p.frame.row * 2 ^ 55 + p.off / 8 * 2 ^ 46 + ref.toNat)
    modCore (putWord (putWord s (waitAddr core e) w0) (waitAddr core e + 8) value) core fun c =>
      { c with waits := c.waits ++ [(e, p.req)] }

/-! ## Atomics (R328) -/

/-- The new value of an atomic on w bits; none where it writes nothing. -/
def amoNew (o : AmoOp) (w old x cmp : Nat) : Option Nat :=
  let f : FFmt := if w = 64 then .f64 else .f32
  match o with
  | .add => some ((old + x) % 2 ^ w)
  | .and => some (old &&& x)
  | .or => some (old ||| x)
  | .xor => some (old ^^^ x)
  | .smin => some (if sval w x < sval w old then x else old)
  | .smax => some (if sval w old < sval w x then x else old)
  | .umin => some (min old x)
  | .umax => some (max old x)
  | .swap => some x
  | .fadd => some (fadd f .engine old x).1
  | .fmin => some (fminmax f false false old x).1
  | .fmax => some (fminmax f false true old x).1
  | .cas => if old = cmp then some x else none

/-! ## Admission (R93) -/

/-- Write the lanes of a vector store: words covered whole lose POISON (R329). -/
def storeLanes (s : State) (a : Nat) (mask : Pred) (x : Vec) : State :=
  (List.range 4).foldl (fun s w =>
    let bs := (List.range 8).map fun i => x.extractLsb' (64 * w + 8 * i) 8
    if mask.extractLsb' (8 * w) 8 = 0xFF#8 then putBytes s (a + 8 * w) bs
    else (List.range 8).foldl (fun s i =>
      if mask.getLsbD (8 * w + i) then putBytes s (a + 8 * w + i) [x.extractLsb' (64 * w + 8 * i) 8] else s) s) s

/-- Apply an operation at its place and reply (R101, R326 to R329). -/
def applyOp (s : State) (p : ObjPkt) : State :=
  let s := useCache s p
  let a := pktAddr p
  let core := p.frame.core
  let row := p.frame.row
  match p.op with
  | .load n =>
    let s := touch s a n
    answerObj s p (.value (BitVec.ofNat 256 (getNat s a n)) (runPoisoned s a n))
  | .vload mask =>
    let s := touch s a 32
    let bad := (List.range 4).any fun w => mask.extractLsb' (8 * w) 8 ≠ 0 && isPoisoned s (a + 8 * w)
    let x := ofBytes ((getBytes s a 32).mapIdx fun i b => if mask.getLsbD i then b else 0)
    answerObj s p (.value (BitVec.ofNat 256 x) bad)
  | .vbcast n any =>
    let s := touch s a n
    answerObj s p (.value (BitVec.ofNat 256 (getNat s a n)) (any && runPoisoned s a n))
  | .store n x => answerObj (putBytes s a (toBytes n x.toNat)) p (ansWord 0)
  | .vstore mask x => answerObj (storeLanes s a mask x) p (ansWord 0)
  | .ldfe =>
    let s := touchWord s a
    if isFull s a then
      let s := answerObj s p (.value ((getWord s a).setWidth 256) (isPoisoned s a))
      serve (setFull s a false) core row a false
    else waitFor s p 1 0
  | .ldff =>
    let s := touchWord s a
    if isFull s a then answerObj s p (.value ((getWord s a).setWidth 256) (isPoisoned s a)) else waitFor s p 2 0
  | .stef x =>
    let s := touchWord s a
    if isFull s a then waitFor s p 3 x
    else serve (answerObj (setFull (putWord s a x) a true) p (ansWord 0)) core row a true
  | .stff x =>
    let s := touchWord s a
    if isFull s a then answerObj (putWord s a x) p (ansWord 0)
    else serve (answerObj (setFull (putWord s a x) a true) p (ansWord 0)) core row a true
  | .sete =>
    let s := touchWord s a
    if isFull s a then serve (answerObj (setFull s a false) p (ansWord 0)) core row a false
    else answerObj s p (ansWord 0)
  | .amo o w x cmp =>
    let n := match w with | .w64 => 8 | .w32 => 4
    let s := touch s a n
    let old := getNat s a n
    if runPoisoned s a n then answerObj s p (.value (BitVec.ofNat 256 old) true)
    else
      let s := match amoNew o (8 * n) old (x.toNat % 2 ^ (8 * n)) (cmp.toNat % 2 ^ (8 * n)) with
        | some v => putBytes s a (toBytes n v)
        | none => s
      answerObj s p (.value (BitVec.ofNat 256 old) false)
  | .retire => retireAdmission s p

/-- The module control object at the I/O die (R202): words of BAR0, narrower stores merged into them. -/
def applyModule (s : State) (p : ObjPkt) : State :=
  let elem (i : Nat) : Nat := p.sub * 512 + p.off / 8 + i
  let write (s : State) (i : Nat) (x : Word) (m : Word) : State :=
    match moduleOffset (elem i) with
    | some o =>
      let v := (x &&& m) ||| (moduleRead s (elem i) &&& ~~~m)
      follow s (if o = 0x300100 then .rholdWrite v p.req else .registerWrite o v 2 0)
    | none => s
  match p.op with
  | .load n => answerObj s p (ansWord (BitVec.ofNat 64 ((moduleRead s (elem 0)).toNat / 2 ^ (8 * (p.off % 8)) % 2 ^ (8 * n))))
  | .vbcast n _ =>
    answerObj s p (ansWord (BitVec.ofNat 64 ((moduleRead s (elem 0)).toNat / 2 ^ (8 * (p.off % 8)) % 2 ^ (8 * n))))
  | .vload mask =>
    let l := (List.range 4).map fun i => moduleRead s (elem i)
    let x := ofBytes ((List.range 32).map fun i => if mask.getLsbD i then (l.getD (i / 8) 0).extractLsb' (8 * (i % 8)) 8 else 0)
    answerObj s p (.value (BitVec.ofNat 256 x) false)
  | .store n x =>
    let sh := 8 * (p.off % 8)
    let s := write s 0 (x <<< sh) (BitVec.ofNat 64 (2 ^ (8 * n) - 1) <<< sh)
    if moduleOffset (elem 0) = some 0x300100 then s else answerObj s p (ansWord 0)
  | .vstore mask x =>
    answerObj ((List.range 4).reverse.foldl (fun s i =>
      let m : Word := BitVec.ofNat 64 (ofBytes ((List.range 8).map fun b => if mask.getLsbD (8 * i + b) then 0xFF#8 else 0#8))
      if m = 0 then s else write s i (x.extractLsb' (64 * i) 64) m) s) p (ansWord 0)
  | _ => answerObj s p (ansWord 0)

/-- The posted accesses that a frame's owner has accepted and not yet admitted, in arrival order. -/
def postedAt (s : State) (f : Thr) : List ObjPkt :=
  (stepsUnderWay s).filterMap fun e => match e with
    | .admission p => if p.req = 0 && p.frame = f then some p else none
    | _ => none

/-- What was posted to a frame and accepted comes before the swap that takes its sub-tile away: it is admitted there (R110, R174,
log 60). -/
def admitPosted (s : State) (f : Thr) : State :=
  (postedAt s f).foldl (fun s p => if frameFits s p then applyOp s p else s) s

/-- Reserved bits of the handler table, handle 3, discard what is written (R5, R107). -/
def clearReserved (s : State) (a n : Nat) : State :=
  (wordsOf a n).foldl (fun s w => if w / 8 % 2 = 1 then { s with mem := Memory.put s.mem w (toBytes 8 (bits (getWord s w) 0 2)) } else s) s

/-- Step ADMISSION: the frame is checked again, since a change may have been admitted before it (R104, R171). -/
def admitAccess (s : State) (p : ObjPkt) : State :=
  let f := p.frame
  if p.handle = Config.moduleObj then applyModule s p
  else if stackDown s (stackOf f.core) then downAnswer s p
  else
    let s := touchFrame s f
    if !frameFits s p then (if p.req = 0 then s else redirect s p)
    else if frameUse s f.core f.row = 2 && p.op ≠ .retire then modCore s f.core fun c => { c with moving := c.moving ++ [p] }
    else
      let s := applyOp s p
      if p.handle = 3 && !opReads p.op then clearReserved s (pktAddr p) (opWidth p.op) else s
def execAdmission (s : State) : Out :=
  match s.doing with | some (.admission p) => .next (echoes (admitAccess s p)) | _ => .next s

/-! ## Fence probes (R112, R196) -/

/-- Step FENCE_PROBE: the probe waits at the tile, or the I/O die, until its echo is due. -/
def fenceProbe (s : State) (id tile seq : Nat) : State :=
  match findReq s id with
  | none => s
  | some r =>
    let my := tileOf r.thr.core
    if tile = ioDie then { s with io := { s.io with probes := s.io.probes ++ [(id, my, seq)] } }
    else modTile s tile fun t => { t with probes := t.probes ++ [(id, my, seq)] }
def execFenceProbe (s : State) : Out :=
  match s.doing with | some (.fenceProbe id tile seq) => .next (echoes (fenceProbe s id tile seq)) | _ => .next s

/-- Step PROBE_ECHO.  For the I/O die the step says that the other modules have acknowledged what left before the
probe arrived (R196). -/
def probeEcho (s : State) (id tile : Nat) : State :=
  match findReq s id with
  | none => s
  | some r =>
    let my := tileOf r.thr.core
    let s := if tile = ioDie then
        match s.io.probes.find? fun p => p.1 = id with
        | none => s
        | some p => { s with io := { s.io with probes := s.io.probes.filter (fun q => q.1 ≠ id)
                                               outbound := s.io.outbound.filter fun o => !(o.tile = p.2.1 && o.seq < p.2.2) } }
      else modTile s tile fun t => { t with probes := t.probes.filter fun q => q.1 ≠ id }
    send s .rsp tile my (.run (.fenceEcho id tile))
def execProbeEcho (s : State) : Out :=
  match s.doing with | some (.probeEcho id tile) => .next (probeEcho s id tile) | _ => .next s

end Sys2Proof.Machine
end

