-- ==== Sys2Proof/Machine/Inbox.lean ====
section
/-! DEFINITION. The inbox (R89, R109, R337 to R340), active messages and the service slot (R106 to R108). -/
namespace Sys2Proof.Machine

/-! ## Entries (R109) -/

def inboxAddr (core e : Nat) : Nat := rowAddr core 84 + Config.inboxBase + 16 * e

/-- The first entry addressed to a row. -/
def firstEntry (s : State) (t : Thr) : Option (Nat × Nat × Option Scope) := (getCore s t.core).ibOrder.find? fun x => x.2.1 = t.row
/-- Entries addressed to a row. -/
def entryCount (s : State) (t : Thr) : Nat := ((getCore s t.core).ibOrder.filter fun x => x.2.1 = t.row).length
/-- A free entry of the inbox. -/
def freeEntry (s : State) (core : Nat) : Option Nat :=
  (List.range Config.inboxSize).find? fun e => !(getCore s core).ibOrder.any fun x => x.1 = e

/-- Write an entry that has room. -/
def putEntry (s : State) (core e : Nat) (m : InboxMsg) : State :=
  let s := putFull s (inboxAddr core e) (toBytes 8 m.w0.toNat ++ toBytes 8 m.w1.toNat)
  modCore s core fun c => { c with ibOrder := c.ibOrder ++ [(e, refRow m.target, m.scope)] }

/-- The two words of an entry, with their poison. -/
def entryAns (s : State) (core e : Nat) : Ans :=
  .value (BitVec.ofNat 256 (getNat s (inboxAddr core e) 16)) (runPoisoned s (inboxAddr core e) 16)

/-- A parked IBRECV takes the first entry of its row (R339), and a PARK ends (R376). -/
def takeEntry (s : State) (t : Thr) : State :=
  let s := wakePark s t
  match s.reqs.find? (fun r => r.thr = t && !r.held && (match r.insn with | .ibrecv _ => true | _ => false)), firstEntry s t with
  | some r, some (e, _) =>
    if tstate s t = stParked then
      let s := touch s (inboxAddr t.core e) 16
      let a := entryAns s t.core e
      replyArrives (modCore s t.core fun c => { c with ibOrder := c.ibOrder.filter fun x => x.1 ≠ e }) r.id a
    else s
  | _, _ => s

/-- The sender of a message is answered: it has been written, or discarded (R106). -/
def answerMessage (s : State) (m : InboxMsg) : State :=
  if m.kind = .message ∧ m.req ≠ 0 then answer s (tileOf (refCore m.target)) m.req (ansWord 0) else s

/-- Write an entry, and answer the sender of a message (R106). -/
def enterEntry (s : State) (core e : Nat) (m : InboxMsg) : State := answerMessage (putEntry s core e m) m

/-- Entries held at the tile interface move into free entries, in order (R109). -/
def refill : Nat → State → Nat → State
  | 0, s, _ => s
  | n + 1, s, core =>
    match (getCore s core).ibHeld, freeEntry s core with
    | m :: l, some e =>
      refill n (takeEntry (enterEntry (modCore s core fun c => { c with ibHeld := l }) core e m) ⟨core, refRow m.target⟩) core
    | _, _ => s
def refillInbox (s : State) (core : Nat) : State := refill (getCore s core).ibHeld.length s core

/-- Take an entry out. -/
def removeEntry (s : State) (core e : Nat) : State :=
  refillInbox (modCore s core fun c => { c with ibOrder := c.ibOrder.filter fun x => x.1 ≠ e }) core

/-- A new entry wakes the row it is addressed to. -/
def wakeReceiver (s : State) (t : Thr) : State := refillInbox (takeEntry s t) t.core

/-- When a row becomes FREE its entries are discarded (R109), and with them those for it that are still held at the tile interface,
whose senders are answered (DESIGN CHOICE: R109 speaks of the inbox's entries only, log 68). -/
def discardInbox (s : State) (core row : Nat) : State :=
  let gone := (getCore s core).ibHeld.filter fun m => refRow m.target = row
  refillInbox (gone.foldl answerMessage (modCore s core fun c =>
    { c with ibOrder := c.ibOrder.filter (fun x => x.2.1 ≠ row), ibHeld := c.ibHeld.filter fun m => refRow m.target ≠ row })) core

/-! ## Arrival -/

/-- Why an entry is diverted, if it is: the key check of R68 against the addressed row (R106, R116, R133). -/
def inboxPkt (m : InboxMsg) : RowPkt := ⟨m.target, 1, false, m.sender, 0, 0, 0, false, 0⟩
def inboxCheck (s : State) (m : InboxMsg) : Option Nat := rowCheck s (inboxPkt m) .write

/-- The slot of the partition whose supervisor takes a refused trap record: the trapping thread's (R116). -/
def trapSlot (s : State) (m : InboxMsg) : Nat :=
  slotOf s (tileOf (if refDev m.w0 = s.io.devid.toNat then refCore m.w0 else refCore m.target))

/-- What becomes of an entry that cannot be taken (R69, R116, R165). -/
def entryRefused (s : State) (m : InboxMsg) (sub : Nat) : State :=
  let tile := tileOf (refCore m.target)
  match m.kind with
  | .trap => toSupervisor s tile (trapSlot s m) m.w0 m.w1
  | .diversion => countLost s m.req
  | .message =>
    let s := diversion s tile (slotOf s tile) m.target sub m.sender
    if m.req = 0 then s else answer s tile m.req (ansWord 0)
  | .fault | .job | .launch => diversion s tile (slotOf s tile) m.target sub m.sender

/-- A launch not yet placed that will place a thread in a row with the message's key (R62): pinned launches only, since
no other names its rows before placement. -/
def awaitedLaunch (s : State) (ref : Word) : Option LaunchSt :=
  let t := refThr ref
  s.io.launches.find? fun l =>
    (l.state = .queued || l.state = .waiting || l.state = .ready) && l.key = refKey ref && refKey ref ≠ 0
      && bits (l.packet.getD 2 0) 32 2 = 2
      && (let pl := l.packet.getD 3 0
          let count := bits pl 20 20
          let rows := bits (l.packet.getD 2 0) 34 2
          let n := bits (l.packet.getD 2 0) 0 32
          (List.range (min count n)).any fun k =>
            kthPresent s (bits pl 0 20) k = some t.core
              && bits pl 40 7 ≤ t.row && (t.row - bits pl 40 7) % (max rows 1) = 0
              && k + (t.row - bits pl 40 7) / (max rows 1) * count < n)

/-- Hold a message for its launch: up to 16, then RETRY (R62).  Its sender waits until it is written (R106). -/
def holdMessage (s : State) (l : LaunchSt) (m : Msg) : State :=
  if l.msgs.length < Config.heldMessages then modLaunch s l.id fun l => { l with msgs := l.msgs ++ [m] }
  else match findReq s m.req with
    | none => s
    | some r => send s .rsp (tileOf (refCore m.target)) (tileOf r.thr.core) (.run (.retry m.req))

/-- Step INBOX_ENTRY (R106, R109): written, or held at the tile interface until it can be. -/
def inboxArrives (s : State) (m : InboxMsg) : State :=
  let core := refCore m.target
  let tile := tileOf core
  let s := meetKey s (inboxPkt m)
  match inboxCheck s m with
  | some sub =>
    match (if m.kind = .message ∧ sub = 1 then awaitedLaunch s m.target else none) with
    | some l => holdMessage s l ⟨m.target, 0, m.w0, m.w1, 0, false, m.sender, m.req, m.scope⟩
    | none => checkPoison (entryRefused s m sub) (inboxPkt m)
  | none =>
    let hold (s : State) : State := modCore s core fun c => { c with ibHeld := c.ibHeld ++ [m] }
    match freeEntry s core with
    | some e =>
      if (getCore s core).ibHeld.isEmpty then wakeReceiver (enterEntry s core e m) ⟨core, refRow m.target⟩
      else hold s
    | none =>
      if m.kind = .message ∧ Config.interfaceSize ≤ (getCore s core).ibHeld.length then
        match findReq s m.req with
        | none => s
        | some r => send s .rsp tile (tileOf r.thr.core) (.run (.retry m.req))
      else hold s
def execInboxEntry (s : State) : Out :=
  match s.doing with | some (.inboxEntry m) => .next (inboxArrives s m) | _ => .next s

/-! ## Handlers (R107, R108) -/

/-- Byte address of entry h of the partition's handler table, handle 3 (R107, R202). -/
def handlerAddr (s : State) (tile h : Nat) : Option Nat :=
  let slot := slotOf s tile
  match recordNow s slot 3 with
  | none => none
  | some r => (elemAddr s slot (rPlace r) (rExt r 0) (2 * h)).map fun p => rowAddr p.1 p.2.1 + p.2.2

/-- The two words of the entry. -/
def handlerEntry (s : State) (tile h : Nat) : Option (Word × Word) :=
  (handlerAddr s tile h).map fun a => (getWord s a, getWord s (a + 8))

/-- Reading the table's record and the entry meets their stored errors (R99). -/
def touchHandler (s : State) (tile h : Nat) : State :=
  let s := meetRecord s (slotOf s tile) 3
  match handlerAddr s tile h with
  | some a => touch s a 16
  | none => s

/-- Set up the service row and start the handler (R108). -/
def startHandler (s : State) (core : Nat) (m : Msg) (w0 w1 : Word) : State :=
  let t : Thr := ⟨core, 84⟩
  let s := setS s t 1 (refKey m.target ++ 0#2 ++ m.sender)
  let s := setS (setS (setS (setS (setS s t 2 m.target) t 3 m.a) t 4 m.b) t 5 m.c) t 6 (BitVec.ofNat 64 m.h)
  let s := setC s t 1 (BitVec.ofNat 64 (bits w0 32 32 * 4294967296 + bits w0 0 32))
  let s := setC s t 7 (BitVec.ofNat 64 ((refKey m.target).toNat + bits w1 1 1 * 65536))
  let s := setC (setC s t 12 (getPart s (slotOf s (tileOf core))).suprow) t 3 0
  let s := unpark s t
  modCore (setThr s t {}) core fun c => { c with handler := true }

/-- Step ACTIVE_MESSAGE (R106): the handler runs, or waits for the one that runs. -/
def messageArrives (s : State) (m : Msg) : State :=
  let core := refCore m.target
  let tile := tileOf core
  let im : InboxMsg := ⟨.message, m.target, m.a, m.b, m.sender, m.req, m.scope⟩
  let s := meetKey s (inboxPkt im)
  match inboxCheck s im with
  | some sub =>
    match (if sub = 1 then awaitedLaunch s m.target else none) with
    | some l => holdMessage s l m
    | none => checkPoison (entryRefused s im sub) (inboxPkt im)
  | none =>
    let s := touchHandler s tile m.h
    match handlerEntry s tile m.h with
    | none => entryRefused s im 0x04
    | some (w0, w1) =>
      if bits w1 0 1 = 0 then entryRefused s im 0x04
      else
        let c := getCore s core
        let s := if c.handler || !c.msgs.isEmpty then setCore s core { c with msgs := c.msgs ++ [m] }
          else startHandler s core m w0 w1
        if m.req = 0 then s else answer s tile m.req (ansWord 0)
def execActiveMessage (s : State) : Out :=
  match s.doing with | some (.activeMessage m) => .next (messageArrives s m) | _ => .next s

/-- Step HANDLER_START: the first held message starts.  Its entry is read again when it starts: EN is not looked at again, and a
message whose entry no longer exists is dropped (DESIGN CHOICE: R108 does not say when the entry of a message that waits is read,
log 68). -/
def handlerStarts (s : State) (core : Nat) : State :=
  let c := getCore s core
  match c.msgs with
  | [] => s
  | m :: l =>
    if c.handler then s
    else
      let s := touchHandler (setCore s core { c with msgs := l }) (tileOf core) m.h
      match handlerEntry s (tileOf core) m.h with
      | some (w0, w1) => startHandler s core m w0 w1
      | none => s
def execHandlerStart (s : State) : Out :=
  match s.doing with | some (.handlerStart core) => .next (handlerStarts s core) | _ => .next s

/-! ## The instructions (R337, R339) -/

/-- IBRECV's start: the first entry at once, else it waits for one. -/
def startRecv (s : State) (id : Nat) : State :=
  match findReq s id with
  | none => s
  | some r =>
    match firstEntry s r.thr with
    | none => s
    | some (e, _) =>
      let s := touch s (inboxAddr r.thr.core e) 16
      let a := entryAns s r.thr.core e
      refillInbox (replyArrives (modCore s r.thr.core fun c => { c with ibOrder := c.ibOrder.filter fun x => x.1 ≠ e }) id a) r.thr.core

/-- IBRECV (R89): odd sd traps, and a handler may not use it (R108). -/
def execIbrecv (d : SReg) (s : State) : Out :=
  .next (if isHandler s.cur then trapNow s .illegalInsn
    else if d.getLsbD 0 then trapNow s .illegalReg
    else beyond s 3 0 0 (newReq s (.ibrecv d)) startRecv)

/-- IBPEEK. -/
def execIbpeek (d : SReg) (s : State) : Out :=
  .next (beyond s 1 0x21 0 (newReq s (.ibpeek d)) fun s id =>
    match findReq s id with
    | none => s
    | some r => replyArrives s id (ansWord (BitVec.ofNat 64 (entryCount s r.thr))))

/-- IBDROP. -/
def execIbdrop (s : State) : Out :=
  .next (beyond s 1 0x21 0 (newReq s .ibdrop) fun s id =>
    match findReq s id with
    | none => s
    | some r =>
      let s := match firstEntry s r.thr with
        | none => s
        | some (e, _) => removeEntry s r.thr.core e
      replyArrives s id (ansWord 0))

end Sys2Proof.Machine
end

