-- ==== Sys2Proof/Machine/RowSpace.lean ====
section
/-! DEFINITION. Row-space instructions (R333, R334), MSEND (R337) and FENCE (R335). -/
namespace Sys2Proof.Machine

/-- Settled by the tiles or the I/O die in a DOWN stack's place, as a diverted packet is (R190). -/
def settleDown (s : State) (r : Req) (ref : Word) : State :=
  let tile := tileOf r.thr.core
  send (diversion s tile (slotOf s tile) ref 0x07 (refOf s r.thr)) .rsp ioDie tile (.run (.reply r.id (ansWord 0)))

/-- What a row-space instruction does at its target. -/
def rowFnOf : Instr → RowFn
  | .rst .. | .hdl .. => .write
  | .ramoadd .. => .add
  | .rcas .. => .cas
  | _ => .read

/-- Send a row-space request (R333): its reference, word, PRIV and operands. -/
def sendRow (s : State) (id : Nat) : State :=
  match findReq s id with
  | none => s
  | some r =>
    pairHold s r fun s =>
      let ref := r.handle
      let f := rowFnOf r.insn
      let p : RowPkt := ⟨ref, r.z.toNat % 512, r.priv, refOf s r.thr, id, r.x, r.y, false, 0⟩
      let tile := tileOf r.thr.core
      let s := modReq s id fun r => { r with phase := .sent }
      if refDev ref ≠ s.io.devid.toNat then sendOut s r (refDev ref) ref (rowEvent f p) false
      else if stackDown s (stackOf (refCore ref)) then settleDown s r ref
      else send s .req tile (tileOf (refCore ref))
        (if corePresent s (refCore ref) then .arrive (refCore ref) (refRow ref) (rowEvent f p) else .run (rowEvent f p))

/-- .rel and .ar of the R format fence at dom scope (R282, R333). -/
def rFences : ROrder → Bool
  | .rel | .ar => true
  | .plain | .acq => false

/-- A row-space instruction: its reference, the word it names and its operands. -/
def rowAccess (i : Instr) (r : SReg) (w : BitVec 9) (o : ROrder) (regs : List SReg) (mk : State → Req → Req) (s : State) : State :=
  withRegs s (sWords s.cur (r :: regs) ++ (if rFences o then postedWords s.cur else packetWords s.cur)) fun s =>
    beyond s 1 0x1F 0 (mk s { newReq s i with handle := getS s s.cur r, z := w.setWidth 64 })
      (if rFences o then fun s id => withFence s id sendRow else sendRow)

def execRld (d r : SReg) (w : BitVec 9) (o : ROrder) (s : State) : Out :=
  .next (rowAccess (.rld d r w o) r w o [] (fun _ q => q) s)
def execRst (d r : SReg) (w : BitVec 9) (o : ROrder) (s : State) : Out :=
  .next (rowAccess (.rst d r w o) r w o [d] (fun s q => { q with x := getS s s.cur d }) s)
/-- HDL is RST to c0 (R333). -/
def execHdl (d r : SReg) (o : ROrder) (s : State) : Out :=
  .next (rowAccess (.hdl d r o) r 496 o [d] (fun s q => { q with x := getS s s.cur d }) s)
def execRamoadd (d r : SReg) (w : BitVec 9) (o : ROrder) (s : State) : Out :=
  .next (rowAccess (.ramoadd d r w o) r w o [d] (fun s q => { q with x := getS s s.cur d }) s)
/-- RCAS with an odd sd traps (R334); with sd 0 it compares against 0. -/
def execRcas (d r : SReg) (w : BitVec 9) (o : ROrder) (s : State) : Out :=
  .next (if d.getLsbD 0 then trapNow s .illegalReg
    else rowAccess (.rcas d r w o) r w o [d, nextReg d] (fun s q => { q with x := getS s s.cur d, y := getS s s.cur (nextReg d) }) s)

/-! ## MSEND (R337) -/

/-- The scope of a release message (R338). -/
def scopeOf : Order → Option Scope
  | .rel k | .ar k | .acq k => some k
  | .plain => none

/-- Send a message: T in handle, h in coord, the payload in x, y and z. -/
def sendMsg (s : State) (id : Nat) : State :=
  match findReq s id with
  | none => s
  | some r =>
    pairHold s r fun s =>
      let ref := r.handle
      let h := bits r.coord 0 8
      let sc := match r.insn with | .msend _ _ _ o => scopeOf o | _ => none
      let e : Event := if h = 0 then .inboxEntry ⟨.message, ref, r.x, r.y, refOf s r.thr, id, sc⟩
        else .activeMessage ⟨ref, h, r.x, r.y, r.z, r.priv, refOf s r.thr, id, sc⟩
      let tile := tileOf r.thr.core
      let s := modReq s id fun r => { r with phase := .sent }
      if refDev ref ≠ s.io.devid.toNat then sendOut s r (refDev ref) ref e false
      else if stackDown s (stackOf (refCore ref)) then settleDown s r ref
      else send s .req tile (tileOf (refCore ref)) (if corePresent s (refCore ref) then .arrive (refCore ref) 84 e else .run e)

/-- MSEND: ap 31 has no third register (R337). -/
def execMsend (d a : SReg) (p : Pair) (r : Order) (s : State) : Out :=
  .next (if p = 31 then trapNow s .illegalReg
    else withRegs s (sWords s.cur [d, a, pairEven p, pairOdd p, pairOdd p + 1]
        ++ (if fences r then postedWords s.cur else packetWords s.cur)) fun s =>
      let t := s.cur
      beyond s 1 0x21 0
        { newReq s (.msend d a p r) with handle := getS s t d, coord := getS s t a, x := getS s t (pairEven p)
                                         y := getS s t (pairOdd p), z := getS s t (pairOdd p + 1) }
        (if fences r then fun s id => withFence s id sendMsg else sendMsg))

/-! ## FENCE (R335) -/

/-- FENCE full and rel: the probes, and completion when all have echoed. -/
def fenceInsn (i : Instr) (s : State) : State :=
  withRegs s [cAddr s.cur 4] fun s =>
    withRegs s (if getC s s.cur 4 = 0 then [] else [cAddr s.cur 7]) fun s =>
      beyond s 1 0x20 0 (newReq s i) fun s id => withFence s id fun s id => replyArrives s id (ansWord 0)
def execFence (k : Scope) (s : State) : Out := .next (fenceInsn (.fence k) s)
def execFenceRel (k : Scope) (s : State) : Out := .next (fenceInsn (.fenceRel k) s)
/-- FENCE.acq completes at once (R112). -/
def execFenceAcq (k : Scope) (s : State) : Out :=
  .next (withRegs s [cAddr s.cur 4] fun s => beyond s 1 0x20 0 (newReq s (.fenceAcq k)) fun s id => replyArrives s id (ansWord 0))

end Sys2Proof.Machine
end

