-- ==== Sys2Proof/Machine/Objects.lean ====
section
/-! DEFINITION. Object management (R331, R332): OBJQ (R156), COMMIT and DECOMMIT (R136, R137), ALLOC and FREE (R135, R168),
FILLC (R169), RELOC (R170 to R173), OBJSYNC (R155), and the steps CLAIM, RELOC_COPY and OBJSYNC_DROP. -/
namespace Sys2Proof.Machine

/-! ## Records and classes (R152, R331) -/

/-- The record of an operation, checked as R152 does: handle, validity, class. -/
def opRecord (s : State) (slot : Nat) (src : Src) (key : BitVec 16) (priv : Bool) (h : Word) (cls : Nat) (k : Rec → Tr) : Tr :=
  if bits h 32 32 ≠ 0 then objNull
  else withRecord s slot src h.toNat fun r =>
    let go (ok : Bool) : Tr := if !ok then .trap .objPerm noSub else k r
    if rKind r = 4 then
      if !recOk s slot r then objNull
      else withRecord s slot src (bits (rw r 4) 0 32) fun p =>
        withSound s slot src (bits (rw r 4) 0 32) p
          (if !parentOk r p then objNull else go (grants r key priv cls && grants p key priv cls))
    else withSound s slot src h.toNat r (go (grants r key priv cls))

/-- The instructions of major 0x1E but OBJQ and OBJSYNC. -/
def isOp : Instr → Bool
  | .commit .. | .decommit .. | .alloc .. | .free .. | .reloc .. | .fillc .. => true
  | _ => false

/-- The class of an operation (R331). -/
def opClass : Instr → Nat
  | .reloc .. => 5
  | _ => 4

/-- The sub-tile that an operation names; none when it is out of shape (R136, R169, R170). -/
def opSub (r : Req) (x : Rec) : Option Nat :=
  match r.insn with
  | .fillc .. => if bits r.coord 33 31 = 0 ∧ bits r.coord 0 32 < rCount x then some (bits r.coord 0 32) else none
  | _ => if r.coord.toNat < rCount x then some r.coord.toNat else none

/-! ## Allocators (R135, R167, R168) -/

/-- The stack that ALLOC takes from (R135). -/
def allocStack (s : State) (key : Nat) (n : Word) : Nat :=
  if n.toNat < 16 then n.toNat
  else (List.range 16).foldl (fun m k => if (getPool s m key).free.length < (getPool s k key).free.length then k else m) 0

/-- A frame reference as core × 128 + row.  It must be the one that ALLOC gives, KEY 0 included (DESIGN CHOICE, log 71: R136 and R168
say only "frame sa"). -/
def frameOf (s : State) (w : Word) : Option Nat :=
  if w = plainRef s (refThr w) then some (w.toNat % 134217728) else none

/-- The mode word of FREE has no meaning (R168). -/
def badFreeMode (mode : Word) : Bool :=
  3 < bits mode 0 8 || bits mode 12 52 ≠ 0 || (bits mode 0 8 ≠ 3 && bits mode 8 4 ≠ 0)

/-- FREE on a pool (R168): the new state and sd. -/
def freeOp (s : State) (slot h : Nat) (r : Rec) (mode sa : Word) : State × Word :=
  let key := poolKey slot h
  let m := bits mode 0 8
  if badFreeMode mode then (s, 0xFFFFFFFFFFFFFFFE#64)
  else if m = 3 then (s, BitVec.ofNat 64 (getPool s (bits mode 8 4) key).free.length)
  else match frameOf s sa with
    | none => (s, 1)
    | some f =>
      let t : Thr := ⟨f / 128, f % 128⟩
      if m = 1 then
        if corePresent s t.core && isFreeRow s t.core t.row && inSlot s slot (tileOf t.core) && (rw r 8).getLsbD (stackOf t.core) then
          (noteFree (pushFrame (setFrame (zeroRow s t.core t.row) t.core t.row 0 0 0 3 false) key f) t.core, 0)
        else (s, 1)
      else if !isAllocated s key f then (s, 1)
      else if m = 0 then (pushFrame s key f, 0)
      else (noteFree (takeFrame (setFrame (zeroRow s t.core t.row) t.core t.row 0 0 0 0 false) key f) t.core, 0)

/-! ## Starting an operation at its tile -/

/-- What an operation finds in its record: the answer it has at once, or the entry whose owner it must ask. -/
def translateOp (s : State) (slot : Nat) (src : Src) (r : Req) : Tr :=
  opRecord s slot src r.key r.priv r.handle (opClass r.insn) fun x =>
    match r.insn with
    | .alloc .. => if rKind x ≠ 5 then .answer 0 else .zero
    | .free .. => if rKind x ≠ 5 then .answer (BitVec.allOnes 64) else .zero
    | _ =>
      if rKind x ≠ 2 then .answer 3
      else match opSub r x with
        | none => .trap .outOfShape noSub
        | some n => .place r.handle.toNat n 0 0 ⟨0, 0⟩ 0 0

/-- The stack whose allocator ALLOC or FREE asks (R135, R168). -/
def allocatorStack (s : State) (r : Req) : Nat :=
  match r.insn with
  | .alloc .. => allocStack s (poolKey (slotOf s (tileOf r.thr.core)) r.handle.toNat) r.coord
  | _ => if bits r.coord 0 8 = 3 then bits r.coord 8 4 else stackOf (refCore r.x)

/-- A mode without meaning asks no allocator (R168). -/
def asksAllocator (r : Req) : Bool :=
  match r.insn with
  | .alloc .. => true
  | _ => !badFreeMode r.coord

/-- The allocator's part of ALLOC and FREE, with the reply (R135, R168). -/
def allocatorOp (s : State) (r : Req) : State :=
  let slot := slotOf s (tileOf r.thr.core)
  let h := r.handle.toNat
  let key := poolKey slot h
  let k := allocatorStack s r
  match r.insn with
  | .alloc .. =>
    let p := popFrame s k key
    answer p.1 (k * 128) r.id (ansWord (match p.2 with | some f => plainRef s ⟨f / 128, f % 128⟩ | none => 0))
  | _ =>
    let s := meetRecord (if bits r.coord 0 8 = 1 then touchFrame s (refThr r.x) else s) slot h
    match recordNow s slot h with
    | none => replyArrives s r.id (.trap .objNull noSub)
    | some x =>
      let p := freeOp s slot h x r.coord r.x
      answer p.1 (k * 128) r.id (ansWord p.2)

/-- An operation whose allocator, or whose entry's owner, is on a stack that is DOWN traps (R115, R190). -/
def opOnDown (s : State) (slot : Nat) (r : Req) : Tr → Tr
  | .zero => if asksAllocator r && stackDown s (allocatorStack s r) then .trap .stackDown noSub else .zero
  | .place h n gen dev f off lanes =>
    match entryAddr s slot h n with
    | none => objNull
    | some a => if stackDown s (stackOf (coreOfAddr a)) then .trap .stackDown n else .place h n gen dev f off lanes
  | x => x

/-- Go on with an operation at its tile: records, class, then the allocator or the entry's owner (R160, R190). -/
def opStart (s : State) (id : Nat) : State :=
  match findReq s id with
  | none => s
  | some r =>
    let tile := tileOf r.thr.core
    let slot := slotOf s tile
    let s := useRecords s tile r.handle.toNat
    let x := opOnDown s slot r (translateOp s slot (tileSrc s tile none false) r)
    let ws := match x with
      | .zero => if asksAllocator r then packetWords r.thr else []
      | .place .. => packetWords r.thr
      | _ => []
    let s := ws.foldl touchWord s
    if (r.bad && x.sound) || ws.any (isPoisoned s) then consumeData s r
    else match x with
    | .zero => allocatorOp (modReq s id fun r => { r with phase := .sent }) r
    | .place h n .. =>
      let a := (entryAddr s slot h n).getD 0
      let core := coreOfAddr a
      send (modReq s id fun r => { r with oh := h, sub := n, phase := .claim }) .req tile (tileOf core)
        (.arrive core (rowOfAddr a) (.claim id))
    | x => resolve s r x

/-- Translate a request again, whatever its kind. -/
def retranslate (s : State) (id : Nat) (ovr : Option (Nat × Nat × List Word)) : State :=
  match findReq s id with
  | none => s
  | some r => if isOp r.insn then opStart s id else translateReq s id ovr

/-- An operation of major 0x1E: the pair, the other registers it reads, and its start. -/
def objectOp (i : Instr) (p : Pair) (fence : Bool) (regs : List SReg) (mk : State → Req → Req) (s : State) : State :=
  withData s (if fence then postedWords s.cur else []) (sWords s.cur (pairEven p :: pairOdd p :: regs)) fun s bad =>
    let h := getS s s.cur (pairEven p)
    beyond s 1 0x1E (h &&& 0xFFFFFFFF)
      (mk s { newReq s i with handle := h, coord := getS s s.cur (pairOdd p), bad := bad })
      (if fence then fun s id => withFence s id opStart else opStart)

/-- OBJQ (R156). -/
def execObjq (d a : SReg) (p : Pair) (s : State) : Out :=
  .next (objAccess (.objq d a p) p .plain (sWords s.cur [a]) 1 0x1E (fun s q => { q with x := getS s s.cur a }) (startAccess .plain) s)
def execCommit (d a : SReg) (p : Pair) (s : State) : Out :=
  .next (objectOp (.commit d a p) p true [a] (fun s q => { q with x := getS s s.cur a }) s)
def execDecommit (d : SReg) (p : Pair) (s : State) : Out := .next (objectOp (.decommit d p) p false [] (fun _ q => q) s)
def execAlloc (d : SReg) (p : Pair) (s : State) : Out := .next (objectOp (.alloc d p) p false [] (fun _ q => q) s)
/-- FREE: PRIV for modes 1 and 2 comes first (R168). -/
def execFree (d a : SReg) (p : Pair) (s : State) : Out :=
  .next (withRegs s (sWords s.cur [pairOdd p]) fun s =>
    let m := bits (getS s s.cur (pairOdd p)) 0 8
    if (m = 1 ∨ m = 2) ∧ !isPriv s s.cur then trapNow s .priv
    else objectOp (.free d a p) p false [a] (fun s q => { q with x := getS s s.cur a }) s)
def execReloc (d a : SReg) (p : Pair) (s : State) : Out :=
  .next (objectOp (.reloc d a p) p false [a] (fun s q => { q with x := getS s s.cur a }) s)
def execFillc (d a : SReg) (p : Pair) (s : State) : Out :=
  .next (objectOp (.fillc d a p) p true [a] (fun s q => { q with x := getS s s.cur a }) s)

/-! ## OBJSYNC (R155, R332) -/

/-- The drop after OBJSYNC's fence. -/
def syncDrop (s : State) (id : Nat) : State :=
  match findReq s id with
  | none => s
  | some r => startDrop s id (slotOf s (tileOf r.thr.core)) r.handle.toNat

/-- OBJSYNC's checks and start. -/
def startSync (s : State) (id : Nat) : State :=
  match findReq s id with
  | none => s
  | some r =>
    let slot := slotOf s (tileOf r.thr.core)
    if r.handle = 0 ∨ (getPart s slot).objext.toNat / 16 ≤ r.handle.toNat then replyArrives s id (.trap .objNull noSub)
    else withFence s id syncDrop
def execObjsync (d : SReg) (p : Pair) (s : State) : Out :=
  .next (if !isPriv s s.cur then trapNow s .priv
    else withRegs s (sWords s.cur [pairEven p] ++ postedWords s.cur) fun s =>
      let h := getS s s.cur (pairEven p)
      beyond s 1 0x1E (h &&& 0xFFFFFFFF) { newReq s (.objsync d p) with handle := h } startSync)

/-- A walk of the record or of an entry of a handle. -/
def walkOf (h : Nat) : WalkAddr → Bool
  | .record k | .entry k _ => k = h

/-- Step OBJSYNC_DROP (R149, R155): cache entries and code rows of the handle go, walks of it that are out bring nothing, and the
echo waits for what the tile translated before. -/
def objsyncDropped (s : State) (id tile h : Nat) : State :=
  let s := modTile (dropHandle s tile h) tile fun t =>
    { t with walking := t.walking.map fun x => if walkOf h x.addr then { x with stale := true } else x }
  let mine := s.cores.filter fun c => tileOf c.1 = tile
  let s := mine.foldl (fun s c => modCore s c.1 fun x =>
    let gone := (x.code.filter fun y => y.handle = h).map (·.row)
    { x with code := x.code.filter (fun y => y.handle ≠ h), buffers := x.buffers.filter fun b => !gone.contains b }) s
  modTile { s with nextSeq := s.nextSeq + 1 } tile fun t => { t with drops := t.drops ++ [(id, s.nextSeq)] }
def execObjsyncDrop (s : State) : Out :=
  match s.doing with
  | some (.objsyncDrop id tile h) => .next (echoes (objsyncDropped s id tile h))
  | _ => .next s

/-! ## CLAIM (R136, R137, R159, R160, R169 to R171) -/

/-- Send the retirement of a RESIDENT sub-tile to its frame's owner (R137, R169). -/
def sendRetire (s : State) (r : Req) (w0 : Word) (src : Nat) : State :=
  let f := refThr (BitVec.ofNat 64 (entFrame w0))
  let p : ObjPkt := ⟨r.oh, r.sub, entGen w0, f, 0, .retire, r.id, tileOf r.thr.core, s.nextSeq, tileOf f.core⟩
  let s := modReq { s with nextSeq := s.nextSeq + 1 } r.id fun r => { r with phase := .sent }
  if stackDown s (stackOf f.core) then downAnswer s p
  else send s .req src (tileOf f.core) (.run (.objectAccessArrival p))

/-- COMMIT at the entry's owner: frame zeroed and full, its state, the entry (R136). -/
def commitAt (s : State) (slot : Nat) (r : Req) (x : Rec) (a f : Nat) (w0 : Word) : State :=
  let t : Thr := ⟨f / 128, f % 128⟩
  let g := nextGen (entGen w0)
  let s := dropGranules (zeroRow s t.core t.row) t.core t.row
  let s := setFrame s t.core t.row r.oh r.sub g 1 (rCache x)
  let s := writeEntry (takeFrame s (poolKey slot (rPool x)) f) a (mkEntry (refOf s t).toNat g 1) 0
  let s := releaseWalks s (tileOf (coreOfAddr a)) r.oh r.sub
  -- a sub-tile has an owner core now: a near-object launch may wait for it (R47)
  noteFree (finishOp s (tileOf (coreOfAddr a)) r.id slot r.oh (entGen w0 = 16383) 0) t.core

/-- The object access that a queued access to a frame is. -/
def admissionOf (f : Thr) : QDo → Option ObjPkt
  | .step (.admission p) => if p.frame = f then some p else none
  | .step _ | .fill | .feed .. => none

/-- The object access to a frame that is at its row buffer. -/
def inService (f : Thr) (x : Sched) : Option ObjPkt :=
  match x.act with
  | .serve _ _ _ a => admissionOf f a
  | .run _ | .arrive .. | .feed .. | .bus .. => none

/-- A frame's accesses leave its core's queue and row buffer, in the order in which they were accepted. -/
def takeQueued (s : State) (f : Thr) : State × List ObjPkt :=
  let c := getCore s f.core
  let l := s.agenda.filterMap (inService f) ++ c.oq.filterMap (fun q => admissionOf f q.act) ++ c.held.filterMap fun q => admissionOf f q.2
  let agenda := s.agenda.map fun x => match x.act with
    | .serve d k row a => if (admissionOf f a).isSome then { x with act := .serve d k row .fill } else x
    | .run _ | .arrive .. | .feed .. | .bus .. => x
  (setCore { s with agenda := agenda } f.core
    { c with oq := c.oq.filter fun q => (admissionOf f q.act).isNone, held := c.held.filter fun q => (admissionOf f q.2).isNone }, l)

/-- Accesses to a frame that stand queued at its core are held for it from now on (R171). -/
def holdQueued (s : State) (f : Thr) : State :=
  let r := takeQueued s f
  modCore r.1 f.core fun c => { c with moving := c.moving ++ r.2 }

/-- RELOC at the entry's owner: MOVING with the new frame, the old frame held (R171 steps 1 and 2). -/
def relocAt (s : State) (slot : Nat) (r : Req) (x : Rec) (a n : Nat) (w0 w1 : Word) : State :=
  let f := refThr (BitVec.ofNat 64 (entFrame w0))
  let s := claimEntry s slot r.oh r.sub
  let s := writeEntry s a (mkEntry (entFrame w0) (entGen w0) 3) (BitVec.ofNat 64 (refOf s ⟨n / 128, n % 128⟩).toNat)
  let s := takeFrame s (poolKey slot (rPool x)) n
  let s := setFrame s f.core f.row r.oh r.sub (entGen w0) 2 (frameCache s f.core f.row)
  let s := holdQueued s f
  let s := modReq s r.id fun r => { r with phase := .moving, tag := w1, frame := n }
  { post s (min (s.delays.headD 1) 1024) (.relocCopy r.id) with delays := s.delays.tail }

/-- Step CLAIM: the entry's owner grants or refuses. -/
def claimArrives (s : State) (id : Nat) : State :=
  match findReq s id with
  | none => s
  | some r =>
    let slot := slotOf s (tileOf r.thr.core)
    match entryAddr s slot r.oh r.sub, recordNow s slot r.oh with
    | some a, some x =>
      let tile := tileOf (coreOfAddr a)
      let s := touch s a 16
      let w0 := getWord s a
      let w1 := getWord s (a + 8)
      let st := entState w0
      let busy := isClaimed s slot r.oh r.sub || st = 3
      let back (n : Word) : State := answer s tile id (ansWord n)
      let frame := frameOf s r.x
      let alloc := match frame with | some f => isAllocated s (poolKey slot (rPool x)) f | none => false
      let down := match frame with | some f => stackDown s (frameStack f) | none => false
      if runPoisoned s a 16 then answer s tile id (.value 0 true)
      else match r.insn with
        | .commit .. =>
          if busy || st ≠ 0 then back 1
          else if !alloc then back 2
          else if down then answer s tile id (.trap .stackDown r.sub)
          else commitAt s slot r x a (frame.getD 0) w0
        | .decommit .. =>
          if busy then back 2
          else if st ≠ 1 then back 1
          else sendRetire (claimEntry s slot r.oh r.sub) r w0 tile
        | .reloc .. =>
          if busy || st ≠ 1 then back 1
          else if !alloc then back 2
          else if down then answer s tile id (.trap .stackDown r.sub)
          else relocAt s slot r x a (frame.getD 0) w0 w1
        | .fillc .. =>
          let g := nextGen (entGen w0)
          let set (st : Nat) (v : Word) : State :=
            finishOp (releaseWalks (writeEntry s a (mkEntry 0 g st) v) tile r.oh r.sub) tile id slot r.oh (entGen w0 = 16383) 0
          if busy then back 2
          else if bits r.coord 32 1 = 1 then (if st = 2 then set 0 0 else back 1)
          else if st = 1 then sendRetire (claimEntry s slot r.oh r.sub) r w0 tile
          else set 2 r.x
        | _ => back 3
    | _, _ => replyArrives s id (.trap .objNull noSub)
def execClaim (s : State) : Out := match s.doing with | some (.claim id) => .next (claimArrives s id) | _ => .next s

/-! ## RELOC_COPY (R171 steps 3 to 6, R173) -/

/-- Forward accepted accesses to a new frame, with the new generation, in order: a wait that one begins is withdrawn there from
then on (R171 step 4, R105). -/
def forwardTo (s : State) (n : Thr) (g : Nat) (l : List ObjPkt) : State :=
  l.foldl (fun s p =>
    let s := if p.req = 0 then s else modReq s p.req fun r => { r with frame := n.core * 128 + n.row, gen := g }
    arrive s n.core n.row (.admission { p with frame := n, gen := g })) s

/-- Forward the accesses held for a frame. -/
def forwardHeld (s : State) (f n : Thr) (g : Nat) : State :=
  let held := (getCore s f.core).moving.filter fun p => p.frame = f
  forwardTo (modCore s f.core fun c => { c with moving := c.moving.filter fun p => p.frame ≠ f }) n g held

/-- The copy streamer asks for the bus of a row's column, for the whole row (R95, R171). -/
def copyBus (s : State) (t : Thr) : State := putBus s t.core (subOf (getCore s t.core) t.row) true 4096

/-- A request of the copy streamer for a row's column is not granted to its end. -/
def copyBusy (s : State) (t : Thr) : Bool := busBusy s t.core (subOf (getCore s t.core) t.row)

/-- Step RELOC_COPY: with a credit at either core, and then with the buses of both columns. -/
def relocCopied (s : State) (id : Nat) : State :=
  match findReq s id with
  | none => s
  | some r =>
    let slot := slotOf s (tileOf r.thr.core)
    match entryAddr s slot r.oh r.sub, recordNow s slot r.oh with
    | some a, some x =>
      let w0 := getWord s a
      let f := refThr (BitVec.ofNat 64 (entFrame w0))
      let n : Thr := ⟨r.frame / 128, r.frame % 128⟩
      let need := if f.core = n.core then 2 else 1
      if r.phase = .moving then
        if freeCredits s f.core < need || freeCredits s n.core < need then post s 1 (.relocCopy id)
        else
          let s := if f.core = n.core then spendCredits s f.core 2 else spendCredits (spendCredits s f.core 1) n.core 1
          post (modReq (copyBus (copyBus s f) n) id fun r => { r with phase := .copying }) 1 (.relocCopy id)
      else if copyBusy s f || copyBusy s n then post s 1 (.relocCopy id)
      else
        let g := nextGen (entGen w0)
        let s := copyRow s f n
        let s := setFrame s n.core n.row r.oh r.sub g 1 (rCache x)
        let s := setFrame (dropGranules s f.core f.row) f.core f.row r.oh r.sub g 3 false
        let s := redirectWaiters (forwardHeld (holdQueued s f) f n g) f.core f.row
        let s := unclaim (writeEntry s a (mkEntry (refOf s n).toNat g 1) r.tag) slot r.oh r.sub
        let s := pushFrame s (poolKey slot (rPool x)) (f.core * 128 + f.row)
        finishOp s (tileOf (coreOfAddr a)) id slot r.oh (entGen w0 = 16383) 0
    | _, _ => replyArrives s id (.trap .objNull noSub)
def execRelocCopy (s : State) : Out :=
  match s.doing with | some (.relocCopy id) => .next (echoes (relocCopied s id)) | _ => .next s

end Sys2Proof.Machine
end

