-- ==== Sys2Proof/Machine/Answers.lean ====
section
/-! DEFINITION. Answers at the issuer's tile and core: walks (R153), REDIRECT (R154), RETRY (R103), the wait limit and
cancel-waits (R78, R87, R105), and replicas' answers (R178, R179, R185, R186). -/
namespace Sys2Proof.Machine

/-! ## Walks and redirects -/

/-- What a walk of an entry brings its tile (R153): one read under a newer record GEN drops the record first, and a RESIDENT entry
of a framed object is cached.  Whether the translations may use it. -/
def cacheWalk (s : State) (p : WalkPkt) (h n : Nat) (words : List Word) : State × Bool :=
  let e := words.take p.count
  match (tileSrc s p.tile none true).recs h with
  | none => (s, true)
  | some r =>
    if bits (words.getD p.count 0) 48 16 ≠ rGen r then (dropHandle s p.tile h, false)
    else (if p.count = 2 && entState (e.getD 0 0) = 1 then cacheEntry s p.tile h n (e.getD 0 0) else s, true)

/-- Step WALK_REPLY (R153): what the walk found is cached where it may be, and the translations that waited for it go on.  A
poisoned walk is consumed by the threads that waited for it, and one that a drop has overtaken is walked again (R155). -/
def walkReplied (s : State) (p : WalkPkt) (x : WalkData) : State :=
  match (getTile s p.tile).walking.find? fun y => y.no = p.no with
  | none => s
  | some y =>
    let s := endWalk s p.tile p.no
    if y.stale then y.waiters.foldl (fun s id => retranslate s id none) s
    else if x.poisoned then y.waiters.foldl (fun s id => replyArrives s id (.value 0 true)) s
    else match p.addr with
      | .record h => y.waiters.foldl (fun s id => retranslate s id none) (cacheRecord s p.tile h x.words)
      | .entry h n =>
        let r := cacheWalk s p h n x.words
        y.waiters.foldl (fun s id => translateReq s id (if r.2 then some (h, n, x.words.take p.count) else none)) r.1
def execWalkReply (s : State) : Out := match s.doing with | some (.walkReply p x) => .next (walkReplied s p x) | _ => .next s

/-- Step REDIRECT_ANSWER (R154): the entry is dropped, walked again and the access resent. -/
def redirected (s : State) (id : Nat) : State :=
  match findReq s id with
  | none => s
  | some r => translateReq (dropEntry s (tileOf r.thr.core) r.oh r.sub) id none
def execRedirectAnswer (s : State) : Out :=
  match s.doing with | some (.redirectAnswer id) => .next (redirected s id) | _ => .next s

/-! ## Withdrawal of a wait (R78, R87, R105) -/

/-- The effect of a CANCELLED answer: WAIT_LIMIT, or, once a command has taken it over, a withdrawal (R78). -/
def waitCancelled (s : State) (r : Req) : State :=
  match r.cw with
  | .stop => runCmds (unpark (dropReq s r.id) r.thr) r.thr
  | .limit | .none => replyArrives s r.id (.trap .waitLimit 0)

/-- Step RETRY (R103): the backoff begins; an operation whose cancel-wait is out is not resent. -/
def retried (s : State) (id : Nat) : State :=
  match findReq s id with
  | none => s
  | some r =>
    let n := r.retries + 1
    let s := modReq s id fun r => { r with retries := n, phase := .backoff }
    if r.cw = .none then post s (256 * 2 ^ min (n - 1) 4) (.retryBackoff id) else s
def execRetry (s : State) : Out := match s.doing with | some (.retry id) => .next (retried s id) | _ => .next s

/-- Step RETRY_BACKOFF: the same operation is resent, by the translation that holds then (R155). -/
def backedOff (s : State) (id : Nat) : State :=
  match findReq s id with
  | none => s
  | some r =>
    if r.phase ≠ .backoff then s
    else match r.insn with
      | .msend .. => sendMsg s id
      | _ => translateReq s id none
def execRetryBackoff (s : State) : Out :=
  match s.doing with | some (.retryBackoff id) => .next (backedOff s id) | _ => .next s

/-- Step WAIT_LIMIT_EXPIRY (R105): in backoff, or before the operation has been sent, it is withdrawn here. -/
def limitExpired (s : State) (id : Nat) : State :=
  match findReq s id with
  | none => s
  | some r =>
    if r.cw ≠ .none || tstate s r.thr ≠ stParked then s
    else if r.phase = .sent then sendCancelWait (modReq s id fun r => { r with cw := .limit }) r
    else waitCancelled s { r with cw := .limit }
def execWaitLimitExpiry (s : State) : Out :=
  match s.doing with | some (.waitLimitExpiry id) => .next (limitExpired s id) | _ => .next s

/-- Step CANCEL_WAIT (R105): the owner removes the requester's entry, or finds none. -/
def cancelWaitArrives (s : State) (id core : Nat) : State :=
  match findReq s id with
  | none =>
    -- a withdrawn LDFF: its entry goes and nobody waits for the answer
    match (getCore s core).waits.find? fun p => p.2 = id with
    | some (e, _) => clearWait s core e
    | none => s
  | some r =>
    let back (s : State) (served : Bool) : State :=
      send s .rsp (tileOf core) (tileOf r.thr.core) (.run (.cancelWaitAnswer id served))
    match (getCore s core).waits.find? fun p => p.2 = id with
    | some (e, _) => back (clearWait s core e) false
    | none => back s true
def execCancelWait (s : State) : Out :=
  match s.doing with | some (.cancelWait id core) => .next (cancelWaitArrives s id core) | _ => .next s

/-- Step CANCEL_WAIT_ANSWER (R87).  After VALUE the operation's reply has come before (R94); one that was redirected or
retried meanwhile is settled where it stands now. -/
def cancelWaitAnswered (s : State) (id : Nat) (served : Bool) : State :=
  match findReq s id with
  | none => s
  | some r =>
    if !served then waitCancelled s r
    else if tstate s r.thr ≠ stParked then s
    else if r.phase = .sent then sendCancelWait s r
    else waitCancelled s r
def execCancelWaitAnswer (s : State) : Out :=
  match s.doing with | some (.cancelWaitAnswer id b) => .next (cancelWaitAnswered s id b) | _ => .next s

/-! ## Majority answers (R178, R179, R185, R186) -/

/-- Answers that count: values, acceptances and NEWER. -/
def counted (l : List (Nat × MajAns)) : List (Nat × MajAns) :=
  l.filter fun p => match p.2 with | .value .. | .accept | .newer => true | .poisoned | .redirect => false

/-- The tag and granule of an answer. -/
def ansPair : MajAns → Word × BitVec 512
  | .value t d => (t, d)
  | .accept | .newer | .poisoned | .redirect => (0, 0)

/-- The pair with the largest tag. -/
def largest (l : List (Nat × MajAns)) : Word × BitVec 512 :=
  l.foldl (fun m p => if tagKey m.1 < tagKey (ansPair p.2).1 then ansPair p.2 else m) ((l.head?.map fun p => ansPair p.2).getD (0, 0))

/-- Merge bytes into a granule (R178). -/
def mergeGranule (g : BitVec 512) (off : Nat) (l : List (Nat × Byte)) : BitVec 512 :=
  let old := toBytes 64 g.toNat
  BitVec.ofNat 512 (ofBytes (old.mapIdx fun i b => match l.find? fun p => off + p.1 = i with | some p => p.2 | none => b))

/-- A majority store. -/
def majStores (r : Req) : Bool := match r.insn with | .sto .. | .vsto .. => true | _ => false

/-- Phase 2 of a store (R178). -/
def majPhase2 (s : State) (r : Req) (seq : Nat) (g : BitVec 512) : State :=
  let r := { r with round := r.round + 1, answers := [], tag := nextTag seq (writerOf r.thr), data := mergeGranule g (r.off % 64) (storeBytes r) }
  let s := modReq s r.id fun _ => r
  (writeReplicas s r.reps).foldl (fun s x => sendReplica s r .write r.tag r.data x) s

/-- A load ends: its value, and the repairs outside its majority (R179). -/
def majLoaded (s : State) (r : Req) (members : List Nat) (p : Word × BitVec 512) : State :=
  let v := loadVec r fun i => p.2.extractLsb' (8 * (r.off % 64 + i)) 8
  let s := replyArrives s r.id (.value v false)
  ((writeReplicas s r.reps).filter fun x => !members.contains x.1).foldl (fun s x => sendReplica s r .repair p.1 p.2 x) s

/-- The members of a load's majority whose tag is older: their answers to the write-back are awaited (R179). -/
def olderMembers (l : List (Nat × MajAns)) (t : Word) : List Nat :=
  (l.filter fun p => tagKey (ansPair p.2).1 < tagKey t).map (·.1)

/-- What the answers so far decide. -/
def majDecide (s : State) (r : Req) : State :=
  let l := counted r.answers
  if r.round % 2 = 1 then
    if r.quorum ≤ l.length then
      let l := l.take r.quorum
      let p := largest l
      if majStores r then
        if tagSeq p.1 = 2 ^ 35 - 1 then replyArrives s r.id (.trap .tagExhausted r.sub)
        else majPhase2 s r (tagSeq p.1) p.2
      else
        let old := olderMembers l p.1
        if old.isEmpty then majLoaded s r (l.map (·.1)) p
        else if r.reps.any fun x => old.contains x.1 && healthOf s (stackOf x.2.1.core) ≠ 0 then
          -- nothing goes to a stack that is DOWN, nor comes back from one in REBUILD (R185): the load gathers another majority
          if (upReplicas s r.reps).length < r.quorum then replyArrives s r.id (.trap .noQuorum r.sub) else majReads s r.id
        else
          let r := { r with round := r.round + 1, answers := l, echoes := old, tag := p.1, data := p.2 }
          let s := modReq s r.id fun _ => r
          (r.reps.filter fun x => old.contains x.1).foldl (fun s x => sendReplica s r .write p.1 p.2 x) s
    else if (upReplicas s r.reps).all fun x => r.lost.contains x.1 || r.answers.any fun a => a.1 = x.1 then
      replyArrives s r.id (.value 0 true)
    else s
  else if majStores r then
    if r.quorum ≤ l.length then replyArrives s r.id (ansWord 0) else s
  else if r.echoes.isEmpty then majLoaded s r (r.answers.map (·.1)) (r.tag, r.data)
  else s

/-- Step MAJORITY_ANSWER: an answer of an earlier round does not count; one that is on its way when its stack goes DOWN does
(R188). -/
def majAnswered (s : State) (p : MajPkt) (a : MajAns) : State :=
  match findReq s p.req with
  | none => s
  | some r =>
    if r.phase ≠ .majority || r.round ≠ p.round then s
    else if a = .redirect then translateReq s r.id none
    else if r.round % 2 = 0 && !majStores r then
      let r := { r with echoes := r.echoes.filter (· ≠ p.replica) }
      majDecide (modReq s r.id fun _ => r) r
    else if r.answers.any fun x => x.1 = p.replica then s
    else
      let r := { r with answers := r.answers ++ [(p.replica, a)] }
      majDecide (modReq s r.id fun _ => r) r
def execMajorityAnswer (s : State) : Out :=
  match s.doing with | some (.majorityAnswer p a) => .next (majAnswered s p a) | _ => .next s

end Sys2Proof.Machine
end

