-- ==== Sys2Proof/Machine/Activate.lean ====
section
/-! DEFINITION. The steps of the treadle: activations, closes, windows, credits, refresh, code rows and gating (R12 to R17,
R28, R32, R35 to R38, R79, R81, R82). -/
namespace Sys2Proof.Machine

/-- The row of a subarray is open for its thread: a held reply and waiting commands come before its first issue (R28), and so
does a refresh that fell due meanwhile (R37). -/
def rowOpened (s : State) (core k row : Nat) : State :=
  let t : Thr := ⟨core, row⟩
  let s := writeHeld s t
  refreshNow (if (getThr s t).long.isNone && tstate s t ≠ stParked then runCmds s t else s) core k

/-- Step REFRESH_END (R15): the row reopens without a credit; a reply that came meanwhile is written (R28). -/
def refreshEnd (s : State) (core k : Nat) : State :=
  match (getSub s core k).mode with
  | .refreshing (some r) => rowOpened (modSub s core k fun x => { x with mode := .opened r }) core k r
  | .refreshing none => kick (modSub s core k fun x => { x with mode := .closed }) core k
  | _ => s

/-- Step ROW_ACTIVATION (R12): the treadle begins to open a waiting row in a closed subarray, or an activation
completes and the row is open for its thread, or for outside accesses (R17, R79). -/
def rowActivation (s : State) (core k : Nat) : State :=
  match (getSub s core k).mode with
  | .closed =>
    match nextRow s core k with
    | some r =>
      if (oldest s core k).isNone && treadleCredit s core r then
        beginActivation (modSub s core k fun x => { x with free := false }) core k r .thread
      else s
    | none => s
  | .activating row p =>
    match p with
    | .thread =>
      let s := modThr (modSub s core k fun x => { x with mode := .opened row }) ⟨core, row⟩ fun c => { c with issued := 0 }
      rowOpened s core k row
    | .reopen => rowOpened (modSub s core k fun x => { x with mode := .opened row }) core k row
    | .serve back => serveNext (modSub s core k fun x => { x with mode := .serving row back Config.windowAccesses }) core k
  | _ => s

def execRowActivation (s : State) : Out :=
  match s.doing with | some (.rowActivation c k) => .next (rowActivation s c k) | _ => .next s
def execRowClose (s : State) : Out := match s.doing with | some (.rowClose c k) => .next (rowClose s c k) | _ => .next s
def execTreadleClose (s : State) : Out :=
  match s.doing with | some (.treadleClose c k) => .next (treadleShut s c k) | _ => .next s
def execQuantumExpiry (s : State) : Out :=
  match s.doing with | some (.quantumExpiry c k) => .next (treadleShut s c k) | _ => .next s
def execMemParkExpiry (s : State) : Out :=
  match s.doing with | some (.memParkExpiry c k) => .next (treadleShut s c k) | _ => .next s
def execOutsideActivation (s : State) : Out :=
  match s.doing with | some (.outsideActivation c k) => .next (outsideActivation s c k) | _ => .next s
def execBorrowWindow (s : State) : Out :=
  match s.doing with | some (.borrowWindow c k) => .next (borrowWindow s c k) | _ => .next s
def execCreditEarned (s : State) : Out :=
  match s.doing with | some (.creditEarned c) => .next (creditEarned s c) | _ => .next s
def execRefresh (s : State) : Out := match s.doing with | some (.refresh c k) => .next (refresh s c k) | _ => .next s
def execRefreshEnd (s : State) : Out := match s.doing with | some (.refreshEnd c k) => .next (refreshEnd s c k) | _ => .next s
def execCodeRowOpen (s : State) : Out :=
  match s.doing with | some (.codeRowOpen c r) => .next (codeRowOpened s c r) | _ => .next s
def execCodeRowFill (s : State) : Out :=
  match s.doing with | some (.codeRowFill c h p) => .next (codeRowFilled s c h p) | _ => .next s
def execCoreGate (s : State) : Out := match s.doing with | some (.coreGate c) => .next (coreGate s c) | _ => .next s
def execCoreWake (s : State) : Out := match s.doing with | some (.coreWake c) => .next (coreWake s c) | _ => .next s

end Sys2Proof.Machine
end

