-- ==== Sys2Proof/Machine/Engine.lean ====
section
/-! DEFINITION. What every engine does with elements: operands (R379), places (R162), reads and writes at the owners (R100,
R162, R194, R275), and the status word (R213). -/
namespace Sys2Proof.Machine

/-- The status word of a job (R213, R259). -/
def statusWord (status oper sub : Nat) : Word := BitVec.ofNat 64 (sub % 4294967296 * 4294967296 + oper * 256 + status)

def stOk : Nat := 0
def stNotResident : Nat := 2
def stInvalid : Nat := 3
def stPoisoned : Nat := 4
def stCancelledJob : Nat := 5
def stNoQuorum : Nat := 8
def stMaj : Nat := 9
def stDown : Nat := 12

/-! ## Operands (R150, R211, R379) -/

/-- An operand: its handle and record, and those of the object that holds its elements. -/
structure Opd where
  h  : Nat
  r  : Rec
  ph : Nat
  p  : Rec
  deriving DecidableEq, Repr

/-- Bytes and type code of an element. -/
def Opd.size (o : Opd) : Nat := codeSize (rEfmt o.p)
def Opd.fmt (o : Opd) : Nat := rEfmt o.p
def Opd.isMaj (o : Opd) : Bool := rKind o.p = 3

/-- A word holds uncorrectable data: POISON, or a double error that this read meets (R99). -/
def spoiled (s : State) (a : Nat) : Bool := isPoisoned s a || s.bitErrs.contains (a, true)

/-- A job reads the records of a handle, and of the table or parent that the record names (R99, R152). -/
def touchRecord (s : State) (slot h : Nat) : State :=
  if s.bitErrs.isEmpty || !handleOk s slot h then s
  else
    let s := meetRecord s slot h
    match recordNow s slot h with
    | some r =>
      let other := match rKind r with | 2 | 3 => rTable r | 4 => bits (rw r 4) 0 32 | _ => 0
      meetRecord s slot other
    | none => s

/-- An operand with the classes it needs; none makes the job INVALID (a code object and an unreadable record among them, R149). -/
def operand (s : State) (slot : Nat) (key : BitVec 16) (priv : Bool) (h : Nat) (cls : List Nat) : Option Opd :=
  let ok (r : Rec) : Bool := cls.all (grants r key priv)
  match validNow s slot h with
  | none => none
  | some r =>
    if (recordWords s slot h).any (spoiled s) then none
    else match rKind r with
    | 1 | 2 | 3 => if ok r then some ⟨h, r, h, r⟩ else none
    | 4 =>
      match validNow s slot (bits (rw r 4) 0 32) with
      | some p => if ok r && ok p then some ⟨h, r, bits (rw r 4) 0 32, p⟩ else none
      | none => none
    | _ => none

/-- Where coordinates lead (R146, R148, R151). -/
inductive Spot | oos | zero | at_ (sub off : Nat)
  deriving DecidableEq, Repr

def spotOf (o : Opd) (c : List Int) : Spot :=
  let into (c : List Int) : Spot := .at_ (subtileOf o.p c).1 (subtileOf o.p c).2
  match applyOspol o.r true c with
  | .trap => .oos
  | .zero => .zero
  | .at c =>
    if rKind o.r = 4 then
      match applyOspol o.p true (mapView o.r c) with
      | .trap => .oos
      | .zero => .zero
      | .at c => into c
    else into c

/-- An element by its rank-1 index (R211). -/
def spotAt (o : Opd) (i : Int) : Spot := if rRank o.r = 1 then spotOf o [i, 0, 0, 0] else .oos

/-! ## Sub-tiles (R162) -/

/-- Where a sub-tile's bytes are. -/
inductive Home
  | place (dev core row gen : Nat)
  | const (x : Word)
  | maj (e : List Word)
  | module
  | notRes
  | down
  /-- The entry cannot be read. -/
  | bad
  deriving DecidableEq, Repr

/-- The words of a sub-tile's entry (R157, R182): of a framed object two, of a majority object four. -/
def entryWords (s : State) (slot : Nat) (o : Opd) (n : Nat) : List Nat :=
  if rKind o.p = 2 || rKind o.p = 3 then
    match entryAddr s slot o.ph n with
    | some a => (List.range (if rKind o.p = 2 then 2 else 4)).map fun i => a + 8 * i
    | none => []
  else []

/-- A job reads the entries of sub-tiles (R99). -/
def touchEntries (s : State) (slot : Nat) (o : Opd) (subs : List Nat) : State :=
  if s.bitErrs.isEmpty then s else subs.foldl (fun s n => (entryWords s slot o n).foldl touchWord s) s

/-- Translate a sub-tile for an engine, which never parks (R162, R190). -/
def homeOf (s : State) (slot : Nat) (o : Opd) (n : Nat) (write : Bool) : Home :=
  if isModule o.ph o.p then .module
  else if rKind o.p = 2 || rKind o.p = 3 then
    match entryAddr s slot o.ph n with
    | none => .notRes
    | some a =>
      if stackDown s (stackOf (coreOfAddr a)) then .down
      else if (entryWords s slot o n).any (spoiled s) then .bad
      else
        let w0 := getWord s a
        if rKind o.p = 3 then (if entState w0 = 1 then .maj (readWords s a 4) else .notRes)
        else match entState w0 with
          | 0 => if rRespol o.p = 2 && !write then .const 0 else .notRes
          | 2 => if write then .notRes else .const (getWord s (a + 8))
          | _ => .place (bits w0 43 19) (refCore (w0 >>> 16)) (refRow (w0 >>> 16)) (entGen w0)
  else match computedPlace s slot o.p n with
    | none => .notRes
    | some (c, r) => .place s.io.devid.toNat c r 0

/-- Replicas that answer: on UP stacks that RHOLD does not hold (R185). -/
def answering (s : State) (o : Opd) (e : List Word) : List (Nat × Thr × Nat) :=
  (upReplicas s (replicasOf o.p e)).filter fun x => !holdsReplicas s (stackOf x.2.1.core)

/-- The fault that a home is (R379 step 3). -/
def homeFault (s : State) (o : Opd) (h : Home) : Option Nat :=
  match h with
  | .notRes => some stNotResident
  | .down => some stDown
  | .bad => some stPoisoned
  | .place dev core _ _ => if dev = s.io.devid.toNat && stackDown s (stackOf core) then some stDown else none
  | .maj e => if (upReplicas s (replicasOf o.p e)).length < rQuorum o.p then some stNoQuorum else none
  | .const _ | .module => none

/-! ## Majority granules (R178, R179, R194) -/

/-- A packet of an engine to a replica. -/
def enginePkt (o : Opd) (e : List Word) (n g : Nat) (op : MajOp) (tag : Word) (data : BitVec 512) (x : Nat × Thr × Nat) : MajPkt :=
  ⟨o.ph, n, bits (e.getD 0 0) 2 14, x.2.1, x.2.2, g, x.1, op, tag, data, 0, 0, 0, 0⟩

/-- The job waits: the sub-tile's entry is claimed or MOVING (R160, R171), or of a majority granule fewer answers than Q count
while RHOLD holds a replica (R185). -/
def homeWaits (s : State) (slot : Nat) (o : Opd) (n : Nat) (grans : List Nat) : Bool :=
  match rKind o.p with
  | 2 => isClaimed s slot o.ph n || (match entryAddr s slot o.ph n with | some a => entState (getWord s a) = 3 | none => false)
  | 3 =>
    match entryNow s slot o.ph n with
    | some e =>
      let up := upReplicas s (replicasOf o.p e)
      let free := answering s o e
      rQuorum o.p ≤ up.length && free.length < up.length && grans.any fun g =>
        (free.filter fun x => match (replicaRead s (enginePkt o e n g .read 0 0 x)).2 with | .value .. => true | _ => false).length < rQuorum o.p
    | none => false
  | _ => false

/-- A job meets a granule at its owner (log 4). -/
def noteGranule (s : State) (read : Bool) (a : Nat) : State :=
  match s.trace with
  | none => s
  | some l => { s with trace := some ((a / 64, read) :: l) }

/-- A job's packet reaches a replica: it meets the data and the tag. -/
def noteReplica (s : State) (read : Bool) (p : MajPkt) : State := noteGranule (noteGranule s read (granuleAddr p)) read (tagAddr p)

/-- Write a pair to every UP and REBUILD replica; one that RHOLD holds gets it on its release. -/
def majPut (s : State) (o : Opd) (e : List Word) (n g : Nat) (tag : Word) (data : BitVec 512) : State :=
  (writeReplicas s (replicasOf o.p e)).foldl (fun s x =>
    let p := enginePkt o e n g .repair tag data x
    if holdsReplicas s (stackOf x.2.1.core) then
      modStack s (stackOf x.2.1.core) fun k => { k with held := k.held ++ [.phase2Write p] }
    else (replicaWrite (noteReplica s false p) p).1) s

/-- The counted answers of the UP replicas to a read of a granule (R185). -/
def majAnswers (s : State) (o : Opd) (e : List Word) (n g : Nat) : State × List (Nat × MajAns) :=
  let r := (answering s o e).foldl (fun (a : State × List (Nat × MajAns)) x =>
    let p := enginePkt o e n g .read 0 0 x
    let y := replicaRead (noteReplica a.1 true p) p
    (y.1, a.2 ++ [(x.1, y.2)])) (s, [])
  (r.1, counted r.2)

/-- Read a granule from the UP replicas: its tag and bytes, or the status of its failure when fewer than Q answers count (R185,
R188). -/
def majGet (s : State) (o : Opd) (e : List Word) (n g : Nat) : State × Except Nat (Word × BitVec 512) :=
  let r := majAnswers s o e n g
  if rQuorum o.p ≤ r.2.length then (r.1, .ok (largest r.2))
  else (r.1, .error (if (upReplicas s (replicasOf o.p e)).length < rQuorum o.p then stNoQuorum else stPoisoned))

/-- A load of a granule with its write-back and repairs (R179). -/
def majLoad (s : State) (o : Opd) (e : List Word) (n g : Nat) : State × Except Nat (BitVec 512) :=
  match majGet s o e n g with
  | (s, .error k) => (s, .error k)
  | (s, .ok p) => (majPut s o e n g p.1 p.2, .ok p.2)

/-- A store of bits into a granule under an engine's writer number: the status of its failure, 0 for none.  A job whose granule's
tags are exhausted loses that granule as it would its quorum (log 39). -/
def majStore (s : State) (o : Opd) (e : List Word) (n g writer : Nat) (x m : BitVec 512) : State × Nat :=
  match majGet s o e n g with
  | (s, .error k) => (s, k)
  | (s, .ok p) =>
    if tagSeq p.1 = 2 ^ 35 - 1 then (s, stNoQuorum)
    else (majPut s o e n g (nextTag (tagSeq p.1) writer) ((p.2 &&& ~~~m) ||| (x &&& m)), 0)

/-! ## Writing (R100, R262) -/

/-- An element that a job writes: its word's address, bits and mask, the sub-tile and its generation, and how many of the job's
elements come before it. -/
structure Put where
  a     : Nat
  x     : Word
  m     : Word
  sub   : Nat
  gen   : Nat
  first : Nat

/-- Writes that a job is about to make: elements, newest first, majority granules (sub-tile × 64 + granule) in the order of the job,
elements of the module control object, and packets to other modules. -/
structure Writes where
  puts  : List Put := []
  grans : List (Nat × BitVec 512 × BitVec 512) := []
  regs  : List (Nat × Word × Word) := []
  far   : List (Nat × ObjPkt) := []

/-- Replace the bits of a mask. -/
def maskIn (old x m : Word) : Word := (old &&& ~~~m) ||| (x &&& m)

/-- Add bits to a word's entry: later bits win. -/
def addWord (l : List (Nat × Word × Word)) (a : Nat) (x m : Word) : List (Nat × Word × Word) :=
  let old := look (0#64, 0#64) l a
  store l a (maskIn old.1 x m, old.2 ||| m)

/-- Add bits to a granule's entry, a new one behind the others. -/
def addGran (l : List (Nat × BitVec 512 × BitVec 512)) (k : Nat) (y m : BitVec 512) : List (Nat × BitVec 512 × BitVec 512) :=
  if l.any fun p => p.1 = k then l.map fun p => if p.1 = k then (k, (p.2.1 &&& ~~~m) ||| (y &&& m), p.2.2 ||| m) else p
  else l ++ [(k, y &&& m, m)]

/-- Add one element's bits, of size bytes at an offset of a sub-tile, behind `first` others. -/
def addElem (s : State) (w : Writes) (o : Opd) (h : Home) (sub off size : Nat) (x m : Word) (first : Nat) : Writes :=
  let sh := 8 * (off % 8)
  match h with
  | .place dev core row gen =>
    if dev = s.io.devid.toNat then
      { w with puts := ⟨rowAddr core row + off / 8 * 8, x <<< sh, m <<< sh, sub, gen, first⟩ :: w.puts }
    else { w with far := w.far ++ [(dev, ⟨o.ph, sub, gen, ⟨core, row⟩, off, .store size x, 0, 0, 0, ioDie⟩)] }
  | .maj _ =>
    { w with grans := addGran w.grans (sub * 64 + off / 64) (x.setWidth 512 <<< (8 * (off % 64))) (m.setWidth 512 <<< (8 * (off % 64))) }
  | .module => { w with regs := addWord w.regs (sub * 512 + off / 8) (x <<< sh) (m <<< sh) }
  | .const _ | .notRes | .down | .bad => w

/-- The bits of an element. -/
def elemMask (size : Nat) : Word := BitVec.ofNat 64 (2 ^ (8 * size) - 1)

/-- Write words: one written whole loses POISON; an engine job sets every one full (R99, R100). -/
def putWords (s : State) (full : Bool) (l : List (Nat × Word × Word)) : State :=
  l.foldl (fun s p =>
    let s := if p.2.2 = BitVec.allOnes 64 then putWord s p.1 p.2.1
      else { s with mem := Memory.put s.mem p.1 (toBytes 8 (maskIn (getWord s p.1) p.2.1 p.2.2).toNat) }
    if full then fillFE s p.1 8 else s) s

/-- Send what leaves the module (R196), whose acknowledgement a job awaits (R262); without a path it is answered as diverted packets
are (R197). -/
def putFar (s : State) (tile : Nat) (thr : Thr) (l : List (Nat × ObjPkt)) : State :=
  l.foldl (fun s p =>
    let ref : Word := BitVec.ofNat 64 (p.1 * 134217728 + p.2.frame.core * 128 + p.2.frame.row)
    if reachable s p.1 then
      let s := leaveModule s tile p.1 ref (refOf s thr) 0 (.objectAccessArrival p.2)
      { s with acting := s.acting.map fun a => { a with far := true } }
    else diversion s tile (slotOf s tile) ref 0x06 (refOf s thr)) s

/-- Store majority granules in order, up to the first that fails: its status and number. -/
def putGrans (slot : Nat) (o : Opd) (writer : Nat) : List (Nat × BitVec 512 × BitVec 512) → State → State × Option (Nat × Nat)
  | [], s => (s, none)
  | p :: l, s =>
    match entryNow s slot o.ph (p.1 / 64) with
    | none => (s, some (stNotResident, p.1))
    | some e =>
      match majStore s o e (p.1 / 64) (p.1 % 64) writer p.2.1 p.2.2 with
      | (s, 0) => putGrans slot o writer l s
      | (s, k) => (s, some (k, p.1))

/-- The access that writes an element. -/
def feedOf (slot : Nat) (o : Opd) (full : Bool) (p : Put) : Feed :=
  { gran := p.a / 64, act := .put full [(p.a, p.x &&& p.m, p.m)], slot := slot, oh := o.ph, sub := p.sub, gen := p.gen
    framed := rKind o.p = 2, first := p.first }

/-- What two writes of one granule write, the later over the earlier. -/
def FeedDo.join : FeedDo → FeedDo → FeedDo
  | .put full l, .put _ r => .put full (r.foldl (fun l v => addWord l v.1 v.2.1 v.2.2) l)
  | a, _ => a

/-- A job writes each granule in one access (R262). -/
def joinFeed (l : List Feed) (f : Feed) : List Feed :=
  if l.any fun g => g.gran = f.gran then l.map fun g => if g.gran = f.gran then { g with act := g.act.join f.act } else g
  else l ++ [f]

/-- The accesses that write elements, in the order of the job: of the gather engine each element is one (R266). -/
def feedsOf (each : Bool) (l : List Feed) : List Feed := if each then l else l.foldl joinFeed []

/-- Write elements: a job's go to their owners, what other units write is in place at once (log 4). -/
def putElems (s : State) (slot : Nat) (o : Opd) (full : Bool) (l : List Put) : State :=
  match s.acting with
  | some a => { s with acting := some { a with out := a.out ++ feedsOf a.each (l.map (feedOf slot o full)) } }
  | none =>
    let s := l.foldl (fun s p => noteGranule s false p.a) s
    let ws := l.foldl (fun ws p => addWord ws p.a p.x p.m) []
    let s := putWords s full ws
    if o.ph = 3 then ws.foldl (fun s w => clearReserved s w.1 8) s else s

/-- A job sends one access. -/
def sendFeed (s : State) (f : Feed) : State := { s with acting := s.acting.map fun a => { a with out := a.out ++ [f] } }

/-- Make the writes of a job into sub-tiles, words full where `full` says so (R100): the status and the number of the majority
granule that failed. -/
def flush (s : State) (slot : Nat) (o : Opd) (subs : List Nat) (tile : Nat) (thr : Thr) (writer : Nat) (full : Bool) (w : Writes) :
    State × Option (Nat × Nat) :=
  let s := putFar (putElems (touchEntries s slot o subs) slot o full w.puts.reverse) tile thr w.far
  let s := w.regs.reverse.foldl (fun s p =>
    match moduleOffset p.1 with
    | some off =>
      let v := maskIn (moduleRead s p.1) p.2.1 p.2.2
      follow s (if off = 0x300100 then .rholdWrite v 0 else .registerWrite off v 2 0)
    | none => s) s
  putGrans slot o writer w.grans s

/-- What CANCELLED, POISONED and STACK_DOWN do to the banks that a matrix job names (R213, R246, R259): an MMUL's accumulator bank is
zeroed, an MLDB's is EMPTY. -/
def loseBanks (t : TileSt) (j : Job) : TileSt :=
  match j.cmd with
  | .mmul .. | .mmulW .. => { t with acc := t.acc.set (bits (j.block.getD 6 0) 0 2) {} }
  | .mldb .. | .mldbW .. => { t with bbanks := t.bbanks.set (bits (j.block.getD 3 0) 0 1) .empty }
  | _ => t

/-- Rows of the writer numbers of a tile's engines: the copy streamer and the gather engine (R194), and, of which the manual says only that
each engine has one of its own (R191), MOUT, the collective unit for a thread of the tile, and on tile 0 the I/O die's FENCE
words (DESIGN CHOICE, log 39). -/
def rowCopy : Nat := 84
def rowGather : Nat := 85
def rowCollective : Nat := 86
def rowMout : Nat := 87
def rowFence : Nat := 88

/-- The writer number of an engine of a tile (R194): index 0 of the tile, and the engine's row. -/
def engineWriter (tile row : Nat) : Nat := tile * 512 * 128 + row

/-! ## Whole sub-tiles, for the distributor (R49, R121) -/

/-- Bytes that the manual gives no value (log 11). -/
def openBytes (s : State) (n : Nat) : State × List Byte :=
  ({ s with fresh := s.fresh + n }, (List.range n).map fun i => Config.freeByte (s.fresh + i))

/-- The bytes of a majority sub-tile (R179); those of a granule that cannot be read are open (DESIGN CHOICE: R49 gives none, log 11). -/
def majBytes (s : State) (o : Opd) (e : List Word) (n : Nat) : State × List Byte :=
  (List.range 64).foldl (fun a g =>
    match majLoad a.1 o e n g with
    | (s, .ok x) => (s, a.2 ++ toBytes 64 x.toNat)
    | (s, .error _) => let y := openBytes s 64; (y.1, a.2 ++ y.2)) (s, [])

/-- A read of the whole of sub-tile n waits: it is changing, or RHOLD holds an answer that it needs (R160, R171, R185). -/
def subtileWaits (s : State) (slot h n : Nat) : Bool :=
  match validNow s slot h with
  | some r => n < rCount r && homeWaits s slot ⟨h, r, h, r⟩ n (List.range 64)
  | none => false

/-- The 4,096 bytes of sub-tile n of an object, with the offsets of its poisoned words; none where it has no such sub-tile.  Of a
sub-tile that is there and that the distributor cannot read the bytes are open (log 11). -/
def subtileBytes (s : State) (slot h n : Nat) : State × Option (List Byte × List Nat) :=
  let s := touchRecord s slot h
  match validNow s slot h with
  | none => (s, none)
  | some r =>
    if rCount r ≤ n || rKind r = 4 || rKind r = 5 then (s, none)
    else
      let o : Opd := ⟨h, r, h, r⟩
      let s := touchEntries s slot o [n]
      let unread : State × Option (List Byte × List Nat) := ((openBytes s 4096).1, some ((openBytes s 4096).2, []))
      match homeOf s slot o n false with
      | .place dev c row _ =>
        if dev ≠ s.io.devid.toNat || stackDown s (stackOf c) then unread
        else
          let a := rowAddr c row
          let s := if s.bitErrs.isEmpty then s else touch s a 4096
          (s, some (getBytes s a 4096, (s.poison.filter fun p => a ≤ p && p < a + 4096).map (· - a)))
      | .const x => (s, some ((List.range 4096).map fun i => x.extractLsb' (8 * (i % 8)) 8, []))
      | .maj e => let y := majBytes s o e n; (y.1, some (y.2, []))
      | .module | .notRes | .down | .bad => unread

/-- Write bytes of a copy at an address, with the poison of their source kept. -/
def putCopy (s : State) (a : Nat) (bs : List Byte) (bad : List Nat) : State :=
  let s := putBytes s a bs
  { s with poison := bad.foldl (fun l p => insertNat (a + p) l) s.poison }

end Sys2Proof.Machine
end

