-- ==== Sys2Proof/Machine/Launch.lean ====
section
/-! DEFINITION. Launch packets (R45, R46), dependence counters (R55 to R57), the completion and the cancelling of launches
(R54, R58), and the queues (R51 to R53). -/
namespace Sys2Proof.Machine

/-! ## The packet (R45) -/

/-- The eight words of a packet. -/
abbrev Packet := List Word

def pw (p : Packet) (i : Nat) : Word := p.getD i 0
def pKind (p : Packet) : Nat := bits (pw p 0) 0 4
def pPrio (p : Packet) : Nat := bits (pw p 0) 4 3
def pPriv (p : Packet) : Bool := bits (pw p 0) 7 1 = 1
def pWaitEn (p : Packet) : Bool := bits (pw p 0) 8 1 = 1
def pDoneEn (p : Packet) : Bool := bits (pw p 0) 9 1 = 1
def pGraphEn (p : Packet) : Bool := bits (pw p 0) 10 1 = 1
def pHold (p : Packet) : Bool := bits (pw p 0) 11 1 = 1
def pNotify (p : Packet) : Bool := bits (pw p 0) 12 1 = 1
def pKey (p : Packet) : BitVec 16 := (pw p 0).extractLsb' 16 16
def pArg (p : Packet) : Nat := bits (pw p 0) 32 32
def pEntry (p : Packet) : Nat := bits (pw p 1) 0 32
def pCode (p : Packet) : Nat := bits (pw p 1) 32 32
def pThreads (p : Packet) : Nat := bits (pw p 2) 0 32
def pPlace (p : Packet) : Nat := bits (pw p 2) 32 2
def pRows (p : Packet) : Nat := bits (pw p 2) 34 2
def pPair (p : Packet) : Bool := bits (pw p 2) 36 1 = 1
def pLivedef (p : Packet) : Nat := bits (pw p 2) 40 8
def pQuant (p : Packet) : Nat := bits (pw p 2) 48 16
def pWaitCtr (p : Packet) : Nat := bits (pw p 6) 0 16
def pDoneCtr (p : Packet) : Nat := bits (pw p 6) 16 16
def pGraphCtr (p : Packet) : Nat := bits (pw p 6) 32 16
def pImage (p : Packet) : Nat := bits (pw p 7) 0 32
/-- A wide thread holds two rows (R45 ROWS). -/
def pWide (p : Packet) : Bool := pRows p = 2

/-! ## Partitions and posting -/

/-- The slot of a partition key; key 0 is no partition's (R51). -/
def keySlot (s : State) (key : BitVec 16) : Option Nat :=
  if key = 0 then none else (s.io.parts.find? fun p => p.2.key = key).map (·.1)

/-- A step of the distributor: the manual gives it no time, so it takes the next time of the free schedule (R380). -/
def postFree (s : State) (e : Event) : State := { post s (s.delays.headD 1) e with delays := s.delays.tail }

/-- A step is on the agenda already. -/
def posted? (s : State) (e : Event) : Bool := s.agenda.any fun x => x.act == .run e

/-- The launches of a partition have changed: loans and placement are looked at again (R59, R60). -/
def poke (s : State) (part : BitVec 16) : State :=
  if posted? s (.priorityLoan part.toNat none 0) then s else post s 0 (.priorityLoan part.toNat none 0)

/-! ## Rings (R51) -/

/-- The record of a queue's ring, when it is a valid one, with its slot.  QSIZE is used as it stands, whether it is 4 to 20 or
not (DESIGN CHOICE: the manual gives a value outside that range no effect, log 63). -/
def ringRec (s : State) (q : QueueSt) : Option (Nat × Rec) :=
  match keySlot s q.part with
  | none => none
  | some slot =>
    match validNow s slot q.base.toNat with
    | none => none
    | some r =>
      if rKind r = 1 && !isModule q.base.toNat r && rRank r = 1 && rEfmt r = 7 && 8 * 2 ^ q.size.toNat ≤ rExt r 0 && grants r q.part false 0 then some (slot, r)
      else none

/-- Byte address of word i of the packet at an index. -/
def ringAddr (s : State) (q : QueueSt) (x : Word) (i : Nat) : Option Nat :=
  match ringRec s q with
  | none => none
  | some (slot, r) =>
    (elemAddr s slot (rPlace r) (rExt r 0) (8 * (x.toNat % 2 ^ q.size.toNat) + i)).map fun p => rowAddr p.1 p.2.1 + p.2.2

/-- The distributor reads a packet (R99). -/
def touchPacket (s : State) (q : QueueSt) (x : Word) : State :=
  if s.bitErrs.isEmpty then s else ((List.range 8).filterMap fun i => ringAddr s q x i).foldl touchWord s

/-- The packet at an index; no words where the ring is invalid or a word is poisoned, so that it is REJECTED (log 40). -/
def ringPacket (s : State) (q : QueueSt) (x : Word) : Packet :=
  let l := (List.range 8).map fun i => ringAddr s q x i
  if l.all fun a => match a with | some a => !spoiled s a | none => false then
    l.map fun a => match a with | some a => getWord s a | none => 0
  else []

/-! ## The state of launches -/

/-- The launch at an index of a queue, until dispatch has passed it. -/
def launchAt (s : State) (q : Nat) (x : Word) : Option LaunchSt :=
  s.io.launches.find? fun l => l.queue = q ∧ l.index = x ∧ l.inRing = true
def dropLaunch (s : State) (id : Nat) : State :=
  { s with io := { s.io with launches := s.io.launches.filter fun l => l.id ≠ id } }

/-- A fresh 24-bit identifier (R373). -/
def freshLaunch (s : State) : Nat :=
  ((List.range (s.io.launches.length + 1)).map fun k => (s.io.nextLaunch - 1 + k) % 16777215 + 1).find?
    (fun n => !s.io.launches.any fun l => l.id = n) |>.getD s.io.nextLaunch

/-- A THREADS packet is in the ring below QTAIL: its launch is QUEUED and has its identifier and KEY (R53, R62). -/
def enterLaunch (s : State) (q : Nat) (x : Word) (p : Packet) (key : BitVec 16) (thr : Option Thr) : State :=
  if pKind p ≠ 1 then s
  else
    let id := freshLaunch s
    let l : LaunchSt :=
      { id := id, queue := q, index := x, packet := p, part := (getQueue s q).part
        key := if pKey p = 0 then key else pKey p, state := .queued, prio := pPrio p, launcher := thr, lkey := key }
    { s with io := { s.io with launches := s.io.launches ++ [l], nextLaunch := id % 16777215 + 1 } }

/-- Enter the packets at n indices from x on, of a ring whose issuers the queue remembers. -/
def enterRange (s : State) (q : Nat) (x : Word) (n : Nat) : State :=
  (List.range n).foldl (fun s k =>
    let y := x + BitVec.ofNat 64 k
    let qs := getQueue s q
    let s := touchPacket s qs y
    match qs.issuers.find? fun i => i.1 = y with
    | some (_, key, t) => enterLaunch s q y (ringPacket s qs y) key (some t)
    | none => enterLaunch s q y (ringPacket s qs y) qs.key none) s

/-! ## Dispatch order (R52) -/

/-- A queue can dispatch. -/
def canDispatch (q : QueueSt) : Bool := q.en && !q.frozen && q.head ≠ q.tail

/-- KIND of the packet at QHEAD. -/
def headKind (s : State) (q : Nat) : Nat :=
  let qs := getQueue s q
  match launchAt s q qs.head with
  | some _ => 1
  | none => pKind (ringPacket s qs qs.head)

/-- Look at a queue's head: the step for its packet comes next, unless one is on its way or the packet waits. -/
def kickQueue (s : State) (q : Nat) : State :=
  let qs := getQueue s q
  if canDispatch qs && qs.hold ≠ .waiting
      && !(posted? s (.dispatch q) || posted? s (.counterPacket q) || posted? s (.fencePacket q)) then
    postFree s (match headKind s q with | 2 => .fencePacket q | 3 => .counterPacket q | _ => .dispatch q)
  else s

/-- Dispatch moves on. -/
def advance (s : State) (q : Nat) : State :=
  kickQueue (modQueue s q fun x => { x with head := x.head + 1, hold := .none }) q

/-- FROZEN (R57). -/
def freezeQueue (s : State) (q : Nat) : State := modQueue s q fun x => { x with frozen := true }

/-- The packet that holds a queue's dispatch waits for its counter no longer. -/
def leaveCounter (s : State) (q : Nat) : State :=
  modQueue { s with io := { s.io with counters := s.io.counters.map fun c =>
    (c.1, { c.2 with waiters := c.2.waiters.filter (· ≠ .queue q) }) } } q fun x => { x with hold := .none }

/-! ## Rows of a launch (R48, R49, R54) -/

/-- A row write that the distributor or the I/O die makes itself reaches its row as an outside access does, for no credit (R36); the bytes
are there at once, and the opening follows (DESIGN CHOICE, log 67). -/
def visit (s : State) (t : Thr) : State :=
  send s .req ioDie (tileOf t.core) (.feed { gran := rowAddr t.core t.row / 64, cls := .system, act := .meet })

/-- Such writes of a thread's row or rows. -/
def visitThread (s : State) (wide : Bool) (t : Thr) : State :=
  if wide then visit (visit s t) ⟨t.core, t.row + 12⟩ else visit s t

/-- Zero the row or rows that start at a place and make it FREE with KEY 0 (R54). -/
def freeRow (s : State) (t : Thr) (wide : Bool) : State :=
  let s := zeroRow (answerStep s t) t.core t.row
  let s := if wide then zeroRow s t.core (t.row + 12) else s
  noteFree (discardInbox (setThr s t {}) t.core t.row) t.core

/-- Free a thread of a launch, with its follower and shadow rows. -/
def freeThread (s : State) (wide : Bool) (t : Thr) : State :=
  let free (s : State) (t : Thr) : State := visitThread (freeRow s t wide) wide t
  let one (s : State) (t : Thr) : State := free (leaveReqs s t) t
  let mine := s.pairs.filter fun p => p.leader = t
  let s := { s with pairs := s.pairs.filter fun p => p.leader ≠ t }
  let s := mine.foldl (fun s p => free (free (one s p.follower) (shadowOf p.follower)) (shadowOf t)) s
  one s t

/-! ## Completion (R54, R57) -/

/-- The completion entry of NOTIFY (R54, R340). -/
def notifyLaunch (s : State) (l : LaunchSt) (status : Nat) : State :=
  match l.launcher with
  | none => s
  | some t => toInbox s (tileOf t.core)
      ⟨.launch, l.lkey ++ 0#2 ++ refOf s t, BitVec.ofNat 64 (65535 * 2 ^ 48 + l.id), BitVec.ofNat 64 status, 0, 0, none⟩

/-- QCOMP of a host-fed queue (R201). -/
def countCompletion (s : State) (q status : Nat) : State :=
  modQueue s q fun x => { x with comp :=
    (x.comp.extractLsb' 32 32 + (if status = 0 then 0 else 1)) ++ (x.comp.extractLsb' 0 32 + 1) }

/-- A counter that the launch's partition may use (R55). -/
def ownsCounter (s : State) (part : BitVec 16) (n : Nat) : Bool := (getCounter s n).owner = part

/-- The last actions of R54: the completion is told to the launching thread or counted at the host-fed queue it came from (R201),
and the launch's slot is freed; a launch that dispatch has not passed keeps its place in the ring until then. -/
def tellLaunch (s : State) (l : LaunchSt) : State :=
  let q := getQueue s l.queue
  let s := if l.launcher.isSome then (if pNotify l.packet then notifyLaunch s l l.status else s)
    else if q.part = l.part then countCompletion s l.queue l.status else s
  let s := if l.inRing then s else dropLaunch s l.id
  kickQueue (poke s l.part) l.queue

/-- A launch becomes COMPLETE (R54): its rows are FREE, then its counters are decremented, with an error token where R57 says so,
and then its completion is told.  Messages held for it go with it (R62). -/
def completeLaunch (s : State) (id status : Nat) (token decrement : Bool) : State :=
  match findLaunch s id with
  | none => s
  | some l =>
    if l.state = .complete then s
    else
      let err := token || status = 2 || status = 3
      let s := if l.state = .placed then l.rows.foldl (fun s t => freeThread s (pWide l.packet) t) s else s
      let s := { s with io := { s.io with counters := s.io.counters.map fun c =>
        (c.1, { c.2 with waiters := c.2.waiters.filter (· ≠ .launch id) }) } }
      let s := l.msgs.foldl (fun s m => if m.req = 0 then s else answer s ioDie m.req (ansWord 0)) s
      let s := if (status = 2 || status = 3) && (getQueue s l.queue).part = l.part then freezeQueue s l.queue else s
      let s := modLaunch s id fun l => { l with state := .complete, status := status, msgs := [] }
      let steps (en : Bool) (n : Nat) : List Event := if decrement && en && ownsCounter s l.part n then [.counterDecrement n err 0] else []
      let decs := steps (pDoneEn l.packet) (pDoneCtr l.packet) ++ steps (pGraphEn l.packet) (pGraphCtr l.packet)
      if decs.isEmpty then tellLaunch s { l with status := status }
      else (decs ++ [Event.launchCompletion id]).reverse.foldl follow s

/-- Step LAUNCH_COMPLETION: every thread has ended, or the counters of a launch that is COMPLETE have been decremented.  A failed
thread decides before a cancel (log 41). -/
def launchCompleted (s : State) (id : Nat) : State :=
  match findLaunch s id with
  | none => s
  | some l =>
    if l.state = .complete then tellLaunch s l
    else if l.state = .placed && l.ended.length = l.rows.length then
      completeLaunch s id (if l.failed then 2 else if l.cancel then 1 else 0) false true
    else s
def execLaunchCompletion (s : State) : Out :=
  match s.doing with | some (.launchCompletion l) => .next (launchCompleted s l) | _ => .next s

/-! ## Cancelling (R58) -/

/-- A heddle CANCEL packet of the I/O die to a row, with the CANCEL instruction that awaits it, 0 for none. -/
def cancelRow (req : Nat) (s : State) (t : Thr) : State :=
  send s .req ioDie (tileOf t.core) (.arrive t.core t.row (.heddleCancel ⟨keyedRef s t, 496, true, 0, 0, 6, BitVec.ofNat 64 req, false, 0⟩))

/-- The distributor writes the stub of a swapped-out thread: CANCELLED, PRIO kept, c10 with 0x3F (R58). -/
def cancelStub (s : State) (t : Thr) : State := visit (setFinfo (setTState s t stCancelled) t 0x3F 0) t

/-- SWAPCTL is busy with the launch (R58, R120). -/
def swapping (s : State) (id : Nat) : Bool := s.io.swapStatus = 1 && s.io.swapLaunch.toNat = id

/-- Cancel a launch.  One whose swap is in progress is cancelled when that ends. -/
def cancelLaunch (req : Nat) (s : State) (id : Nat) : State :=
  match findLaunch s id with
  | none => s
  | some l =>
    match l.state with
    | .complete => s
    | .queued | .waiting | .ready => completeLaunch s id 1 false true
    | .placed =>
      let s := modLaunch s id fun l => { l with cancel := true }
      if swapping s id then s
      else if l.swapped then completeLaunch (l.rows.foldl cancelStub s) id 1 false true
      else l.rows.foldl (cancelRow req) s

/-- Launches that name a counter as their phase or graph. -/
def namedBy (s : State) (n : Nat) (graph : Bool) : List LaunchSt :=
  s.io.launches.filter fun l =>
    if graph then pGraphEn l.packet && pGraphCtr l.packet = n else pDoneEn l.packet && pDoneCtr l.packet = n
/-- Cancel a phase or a graph: CANCEL is set, and every launch that names the counter is cancelled. -/
def cancelNamed (req : Nat) (s : State) (n : Nat) (graph : Bool) : State :=
  let s := modCounter s n fun c => { c with cancel := true }
  (namedBy s n graph).foldl (fun s l => cancelLaunch req s l.id) s

/-! ## Counters (R55 to R57) -/

/-- A launch is READY (R53, R59). -/
def makeReady (s : State) (id : Nat) : State :=
  match findLaunch s id with
  | none => s
  | some l =>
    let s := modLaunch s id fun l => { l with state := .ready, readyAt := s.io.nextReady }
    poke { s with io := { s.io with nextReady := s.io.nextReady + 1 } } l.part

/-- Release one that waits on a counter: with ERRTOK or CANCEL set, a packet completes CANCELLED (R55, R57). -/
def releaseOne (s : State) (c : CounterSt) (w : Waiter) : State :=
  match w with
  | .launch id => if c.errtok || c.cancel then completeLaunch s id 1 c.errtok true else makeReady s id
  | .queue q => kickQueue (modQueue s q fun x => { x with hold := .released (c.errtok || c.cancel) }) q
  | .request id =>
    match findReq s id with
    | none => s
    | some r => send s .rsp ioDie (tileOf r.thr.core) (.run (.reply id (ansWord 0)))

/-- VALUE went to 0: everything that waits is released, in the order in which it began to wait. -/
def releaseCounter (s : State) (n : Nat) : State :=
  let c := getCounter s n
  c.waiters.foldl (fun s w => releaseOne s c w) (modCounter s n fun c => { c with waiters := [] })

/-- A decrement (R55): an error token comes first. -/
def decrementCounter (s : State) (n : Nat) (err : Bool) : State :=
  let c := getCounter s n
  let s := modCounter s n fun c =>
    { c with errtok := c.errtok || err, overrun := c.overrun || c.value = 0, value := if c.value = 0 then 0 else c.value - 1 }
  if c.value = 1 then releaseCounter s n else s

/-- Set a counter, as a COUNTER packet and a host write do (R52, R55). -/
def setCounter (s : State) (n : Nat) (v : BitVec 32) : State :=
  let old := (getCounter s n).value
  let s := modCounter s n fun c => { c with overrun := false, cancel := false, errtok := false, value := v }
  if old ≠ 0 && v = 0 then releaseCounter s n else s

/-- A counter that the issuer's partition does not own is not changed: a diversion record tells the supervisor (R374). -/
def divertCounter (s : State) (r : Req) (n : Nat) : State :=
  diversion s (tileOf r.thr.core) (slotOf s (tileOf r.thr.core)) (BitVec.ofNat 64 n) 0x01 (refOf s r.thr)

/-- Step COUNTER_DECREMENT: of a launch or a job, or of a CNTDEC, which is answered (R374). -/
def counterDecremented (s : State) (n : Nat) (err : Bool) (req : Nat) : State :=
  if req = 0 then decrementCounter s n err
  else match findReq s req with
    | none => s
    | some r =>
      let tile := tileOf r.thr.core
      let s := if ownsCounter s (partKey s tile) n then decrementCounter s n err else divertCounter s r n
      send s .rsp ioDie tile (.run (.reply req (ansWord 0)))
def execCounterDecrement (s : State) : Out :=
  match s.doing with | some (.counterDecrement n e r) => .next (counterDecremented s n e r) | _ => .next s

/-- Step COUNTER_WRITE: a host write; through the PF it sets OWNER too, and a counter whose OWNER changes is cleared first
(R55, R203). -/
def counterWritten (s : State) (n : Nat) (v : Word) (pf : Bool) : State :=
  let owner := v.extractLsb' 48 16
  let s := if pf && owner ≠ (getCounter s n).owner then modCounter (setCounter s n 0) n fun c => { c with owner := owner } else s
  setCounter s n (v.extractLsb' 0 32)
def execCounterWrite (s : State) : Out :=
  match s.doing with | some (.counterWrite n v pf) => .next (counterWritten s n v pf) | _ => .next s

/-! ## COUNTER and FENCE packets (R45, R52) -/

/-- The checks of R45 and R46 on a COUNTER or FENCE packet. -/
def plainPacketOk (s : State) (q : QueueSt) (p : Packet) : Bool :=
  (ringRec s q).isSome && (pw p 0 &&& ~~~0x17F#64) = 0 && pw p 1 = 0 && pw p 2 = 0 && pw p 4 = 0 && pw p 5 = 0
    && bits (pw p 6) 32 32 = 0 && pw p 7 = 0
    && (!pWaitEn p || ownsCounter s q.part (pWaitCtr p))
    && (if pKind p = 2 then pDoneCtr p = 0 else bits (pw p 3) 32 32 = 0 && ownsCounter s q.part (pDoneCtr p))

/-- A packet that is no launch is REJECTED: FROZEN is set (R51, R57). -/
def rejectPlain (s : State) (q : Nat) : State := advance (freezeQueue s q) q

/-- The packet at QHEAD acts once its counter lets it: it waits, completes CANCELLED, or acts. -/
def heldPacket (s : State) (q : Nat) (p : Packet) (act : State → State) : State :=
  let qs := getQueue s q
  match qs.hold with
  | .waiting => s
  | .released true => advance s q
  | .released false => act s
  | .none =>
    if !plainPacketOk s qs p then rejectPlain s q
    else if !pWaitEn p then act s
    else
      let c := getCounter s (pWaitCtr p)
      if c.value ≠ 0 then
        modQueue (modCounter s (pWaitCtr p) fun c => { c with waiters := c.waiters ++ [.queue q] }) q fun x => { x with hold := .waiting }
      else if c.errtok || c.cancel then advance s q
      else act s

/-- Step COUNTER_PACKET; where the queue has been set back meanwhile (R61), the step of the packet now at QHEAD comes. -/
def counterPacketActs (s : State) (q : Nat) : State :=
  let qs := getQueue s q
  let s := touchPacket s qs qs.head
  let p := ringPacket s qs qs.head
  if canDispatch qs && headKind s q = 3 then
    heldPacket s q p fun s => advance (setCounter s (pDoneCtr p) ((pw p 3).extractLsb' 0 32)) q
  else kickQueue s q
def execCounterPacket (s : State) : Out :=
  match s.doing with | some (.counterPacket q) => .next (counterPacketActs s q) | _ => .next s

/-- Where the record word of a FENCE packet stands (R46): slot, object, sub-tile and offset.  No class is checked (DEDUCED: the manual
names no check, log 42). -/
def fenceSpot (s : State) (q : QueueSt) (p : Packet) : Option (Nat × Opd × Nat × Nat) :=
  match keySlot s q.part with
  | none => none
  | some slot =>
    match operand s slot 0 true (bits (pw p 3) 0 32) [] with
    | none => none
    | some o =>
      if o.fmt ≠ 7 then none
      else match spotAt o (bits (pw p 3) 32 32) with
        | .at_ n off => some (slot, o, n, off)
        | .oos | .zero => none

/-- The record word waits, as a store would: its sub-tile is changing, or RHOLD holds replicas that it needs (R160, R171, R185). -/
def fenceWaits (s : State) (q : QueueSt) (p : Packet) : Bool :=
  match fenceSpot s q p with
  | some (slot, o, n, off) => homeWaits s slot o n [off / 64]
  | none => false

/-- Write the record word of a FENCE packet (R46, R52), FE as it stands (R100).  An object that has no such element, or whose
element cannot be reached, takes no write. -/
def writeFence (s : State) (q : QueueSt) (p : Packet) (x : Word) : State :=
  match fenceSpot s q p with
  | none => s
  | some (slot, o, n, off) =>
    let h := homeOf s slot o n true
    if (homeFault s o h).isSome then s
    else (flush s slot o [n] 0 ⟨0, 0⟩ (engineWriter 0 rowFence) false (addElem s {} o h n off 8 x (BitVec.allOnes 64) 0)).1

/-- An earlier launch of the queue is not COMPLETE. -/
def queueBusy (s : State) (q : Nat) : Bool :=
  s.io.launches.any fun l => l.queue = q && l.part = (getQueue s q).part && (l.state = .waiting || l.state = .ready || l.state = .placed)

/-- Step FENCE_PACKET: once every earlier packet of the queue has completed; else as COUNTER_PACKET. -/
def fencePacketActs (s : State) (q : Nat) : State :=
  let qs := getQueue s q
  let s := touchPacket s qs qs.head
  let p := ringPacket s qs qs.head
  if canDispatch qs && headKind s q = 2 then
    heldPacket s q p fun s =>
      if queueBusy s q then modQueue s q fun x => { x with hold := .released false }
      else if fenceWaits s qs p then post (modQueue s q fun x => { x with hold := .released false }) 1 (.fencePacket q)
      else
        let x := qs.head
        let s := writeFence s qs p (BitVec.ofNat 64 (q * 4294967296 + x.toNat % 4294967296))
        advance (modQueue s q fun y => { y with fence := x + 1
                                                issuers := y.issuers.filter fun i => (i.1 - (x + 1)).toNat < 2 ^ 63 }) q
  else kickQueue s q
def execFencePacket (s : State) : Out :=
  match s.doing with | some (.fencePacket q) => .next (fencePacketActs s q) | _ => .next s

/-! ## Doorbell and THAW (R51) -/

/-- Step DOORBELL. -/
def doorbellRings (s : State) (q : Nat) (v : Word) : State :=
  let qs := getQueue s q
  let n := (v - qs.tail).toNat
  if qs.devfed || 2 ^ 63 ≤ n || 2 ^ qs.size.toNat < (v - qs.fence).toNat then s
  else kickQueue (modQueue (enterRange s q qs.tail n) q fun x => { x with tail := v }) q
def execDoorbell (s : State) : Out :=
  match s.doing with | some (.doorbell q v) => .next (doorbellRings s q v) | _ => .next s

/-- Step THAW. -/
def execThaw (s : State) : Out :=
  match s.doing with
  | some (.thaw q) => .next (kickQueue (modQueue s q fun x => { x with frozen := false }) q)
  | _ => .next s

end Sys2Proof.Machine
end

