-- ==== Sys2Proof/Machine/Place.lean ====
section
/-! DEFINITION. Dispatch (R45, R52), placement (R46 to R50) and priority loans (R59, R60). -/
namespace Sys2Proof.Machine

/-! ## Rows for a thread (R38, R47, R48) -/

/-- A first row that the core's mode gives a wide, or a narrow, thread (R38). -/
def modeFits (s : State) (wide : Bool) (t : Thr) : Bool :=
  let c := getCore s t.core
  corePresent s t.core && !stackDown s (stackOf t.core) && t.row < 84
    && if wide then c.wide && t.row < 72 && t.row / 12 % 2 = 0 else !(c.wide && t.row < 72)

/-- The row, or the row pair, that starts at a place. -/
def rowPair (wide : Bool) (t : Thr) : List Thr := if wide then [t, ⟨t.core, t.row + 12⟩] else [t]

/-- Every row that a thread takes, its follower's and the shadow rows among them (R48). -/
def rowsNeeded (wide paired : Bool) (t : Thr) : List Thr :=
  if paired then [t, shadowOf t, partnerOf t, shadowOf (partnerOf t)].flatMap (rowPair wide) else rowPair wide t

/-- A home that the modes of its cores allow. -/
def homeFits (s : State) (wide paired : Bool) (t : Thr) : Bool :=
  modeFits s wide t && (!paired || (t.row % 12 ≠ 11 && modeFits s wide (partnerOf t)))

/-- FREE rows of cores, as the agents report them (R50). -/
abbrev View := List (Nat × List Nat)

/-- The FREE rows of a core as last reported; of a core not yet reported, as they are. -/
def reportOf (s : State) (core : Nat) : List Nat :=
  match (getTile s (tileOf core)).report.find? fun p => p.1 = core with
  | some p => p.2
  | none => (List.range 84).filter (isFreeRow s core)

/-- A home whose rows are all FREE in a view. -/
def homeFree (s : State) (v : View) (wide paired : Bool) (t : Thr) : Bool :=
  homeFits s wide paired t && (rowsNeeded wide paired t).all fun r => (look [] v r.core).contains r.row

/-- Take rows out of a view. -/
def takeRows (v : View) (l : List Thr) : View :=
  v.map fun p => (p.1, p.2.filter fun r => !l.contains ⟨p.1, r⟩)

/-- The row belongs to a thread: its first row, or the second of a wide one. -/
def holdsThread (s : State) (core row : Nat) : Bool :=
  row < 84 && frameUse s core row = 0 && !isShadow s core row && tstate s ⟨core, homeRow (getCore s core) row⟩ ≠ stFree

/-- Thread rows of subarray k, with those chosen so far. -/
def threadRows (s : State) (chosen : List Thr) (core k : Nat) : Nat :=
  (((List.range 12).map (12 * k + ·)).filter fun r => holdsThread s core r || chosen.contains ⟨core, r⟩).length

/-- The row that a thread takes on a core (R47): the lowest one of the subarray with the fewest thread rows among those
that have one, lowest subarray on a tie. -/
def pickRow (s : State) (v : View) (chosen : List Thr) (wide paired : Bool) (core : Nat) : Option Nat :=
  let rows := (look [] v core).filter fun r => homeFree s v wide paired ⟨core, r⟩
  let best := rows.foldl (fun (m : Option (Nat × Nat)) r =>
    let n := threadRows s chosen core (r / 12)
    match m with
    | none => some (n, r)
    | some (k, q) => if n < k || (n = k && r / 12 < q / 12) then some (n, r) else some (k, q)) none
  best.map (·.2)

/-! ## Where a launch goes (R46, R47) -/

/-- What the distributor finds: the launch can never fit, must wait, or takes these first rows. -/
inductive Fit | never | wait | rows (l : List Thr)
  deriving DecidableEq, Repr

/-- Rows that the whole launch takes. -/
def rowCount (p : Packet) : Nat := pThreads p * (if pWide p then 2 else 1) * (if pPair p then 4 else 1)
/-- Rows 0 to 83 of the present cores of tiles. -/
def capacity (s : State) (tiles : List Nat) : Nat := tiles.foldl (fun n t => n + 84 * presentIn s t) 0

/-- Pinned rows (R46, R47, R48); none where they can never be. -/
def pinnedRows (s : State) (slot : Nat) (p : Packet) : Option (List Thr) :=
  let pl := pw p 3
  let first := bits pl 0 20
  let count := bits pl 20 20
  let wide := pWide p
  let tiles := tilesOfSlot s slot
  if bits pl 47 17 ≠ 0 || count = 0 || !corePresent s first || capacity s tiles < rowCount p then none
  else match kthPresent s first (count - 1) with
    | none => none
    | some last =>
      if !((List.range (tileOf last + 1 - tileOf first)).all fun k => tiles.contains (tileOf first + k) || presentIn s (tileOf first + k) = 0) then none
      else
        let l : List Thr := (List.range (pThreads p)).map fun i =>
          ⟨(kthPresent s first (i % count)).getD first, bits pl 40 7 + i / count * (if wide then 2 else 1)⟩
        let all := l.flatMap (rowsNeeded wide (pPair p))
        if l.all (fun t => (if wide then t.row < 72 && t.row / 12 % 2 = 0 else t.row < 84)
              && (!pPair p || (t.row % 12 ≠ 11 && corePresent s (partnerOf t).core)))
            && all.eraseDups.length = all.length && l.all fun t => !stackDown s (stackOf t.core)
        then some l else none

/-- A core of another module, as a number that no core of this one has. -/
def awayCore (s : State) (ref : Word) : Nat := if refDev ref = s.io.devid.toNat then refCore ref else Config.cores

/-- The owner core of a sub-tile (R47). -/
def ownerCore (s : State) (slot h n : Nat) : Option Nat :=
  match validNow s slot h with
  | none => none
  | some r =>
    if rCount r ≤ n || isModule h r then none
    else match rKind r with
      | 1 | 6 => (computedPlace s slot r n).map (·.1)
      | 2 => match entryNow s slot h n with
        | some e => if entState (e.getD 0 0) = 1 || entState (e.getD 0 0) = 3 then some (awayCore s ((e.getD 0 0 >>> 16) &&& 0x3FFFFFFFFFFF)) else none
        | none => none
      | 3 => match entryNow s slot h n with
        | some e => if bits (e.getD 0 0) 0 2 = 1 then (upReplicas s (replicasOf r e)).head?.map fun x => x.2.1.core else none
        | none => none
      | _ => none

/-- Choose a row on each core of a list, in order. -/
def chooseOn (s : State) (wide paired : Bool) : View → List Thr → List Nat → Option (List Thr)
  | _, _, [] => some []
  | v, chosen, c :: cs =>
    match pickRow s v chosen wide paired c with
    | none => none
    | some r =>
      let t : Thr := ⟨c, r⟩
      let taken := rowPair wide t ++ if paired then rowPair wide (partnerOf t) else []
      (chooseOn s wide paired (takeRows v (rowsNeeded wide paired t)) (taken ++ chosen) cs).map (t :: ·)

/-- The view of cores and, for pairs, of their partners. -/
def viewOf (s : State) (cores : List Nat) : View :=
  (cores ++ cores.map (· ^^^ 1)).eraseDups.map fun c => (c, reportOf s c)

/-- Near-object placement; `final` where the launch's turn has come. -/
def fitNear (s : State) (slot : Nat) (p : Packet) (final : Bool) : Fit :=
  let pl := pw p 3
  let h := bits pl 0 32
  if capacity s (tilesOfSlot s slot) < rowCount p then .never
  else
    let owners := (List.range (pThreads p)).map fun i => ownerCore s slot h (bits pl 32 32 + i)
    if owners.any (·.isNone) then (if final then .wait else .never)
    else
      let cores := owners.filterMap id
      let size := (if pWide p then 2 else 1) * (if pPair p then 2 else 1)
      let fixed := match validNow s slot h with | some r => rKind r = 1 || rKind r = 6 | none => false
      if cores.any (fun c => stackDown s (stackOf c) || !inSlot s slot (tileOf c))
          || (fixed && cores.any fun c => 84 < (cores.filter (· = c)).length * size) then .never
      else match chooseOn s (pWide p) (pPair p) (viewOf s cores) [] cores with
        | some l => .rows l
        | none => .wait

/-- The core that the next spread thread goes to: most FREE rows, lowest on a tie, among those that have a home. -/
def spreadCore (s : State) (v : View) (chosen : List Thr) (wide paired : Bool) (cores : List Nat) : Option Nat :=
  (cores.foldl (fun (m : Option (Nat × Nat)) c =>
    let n := (look [] v c).length
    let better := match m with | none => true | some (k, _) => k < n
    if better && (pickRow s v chosen wide paired c).isSome then some (n, c) else m) none).map (·.2)

/-- Spread n threads. -/
def spread (s : State) (wide paired : Bool) (cores : List Nat) : Nat → View → List Thr → Option (List Thr)
  | 0, _, _ => some []
  | n + 1, v, chosen =>
    match spreadCore s v chosen wide paired cores with
    | none => none
    | some c => match pickRow s v chosen wide paired c with
      | none => none
      | some r =>
        let t : Thr := ⟨c, r⟩
        let taken := rowPair wide t ++ if paired then rowPair wide (partnerOf t) else []
        (spread s wide paired cores n (takeRows v (rowsNeeded wide paired t)) (taken ++ chosen)).map (t :: ·)

/-- Spread placement over the tiles named. -/
def fitSpread (s : State) (slot : Nat) (p : Packet) : Fit :=
  let pl := pw p 3
  let all := tilesOfSlot s slot
  let tiles := if bits pl 11 11 = 0 then all else (List.range (bits pl 11 11)).map (bits pl 0 11 + ·)
  if bits pl 22 42 ≠ 0 || !tiles.all all.contains || capacity s tiles < rowCount p then .never
  else
    let cores := (tiles.filter fun t => !stackDown s (t / 128)).flatMap fun t => (List.range (presentIn s t)).map (512 * t + ·)
    match spread s (pWide p) (pPair p) cores (pThreads p) (cores.map fun c => (c, reportOf s c)) [] with
    | some l => .rows l
    | none => .wait

/-- Where a launch goes now. -/
def fitOf (s : State) (slot : Nat) (p : Packet) (final : Bool) : Fit :=
  match pPlace p with
  | 0 => fitSpread s slot p
  | 1 => fitNear s slot p final
  | _ =>
    match pinnedRows s slot p with
    | none => .never
    | some l =>
      let v := viewOf s (l.map (·.core))
      if l.all (homeFree s v (pWide p) (pPair p)) then .rows l else .wait

/-! ## Dispatch (R45, R47, R52) -/

/-- The checks on a THREADS packet (R45, R46, R47, R55, R149). -/
def threadsPacketOk (s : State) (q : QueueSt) (l : LaunchSt) : Bool :=
  let p := l.packet
  match ringRec s q, keySlot s q.part with
  | some _, some slot =>
    let code := match validNow s slot (pCode p) with
      | some r => rKind r = 6 && grants r l.key (pPriv p) 0 && pEntry p < 4 * rExt r 0
      | none => false
    bits (pw p 0) 13 3 = 0 && bits (pw p 2) 37 3 = 0 && (pRows p = 1 || pRows p = 2) && pPlace p ≠ 3 && 1 ≤ pThreads p
      && bits (pw p 7) 32 32 = 0 && pEntry p % 4 = 0 && (!pPriv p || q.privq)
      && (!pWaitEn p || ownsCounter s q.part (pWaitCtr p)) && (!pDoneEn p || ownsCounter s q.part (pDoneCtr p))
      && (!pGraphEn p || ownsCounter s q.part (pGraphCtr p)) && code && fitOf s slot p false ≠ .never
  | _, _ => false

/-- A counter that the launch names as its phase or graph has been cancelled (R58). -/
def cancelledCounter (s : State) (p : Packet) : Bool :=
  (pDoneEn p && (getCounter s (pDoneCtr p)).cancel) || (pGraphEn p && (getCounter s (pGraphCtr p)).cancel)

/-- A THREADS packet at QHEAD (R52).  Where its DONECTR or GRAPHCTR is cancelled and its WAITCTR holds 0 with ERRTOK, the cancel
decides and no token is passed on (DESIGN CHOICE: the manual does not say which of the two acts, log 62). -/
def dispatchLaunch (s : State) (q : Nat) (l : LaunchSt) : State :=
  let s := modLaunch s l.id fun l => { l with inRing := false }
  let p := l.packet
  let c := getCounter s (pWaitCtr p)
  if l.state = .complete then advance (dropLaunch s l.id) q
  else
    let gone (status : Nat) (token : Bool) : State :=
      let s := modQueue s q fun x => { x with head := x.head + 1, hold := .none }
      kickQueue (completeLaunch s l.id status token true) q
    if !threadsPacketOk s (getQueue s q) l then gone 3 false
    else if cancelledCounter s p then gone 1 false
    else if !pWaitEn p then advance (makeReady s l.id) q
    else if c.value ≠ 0 then
      let s := modCounter s (pWaitCtr p) fun c => { c with waiters := c.waiters ++ [.launch l.id] }
      advance (poke (modLaunch s l.id fun l => { l with state := .waiting }) l.part) q
    else if c.errtok || c.cancel then gone 1 c.errtok
    else advance (makeReady s l.id) q

/-- Step DISPATCH: a packet that is no packet is REJECTED (R45, R51). -/
def dispatched (s : State) (q : Nat) : State :=
  let qs := getQueue s q
  if !canDispatch qs then s
  else
    let s := if (launchAt s q qs.head).isNone then enterRange s q qs.head 1 else s
    match launchAt s q qs.head with
    | some l => dispatchLaunch s q l
    | none =>
      if headKind s q = 2 || headKind s q = 3 then kickQueue s q
      else rejectPlain s q
def execDispatch (s : State) : Out := match s.doing with | some (.dispatch q) => .next (dispatched s q) | _ => .next s

/-! ## Loans (R60) -/

/-- One link of loans: what each launch has with the loans of those that wait on its counter. -/
def lend (l : List LaunchSt) (eff : List (Nat × Nat)) : List (Nat × Nat) :=
  l.map fun x => (x.id, l.foldl (fun m w =>
    if w.state = .waiting && pDoneEn x.packet && pDoneCtr x.packet = pWaitCtr w.packet then max m (look 0 eff w.id) else m)
      (pPrio x.packet))

/-- Effective priorities, to a depth of 8 links. -/
def effective (l : List LaunchSt) : List (Nat × Nat) :=
  (List.range 8).foldl (fun e _ => lend l e) (l.map fun x => (x.id, pPrio x.packet))

/-- The distributor's write of PRIO reaches a row, as an outside access does (R60, R128); one that has left the launch meanwhile is
not written. -/
def loanArrives (s : State) (part : Nat) (t : Thr) (prio : Nat) : State :=
  if s.io.launches.any fun l => l.state = .placed && l.rows.contains t then
    deferPair s t (.priorityLoan part (some t) prio) fun s => setC s t 0 (setBits (getC s t 0) 9 7 prio)
  else s

/-- Give a launch its effective priority: the rows of a PLACED one are written as outside accesses (R60). -/
def givePrio (s : State) (l : LaunchSt) (prio : Nat) : State :=
  if l.prio = prio then s
  else
    let s := modLaunch s l.id fun l => { l with prio := prio }
    if l.state = .placed then
      l.rows.foldl (fun s t => send s .req ioDie (tileOf t.core) (.arrive t.core t.row (.priorityLoan l.part.toNat (some t) prio))) s
    else s

/-- The READY launch that is considered first (R59). -/
def firstReady (s : State) (part : BitVec 16) : Option LaunchSt :=
  s.io.launches.foldl (fun m l =>
    if l.state = .ready && l.part = part then
      match m with
      | none => some l
      | some k => if k.prio < l.prio || (k.prio = l.prio && l.readyAt < k.readyAt) then some l else m
    else m) none

/-- A reservation or a placement of the partition is on its way. -/
def placing (s : State) (part : BitVec 16) : Bool :=
  s.agenda.any fun x => match x.act with
    | .run (.reservation l _) | .run (.placement l _) => match findLaunch s l with | some l => l.part = part | none => false
    | _ => false

/-- Near-object placement reads the object's records and the entries of its sub-tiles (R99). -/
def meetOwners (s : State) (slot : Nat) (p : Packet) : State :=
  let h := bits (pw p 3) 0 32
  if s.bitErrs.isEmpty || pPlace p ≠ 1 then s
  else
    let s := touchRecord s slot h
    match validNow s slot h with
    | some r => touchEntries s slot ⟨h, r, h, r⟩ ((List.range (pThreads p)).map (bits (pw p 3) 32 32 + ·))
    | none => s

/-- Look at placement (R59): the first READY launch reserves its rows, waits, or is REJECTED where it can never fit. -/
def tryPlace (s : State) (part : BitVec 16) : State :=
  if placing s part then s
  else match firstReady s part, keySlot s part with
    | some l, some slot =>
      let s := meetOwners s slot l.packet
      match fitOf s slot l.packet true with
      | .rows r => postFree s (.reservation l.id r)
      | .never => completeLaunch s l.id 3 false true
      | .wait =>
        -- the owner of a sub-tile comes without a report of any agent (R47)
        if pPlace l.packet = 1 && !posted? s (.priorityLoan part.toNat none 0) then post s 128 (.priorityLoan part.toNat none 0) else s
    | _, _ => s

/-- Step PRIORITY_LOAN: the loans of a partition are reckoned again. -/
def priorityLoaned (s : State) (part : BitVec 16) : State :=
  let mine := s.io.launches.filter fun l => l.part = part && l.state ≠ .complete
  let eff := effective mine
  tryPlace (mine.foldl (fun s l => givePrio s l (look l.prio eff l.id)) s) part
def execPriorityLoan (s : State) : Out :=
  match s.doing with
  | some (.priorityLoan p none _) => .next (priorityLoaned s (BitVec.ofNat 16 p))
  | some (.priorityLoan p (some t) prio) => .next (loanArrives s p t prio)
  | _ => .next s

/-! ## Reservation and reports (R50) -/

/-- Every row of a launch is FREE, and fits the modes of its core. -/
def allFree (s : State) (l : LaunchSt) (rows : List Thr) : Bool :=
  rows.all fun t => homeFits s (pWide l.packet) (pPair l.packet) t
    && (rowsNeeded (pWide l.packet) (pPair l.packet) t).all fun r => isFreeRow s r.core r.row

/-- Step RESERVATION: accepted only if every row is still FREE. -/
def reserved (s : State) (id : Nat) (rows : List Thr) : State :=
  match findLaunch s id with
  | none => s
  | some l =>
    if l.state ≠ .ready then poke s l.part
    else if allFree s l rows then post s 0 (.placement id rows)
    else (rows.map (·.core)).eraseDups.foldl noteFree s
def execReservation (s : State) : Out :=
  match s.doing with | some (.reservation l r) => .next (reserved s l r) | _ => .next s

/-- Step AGENT_REPORT: the FREE rows of the tile's cores reach the distributor. -/
def agentReports (s : State) (tile : Nat) : State :=
  let l := (s.cores.filter fun c => tileOf c.1 = tile).map fun c => (c.1, (List.range 84).filter (isFreeRow s c.1))
  poke (modTile s tile fun t => { t with report := l }) (partKey s tile)
def execAgentReport (s : State) : Out :=
  match s.doing with | some (.agentReport t) => .next (agentReports s t) | _ => .next s

/-! ## Placement (R48, R49) -/

/-- Write one thread's row or rows before it is runnable.  IMAGE is read under no key, without a check of its classes (DEDUCED: the
manual names no check, log 42). -/
def placeThread (s : State) (slot : Nat) (l : LaunchSt) (i : Nat) (t : Thr) : State :=
  let p := l.packet
  let wide := pWide p
  let s := zeroRow s t.core t.row
  let s := if wide then zeroRow s t.core (t.row + 12) else s
  let copy (s : State) (n at_ from_ len : Nat) : State :=
    match (if pImage p = 0 then (s, none) else subtileBytes s slot (pImage p) n) with
    | (s, none) => s
    | (s, some (bs, bad)) => putCopy s at_ ((bs.drop from_).take len) ((bad.filter fun b => from_ ≤ b && b < from_ + len).map (· - from_))
  let a := rowAddr t.core t.row
  let s := copy s (if wide then 2 * i else i) (a + 1056) 1056 2912
  let s := if wide then
      let b := rowAddr t.core (t.row + 12)
      copy (copy s (2 * i + 1) b 0 512) (2 * i + 1) (b + 1024) 1024 3072
    else s
  let s := setS (setS (setS s t 1 (BitVec.ofNat 64 i)) t 2 (BitVec.ofNat 64 (pThreads p))) t 3 (BitVec.ofNat 64 (pArg p))
  let s := setC s t 0 (BitVec.ofNat 64 (l.prio * 512 + (if pHold p then stIdle else stRun) * 16))
  let s := setC s t 1 (BitVec.ofNat 64 (pCode p * 4294967296 + pEntry p))
  let s := setLive s t (pCode p) (pLivedef p)
  let s := setC s t 6 (pw p 5)
  let s := setC s t 7 (BitVec.ofNat 64 (l.id * 16777216 + bit (pPair p) * 262144 + bit wide * 131072 + bit (pPriv p) * 65536 + l.key.toNat))
  let s := setC s t 8 ((pw p 6).extractLsb' 48 16 |>.setWidth 64)
  let s := setC (setC s t 12 (pw p 4)) t 15 (BitVec.ofNat 64 (pArg p))
  setThr s t { quantum := pQuant p, index := i }

/-- The entry's code row is cached, and open in a fetch buffer (R32). -/
def placeCode (s : State) (core handle entry : Nat) : State :=
  let part := entry / 4096
  let s := if (codeRowOf s core handle part).isSome then s else fillCodeRow s core handle part
  match codeRowOf s core handle part with
  | none => s
  | some x => modCore s core fun c =>
    { c with code := moveBack c.code x
             buffers := if c.buffers.contains x.row then c.buffers else c.buffers.drop (c.buffers.length - 1) ++ [x.row] }

/-- A message held for a launch goes to its target (R62); its sender is answered there. -/
def releaseMsg (s : State) (m : Msg) : State :=
  post s 0 (if m.h = 0 then .inboxEntry ⟨.message, m.target, m.a, m.b, m.sender, m.req, m.scope⟩ else .activeMessage m)

/-- The read of a sub-tile of IMAGE that the placement needs waits (R160, R171, R185). -/
def imageWaits (s : State) (slot : Nat) (p : Packet) : Bool :=
  pImage p ≠ 0 && (List.range (pThreads p * if pWide p then 2 else 1)).any fun n => subtileWaits s slot (pImage p) n

/-- Step PLACEMENT: all at once, once IMAGE can be read. -/
def placed (s : State) (id : Nat) (rows : List Thr) : State :=
  match findLaunch s id with
  | none => s
  | some l =>
    if l.state ≠ .ready then poke s l.part
    else match keySlot s l.part with
      | none => s
      | some slot =>
        if !allFree s l rows then (rows.map (·.core)).eraseDups.foldl noteFree s
        else if imageWaits s slot l.packet then post s 1 (.placement id rows)
        else
          let p := l.packet
          let all := rows.flatMap (rowsNeeded (pWide p) (pPair p))
          let cores := (all.map (·.core)).eraseDups
          let s := cores.foldl wakeCore s
          let s := (rows.zip (List.range rows.length)).foldl (fun s x => placeThread s slot l x.2 x.1) s
          let s := if pPair p then rows.foldl (fun s t => makePair s (pWide p) t) s else s
          let s := all.foldl visit s
          let s := cores.foldl (fun s c => noteFree (placeCode s c (pCode p) (pEntry p)) c) s
          let s := modLaunch s id fun l => { l with state := .placed, rows := rows, msgs := [] }
          let s := { s with tiles := s.tiles.map fun t => (t.1, { t.2 with report := takeRows t.2.report all }) }
          poke (l.msgs.foldl releaseMsg s) l.part
def execPlacement (s : State) : Out :=
  match s.doing with | some (.placement l r) => .next (placed s l r) | _ => .next s

end Sys2Proof.Machine
end

