-- ==== Sys2Proof/Machine/Pairs.lean ====
section
/-! DEFINITION. Pairs: checkpoints, fingerprints, shadow copies and rollback (R126 to R128), PAIR and UNPAIR (R318, R319). -/
namespace Sys2Proof.Machine

/-! ## Standing at a checkpoint -/

/-- The side's fingerprint is out: its wait for the partner's has begun. -/
def printSent (s : State) (t : Thr) : Bool := posted? s (.fingerprintTimeout t.core t.row)

/-- The side of a pair whose checkpoint comes next. -/
def checkpointDue (s : State) (p : PairSt) (t : Thr) : Bool :=
  !p.dead && atCheckpoint s p t && p.copying.isNone && (getThr s t).long.isNone && !printSent s t
    && !posted? s (.checkpoint t.core t.row)

/-- Step CHECKPOINT: the side is held, and sends c13 to its partner (R126); poison in c13 is a mismatch (R130). -/
def checkpointed (s : State) (t : Thr) : State :=
  match pairOf s t with
  | none => s
  | some p =>
    if !(atCheckpoint s p t && p.copying.isNone && (getThr s t).long.isNone && !printSent s t) then s
    else
      let s := touchWord s (cAddr t 13)
      let s := if isPoisoned s (cAddr t 13) then sideTrap s p t .poisonConsumed else s
      let s := send s .req (tileOf t.core) (tileOf t.core) (.run (.fingerprint t.core t.row (getC s t 13)))
      post s Config.fingerprintCycles (.fingerprintTimeout t.core t.row)
def execCheckpoint (s : State) : Out :=
  match s.doing with | some (.checkpoint c r) => .next (checkpointed s ⟨c, r⟩) | _ => .next s

/-- No wait for a fingerprint is out any longer. -/
def stopTimeouts (s : State) (p : PairSt) : State :=
  unpost (unpost s (.fingerprintTimeout p.leader.core p.leader.row)) (.fingerprintTimeout p.follower.core p.follower.row)

/-- The two sides agree: the same fingerprint and length, and the same trap or none (R126, R128); poison never agrees (R130). -/
def agree (s : State) (p : PairSt) : Bool :=
  p.fpLead = p.fpFoll && p.trapLead = p.trapFoll && getC s p.leader 14 = getC s p.follower 14
    && (match p.trapLead with | some (c, _) => c ≠ .poisonConsumed | none => true)

/-- Both fingerprints are known: the shadow copies begin, one way or the other, or the pair ends (R126, R127). -/
def decidePair (s : State) (p : PairSt) : State :=
  let s := stopTimeouts s p
  let copies (commit : Bool) : State :=
    let s := modPair s p.leader fun p => { p with copying := some commit, copied := 0 }
    post (post s Config.rowStepCycles (.shadowCopy p.leader.core p.leader.row commit)) Config.rowStepCycles
      (.shadowCopy p.follower.core p.follower.row commit)
  if agree s p then copies true
  else if p.missed then losePair s p (wordAtPc s p.leader)
  else copies false

/-- Step FINGERPRINT: it reaches the partner. -/
def printArrives (s : State) (t : Thr) (fp : Word) : State :=
  match pairOf s t with
  | none => s
  | some p =>
    let s := modPair s p.leader fun p => if p.leader = t then { p with fpLead := some fp } else { p with fpFoll := some fp }
    match pairOf s t with
    | some p => if p.fpLead.isSome && p.fpFoll.isSome then decidePair s p else s
    | none => s
def execFingerprint (s : State) : Out :=
  match s.doing with | some (.fingerprint c r x) => .next (printArrives s ⟨c, r⟩ x) | _ => .next s

/-- Step FINGERPRINT_TIMEOUT: the partner's has not come (R127). -/
def printLate (s : State) (t : Thr) : State :=
  match pairOf s t with
  | none => s
  | some p => if p.copying.isSome then s else losePair (stopTimeouts s p) p (wordAtPc s p.leader)
def execFingerprintTimeout (s : State) : Out :=
  match s.doing with | some (.fingerprintTimeout c r) => .next (printLate s ⟨c, r⟩) | _ => .next s

/-! ## After the copies -/

/-- Send one held effect (R126): it goes out in the leader's name, and nobody waits for it. -/
def sendHeld (s : State) (r : Req) : State :=
  let id := s.nextReq
  let s := addReq s { r with held := true, phase := .sent }
  match r.insn with
  | .rst .. | .hdl .. => sendRow s id
  | .msend .. => sendMsg s id
  | _ => if r.reps.isEmpty then sendAccess s id else majReads s id

/-- Free the follower and the shadow rows (R128, R319). -/
def dissolve (s : State) (p : PairSt) : State :=
  let wide := isWide s p.leader
  let s := leaveReqs s p.follower
  let s := { s with pairs := s.pairs.filter fun q => q.leader ≠ p.leader }
  let s := [p.follower, shadowOf p.follower, shadowOf p.leader].foldl (fun s t => freeRow s t wide) s
  setC s p.leader 7 (setBits (getC s p.leader 7) 18 2 0)

/-- The leader waits at an UNPAIR. -/
def unpairing (s : State) (p : PairSt) : Option Req :=
  match reqOf s p.leader with
  | some r => match r.insn with | .unpair _ => some r | _ => none
  | none => none

/-- A side that waits for an answer that the leader has not asked for stands at the instruction again. -/
def undoFollower (s : State) (p : PairSt) : State :=
  match reqOf s p.follower with
  | some r => if tstate s p.follower = stParked && tstate s p.leader ≠ stParked then unpark (dropReq s r.id) p.follower else s
  | none => s

/-- A committed interval's held effects have gone out: c13 is 0 on both sides, and a new interval begins; then come the trap that
both sides met, the end of an EXIT, an UNPAIR, and the outside accesses that waited. -/
def committed (s : State) (p : PairSt) : State :=
  let sides := [p.leader, p.follower]
  let s := modPair s p.leader fun q =>
    { q with start := getC s p.leader 14, fwd := [], taken := 0, held := [], missed := false, ending := .none, again := none
             called := false, fpLead := none, fpFoll := none, copying := none, copied := 0, trapLead := none, trapFoll := none, outside := []
             sending := [], storing := 0 }
  let s := (sides ++ sides.map shadowOf).foldl (fun s t =>
    let s := setC s t 13 0
    -- c4 is not read here (R130)
    if isPoisoned s (cAddr t 4) || isPoisoned s (cAddr p.leader 4) then s else setC s t 4 (getC s p.leader 4)) s
  let s := undoFollower s p
  let s := match p.trapLead with
    | some (c, _) =>
      let w := wordAtPc s p.leader
      applyTrap (applyTrap s p.leader c w true) p.follower c w false
    | none => s
  let s := if p.ending = .exit then threadEnded (setTState (setTState s p.leader stDone) p.follower stDone) p.leader false else s
  let s := match unpairing s p with
    | some r => replyArrives (dissolve s p) r.id (ansWord 0)
    | none => s
  p.outside.foldl (fun s e => post s 0 e) s

/-- Held effects leave in order, up to a majority store: what follows waits for its answers, so that the next store takes a tag
of its own and no release overtakes it (R126, R191, R193). -/
def sendEffects (leader : Thr) : List Req → State → State
  | [], s => modPair s leader fun p => { p with sending := [] }
  | r :: l, s =>
    if r.reps.isEmpty then sendEffects leader l (sendHeld s r)
    else modPair (sendHeld s r) leader fun p => { p with sending := l, storing := s.nextReq }

/-- A committed pair whose stores are answered sends what it still holds; with nothing left, the new interval begins. -/
def sendOn (s : State) (leader : Thr) : State :=
  match pairOf s leader with
  | none => s
  | some p =>
    if p.copying ≠ some true || p.copied < 2 || p.storing ≠ 0 then s
    else
      let s := sendEffects leader p.sending s
      match pairOf s leader with
      | some p => if p.storing = 0 then committed s p else s
      | none => s

/-- The interval is undone: the rows are as the shadow rows, and both sides re-execute it (R126). -/
def rolledBack (s : State) (p : PairSt) : State :=
  let back (s : State) (t : Thr) : State :=
    let s := match reqOf s t with | some r => withdrawReq s r | none => s
    modThr s t fun c => { c with long := none, reply := none, yielded := false, codeWait := false }
  let s := back (back s p.leader) p.follower
  let s := modPair s p.leader fun q =>
    { q with fwd := [], taken := 0, held := [], missed := true, ending := .none, called := false, fpLead := none, fpFoll := none
             copying := none, copied := 0, trapLead := none, trapFoll := none, outside := [] }
  p.outside.foldl (fun s e => post s 0 e) s

/-- A row of a thread is read whole (R99). -/
def touchRow (s : State) (t : Thr) : State := if s.bitErrs.isEmpty then s else touch s (rowAddr t.core t.row) 4096

/-- Step SHADOW_COPY: one side's row goes to its shadow row or comes back from it, for one credit (R36, R126); a poisoned
shadow row ends the pair (R127). -/
def shadowCopied (s : State) (t : Thr) (commit : Bool) : State :=
  match pairOf s t with
  | none => s
  | some p =>
    if p.copying ≠ some commit then s
    else if freeCredits s t.core < 1 then post s 1 (.shadowCopy t.core t.row commit)
    else
      let s := spendCredits s t.core 1
      let wide := isWide s t
      let sh := shadowOf t
      let second : Thr := ⟨sh.core, sh.row + 12⟩
      let s := if commit then s else if wide then touchRow (touchRow s sh) second else touchRow s sh
      let bad := runPoisoned s (rowAddr sh.core sh.row) 4096 || (wide && runPoisoned s (rowAddr second.core second.row) 4096)
      if !commit && bad then losePair s p (wordAtPc s p.leader)
      else
        let s := if commit then copyThread s wide t sh else copyThread s wide sh t
        let s := modPair s p.leader fun q => { q with copied := q.copied + 1 }
        if p.copied = 0 then s
        else if commit then sendOn (modPair s p.leader fun q => { q with sending := q.held, held := [] }) p.leader
        else match pairOf s t with
          | some p => rolledBack s p
          | none => s
def execShadowCopy (s : State) : Out :=
  match s.doing with | some (.shadowCopy c r k) => .next (shadowCopied s ⟨c, r⟩ k) | _ => .next s

/-! ## The end of a core's cycle -/

/-- The pairs with a side on a core look whether a checkpoint has come, or a store that they have sent is complete. -/
def lookPairs (s : State) (core : Nat) : State :=
  s.pairs.foldl (fun s p =>
    let s := [p.leader, p.follower].foldl (fun s t =>
      if t.core = core && checkpointDue s p t then post s 1 (.checkpoint t.core t.row) else s) s
    if p.leader.core = core then sendOn s p.leader else s) s

/-- STEPs that have ended are answered: the thread's STATE is IDLE, or what ended it (R65). -/
def answerSteps (s : State) (core : Nat) : State :=
  (getCore s core).thr.foldl (fun s x =>
    match x.2.stepPkt with
    | some p => if x.2.stepping then s else commandDone (modThr s ⟨core, x.1⟩ fun c => { c with stepPkt := none }) p
    | none => s) s

/-- The end of a core's cycle: the treadle, the STEPs that have ended, and the pairs. -/
def coreEnd (s : State) (core : Nat) : State :=
  let s := answerSteps (treadle s core) core
  if s.pairs.isEmpty then s else lookPairs s core

/-! ## PAIR and UNPAIR (R318, R319) -/

/-- The status of PAIR: the tile's agent checks the three rows. -/
def pairStatus (s : State) (t : Thr) : Nat :=
  if isHandler t || isPaired s t || isWide s t then 3
  else if !corePresent s (partnerOf t).core then 2
  else if t.row % 12 = 11 then 4
  else if [partnerOf t, shadowOf t, shadowOf (partnerOf t)].all fun r => isFreeRow s r.core r.row then 0
  else 1

/-- PAIR: privileged, once-only. -/
def execPair (d : SReg) (s : State) : Out :=
  .next (if !isPriv s s.cur then trapNow s .priv
    else withRegs s [cAddr s.cur 7] fun s =>
      beyond s 1 0x24 0 (newReq s (.pair d)) fun s id =>
        match findReq s id with
        | none => s
        | some r =>
          let n := pairStatus s r.thr
          replyArrives (if n = 0 then wakeCore s (partnerOf r.thr).core else s) id (ansWord (BitVec.ofNat 64 n)))

/-- UNPAIR: alone it writes 1, in a handler 3 (R321); in a pair it waits for the checkpoint before it, which the leader calls. -/
def execUnpair (d : SReg) (s : State) : Out :=
  .next (if !isPriv s s.cur then trapNow s .priv
    else
      let t := s.cur
      match pairOf s t with
      | none => withWords s [] fun s => retireS s t d (if isHandler t then 3 else 1)
      | some p =>
        let s := addReq (park s t 1 0x24 0) (newReq s (.unpair d))
        if t = p.leader then callCheckpoint s p (getC s t 14) else s)

end Sys2Proof.Machine
end

