-- ==== Sys2Proof/Machine/Swap.lean ====
section
/-! DEFINITION. Swap-out and swap-in of a launch (R120 to R122). -/
namespace Sys2Proof.Machine

/-- The swap operation ends with STATUS 10 done or 11 failed (R120). -/
def endSwap (s : State) (status : Nat) : State := { s with io := { s.io with swapStatus := BitVec.ofNat 2 status } }

/-- The row that holds sub-tile n of a swap object: of a computed object, or a framed one with RESIDENT policy (R121). -/
def swapRow (s : State) (slot h n : Nat) : Option Thr :=
  match validNow s slot h with
  | none => none
  | some r =>
    if rCount r ≤ n || !(rKind r = 1 || (rKind r = 2 && rRespol r = 0)) then none
    else match homeOf s slot ⟨h, r, h, r⟩ n false with
      | .place dev c row _ => if dev = s.io.devid.toNat && !stackDown s (stackOf c) then some ⟨c, row⟩ else none
      | _ => none

/-- Sub-tiles that a launch needs: one a row. -/
def swapCount (l : LaunchSt) : Nat := l.rows.length * if pWide l.packet then 2 else 1

/-- The swap object fits the launch (R121). -/
def swapFits (s : State) (slot : Nat) (l : LaunchSt) (h : Nat) : Bool :=
  (match validNow s slot h with | some r => (rw r 10).extractLsb' 0 16 = l.key | none => false)
    && (List.range (swapCount l)).all fun n => (swapRow s slot h n).isSome

/-- Copy segment k of a row to another row, FE as it stands there (R100), poison kept; of a thread's own first row as it reads, s0 and
p0 as their constants (R20). -/
def copySegment (s : State) (own : Bool) (src dst : Thr) (k : Nat) : State :=
  let a := rowAddr src.core src.row + 64 * k
  let s := touch s a 64
  let bad := (wordsOf a 64).filter (isPoisoned s) |>.map (· - a)
  putCopy s (rowAddr dst.core dst.row + 64 * k) (if own then ownBytes s src (64 * k) 64 else getBytes s a 64) bad

/-- The segments that c5 names (R121). -/
def segments (c5 : Word) : List Nat := (List.range 64).filter fun k => (c5 ||| 0xC000000000000000#64).getLsbD k

/-! ## Out (R121) -/

/-- Packets that have arrived at a row stand before it: queued (R70), or taken from there and to be applied in the coming step. -/
def rowAwaited (s : State) (core row : Nat) : Bool :=
  rowQueued s core row || s.agenda.any fun x => x.cls = .local && match x.act with
    | .run e => Event.atRow e = some ⟨core, row⟩
    | _ => false

/-- Bring a thread to a boundary with nothing outstanding; false where it must be waited for. -/
def stopForSwap (s : State) (t : Thr) : State × Bool :=
  let c := getThr s t
  if c.long.isSome || !c.cmds.isEmpty || (rowsNeeded (isWide s t) (isPaired s t) t).any (fun r => rowAwaited s r.core r.row) then (s, false)
  else
    let s := writeHeld s t
    match pairOf s t with
    | some q => if atRest s q && q.outside.isEmpty then (if tstate s t = stParked then settle s t else (s, true)) else (callOutside s q, false)
    | none => if tstate s t = stParked then settle s t else (s, true)

/-- Save a thread that stands at a boundary, and write its stub, and its follower's. -/
def saveThread (s : State) (slot : Nat) (l : LaunchSt) (i : Nat) (t : Thr) : State :=
  let wide := pWide l.packet
  let s := touchWord s (cAddr t 5)
  let s := if isPoisoned s (cAddr t 5) then ownPoison s t (wordAtPc s t) else s
  let st := tstate s t
  let kept := if st = stParked then stRun else st
  let ks := segments (getC s t 5)
  let out (s : State) (own : Bool) (src : Thr) (n : Nat) : State :=
    match swapRow s slot l.swapObj n with
    | some d => visit (ks.foldl (fun s k => copySegment s own src d k) s) d
    | none => s
  let s := out s true t i
  let s := if wide then out s false ⟨t.core, t.row + 12⟩ (l.rows.length + i) else s
  let stub (s : State) (t : Thr) : State :=
    let c0 := BitVec.ofNat 64 (prioOf s t * 512 + stAbsent * 16)
    let c7 := getC s t 7
    let s := if wide then zeroRow s t.core (t.row + 12) else s
    let s := setC (setC (setC (zeroRow s t.core t.row) t 0 c0) t 7 c7) t 2 (BitVec.ofNat 64 kept)
    visitThread (modThr s t fun c => { c with lastIssue := none, long := none, reply := none, yielded := false, codeWait := false }) wide t
  match pairOf s t with
  | some p => stub (stub s p.follower) t
  | none => stub s t

/-- Swap out what stands ready; the rest is looked at again in the next cycle. -/
def swapOutThreads (s : State) (slot : Nat) (l : LaunchSt) : State :=
  let s := (l.rows.zip (List.range l.rows.length)).foldl (fun s x =>
    if tstate s x.1 = stAbsent then s
    else match stopForSwap s x.1 with
      | (s, true) => saveThread s slot l x.2 x.1
      | (s, false) => s) s
  if l.rows.all fun t => tstate s t = stAbsent then
    let s := endSwap (modLaunch s l.id fun l => { l with swapped := true }) 2
    if l.cancel then cancelLaunch 0 s l.id else s
  else post s 1 .swapOut

/-- Step SWAP_OUT. -/
def swapsOut (s : State) : State :=
  if s.io.swapStatus ≠ 1 then s
  else match findLaunch s s.io.swapLaunch.toNat with
    | none => endSwap s 3
    | some l =>
      match keySlot s l.part with
      | none => endSwap s 3
      | some slot =>
        let h := s.io.swapHandle.toNat
        if l.state ≠ .placed || l.swapped then endSwap s 3
        else if l.swapObj ≠ 0 then swapOutThreads s slot l
        else if !swapFits s slot l h then endSwap s 3
        else swapOutThreads (modLaunch s l.id fun l => { l with swapObj := h }) slot { l with swapObj := h }
def execSwapOut (s : State) : Out := match s.doing with | some .swapOut => .next (swapsOut s) | _ => .next s

/-! ## In (R122) -/

/-- A row comes back: saved segments from its sub-tile, the bytes of the others undefined (log 11). -/
def restoreRow (s : State) (src dst : Thr) (ks : List Nat) : State :=
  visit (visit ((List.range 64).foldl (fun s k =>
    if ks.contains k then copySegment s false src dst k
    else putBytes { s with fresh := s.fresh + 64 } (rowAddr dst.core dst.row + 64 * k)
      ((List.range 64).map fun i => Config.freeByte (s.fresh + i))) s) src) dst

/-- Restore one thread: STATE and PRIO are the stub's, c2 is 0. -/
def restoreThread (s : State) (slot : Nat) (l : LaunchSt) (i : Nat) (t : Thr) : State :=
  let kept := bits (getC s t 2) 0 4
  let prio := prioOf s t
  match swapRow s slot l.swapObj i with
  | none => s
  | some src =>
    let ks := segments (getC s src 5)
    let s := restoreRow s src t ks
    let s := if pWide l.packet then
        match swapRow s slot l.swapObj (l.rows.length + i) with
        | some src => restoreRow s src ⟨t.core, t.row + 12⟩ ks
        | none => s
      else s
    let s := setC (setC s t 0 (setBits (setBits (getC s t 0) 4 4 kept) 9 7 prio)) t 2 0
    match pairOf s t with
    | some p => restPair s p
    | none => s

/-- Step SWAP_IN. -/
def swapsIn (s : State) : State :=
  if s.io.swapStatus ≠ 1 then s
  else match findLaunch s s.io.swapLaunch.toNat with
    | none => endSwap s 3
    | some l =>
      match keySlot s l.part with
      | none => endSwap s 3
      | some slot =>
        if l.state ≠ .placed || !l.swapped || l.swapObj ≠ s.io.swapHandle.toNat
            || !(List.range (swapCount l)).all (fun n => (swapRow s slot l.swapObj n).isSome) then endSwap s 3
        else
          let s := (l.rows.map (·.core)).eraseDups.foldl wakeCore s
          let s := (l.rows.zip (List.range l.rows.length)).foldl (fun s x => restoreThread s slot l x.2 x.1) s
          let s := endSwap (modLaunch s l.id fun l => { l with swapped := false, swapObj := 0 }) 2
          if l.cancel then cancelLaunch 0 s l.id else s
def execSwapIn (s : State) : Out := match s.doing with | some .swapIn => .next (swapsIn s) | _ => .next s

end Sys2Proof.Machine
end

