-- ==== Sys2Proof/Machine/Jobs.lean ====
section
/-! DEFINITION. Engine jobs: command blocks (R362), queues (R210, R252, R261, R266), job references (R258), completion (R213,
R260), JPOLL and JWAIT (R365), and the reading of operands (R151, R162, R379). -/
namespace Sys2Proof.Machine

/-! ## Queues -/

/-- The three queues of a tile. -/
inductive QSel | mat | cpy | gat
  deriving DecidableEq, Repr

/-- The queue of a command. -/
def queueOf : Instr → QSel
  | .cpy .. | .cpyx .. | .cpyc .. => .cpy
  | .gath .. | .scat .. | .scatadd .. => .gat
  | _ => .mat

def jobsIn (t : TileSt) : QSel → List Job
  | .mat => t.jobs
  | .cpy => t.copies
  | .gat => t.gathers
def setJobs (t : TileSt) (q : QSel) (l : List Job) : TileSt :=
  match q with
  | .mat => { t with jobs := l }
  | .cpy => { t with copies := l }
  | .gat => { t with gathers := l }
def modJobs (s : State) (tile : Nat) (q : QSel) (f : List Job → List Job) : State :=
  modTile s tile fun t => setJobs t q (f (jobsIn t q))
def modJob (s : State) (tile : Nat) (q : QSel) (entry : Nat) (f : Job → Job) : State :=
  modJobs s tile q fun l => l.map fun j => if j.entry = entry then f j else j

/-- The step that runs a job's next part. -/
def jobEvent (tile : Nat) (j : Job) : Event :=
  if !j.ptrs.isEmpty || (j.release ≠ 0 && j.done.isNone) then .pointerWrite tile
  else match j.cmd with
    | .mldb .. | .mldbW .. => .mldbJob tile
    | .mout .. => .moutJob tile
    | .mzero .. => .mzeroJob tile
    | .mtest _ => .mtestJob tile
    | .cpy .. => .copyJob tile
    | .cpyx .. => .cpyxJob tile
    | .cpyc .. => .cpycJob tile
    | .gath .. => .gathJob tile
    | .scat .. => .scatJob tile
    | .scatadd .. => .scataddJob tile
    | _ => .matrixJob tile

/-- The job that its engine runs: the first accepted one that has not completed. -/
def runningJob (s : State) (tile : Nat) (q : QSel) : Option Job := (jobsIn (getTile s tile) q).find? fun j => j.status.isNone

/-- A step of the queue's engine is on its way, or its job waits for granules. -/
def engineBusy (s : State) (tile : Nat) (q : QSel) : Bool :=
  (match runningJob s tile q with | some j => j.feeding ≠ 0 | none => false) || s.agenda.any fun x => match x.act with
    | .run e => match q with
      | .mat => [Event.matrixJob tile, .mldbJob tile, .moutJob tile, .mzeroJob tile, .mtestJob tile].contains e
      | .cpy => [Event.copyJob tile, .cpyxJob tile, .cpycJob tile, .pointerWrite tile].contains e
      | .gat => [Event.gathJob tile, .scatJob tile, .scataddJob tile].contains e
    | _ => false

/-- Executor cycles for which a job holds its engine before it acts, besides the free time of its memory accesses: the A
passes and the outliers of an MMUL (R251), the test of an MTEST (R256). -/
def engineTime (j : Job) : Nat :=
  match j.cmd with
  | .mmul .. | .mmulW .. =>
    let fmt := if bits (j.block.getD 6 0) 7 1 = 1 then j.block.getD 7 0 else j.fmt
    (128 * (if bits fmt 0 8 = 0 then 8 else 4) + bits (j.block.getD 4 0) 32 16) / 2
  | .mtest _ => 48
  | _ => 0

/-- The engine goes on with its next job (R210: one at a time, in acceptance order). -/
def runEngine (s : State) (tile : Nat) (q : QSel) : State :=
  match runningJob s tile q with
  | some j =>
    if engineBusy s tile q then s
    else { post s (s.delays.headD 1 + engineTime j) (jobEvent tile j) with delays := s.delays.tail }
  | none => s

/-! ## References (R258) -/

/-- The job reference of an entry. -/
def jobRef (tile : Nat) (q : QSel) (entry : Nat) : Word :=
  BitVec.ofNat 64 (match q with | .mat => entry | .cpy => tile * 256 + 64 + entry | .gat => 128 + entry)

/-- What a reference names, for a thread of a tile: a queue's entry, or the sequencer of its core. -/
inductive RefTo | entry (tile : Nat) (q : QSel) (e : Nat) | sequencer | nothing
  deriving DecidableEq, Repr

def refTo (own : Nat) (x : Word) : RefTo :=
  if bits x 19 45 ≠ 0 then .nothing
  else match bits x 6 2 with
    | 1 => .entry (bits x 8 11) .cpy (bits x 0 6)
    | 0 => if bits x 8 11 = 0 then .entry own .mat (bits x 0 6) else .nothing
    | 2 => if bits x 8 11 = 0 then .entry own .gat (bits x 0 6) else .nothing
    | _ => if bits x 8 11 = 0 && bits x 0 6 = 0 then .sequencer else .nothing

/-! ## Acceptance (R210, R252) -/

/-- The form waits for its job. -/
def waitsForJob : Instr → Bool
  | .mmulW .. | .mldbW .. | .mout .. | .mzero .. | .mtest _ => true
  | _ => false

/-- The lowest free entry. -/
def freeJobEntry (l : List Job) : Option Nat := (List.range Config.jobQueueSize).find? fun e => !l.any fun j => j.entry = e

/-- A command takes an entry: a form that does not wait completes with its reference. -/
def acceptJob (s : State) (tile : Nat) (r : Req) (e : Nat) : State :=
  let q := queueOf r.insn
  let j : Job := { entry := e, cmd := r.insn, thr := r.thr, block := r.block, fmt := r.z, key := r.key, priv := r.priv
                   req := if waitsForJob r.insn then r.id else 0, no := s.nextSeq }
  let s := modJobs { s with nextSeq := s.nextSeq + 1 } tile q fun l => l ++ [j]
  let s := modReq s r.id fun r => { r with phase := .engine }
  let s := if waitsForJob r.insn then
      (if tstate s r.thr = stParked then setC s r.thr 2 (setBits (getC s r.thr 2) 16 48 e) else s)
    else if tileOf r.thr.core = tile then replyArrives s r.id (ansWord (jobRef tile q e))
    else answer s tile r.id (ansWord (jobRef tile q e))
  runEngine s tile q

/-- A command reaches its engine: accepted, or held until an entry is free. -/
def submitTo (s : State) (tile : Nat) (id : Nat) : State :=
  match findReq s id with
  | none => s
  | some r =>
    let q := queueOf r.insn
    let t := getTile s tile
    let ahead := t.full.any fun i => match findReq s i with | some x => queueOf x.insn = q | none => false
    match (if ahead then none else freeJobEntry (jobsIn t q)) with
    | some e => acceptJob s tile r e
    | none => modTile (modReq s id fun r => { r with phase := .engine }) tile fun t => { t with full := t.full ++ [id] }

/-- An entry is free: the first command held for the queue takes it. -/
def admitFull (s : State) (tile : Nat) (q : QSel) : State :=
  let t := getTile s tile
  match t.full.findSome? (fun i => match findReq s i with | some r => if queueOf r.insn = q then some r else none | none => none),
      freeJobEntry (jobsIn t q) with
  | some r, some e => acceptJob (modTile s tile fun t => { t with full := t.full.filter (· ≠ r.id) }) tile r e
  | _, _ => s

/-- Free an entry. -/
def freeEntryOf (s : State) (tile : Nat) (q : QSel) (entry : Nat) : State :=
  admitFull (modJobs s tile q fun l => l.filter fun j => j.entry ≠ entry) tile q

/-! ## Command blocks (R362) -/

/-- Words of a block. -/
def bw (b : List Word) (i : Nat) : Word := b.getD i 0

/-- The trap of a block's offset (R362). -/
def blockTrap (x n : Nat) : Option Cause :=
  if x < 1056 || 3968 < x + n then some .rowProtect else if x % 8 ≠ 0 then some .misaligned else none

/-- An instruction reads registers, one of which names n bytes of its own row. -/
def withBlock (s : State) (rs : List SReg) (a : SReg) (n : Nat) (k : State → Nat → State) : State :=
  withChecked s (sWords s.cur rs) (fun s => blockTrap (getS s s.cur a).toNat n) fun s => k s (getS s s.cur a).toNat

/-- An instruction that takes n bytes of its own row, and c6 (R130, R242): copied at issue. -/
def blockCommand (i : Instr) (a : SReg) (n kind cause : Nat) (start : State → Nat → State) (s : State) : State :=
  withBlock s [a] a n fun s x =>
    let t := s.cur
    withRegs s (cAddr t 6 :: cAddr t 7 :: wordsOf (ownAddr t x) n) fun s =>
      beyond s kind cause 0 { newReq s i with z := getC s t 6, block := readWords s (ownAddr t x) (n / 8) } start

/-! ## Completion (R213, R256, R260) -/

/-- The block's w6 routes of a copy or gather command (R366, R368). -/
def routes (j : Job) : Bool × Bool :=
  match queueOf j.cmd with
  | .mat => (!waitsForJob j.cmd, false)
  | .cpy | .gat => (bits (bw j.block 6) 1 1 = 1, bits (bw j.block 6) 2 1 = 1)

/-- The inbox entry of a completion (R340). -/
def jobEntry (s : State) (tile : Nat) (thr : Thr) (key : BitVec 16) (ref status : Word) : State :=
  toInbox s tile ⟨.job, key ++ 0#2 ++ refOf s thr, ref, status, refOf s thr, 0, none⟩

/-- The job's own step has sent writes whose acknowledgement the job awaits (R262). -/
def sendsWrites (s : State) : Bool := match s.acting with | some a => !a.out.isEmpty || a.far | none => false

/-- Deliver a completion by every route; one without a route is held for JPOLL or JWAIT.  A JWAIT that waits for it is answered, and
takes it when the answer arrives (R365).  A job that has just sent writes completes when they have landed (R262). -/
def deliverJob (s : State) (tile : Nat) (q : QSel) (j : Job) (status : Word) : State :=
  if sendsWrites s then modJob s tile q j.entry fun j => { j with done := some status }
  else
  let s := modJob s tile q j.entry fun j =>
    { j with status := some status, ptrs := [], release := 0, feeding := 0, todo := [], got := [], done := none, failed := none }
  let (inbox, ctr) := routes j
  let s := if inbox then jobEntry s tile j.thr j.key (jobRef tile q j.entry) status else s
  let n := bits (bw j.block 6) 48 16
  let s := if ctr && ownsCounter s (partKey s (tileOf j.thr.core)) n then
      send s .req tile ioDie (.run (.counterDecrement n (bits status 0 8 ≠ 0) 0))
    else s
  let s := if j.req ≠ 0 then
      match findReq s j.req with
      | some _ => replyArrives s j.req (ansWord status)
      | none => s
    else s
  let s := j.waiters.foldl (fun s id => answer s tile id (ansWord status)) s
  let s := if inbox || ctr || j.req ≠ 0 then freeEntryOf s tile q j.entry else s
  runEngine s tile q

/-! ## Granules at their owners (R36, R93, R266, R275, log 4) -/

/-- The class of a queue's accesses. -/
def feedCls : QSel → FeedCls
  | .mat => .matrix
  | .cpy => .copy
  | .gat => .gather

/-- The accesses of a job that meets granules in this order: each granule is one, of the gather engine each element (R253, R262,
R266). -/
def admissions (q : QSel) (l : List (Nat × Bool)) : List Feed :=
  (if q = .gat then l else l.foldl (fun l g => if l.contains g then l else l ++ [g]) []).map fun g =>
    { gran := g.1, act := if g.2 then .fetch else .meet }

/-- Send accesses to their owners' ingress. -/
def sendGranules (s : State) (tile no : Nat) (c : FeedCls) (l : List Feed) : State :=
  l.foldl (fun s f => send s .bulk tile (tileOf (coreOfAddr (64 * f.gran))) (.feed { f with no := no, cls := c })) s

/-- The accesses of a job go to their owners, the first 256 at once and each other one when one before it has been admitted (R266; of
the other engines too, DESIGN CHOICE, log 4). -/
def sendFeeds (s : State) (tile : Nat) (q : QSel) (j : Job) (l : List Feed) : State :=
  let now := l.take Config.jobAccesses
  sendGranules (modJob s tile q j.entry fun j => { j with feeding := now.length, todo := l.drop Config.jobAccesses }) tile j.no (feedCls q) now

/-- The handles that a job's block and formats name. -/
def jobHandles (j : Job) : List Nat :=
  let w (i lo : Nat) : Nat := bits (bw j.block i) lo 32
  match queueOf j.cmd with
  | .cpy => [w 0 0, w 0 32, w 5 0]
  | .gat => [w 0 0, w 0 32, w 2 32]
  | .mat => [w 0 0, w 1 0, w 2 0, w 4 0, w 7 32, bits j.fmt 32 32]

/-- The job waits for a sub-tile that is changing, or for acknowledgements: it is looked at again in the next cycle (R160, R171). -/
def again (s : State) (tile : Nat) (j : Job) : State := post s 1 (jobEvent tile j)

/-- The job stands where it stood: it only waits. -/
def stillThere (s : State) (tile : Nat) (q : QSel) (j : Job) : Bool :=
  match runningJob s tile q with
  | some k => k.no = j.no && k.ptrs.isEmpty && k.release = j.release && k.done.isNone
  | none => false

/-- Writes that have left the module are acknowledged once the I/O die has echoed (R196, R262): the request that waits for it. -/
def awaitFar (s : State) (tile : Nat) (q : QSel) (j : Job) : State :=
  let id := s.nextReq
  let r : Req := { id := id, thr := j.thr, insn := j.cmd, word := 0, phase := .drop, held := true, echoes := [ioDie] }
  let seq := s.nextSeq
  let s := modJob (addReq { s with nextSeq := seq + 1 } r) tile q j.entry fun j => { j with release := id }
  send s .req tile ioDie (.run (.fenceProbe id ioDie seq))

/-- A job acts on what it has fetched: its writes go to their owners (R262, R266, R275). -/
def actJob (s : State) (tile : Nat) (q : QSel) (j : Job) (run : State → Job → State) : State :=
  let seq := s.nextSeq
  let t := run { modJob s tile q j.entry fun j => { j with ready := true } with
    nextSeq := seq + 1, acting := some { got := j.got, each := q = .gat } } j
  let a := t.acting.getD {}
  let t := { t with acting := none }
  let t := if a.far then awaitFar t tile q j else t
  if !a.out.isEmpty then sendFeeds t tile q j (a.out.map fun f => { f with tile := tile, seq := seq })
  else if a.far then
    match runningJob t tile q with
    | some j => again t tile j
    | none => t
  else t

/-- Run a job whose granules have been fetched; one whose granules have not is tried out to learn which they are, and acts at once
where it needs none (log 4). -/
def runOrFeed (s : State) (tile : Nat) (q : QSel) (j : Job) (run : State → Job → State) : State :=
  let s := (jobHandles j).foldl (fun s h => touchRecord s (slotOf s (tileOf j.thr.core)) h) s
  if j.ready then actJob s tile q j run
  else
    let t := run { s with trace := some [], acting := some { each := q = .gat } } j
    if stillThere t tile q j then { t with trace := none, acting := none }
    else
      let l := admissions q (t.trace.getD []).reverse
      if l.isEmpty then actJob s tile q j run else sendFeeds s tile q j l

/-- A job whose writes have been sent completes when each has been acknowledged (R262): with its status, or that of the first that
failed. -/
def settleJob (s : State) (tile : Nat) (q : QSel) (j : Job) (status : Word) : State :=
  if j.feeding ≠ 0 then s
  else if (findReq s j.release).isSome then again s tile j
  else deliverJob s tile q j (match j.failed with | some f => f.2 | none => status)

/-- Run a queue's current job when its command is of the step's kind: stopped with a status word on a DOWN stack (R190) or
where it was cancelled (R254, R260); completed where its writes have landed. -/
def withJob (s : State) (tile : Nat) (q : QSel) (mine : Instr → Bool) (stopped : State → Job → Word → State) (run : State → Job → State) : State :=
  match runningJob s tile q with
  | none => s
  | some j =>
    if !mine j.cmd then s
    else if stackDown s (tile / 128) then stopped s j (statusWord stDown 0xFF 0)
    else match j.done with
      | some w => settleJob s tile q j w
      | none => if j.cancel then stopped s j (statusWord stCancelledJob 0xFF 0) else runOrFeed s tile q j run

/-! ## JPOLL and JWAIT (R365) -/

/-- The reference names nothing that the caller can take. -/
def noJob : Word := 0xFFFFFFFFFFFFFFFE#64

/-- The job of an entry, if the calling row issued it. -/
def ownJob (s : State) (tile : Nat) (q : QSel) (e : Nat) (t : Thr) : Option Job :=
  (jobsIn (getTile s tile) q).find? fun j => j.entry = e && j.thr = t

/-- The job names no completion route (R260). -/
def unrouted (j : Job) : Bool := routes j = (false, false) && j.req = 0

/-- Take a completion: a job without a route is done with. -/
def takeJob (s : State) (tile : Nat) (q : QSel) (j : Job) : State := if unrouted j then freeEntryOf s tile q j.entry else s

/-- The completed job whose JWAIT a request is. -/
def awaitedJob (s : State) (id : Nat) : Option (Nat × QSel × Job) :=
  s.tiles.findSome? fun t => [QSel.mat, .cpy, .gat].findSome? fun q =>
    ((jobsIn t.2 q).find? fun j => j.status.isSome && j.waiters.contains id).map fun j => (t.1, q, j)

/-- The answer of a JWAIT has arrived: it takes the completion (R365); one that was withdrawn before has left it held (R77). -/
def takeAwaited (s : State) (id : Nat) : State :=
  match awaitedJob s id with
  | some (tile, q, j) => takeJob s tile q j
  | none => s

/-- Step REPLY. -/
def execReply (s : State) : Out :=
  match s.doing with
  | some (.reply id a) => .next (replyArrives (if (findReq s id).isSome then takeAwaited s id else s) id a)
  | _ => .next s

/-! ## Operands (R151, R162, R379) -/

/-- A sub-tile as a job reads it: its bytes, the offsets of its poisoned words, and the status of a read that fails
whole, 0 for none. -/
structure Page where
  bytes : Array Byte
  bad   : List Nat := []
  fail  : Nat := 0

/-- The pages that a job has read. -/
abbrev Pages := List (Nat × Page)

/-- The n bytes of memory from an address. -/
def memPage (m : List Host.Cell) (lo n : Nat) : Array Byte :=
  (m.filter fun c => lo ≤ c.1 && c.1 < lo + n).foldl (fun a c => a.setIfInBounds (c.1 - lo) c.2) (Array.replicate n Memory.unlisted)

/-- Sub-tiles in the order in which a list of places first touches them. -/
def subsOf (l : List Spot) : List Nat :=
  (l.foldl (fun (a : List Nat) x => match x with | .at_ n _ => if a.contains n then a else n :: a | .oos | .zero => a) []).reverse

/-- Offsets within a sub-tile. -/
def offsOf (l : List Spot) (n : Nat) : List Nat := l.filterMap fun x => match x with | .at_ k o => if k = n then some o else none | .oos | .zero => none

/-- Granules of offsets, rising. -/
def granOffs (offs : List Nat) : List Nat := (offs.map (· / 64)).foldl (fun a g => insertNat g a) []

/-- Homes of sub-tiles. -/
def homesOf (s : State) (slot : Nat) (o : Opd) (subs : List Nat) (write : Bool) : List (Nat × Home) := subs.map fun n => (n, homeOf s slot o n write)

/-- The first sub-tile that cannot be reached: status and number (R379 step 3). -/
def firstFault (s : State) (o : Opd) (l : List (Nat × Home)) : Option (Nat × Nat) := l.findSome? fun p => (homeFault s o p.2).map fun k => (k, p.1)

/-- A sub-tile of the places is changing, or RHOLD holds an answer that one of its granules needs (R160, R171, R185). -/
def anyWaits (s : State) (slot : Nat) (o : Opd) (l : List Spot) : Bool :=
  (subsOf l).any fun n => homeWaits s slot o n (granOffs (offsOf l n))

/-- Read granules of a majority sub-tile into a page. -/
def majPage (s : State) (o : Opd) (e : List Word) (sub : Nat) : List Nat → Page → State × Page
  | [], p => (s, p)
  | g :: l, p =>
    match majLoad s o e sub g with
    | (s, .error _) => majPage s o e sub l { p with bad := (List.range 8).map (64 * g + 8 * ·) ++ p.bad }
    | (s, .ok x) =>
      majPage s o e sub l { p with bytes := (List.range 64).foldl (fun a i => a.setIfInBounds (64 * g + i) (x.extractLsb' (8 * i) 8)) p.bytes }

/-- Who acts for a job: the engine's tile, the partition slot of its objects, the thread that issued it, and whether each element
is one admission (R266). -/
structure Doer where
  tile : Nat
  slot : Nat
  thr  : Thr
  each : Bool := false

/-- Who acts for a job of a tile's queue. -/
def doerOf (s : State) (tile : Nat) (j : Job) : Doer := ⟨tile, slotOf s (tileOf j.thr.core), j.thr, queueOf j.cmd = .gat⟩

/-- Bytes of another module: open where there is a path (R195), else 0, and each read is diverted (R197). -/
def farPage (s : State) (w : Doer) (dev core row n : Nat) : State × Array Byte :=
  if reachable s dev then ({ s with fresh := s.fresh + 4096 }, Array.ofFn fun i : Fin 4096 => Config.remoteByte (s.fresh + i.val))
  else ((List.range n).foldl (fun s _ =>
    diversion s w.tile (slotOf s w.tile) (BitVec.ofNat 64 (dev * 134217728 + core * 128 + row)) 0x06 (refOf s w.thr)) s,
    Array.replicate 4096 0)

/-- A row as a job sees it: what it has fetched of it, and memory as it is elsewhere (R275, log 4). -/
def seenPage (s : State) (a : Nat) : Array Byte × List Nat :=
  let got : List Granule := match s.acting with | some x => x.got.filter fun f => f.gran / 64 = a / 4096 | none => []
  let bad := (s.poison.filter fun p => a ≤ p && p < a + 4096).map (· - a)
  got.foldl (fun p f =>
    let o := 64 * (f.gran % 64)
    ((List.range 64).foldl (fun x i => x.setIfInBounds (o + i) (f.data.extractLsb' (8 * i) 8)) p.1,
      p.2.filter (fun b => !(o ≤ b && b < o + 64)) ++ f.bad.map (o + ·))) (memPage s.mem a 4096, bad)

/-- A job meets an element's granule, where it has one in this module (log 4). -/
def noteSpot (s : State) (hs : List (Nat × Home)) (x : Spot) : State :=
  match x with
  | .oos | .zero => s
  | .at_ n off => match hs.find? fun h => h.1 = n with
    | some (_, .place dev core row _) =>
      if dev = s.io.devid.toNat && !stackDown s (stackOf core) then noteGranule s true (rowAddr core row + off) else s
    | _ => s

/-- Read a sub-tile for the offsets that a job uses. -/
def readPage (s : State) (w : Doer) (o : Opd) (h : Home) (sub : Nat) (offs : List Nat) : State × Page :=
  let blank := Array.replicate 4096 (0 : Byte)
  let flat (x : Word) (a : Array Byte) (i : Nat) : Array Byte :=
    (List.range 8).foldl (fun a k => a.setIfInBounds (8 * i + k) (x.extractLsb' (8 * k) 8)) a
  let units (n : Nat) : List Nat := (offs.map (· / n)).foldl (fun a w => insertNat w a) []
  match h with
  | .notRes => (s, ⟨blank, [], stNotResident⟩)
  | .down => (s, ⟨blank, [], stDown⟩)
  | .bad => (s, ⟨blank, [], stPoisoned⟩)
  | .const x => (s, ⟨(units 8).foldl (flat x) blank, [], 0⟩)
  | .module => (s, ⟨(units 8).foldl (fun a i => flat (moduleRead s (sub * 512 + i)) a i) blank, [], 0⟩)
  | .maj e => majPage s o e sub (granOffs offs) ⟨blank, [], 0⟩
  | .place dev core row _ =>
    if dev ≠ s.io.devid.toNat then
      let y := farPage s w dev core row (if w.each then offs else granOffs offs).length
      (y.1, ⟨y.2, [], 0⟩)
    else if stackDown s (stackOf core) then (s, ⟨blank, [], stDown⟩)
    else
      let a := rowAddr core row
      let s := if s.bitErrs.isEmpty then s else (units 8).foldl (fun s w => touchWord s (a + 8 * w)) s
      let y := seenPage s a
      (s, ⟨y.1, y.2, 0⟩)

/-- Read every sub-tile that a list of places touches. -/
def readHomes (s : State) (w : Doer) (o : Opd) (l : List Spot) : List (Nat × Home) → Pages → State × Pages
  | [], ps => (s, ps)
  | (n, h) :: hs, ps =>
    match readPage s w o h n (offsOf l n) with
    | (s, p) => readHomes s w o l hs ((n, p) :: ps)

/-- Read every sub-tile that a list of places touches, its entry first; the granules are met in the order of the places. -/
def readPages (s : State) (w : Doer) (o : Opd) (l : List Spot) (hs : List (Nat × Home)) : State × Pages :=
  let s := touchEntries s w.slot o (hs.map (·.1))
  readHomes (if s.trace.isSome then l.foldl (noteSpot · hs) s else s) w o l hs []

/-- The first place whose read fails: status and sub-tile (R379 step 4). -/
def firstBad (ps : Pages) (l : List Spot) : Option (Nat × Nat) :=
  if ps.all fun p => p.2.fail = 0 && p.2.bad.isEmpty then none
  else l.findSome? fun x => match x with
    | .oos | .zero => none
    | .at_ n off => match ps.find? fun p => p.1 = n with
      | some p => if p.2.fail ≠ 0 then some (p.2.fail, n) else if p.2.bad.contains (off / 8 * 8) then some (stPoisoned, n) else none
      | none => none

/-- An element of the pages: what is out of shape under policy ZERO reads as 0. -/
def pageElem (ps : Pages) (size : Nat) : Spot → Nat
  | .oos | .zero => 0
  | .at_ n off => match ps.find? fun p => p.1 = n with
    | some p => ofBytes ((List.range size).map fun i => p.2.bytes.getD (off + i) 0)
    | none => 0

/-- An operand's elements, read whole before anything is written: its places, what they read as. -/
structure Reading where
  w     : Doer
  o     : Opd
  spots : List Spot
  homes : List (Nat × Home)

/-- The places of elements, translated. -/
def reading (s : State) (w : Doer) (o : Opd) (idx : List Int) : Reading :=
  let spots := idx.map fun i => spotAt o i
  ⟨w, o, spots, homesOf s w.slot o (subsOf spots) false⟩

/-- A place is out of shape under policy FAULT (R151). -/
def Reading.oos (r : Reading) : Bool := r.spots.any (· == .oos)
/-- A sub-tile of the reading is changing (R160, R171). -/
def Reading.waits (s : State) (r : Reading) : Bool := anyWaits s r.w.slot r.o r.spots
/-- The first of its sub-tiles that cannot be reached. -/
def Reading.fault (s : State) (r : Reading) : Option (Nat × Nat) := firstFault s r.o r.homes
/-- Read it. -/
def Reading.pages (s : State) (r : Reading) : State × Pages := readPages s r.w r.o r.spots r.homes
/-- Its elements, as numbers. -/
def Reading.values (r : Reading) (ps : Pages) : Array Nat := (r.spots.map (pageElem ps r.o.size)).toArray

end Sys2Proof.Machine
end

