-- ==== Sys2Proof/Machine/Matrix.lean ====
section
/-! DEFINITION. The matrix engine: MMUL, MLDB, MOUT, MZERO, MTEST, MSTAT and their jobs (R210 to R214, R234, R235, R237 to
R257, R363, R364). -/
namespace Sys2Proof.Machine

/-! ## Exact values (R234) -/

/-- An element of A or B: an 8-bit float as a signed multiple of 2^−16, or an i8 as itself; a zero has a sign (R225). -/
inductive MEl | nan | inf (neg : Bool) | fin (neg : Bool) (x : Nat)
  deriving DecidableEq, Repr

def mEl (fmt x : Nat) : MEl :=
  if fmt = 0 then .fin (sval 8 x < 0) (sval 8 x).natAbs
  else match (if fmt = 12 then FFmt.e4m3 else FFmt.e5m2).unpack false x with
    | .nan _ => .nan
    | .inf n => .inf n
    | .fin n m e => .fin n (m * 2 ^ (e + 16).toNat)

/-- A sum of products: a NaN, infinities of either sign, and the exact finite part. -/
structure DSum where
  nan : Bool := false
  pos : Bool := false
  neg : Bool := false
  x   : Int := 0

/-- Add one product exactly. -/
def DSum.add (d : DSum) (a b : MEl) : DSum :=
  let inf (n : Bool) : DSum := if n then { d with neg := true } else { d with pos := true }
  match a, b with
  | .nan, _ | _, .nan => { d with nan := true }
  | .inf m, .inf n => inf (m != n)
  | .inf m, .fin n y => if y = 0 then { d with nan := true } else inf (m != n)
  | .fin m x, .inf n => if x = 0 then { d with nan := true } else inf (n != m)
  | .fin m x, .fin n y => { d with x := d.x + signed (m != n) (x * y) }

/-- The sum as a value: products of 8-bit floats are multiples of 2^−32. -/
def DSum.val (d : DSum) : FVal :=
  if d.nan || (d.pos && d.neg) then .nan false
  else if d.pos then .inf false
  else if d.neg then .inf true
  else .fin (d.x < 0) d.x.natAbs (-32)

def exactMul : FVal → FVal → FVal
  | .nan _, _ | _, .nan _ => .nan false
  | .inf a, .inf b => .inf (a != b)
  | .inf a, .fin n m _ => if m = 0 then .nan false else .inf (a != n)
  | .fin n m _, .inf b => if m = 0 then .nan false else .inf (n != b)
  | .fin n1 m1 e1, .fin n2 m2 e2 => .fin (n1 != n2) (m1 * m2) (e1 + e2)

def exactAdd : FVal → FVal → FVal
  | .nan _, _ | _, .nan _ => .nan false
  | .inf a, .inf b => if a = b then .inf a else .nan false
  | .inf a, .fin .. => .inf a
  | .fin .., .inf b => .inf b
  | .fin n1 m1 e1, .fin n2 m2 e2 =>
    let e := min e1 e2
    let x := signed n1 (m1 * 2 ^ (e1 - e).toNat) + signed n2 (m2 * 2 ^ (e2 - e).toNat)
    .fin (x < 0) x.natAbs e

/-- rne32 of an exact value. -/
def rne32 : FVal → FRes
  | .nan _ => (FFmt.f32.nan, 0)
  | .inf n => (FFmt.f32.inf n, 0)
  | .fin n m e => FFmt.f32.round .rne false (.mode .rne) n m e

/-- The value of an f32. -/
def f32Val (x : Nat) : FVal := FFmt.f32.unpack false x

/-- rne32 of an f32 and an exact value. -/
def addTo32 (acc : Nat) (v : FVal) : FRes := fsumVal FFmt.f32 FEnv.engine (f32Val acc) v

/-- An e8s2 block scale (R224). -/
def scaleVal (c : Nat) : FVal := if c / 4 = 255 then .nan false else .fin false (4 + c % 4) (((c / 4 : Nat) : Int) - 129)

/-! ## Sub-arrays (R237, R255 to R257) -/

/-- Unused spares, the slots (8g + i) that spares have taken, latest first, and the slots that are lost without one. -/
structure Spares where
  unused  : List Nat := [64, 65]
  serving : List (Nat × Nat) := []
  lost    : List Nat := []

/-- Fence one more sub-array. -/
def Spares.fence (p : Spares) (k : Nat) : Spares :=
  let p := { p with unused := p.unused.filter (· ≠ k) }
  match (if k < 64 then some k else (p.serving.find? fun x => x.1 = k).map (·.2)) with
  | none => p
  | some i => match p.unused with
    | u :: us => { p with unused := us, serving := (u, i) :: p.serving }
    | [] => { p with lost := i :: p.lost }

/-- W(g), the working sub-arrays of a group. -/
def workingIn (t : TileSt) (g : Nat) : Nat := 8 - ((t.fenced.foldl Spares.fence {}).lost.filter (· / 8 = g)).length
/-- The working sub-arrays of a group in the order of its slots: a spare takes the place of the one that it replaces (R237). -/
def workersOf (t : TileSt) (g : Nat) : List Nat :=
  let p := t.fenced.foldl Spares.fence {}
  ((List.range 8).map (8 * g + ·)).filterMap fun i =>
    if p.lost.contains i then none else some (((p.serving.find? fun x => x.2 = i).map (·.1)).getD i)
/-- Dense 1× mode is not withdrawn (R257). -/
def denseOk (t : TileSt) : Bool := (List.range 8).all fun g => workingIn t g = 8

/-- The self-test (R256): faulty sub-arrays are fenced, and then both B banks are EMPTY. -/
def selfTest (t : TileSt) : TileSt × Bool :=
  if t.faulty.isEmpty then (t, false)
  else ({ t with fenced := t.fenced ++ t.faulty, faulty := [], bbanks := [.empty, .empty] }, true)

/-- Sub-array and number of each present 16 × 16 block, assigned in ascending order of block rows (R237, R248): a 32 × 32 block takes
two working sub-arrays in each of its two groups. -/
def layoutOf (t : TileSt) (f : Nat) (wide : Bool) (live : List Bool) : List (Nat × Nat) :=
  (List.range 8).flatMap fun g =>
    let blocks := ((List.range (8 * f)).filter fun kb => live.getD (8 * kb + g) false).map (8 * · + g)
    let free := if wide then
        let n := min (workersOf t (g / 2 * 2)).length (workersOf t (g / 2 * 2 + 1)).length / 2
        (workersOf t g).take (2 * n)
      else workersOf t g
    free.zip blocks

/-- Sub-arrays that a job computes with (R237, R248): every working one of a streamed B, those of a LOADED bank's layout. -/
def arraysUsed (t : TileSt) (held : Option (List (Nat × Nat))) : List Nat :=
  match held with
  | some l => l.map (·.1)
  | none => (List.range 8).flatMap (workersOf t)

/-- A job of the matrix queue has completed with a status word: its self-test, where one is due, the counters of ENGSTAT, and
its delivery. -/
def completeMat (s : State) (tile : Nat) (j : Job) (status : Word) (nan ovf : Bool) : State :=
  let t := getTile s tile
  let n := t.sinceTest + 1
  let due := (if t.testInt = 0 then 256 else t.testInt.toNat) ≤ n || t.jobs.all fun x => x.entry = j.entry || x.status.isSome
  let r := if due then selfTest { t with sinceTest := 0 } else ({ t with sinceTest := n }, false)
  let st := if r.2 && bits status 0 8 = 0 then statusWord 1 0xFF 0 else status
  let good : Bool := bits st 0 8 ≤ 1
  let add (b : Bool) : BitVec 32 := if good && b then 1 else 0
  let s := setTile s tile { r.1 with
    jobsDone := r.1.jobsDone + (if good then 1 else 0), nanJob := r.1.nanJob + add nan, ovfJob := r.1.ovfJob + add ovf
    suspect := r.1.suspect + (if bits st 0 8 = 1 then 1 else 0) }
  deliverJob s tile .mat j st

/-! ## Operands of matrix jobs -/

/-- INVALID for an operand. -/
def invalid (oper : Nat) : Word := statusWord stInvalid oper 0

/-- An operand read with the read class, of one of these formats, in shape (R379 step 2). -/
def soundReading (s : State) (tile : Nat) (j : Job) (h : Nat) (fmts : List Nat) (idx : List Int) : Option Reading :=
  match operand s (slotOf s tile) j.key j.priv h [0] with
  | none => none
  | some o =>
    if !fmts.contains o.fmt then none
    else
      let r := reading s { doerOf s tile j with each := false } o idx
      if r.oos then none else some r

/-- The first fault of operands in ascending order (R379 step 3). -/
def readingsFault (s : State) (l : List (Nat × Reading)) : Option Word :=
  l.findSome? fun p => (p.2.fault s).map fun f => statusWord f.1 p.1 f.2

/-- Read operands in order, and the first word that is poisoned among them (R379 step 4). -/
def readOperands : State → List (Nat × Reading) → State × List (Array Nat) × Option Word
  | s, [] => (s, [], none)
  | s, (k, r) :: l =>
    let x := r.pages s
    let y := readOperands x.1 l
    (y.1, r.values x.2 :: y.2.1, match firstBad x.2 r.spots with | some f => some (statusWord f.1 k f.2) | none => y.2.2)

/-! ## MMUL (R211, R212, R234, R235, R249, R250) -/

/-- The 16,384 elements of a bank. -/
def bankCells (b : AccBank) : Array Nat := if b.cells.isEmpty then Array.replicate 16384 0 else (b.cells.map (·.toNat)).toArray

/-- What a job computes with: A by rows of 128F, B by rows of 128 with the presence of its blocks, the scale mode and scales,
the outliers. -/
structure MatData where
  int   : Bool
  F     : Nat
  a     : Array MEl
  b     : Array MEl
  live  : Array Bool
  mode  : Nat
  sa    : Array Nat
  sb    : Array Nat
  outs  : List Word

/-- The exact sum over rows k of a range of K-tile t, absent blocks left out (R248). -/
def MatData.dot (x : MatData) (t m n k len : Nat) : DSum :=
  (List.range len).foldl (fun d i =>
    let r := 128 * t + k + i
    if x.live.getD (r / 16 * 8 + n / 16) true then
      d.add (x.a.getD (m * (128 * x.F) + r) (.fin false 0)) (x.b.getD (r * 128 + n) (.fin false 0))
    else d) {}

/-- One element of the bank after K-tile t, and whether a rounding of a finite value gave an infinity. -/
def MatData.step (x : MatData) (t m n acc : Nat) : Nat × Bool :=
  let env := FEnv.engine
  let overrun (f : Word) : Bool := f &&& fOF ≠ 0
  if x.int then ((((acc : Int) + (x.dot t m n 0 128).x) % 4294967296).toNat, false)
  else match x.mode with
    | 0 =>
      let r := addTo32 acc (x.dot t m n 0 128).val
      (r.1, overrun r.2)
    | 1 =>
      let p := rne32 (x.dot t m n 0 128).val
      let sc := fmul FFmt.f32 env (x.sa.getD (128 * t + m) 0) (x.sb.getD t 0)
      let r := fmaVal FFmt.f32 env (f32Val p.1) (f32Val sc.1) (f32Val acc)
      (r.1, overrun p.2 || overrun sc.2 || overrun r.2)
    | _ =>
      let d := (List.range 4).foldl (fun v j =>
        exactAdd v (exactMul (exactMul (x.dot t m n (32 * j) 32).val (scaleVal (x.sa.getD (512 * t + 4 * m + j) 0)))
          (scaleVal (x.sb.getD (512 * t + 4 * n + j) 0)))) (.fin false 0 0)
      let q := rne32 d
      let r := addTo32 acc (f32Val q.1)
      (r.1, overrun q.2 || overrun r.2)

/-- An element of B as a value. -/
def MEl.val : MEl → FVal
  | .nan => .nan false
  | .inf n => .inf n
  | .fin n x => .fin n x (-16)

/-- One outlier's correction of element n of its row (R235): B is 0 in an absent block (R250). -/
def MatData.fix (x : MatData) (t : Nat) (w : Word) (n acc : Nat) : Nat × Bool :=
  let k := bits w 7 7
  let r := 128 * t + k
  let b : MEl := if x.live.getD (r / 16 * 8 + n / 16) true then x.b.getD (r * 128 + n) (.fin false 0) else .fin false 0
  let f := match x.mode with
    | 0 => FVal.fin false 1 0
    | 1 => f32Val (x.sb.getD t 0)
    | _ => scaleVal (x.sb.getD (512 * t + 4 * n + k / 32) 0)
  let y := addTo32 acc (exactMul (exactMul (f32Val (bits w 32 32)) b.val) f)
  (y.1, y.2 &&& fOF ≠ 0)

/-- Apply a change to one cell. -/
def atCell (i : Nat) (f : Nat → Nat × Bool) (c : Array Nat × Bool) : Array Nat × Bool :=
  let y := f (c.1.getD i 0)
  (c.1.setIfInBounds i y.1, c.2 || y.2)

/-- All K-tiles in order, each followed by its outliers (R249). -/
def MatData.run (x : MatData) (c : Array Nat) : Array Nat × Bool :=
  (List.range x.F).foldl (fun c t =>
    let c := (List.range 16384).foldl (fun c i => atCell i (x.step t (i / 128) (i % 128)) c) c
    (x.outs.filter fun w => bits w 14 2 = t).foldl (fun c w =>
      (List.range 128).foldl (fun c n => atCell (bits w 0 7 * 128 + n) (x.fix t w n) c) c) c) (c, false)

/-- Formats and scale mode that R242 allows. -/
def formatsOk (af bf cf sm : Nat) : Bool :=
  ((af = 12 || af = 13) && (bf = 12 || bf = 13) && cf = 10 && sm ≤ 2) || (af = 0 && bf = 0 && cf = 2 && sm = 0)

/-- The number of a format tag. -/
def AccTag.code : AccTag → Nat
  | .none => 0
  | .f32 => 10
  | .i32 => 2

/-- Which bank a streamed job uses (R244): one that is not LOADED, and of two the one not streamed into last. -/
def streamBank (t : TileSt) : Option Nat :=
  let free (b : Nat) : Bool := match t.bbanks.getD b .empty with | .loaded .. => false | .empty | .stream => true
  match free 0, free 1 with
  | true, true => some (if t.bbanks.getD 0 .empty = .stream then 1 else 0)
  | true, false => some 0
  | false, true => some 1
  | false, false => none

/-- Where a job's B comes from: streamed through a bank, or a LOADED bank with F, presence and elements (R244, R245); none
makes it INVALID with OPER 1. -/
inductive BSource
  | streamed (bank : Nat)
  | held (f : Nat) (live : List Bool) (data : List Byte) (layout : List (Nat × Nat))

def bSource (t : TileSt) (blk : List Word) (bf : Nat) : Option BSource :=
  if bits (bw blk 1) 0 32 ≠ 0 then
    if denseOk t then (streamBank t).map .streamed else none
  else if bits (bw blk 1) 33 31 ≠ 0 || bits (bw blk 2) 32 32 ≠ 0 then none
  else match t.bbanks.getD (bits (bw blk 1) 32 1) .empty with
    | .loaded fmt f live data _ l => if fmt = bf then some (.held f live data l) else none
    | .empty | .stream => none

/-- A job that ends before it runs (R190, R213, R246). -/
def stopMat (s : State) (tile : Nat) (j : Job) (status : Word) : State :=
  completeMat (modTile s tile (loseBanks · j)) tile j status false false

/-- A job that ends on an operand: POISONED and STACK_DOWN cost it its bank, the others leave it (R213, R246, R259). -/
def failMat (s : State) (tile : Nat) (j : Job) (st : Word) : State :=
  if bits st 0 8 = stPoisoned || bits st 0 8 = stDown then stopMat s tile j st else completeMat s tile j st false false

/-- Zero an accumulator bank (R240). -/
def zeroBank (s : State) (tile b : Nat) : State := modTile s tile fun t => { t with acc := t.acc.set b {} }

/-- What the engine finds in a block before it reads anything: the status of a fault, or the readings of the operands. -/
structure MatPlan where
  a   : Reading
  b   : Option Reading
  sc  : Option Reading
  ol  : Option Reading
  src : BSource

/-- The readings with their OPER numbers, in ascending order. -/
def MatPlan.list (p : MatPlan) : List (Nat × Reading) :=
  (0, p.a) :: ([p.b.map ((1, ·)), p.sc.map ((2, ·)), p.ol.map ((3, ·))].filterMap id)

/-- The format word of a job. -/
def jobFormats (j : Job) : Word := if bits (bw j.block 6) 7 1 = 1 then bw j.block 7 else j.fmt

/-- Indices of scales, in the order in which the job reads them (R243). -/
def scaleIndices (sm f asc bsc : Nat) : List Nat :=
  (List.range f).flatMap fun t =>
    if sm = 1 then (bsc + t) :: (List.range 128).map (asc + 128 * t + ·)
    else (List.range 512).flatMap fun i => [asc + 512 * t + i, bsc + 512 * t + i]

/-- Steps 1 and 2 of R379. -/
def matPlan (s : State) (tile : Nat) (j : Job) : Except Word MatPlan :=
  let w (i : Nat) : Word := bw j.block i
  let t := getTile s tile
  let fmt := jobFormats j
  let af := bits fmt 0 8
  let bf := bits fmt 8 8
  let cf := bits fmt 16 8
  let sm := bits fmt 24 8
  let oc := bits (w 4) 32 16
  let tag := (t.acc.getD (bits (w 6) 0 2) {}).tag
  let n (i lo : Nat) : Nat := bits (w i) lo 32
  if bits (w 4) 48 16 ≠ 0 || bits (w 5) 32 32 ≠ 0 || bits (w 6) 8 56 ≠ 0 || bits (w 6) 2 4 ≠ 0 || !formatsOk af bf cf sm
      || (bits (w 6) 6 1 = 0 && tag ≠ .none && tag.code ≠ cf) || (af = 0 && oc ≠ 0) then .error (invalid 0xFF)
  else
    let src := bSource t j.block bf
    let f := match src with | some (.held f _ _ _) => f | _ => 1
    match soundReading s tile j (n 0 0) [af]
        ((List.range f).flatMap fun t => (List.range 128).flatMap fun m => (List.range 128).map fun k =>
          ((n 0 32 + n 2 0 * m + 128 * t + k : Nat) : Int)) with
    | none => .error (invalid 0)
    | some a =>
      match src with
      | none => .error (invalid 1)
      | some src =>
        let b : Option (Option Reading) := match src with
          | .held .. => some none
          | .streamed _ => (soundReading s tile j (n 1 0) [bf]
              ((List.range 128).flatMap fun k => (List.range 128).map fun c => ((n 1 32 + n 2 32 * k + c : Nat) : Int))).map some
        match b with
        | none => .error (invalid 1)
        | some b =>
          let idx := scaleIndices sm f (n 3 0) (n 3 32)
          let sc : Option (Option Reading) :=
            if sm = 0 then some none
            else if sm = 1 then (soundReading s tile j (bits fmt 32 32) [10] (idx.map fun (i : Nat) => (i : Int))).map some
            else (soundReading s tile j (bits fmt 32 32) [7] (idx.map fun i => ((i / 6 : Nat) : Int))).map some
          match sc with
          | none => .error (invalid 2)
          | some sc =>
            let ol : Option (Option Reading) :=
              if oc = 0 then some none
              else (soundReading s tile j (n 4 0) [7] ((List.range oc).map fun i => ((n 5 0 + i : Nat) : Int))).map some
            match ol with
            | none => .error (invalid 3)
            | some ol => .ok ⟨a, b, sc, ol, src⟩

/-- Run MMUL's job. -/
def mmulRun (s : State) (tile : Nat) (j : Job) : State :=
  let bank := bits (bw j.block 6) 0 2
  match matPlan s tile j with
  | .error st => completeMat s tile j st false false
  | .ok p =>
    if p.list.any fun x => x.2.waits s then again s tile j
    else match readingsFault s p.list with
    | some st => failMat s tile j st
    | none =>
      let x := readOperands s p.list
      let fmt := jobFormats j
      let sm := bits fmt 24 8
      -- the arrays stand in the order of the operands that the job has
      let kb := if p.b.isSome then 1 else 0
      let va := x.2.1.getD 0 #[]
      let vb := if p.b.isSome then x.2.1.getD 1 #[] else #[]
      let vs := if p.sc.isSome then x.2.1.getD (1 + kb) #[] else #[]
      let vo := if p.ol.isSome then x.2.1.getD (1 + kb + if p.sc.isSome then 1 else 0) #[] else #[]
      let hold := match p.src with | .held f live data _ => some (f, live, data) | .streamed _ => none
      let f := match hold with | some h => h.1 | none => 1
      let outs := vo.toList.map (BitVec.ofNat 64)
      if sm = 2 && vs.any (fun w => 2 ^ 60 ≤ w) then completeMat x.1 tile j (invalid 2) false false
      else if outs.any fun w => bits w 16 16 ≠ 0 || f ≤ bits w 14 2 then completeMat x.1 tile j (invalid 3) false false
      else match x.2.2 with
      | some st => failMat x.1 tile j st
      | none =>
        let s := x.1
        let idx := scaleIndices sm f (bits (bw j.block 3) 0 32) (bits (bw j.block 3) 32 32)
        let field (i : Nat) : Nat := if sm = 2 then vs.getD i 0 / 2 ^ (10 * (idx.getD i 0 % 6)) % 1024 else vs.getD i 0
        let sa := if sm = 1 then (List.range (128 * f)).map fun i => field (129 * (i / 128) + 1 + i % 128)
          else (List.range (512 * f)).map fun i => field (2 * i)
        let sb := if sm = 1 then (List.range f).map fun t => field (129 * t) else (List.range (512 * f)).map fun i => field (2 * i + 1)
        -- A was read K-tile by K-tile; it stands by rows
        let a := (Array.range (16384 * f)).map fun i =>
          mEl (bits fmt 0 8) (va.getD (i % (128 * f) / 128 * 16384 + i / (128 * f) * 128 + i % 128) 0)
        let b := match hold with
          | some h => (h.2.2.map fun (y : Byte) => mEl (bits fmt 8 8) y.toNat).toArray
          | none => vb.map (mEl (bits fmt 8 8))
        let d : MatData := ⟨bits fmt 16 8 = 2, f, a, b, (match hold with | some h => h.2.1 | none => []).toArray, sm,
          if sm = 0 then #[] else sa.toArray, if sm = 0 then #[] else sb.toArray, outs⟩
        let start := if bits (bw j.block 6) 6 1 = 1 then Array.replicate 16384 0 else bankCells ((getTile s tile).acc.getD bank {})
        let t := getTile s tile
        -- a faulty sub-array that no self-test has met: the results are open (R256)
        let sound := (arraysUsed t (match p.src with | .held _ _ _ l => some l | .streamed _ => none)).all fun k => !t.faulty.contains k
        let y := if sound then d.run start
          else ((Array.range 16384).map fun i => (Config.freeWord (s.fresh + i)).toNat % 4294967296, false)
        let s := if sound then s else { s with fresh := s.fresh + 16384 }
        let tag : AccTag := if d.int then .i32 else .f32
        let s := modTile s tile fun t =>
          { t with acc := t.acc.set bank ⟨tag, y.1.toList.map (BitVec.ofNat 32)⟩
                   bbanks := match p.src with
                     | .streamed k => (t.bbanks.map fun b => if b = .stream then .empty else b).set k .stream
                     | .held .. => t.bbanks }
        completeMat s tile j 0 (!d.int && y.1.any fun v => (f32Val v).isNan) y.2

/-- Step MATRIX_JOB. -/
def execMatrixJob (s : State) : Out :=
  match s.doing with
  | some (.matrixJob tile) =>
    .next (withJob s tile .mat (fun i => match i with | .mmul .. | .mmulW .. => true | _ => false) (fun s j => stopMat s tile j)
      fun s j => mmulRun s tile j)
  | _ => .next s

/-! ## MLDB (R246 to R248) -/

/-- The presence of B's 16 × 16 blocks under a bitmap. -/
def blockMap (f : Nat) (wide : Bool) (map : List Word) : List Bool :=
  let bitAt (b : Nat) : Bool := (map.getD (b / 64) 0).getLsbD (b % 64)
  (List.range (64 * f)).map fun i => if wide then bitAt (4 * (i / 16) + i % 8 / 2) else bitAt i

/-- The load fits (R248). -/
def fits (t : TileSt) (f : Nat) (wide : Bool) (live : List Bool) : Bool :=
  let inGroup (g : Nat) : Nat := ((List.range (8 * f)).filter fun kb => live.getD (8 * kb + g) false).length
  if wide then (List.range 4).all fun h => inGroup (2 * h) / 2 ≤ min (workingIn t (2 * h)) (workingIn t (2 * h + 1)) / 2
  else (List.range 8).all fun g => inGroup g ≤ workingIn t g

/-- The block breaks a rule of R247. -/
def mldbBroken (j : Job) : Bool :=
  let w (i : Nat) : Word := bw j.block i
  bits (w 0) 0 32 = 0 || bits (w 1) 32 32 ≠ 0 || bits (w 3) 8 56 ≠ 0 || bits (w 3) 1 3 ≠ 0 || bits (w 3) 4 2 = 3
    || bits (w 4) 1 63 ≠ 0 || w 6 ≠ 0 || w 7 ≠ 0
    || (bits (w 3) 7 1 = 0 && (bits (w 3) 4 3 ≠ 0 || bits (w 2) 0 32 ≠ 0))

/-- Load B under a bitmap of presence. -/
def loadB (s : State) (tile : Nat) (j : Job) (bf f : Nat) (wide : Bool) (live : List Bool) : State :=
  let w (i : Nat) : Word := bw j.block i
  let bank := bits (w 3) 0 1
  let setB (s : State) (b : BBank) : State := modTile s tile fun t => { t with bbanks := t.bbanks.set bank b }
  let cells := (List.range (16384 * f)).filter fun i => live.getD (i / 2048 * 8 + i % 128 / 16) false
  match soundReading s tile j (bits (w 0) 0 32) [bf]
      (cells.map fun i => ((bits (w 0) 32 32 + bits (w 1) 0 32 * (i / 128) + i % 128 : Nat) : Int)) with
  | none => completeMat s tile j (invalid 1) false false
  | some r =>
    if r.waits s then again s tile j
    else match r.fault s with
      | some p => failMat s tile j (statusWord p.1 1 p.2)
      | none =>
        let x := readOperands s [(1, r)]
        match x.2.2 with
        | some st => failMat x.1 tile j st
        | none =>
          let vals := (x.2.1.getD 0 #[]).toList
          let data := (cells.zip vals).foldl (fun (a : Array Byte) p => a.setIfInBounds p.1 (BitVec.ofNat 8 p.2)) (Array.replicate (16384 * f) 0)
          completeMat (setB x.1 (.loaded bf f live data.toList (if wide then 32 else 16) (layoutOf (getTile x.1 tile) f wide live))) tile j 0 false false

/-- Run MLDB's job. -/
def mldbRun (s : State) (tile : Nat) (j : Job) : State :=
  let w (i : Nat) : Word := bw j.block i
  let t := getTile s tile
  let bf := bits (if bits (w 4) 0 1 = 1 then w 5 else j.fmt) 8 8
  let f := 2 ^ bits (w 3) 4 2
  let wide := bits (w 3) 6 1 = 1
  let bad : State := completeMat s tile j (invalid 1) false false
  if mldbBroken j || !(bf = 12 || bf = 13 || bf = 0) then bad
  else match operand s (slotOf s tile) j.key j.priv (bits (w 0) 0 32) [0] with
  | none => bad
  | some o =>
    if o.fmt ≠ bf then bad
    else if bits (w 3) 7 1 = 0 then
      if denseOk t then loadB s tile j bf 1 false (List.replicate 64 true) else bad
    else
      match soundReading s tile j (bits (w 2) 0 32) [7]
          ((List.range (if wide then (16 * f + 63) / 64 else f)).map fun i => ((bits (w 2) 32 32 + i : Nat) : Int)) with
      | none => bad
      | some r =>
        if r.waits s then again s tile j
        else match r.fault s with
          | some p => failMat s tile j (statusWord p.1 1 p.2)
          | none =>
            let x := readOperands s [(1, r)]
            match x.2.2 with
            | some st => failMat x.1 tile j st
            | none =>
              let live := blockMap f wide ((x.2.1.getD 0 #[]).toList.map (BitVec.ofNat 64))
              if fits t f wide live then loadB x.1 tile j bf f wide live
              else completeMat x.1 tile j (invalid 1) false false

/-- Step MLDB_JOB. -/
def execMldbJob (s : State) : Out :=
  match s.doing with
  | some (.mldbJob tile) =>
    .next (withJob s tile .mat (fun i => match i with | .mldb .. | .mldbW .. => true | _ => false) (fun s j => stopMat s tile j)
      fun s j => mldbRun s tile j)
  | _ => .next s

/-! ## MOUT (R214, R363) -/

/-- Elements of a list of places with their values, up to the first sub-tile that cannot be written: the writes, and the
fault. -/
def gatherWrites (s : State) (o : Opd) (hs : List (Nat × Home)) (size : Nat) : List (Spot × Word) → Writes → Writes × Option (Nat × Nat)
  | [], w => (w, none)
  | (x, v) :: l, w =>
    match x with
    | .oos | .zero => gatherWrites s o hs size l w
    | .at_ n off =>
      match hs.find? fun p => p.1 = n with
      | none => gatherWrites s o hs size l w
      | some p => match homeFault s o p.2 with
        | some k => (w, some (k, n))
        | none => gatherWrites s o hs size l (addElem s w o p.2 n off size v (elemMask size) w.puts.length)

/-- Run MOUT's job: the block holds s[sa], the handle and the index. -/
def moutRun (s : State) (tile : Nat) (j : Job) : State :=
  let slot := slotOf s tile
  let w (i : Nat) : Word := bw j.block i
  let bank := (getTile s tile).acc.getD (bits (w 0) 0 2) {}
  let ok (f : Nat) : Bool := match bank.tag with | .none => f = 10 || f = 2 | .f32 => f = 10 | .i32 => f = 2
  if bits (w 0) 2 62 ≠ 0 then completeMat s tile j (invalid 0xFF) false false
  else match (if bits (w 1) 32 32 ≠ 0 then none else operand s slot j.key j.priv (w 1).toNat [1]) with
  | none => completeMat s tile j (invalid 4) false false
  | some o =>
    let idx := match unpackCoord 1 (w 2) with | some c => some (c.getD 0 0) | none => none
    match idx with
    | none => completeMat s tile j (invalid 4) false false
    | some b =>
      let spots := (List.range 16384).map fun (i : Nat) => spotAt o (b + (i : Int))
      if !ok o.fmt || spots.any (· == .oos) then completeMat s tile j (invalid 4) false false
      else
        let subs := subsOf spots
        if anyWaits s slot o spots then again s tile j
        else
          let cells := bankCells bank
          let r := gatherWrites s o (homesOf s slot o subs true) 4 (spots.mapIdx fun i x => (x, BitVec.ofNat 64 (cells.getD i 0))) {}
          let y := flush s slot o subs tile j.thr (engineWriter tile rowMout) true r.1
          completeMat y.1 tile j (match y.2, r.2 with
            | some p, _ => statusWord p.1 4 (p.2 / 64)
            | none, some p => statusWord p.1 4 p.2
            | none, none => 0) false false

/-- Step MOUT_JOB. -/
def execMoutJob (s : State) : Out :=
  match s.doing with
  | some (.moutJob tile) =>
    .next (withJob s tile .mat (fun i => match i with | .mout .. => true | _ => false) (fun s j => stopMat s tile j)
      fun s j => moutRun s tile j)
  | _ => .next s

/-! ## MZERO and MTEST (R364) -/

/-- Run MZERO's job: the block holds the selector. -/
def mzeroRun (s : State) (tile : Nat) (j : Job) : State :=
  let x := bw j.block 0
  if bits x 3 61 ≠ 0 || (bits x 2 1 = 1 && 2 ≤ bits x 0 2) then completeMat s tile j (invalid 0xFF) false false
  else completeMat (if bits x 2 1 = 1 then modTile s tile fun t => { t with bbanks := t.bbanks.set (bits x 0 2) .empty }
    else zeroBank s tile (bits x 0 2)) tile j 0 false false
/-- Step MZERO_JOB. -/
def execMzeroJob (s : State) : Out :=
  match s.doing with
  | some (.mzeroJob tile) =>
    .next (withJob s tile .mat (fun i => match i with | .mzero .. => true | _ => false) (fun s j => stopMat s tile j)
      fun s j => mzeroRun s tile j)
  | _ => .next s

/-- Run MTEST's job: the self-test at once; the job itself is the one that a fencing makes SUSPECT. -/
def mtestRun (s : State) (tile : Nat) (j : Job) : State :=
  let r := selfTest { getTile s tile with sinceTest := 0 }
  let s := setTile s tile { r.1 with jobsDone := r.1.jobsDone + 1, suspect := r.1.suspect + (if r.2 then 1 else 0) }
  deliverJob s tile .mat j (statusWord (if r.2 then 1 else 0) 0xFF r.1.fenced.length)
/-- Step MTEST_JOB. -/
def execMtestJob (s : State) : Out :=
  match s.doing with
  | some (.mtestJob tile) =>
    .next (withJob s tile .mat (fun i => match i with | .mtest _ => true | _ => false) (fun s j => stopMat s tile j)
      fun s j => mtestRun s tile j)
  | _ => .next s

/-! ## The instructions -/

/-- The command goes to the matrix engine of the own tile (R210). -/
def toMatrix (s : State) (id : Nat) : State :=
  match findReq s id with
  | some r => submitTo s (tileOf r.thr.core) id
  | none => s

/-- The waiting forms MMUL.W and MLDB.W are illegal in a handler (R108, R361). -/
def matrixWait (i : Instr) (a : SReg) (cause : Nat) (s : State) : State :=
  if isHandler s.cur then trapNow s .illegalInsn else blockCommand i a 64 4 cause toMatrix s

def execMmul (d a : SReg) (s : State) : Out := .next (blockCommand (.mmul d a) a 64 4 0x32 toMatrix s)
def execMmulW (d a : SReg) (s : State) : Out := .next (matrixWait (.mmulW d a) a 0x32 s)
def execMldb (d a : SReg) (s : State) : Out := .next (blockCommand (.mldb d a) a 64 4 0x31 toMatrix s)
def execMldbW (d a : SReg) (s : State) : Out := .next (matrixWait (.mldbW d a) a 0x31 s)

/-- A command without a block: its registers are what it takes along. -/
def regCommand (i : Instr) (regs : List SReg) (cause : Nat) (start : State → Nat → State) (s : State) : State :=
  withRegs s (sWords s.cur regs ++ [cAddr s.cur 6, cAddr s.cur 7]) fun s =>
    beyond s 4 cause 0 { newReq s i with z := getC s s.cur 6, block := regs.map (getS s s.cur) } start

def execMout (d a : SReg) (p : Pair) (s : State) : Out :=
  .next (regCommand (.mout d a p) [a, pairEven p, pairOdd p] 0x33 toMatrix s)
def execMzero (d a : SReg) (s : State) : Out := .next (regCommand (.mzero d a) [a] 0x34 toMatrix s)
def execMtest (d : SReg) (s : State) : Out := .next (regCommand (.mtest d) [] 0x34 toMatrix s)

/-- ENGSTAT word s[sa] of the own tile as it stands, all ones beyond word 3 (R364). -/
def readStat (s : State) (id : Nat) : State :=
  match findReq s id with
  | some r =>
    let i := (bw r.block 0).toNat
    replyArrives s id (ansWord (if 3 < i then BitVec.allOnes 64 else engstat (getTile s (tileOf r.thr.core)) i))
  | none => s
def execMstat (d a : SReg) (s : State) : Out := .next (regCommand (.mstat d a) [a] 0x34 readStat s)

end Sys2Proof.Machine
end

