-- ==== Sys2Proof/Machine/Copy.lean ====
section
/-! DEFINITION. The copy streamer: CPY, CPYX, CPYC, their jobs and pointer writes (R174, R261 to R265, R366, R367). -/
namespace Sys2Proof.Machine

/-! ## The block (R366) -/

/-- The partition slot that a job's objects belong to. -/
def jobSlot (s : State) (j : Job) : Nat := slotOf s (tileOf j.thr.core)

/-- SIDX or DIDX: a rank-1 index (R141). -/
def blkIndex (b : List Word) (i : Nat) : Int := sval 48 (bits (bw b i) 0 48)

/-- Word w6 breaks a rule that names no operand: reserved bits, and a counter of another partition (R55). -/
def badRoutes (s : State) (j : Job) (w6 : Word) : Bool :=
  bits w6 24 24 ≠ 0 || bits w6 4 4 ≠ 0 || bits w6 0 1 ≠ 0
    || (bits w6 2 1 = 1 && !ownsCounter s (partKey s (tileOf j.thr.core)) (bits w6 48 16))

/-- A copy block breaks a rule that names no operand (R379 step 1). -/
def badCopy (s : State) (j : Job) : Bool :=
  let w (i : Nat) : Word := bw j.block i
  badRoutes s j (w 6) || bits (w 1) 48 16 ≠ 0 || bits (w 2) 48 16 ≠ 0 || bits (w 3) 0 32 = 0 || bits (w 3) 32 32 = 0
    || (bits (w 6) 3 1 = 1 && 4 < bits (w 6) 8 3)
    || (match j.cmd with
        | .cpy .. => w 7 ≠ 0 || bits (w 6) 16 8 ≠ 0
        | .cpyx .. => w 7 ≠ 0
        | _ => bits (w 6) 16 8 ≠ 0 || bits (w 4) 32 32 ≠ 0)

/-- The pointer operand of a block (OPER 5): none where it is not used, else its object or a status. -/
def pointerOf (s : State) (j : Job) : Except Word (Option Opd) :=
  let w6 := bw j.block 6
  if bits w6 3 1 = 0 then .ok none
  else match operand s (jobSlot s j) j.key j.priv (bits (bw j.block 5) 0 32) [1] with
    | none => .error (invalid 5)
    | some o =>
      if o.isMaj then .error (statusWord stMaj 5 0)
      else if o.fmt ≠ 7 || spotAt o (bits (bw j.block 5) 32 32 : Nat) == .oos then .error (invalid 5)
      else .ok (some o)

/-- Values of the pointer once n of the block's elements have landed (R263): every multiple of the granule, and the total. -/
def pointerValues (j : Job) (n : Nat) (all : Bool) : List Nat :=
  let w6 := bw j.block 6
  if bits w6 3 1 = 0 then []
  else
    let g := 2 ^ bits w6 11 5
    let steps := match j.cmd with | .cpy .. => (List.range (n / g)).map fun i => (i + 1) * g | _ => []
    if all && steps.getLast? ≠ some n then steps ++ [n] else steps

/-- A copy job's elements are done with: what is still under way (a request, 0 for none), its pointer values, and then its
completion. -/
def endCopy (s : State) (tile : Nat) (j : Job) (landed : Nat) (status : Word) (under : Nat) : State :=
  let l := pointerValues j landed (status = 0)
  if l.isEmpty && under = 0 then deliverJob s tile .cpy j status
  else
    let t := modJob s tile .cpy j.entry fun j => { j with ptrs := l, result := status, release := under }
    -- where writes are under way, the pointer follows them
    if sendsWrites s then t else post t 1 (.pointerWrite tile)

/-! ## Elements moved one by one (R262, R264, R266) -/

/-- One move: a place to read, a place to write, and which bits of the element read go where. -/
structure Move where
  src   : Spot
  dst   : Spot
  /-- Right shift of the element read, left shift of what is written, and its bits. -/
  shr   : Nat := 0
  shl   : Nat := 0
  mask  : Word

/-- What moves need: operands, their homes, and what the sources hold. -/
structure Movers where
  so    : Opd
  do_   : Opd
  sh    : List (Nat × Home)
  dh    : List (Nat × Home)
  pages : Pages

/-- The fault of one move: status word, in the order source, destination. -/
def moveFault (s : State) (x : Movers) (so do_ : Nat) (m : Move) : Option Word :=
  let reach (oper : Nat) (o : Opd) (hs : List (Nat × Home)) (p : Spot) : Option Word :=
    match p with
    | .oos | .zero => none
    | .at_ n _ => (hs.find? fun h => h.1 = n).bind fun h => (homeFault s o h.2).map fun k => statusWord k oper n
  match reach so x.so x.sh m.src with
  | some w => some w
  | none => match firstBad x.pages [m.src] with
    | some f => some (statusWord f.1 so f.2)
    | none => reach do_ x.do_ x.dh m.dst

/-- The writes of moves up to the first that fails, how many were made, and the fault. -/
def makeMoves (s : State) (x : Movers) (so do_ : Nat) : List Move → Writes → Nat → Writes × Nat × Word
  | [], w, n => (w, n, 0)
  | m :: l, w, n =>
    match moveFault s x so do_ m with
    | some st => (w, n, st)
    | none =>
      let w := match m.dst with
        | .oos | .zero => w
        | .at_ k off => match x.dh.find? fun h => h.1 = k with
          | none => w
          | some h =>
            let v : Word := BitVec.ofNat 64 (pageElem x.pages x.so.size m.src)
            addElem s w x.do_ h.2 k off x.do_.size ((v >>> m.shr) <<< m.shl) m.mask n
      makeMoves s x so do_ l w (n + 1)

/-- Moves in the order of the job: each block's sources are read before its writes leave, in their own order. -/
abbrev Moves := List (List Spot × List Move)

/-- The moves of blocks up to the first that fails. -/
def makeBlocks (s : State) (x : Movers) (so do_ : Nat) : Moves → Writes → Nat → Writes × Nat × Word
  | [], w, n => (w, n, 0)
  | b :: l, w, n =>
    match b.1.findSome? fun p => moveFault s x so do_ { src := p, dst := .zero, mask := 0 } with
    | some st => (w, n, st)
    | none => match makeMoves s x so do_ b.2 w n with
      | (w, n, st) => if st = 0 then makeBlocks s x so do_ l w n else (w, n, st)

/-- The first move into a granule of a majority destination: what stands before it has landed. -/
def movesBefore (k : Nat) (l : List Move) : Nat :=
  l.findIdx fun m => match m.dst with | .at_ n off => n * 64 + off / 64 = k | .oos | .zero => false

/-- Run moves between two operands: the state, how many elements landed, and the status. -/
def runMoves (s : State) (tile : Nat) (j : Job) (so do_ : Opd) (sOper dOper writer : Nat) (blocks : Moves) : State × Nat × Word :=
  let slot := jobSlot s j
  let moves := blocks.flatMap (·.2)
  let ss := blocks.flatMap fun b => if b.1.isEmpty then b.2.map (·.src) else b.1
  let ds := subsOf (moves.map (·.dst))
  let sh := homesOf s slot so (subsOf ss) false
  let dh := homesOf s slot do_ ds true
  let p := readPages s (doerOf s tile j) so ss sh
  let r := makeBlocks p.1 ⟨so, do_, sh, dh, p.2⟩ sOper dOper blocks {} 0
  let y := flush p.1 slot do_ ds tile j.thr writer true r.1
  match y.2 with
  | some (st, k) => (y.1, movesBefore k moves, statusWord st dOper (k / 64))
  | none => (y.1, r.2)

/-- A sub-tile of either operand is changing. -/
def movesWait (s : State) (j : Job) (so do_ : Opd) (blocks : Moves) : Bool :=
  let moves := blocks.flatMap (·.2)
  anyWaits s (jobSlot s j) so (moves.map (·.src)) || anyWaits s (jobSlot s j) do_ (moves.map (·.dst))

/-! ## CPY and CPYX -/

/-- ROWS and COLS. -/
def copyRows (b : List Word) : Nat := bits (bw b 3) 0 32
def copyCols (b : List Word) : Nat := bits (bw b 3) 32 32

/-- Source and destination index of element c of row r. -/
def copyPair (b : List Word) (across : Bool) (r c : Nat) : Int × Int :=
  let ss := sval 32 (bits (bw b 4) 0 32)
  let ds := sval 32 (bits (bw b 4) 32 32)
  (blkIndex b 1 + (r : Int) * ss + (c : Int),
    if across then blkIndex b 2 + (c : Int) * ds + (r : Int) else blkIndex b 2 + (r : Int) * ds + (c : Int))

/-- The index pairs of a copy in copy order: row-major in (r, c). -/
def copyOrder (b : List Word) (across : Bool) : List (Int × Int) :=
  (List.range (copyRows b)).flatMap fun (r : Nat) => (List.range (copyCols b)).map fun (c : Nat) => copyPair b across r c

/-- The source and destination of a copy with the checks of R379 step 2. -/
def copyOperands (s : State) (j : Job) (sOk : Opd → Bool) (dOk : Opd → Opd → Bool) (cls : List Nat) (spots : Opd → Nat → List Spot) :
    Except Word (Opd × Opd) :=
  match operand s (jobSlot s j) j.key j.priv (bits (bw j.block 0) 0 32) [0] with
  | none => .error (invalid 0)
  | some a =>
    if !sOk a || (spots a 0).any (· == .oos) then .error (invalid 0)
    else match operand s (jobSlot s j) j.key j.priv (bits (bw j.block 0) 32 32) cls with
      | none => .error (invalid 4)
      | some d =>
        if !dOk a d || (spots d 1).any (· == .oos) then .error (invalid 4)
        else match pointerOf s j with
          | .error w => .error w
          | .ok _ => .ok (a, d)

/-- Run CPY's job. -/
def copyRun (s : State) (tile : Nat) (j : Job) : State :=
  let order := copyOrder j.block false
  let spots (o : Opd) (k : Nat) : List Spot := order.map fun p => spotAt o (if k = 0 then p.1 else p.2)
  if badCopy s j then deliverJob s tile .cpy j (invalid 0xFF)
  else match copyOperands s j (fun _ => true) (fun a d => a.size = d.size) [1] spots with
    | .error w => deliverJob s tile .cpy j w
    | .ok (a, d) =>
      let moves : Moves := [([], (spots a 0).zipWith (fun x y => { src := x, dst := y, mask := elemMask d.size }) (spots d 1))]
      if movesWait s j a d moves then again s tile j
      else
        let r := runMoves s tile j a d 0 4 (engineWriter tile rowCopy) moves
        endCopy r.1 tile j r.2.1 r.2.2 0

/-- A copy job that ends before it runs, or between pointer writes. -/
def stopCopy (s : State) (tile : Nat) (j : Job) (status : Word) : State := deliverJob s tile .cpy j status

/-- Step COPY_JOB. -/
def execCopyJob (s : State) : Out :=
  match s.doing with
  | some (.copyJob tile) =>
    .next (withJob s tile .cpy (fun i => match i with | .cpy .. => true | _ => false) (fun s j => stopCopy s tile j) fun s j => copyRun s tile j)
  | _ => .next s

/-- Rows and columns of a transposed block: the largest power of two whose square of elements fits the 8 KiB buffer, for nibbles, and
elements of 1, 2 and 4 bytes (DESIGN CHOICE, log 61). -/
def blockSide (esz : Nat) : Nat := match esz with | 0 => 128 | 1 | 2 => 64 | _ => 32

/-- The blocks of a transposing copy, row-major: sources in copy order, writes in destination order (R264). -/
def copyBlocks (rows cols side : Nat) : List (List (Nat × Nat) × List (Nat × Nat)) :=
  (List.range ((rows + side - 1) / side)).flatMap fun i => (List.range ((cols + side - 1) / side)).map fun k =>
    let rs := (List.range (min side (rows - side * i))).map (side * i + ·)
    let cs := (List.range (min side (cols - side * k))).map (side * k + ·)
    (rs.flatMap fun r => cs.map fun c => (r, c), cs.flatMap fun c => rs.map fun r => (r, c))

/-- Run CPYX's job (R264): with ESZ 0 an index names a nibble. -/
def cpyxRun (s : State) (tile : Nat) (j : Job) : State :=
  let order := copyOrder j.block true
  let esz := bits (bw j.block 6) 16 8
  let elem (i : Int) : Int := if esz = 0 then i / 2 else i
  let size := if esz = 0 then 1 else 2 ^ (esz - 1)
  let sizeOk (o : Opd) : Bool := esz ≤ 3 && o.size = size
  let spots (o : Opd) (k : Nat) : List Spot := order.map fun p => spotAt o (elem (if k = 0 then p.1 else p.2))
  if badCopy s j then deliverJob s tile .cpy j (invalid 0xFF)
  else match copyOperands s j sizeOk (fun _ d => sizeOk d) [1] spots with
    | .error w => deliverJob s tile .cpy j w
    | .ok (a, d) =>
      let half (i : Int) : Nat := if i % 2 = 0 then 0 else 4
      let move (p : Int × Int) : Move :=
        let m : Move := { src := spotAt a (elem p.1), dst := spotAt d (elem p.2), mask := elemMask d.size }
        if esz = 0 then { m with shr := half p.1, shl := half p.2, mask := (15#64) <<< half p.2 } else m
      let pair (p : Nat × Nat) : Int × Int := copyPair j.block true p.1 p.2
      let moves : Moves := (copyBlocks (copyRows j.block) (copyCols j.block) (blockSide esz)).map fun b =>
        (b.1.map fun p => spotAt a (elem (pair p).1), b.2.map fun p => move (pair p))
      if movesWait s j a d moves then again s tile j
      else
        let r := runMoves s tile j a d 0 4 (engineWriter tile rowCopy) moves
        endCopy r.1 tile j r.2.1 r.2.2 0
/-- Step CPYX_JOB. -/
def execCpyxJob (s : State) : Out :=
  match s.doing with
  | some (.cpyxJob tile) =>
    .next (withJob s tile .cpy (fun i => match i with | .cpyx .. => true | _ => false) (fun s j => stopCopy s tile j) fun s j => cpyxRun s tile j)
  | _ => .next s

/-! ## CPYC (R174, R265) -/

/-- The bytes that a CPYC's source elements spell, from byte 0 of the frame. -/
def spell (ps : Pages) (size : Nat) (l : List Spot) : List Byte := l.flatMap fun x => toBytes size (pageElem ps size x)

/-- A request that no thread waits for, of the thread that issued a job. -/
def jobReq (s : State) (j : Job) (i : Instr) : Req :=
  { id := s.nextReq, thr := j.thr, insn := i, word := 0, phase := .sent, key := j.key, priv := j.priv, held := true }

/-- A generation has wrapped (R161): the job ends once every tile has dropped the handle and echoed; the request that waits for
them, 0 for none. -/
def dropAll (s : State) (slot : Nat) (j : Job) (h : Nat) (wrapped : Bool) : State × Nat :=
  if wrapped then (startDrop (addReq s (jobReq s j j.cmd)) s.nextReq slot h, s.nextReq) else (s, 0)

/-- The frame swap (R174 steps 2 to 5), P allocated and its data known. -/
def swapFrame (s : State) (slot : Nat) (j : Job) (d : Opd) (sub a p : Nat) (bytes : List Byte) : State × Nat :=
  let w0 := getWord s a
  let f := refThr (BitVec.ofNat 64 (entFrame w0))
  let g := entGen w0
  let key := poolKey slot (rPool d.p)
  let t : Thr := ⟨p / 128, p % 128⟩
  let s := (List.range 64).foldl (fun s i => noteGranule s false (rowAddr t.core t.row + 64 * i)) s
  let s := putFull (dropGranules (zeroRow s t.core t.row) t.core t.row) (rowAddr t.core t.row) bytes
  let s := vacateFrame (admitPosted s f) d.ph sub g f
  let s := takeFrame (setFrame s t.core t.row d.ph sub (nextGen g) 1 (rCache d.p)) key p
  let s := writeEntry s a (mkEntry (refOf s t).toNat (nextGen g) 1) (getWord s (a + 8) + 1)
  dropAll (pushFrame s key (f.core * 128 + f.row)) slot j d.ph (g = 16383)

/-- Run CPYC's job. -/
def cpycRun (s : State) (tile : Nat) (j : Job) : State :=
  let slot := jobSlot s j
  let order := copyOrder j.block false
  let di := blkIndex j.block 2
  let spots (o : Opd) (k : Nat) : List Spot := if k = 0 then order.map fun p => spotAt o p.1 else [spotAt o di]
  let fail (s : State) (st : Word) : State := deliverJob s tile .cpy j st
  let dh := bits (bw j.block 0) 32 32
  let isMaj := match validNow s slot dh with | some r => decide (rKind r = 3) | none => false
  let count := bits (bw j.block 3) 0 32 * bits (bw j.block 3) 32 32
  if badCopy s j then fail s (invalid 0xFF)
  else match operand s slot j.key j.priv (bits (bw j.block 0) 0 32) [0] with
  | none => fail s (invalid 0)
  | some a =>
    if 4096 < count * a.size || (spots a 0).any (· == .oos) then fail s (invalid 0)
    else if isMaj then fail s (statusWord stMaj 4 0)
    else match copyOperands s j (fun _ => true) (fun _ d => rKind d.r = 2) [1, 5] spots with
    | .error w => fail s w
    | .ok (a, d) =>
      match spotAt d di with
      | .oos | .zero => fail s (invalid 4)
      | .at_ sub _ =>
        let src := spots a 0
        let homes := homesOf s slot a (subsOf src) false
        if anyWaits s slot a src || anyWaits s slot d (spots d 1) then again s tile j
        else
        let s := touchEntries s slot d [sub]
        -- translation in ascending OPER order (R379 step 3), then the steps of R174
        match firstFault s a homes, homeFault s d (homeOf s slot d sub true), homeOf s slot d sub true, entryAddr s slot d.ph sub with
        | some f, _, _, _ => fail s (statusWord f.1 0 f.2)
        | none, some k, _, _ => fail s (statusWord k 4 sub)
        | none, none, .place dev core _ _, some e =>
          match (if dev = s.io.devid.toNat then popFrame s (stackOf core) (poolKey slot (rPool d.p)) else (s, none)) with
          | (_, none) => fail s (statusWord 7 4 sub)
          | (s, some p) =>
            let x := readPages s (doerOf s tile j) a src homes
            let back (st : Word) : State := deliverJob (pushFrame x.1 (poolKey slot (rPool d.p)) p) tile .cpy j st
            match firstBad x.2 src with
            | some f => back (statusWord f.1 0 f.2)
            | none =>
              if getWord s (e + 8) ≠ bw j.block 7 then back (statusWord 6 4 sub)
              else match swapFrame x.1 slot j d sub e p (spell x.2 a.size src) with
                | (s, under) => endCopy s tile j count 0 under
        | none, none, _, _ => fail s (invalid 4)
/-- Step CPYC_JOB. -/
def execCpycJob (s : State) : Out :=
  match s.doing with
  | some (.cpycJob tile) =>
    .next (withJob s tile .cpy (fun i => match i with | .cpyc .. => true | _ => false) (fun s j => stopCopy s tile j) fun s j => cpycRun s tile j)
  | _ => .next s

/-! ## The pointer word (R263) -/

/-- The scope PSCOPE (R113). -/
def pointerScope (j : Job) : Scope :=
  (Scope.ofCode ((bw j.block 6).extractLsb' 8 3)).getD .core

/-- Write one value: an STFF of the issuing thread that is a release at PSCOPE (R263). -/
def putPointer (s : State) (j : Job) (h v : Nat) : State × Nat :=
  let o : Order := .ar (pointerScope j)
  let r : Req := { jobReq s j (.stff 0 0 o) with handle := BitVec.ofNat 64 h, coord := BitVec.ofNat 64 (bits (bw j.block 5) 32 32), x := BitVec.ofNat 64 v }
  (startAccess o (addReq s r) s.nextReq, s.nextReq)

/-- Where the pointer cannot be written (R379 step 3). -/
def pointerFault (s : State) (j : Job) (o : Opd) : Option Word :=
  match spotAt o (bits (bw j.block 5) 32 32 : Nat) with
  | .oos | .zero => none
  | .at_ n _ => (homeFault s o (homeOf s (jobSlot s j) o n true)).map fun k => statusWord k 5 n

/-- Step POINTER_WRITE: the next value; each follows the acknowledgement of the one before, and the completion that of the last. -/
def pointerStep (s : State) (tile : Nat) (j : Job) : State :=
  let fail (st : Word) : State := deliverJob s tile .cpy j (if j.result = 0 then st else j.result)
  if j.release ≠ 0 && (findReq s j.release).isSome then again s tile j
  else match (match j.failed with | some f => j.ptrs.filter (· ≤ f.1) | none => j.ptrs), pointerOf s j with
  | v :: l, .ok (some o) =>
    match pointerFault s j o with
    | some st => fail st
    | none => match putPointer s j o.h v with
      | (s, id) => post (modJob s tile .cpy j.entry fun j => { j with ptrs := l, release := id }) 1 (.pointerWrite tile)
  | _ :: _, .error st => fail st
  | _, _ => deliverJob s tile .cpy j (match j.failed with | some f => f.2 | none => j.result)
def execPointerWrite (s : State) : Out :=
  match s.doing with
  | some (.pointerWrite tile) =>
    .next (withJob s tile .cpy (fun i => match i with | .cpy .. | .cpyx .. | .cpyc .. => true | _ => false) (fun s j => stopCopy s tile j)
      fun s j => pointerStep s tile j)
  | _ => .next s

/-! ## The instructions -/

/-- The tile whose streamer takes a copy (R261): that of the source's first element; the own tile where there is none. -/
def streamerTile (s : State) (r : Req) : Nat :=
  let own := tileOf r.thr.core
  let slot := slotOf s own
  let up (tile : Nat) : Nat := if stackDown s (tile / 128) then own else tile
  match operand s slot r.key r.priv (bits (bw r.block 0) 0 32) [] with
  | none => own
  | some o =>
    match spotAt o (blkIndex r.block 1) with
    | .oos | .zero => own
    | .at_ n _ =>
      match homeOf s slot o n false with
      | .place dev core _ _ => if dev = s.io.devid.toNat then up (tileOf core) else own
      | .maj e => match (upReplicas s (replicasOf o.p e)).head? with | some x => tileOf x.2.1.core | none => own
      | .module => own
      | .const _ | .notRes | .down | .bad => if rKind o.p = 2 || rKind o.p = 3 then up (entryTile s slot o.ph n) else own

/-- The command goes to the streamer. -/
def toStreamer (s : State) (id : Nat) : State :=
  match findReq s id with
  | some r => submitTo s (streamerTile s r) id
  | none => s

def execCpy (d a : SReg) (s : State) : Out := .next (blockCommand (.cpy d a) a 64 4 0x36 toStreamer s)
def execCpyx (d a : SReg) (s : State) : Out := .next (blockCommand (.cpyx d a) a 64 4 0x36 toStreamer s)
def execCpyc (d a : SReg) (s : State) : Out := .next (blockCommand (.cpyc d a) a 64 4 0x36 toStreamer s)

end Sys2Proof.Machine
end

