-- ==== Sys2Proof/Machine/Gather.lean ====
section
/-! DEFINITION. The gather engine: GATH, SCAT, SCATADD and their jobs (R266, R368). -/
namespace Sys2Proof.Machine

/-! ## The block and its operands -/

/-- The block breaks a rule that names no operand (R368, R379 step 1). -/
def badGather (s : State) (j : Job) : Bool :=
  let w (i : Nat) : Word := bw j.block i
  badRoutes s j (w 6) || bits (w 6) 8 16 ≠ 0 || bits (w 6) 3 1 ≠ 0 || bits (w 1) 48 16 ≠ 0 || bits (w 3) 48 16 ≠ 0
    || w 4 ≠ 0 || w 5 ≠ 0 || w 7 ≠ 0 || bits (w 2) 0 32 = 0 || 65536 < bits (w 2) 0 32

/-- A sub-tile of P that has a place lies on cores of the issuer's tile. -/
def onTile (s : State) (tile : Nat) (h : Home) : Bool :=
  match h with
  | .place dev core _ _ => dev = s.io.devid.toNat && tileOf core = tile
  | .maj _ | .module => false
  | .const _ | .notRes | .down | .bad => true

/-- The coordinate list of a job, read: the words, or a status (OPER 6), or wait. -/
inductive CoordList | words (l : List Word) | status (w : Word) | wait

/-- Read the list: N z64 elements from LIDX (R266). -/
def readList (s : State) (tile : Nat) (j : Job) : State × CoordList :=
  let i0 := blkIndex j.block 1
  match soundReading s tile j (bits (bw j.block 0) 32 32) [7] ((List.range (bits (bw j.block 2) 0 32)).map fun (i : Nat) => i0 + (i : Int)) with
  | none => (s, .status (invalid 6))
  | some r =>
    if r.waits s then (s, .wait)
    else match r.fault s with
      | some f => (s, .status (statusWord f.1 6 f.2))
      | none =>
        let x := r.pages s
        match firstBad x.2 r.spots with
        | some f => (x.1, .status (statusWord f.1 6 f.2))
        | none => (x.1, .words ((r.values x.2).toList.map (BitVec.ofNat 64)))

/-- What a gather job has found: the operands, the places of O's and P's elements in list order. -/
structure Gathered where
  o : Opd
  p : Opd
  os : List Spot
  ps : List Spot

/-- The checks of R379 steps 1 and 2, the list read on the way: oOper and pOper number the operands, pairOk says whether the
formats fit, and oMaj whether O is one that the job does not support, which takes the place of INVALID for it (R194). -/
def gatherPlan (s : State) (tile : Nat) (j : Job) (oCls pCls oOper pOper : Nat) (oMaj : Bool) (pOk oOk : Opd → Bool)
    (pairOk : Opd → Opd → Bool) : State × Except (Option Word) Gathered :=
  let slot := slotOf s tile
  let n := bits (bw j.block 2) 0 32
  let o := operand s slot j.key j.priv (bits (bw j.block 0) 0 32) [oCls]
  let p := operand s slot j.key j.priv (bits (bw j.block 2) 32 32) [pCls]
  let b := blkIndex j.block 3
  let pSpots (p : Opd) : List Spot := (List.range n).map fun (i : Nat) => spotAt p (b + (i : Int))
  let pSound (p : Opd) : Bool := pOk p && (pSpots p).all (· != .oos)
    && (homesOf s slot p (subsOf (pSpots p)) (pCls = 1)).all fun h => onTile s tile h.2
  let badO : Word := if oMaj then statusWord stMaj oOper 0 else invalid oOper
  -- the operand with the lower number comes first; the formats are compared at the second
  let first : Option Word := if pOper < oOper
    then (match p with | none => some (invalid pOper) | some p => if pSound p then none else some (invalid pOper))
    else (match o with | none => some badO | some o => if oOk o && !oMaj then none else some badO)
  if badGather s j then (s, .error (some (invalid 0xFF)))
  else match first with
  | some w => (s, .error (some w))
  | none => match o, p with
    | some o, some p =>
      if oOper < pOper && !(pairOk o p && pSound p) then (s, .error (some (invalid pOper)))
      else if pOper < oOper && (oMaj || !(oOk o && pairOk o p)) then (s, .error (some badO))
      else match readList s tile j with
        | (s, .wait) => (s, .error none)
        | (s, .status w) => (s, .error (some w))
        | (s, .words l) =>
          match l.mapM (fun w => unpackCoord (rRank o.r) w) with
          | none => (s, .error (some (invalid 6)))
          | some cs =>
            let os := cs.map (spotOf o)
            if os.any (· == .oos) then (s, .error (some (invalid oOper))) else (s, .ok ⟨o, p, os, pSpots p⟩)
    | none, _ => (s, .error (some badO))
    | _, none => (s, .error (some (invalid pOper)))

/-- End a gather job, or look again. -/
def endGather (s : State) (tile : Nat) (j : Job) (w : Option Word) : State :=
  match w with
  | some w => deliverJob s tile .gat j w
  | none => again s tile j

/-! ## GATH and SCAT -/

/-- Run GATH's job: P is written once all reads have returned. -/
def gathRun (s : State) (tile : Nat) (j : Job) : State :=
  match gatherPlan s tile j 0 1 0 4 false (fun _ => true) (fun _ => true) (fun o p => o.size = p.size) with
  | (s, .error w) => endGather s tile j w
  | (s, .ok g) =>
    let moves : Moves := [(g.os, g.os.zipWith (fun x y => { src := x, dst := y, mask := elemMask g.p.size }) g.ps)]
    if movesWait s j g.o g.p moves then again s tile j
    else
      let r := runMoves s tile j g.o g.p 0 4 (engineWriter tile rowGather) moves
      deliverJob r.1 tile .gat j r.2.2
/-- Step GATH_JOB. -/
def execGathJob (s : State) : Out :=
  match s.doing with
  | some (.gathJob tile) =>
    .next (withJob s tile .gat (fun i => match i with | .gath .. => true | _ => false) (fun s j w => endGather s tile j (some w))
      fun s j => gathRun s tile j)
  | _ => .next s

/-- Run SCAT's job: list order; a later entry at one place wins. -/
def scatRun (s : State) (tile : Nat) (j : Job) : State :=
  match gatherPlan s tile j 1 0 4 0 false (fun _ => true) (fun _ => true) (fun o p => o.size = p.size) with
  | (s, .error w) => endGather s tile j w
  | (s, .ok g) =>
    let moves : Moves := [([], g.ps.zipWith (fun x y => { src := x, dst := y, mask := elemMask g.o.size }) g.os)]
    if movesWait s j g.p g.o moves then again s tile j
    else
      let r := runMoves s tile j g.p g.o 0 4 (engineWriter tile rowGather) moves
      deliverJob r.1 tile .gat j r.2.2
/-- Step SCAT_JOB. -/
def execScatJob (s : State) : Out :=
  match s.doing with
  | some (.scatJob tile) =>
    .next (withJob s tile .gat (fun i => match i with | .scat .. => true | _ => false) (fun s j w => endGather s tile j (some w))
      fun s j => scatRun s tile j)
  | _ => .next s

/-! ## SCATADD -/

/-- The entries in order, up to the first that fails: each is an access at the element's owner. -/
def addAll (tile slot : Nat) (thr : Thr) (g : Gathered) (oh ph : List (Nat × Home)) (pages : Pages) :
    List (Spot × Spot) → Nat → State → State × Word
  | [], _, s => (s, 0)
  | (o, p) :: l, i, s =>
    match moveFault s ⟨g.p, g.o, ph, oh, pages⟩ 0 4 { src := p, dst := o, mask := 0 } with
    | some w => (s, w)
    | none =>
      let x := pageElem pages 4 p
      let f32 : Bool := g.o.fmt = 10
      match o with
      | .oos | .zero => addAll tile slot thr g oh ph pages l (i + 1) s
      | .at_ n off =>
        match oh.find? fun h => h.1 = n with
        | some (_, .place dev core row gen) =>
          let a := rowAddr core row + off
          addAll tile slot thr g oh ph pages l (i + 1)
            (if dev ≠ s.io.devid.toNat then
              putFar s tile thr [(dev, ⟨g.o.ph, n, gen, ⟨core, row⟩, off,
                .amo (if f32 then .fadd else .add) .w32 (BitVec.ofNat 64 x) 0, 0, 0, 0, ioDie⟩)]
            else sendFeed s { gran := a / 64, act := .add f32 (a % 64) x, slot := slot, oh := g.o.ph, sub := n, gen := gen
                              framed := rKind g.o.p = 2, first := i })
        | _ => addAll tile slot thr g oh ph pages l (i + 1) s

/-- A majority O makes SCATADD MAJ_UNSUPPORTED (R194), in place of an INVALID of that operand (R379 step 2). -/
def scatIntoMajority (s : State) (slot : Nat) (j : Job) : Bool :=
  match validNow s slot (bits (bw j.block 0) 0 32) with
  | some r =>
    rKind r = 3 || (rKind r = 4 && match validNow s slot (bits (rw r 4) 0 32) with | some p => rKind p = 3 | none => false)
  | none => false

/-- Run SCATADD's job. -/
def scataddRun (s : State) (tile : Nat) (j : Job) : State :=
  let slot := slotOf s tile
  let add (o : Opd) : Bool := o.fmt = 10 || o.fmt = 2
  match gatherPlan s tile j 2 0 4 0 (scatIntoMajority s slot j) add add (fun o p => o.fmt = p.fmt) with
  | (s, .error w) => endGather s tile j w
  | (s, .ok g) =>
    let so := subsOf g.os
    let sp := subsOf g.ps
    if anyWaits s slot g.o g.os || anyWaits s slot g.p g.ps then again s tile j
    else
      let ph := homesOf s slot g.p sp false
      let x := readPages (touchEntries s slot g.o so) (doerOf s tile j) g.p g.ps ph
      let r := addAll tile slot j.thr g (homesOf s slot g.o so true) ph x.2 (g.os.zip g.ps) 0 x.1
      deliverJob r.1 tile .gat j r.2
/-- Step SCATADD_JOB. -/
def execScataddJob (s : State) : Out :=
  match s.doing with
  | some (.scataddJob tile) =>
    .next (withJob s tile .gat (fun i => match i with | .scatadd .. => true | _ => false) (fun s j w => endGather s tile j (some w))
      fun s j => scataddRun s tile j)
  | _ => .next s

/-! ## The instructions -/

/-- The command goes to the gather engine of the own tile. -/
def toGather (s : State) (id : Nat) : State :=
  match findReq s id with
  | some r => submitTo s (tileOf r.thr.core) id
  | none => s

def execGath (d a : SReg) (s : State) : Out := .next (blockCommand (.gath d a) a 64 4 0x37 toGather s)
def execScat (d a : SReg) (s : State) : Out := .next (blockCommand (.scat d a) a 64 4 0x37 toGather s)
def execScatadd (d a : SReg) (s : State) : Out := .next (blockCommand (.scatadd d a) a 64 4 0x37 toGather s)

end Sys2Proof.Machine
end

