-- ==== Sys2Proof/Machine/Sequencer.lean ====
section
/-! DEFINITION. The row sequencer: RSEQ, row steps, service intervals, RSWAIT (R267 to R273, R369, R370), and the taking of
completions by JPOLL and JWAIT (R365). -/
namespace Sys2Proof.Machine

/-! ## The block (R267) -/

def kKernel (b : List Word) : Nat := bits (bw b 0) 0 8
def kType (b : List Word) : Nat := bits (bw b 0) 16 8
def kCount (b : List Word) : Nat := bits (bw b 0) 24 8
def kInbox (b : List Word) : Bool := bits (bw b 0) 38 1 = 1
def kCont (b : List Word) : Bool := bits (bw b 0) 39 1 = 1
def kSteps (b : List Word) : Nat := bits (bw b 0) 48 16
def kSpill (b : List Word) : Nat := bits (bw b 1) 24 7
/-- First row of operand 0 X, 1 Y or 2 Z. -/
def kFirst (b : List Word) (role : Nat) : Nat := bits (bw b 1) (8 * role) 7

/-! ## Chains (R268, R269) -/

/-- One fixed kernel and the roles of its X, Y and Z. -/
structure SeqOp where
  kern : Nat
  x    : Nat
  y    : Nat
  z    : Nat
  deriving DecidableEq, Repr

/-- Roles that a fixed kernel reads. -/
def SeqOp.reads (o : SeqOp) : List Nat :=
  match o.kern with
  | 0 | 2 => []
  | 1 | 6 | 12 | 14 | 15 => [o.x]
  | _ => [o.x, o.y]
/-- The role that it writes at each step; SUM writes the accumulator, and its Z at the end. -/
def SeqOp.writes (o : SeqOp) : Nat := if o.kern = 15 then 3 else o.z

/-- The words of a chain up to the first 0xFF. -/
def chainOps (l : List Word) : List SeqOp :=
  (l.takeWhile fun w => bits w 56 8 ≠ 255).map fun w => ⟨bits w 56 8, bits w 48 2, bits w 40 2, bits w 32 2⟩

/-- What a kernel applies at each step: a fixed kernel to its own operands, or its chain. -/
def kernelOps (b : List Word) (chain : List Word) : List SeqOp := if kKernel b < 16 then [⟨kKernel b, 0, 1, 2⟩] else chainOps chain

/-- The chain of a kernel as the table holds it now. -/
def chainNow (s : State) (k : Nat) : List Word := if k < 16 then [] else (List.range 8).map fun j => chainWord s (8 * (k - 16) + j)

/-- Operands used at each step, and those that are written. -/
def usedRoles (l : List SeqOp) : List Nat := (List.range 3).filter fun r => l.any fun o => o.reads.contains r || o.writes = r
def writtenRoles (l : List SeqOp) : List Nat := (List.range 3).filter fun r => l.any fun o => o.writes = r
/-- The Z of every SUM: row 0 of its run, at the end. -/
def sumsInto (l : List SeqOp) : List Nat := (List.range 3).filter fun r => l.any fun o => o.kern = 15 && o.z = r

/-- The first of the roles whose row is a role's: Z may be X's or Y's row (R267), and is then the same row buffer. -/
def sameRow (b : List Word) (r : Nat) : Nat :=
  if r = 3 then 3 else ((List.range 3).find? fun q => kFirst b q = kFirst b r).getD r

/-- A fixed kernel with the row buffers that it works on for the roles that it names. -/
def SeqOp.onRows (b : List Word) (o : SeqOp) : SeqOp := { o with x := sameRow b o.x, y := sameRow b o.y, z := sameRow b o.z }

/-- Rows of step i. -/
def stepRows (b : List Word) (l : List SeqOp) (i : Nat) : List Nat :=
  let last := if i + 1 = kCount b then (sumsInto l).map (kFirst b) else []
  (((usedRoles l).map fun r => kFirst b r + i) ++ last).foldl (fun a r => insertNat r a) []

/-- Every row used, with the spill rows. -/
def allRows (b : List Word) (l : List SeqOp) : List Nat :=
  ((usedRoles l).flatMap fun r => (List.range (kCount b)).map (kFirst b r + ·))
    ++ (sumsInto l).map (kFirst b) ++ [kSpill b, kSpill b + 1]

/-- Named subarrays. -/
def namedSubs (s : State) (core : Nat) (b : List Word) (l : List SeqOp) : List Nat :=
  ((allRows b l).map (subOf (getCore s core))).foldl (fun a k => insertNat k a) []

/-- The row is a row of an object whose record grants a class to the issuer. -/
def rowGrants (s : State) (slot : Nat) (key : BitVec 16) (priv : Bool) (core row cls : Nat) : Bool :=
  frameUse s core row = 1 && match validNow s slot (frameHandle s core row) with
    | some r => grants r key priv cls
    | none => false

/-- The block is valid (R267), and a chain names fixed kernels only (R269). -/
def seqValid (s : State) (t : Thr) (key : BitVec 16) (priv : Bool) (b : List Word) (l : List SeqOp) : Bool :=
  let w0 := bw b 0
  let w1 := bw b 1
  let slot := slotOf s (tileOf t.core)
  let c := getCore s t.core
  let n := kCount b
  let runs := (usedRoles l).map fun r => (kFirst b r, r)
  bits w0 40 8 = 0 && bits w0 32 6 = 0 && bits w0 8 8 = 0 && bits w1 31 33 = 0 && bits w1 23 1 = 0 && bits w1 15 1 = 0
    && bits w1 7 1 = 0 && bw b 3 = 0 && kKernel b < 64 && 1 ≤ n && n ≤ 84 && [2, 3, 6, 7, 10, 11].contains (kType b)
    && !l.isEmpty && l.all (fun o => o.kern < 16)
    && (allRows b l).all (· < 84)
    && runs.all (fun p => (List.range n).all fun i =>
        (if (writtenRoles l).contains p.2 then rowGrants s slot key priv t.core (p.1 + i) 1 else true)
          && (if p.2 = 2 then rowGrants s slot key priv t.core (p.1 + i) 1 else rowGrants s slot key priv t.core (p.1 + i) 0))
    && (sumsInto l).all (fun z => rowGrants s slot key priv t.core (kFirst b z) 1)
    && [kSpill b, kSpill b + 1].all (fun r => rowGrants s slot key priv t.core r 1)
    && kSpill b / 12 = (kSpill b + 1) / 12
    && runs.all (fun p => runs.all fun q => p.2 = q.2 || (p.1 = q.1 && (p.2 = 2 || q.2 = 2))
        || (List.range n).all fun i => subOf c (p.1 + i) ≠ subOf c (q.1 + i))
    && (runs.map (·.1) ++ (sumsInto l).map (kFirst b)).all (fun p => [kSpill b, kSpill b + 1].all fun r => r < p || p + n ≤ r)
    && !(namedSubs s t.core b l).contains (subOf c t.row)

/-! ## One row step (R268) -/

/-- A fixed kernel on one element of a type. -/
def seqElem (k ty a x y : Nat) : Nat :=
  let size := codeSize ty
  let n := 8 * size
  let f : FFmt := if ty = 11 then .f64 else .f32
  let float : Bool := ty = 10 || ty = 11
  let sgn : Bool := ty = 2 || ty = 3
  let env := FEnv.engine
  let less : Bool := if float then fltVal (f.unpack false x) (f.unpack false y) else if sgn then sval n x < sval n y else x < y
  match k with
  | 0 => 0
  | 1 => x
  | 2 => a % 2 ^ n
  | 3 => if float then (fadd f env x y).1 else (x + y) % 2 ^ n
  | 4 => if float then (fsub f env x y).1 else (x + 2 ^ n - y) % 2 ^ n
  | 5 => if float then (ffma f env false false (a % 2 ^ n) x y).1 else (a * x + y) % 2 ^ n
  | 6 => if float then (fmul f env (a % 2 ^ n) x).1 else a * x % 2 ^ n
  | 7 => if float then (fminmax f false false x y).1 else if less then x else y
  | 8 => if float then (fminmax f false true x y).1 else if less then y else x
  | 9 => x &&& y
  | 10 => x ||| y
  | 11 => x ^^^ y
  | 12 => 2 ^ n - 1 - x
  | 13 => if less then 2 ^ n - 1 else 0
  | 14 => (BitVec.ofNat 64 x).cpop.toNat
  | _ => if float then (fadd f env y x).1 else (y + x) % 2 ^ n

/-- A fixed kernel on whole rows. -/
def seqRow (k ty a : Nat) (x y : List Byte) : List Byte :=
  let size := codeSize ty
  let elems (l : List Byte) : List Nat := (List.range (4096 / size)).map fun i => ofBytes ((l.drop (size * i)).take size)
  ((elems x).zipWith (fun p q => toBytes size (seqElem k ty a p q)) (elems y)).flatten

/-- The row buffers after a chain: X, Y, Z and the accumulator. -/
def seqBuffers (ty a : Nat) (l : List SeqOp) (r : List (List Byte)) : List (List Byte) :=
  l.foldl (fun r o =>
    let x := r.getD o.x []
    let y := if o.kern = 15 then r.getD 3 [] else r.getD o.y []
    r.set o.writes (seqRow o.kern ty a x y)) r

/-- Words of the scalar a: 32-bit types use its lower half. -/
def kScalar (b : List Word) : Nat := if codeSize (kType b) = 4 then bits (bw b 2) 0 32 else (bw b 2).toNat

/-- Apply step i: the state, the accumulator, and the status of a poisoned source row (R259). -/
def applyStep (s : State) (core : Nat) (k : SeqSt) : State × List Byte × Option Word :=
  let b := k.block
  let l := (kernelOps b k.chain).map (SeqOp.onRows b)
  let roles := usedRoles l
  let row (r : Nat) : Nat := kFirst b r + k.stepNo
  let reads := roles.filter fun r => l.any fun o => o.reads.contains r
  let s := reads.foldl (fun s r => touch s (rowAddr core (row r)) 4096) s
  match reads.find? fun r => runPoisoned s (rowAddr core (row r)) 4096 with
  | some r => (s, k.acc, some (statusWord stPoisoned 7 (frameSub s core (row r))))
  | none =>
    let bufs := (List.range 3).map fun r =>
      if reads.contains r then getBytes s (rowAddr core (row r)) 4096 else List.replicate 4096 (0 : Byte)
    let out := seqBuffers (kType b) (kScalar b) l (bufs ++ [k.acc])
    let put (s : State) (row : Nat) (x : List Byte) : State := putFull (dropGranules s core row) (rowAddr core row) x
    let s := (writtenRoles l).foldl (fun s r => put s (row r) (out.getD r [])) s
    let s := if k.stepNo + 1 = kCount b then (sumsInto l).foldl (fun s z => put s (kFirst b z) (out.getD 3 [])) s else s
    (s, out.getD 3 [], none)

/-- Executor cycles of a step (R269, R271). -/
def stepCycles (k : SeqSt) : Nat := Config.rowStepCycles + 40 * ((kernelOps k.block k.chain).length - 1)

/-! ## Completion and acceptance (R369, R370) -/

def modSeq (s : State) (core : Nat) (f : SeqSt → SeqSt) : State := modCore s core fun c => { c with seq := c.seq.map f }

/-- The sequencer's next step, so many cycles from now. -/
def stepIn (s : State) (core d : Nat) : State := post (unpost s (.rowStep core)) d (.rowStep core)

/-- The reference of a kernel. -/
def seqRef : Word := 0xC0

/-- A waiting RSWAIT, or JWAIT for the kernel, of a row. -/
def seqWaiter (s : State) (t : Thr) : Option Req :=
  s.reqs.find? fun r => r.thr = t && !r.held && r.phase = .engine && match r.insn with
    | .rswait _ => true
    | .jwait .. => r.handle = seqRef
    | _ => false

/-- Deliver a kernel's completion: to the inbox, to a row that waits for it, or held. -/
def deliverSeq (s : State) (core : Nat) (k : SeqSt) (status : Word) : State :=
  if kInbox k.block then jobEntry s (tileOf core) k.thr k.key seqRef status
  else match seqWaiter s k.thr with
    | some r => replyArrives s r.id (ansWord status)
    | none => modCore s core fun c => { c with finished := c.finished ++ [{ k with status := some status }] }

/-- The state of a kernel is in its spill rows (R273). -/
def spillIntact (s : State) (core : Nat) (k : SeqSt) : Bool :=
  (List.range 1024).all fun i => getWord s (rowAddr core (kSpill k.block) + 8 * i) = Config.freeWord (k.spilled + i)

/-- A stopped kernel of the same block, if its spill rows still hold it. -/
def stoppedKernel (s : State) (core : Nat) (b : List Word) : Option SeqSt :=
  (getCore s core).spilled.find? fun k =>
    bits (bw k.block 0) 0 32 = bits (bw b 0) 0 32 && bw k.block 1 = bw b 1 && bw k.block 2 = bw b 2 && spillIntact s core k

/-- A free sequencer takes a command: its reference, and the kernel or an INVALID completion (R369). -/
def acceptSeq (s : State) (core : Nat) (r : Req) : State :=
  let b := r.block
  let fresh : SeqSt := { thr := r.thr, block := b, chain := r.chain, key := r.key, priv := r.priv, stepNo := 0, ran := 0
                         acc := List.replicate 4096 0, cancel := false, status := none }
  let k : Option SeqSt := if kCont b then
      (stoppedKernel s core b).map fun k => { k with thr := r.thr, block := b, key := r.key, priv := r.priv, ran := 0, cancel := false
                                                     status := none, phase := .starting, endAt := 0 }
    else some fresh
  match k.bind fun k => if seqValid s r.thr r.key r.priv b (kernelOps b k.chain) then some k else none with
  | none => deliverSeq (replyArrives s r.id (ansWord seqRef)) core fresh (invalid 7)
  | some k =>
    let s := modCore s core fun c =>
      { c with seq := some k, spilled := if kCont b then c.spilled.filter fun x => bw x.block 1 ≠ bw b 1 else c.spilled }
    stepIn (replyArrives s r.id (ansWord seqRef)) core 0

/-- The sequencer is free: the first command that waits is taken; one whose request has gone is passed over. -/
def nextSeq (s : State) (core : Nat) : List Nat → State
  | [] => modCore s core fun c => { c with seqWait := [] }
  | i :: l =>
    match findReq s i with
    | none => nextSeq s core l
    | some r =>
      let s := acceptSeq (modCore s core fun c => { c with seqWait := l }) core r
      if (getCore s core).seq.isSome then s else nextSeq s core l

/-- A kernel ends: its subarrays go back to the treadle (R270), and its completion is delivered. -/
def endSeq (s : State) (core : Nat) (k : SeqSt) (status : Word) : State :=
  let subs := namedSubs s core k.block (kernelOps k.block k.chain)
  let s := modCore s core fun c => { c with seq := none }
  let s := subs.foldl (fun s n => match (getSub s core n).mode with
    | .taken => kick (modSub s core n fun x => { x with mode := .closed }) core n
    | _ => s) s
  let s := deliverSeq s core k status
  nextSeq s core (getCore s core).seqWait

/-! ## Steps -/

/-- Close the named subarrays (R270): true when the sequencer holds all of them. -/
def takeSubs (s : State) (core : Nat) (subs : List Nat) : State × Bool :=
  subs.foldl (fun a n =>
    let s := a.1
    match (getSub s core n).mode with
    | .taken => a
    | .closed => (modSub s core n fun x => { x with mode := .taken }, a.2)
    | .waiting _ .thread _ => (modSub s core n fun x => { x with mode := .taken }, a.2)
    | .opened r => (if atBoundary s ⟨core, r⟩ then beginClose (endYield s ⟨core, r⟩) core n r .take else s, false)
    | .waiting .. | .activating .. | .closing .. | .serving .. | .refreshing .. => (s, false)) (s, true)

/-- Spill into the spill rows: what they hold is open (log 12). -/
def spillRows (s : State) (core : Nat) (k : SeqSt) : State :=
  let bytes := (List.range 1024).flatMap fun i => toBytes 8 (Config.freeWord (s.fresh + i)).toNat
  let base := s.fresh
  let s := { s with fresh := s.fresh + 1024 }
  let s := putFull (dropGranules (dropGranules s core (kSpill k.block)) core (kSpill k.block + 1)) (rowAddr core (kSpill k.block)) bytes
  modSeq s core fun k => { k with spilled := base }

/-- A refresh that is due on a named subarray (R272). -/
def seqRefresh (s : State) (core : Nat) (subs : List Nat) : Option Nat := subs.findSome? (refreshDue s core)

/-- A queued access to a named subarray, the oldest. -/
def seqQueued (s : State) (core : Nat) (subs : List Nat) : Option QEnt :=
  let c := getCore s core
  c.oq.find? fun q => q.row < 84 && subs.contains (subOf c q.row)

/-- Begin a service interval: the spill, 45 cycles and a credit (R270, R271). -/
def beginService (s : State) (core : Nat) (k : SeqSt) : State :=
  let s := spillRows (spendCredits s core 1) core k
  post (modSeq s core fun k => { k with phase := .serving Config.windowAccesses none, endAt := s.now + Config.spillCycles })
    Config.spillCycles (.serviceInterval core)

/-- Stop at the step count: a spill, then the completion STEPPED (R273). -/
def beginStop (s : State) (core : Nat) (k : SeqSt) : State :=
  let s := spillRows (spendCredits s core 1) core k
  stepIn (modSeq s core fun k => { k with phase := .ending (statusWord 11 0xFF 0), endAt := s.now + Config.spillCycles })
    core Config.spillCycles

/-- At a step boundary: a cancel, the end, due refreshes, the look, the next step. -/
def atStep (s : State) (core : Nat) (k : SeqSt) (looked : Bool) : State :=
  let l := kernelOps k.block k.chain
  let subs := namedSubs s core k.block l
  let credits := freeCredits s core
  let rows := stepRows k.block l k.stepNo
  if stackDown s (stackOf core) then endSeq s core k (statusWord stDown 7 0)
  else if k.cancel then endSeq s core k (statusWord stCancelledJob 0xFF 0)
  else if k.stepNo = kCount k.block then endSeq s core k 0
  else match seqRefresh s core subs with
  | some n =>
    let s := modSub (refreshErrors s core n) core n fun x => { x with due := false }
    stepIn (modSeq s core fun k => { k with endAt := s.now + Config.refreshCycles }) core Config.refreshCycles
  | none =>
    let waiting := credits < rows.length || (creditWaits s core).any fun w => creditClass s core w = 1
    let look := (!looked && k.ran % 4 = 0 && k.ran ≠ 0) || waiting
    if look && (seqQueued s core subs).isSome && 1 ≤ credits then beginService s core k
    else if kSteps k.block ≠ 0 && k.ran = kSteps k.block then
      (if 1 ≤ credits then beginStop s core k else stepIn s core 1)
    else if waiting then stepIn s core 1
    else
      let n := stepCycles k
      -- what crosses the vertical bus is the step's command, a bulk request (R95); its rows go through the row buffers (log 65)
      stepIn (modSeq (putBus (spendCredits s core rows.length) core 8 true 64) core fun k => { k with phase := .stepping, endAt := s.now + n })
        core n

/-- Step ROW_STEP: what the sequencer does when its present activity has ended. -/
def rowStep (s : State) (core : Nat) : State :=
  match (getCore s core).seq with
  | none => s
  | some k =>
    if s.now < k.endAt then s
    else match k.phase with
      | .starting =>
        if k.cancel then endSeq s core k (statusWord stCancelledJob 0xFF 0)
        else
          let r := takeSubs s core (namedSubs s core k.block (kernelOps k.block k.chain))
          if r.2 then atStep (modSeq r.1 core fun k => { k with phase := .ready false }) core k false
          else stepIn r.1 core 1
      | .ready looked => atStep s core k looked
      | .stepping =>
        match applyStep s core k with
        | (s, _, some st) => endSeq s core k st
        | (s, acc, none) =>
          let k := { k with stepNo := k.stepNo + 1, ran := k.ran + 1, acc := acc, phase := .ready false }
          atStep (modSeq s core fun _ => k) core k false
      | .serving .. => s
      | .ending st =>
        let k := { k with status := none }
        endSeq (modCore s core fun c => { c with spilled := c.spilled.filter (fun x => bw x.block 1 ≠ bw k.block 1) ++ [k] }) core k st
def execRowStep (s : State) : Out := match s.doing with | some (.rowStep c) => .next (rowStep s c) | _ => .next s

/-- Step SERVICE_INTERVAL: the next queued access, 20 cycles, or the restore (R271). -/
def serviceInterval (s : State) (core : Nat) : State :=
  match (getCore s core).seq with
  | none => s
  | some k =>
    match k.phase with
    | .serving left row =>
      if s.now < k.endAt then s
      else
        let c := getCore s core
        let subs := namedSubs s core k.block (kernelOps k.block k.chain)
        match (if left = 0 then none else seqQueued s core subs) with
        | some q =>
          let need := if row = some q.row || q.act.free then 0 else 1
          let n := subOf c q.row
          if freeCredits s core < need then post s 1 (.serviceInterval core)
          else
            let s := if need = 0 then s else spendCredits s core 1
            let s := modCore s core fun c => { c with oq := c.oq.erase q }
            let s := applyIn (raiseBus s core n q.act.bulk q.act.bytes) core n Config.applyCycles q.row q.act
            post (modSeq s core fun k => { k with phase := .serving (left - 1) (some q.row), endAt := s.now + Config.applyCycles })
              Config.applyCycles (.serviceInterval core)
        | none =>
          if freeCredits s core < 1 then post s 1 (.serviceInterval core)
          else
            let s := spendCredits s core 1
            stepIn (modSeq s core fun k => { k with phase := .ready true, endAt := s.now + Config.spillCycles }) core Config.spillCycles
    | .starting | .ready _ | .stepping | .ending _ => s
def execServiceInterval (s : State) : Out :=
  match s.doing with | some (.serviceInterval c) => .next (serviceInterval s c) | _ => .next s

/-! ## RSEQ and RSWAIT -/

/-- RSEQ reaches the sequencer of its core: accepted, or waiting while it is busy. -/
def toSequencer (s : State) (id : Nat) : State :=
  match findReq s id with
  | none => s
  | some r =>
    let core := r.thr.core
    -- the chain is the one that holds at issue (R269)
    let r := { r with phase := .engine, chain := chainNow s (kKernel r.block) }
    let s := modReq s id fun _ => r
    if (getCore s core).seq.isSome || !(getCore s core).seqWait.isEmpty then
      modCore s core fun c => { c with seqWait := c.seqWait ++ [id] }
    else acceptSeq s core r

def execRseq (d a : SReg) (s : State) : Out := .next (blockCommand (.rseq d a) a 32 7 0x3A toSequencer s)

/-- Take a kernel's completion, or wait for it (R370). -/
def waitSeq (s : State) (id : Nat) : State :=
  match findReq s id with
  | none => s
  | some r =>
    let core := r.thr.core
    let c := getCore s core
    match c.finished.find? fun k => k.thr = r.thr with
    | some k =>
      replyArrives (setCore s core { c with finished := c.finished.erase k }) id (ansWord (k.status.getD 0))
    | none =>
      if (match c.seq with | some k => k.thr = r.thr && !kInbox k.block | none => false) then
        modReq s id fun r => { r with phase := .engine, handle := seqRef }
      else replyArrives s id (ansWord noJob)

def execRswait (d : SReg) (s : State) : Out :=
  .next (if isHandler s.cur then trapNow s .illegalInsn
    else withRegs s [cAddr s.cur 7] fun s => beyond s 7 0x3A 0 (newReq s (.rswait d)) waitSeq)

/-! ## JPOLL and JWAIT (R365) -/

/-- An entry's answer goes to a JPOLL or JWAIT of the engine's own tile, or travels to its tile. -/
def entryBack (s : State) (id own tile : Nat) (x : Word) : State :=
  if tile = own then replyArrives s id (ansWord x) else answer s tile id (ansWord x)

/-- Poll an entry of a queue. -/
def pollEntry (s : State) (id own tile : Nat) (q : QSel) (e : Nat) (t : Thr) : State :=
  match ownJob s tile q e t with
  | none => entryBack s id own tile noJob
  | some j => match j.status with
    | some st => entryBack (takeJob s tile q j) id own tile st
    | none => entryBack s id own tile (BitVec.allOnes 64)

/-- JPOLL at the engine that the reference names. -/
def poll (s : State) (id : Nat) : State :=
  match findReq s id with
  | none => s
  | some r =>
    let own := tileOf r.thr.core
    match refTo own r.handle with
    | .nothing => replyArrives s id (ansWord noJob)
    | .entry tile q e => pollEntry s id own tile q e r.thr
    | .sequencer =>
      let c := getCore s r.thr.core
      match c.finished.find? fun k => k.thr = r.thr with
      | some k => replyArrives (setCore s r.thr.core { c with finished := c.finished.erase k }) id (ansWord (k.status.getD 0))
      | none => replyArrives s id (ansWord (match c.seq with
          | some k => if k.thr = r.thr then BitVec.allOnes 64 else noJob
          | none => noJob))

/-- JWAIT: a completed job's status, or a park until it completes, with the entry in DETAIL (R361). -/
def waitJob (s : State) (id : Nat) : State :=
  match findReq s id with
  | none => s
  | some r =>
    let own := tileOf r.thr.core
    match refTo own r.handle with
    | .nothing => replyArrives s id (ansWord noJob)
    | .sequencer => waitSeq s id
    | .entry tile q e =>
      match ownJob s tile q e r.thr with
      | none => pollEntry s id own tile q e r.thr
      | some j => match j.status with
        | some st =>
          if tile = own then pollEntry s id own tile q e r.thr
          -- the answer travels, and takes the completion when it arrives
          else answer (modJob s tile q e fun j => { j with waiters := j.waiters ++ [id] }) tile id (ansWord st)
        | none =>
          let s := modJob s tile q e fun j => { j with waiters := j.waiters ++ [id] }
          let s := modReq s id fun r => { r with phase := .engine }
          setC s r.thr 2 (setBits (getC s r.thr 2) 16 48 e)

/-- JPOLL and JWAIT with their reference. -/
def takeCommand (i : Instr) (a : SReg) (start : State → Nat → State) (s : State) : State :=
  withRegs s (sWords s.cur [a] ++ [cAddr s.cur 7]) fun s => beyond s 4 0x38 0 { newReq s i with handle := getS s s.cur a } start

def execJpoll (d a : SReg) (s : State) : Out := .next (takeCommand (.jpoll d a) a poll s)
def execJwait (d a : SReg) (s : State) : Out :=
  .next (if isHandler s.cur then trapNow s .illegalInsn else takeCommand (.jwait d a) a waitJob s)

end Sys2Proof.Machine
end

