-- ==== Sys2Proof/Machine/Collective.lean ====
section
/-! DEFINITION. The collective unit: CREDUCE, combination, withdrawal (R206, R274, R371). -/
namespace Sys2Proof.Machine

/-! ## Combination -/

/-- Type codes of TYPE (R371). -/
def reduceFmt (ty : Nat) : Nat := match ty with | 0 => 10 | 1 => 9 | 2 => 2 | _ => 7

/-- One node of the tree on two elements; bf16 elements stand as f32. -/
def reduceNode (ty op a b : Nat) : Nat :=
  match ty, op with
  | 0, 1 | 1, 1 => (fminmax .f32 false false a b).1
  | 0, 2 | 1, 2 => (fminmax .f32 false true a b).1
  | 0, _ | 1, _ => (fadd .f32 .engine a b).1
  | 2, 1 => if sval 32 a < sval 32 b then a else b
  | 2, 2 => if sval 32 a < sval 32 b then b else a
  | 2, _ => (a + b) % 2 ^ 32
  | _, 1 => min a b
  | _, 2 => max a b
  | _, _ => (a + b) % 2 ^ 64

/-- Combine values two by two; which two is the tree's shape, a free value (log 16). -/
def reduceTree (choice : Nat → Nat) (node : Nat → Nat → Nat) : Nat → Nat → List Nat → Nat
  | 0, _, l => l.headD 0
  | fuel + 1, i, l =>
    if l.length ≤ 1 then l.headD 0
    else
      let a := choice i % l.length
      let r := l.eraseIdx a
      let b := choice i / l.length % r.length
      reduceTree choice node fuel (i + 1) (node (l.getD a 0) (r.getD b 0) :: r.eraseIdx b)

/-- What a member's element enters the tree as, and what the combined value is delivered as: mean divides by COUNT, bf16 is
rounded once at the end (R274). -/
def reduceIn (ty x : Nat) : Nat := if ty = 1 then x * 65536 else x
def reduceOut (ty op count x : Nat) : Nat :=
  let m := if op ≠ 3 then x
    else match ty with
      | 0 | 1 => (fdiv .f32 .engine x (FFmt.f32.round .rne false (.mode .rne) false count 0).1).1
      | 2 => ((sval 32 x).tdiv count % 2 ^ 32).toNat
      | _ => x / count
  if ty = 1 then
    match f32Val m with
    | .nan _ => FFmt.bf16.nan
    | .inf n => FFmt.bf16.inf n
    | .fin n y e => (FFmt.bf16.round .rne false (.mode .rne) n y e).1
  else m

/-- The combined elements of contributions, in member order. -/
def combineAll (g : Nat) (x : GroupSt) (ops : List Contrib) : List Nat :=
  let b := (ops.head?.map (·.block)).getD []
  let ty := bits (bw b 3) 12 2
  let op := bits (bw b 3) 8 2
  let size := codeSize (reduceFmt ty)
  (List.range (bits (bw b 3) 16 16)).map fun i =>
    reduceOut ty op x.count (reduceTree (Config.reduceChoice g x.epoch.toNat ops.length) (reduceNode ty op) ops.length 0
      (ops.map fun c => reduceIn ty (ofBytes ((c.data.drop (size * i)).take size))))

/-! ## Completion -/

/-- An operation ends for a member: its counter, with release at pkg, and its answer (R260, R371). -/
def endReduce (s : State) (id : Nat) (thr : Thr) (b : List Word) (status : Word) : State :=
  let w6 := bw b 6
  let n := bits w6 48 16
  let s := if bits w6 2 1 = 1 && ownsCounter s (partKey s (tileOf thr.core)) n then
      post s 0 (.counterDecrement n (bits status 0 8 ≠ 0) 0)
    else s
  answer s ioDie id (ansWord status)

/-- Write a result to a member's destination. -/
def writeResult (s : State) (c : Contrib) (vals : List Nat) : State × Word :=
  let tile := tileOf c.thr.core
  let slot := slotOf s tile
  match operand s slot c.key c.priv (bits (bw c.block 0) 32 32) [1] with
  | none => (s, invalid 4)
  | some o =>
    let d := blkIndex c.block 2
    let spots := (List.range vals.length).map fun (i : Nat) => spotAt o (d + (i : Int))
    let hs := homesOf s slot o (subsOf spots) true
    let r := gatherWrites s o hs o.size (spots.zip (vals.map (BitVec.ofNat 64))) {}
    let y := flush s slot o (subsOf spots) tile c.thr (engineWriter tile rowCollective) false r.1
    (y.1, match y.2, r.2 with
      | some p, _ => statusWord p.1 4 (p.2 / 64)
      | none, some p => statusWord p.1 4 p.2
      | none, none => 0)

/-- The elements of an operation at an operand of its block. -/
def reduceSpots (b : List Word) (o : Opd) (k : Nat) : List Spot :=
  (List.range (bits (bw b 3) 16 16)).map fun (i : Nat) => spotAt o (blkIndex b k + (i : Int))

/-- A source, or a destination, of a thread's operation is changing, or RHOLD holds what it needs (R160, R171, R185). -/
def reduceWaits (s : State) (thr : Thr) (key : BitVec 16) (priv : Bool) (b : List Word) (h cls k : Nat) : Bool :=
  let slot := slotOf s (tileOf thr.core)
  match operand s slot key priv h [cls] with
  | some o => anyWaits s slot o (reduceSpots b o k)
  | none => false

/-- What the unit reads and writes is admitted at its owners (R36, R275): the granules follow, and nothing waits for them (log 4). -/
def admitted (s : State) (f : State → State) : State :=
  let t := f { s with trace := some [] }
  sendGranules { t with trace := none } ioDie 0 .copy (admissions .cpy (t.trace.getD []).reverse)

/-- The current members of a group. -/
def membersOf (x : GroupSt) : List (BitVec 46) := x.members.take x.count

/-- The operation that every current member has contributed to, if there is one. -/
def readyOp (x : GroupSt) : Option Nat :=
  (x.ops.map (·.number)).find? fun n => (membersOf x).all fun m => x.ops.any fun c => c.member = m && c.number = n

/-- The member is a thread of this module. -/
def isLocal (s : State) (m : BitVec 46) : Bool := bits (m.setWidth 64) 27 19 = s.io.devid.toNat

/-- Step COLLECTIVE_COMBINE: the result is written for each member, and each one's CREDUCE ends; a member of another module is
served by its own module's unit, which holds the same contributions (R274). -/
def combine (s : State) (g : Nat) : State :=
  let x := getGroup s g
  match readyOp x with
  | none => s
  | some n =>
    let mine := (membersOf x).filterMap fun m => x.ops.find? fun c => c.member = m && c.number = n
    if mine.any fun c => isLocal s c.member && reduceWaits s c.thr c.key c.priv c.block (bits (bw c.block 0) 32 32) 1 2 then
      post s 1 (.collectiveCombine g)
    else
    let vals := combineAll g x mine
    let s := modGroup s g fun x => { x with ops := x.ops.filter fun c => c.number ≠ n }
    admitted s fun s => (mine.filter fun c => isLocal s c.member).foldl (fun s c =>
      let r := writeResult s c vals
      endReduce r.1 c.req c.thr c.block r.2) s
def execCollectiveCombine (s : State) : Out :=
  match s.doing with | some (.collectiveCombine g) => .next (combine s g) | _ => .next s

/-! ## CREDUCE (R371) -/

/-- The block breaks a rule that names no operand, or the issuer is no member (R379 step 1). -/
def badReduce (s : State) (r : Req) (x : GroupSt) : Bool :=
  let w (i : Nat) : Word := bw r.block i
  let w6 := w 6
  let ty := bits (w 3) 12 2
  bits (w 1) 48 16 ≠ 0 || bits (w 2) 48 16 ≠ 0 || bits (w 3) 32 32 ≠ 0 || bits (w 3) 14 2 ≠ 0 || bits (w 3) 10 2 ≠ 0
    || w 4 ≠ 0 || w 5 ≠ 0 || w 7 ≠ 0 || bits w6 3 45 ≠ 0 || bits w6 0 2 ≠ 0
    || (bits w6 2 1 = 1 && !ownsCounter s (partKey s (tileOf r.thr.core)) (bits w6 48 16))
    || bits (w 3) 16 16 = 0 || 256 < bits (w 3) 16 16 * codeSize (reduceFmt ty)
    || !(membersOf x).contains (refOf s r.thr)

/-- A contribution joins its group: the last one of its operation starts the combination. -/
def contribute (s : State) (g : Nat) (c : Contrib) : State :=
  let n := (((getGroup s g).counts.find? fun p => p.1 = c.member).map (·.2)).getD 0
  let s := modGroup s g fun x =>
    { x with ops := x.ops ++ [{ c with number := n }], counts := (c.member, n + 1) :: x.counts.filter fun p => p.1 ≠ c.member }
  if (readyOp (getGroup s g)).isSome then postFree s (.collectiveCombine g) else s

/-- A contribution goes to the units of the other modules that have members in the group (R195, R274). -/
def spreadContribution (s : State) (g : Nat) (c : Contrib) : State :=
  let devs := ((membersOf (getGroup s g)).filter (!isLocal s ·)).foldl (fun l m => insertNat (bits (m.setWidth 64) 27 19) l) []
  (devs.filter (reachable s)).foldl (fun s d =>
    { s with io := { s.io with left := s.io.left ++ [(d, .contribution g c.member c.block c.data)] } }) s

/-- The contribution of a member of another module arrives. -/
def contributionArrives (s : State) (g : Nat) (m : BitVec 46) (b : List Word) (data : List Byte) : State :=
  if isLocal s m || !(membersOf (getGroup s g)).contains m then s
  else contribute s g ⟨m, 0, 0, senderThr m, b, 0, false, data⟩

/-- The unit accepts an operation: the source is read and contributed. -/
def acceptReduce (s : State) (id : Nat) : State :=
  match findReq s id with
  | none => s
  | some r =>
    let tile := tileOf r.thr.core
    let slot := slotOf s tile
    let g := bits (bw r.block 3) 0 8
    let x := getGroup s g
    let fmt := reduceFmt (bits (bw r.block 3) 12 2)
    let s := modReq s id fun r => { r with phase := .engine }
    let fail (s : State) (st : Word) : State := endReduce s id r.thr r.block st
    let places (o : Opd) (k : Nat) : List Spot := reduceSpots r.block o k
    let sound (h : Nat) (cls k : Nat) : Option Opd :=
      (operand s slot r.key r.priv h [cls]).bind fun o => if o.fmt = fmt && (places o k).all (· != .oos) then some o else none
    if badReduce s r x then fail s (invalid 0xFF)
    else match sound (bits (bw r.block 0) 0 32) 0 1, sound (bits (bw r.block 0) 32 32) 1 2 with
      | none, _ => fail s (invalid 0)
      | _, none => fail s (invalid 4)
      | some o, some d =>
        let spots := places o 1
        let hs := homesOf s slot o (subsOf spots) false
        let ds := homesOf s slot d (subsOf (places d 2)) true
        match firstFault s o hs, firstFault s d ds with
        | some f, _ => fail s (statusWord f.1 0 f.2)
        | none, some f => fail s (statusWord f.1 4 f.2)
        | none, none =>
          let y := readPages s ⟨tile, slot, r.thr, false⟩ o spots hs
          match firstBad y.2 spots with
          | some f => fail y.1 (statusWord f.1 0 f.2)
          | none =>
            let c : Contrib := ⟨refOf s r.thr, 0, id, r.thr, r.block, r.key, r.priv, spell y.2 o.size spots⟩
            contribute (spreadContribution y.1 g c) g c

def execCreduce (d a : SReg) (s : State) : Out :=
  .next (match s.doing with
    | some (.request .creduce id) =>
      -- the source waits for what its reads need
      if (match findReq s id with
          | some r => !badReduce s r (getGroup s (bits (bw r.block 3) 0 8)) && reduceWaits s r.thr r.key r.priv r.block (bits (bw r.block 0) 0 32) 0 1
          | none => false) then post s 1 (.request .creduce id)
      else admitted s fun s => acceptReduce s id
    | some (.contribution g m b data) => contributionArrives s g m b data
    | _ => if isHandler s.cur then trapNow s .illegalInsn
      else blockCommand (.creduce d a) a 64 4 0x39 (fun s id => send s .req (tileOf s.cur.core) ioDie (.run (.request .creduce id))) s)

/-! ## Withdrawal (R206) -/

/-- Remove a member: the epoch counts, and every operation in flight ends SHRINK for the members of this module; those of others are
told by their own units. -/
def withdraw (s : State) (g : Nat) (m : BitVec 46) : State :=
  let x := getGroup s g
  if !(membersOf x).contains m then s
  else
    let s := modGroup s g fun x =>
      { x with members := (membersOf x).filter (· ≠ m), count := ((membersOf x).filter (· ≠ m)).length, epoch := x.epoch + 1
               counts := [], ops := [] }
    (x.ops.filter fun c => isLocal s c.member).foldl (fun s c => endReduce s c.req c.thr c.block (statusWord 10 0xFF 0)) s

/-- Step MEMBER_WITHDRAWAL. -/
def execMemberWithdrawal (s : State) : Out :=
  match s.doing with | some (.memberWithdrawal g m) => .next (withdraw s g m) | _ => .next s

end Sys2Proof.Machine
end

