-- ==== Sys2Proof/Machine/Tasks.lean ====
section
/-! DEFINITION. The task instructions (R372 to R376): LAUNCH, the counter instructions, CANCEL, YIELD, PARK and EXIT. -/
namespace Sys2Proof.Machine

/-- Send a request to the I/O die. -/
def toIo (op : ReqOp) (s : State) (id : Nat) : State :=
  match findReq s id with
  | none => s
  | some r => send (modReq s id fun r => { r with phase := .sent }) .req (tileOf r.thr.core) ioDie (.run (.request op id))

/-- The I/O die answers a request. -/
def ioAnswer (s : State) (id : Nat) (x : Word) : State := answer s ioDie id (ansWord x)

/-! ## LAUNCH (R373) -/

/-- The first status that applies to a LAUNCH, if one does. -/
def launchStatus (s : State) (r : Req) : Option Nat :=
  let q := getQueue s r.x.toNat
  if 2048 ≤ r.x.toNat then some 4
  else if !(q.en && q.devfed && q.part = partKey s (tileOf r.thr.core)) then some 1
  else if pPriv r.block && !r.priv then some 3
  else if q.tail - q.fence = BitVec.ofNat 64 (2 ^ q.size.toNat) then some 2
  else none

/-- Write a packet at a ring index; a ring that names no such element takes none, and its packets are REJECTED (R51). -/
def writePacket (s : State) (q : QueueSt) (x : Word) (p : Packet) : State :=
  ((List.range 8).map fun i => (i, ringAddr s q x i)).foldl (fun s w =>
    match w.2 with
    | some a => putWord s a (pw p w.1)
    | none => s) s

/-- LAUNCH at the I/O die: a status, or the packet in the ring and its launch's identifier. -/
def launchArrives (s : State) (id : Nat) : State :=
  match findReq s id with
  | none => s
  | some r =>
    match launchStatus s r with
    | some n => ioAnswer s id (0x8000000000000000#64 + BitVec.ofNat 64 n)
    | none =>
      let n := r.x.toNat
      let q := getQueue s n
      let l := freshLaunch s
      let s := writePacket s q q.tail r.block
      let s := modQueue s n fun q => { q with tail := q.tail + 1, issuers := q.issuers ++ [(q.tail, r.key, r.thr)] }
      let s := if pKind r.block = 1 then enterLaunch s n q.tail r.block r.key (some r.thr)
        else { s with io := { s.io with nextLaunch := l % 16777215 + 1 } }
      kickQueue (ioAnswer s id (BitVec.ofNat 64 l)) n

/-- LAUNCH: the packet is copied from the own row as a command block is (R362). -/
def execLaunch (d a : SReg) (p : Pair) (r : Order) (s : State) : Out :=
  .next (match s.doing with
    | some (.request .launch id) => launchArrives s id
    | _ =>
      withBlock s [a, pairEven p] a 64 fun s x =>
        let t := s.cur
        withRegs s ((if fences r then postedWords t else packetWords t) ++ wordsOf (ownAddr t x) 64) fun s =>
          beyond s 1 0x23 0 { newReq s (.launch d a p r) with x := getS s t (pairEven p), block := readWords s (ownAddr t x) 8 }
            (if fences r then fun s id => withFence s id (toIo .launch) else toIo .launch))

/-! ## Counters (R374) -/

/-- A counter instruction: its number in x, its other operand in y. -/
def counterInsn (i : Instr) (a : SReg) (r : Order) (regs : List SReg) (kind cause : Nat) (detail : Word → Word) (y : State → Word)
    (start : State → Nat → State) (s : State) : State :=
  withRegs s (sWords s.cur (a :: regs) ++ (if fences r then postedWords s.cur else packetWords s.cur)) fun s =>
    let x := getS s s.cur a &&& 0xFFFF
    beyond s kind cause (detail x) { newReq s i with x := x, y := y s } (if fences r then fun s id => withFence s id start else start)

/-- CNTDEC's packet. -/
def sendDecrement (s : State) (id : Nat) : State :=
  match findReq s id with
  | none => s
  | some r => send (modReq s id fun r => { r with phase := .sent }) .req (tileOf r.thr.core) ioDie
      (.run (.counterDecrement r.x.toNat false id))
def execCntdec (a : SReg) (r : Order) (s : State) : Out :=
  .next (counterInsn (.cntdec a r) a r [] 1 0x23 (fun _ => 0) (fun _ => 0) sendDecrement s)

/-- CNTADD at the I/O die: it saturates, and releases nobody (R55). -/
def addArrives (s : State) (id : Nat) : State :=
  match findReq s id with
  | none => s
  | some r =>
    let n := r.x.toNat
    let add (c : CounterSt) : CounterSt :=
      let v := c.value.toNat + bits r.y 0 32
      if 4294967295 < v then { c with value := 0xFFFFFFFF#32, overrun := true } else { c with value := BitVec.ofNat 32 v }
    let s := if ownsCounter s (partKey s (tileOf r.thr.core)) n then modCounter s n add else divertCounter s r n
    ioAnswer s id 0
def execCntadd (a : SReg) (p : Pair) (r : Order) (s : State) : Out :=
  .next (match s.doing with
    | some (.request .cntadd id) => addArrives s id
    | _ => counterInsn (.cntadd a p r) a r [pairEven p] 1 0x23 (fun _ => 0) (fun s => getS s s.cur (pairEven p)) (toIo .cntadd) s)

/-- CNTWAIT at the I/O die. -/
def waitArrives (s : State) (id : Nat) : State :=
  match findReq s id with
  | none => s
  | some r =>
    let n := r.x.toNat
    if !ownsCounter s (partKey s (tileOf r.thr.core)) n then ioAnswer (divertCounter s r n) id 0
    else if (getCounter s n).value = 0 then ioAnswer s id 0
    else modCounter s n fun c => { c with waiters := c.waiters ++ [.request id] }
/-- CNTWAIT: KIND COUNTER with the counter in DETAIL; illegal in a handler (R377). -/
def execCntwait (a : SReg) (r : Order) (s : State) : Out :=
  .next (match s.doing with
    | some (.request .cntwait id) => waitArrives s id
    | _ => if isHandler s.cur then trapNow s .illegalInsn
      else counterInsn (.cntwait a r) a r [] 5 0 id (fun _ => 0) (toIo .cntwait) s)

/-! ## CANCEL (R375) -/

/-- Mark a job cancelled; a queued copy or gather job completes at once (R254, R260). -/
def cancelJob (s : State) (tile : Nat) (q : QSel) (j : Job) : State :=
  let running := (runningJob s tile q).map (·.entry) = some j.entry
  let s := modJob s tile q j.entry fun j => { j with cancel := true }
  let w := statusWord stCancelledJob 0xFF 0
  match q with
  | .mat => s
  | .cpy => if running then s else stopCopy s tile j w
  | .gat => if running then s else endGather s tile j (some w)

/-- The issuer may cancel what this row issued. -/
def mayCancel (s : State) (r : Req) (t : Thr) : Bool := r.priv || keyOf s t = r.key

/-- Level 3: a job reference. -/
def cancelRef (s : State) (r : Req) : State × Nat :=
  let own := tileOf r.thr.core
  if bits r.x 19 45 ≠ 0 then (s, 3)
  else match refTo own r.x with
    | .nothing => (s, 1)
    | .entry tile q e =>
      (match (jobsIn (getTile s tile) q).find? fun j => j.entry = e && j.status.isNone with
      | none => (s, 1)
      | some j => if mayCancel s r j.thr then (cancelJob s tile q j, 0) else (s, 2))
    | .sequencer =>
      match (getCore s r.thr.core).seq with
      | none => (s, 1)
      | some k => if mayCancel s r k.thr then (modCore s r.thr.core fun c => { c with seq := some { k with cancel := true } }, 0) else (s, 2)

/-- The rows to which a cancel of these launches sends heddle packets, the issuer's own left out. -/
def cancelRows (s : State) (t : Thr) (l : List LaunchSt) : List Nat :=
  l.flatMap fun x => if x.state = .placed && !x.swapped && !swapping s x.id then
      (x.rows.filter (· ≠ t)).map fun u => u.core * 128 + u.row
    else []

/-- The cancel operation: the new state, its status, and the launches whose rows must have had their packet. -/
def cancelTarget (s : State) (r : Req) : State × Nat × List LaunchSt :=
  let x := r.x
  let part := partKey s (tileOf r.thr.core)
  match bits r.y 0 8 with
  | 0 =>
    if bits r.y 8 56 ≠ 0 || bits x 24 40 ≠ 0 then (s, 3, [])
    else match findLaunch s x.toNat with
      | none => (s, 1, [])
      | some l =>
        if l.state = .complete then (s, 1, [])
        else if !(r.priv || l.key = r.key) then (s, 2, [])
        else (cancelLaunch r.id s l.id, 0, [l])
  | 3 => if bits r.y 8 56 ≠ 0 then (s, 3, []) else let y := cancelRef s r; (y.1, y.2, [])
  | n =>
    if 3 < n || bits r.y 8 56 ≠ 0 || bits x 16 48 ≠ 0 then (s, 3, [])
    else if !ownsCounter s part x.toNat then (s, 2, [])
    else (cancelNamed r.id s x.toNat (n = 2), 0, namedBy s x.toNat (n = 2))

/-- The swap of a launch that the target names is in progress: CANCEL waits for its end.  One of a thread of that launch does not, since
the swap waits for its thread (log 42). -/
def cancelWaits (s : State) (r : Req) (l : List LaunchSt) : Bool :=
  l.any fun x => x.state = .placed && swapping s x.id && !x.rows.contains r.thr

/-- CANCEL at the I/O die: answered once its heddle packets have been applied to other rows. -/
def cancelArrives (s : State) (id : Nat) : State :=
  match findReq s id with
  | none => s
  | some r =>
    let y := cancelTarget s r
    let rows := cancelRows s r.thr y.2.2
    if cancelWaits s r y.2.2 then post s 1 (.request .cancel id)
    else if rows.isEmpty then ioAnswer y.1 id (BitVec.ofNat 64 y.2.1)
    else modReq y.1 id fun r => { r with echoes := rows }
def execCancel (d a : SReg) (p : Pair) (s : State) : Out :=
  .next (match s.doing with
    | some (.request .cancel id) => cancelArrives s id
    | _ => withRegs s (sWords s.cur [a, pairEven p] ++ packetWords s.cur) fun s =>
      beyond s 1 0x23 0 { newReq s (.cancel d a p) with x := getS s s.cur a, y := getS s s.cur (pairEven p) } (toIo .cancel))

/-! ## YIELD, PARK and EXIT (R376) -/

/-- YIELD: the treadle ends it (R35); both sides of a pair execute it. -/
def execYield (s : State) : Out :=
  .next (if isHandler s.cur then trapNow s .illegalInsn
    else modThr (park s s.cur 6 0 0) s.cur fun c => { c with yielded := true })
/-- PARK: an outside write or an inbox entry ends it. -/
def execPark (s : State) : Out :=
  .next (if isHandler s.cur then trapNow s .illegalInsn
    else beyond s 6 1 0 (newReq s .park) fun s _ => s)
/-- EXIT: fence(rel, pkg), then it retires. -/
def execExit (s : State) : Out :=
  .next (withRegs s [cAddr s.cur 4] fun s =>
    withRegs s (if getC s s.cur 4 = 0 then [] else [cAddr s.cur 7]) fun s =>
      beyond s 1 0x20 0 (newReq s .exit) fun s id => withFence s id fun s id => replyArrives s id (ansWord 0))

end Sys2Proof.Machine
end

