-- ==== Sys2Proof/Machine/System.lean ====
section
/-! DEFINITION. Words that are no instruction (R281), REPART (R39, R317) and CAPR (R320). -/
namespace Sys2Proof.Machine

/-- A word that is no instruction traps ILLEGAL_INSN (R281). -/
def execIllegalInsn (s : State) : Out :=
  match s.doing with
  | some (.illegalInsn w) => .next (takeTrap s s.cur .illegalInsn w none)
  | _ => .next s

/-! ## REPART -/

/-- Quiescent (R39): rows 0 to 83 FREE, no open row in subarrays 0 to 6, no queued outside access to those rows. -/
def quiescent (s : State) (core : Nat) : Bool :=
  let c := getCore s core
  (List.range 84).all (isFreeRow s core) && c.oq.all (84 ≤ ·.row) && c.held.all (84 ≤ ·.1)
    && (c.subs.take 7).all fun x => match x.mode with
      | .closed | .refreshing none => true
      | _ => false

/-- Change the mode of a core: rows 0 to 83 are zeroed, FE as it stands (R100 does not name it). -/
def setMode (s : State) (core : Nat) (wide : Bool) : State :=
  let s := (List.range 84).foldl (fun s r => putBytes s (rowAddr core r) (List.replicate 4096 0)) s
  noteFree (modCore s core fun c => { c with wide := wide, subs := c.subs.map fun x => { x with last := none } }) core

/-- REPART at the core that it names: the issuer's own core is never quiescent. -/
def repartArrives (s : State) (id : Nat) : State :=
  match findReq s id with
  | none => s
  | some r =>
    let core := bits r.x 0 20
    let wide := bits r.x 32 1 = 1
    let back (s : State) (n : Word) : State := answer s (tileOf core) id (ansWord n)
    if core = r.thr.core || !quiescent s core then back s 1
    else if (getCore s core).wide = wide then back s 0
    else back (setMode s core wide) 0

/-- Send REPART to its core; one that names no core of the partition is answered by the own tile. -/
def sendRepart (s : State) (id : Nat) : State :=
  match findReq s id with
  | none => s
  | some r =>
    let core := bits r.x 0 20
    let tile := tileOf r.thr.core
    if !corePresent s core || partKey s (tileOf core) ≠ partKey s tile then send s .rsp tile tile (.run (.reply id (ansWord 2)))
    else if stackDown s (stackOf core) then settleDown s r (plainRef s ⟨core, 84⟩)
    else send s .req tile (tileOf core) (.arrive core 84 (.request .repart id))

/-- REPART. -/
def execRepart (d a : SReg) (s : State) : Out :=
  .next (match s.doing with
    | some (.request .repart id) => repartArrives s id
    | _ => if !isPriv s s.cur then trapNow s .priv
      else withRegs s (sWords s.cur [a]) fun s =>
        let x := getS s s.cur a
        if bits x 20 12 ≠ 0 || bits x 33 31 ≠ 0 then withWords s [] fun s => retireS s s.cur d 3
        else withRegs s (packetWords s.cur) fun s => beyond s 1 0x24 0 { newReq s (.repart d a) with x := x } sendRepart)

/-! ## CAPR -/

/-- CAPR at the I/O die. -/
def caprArrives (s : State) (id : Nat) : State :=
  match findReq s id with
  | none => s
  | some r =>
    let x := r.x.toNat
    ioAnswer s id (if 0x1000 ≤ x && x ≤ 0xFFFF8 then barRead s x else BitVec.allOnes 64)
def execCapr (d a : SReg) (s : State) : Out :=
  .next (match s.doing with
    | some (.request .capr id) => caprArrives s id
    | _ => withChecked s (sWords s.cur [a])
        (fun s => let x := (getS s s.cur a).toNat; if 0x1000 ≤ x && x ≤ 0xFFFF8 && x % 8 ≠ 0 then some .misaligned else none) fun s =>
      withRegs s (packetWords s.cur) fun s => beyond s 1 0x24 0 { newReq s (.capr d a) with x := getS s s.cur a } (toIo .capr))

end Sys2Proof.Machine
end

