-- ==== Sys2Proof/Machine/Health.lean ====
section
/-! DEFINITION. RHOLD (R177), stack health (R187 to R190), scrubbing (R189), and the paths to other modules (R197). -/
namespace Sys2Proof.Machine

/-! ## Accesses of jobs at their owners (R36, R93, R262, R266, R275) -/

/-- The job that has accesses under way under a number: tile, queue, job. -/
def fedJob (s : State) (no : Nat) : Option (Nat × QSel × Job) :=
  s.tiles.findSome? fun t => [QSel.mat, .cpy, .gat].findSome? fun q =>
    ((jobsIn t.2 q).find? fun j => j.no = no && j.feeding ≠ 0 && j.status.isNone).map fun j => (t.1, q, j)

/-- The core and row of a job's access. -/
def Feed.core (f : Feed) : Nat := coreOfAddr (64 * f.gran)
def Feed.row (f : Feed) : Nat := rowOfAddr (64 * f.gran)

/-- Where a write finds its sub-tile: at the frame that it was translated to, which it waits for while that frame moves (R171), at
another one (R104, R172), or nowhere. -/
inductive FeedAt | here | wait | moved (t : Thr) (gen : Nat) | gone
  deriving DecidableEq, Repr

def feedAt (s : State) (f : Feed) : FeedAt :=
  let fits := frameHandle s f.core f.row = f.oh && frameSub s f.core f.row = f.sub && frameGen s f.core f.row = f.gen
  if !f.framed || (fits && frameUse s f.core f.row = 1) then .here
  else if fits && frameUse s f.core f.row = 2 then .wait
  else match entryNow s f.slot f.oh f.sub with
    | none => .gone
    | some e =>
      let w0 := e.getD 0 0
      match entState w0 with
      | 1 => .moved (refThr (w0 >>> 16)) (entGen w0)
      | 3 => .wait
      | _ => .gone

/-- An access of a job reads the frame-state entry of its frame, and elsewhere its sub-tile's entry (R99). -/
def meetFeed (s : State) (f : Feed) : State :=
  if s.bitErrs.isEmpty || !f.framed then s
  else
    let s := touchFrame s ⟨f.core, f.row⟩
    match entryAddr s f.slot f.oh f.sub with
    | some a => touch s a 16
    | none => s

/-- The same write at another frame of its sub-tile. -/
def Feed.moveTo (f : Feed) (t : Thr) (gen : Nat) : Feed :=
  let a := rowAddr t.core t.row
  { f with gran := a / 64 + f.gran % 64, gen := gen
           act := match f.act with
             | .put full ws => .put full (ws.map fun w => (a + w.1 % 4096, w.2))
             | x => x }

/-- Add one element in place: RNE for f32, modulo 2^32 for i32; FE stays (R100). -/
def addAt (s : State) (f32 : Bool) (a : Nat) (x : Nat) : State :=
  let old := getNat s a 4
  putBytes s a (toBytes 4 (if f32 then (fadd .f32 .engine old x).1 else (old + x) % 4294967296))

/-- A write of a job fails: the first of the job's order names its status, and none that has not left yet follows (R259, R379). -/
def feedFails (s : State) (f : Feed) (code : Nat) : State :=
  match fedJob s f.no with
  | none => s
  | some (tile, q, j) =>
    let first : Bool := match j.failed with | some p => f.first < p.1 | none => true
    modJob s tile q j.entry fun j =>
      { j with todo := [], failed := if first then some (f.first, statusWord code 4 f.sub) else j.failed }

/-- A job's access acts at its admission. -/
def feedEffect (s : State) (f : Feed) : State :=
  let a := 64 * f.gran
  match f.act with
  | .meet => s
  | .fetch =>
    let s := touch s a 64
    match fedJob s f.no with
    | some (tile, q, j) =>
      let bad := (s.poison.filter fun p => a ≤ p && p < a + 64).map (· - a)
      modJob s tile q j.entry fun j => { j with got := j.got ++ [⟨f.gran, BitVec.ofNat 512 (getNat s a 64), bad⟩] }
    | none => s
  | .put full ws =>
    let s := putWords s full ws
    if f.oh = 3 then ws.foldl (fun s w => clearReserved s w.1 8) s else s
  | .add f32 off x =>
    let s := touch s (a + off) 4
    if runPoisoned s (a + off) 4 then feedFails s f stPoisoned else addAt s f32 (a + off) x

/-- An access of a job is done with: the next one leaves, and after the last the job's own step comes.  A job that is cancelled
sends no more (R260). -/
def feedCounted (s : State) (f : Feed) : State :=
  match f.cls with
  | .scrub =>
    match s.stackSt.find? fun k => k.2.scrubNo = f.no && k.2.scrubFeeding ≠ 0 with
    | some k =>
      let n := k.2.scrubFeeding - 1
      let s := modStack s k.1 fun x => { x with scrubFeeding := n, scrubReady := n = 0 }
      if n = 0 then post s 1 (.scrubPass k.1) else s
    | none => s
  | .system => s
  | .matrix | .copy | .gather =>
    match fedJob s f.no with
    | none => s
    | some (tile, q, j) =>
      let stops := j.cancel && !j.todo.isEmpty
      match (if stops then [] else j.todo) with
      | g :: l => sendGranules (modJob s tile q j.entry fun j => { j with todo := l }) tile j.no f.cls [g]
      | [] =>
        let n := j.feeding - 1
        let s := modJob s tile q j.entry fun j =>
          { j with feeding := n, ready := n = 0, todo := []
                   done := if stops && j.done.isSome then some (statusWord stCancelledJob 0xFF 0) else j.done }
        if n = 0 then post s 1 (jobEvent tile j) else s

/-- An access of a job finds its owner on a DOWN stack (R190). -/
def feedLost (s : State) (f : Feed) : State :=
  feedCounted (match f.act with | .put .. | .add .. => feedFails s f stDown | .fetch | .meet => s) f

/-- A write whose frame is not there: it waits, follows its sub-tile, or fails. -/
def feedElsewhere (s : State) (f : Feed) : FeedAt → State
  | .here => s
  | .wait => { s with agenda := insertSched ⟨s.now + 1, .local, 0, 0, .feed f⟩ s.agenda }
  | .moved t g => send s .bulk (tileOf f.core) (tileOf t.core) (.feed (f.moveTo t g))
  | .gone => feedCounted (feedFails s f stNotResident) f

/-- An access reaches its owner: a fetch of a cached row is admitted on arrival (R97), any other access queues for its row (R93). -/
def feedArrives (s : State) (f : Feed) : State :=
  let s := meetFeed s f
  if stackDown s (stackOf f.core) then feedLost s f
  else match feedAt s f with
    | .here =>
      if f.act = .fetch && onArrival s f.core f.row then
        let hit := (getTile s (tileOf f.core)).grans.contains f.gran
        let s := feedEffect (useGranules s (tileOf f.core) [f.gran]) f
        if hit then feedCounted s f else ingress s f.core f.row (.feed f true)
      else ingress s f.core f.row (.feed f false)
    | x => feedElsewhere s f x

/-- An access is admitted from its row's queue; one that was admitted on its arrival has filled the row-side cache. -/
def feedAdmitted (s : State) (f : Feed) (early : Bool) : State :=
  let s := meetFeed s f
  if early then feedCounted s f
  else match feedAt s f with
    | .here => feedCounted (feedEffect s f) f
    | x => feedElsewhere s f x

/-- Every job of a tile's queues that has not completed ends with a status. -/
def stopJobs (s : State) (tile : Nat) (st : Word) : State :=
  [QSel.mat, .cpy, .gat].foldl (fun s q => ((jobsIn (getTile s tile) q).filter (·.status.isNone)).foldl (fun s j =>
    match q with
    | .mat => stopMat s tile j st
    | .cpy => stopCopy s tile j st
    | .gat => endGather s tile j (some st)) s) s

/-! ## RHOLD -/

/-- Apply a replica packet that was held. -/
def applyHeld (s : State) : Event → State
  | .tagAndGranuleRead p | .phase2Write p => applyReplica s p
  | _ => s

/-- The replica packet that a queued access is. -/
def replicaOf : QDo → Option Event
  | .step e => if isReplicaPkt e then some e else none
  | .fill | .feed .. => none

/-- A stack is held: the packets for its replicas that its cores have not yet applied are held with it, in arrival order (R177). -/
def holdStack (s : State) (k : Nat) : State :=
  let serving := s.agenda.filterMap fun x => match x.act with
    | .serve core _ _ a => if stackOf core = k then replicaOf a else none
    | .run _ | .arrive .. | .feed .. | .bus .. => none
  let mine := s.cores.filter fun c => stackOf c.1 = k
  let l := serving ++ mine.flatMap fun c => c.2.oq.filterMap (replicaOf ·.act) ++ c.2.held.filterMap (replicaOf ·.2)
  if l.isEmpty then s
  else
    let s := { s with agenda := s.agenda.map fun x => match x.act with
      | .serve core j row a => if stackOf core = k && (replicaOf a).isSome then { x with act := .serve core j row .fill } else x
      | .run _ | .arrive .. | .feed .. | .bus .. => x }
    let s := mine.foldl (fun s c => modCore s c.1 fun c =>
      { c with oq := c.oq.filter fun q => (replicaOf q.act).isNone, held := c.held.filter fun q => (replicaOf q.2).isNone }) s
    modStack s k fun x => { x with held := x.held ++ l }

/-- Step RHOLD_WRITE: what a cleared bit releases is applied in arrival order, and then the write is answered (R177). -/
def writeHold (s : State) (v : Word) (req : Nat) : State :=
  let old := s.io.rhold
  let new := v.extractLsb' 0 16
  let s := { s with io := { s.io with rhold := new } }
  let s := (List.range 16).foldl (fun s k =>
    if old.getLsbD k && !new.getLsbD k then
      let l := (getStack s k).held
      l.foldl applyHeld (modStack s k fun x => { x with held := [] })
    else if !old.getLsbD k && new.getLsbD k then holdStack s k
    else s) s
  if req = 0 then s else answer s ioDie req (ansWord 0)
def execRholdWrite (s : State) : Out :=
  match s.doing with | some (.rholdWrite v r) => .next (echoes (writeHold s v r)) | _ => .next s

/-! ## What is aimed at a stack -/

/-- The core on which a step acts as a request. -/
def targetOf (s : State) : Event → Option Nat
  | .start p | .stop p | .redirect p | .resume p | .step p | .heddleCancel p | .heddleNone p | .reservedCommand p
  | .outsideRead p | .outsideWrite p | .outsideRamoadd p | .outsideRcas p | .corestatWrite p => some (refCore p.ref)
  | .objectAccessArrival p | .admission p => if p.handle = Config.moduleObj then none else some p.frame.core
  | .tagAndGranuleRead p | .phase2Write p => some p.frame.core
  | .inboxEntry m => some (refCore m.target)
  | .activeMessage m => some (refCore m.target)
  | .cancelWait _ core => some core
  | .walk p => some (coreOfAddr p.place)
  | .claim id =>
    match findReq s id with
    | some r => (entryAddr s (slotOf s (tileOf r.thr.core)) r.oh r.sub).map coreOfAddr
    | none => none
  | _ => none

/-- What a scheduled act brings to a stack. -/
def aimedAt (s : State) (k : Nat) (x : Act) : Option QDo :=
  match x with
  | .arrive core _ e => if stackOf core = k then some (.step e) else none
  | .feed f => if stackOf f.core = k then some (.feed f false) else none
  | .serve core _ _ a => if stackOf core = k then some a else none
  | .run e => match targetOf s e with
    | some core => if stackOf core = k then some (.step e) else none
    | none => none
  | .bus .. => none

/-- What stays of an act whose step has been taken away. -/
def leftOf (s : State) (k : Nat) (x : Sched) : Option Sched :=
  match aimedAt s k x.act with
  | none => some x
  | some a =>
    match x.act with
    | .serve core j row _ => some { x with act := .serve core j row .fill }
    | .arrive .. => match a with
      -- the core that asked for a code row finds its owner down
      | .step (.codeRowFill c h p) => some { x with act := .run (.codeRowFill c h p) }
      | _ => none
    | .run _ | .feed .. | .bus .. => none

/-- The tile of the sender of a packet. -/
def senderTile (x : BitVec 46) : Nat := tileOf (bits (x.setWidth 64) 7 20)
/-- The slot whose supervisor hears of a packet: the sender's, the PF's for the host (R190, R381). -/
def senderSlot (s : State) (x : BitVec 46) : Nat :=
  if x.extractLsb' 0 7 = 127#7 then 0 else slotOf s (senderTile x)

/-- A request that a DOWN stack will not answer is settled in its place (R190). -/
def settleAimed (s : State) (e : Event) : State :=
  let row (p : RowPkt) : State :=
    answerPkt (diversion s (senderTile p.sender) (senderSlot s p.sender) p.ref 0x07 p.sender) p (ansWord 0)
  match e with
  | .heddleCancel p => cancelEcho (row p) p
  | .start p | .stop p | .redirect p | .resume p | .step p | .heddleNone p | .reservedCommand p
  | .outsideRead p | .outsideWrite p | .outsideRamoadd p | .outsideRcas p | .corestatWrite p => row p
  | .objectAccessArrival p | .admission p => downAnswer s p
  | .inboxEntry m => toInbox s (senderTile m.sender) m
  | .activeMessage m =>
    let s := diversion s (senderTile m.sender) (senderSlot s m.sender) m.target 0x07 m.sender
    if m.req = 0 then s else answer s ioDie m.req (ansWord 0)
  | .walk p =>
    match (getTile s p.tile).walking.find? fun x => x.no = p.no with
    | some x => x.waiters.foldl (fun s id => answer s ioDie id (.trap .stackDown (walkSub p.addr))) (endWalk s p.tile p.no)
    | none => s
  | .claim id =>
    match findReq s id with
    | some r => answer s ioDie id (.trap .stackDown r.sub)
    | none => s
  | .request .repart id =>
    match findReq s id with
    | some r => settleDown s r (plainRef s ⟨bits r.x 0 20, 84⟩)
    | none => s
  | _ => s

/-- What was brought to a DOWN stack is settled. -/
def settleDo (s : State) : QDo → State
  | .step e => settleAimed s e
  | .feed f early => if early then feedCounted s f else feedLost s f
  | .fill => s

/-- Take everything that is aimed at a stack out of the network and the cores' queues, and settle it. -/
def settleAll (s : State) (k : Nat) : State :=
  let mine := s.cores.filter fun c => stackOf c.1 = k
  let l := s.agenda.filterMap (fun x => aimedAt s k x.act)
    ++ mine.flatMap fun c => c.2.oq.map (·.act) ++ c.2.held.map (·.2) ++ c.2.moving.map fun p => .step (.admission p)
  let s := { s with agenda := s.agenda.filterMap (leftOf s k) }
  let s := mine.foldl (fun s c => modCore s c.1 fun c => { c with oq := [], held := [], moving := [] }) s
  l.foldl settleDo s

/-! ## What waits at a stack -/

/-- Waiters of full/empty words are answered STACK_DOWN. -/
def settleWaits (s : State) (k : Nat) : State :=
  (s.cores.filter fun c => stackOf c.1 = k).foldl (fun s c =>
    c.2.waits.foldl (fun s w =>
      let s := clearWait s c.1 w.1
      match findReq s w.2 with
      | some r => answer s ioDie w.2 (.trap .stackDown r.sub)
      | none => s) s) s

/-- A relocation that cannot go on: the sub-tile stays where it was, and what was held for it is accepted again. -/
def abortReloc (s : State) (r : Req) : State :=
  let slot := slotOf s (tileOf r.thr.core)
  match entryAddr s slot r.oh r.sub with
  | none => s
  | some a =>
    let w0 := getWord s a
    let f := refThr (BitVec.ofNat 64 (entFrame w0))
    let s := writeEntry s a (mkEntry (entFrame w0) (entGen w0) 1) r.tag
    let s := setFrame s f.core f.row r.oh r.sub (entGen w0) 1 (frameCache s f.core f.row)
    let key := match recordNow s slot r.oh with | some x => poolKey slot (rPool x) | none => 0
    let p := getPool s (frameStack r.frame) key
    let s := setPool s (frameStack r.frame) { p with alloc := r.frame :: p.alloc }
    unclaim (forwardHeld s f f (entGen w0)) slot r.oh r.sub

/-- An operation needs the stack: its entry's owner, or a frame that it moves. -/
def opNeeds (s : State) (k : Nat) (r : Req) : Bool :=
  isOp r.insn && (match r.phase with | .claim | .moving | .copying | .sent => true | _ => false)
    && match entryAddr s (slotOf s (tileOf r.thr.core)) r.oh r.sub with
      | some a => stackOf (coreOfAddr a) = k
          || ((r.phase = .moving || r.phase = .copying) && (frameStack r.frame = k
            || stackOf (refThr (BitVec.ofNat 64 (entFrame (getWord s a)))).core = k))
      | none => false

/-- Object-management operations that need the stack are answered STACK_DOWN. -/
def settleOps (s : State) (k : Nat) : State :=
  (s.reqs.filter (opNeeds s k)).foldl (fun s r =>
    let s := if r.phase = .moving || r.phase = .copying then abortReloc (unpost s (.relocCopy r.id)) r
      else if r.phase = .sent then unclaim s (slotOf s (tileOf r.thr.core)) r.oh r.sub
      else s
    answer (modReq s r.id fun r => { r with phase := .backoff, cw := .none }) ioDie r.id (.trap .stackDown r.sub)) s

/-- Walks held and drops and probes that wait at the stack's tiles: the I/O die answers (R190). -/
def settleTiles (s : State) (k : Nat) : State :=
  let held := (s.tiles.filter fun t => t.1 / 128 = k).flatMap fun t => t.2.walks
  let s := { s with tiles := s.tiles.map fun t =>
    if t.1 / 128 = k then (t.1, { t.2 with walks := [], walking := [], claims := [], probes := [], drops := [] }) else t }
  let s := held.foldl (fun s p => settleAimed s (.walk p)) s
  s.reqs.foldl (fun s r =>
    match r.phase with
    | .fence | .drop => (r.echoes.filter fun t => t < ioDie && t / 128 = k).foldl (fun s t =>
        send s .rsp ioDie (tileOf r.thr.core) (.run (.fenceEcho r.id t))) s
    | _ => s) s

/-! ## Majority accesses in flight (R188) -/

/-- A replica's answer to a request's present round is on its way: it keeps it (R188). -/
def answerUnderWay (s : State) (r : Req) (n : Nat) : Bool :=
  s.agenda.any fun x => match x.act with
    | .run (.majorityAnswer p _) => p.req = r.id && p.round = r.round && p.replica = n
    | _ => false

/-- A majority access when a stack goes DOWN: what is outstanding there gets no answer; NO_QUORUM where too few can still answer; a
load whose write-back lost a member reads again. -/
def majLoses (s : State) (k : Nat) (r : Req) : State :=
  if r.phase ≠ .majority || !r.reps.any (fun x => stackOf x.2.1.core = k) then s
  else
    let up := upReplicas s r.reps
    let comes (n : Nat) : Bool := answerUnderWay s r n
    let fail : State := answer (modReq s r.id fun r => { r with phase := .backoff }) ioDie r.id (.trap .noQuorum r.sub)
    if r.round % 2 = 1 then
      let open_ := r.reps.filter fun x => !r.answers.any fun a => a.1 = x.1
      let lost := r.lost ++ ((open_.filter fun x => stackOf x.2.1.core = k && !comes x.1).map (·.1))
      let still := open_.filter fun x => comes x.1 || (up.contains x && !lost.contains x.1)
      if (counted r.answers).length + still.length < r.quorum then fail else modReq s r.id fun r => { r with lost := lost }
    else if majStores r then s
    else if r.reps.any fun x => stackOf x.2.1.core = k && r.echoes.contains x.1 && !comes x.1 then
      if up.length < r.quorum then fail else majReads s r.id
    else s

/-- A stack that is UP again counts at once: stores in phase 2 resend their write to it, and reads that are still open ask it (R188). -/
def majResend (s : State) (k : Nat) : State :=
  s.reqs.foldl (fun s r =>
    let back := r.reps.filter fun x => stackOf x.2.1.core = k
    if r.phase ≠ .majority || back.isEmpty then s
    else if r.round % 2 = 0 then (if majStores r then back.foldl (fun s x => sendReplica s r .write r.tag r.data x) s else s)
    else
      let r := { r with lost := r.lost.filter fun n => !back.any fun x => x.1 = n }
      (back.filter fun x => !r.answers.any fun a => a.1 = x.1).foldl (fun s x => sendReplica s r .read 0 0 x) (modReq s r.id fun _ => r)) s

/-! ## Threads of a DOWN stack (R190) -/

/-- A thread ends where it stands: CANCELLED with cause 0x14, its record sent by the I/O die to its launch's TRAPQ. -/
def endDown (s : State) (l : LaunchSt) (t : Thr) : State :=
  let w := wordAtPc s t
  let tile := tileOf t.core
  let kref : Word := l.key ++ 0#2 ++ refOf s t
  let w1 : Word := BitVec.ofNat 8 0x14 ++ BitVec.ofNat 24 l.id ++ w
  let q := pw l.packet 4
  let s := if q = 0 then toSupervisor s tile (slotOf s tile) kref w1 else toInbox s tile ⟨.trap, q, kref, w1, refOf s t, 0, none⟩
  let stop (s : State) (t : Thr) : State :=
    let c := getThr s t
    let cmds := c.cmds ++ c.stepPkt.toList
    let s := leaveReqs s t
    let s := setFinfo (setC (setTState s t stCancelled) t 2 0) t 0x14 w
    let s := modThr s t fun c => { c with stepping := false, stepPkt := none, long := none, reply := none, cmds := [], yielded := false, codeWait := false }
    cmds.foldl (fun s p => settleAimed s (heddleEvent p)) s
  let s := stop s t
  let s := match pairOf s t with
    | some p =>
      let s := modPair (stop s p.follower) p.leader fun p =>
        { p with dead := true, held := [], sending := [], fwd := [], called := false, outside := [] }
      p.outside.foldl settleAimed s
    | none => s
  threadEnded s t true

/-- End the threads whose rows lie on the stack. -/
def endThreads (s : State) (k : Nat) : State :=
  (s.io.launches.filter fun l => l.state = .placed).foldl (fun s l =>
    (l.rows.filter fun t => stackOf t.core = k && !l.ended.contains t).foldl (fun s t => endDown s l t) s) s

/-- Members of groups whose rows lie on the stack are withdrawn (R190, R206). -/
def withdrawWhere (s : State) (p : BitVec 46 → Bool) : State :=
  s.io.groups.foldl (fun s g => ((membersOf g.2).filter p).foldl (fun s m => withdraw s g.1 m) s) s
def memberDev (m : BitVec 46) : Nat := (m.extractLsb' 27 19).toNat
def memberCore (m : BitVec 46) : Nat := (m.extractLsb' 7 20).toNat

/-- Messages and inbox entries that a DOWN stack's cores hold are settled. -/
def settleHeld (s : State) (k : Nat) : State :=
  (s.cores.filter fun c => stackOf c.1 = k).foldl (fun s c =>
    c.2.msgs.foldl (fun s m => settleAimed s (.activeMessage m)) (c.2.ibHeld.foldl (fun s m => settleAimed s (.inboxEntry m)) s)) s

/-- What a DOWN stack's cores had under way is lost. -/
def clearCore (c : CoreSt) : CoreSt :=
  { c with handler := false, msgs := [], ibHeld := [], ibOrder := [], seq := none, finished := [], seqWait := []
           subs := c.subs.map fun x => match x.mode with | .taken => { x with mode := .closed } | _ => x }

/-! ## The steps -/

/-- HEALTH of a stack (R187). -/
def setHealth (s : State) (k n : Nat) : State :=
  let m : BitVec 32 := 3#32 <<< (2 * k)
  { s with io := { s.io with health := (s.io.health &&& ~~~m) ||| ((BitVec.ofNat 32 n <<< (2 * k)) &&& m) } }

/-- Placement is looked at again in every partition. -/
def pokeAll (s : State) : State := s.io.parts.foldl (fun s p => if p.2.key = 0 then s else poke s p.2.key) s

/-- Step MARK_DOWN. -/
def goDown (s : State) (k : Nat) : State :=
  let s := setHealth s k 1
  let s := modStack (unpost s (.scrubPass k)) k fun x => { x with held := [], scrub := false, scrubFeeding := 0, scrubReady := false }
  let s := settleTiles (settleOps (settleWaits (settleHeld (settleAll s k) k) k) k) k
  let s := (s.tiles.filter fun t => t.1 / 128 = k).foldl (fun s t => stopJobs s t.1 (statusWord stDown 0xFF 0)) s
  let s := s.reqs.foldl (fun s r => majLoses s k r) s
  let s := endThreads s k
  let s := s.reqs.foldl (fun s r => if stackOf r.thr.core = k then leaveReqs s r.thr else s) s
  let s := { s with cores := s.cores.map fun c => if stackOf c.1 = k then (c.1, clearCore c.2) else c }
  let s := withdrawWhere s fun m => memberDev m = s.io.devid.toNat && stackOf (memberCore m) = k
  pokeAll (echoes s)
def execMarkDown (s : State) : Out := match s.doing with | some (.markDown k) => .next (goDown s k) | _ => .next s

/-- Step STACK_FAILURE: firmware marks the stack DOWN. -/
def execStackFailure (s : State) : Out :=
  match s.doing with | some (.stackFailure k) => .next (if stackDown s k then s else goDown s k) | _ => .next s

/-- A scrub pass starts (R189). -/
def startScrub (s : State) (k : Nat) : State :=
  postFree (modStack { unpost s (.scrubPass k) with nextSeq := s.nextSeq + 1 } k fun x =>
    { x with scrub := true, scrubNo := s.nextSeq, scrubFeeding := 0, scrubReady := false }) (.scrubPass k)

/-- Step MARK_UP: the stack counts at once; from DOWN its scrubber catches it up. -/
def goUp (s : State) (k : Nat) : State :=
  let old := healthOf s k
  let s := majResend (setHealth s k 0) k
  pokeAll (if old = 1 then startScrub s k else s)
def execMarkUp (s : State) : Out := match s.doing with | some (.markUp k) => .next (goUp s k) | _ => .next s

/-- Step MARK_REBUILD: from UP as DOWN and then REBUILD (R188). -/
def goRebuild (s : State) (k : Nat) : State :=
  let s := if healthOf s k = 0 then goDown s k else s
  if healthOf s k = 1 then startScrub (setHealth s k 2) k else s
def execMarkRebuild (s : State) : Out := match s.doing with | some (.markRebuild k) => .next (goRebuild s k) | _ => .next s

/-! ## SCRUB_PASS (R189) -/

/-- A frame row of a majority-framed object: its operand, entry, sub-tile and own replica. -/
def scrubRow (s : State) (k core row : Nat) : Option (Opd × List Word × Nat × (Nat × Thr × Nat)) :=
  if frameUse s core row ≠ 1 || frameSub s core row = 4294967295 then none
  else
    let slot := slotOf s (tileOf core)
    let h := frameHandle s core row
    let n := frameSub s core row
    match validNow s slot h with
    | none => none
    | some r =>
      if rKind r ≠ 3 || rCount r ≤ n then none
      else match entryNow s slot h n with
        | none => none
        | some e =>
          ((replicasOf r e).find? fun x => stackOf x.2.1.core = k && x.2.1 = ⟨core, row⟩).map fun x => (⟨h, r, h, r⟩, e, n, x)

/-- The frame rows of a stack's majority objects. -/
def scrubRows (s : State) (k : Nat) : List (Opd × List Word × Nat × (Nat × Thr × Nat)) :=
  (s.cores.filter fun c => stackOf c.1 = k).flatMap fun c => (List.range 84).filterMap fun r => scrubRow s k c.1 r

/-- Too few replicas are UP, or RHOLD holds an answer that one of the granules needs (R185): the pass waits. -/
def scrubWaits (s : State) (l : List (Opd × List Word × Nat × (Nat × Thr × Nat))) : Bool :=
  l.any fun x => (upReplicas s (replicasOf x.1.p x.2.1)).length < rQuorum x.1.p
    || homeWaits s (slotOf s (tileOf x.2.2.2.2.1.core)) x.1 x.2.2.1 (List.range 64)

/-- Catch up one granule, unless fewer than Q of the UP replicas give an answer that counts, in which case the pass leaves it as it is
(DESIGN CHOICE: R189 gives such a granule nothing, log 37): a load over the UP replicas with its write-back to older members, without its repair, and the pair that
it chose to the own replica. -/
def scrubGranule (s : State) (k : Nat) (x : Opd × List Word × Nat × (Nat × Thr × Nat)) (g : Nat) : State :=
  let r := majAnswers s x.1 x.2.1 x.2.2.1 g
  let l := r.2.take (rQuorum x.1.p)
  if l.length < rQuorum x.1.p then r.1
  else
    let y := largest l
    let put (s : State) (to_ : Nat × Thr × Nat) : State :=
      let p := enginePkt x.1 x.2.1 x.2.2.1 g .repair y.1 y.2 to_
      (replicaWrite (noteReplica s false p) p).1
    let s := ((answering r.1 x.1 x.2.1).filter fun m => (olderMembers l y.1).contains m.1).foldl put r.1
    if holdsReplicas s k then
      modStack s k fun z => { z with held := z.held ++ [.phase2Write (enginePkt x.1 x.2.1 x.2.2.1 g .repair y.1 y.2 x.2.2.2)] }
    else put s x.2.2.2

/-- Catch up a stack's rows. -/
def scrubAll (s : State) (k : Nat) (l : List (Opd × List Word × Nat × (Nat × Thr × Nat))) : State :=
  l.foldl (fun s x => (List.range 64).foldl (fun s g => scrubGranule s k x g) s) s

/-- The pass ends; one from REBUILD ends by writing UP. -/
def endScrub (s : State) (k : Nat) : State :=
  let s := modStack s k fun x => { x with scrub := false, scrubReady := false }
  if healthOf s k = 2 then pokeAll (majResend (setHealth s k 0) k) else s

/-- Step SCRUB_PASS: the granules that the pass needs are fetched at their owners, and then it acts (R36, log 4). -/
def scrubbed (s : State) (k : Nat) : State :=
  let st := getStack s k
  if !st.scrub || healthOf s k = 1 || st.scrubFeeding ≠ 0 then s
  else
    let l := scrubRows s k
    if scrubWaits s l then post s 1 (.scrubPass k)
    else if st.scrubReady || l.isEmpty then endScrub (scrubAll s k l) k
    else
      let g := admissions .cpy ((scrubAll { s with trace := some [] } k l).trace.getD []).reverse
      if g.isEmpty then endScrub (scrubAll s k l) k
      else sendGranules (modStack s k fun x => { x with scrubFeeding := g.length }) (k * 128) st.scrubNo .scrub g
def execScrubPass (s : State) : Out := match s.doing with | some (.scrubPass k) => .next (scrubbed s k) | _ => .next s

/-! ## Paths to other modules (R197, R206) -/

/-- Step PATH_FAILURE: outstanding requests are answered as diverted packets are, and count as acknowledged. -/
def pathFails (s : State) (dev : Nat) : State :=
  let mine := s.io.outbound.filter fun o => o.dev = dev
  let s := { s with io := { s.io with domain := s.io.domain.filter (· ≠ dev), outbound := s.io.outbound.filter fun o => o.dev ≠ dev } }
  let s := mine.foldl (fun s o =>
    let s := match o.entry with
      | some m => entryFails s o.tile m 0x06
      | none => diversion s o.tile (slotOf s o.tile) o.ref 0x06 o.sender
    if o.req = 0 then s else answer s ioDie o.req (ansWord 0)) s
  echoes (withdrawWhere s fun m => memberDev m = dev && dev ≠ s.io.devid.toNat)
def execPathFailure (s : State) : Out := match s.doing with | some (.pathFailure d) => .next (pathFails s d) | _ => .next s

/-- Step PATH_RECOVERY: later requests reach the module. -/
def execPathRecovery (s : State) : Out :=
  match s.doing with
  | some (.pathRecovery d) => .next { s with io := { s.io with domain := insertNat d s.io.domain } }
  | _ => .next s

end Sys2Proof.Machine
end

