-- ==== Sys2Proof/Machine/Registers.lean ====
section
/-! DEFINITION. Device registers as they are written (R5, R51, R120, R187, R199 to R205, R207, R269, R274, R378), partitions
and tiles (R202, R203, R206), bring-up (R208), firmware (R207), and physical events (R37, R99, R199, R256). -/
namespace Sys2Proof.Machine

/-! ## HSEM and holders (R200) -/

/-- The port holds HSEM. -/
def holdsHsem (s : State) (port : Nat) : Bool := port < 2 && s.io.hsem.toNat = port + 1

/-- Step HSEM. -/
def writeHsem (s : State) (port : Nat) (v : BitVec 2) : State :=
  if v = 0 then (if holdsHsem s port then { s with io := { s.io with hsem := 0 } } else s)
  else if v.toNat = port + 1 && s.io.hsem = 0 then { s with io := { s.io with hsem := v } }
  else s
def execHsem (s : State) : Out := match s.doing with | some (.hsem p v) => .next (writeHsem s p v) | _ => .next s

/-! ## Queues and counters (R51, R55, R201, R203) -/

/-- A queue goes back to its reset values with another PART (R203): what it has not dispatched goes with it, whoever sent a message to
such a launch is answered, and nothing waits for it at a counter. -/
def clearQueue (s : State) (q : Nat) (part : BitVec 16) : State :=
  let gone := s.io.launches.filter fun l => l.queue = q && l.inRing
  let s := gone.foldl (fun s l => l.msgs.foldl (fun s m => if m.req = 0 then s else answer s ioDie m.req (ansWord 0)) (dropLaunch s l.id)) s
  modQueue (leaveCounter s q) q fun _ => { part := part }

/-- QCTL.  A PART that is rewritten, one partition's queue being given to another or to none, clears the queue first (R203).  A
write through a VF is non-privileged, as its accesses to rows are (R381), and changes none of the fields, which are RWP (R5,
DEDUCED, log 35); THAW acts. -/
def writeQctl (s : State) (q : Nat) (v : Word) (pf : Bool) : State :=
  let part := v.extractLsb' 16 16
  let s := if pf then
      let s := if part = (getQueue s q).part then s else clearQueue s q part
      modQueue s q fun x => { x with
        key := v.extractLsb' 48 16, privq := bits v 34 1 = 1, devfed := bits v 1 1 = 1, en := bits v 0 1 = 1 }
    else s
  let s := if bits v 33 1 = 1 then follow s (.thaw q) else s
  kickQueue s q

/-- A word of a queue's block; QHEAD, QFENCE and QCOMP are read-only, and QTAIL is the doorbell. -/
def writeQueue (s : State) (q i : Nat) (v : Word) (pf : Bool) : State :=
  match i with
  | 0 => modQueue s q fun x => { x with base := v.extractLsb' 0 32 }
  | 1 => modQueue s q fun x => { x with size := v.extractLsb' 0 5 }
  | 3 => follow s (.doorbell q v)
  | 5 => writeQctl s q v pf
  | 7 => modQueue s q fun x => { x with irqEn := bits v 63 1 = 1, irqVec := v.extractLsb' 0 11 }
  | _ => s

/-! ## Registers of the module (R120, R177, R187, R199, R205, R207, R269) -/

/-- SWAPCTL (R120). -/
def writeSwapctl (s : State) (v : Word) : State :=
  if s.io.swapStatus = 1 then s
  else
    let s := { s with io := { s.io with swapLaunch := v.extractLsb' 40 24, swapHandle := v.extractLsb' 8 32 } }
    match bits v 0 2 with
    | 1 => follow { s with io := { s.io with swapStatus := 1 } } .swapOut
    | 2 => follow { s with io := { s.io with swapStatus := 1 } } .swapIn
    | _ => s

/-- STKHEALTH (R187, R188): one step for each stack whose field changes, 11 being written as 01. -/
def writeHealth (s : State) (v : Word) : State :=
  (List.range 16).reverse.foldl (fun s k =>
    let n := if bits v (2 * k) 2 = 3 then 1 else bits v (2 * k) 2
    if n = healthOf s k then s
    else follow s (match n with | 1 => .markDown k | 0 => .markUp k | _ => .markRebuild k)) s

/-- Some partition is enabled. -/
def anyEnabled (s : State) : Bool := s.io.parts.any fun p => p.2.en

/-- Replace eight bytes of the nonce. -/
def writeNonce (s : State) (i : Nat) (v : Word) : State :=
  { s with io := { s.io with nonce := s.io.nonce.take (8 * i) ++ toBytes 8 v.toNat ++ s.io.nonce.drop (8 * i + 8) } }

/-- The registers from 0x0030_0000 on. -/
def writeModuleReg (s : State) (o : Nat) (v : Word) : State :=
  match o with
  | 0x000 => writeSwapctl s v
  | 0x100 => follow s (.rholdWrite v 0)
  | 0x108 => writeHealth s v
  | 0x110 => if anyEnabled s then s else { s with io := { s.io with devid := v.extractLsb' 0 19 } }
  | 0x118 =>
    if 1200 ≤ bits v 0 13 && bits v 0 13 ≤ 4800 then { s with io := { s.io with pwrlim := v.extractLsb' 0 13 } } else s
  | 0x320 =>
    -- the signature is a free value (log 11)
    if v = 1 then post { s with fresh := s.fresh + 2420 } 0
      (.attestationRequest ((List.range 2420).map fun i => Config.freeByte (s.fresh + i))) else s
  | _ =>
    if 0x300 ≤ o && o < 0x320 then writeNonce s ((o - 0x300) / 8) v
    else if 0x400 ≤ o then
      { s with io := { s.io with chains := store s.io.chains ((o - 0x400) / 8) (v &&& 0xFF03030300000000#64) } }
    else s

/-! ## Tiles, partitions, engines and groups (R202, R203, R255, R274) -/

/-- TILEPART (R203): a change of owner begins. -/
def writeTilepart (s : State) (tile : Nat) (v : Word) : State :=
  let t := getTile s tile
  let changed := (bits v 6 1 = 1) ≠ t.assigned || bits v 0 6 ≠ t.slot
  if t.busy || !changed then s else postFree (modTile s tile fun t => { t with busy := true }) (.tileReassign tile v)

/-- PARTCFG (R202): a write that changes KEY or OBJPLACE while EN is 1 is discarded. -/
def writePartcfg (s : State) (slot i : Nat) (v : Word) : State :=
  let p := getPart s slot
  match i with
  | 0 =>
    if p.en && v.extractLsb' 0 16 ≠ p.key then s
    else
      let on := bits v 16 1 = 1
      let s := modPart s slot fun p => { p with key := v.extractLsb' 0 16, en := on }
      let s := if on && !p.en then follow s (.partitionEnable slot) else s
      if bits v 17 1 = 1 && !p.reset then postFree (modPart s slot fun p => { p with reset := true }) (.vfReset slot) else s
  | 1 => modPart s slot fun p => { p with suprow := v }
  | 2 => if p.en && v ≠ p.objplace then s else modPart s slot fun p => { p with objplace := v }
  | _ => modPart s slot fun p => { p with objext := v.extractLsb' 0 32 }

/-- The group table (R274), while the group has no operation in flight; EPOCH is read-only. -/
def writeGroup (s : State) (g i : Nat) (v : Word) : State :=
  if !(getGroup s g).ops.isEmpty || 1024 < i then s
  else if i = 0 then modGroup s g fun x => { x with count := bits v 0 11, key := v.extractLsb' 48 16 }
  else modGroup s g fun x =>
    { x with members := ((x.members ++ List.replicate (i - x.members.length) 0).set (i - 1) (v.extractLsb' 0 46)) }

/-- A register of BAR0 is written: port 0 or 1 of the host, or 2 for the module control object; slot 0 is the PF, any other
a VF, which reaches only its queue blocks and counters (R202, R378). -/
def writeReg (s : State) (off : Nat) (v : Word) (port slot : Nat) : State :=
  let pf := slot = 0
  if off % 8 ≠ 0 then s
  else if off = 0x100 then (if pf && port < 2 then follow s (.hsem port (v.extractLsb' 0 2)) else s)
  else if !s.io.published then s
  else if off < 0x100000 then s
  else if off < 0x120000 then
    let q := (off - 0x100000) / 64
    if exposed s slot (getQueue s q).part then writeQueue s q (off / 8 % 8) v pf else s
  else if off < 0x200000 then s
  else if off < 0x280000 then
    let n := (off - 0x200000) / 8
    if exposed s slot (getCounter s n).owner then follow s (.counterWrite n v pf) else s
  else if !pf || off < 0x300000 then s
  else if off < 0x301000 then writeModuleReg s (off - 0x300000) v
  else if 0x400000 ≤ off && off < 0x404000 then (if holdsHsem s port then writeTilepart s ((off - 0x400000) / 8) v else s)
  else if 0x500000 ≤ off && off < 0x500800 then
    (if holdsHsem s port then writePartcfg s ((off - 0x500000) / 32) (off / 8 % 4) v else s)
  else if 0x600000 ≤ off && off < 0x610000 then
    (if off / 8 % 4 = 3 then modTile s ((off - 0x600000) / 32) fun t => { t with testInt := v.extractLsb' 0 8 } else s)
  else if 0x800000 ≤ off && off < 0xC00000 then
    (if holdsHsem s port then writeGroup s ((off - 0x800000) / 0x4000) (off % 0x4000 / 8) v else s)
  else s

/-- Step REGISTER_WRITE; a host's read of BAR0 is its reading side (R201, R202). -/
def execRegisterWrite (s : State) : Out :=
  match s.doing with
  | some (.registerWrite off v port slot) => .next (writeReg s off v port slot)
  | some (.hostRead slot off) => .next { s with io := { s.io with hostAnswers := s.io.hostAnswers ++ [slotRead s slot off] } }
  | _ => .next s

/-! ## PARTITION_ENABLE (R202) -/

/-- The record of a computed rank-1 z64 system object: owner key 0, read and write; a partition key that is given may read (DEDUCED:
R202 gives classes for handle 2 only, and the fields of R107 are RWP, which all read, log 64). -/
def systemRecord (ext : Nat) (place : Word) (share : BitVec 16) : Rec :=
  [(if share = 0 then 0x0000000300000711#64 else 0x0000004300000711#64), BitVec.ofNat 64 ext, 0, 0xE400000009#64, place, 0, 0, 0, 0, 0,
   BitVec.ofNat 64 (share.toNat * 65536), 0, 0, 0, 0, 0]

/-- Placement of the handler table: row 83 of the first core of the partition's first tile (log 27). -/
def handlerPlace (s : State) (slot : Nat) : Word :=
  BitVec.ofNat 64 ((tilesOfSlot s slot).headD 0 * 512 + 1048576 + 83 * 2 ^ 40)

/-- Write a record into the object table, FE as it stands (R100 does not name it). -/
def writeRecord (s : State) (slot h : Nat) (r : Rec) : State :=
  (List.range 16).foldl (fun s i =>
    match elemAddr s slot (getPart s slot).objplace (getPart s slot).objext.toNat (16 * h + i) with
    | some p => putWord s (rowAddr p.1 p.2.1 + p.2.2) (rw r i)
    | none => s) s

/-- The frame-state entries of a computed object's rows (R147). -/
def writeFrames (s : State) (slot h : Nat) (place : Word) (S : Nat) : State :=
  (List.range S).foldl (fun s n =>
    match placeSub s slot place S n with
    | some p => noteFree (setFrame s p.1 p.2 h n 0 1 false) p.1
    | none => s) s

/-- Step PARTITION_ENABLE: firmware writes the records of handles 1 to 3. -/
def partitionEnabled (s : State) (slot : Nat) : State :=
  let s := modPart s slot fun p => { p with en := true }
  let p := getPart s slot
  let n := p.objext.toNat
  let h := handlerPlace s slot
  let s := writeFrames (writeFrames s slot 1 p.objplace ((n + 511) / 512)) slot 3 h 1
  writeRecord (writeRecord (writeRecord s slot 1 (systemRecord n p.objplace 0)) slot 2 moduleRecord) slot 3 (systemRecord 512 h p.key)
def execPartitionEnable (s : State) : Out :=
  match s.doing with | some (.partitionEnable v) => .next (partitionEnabled s v) | _ => .next s

/-! ## Clearing jobs, tiles and threads (R61, R203, R206) -/

/-- Zero the words of tiles that a test on row and offset selects, every word full. -/
def clearWords (s : State) (tiles : List Nat) (p : Nat → Nat → Bool) : State :=
  let hit (a : Nat) : Bool := tiles.contains (tileOf (coreOfAddr a)) && p (rowOfAddr a) (a % 4096)
  { s with mem := s.mem.filter (fun c => !hit c.1), empty := s.empty.filter (fun a => !hit a)
           poison := s.poison.filter (fun a => !hit a), bitErrs := s.bitErrs.filter fun e => !hit e.1 }

/-- The kernels of a core's sequencer go, and its subarrays are the treadle's again. -/
def dropKernels (c : CoreSt) : CoreSt :=
  { c with seq := none, spilled := [], finished := [], seqWait := []
           subs := c.subs.map fun x => match x.mode with | .taken => { x with mode := .closed } | _ => x }

/-- The jobs of a tile are cancelled and nobody is left to be told of it: the matrix banks take what CANCELLED does to them (R213,
R246, R254), and the test of an emptied queue follows (R256). -/
def loseJobs (t : TileSt) (mine : Job → Bool) : TileSt :=
  let l := t.jobs.filter fun j => mine j && j.status.isNone
  let left := t.jobs.filter fun j => !mine j
  let u := { l.foldl loseBanks t with
    jobs := left, copies := t.copies.filter fun j => !mine j, gathers := t.gathers.filter fun j => !mine j }
  if l.isEmpty || !left.isEmpty then u else { (selfTest u).1 with sinceTest := 0 }

/-- The jobs and kernels of the threads of some tiles are cancelled, at whichever tile a job stands (R61, R206). -/
def cancelJobs (s : State) (tiles : List Nat) : State :=
  let mine (j : Job) : Bool := tiles.contains (tileOf j.thr.core)
  let full (id : Nat) : Bool := match findReq s id with | some r => tiles.contains (tileOf r.thr.core) | none => true
  let touched := s.tiles.filter fun t => (t.2.jobs ++ t.2.copies ++ t.2.gathers).any mine || t.2.full.any full
  let s := touched.foldl (fun s t => modTile s t.1 fun t => { loseJobs t mine with full := t.full.filter (!full ·) }) s
  let s := { s with cores := s.cores.map fun c => if tiles.contains (tileOf c.1) then (c.1, dropKernels c.2) else c }
  touched.foldl (fun s t => [QSel.mat, .cpy, .gat].foldl (fun s q => runEngine (admitFull s t.1 q) t.1 q) s) s

/-- A core's waiters are answered REDIRECT, since no frame is left (R173). -/
def dropWaiters (s : State) (core : Nat) : State :=
  (getCore s core).waits.foldl (fun s w =>
    let s := clearWait s core w.1
    match findReq s w.2 with
    | some r => send s .rsp (tileOf core) (tileOf r.thr.core) (.run (.redirectAnswer r.id))
    | none => s) s

/-- Messages that a core holds for its service slot go: their senders are answered (R106). -/
def dropMsgs (s : State) (core : Nat) : State :=
  let l := (getCore s core).msgs
  l.foldl (fun s m => if m.req = 0 then s else answer s (tileOf core) m.req (ansWord 0)) (modCore s core fun c => { c with handler := false, msgs := [] })

/-- Inbox entries that a core holds at its interface go with the rows. -/
def dropHeld (s : State) (core : Nat) : State :=
  (getCore s core).ibHeld.foldl answerMessage (modCore s core fun c => { c with ibHeld := [], ibOrder := [] })

/-- What a core keeps for threads, messages and kernels goes. -/
def emptyCore (c : CoreSt) : CoreSt := { dropKernels (clearCore c) with thr := [], waits := [] }

/-- The cores of tiles that anything has touched. -/
def coresOf (s : State) (tiles : List Nat) : List Nat := (s.cores.map (·.1)).filter fun c => tiles.contains (tileOf c)

/-- No thread of the tiles is left: their requests and pairs go with them. -/
def dropThreads (s : State) (tiles : List Nat) : State :=
  let cores := coresOf s tiles
  let s := cores.foldl (fun s c => dropHeld (dropMsgs (dropWaiters s c) c) c) s
  let s := { s with pairs := s.pairs.filter fun p => !tiles.contains (tileOf p.leader.core) }
  let s := s.reqs.foldl (fun s r => if tiles.contains (tileOf r.thr.core) then leaveReqs s r.thr else s) s
  cores.foldl (fun s c => modCore s c emptyCore) s

/-- Every launch of a partition is cancelled without waiting for threads (R61, R206). -/
def cancelLaunches (s : State) (key : BitVec 16) : State :=
  (s.io.launches.filter fun l => l.part = key).foldl (fun s l => dropLaunch (completeLaunch s l.id 1 false false) l.id) s

/-- Decrements of a partition's counters that launches and jobs have under way come before the counters are cleared. -/
def forgetDecrements (s : State) (key : BitVec 16) : State :=
  { s with agenda := s.agenda.filter fun x => match x.act with
      | .run (.counterDecrement n _ 0) => (getCounter s n).owner ≠ key
      | _ => true }

/-- The zeroing of rows 0 to 83 reaches the rows of cores that anything has touched (R36, log 67). -/
def visitRows (s : State) (cores : List Nat) : State :=
  cores.foldl (fun s c => (List.range 84).foldl (fun s r => visit s ⟨c, r⟩) s) s

/-! ## Partition reset (R61) -/

/-- Zero a row of the partition whose STATE is not FREE and make it FREE. -/
def resetRow (s : State) (t : Thr) : State :=
  if isThreadRow s t.core t.row && tstate s t ≠ stFree then
    visitThread (freeRow (leaveReqs s t) t (isWide s t)) (isWide s t) t else s

/-- A queue of the partition dispatches again from QFENCE, when it is enabled; no packet of it waits at a counter. -/
def replayQueue (s : State) (q : Nat) : State :=
  let s := leaveCounter s q
  if (getQueue s q).en then
    let s := modQueue s q fun x => { x with frozen := false, head := x.fence }
    let x := getQueue s q
    kickQueue (enterRange s q x.fence (x.tail - x.fence).toNat) q
  else s

/-- Step PARTITION_RESET of a slot. -/
def partitionResets (s : State) (slot : Nat) : State :=
  let key := (getPart s slot).key
  if key = 0 then s
  else
    let tiles := tilesOfSlot s slot
    let s := cancelJobs (cancelLaunches s key) tiles
    let cores := coresOf s tiles
    let s := cores.foldl (fun s c => (List.range 84).foldl (fun s r => resetRow s ⟨c, r⟩) s) s
    let s := cores.foldl dropMsgs s
    let s := forgetDecrements s key
    let clear (c : Nat × CounterSt) : Nat × CounterSt := if c.2.owner = key then (c.1, { owner := key }) else c
    let s : State := { s with io := { s.io with counters := s.io.counters.map clear } }
    (s.io.queues.filter fun q => q.2.part = key).foldl (fun s q => replayQueue s q.1) s
def execPartitionReset (s : State) : Out :=
  match s.doing with | some (.partitionReset p) => .next (echoes (partitionResets s p)) | _ => .next s

/-! ## VF_RESET (R206) -/

/-- A partition's queues are disabled. -/
def disableQueues (s : State) (key : BitVec 16) : State :=
  { s with io := { s.io with queues := s.io.queues.map fun q => if q.2.part = key then (q.1, { q.2 with en := false }) else q } }

/-- A partition's queue registers and counters go back to zero. -/
def dropQueues (s : State) (key : BitVec 16) : State :=
  let s := (s.io.queues.filter fun q => q.2.part = key).foldl (fun s q => leaveCounter s q.1) s
  { s with io := { s.io with
      queues := s.io.queues.filter (fun q => q.2.part ≠ key), counters := s.io.counters.filter fun c => c.2.owner ≠ key } }

/-- Step VF_RESET, its five steps in order. -/
def vfResets (s : State) (slot : Nat) : State :=
  let key := (getPart s slot).key
  let tiles := tilesOfSlot s slot
  let s := if key = 0 then s else cancelLaunches (disableQueues s key) key
  let s := dropThreads (cancelJobs s tiles) tiles
  -- rows 0 to 83, and in row 84 the wait lists and frame-state entries
  let s := clearWords s tiles fun row off => row < 84 || (row = 84 && 2080 ≤ off && off < 3936)
  let s : State := { s with stackSt := s.stackSt.map fun k => (k.1, { k.2 with pools := k.2.pools.filter fun p => p.handle / 4294967296 ≠ slot }) }
  let s := if key = 0 then s else dropQueues (forgetDecrements s key) key
  let s := withdrawWhere s fun m => memberDev m = s.io.devid.toNat && tiles.contains (tileOf (memberCore m))
  let s : State := { s with tiles := s.tiles.map fun t => if tiles.contains t.1 then (t.1, { t.2 with grans := [] }) else t }
  let s := visitRows ((coresOf s tiles).foldl noteFree s) (coresOf s tiles)
  modPart s slot fun p => { p with reset := false }
def execVfReset (s : State) : Out := match s.doing with | some (.vfReset v) => .next (echoes (vfResets s v)) | _ => .next s

/-! ## TILE_REASSIGN (R203) -/

/-- Launches of the old owner that have a row on the tile. -/
def launchesOn (s : State) (tile : Nat) : List LaunchSt :=
  s.io.launches.filter fun l => l.state = .placed && l.rows.any fun t => tileOf t.core = tile

/-- The jobs of a tile's queues go; threads of other tiles are told that theirs were cancelled, and so is who waits for one. -/
def emptyQueues (s : State) (tile : Nat) : State :=
  let st := statusWord stCancelledJob 0xFF 0
  let ids := (getTile s tile).full
  let s := modTile s tile fun t => { t with full := [] }
  let s := ids.foldl (fun s id => answer s tile id (ansWord st)) s
  let s := ((getTile s tile).copies.filter fun j => j.status.isNone && tileOf j.thr.core ≠ tile).foldl (fun s j => stopCopy s tile j st) s
  let l := let t := getTile s tile; (t.jobs ++ t.copies ++ t.gathers).flatMap (·.waiters)
  modTile (l.foldl (fun s id => answer s tile id (ansWord st)) s) tile fun t => { t with jobs := [], copies := [], gathers := [] }

/-- Steps 2 to 4: rows, caches, queues and banks are emptied, and the tile is assigned. -/
def tileCleared (s : State) (tile : Nat) (v : Word) : State :=
  let s := dropThreads (emptyQueues s tile) [tile]
  let s := clearWords s [tile] fun row _ => row < 96
  let out (f : Nat) : Bool := tileOf (f / 128) ≠ tile
  let pool (p : PoolSt) : PoolSt := { p with free := p.free.filter out, alloc := p.alloc.filter out }
  let core (c : Nat × CoreSt) : Nat × CoreSt := if tileOf c.1 = tile then (c.1, { c.2 with code := [], buffers := [], quantum := 4096, wide := false }) else c
  let s : State := { s with
    cores := s.cores.map core, stackSt := s.stackSt.map fun k => (k.1, { k.2 with pools := k.2.pools.map pool }) }
  let s := modTile s tile fun t =>
    { t with recs := [], subs := [], grans := [], walks := [], walking := [], claims := [], report := []
             acc := List.replicate 4 {}, bbanks := [.empty, .empty]
             assigned := bits v 6 1 = 1, slot := bits v 0 6, busy := false }
  pokeAll (visitRows (s.cores.foldl (fun s c => if tileOf c.1 = tile then noteFree s c.1 else s) s) (coresOf s [tile]))

/-- Step TILE_REASSIGN: the old owner's launches are cancelled first, and the rest follows when they are COMPLETE. -/
def tileReassigned (s : State) (tile : Nat) (v : Word) : State :=
  let s := modTile s tile fun t => { t with busy := true }
  let mine := launchesOn s tile
  if mine.isEmpty then tileCleared s tile v
  else post ((mine.filter fun l => !l.cancel).foldl (fun s l => cancelLaunch 0 s l.id) s) 1 (.tileReassign tile v)
def execTileReassign (s : State) : Out :=
  match s.doing with | some (.tileReassign t v) => .next (echoes (tileReassigned s t v)) | _ => .next s

/-! ## Firmware, attestation and bring-up (R207, R208) -/

/-- Step FIRMWARE_STAGE: the image of a host that holds HSEM, accepted when it verifies. -/
def execFirmwareStage (s : State) : Out :=
  match s.doing with
  | some (.firmwareStage port image good) =>
    .next (if holdsHsem s port && good then { s with io := { s.io with image := image, staged := true, firmwareOk := true } } else s)
  | _ => .next s

/-- Step ATTESTATION_REQUEST: the report of the nonce as it stands now, with its count and signature of 2,420 bytes. -/
def execAttestationRequest (s : State) : Out :=
  match s.doing with
  | some (.attestationRequest sig) =>
    .next { s with io := { s.io with
      reports := s.io.reports + 1, report := reportWords s (s.io.reports + 1), signature := sig.take 2420 } }
  | _ => .next s

/-- Sub-arrays with a fault are what an engine keeps over module reset: fencing ends, and every sub-array is tested again (R256). -/
def retested (t : TileSt) : TileSt :=
  (selfTest { faulty := t.fenced ++ t.faulty }).1

/-- Step BRING_UP: every row is zeroed, every core holds 32 credits, engines self-test.  With firmware that fails, nothing is
published. -/
def broughtUp (s : State) (absent : List (Nat × BitVec 512)) (good : Bool) : State :=
  let tiles := (s.tiles.filter fun t => !(t.2.fenced.isEmpty && t.2.faulty.isEmpty)).map fun t => (t.1, retested t.2)
  { State.reset with
    now := s.now, delays := s.delays, fresh := s.fresh, tiles := tiles, absent := absent
    stackSt := (s.stackSt.filter fun k => k.2.hot).map fun k => (k.1, { hot := true })
    io := { image := s.io.image, running := s.io.image, reports := s.io.reports, domain := s.io.domain, firmwareOk := good, published := good } }
def execBringUp (s : State) : Out := match s.doing with | some (.bringUp a g) => .next (broughtUp s a g) | _ => .next s

/-! ## Physical events (R37, R99, R199, R256) -/

/-- Step POWER_SAMPLE. -/
def execPowerSample (s : State) : Out :=
  match s.doing with
  | some (.powerSample w i) => .next { s with io := { s.io with pwrWatts := w, pwrIssue := i } }
  | _ => .next s

/-- Step BIT_ERROR: a second error in a word makes two. -/
def bitFlips (s : State) (t : Thr) (widx : Nat) (double : Bool) : State :=
  let a := rowAddr t.core t.row + 8 * widx
  if !corePresent s t.core || 96 ≤ t.row then s
  else
    let more := double || s.bitErrs.any fun e => e.1 = a
    { s with bitErrs := s.bitErrs.filter (fun e => e.1 ≠ a) ++ [(a, more)] }
def execBitError (s : State) : Out :=
  match s.doing with | some (.bitError t w d) => .next (bitFlips s t w d) | _ => .next s

/-- Step SUB_ARRAY_FAULT: one of the 66 sub-arrays of an engine (R256). -/
def execSubArrayFault (s : State) : Out :=
  match s.doing with
  | some (.subArrayFault tile k) =>
    .next (if k < 66 && !(getTile s tile).fenced.contains k then modTile s tile fun t => { t with faulty := insertNat k t.faulty } else s)
  | _ => .next s

/-- Step TEMPERATURE_SENSOR: the refresh period of the stack's cores changes (R37). -/
def execTemperatureSensor (s : State) : Out :=
  match s.doing with
  | some (.temperatureSensor k hot) => .next (modStack s k fun x => { x with hot := hot })
  | _ => .next s

end Sys2Proof.Machine
end

