-- ==== Sys2Proof/Machine/Fences.lean ====
section
/-! DEFINITION. Step FENCE_ECHO (R112, R155): when the last awaited echo is in, the fence, or the drop, is complete. -/
namespace Sys2Proof.Machine

/-- What comes after the release fence of an instruction (R322, R323, R332, R372). -/
def afterFence (s : State) (r : Req) : State :=
  match r.insn with
  | .rld .. | .rst .. | .hdl .. | .ramoadd .. | .rcas .. => sendRow s r.id
  | .msend .. => sendMsg s r.id
  | .commit .. | .fillc .. => opStart s r.id
  | .objsync .. => syncDrop s r.id
  | .launch .. => toIo .launch s r.id
  | .cntadd .. => toIo .cntadd s r.id
  | .cntdec .. => sendDecrement s r.id
  | .fence _ | .fenceRel _ | .exit => replyArrives s r.id (ansWord 0)
  | _ => translateReq s r.id none

/-- An echo reaches the issuer's tile.  The release of a copy's pointer (R263) leaves c4 as its thread has it by then. -/
def echoArrives (s : State) (id tile : Nat) : State :=
  match findReq s id with
  | none => s
  | some r =>
    let l := r.echoes.filter (· ≠ tile)
    match r.phase with
    | .fence =>
      let s := modReq s id fun r => { r with echoes := l }
      if !l.isEmpty then s
      else if r.held then afterFence s r
      else afterFence (setTouch s r.thr (getC s r.thr 4 &&& ~~~r.mask)) { r with echoes := l }
    | .drop =>
      let s := modReq s id fun r => { r with echoes := l }
      if l.isEmpty then replyArrives s id (ansWord r.status) else s
    | _ => s
def execFenceEcho (s : State) : Out :=
  match s.doing with | some (.fenceEcho id tile) => .next (echoArrives s id tile) | _ => .next s

end Sys2Proof.Machine
end

