-- ==== Sys2Proof/Machine/Dispatch.lean ====
section
/-! DEFINITION. What each instruction and each step of the part does: one arm for each constructor. -/
namespace Sys2Proof.Machine

def exec (i : Instr) (s : State) : Host.Outcome State Fault Refusal :=
  match i with
  | .add d a b => Sys2Proof.Machine.execAdd d a b s
  | .sub d a b => Sys2Proof.Machine.execSub d a b s
  | .addw d a b => Sys2Proof.Machine.execAddw d a b s
  | .subw d a b => Sys2Proof.Machine.execSubw d a b s
  | .and d a b => Sys2Proof.Machine.execAnd d a b s
  | .or d a b => Sys2Proof.Machine.execOr d a b s
  | .xor d a b => Sys2Proof.Machine.execXor d a b s
  | .andn d a b => Sys2Proof.Machine.execAndn d a b s
  | .orn d a b => Sys2Proof.Machine.execOrn d a b s
  | .shl d a b => Sys2Proof.Machine.execShl d a b s
  | .shr d a b => Sys2Proof.Machine.execShr d a b s
  | .sra d a b => Sys2Proof.Machine.execSra d a b s
  | .rol d a b => Sys2Proof.Machine.execRol d a b s
  | .ror d a b => Sys2Proof.Machine.execRor d a b s
  | .slt d a b => Sys2Proof.Machine.execSlt d a b s
  | .sltu d a b => Sys2Proof.Machine.execSltu d a b s
  | .seq d a b => Sys2Proof.Machine.execSeq d a b s
  | .sne d a b => Sys2Proof.Machine.execSne d a b s
  | .min d a b => Sys2Proof.Machine.execMin d a b s
  | .max d a b => Sys2Proof.Machine.execMax d a b s
  | .minu d a b => Sys2Proof.Machine.execMinu d a b s
  | .maxu d a b => Sys2Proof.Machine.execMaxu d a b s
  | .sadd d a b => Sys2Proof.Machine.execSadd d a b s
  | .ssub d a b => Sys2Proof.Machine.execSsub d a b s
  | .clz d a => Sys2Proof.Machine.execClz d a s
  | .ctz d a => Sys2Proof.Machine.execCtz d a s
  | .popc d a => Sys2Proof.Machine.execPopc d a s
  | .brev d a => Sys2Proof.Machine.execBrev d a s
  | .bswap d a => Sys2Proof.Machine.execBswap d a s
  | .sextb d a => Sys2Proof.Machine.execSextb d a s
  | .sexth d a => Sys2Proof.Machine.execSexth d a s
  | .sextw d a => Sys2Proof.Machine.execSextw d a s
  | .zextw d a => Sys2Proof.Machine.execZextw d a s
  | .zextb d a => Sys2Proof.Machine.execZextb d a s
  | .zexth d a => Sys2Proof.Machine.execZexth d a s
  | .mul d a b => Sys2Proof.Machine.execMul d a b s
  | .mulh d a b => Sys2Proof.Machine.execMulh d a b s
  | .mulhu d a b => Sys2Proof.Machine.execMulhu d a b s
  | .mulhsz d a b => Sys2Proof.Machine.execMulhsz d a b s
  | .mulw d a b => Sys2Proof.Machine.execMulw d a b s
  | .div d a b => Sys2Proof.Machine.execDiv d a b s
  | .divu d a b => Sys2Proof.Machine.execDivu d a b s
  | .rem d a b => Sys2Proof.Machine.execRem d a b s
  | .remu d a b => Sys2Proof.Machine.execRemu d a b s
  | .divw d a b => Sys2Proof.Machine.execDivw d a b s
  | .remw d a b => Sys2Proof.Machine.execRemw d a b s
  | .addi d a imm => Sys2Proof.Machine.execAddi d a imm s
  | .andi d a imm => Sys2Proof.Machine.execAndi d a imm s
  | .ori d a imm => Sys2Proof.Machine.execOri d a imm s
  | .xori d a imm => Sys2Proof.Machine.execXori d a imm s
  | .slti d a imm => Sys2Proof.Machine.execSlti d a imm s
  | .sltiu d a imm => Sys2Proof.Machine.execSltiu d a imm s
  | .shli d a k => Sys2Proof.Machine.execShli d a k s
  | .shri d a k => Sys2Proof.Machine.execShri d a k s
  | .srai d a k => Sys2Proof.Machine.execSrai d a k s
  | .rori d a k => Sys2Proof.Machine.execRori d a k s
  | .lil d imm => Sys2Proof.Machine.execLil d imm s
  | .lik d c imm => Sys2Proof.Machine.execLik d c imm s
  | .fadd d a b p r => Sys2Proof.Machine.execFadd d a b p r s
  | .fsub d a b p r => Sys2Proof.Machine.execFsub d a b p r s
  | .fmul d a b p r => Sys2Proof.Machine.execFmul d a b p r s
  | .fdiv d a b p r => Sys2Proof.Machine.execFdiv d a b p r s
  | .fsqrt d a p r => Sys2Proof.Machine.execFsqrt d a p r s
  | .fmin d a b p => Sys2Proof.Machine.execFmin d a b p s
  | .fmax d a b p => Sys2Proof.Machine.execFmax d a b p s
  | .fcmp d a b p c => Sys2Proof.Machine.execFcmp d a b p c s
  | .fkind d a p => Sys2Proof.Machine.execFkind d a p s
  | .fcvt d a dst src r => Sys2Proof.Machine.execFcvt d a dst src r s
  | .fcopys d a b p => Sys2Proof.Machine.execFcopys d a b p s
  | .fabs d a p => Sys2Proof.Machine.execFabs d a p s
  | .fneg d a p => Sys2Proof.Machine.execFneg d a p s
  | .ffmaD d a b c => Sys2Proof.Machine.execFfmaD d a b c s
  | .ffmsD d a b c => Sys2Proof.Machine.execFfmsD d a b c s
  | .fnmaD d a b c => Sys2Proof.Machine.execFnmaD d a b c s
  | .fnmsD d a b c => Sys2Proof.Machine.execFnmsD d a b c s
  | .ffmaS d a b c => Sys2Proof.Machine.execFfmaS d a b c s
  | .ffmsS d a b c => Sys2Proof.Machine.execFfmsS d a b c s
  | .fnmaS d a b c => Sys2Proof.Machine.execFnmaS d a b c s
  | .fnmsS d a b c => Sys2Proof.Machine.execFnmsS d a b c s
  | .beq a b o => Sys2Proof.Machine.execBeq a b o s
  | .bne a b o => Sys2Proof.Machine.execBne a b o s
  | .blt a b o => Sys2Proof.Machine.execBlt a b o s
  | .bge a b o => Sys2Proof.Machine.execBge a b o s
  | .bltu a b o => Sys2Proof.Machine.execBltu a b o s
  | .bgeu a b o => Sys2Proof.Machine.execBgeu a b o s
  | .call d o => Sys2Proof.Machine.execCall d o s
  | .callr d a imm => Sys2Proof.Machine.execCallr d a imm s
  | .ldr d a z sx o => Sys2Proof.Machine.execLdr d a z sx o s
  | .str d a z o => Sys2Proof.Machine.execStr d a z o s
  | .vldr v a o => Sys2Proof.Machine.execVldr v a o s
  | .vstr v a o => Sys2Proof.Machine.execVstr v a o s
  | .ldo d p r z => Sys2Proof.Machine.execLdo d p r z s
  | .sto a p r z => Sys2Proof.Machine.execSto a p r z s
  | .ldfe d p r => Sys2Proof.Machine.execLdfe d p r s
  | .ldff d p r => Sys2Proof.Machine.execLdff d p r s
  | .stef a p r => Sys2Proof.Machine.execStef a p r s
  | .stff a p r => Sys2Proof.Machine.execStff a p r s
  | .sete p r => Sys2Proof.Machine.execSete p r s
  | .amoAddD d a p r => Sys2Proof.Machine.execAmoAddD d a p r s
  | .amoAndD d a p r => Sys2Proof.Machine.execAmoAndD d a p r s
  | .amoOrD d a p r => Sys2Proof.Machine.execAmoOrD d a p r s
  | .amoXorD d a p r => Sys2Proof.Machine.execAmoXorD d a p r s
  | .amoSminD d a p r => Sys2Proof.Machine.execAmoSminD d a p r s
  | .amoSmaxD d a p r => Sys2Proof.Machine.execAmoSmaxD d a p r s
  | .amoUminD d a p r => Sys2Proof.Machine.execAmoUminD d a p r s
  | .amoUmaxD d a p r => Sys2Proof.Machine.execAmoUmaxD d a p r s
  | .amoSwapD d a p r => Sys2Proof.Machine.execAmoSwapD d a p r s
  | .amoFaddD d a p r => Sys2Proof.Machine.execAmoFaddD d a p r s
  | .amoFminD d a p r => Sys2Proof.Machine.execAmoFminD d a p r s
  | .amoFmaxD d a p r => Sys2Proof.Machine.execAmoFmaxD d a p r s
  | .amoCasD d a p r => Sys2Proof.Machine.execAmoCasD d a p r s
  | .amoAddW d a p r => Sys2Proof.Machine.execAmoAddW d a p r s
  | .amoAndW d a p r => Sys2Proof.Machine.execAmoAndW d a p r s
  | .amoOrW d a p r => Sys2Proof.Machine.execAmoOrW d a p r s
  | .amoXorW d a p r => Sys2Proof.Machine.execAmoXorW d a p r s
  | .amoSminW d a p r => Sys2Proof.Machine.execAmoSminW d a p r s
  | .amoSmaxW d a p r => Sys2Proof.Machine.execAmoSmaxW d a p r s
  | .amoUminW d a p r => Sys2Proof.Machine.execAmoUminW d a p r s
  | .amoUmaxW d a p r => Sys2Proof.Machine.execAmoUmaxW d a p r s
  | .amoSwapW d a p r => Sys2Proof.Machine.execAmoSwapW d a p r s
  | .amoFaddW d a p r => Sys2Proof.Machine.execAmoFaddW d a p r s
  | .amoFminW d a p r => Sys2Proof.Machine.execAmoFminW d a p r s
  | .amoFmaxW d a p r => Sys2Proof.Machine.execAmoFmaxW d a p r s
  | .amoCasW d a p r => Sys2Proof.Machine.execAmoCasW d a p r s
  | .vldo v g p r t => Sys2Proof.Machine.execVldo v g p r t s
  | .vsto v g p r t => Sys2Proof.Machine.execVsto v g p r t s
  | .vldb v g p r t => Sys2Proof.Machine.execVldb v g p r t s
  | .objq d a p => Sys2Proof.Machine.execObjq d a p s
  | .commit d a p => Sys2Proof.Machine.execCommit d a p s
  | .decommit d p => Sys2Proof.Machine.execDecommit d p s
  | .alloc d p => Sys2Proof.Machine.execAlloc d p s
  | .free d a p => Sys2Proof.Machine.execFree d a p s
  | .reloc d a p => Sys2Proof.Machine.execReloc d a p s
  | .objsync d p => Sys2Proof.Machine.execObjsync d p s
  | .fillc d a p => Sys2Proof.Machine.execFillc d a p s
  | .rld d r w o => Sys2Proof.Machine.execRld d r w o s
  | .rst d r w o => Sys2Proof.Machine.execRst d r w o s
  | .hdl d r o => Sys2Proof.Machine.execHdl d r o s
  | .ramoadd d r w o => Sys2Proof.Machine.execRamoadd d r w o s
  | .rcas d r w o => Sys2Proof.Machine.execRcas d r w o s
  | .fence u => Sys2Proof.Machine.execFence u s
  | .fenceAcq u => Sys2Proof.Machine.execFenceAcq u s
  | .fenceRel u => Sys2Proof.Machine.execFenceRel u s
  | .msend d a p r => Sys2Proof.Machine.execMsend d a p r s
  | .ibrecv d => Sys2Proof.Machine.execIbrecv d s
  | .ibpeek d => Sys2Proof.Machine.execIbpeek d s
  | .ibdrop => Sys2Proof.Machine.execIbdrop s
  | .mfc d n => Sys2Proof.Machine.execMfc d n s
  | .mtc a n => Sys2Proof.Machine.execMtc a n s
  | .live k => Sys2Proof.Machine.execLive k s
  | .launch d a p r => Sys2Proof.Machine.execLaunch d a p r s
  | .cntdec a r => Sys2Proof.Machine.execCntdec a r s
  | .cntadd a p r => Sys2Proof.Machine.execCntadd a p r s
  | .cntwait a r => Sys2Proof.Machine.execCntwait a r s
  | .cancel d a p => Sys2Proof.Machine.execCancel d a p s
  | .yield => Sys2Proof.Machine.execYield s
  | .park => Sys2Proof.Machine.execPark s
  | .exit => Sys2Proof.Machine.execExit s
  | .trap c => Sys2Proof.Machine.execTrap c s
  | .brk => Sys2Proof.Machine.execBrk s
  | .repart d a => Sys2Proof.Machine.execRepart d a s
  | .pair d => Sys2Proof.Machine.execPair d s
  | .unpair d => Sys2Proof.Machine.execUnpair d s
  | .capr d a => Sys2Proof.Machine.execCapr d a s
  | .nop => Sys2Proof.Machine.execNop s
  | .vadd v a b g t => Sys2Proof.Machine.execVadd v a b g t s
  | .vsub v a b g t => Sys2Proof.Machine.execVsub v a b g t s
  | .vmul v a b g t => Sys2Proof.Machine.execVmul v a b g t s
  | .vmulh v a b g t => Sys2Proof.Machine.execVmulh v a b g t s
  | .vand v a b g t => Sys2Proof.Machine.execVand v a b g t s
  | .vor v a b g t => Sys2Proof.Machine.execVor v a b g t s
  | .vxor v a b g t => Sys2Proof.Machine.execVxor v a b g t s
  | .vshl v a b g t => Sys2Proof.Machine.execVshl v a b g t s
  | .vshr v a b g t => Sys2Proof.Machine.execVshr v a b g t s
  | .vsra v a b g t => Sys2Proof.Machine.execVsra v a b g t s
  | .vmin v a b g t => Sys2Proof.Machine.execVmin v a b g t s
  | .vmax v a b g t => Sys2Proof.Machine.execVmax v a b g t s
  | .vsadd v a b g t => Sys2Proof.Machine.execVsadd v a b g t s
  | .vssub v a b g t => Sys2Proof.Machine.execVssub v a b g t s
  | .vabs v a g t => Sys2Proof.Machine.execVabs v a g t s
  | .vpopc v a g t => Sys2Proof.Machine.execVpopc v a g t s
  | .vfadd v a b g t => Sys2Proof.Machine.execVfadd v a b g t s
  | .vfsub v a b g t => Sys2Proof.Machine.execVfsub v a b g t s
  | .vfmul v a b g t => Sys2Proof.Machine.execVfmul v a b g t s
  | .vfdiv v a b g t => Sys2Proof.Machine.execVfdiv v a b g t s
  | .vfsqrt v a g t => Sys2Proof.Machine.execVfsqrt v a g t s
  | .vfmin v a b g t => Sys2Proof.Machine.execVfmin v a b g t s
  | .vfmax v a b g t => Sys2Proof.Machine.execVfmax v a b g t s
  | .vfabs v a g t => Sys2Proof.Machine.execVfabs v a g t s
  | .vfneg v a g t => Sys2Proof.Machine.execVfneg v a g t s
  | .vfcopys v a b g t => Sys2Proof.Machine.execVfcopys v a b g t s
  | .vfma v a b c g f => Sys2Proof.Machine.execVfma v a b c g f s
  | .vcmp d a b g k t m => Sys2Proof.Machine.execVcmp d a b g k t m s
  | .vsel v a b g t => Sys2Proof.Machine.execVsel v a b g t s
  | .vperm v a b g t => Sys2Proof.Machine.execVperm v a b g t s
  | .vslide v a b g t => Sys2Proof.Machine.execVslide v a b g t s
  | .vcompress v a b g t => Sys2Proof.Machine.execVcompress v a b g t s
  | .vexpand v a b g t => Sys2Proof.Machine.execVexpand v a b g t s
  | .vcvt v a r o g t u => Sys2Proof.Machine.execVcvt v a r o g t u s
  | .vred v a g t o => Sys2Proof.Machine.execVred v a g t o s
  | .vmred d a b g o t => Sys2Proof.Machine.execVmred d a b g o t s
  | .vscan v a g t o => Sys2Proof.Machine.execVscan v a g t o s
  | .vrcp v a g t => Sys2Proof.Machine.execVrcp v a g t s
  | .vrsq v a g t => Sys2Proof.Machine.execVrsq v a g t s
  | .vexp2 v a g t => Sys2Proof.Machine.execVexp2 v a g t s
  | .vlog2 v a g t => Sys2Proof.Machine.execVlog2 v a g t s
  | .vsin v a g t => Sys2Proof.Machine.execVsin v a g t s
  | .vcos v a g t => Sys2Proof.Machine.execVcos v a g t s
  | .vtanh v a g t => Sys2Proof.Machine.execVtanh v a g t s
  | .vbcast v a g e => Sys2Proof.Machine.execVbcast v a g e s
  | .vins v a b e => Sys2Proof.Machine.execVins v a b e s
  | .vext v a b e => Sys2Proof.Machine.execVext v a b e s
  | .vwhile d a b e => Sys2Proof.Machine.execVwhile d a b e s
  | .vlen a => Sys2Proof.Machine.execVlen a s
  | .pand d a b => Sys2Proof.Machine.execPand d a b s
  | .por d a b => Sys2Proof.Machine.execPor d a b s
  | .pxor d a b => Sys2Proof.Machine.execPxor d a b s
  | .pnot d a => Sys2Proof.Machine.execPnot d a s
  | .pcnt d a t => Sys2Proof.Machine.execPcnt d a t s
  | .pfirst d a t => Sys2Proof.Machine.execPfirst d a t s
  | .pset d a => Sys2Proof.Machine.execPset d a s
  | .mldb d a => Sys2Proof.Machine.execMldb d a s
  | .mldbW d a => Sys2Proof.Machine.execMldbW d a s
  | .mmul d a => Sys2Proof.Machine.execMmul d a s
  | .mmulW d a => Sys2Proof.Machine.execMmulW d a s
  | .mout d a p => Sys2Proof.Machine.execMout d a p s
  | .mzero d a => Sys2Proof.Machine.execMzero d a s
  | .mtest d => Sys2Proof.Machine.execMtest d s
  | .mstat d a => Sys2Proof.Machine.execMstat d a s
  | .cpy d a => Sys2Proof.Machine.execCpy d a s
  | .cpyx d a => Sys2Proof.Machine.execCpyx d a s
  | .cpyc d a => Sys2Proof.Machine.execCpyc d a s
  | .gath d a => Sys2Proof.Machine.execGath d a s
  | .scat d a => Sys2Proof.Machine.execScat d a s
  | .scatadd d a => Sys2Proof.Machine.execScatadd d a s
  | .jpoll d a => Sys2Proof.Machine.execJpoll d a s
  | .jwait d a => Sys2Proof.Machine.execJwait d a s
  | .creduce d a => Sys2Proof.Machine.execCreduce d a s
  | .rseq d a => Sys2Proof.Machine.execRseq d a s
  | .rswait d => Sys2Proof.Machine.execRswait d s
  | .start => Sys2Proof.Machine.execStart s
  | .stop => Sys2Proof.Machine.execStop s
  | .redirect => Sys2Proof.Machine.execRedirect s
  | .resume => Sys2Proof.Machine.execResume s
  | .step => Sys2Proof.Machine.execStep s
  | .heddleCancel => Sys2Proof.Machine.execHeddleCancel s
  | .heddleNone => Sys2Proof.Machine.execHeddleNone s
  | .reservedCommand => Sys2Proof.Machine.execReservedCommand s
  | .outsideRead => Sys2Proof.Machine.execOutsideRead s
  | .outsideWrite => Sys2Proof.Machine.execOutsideWrite s
  | .outsideRamoadd => Sys2Proof.Machine.execOutsideRamoadd s
  | .outsideRcas => Sys2Proof.Machine.execOutsideRcas s
  | .outsideActivation => Sys2Proof.Machine.execOutsideActivation s
  | .borrowWindow => Sys2Proof.Machine.execBorrowWindow s
  | .quantumExpiry => Sys2Proof.Machine.execQuantumExpiry s
  | .memParkExpiry => Sys2Proof.Machine.execMemParkExpiry s
  | .treadleClose => Sys2Proof.Machine.execTreadleClose s
  | .rowClose => Sys2Proof.Machine.execRowClose s
  | .rowActivation => Sys2Proof.Machine.execRowActivation s
  | .creditEarned => Sys2Proof.Machine.execCreditEarned s
  | .refresh => Sys2Proof.Machine.execRefresh s
  | .refreshEnd => Sys2Proof.Machine.execRefreshEnd s
  | .codeRowOpen => Sys2Proof.Machine.execCodeRowOpen s
  | .codeRowFill => Sys2Proof.Machine.execCodeRowFill s
  | .longOpDone => Sys2Proof.Machine.execLongOpDone s
  | .reply => Sys2Proof.Machine.execReply s
  | .retry => Sys2Proof.Machine.execRetry s
  | .retryBackoff => Sys2Proof.Machine.execRetryBackoff s
  | .redirectAnswer => Sys2Proof.Machine.execRedirectAnswer s
  | .walk => Sys2Proof.Machine.execWalk s
  | .walkReply => Sys2Proof.Machine.execWalkReply s
  | .waitLimitExpiry => Sys2Proof.Machine.execWaitLimitExpiry s
  | .cancelWait => Sys2Proof.Machine.execCancelWait s
  | .cancelWaitAnswer => Sys2Proof.Machine.execCancelWaitAnswer s
  | .objectAccessArrival => Sys2Proof.Machine.execObjectAccessArrival s
  | .admission => Sys2Proof.Machine.execAdmission s
  | .fenceProbe => Sys2Proof.Machine.execFenceProbe s
  | .probeEcho => Sys2Proof.Machine.execProbeEcho s
  | .fenceEcho => Sys2Proof.Machine.execFenceEcho s
  | .coreGate => Sys2Proof.Machine.execCoreGate s
  | .coreWake => Sys2Proof.Machine.execCoreWake s
  | .inboxEntry => Sys2Proof.Machine.execInboxEntry s
  | .activeMessage => Sys2Proof.Machine.execActiveMessage s
  | .handlerStart => Sys2Proof.Machine.execHandlerStart s
  | .doorbell => Sys2Proof.Machine.execDoorbell s
  | .thaw => Sys2Proof.Machine.execThaw s
  | .dispatch => Sys2Proof.Machine.execDispatch s
  | .counterPacket => Sys2Proof.Machine.execCounterPacket s
  | .fencePacket => Sys2Proof.Machine.execFencePacket s
  | .placement => Sys2Proof.Machine.execPlacement s
  | .reservation => Sys2Proof.Machine.execReservation s
  | .agentReport => Sys2Proof.Machine.execAgentReport s
  | .launchCompletion => Sys2Proof.Machine.execLaunchCompletion s
  | .counterDecrement => Sys2Proof.Machine.execCounterDecrement s
  | .counterWrite => Sys2Proof.Machine.execCounterWrite s
  | .priorityLoan => Sys2Proof.Machine.execPriorityLoan s
  | .partitionReset => Sys2Proof.Machine.execPartitionReset s
  | .swapOut => Sys2Proof.Machine.execSwapOut s
  | .swapIn => Sys2Proof.Machine.execSwapIn s
  | .checkpoint => Sys2Proof.Machine.execCheckpoint s
  | .fingerprint => Sys2Proof.Machine.execFingerprint s
  | .fingerprintTimeout => Sys2Proof.Machine.execFingerprintTimeout s
  | .shadowCopy => Sys2Proof.Machine.execShadowCopy s
  | .claim => Sys2Proof.Machine.execClaim s
  | .relocCopy => Sys2Proof.Machine.execRelocCopy s
  | .objsyncDrop => Sys2Proof.Machine.execObjsyncDrop s
  | .tagAndGranuleRead => Sys2Proof.Machine.execTagAndGranuleRead s
  | .phase2Write => Sys2Proof.Machine.execPhase2Write s
  | .majorityAnswer => Sys2Proof.Machine.execMajorityAnswer s
  | .rholdWrite => Sys2Proof.Machine.execRholdWrite s
  | .stackFailure => Sys2Proof.Machine.execStackFailure s
  | .markDown => Sys2Proof.Machine.execMarkDown s
  | .markUp => Sys2Proof.Machine.execMarkUp s
  | .markRebuild => Sys2Proof.Machine.execMarkRebuild s
  | .scrubPass => Sys2Proof.Machine.execScrubPass s
  | .pathFailure => Sys2Proof.Machine.execPathFailure s
  | .pathRecovery => Sys2Proof.Machine.execPathRecovery s
  | .powerSample => Sys2Proof.Machine.execPowerSample s
  | .hsem => Sys2Proof.Machine.execHsem s
  | .partitionEnable => Sys2Proof.Machine.execPartitionEnable s
  | .vfReset => Sys2Proof.Machine.execVfReset s
  | .tileReassign => Sys2Proof.Machine.execTileReassign s
  | .memberWithdrawal => Sys2Proof.Machine.execMemberWithdrawal s
  | .firmwareStage => Sys2Proof.Machine.execFirmwareStage s
  | .attestationRequest => Sys2Proof.Machine.execAttestationRequest s
  | .bringUp => Sys2Proof.Machine.execBringUp s
  | .corestatWrite => Sys2Proof.Machine.execCorestatWrite s
  | .registerWrite => Sys2Proof.Machine.execRegisterWrite s
  | .matrixJob => Sys2Proof.Machine.execMatrixJob s
  | .mldbJob => Sys2Proof.Machine.execMldbJob s
  | .moutJob => Sys2Proof.Machine.execMoutJob s
  | .mzeroJob => Sys2Proof.Machine.execMzeroJob s
  | .mtestJob => Sys2Proof.Machine.execMtestJob s
  | .copyJob => Sys2Proof.Machine.execCopyJob s
  | .cpyxJob => Sys2Proof.Machine.execCpyxJob s
  | .cpycJob => Sys2Proof.Machine.execCpycJob s
  | .pointerWrite => Sys2Proof.Machine.execPointerWrite s
  | .gathJob => Sys2Proof.Machine.execGathJob s
  | .scatJob => Sys2Proof.Machine.execScatJob s
  | .scataddJob => Sys2Proof.Machine.execScataddJob s
  | .rowStep => Sys2Proof.Machine.execRowStep s
  | .serviceInterval => Sys2Proof.Machine.execServiceInterval s
  | .collectiveCombine => Sys2Proof.Machine.execCollectiveCombine s
  | .illegalInsn => Sys2Proof.Machine.execIllegalInsn s
  | .bitError => Sys2Proof.Machine.execBitError s
  | .subArrayFault => Sys2Proof.Machine.execSubArrayFault s
  | .temperatureSensor => Sys2Proof.Machine.execTemperatureSensor s

end Sys2Proof.Machine
end

