-- ==== Sys2Proof/Machine/Step.lean ====
section
/-! DEFINITION. One step of the module: a scheduled step or packet that is due, else the turn of the next core of this
executor cycle (R33, R278), else the next cycle. -/
namespace Sys2Proof.Machine

/-- Perform one step of the part. One whose payload names no place of the module is none of the module's steps, and changes
nothing (R91, log 1). -/
def perform (s : State) (e : Event) : Host.Outcome State Fault Refusal :=
  if e.wf then exec e.instr { s with doing := some e } else .next s

/-- Go on after an outcome. -/
def andThen (o : Host.Outcome State Fault Refusal) (f : State → State) : Host.Outcome State Fault Refusal :=
  match o with
  | .next s => .next (f s)
  | .fault r => .fault r
  | .refused r => .refused r

/-- Apply an access at its row buffer: a step is performed, a job's access acts, a fill leaves its granules cached. -/
def applyAccess (s : State) : QDo → Host.Outcome State Fault Refusal
  | .step e => perform s e
  | .feed f early => .next (feedAdmitted s f early)
  | .fill => .next s

/-- What is due happens. -/
def act (s : State) : Act → Host.Outcome State Fault Refusal
  | .run e => perform s e
  | .arrive core row e => if core < Config.cores then .next (arrive s core row e) else .next s
  | .feed f => if coreOfAddr (64 * f.gran) < Config.cores then .next (feedArrives s f) else .next s
  | .bus tile col => .next (busCycle s tile col)
  | .serve core k row q =>
    if serveWaits s core k then .next (applyIn s core k 1 row q)
    else andThen (applyAccess (serveGranted s core k) q) fun s => serveNext s core k

/-- Issue a fetched word: an instruction, or a word that is none (R281). -/
def issueWord (s : State) (t : Thr) (w : InsnWord) : Host.Outcome State Fault Refusal :=
  let s := noteIssue { s with cur := t, curWord := w, doing := none } t
  match decode w with
  | .ok i => exec i s
  | .error _ => exec .illegalInsn { s with doing := some (.illegalInsn w) }

/-- The turn of a thread: fetch, then issue. -/
def threadTurn (s : State) (t : Thr) : Host.Outcome State Fault Refusal :=
  match prelude s t with
  | (s, none) => .next s
  | (s, some w) => issueWord s t w

/-- The turn of a core: a thread issues, and the treadle looks at every subarray. -/
def coreTurn (s : State) (core : Nat) : Host.Outcome State Fault Refusal :=
  let s := yieldTurn s core
  match choose s core with
  | none => .next (coreEnd s core)
  | some t => andThen (threadTurn { s with cur := t } t) fun s => coreEnd s core

/-- One step. -/
def step (s : State) : Host.Outcome State Fault Refusal :=
  match s.agenda with
  | x :: l =>
    if x.due ≤ s.now then act { s with agenda := l } x.act
    else match s.cursor with
      | c :: cs => coreTurn { s with cursor := cs } c
      | [] => .next { s with now := s.now + 1, cursor := s.cores.map (·.1) }
  | [] => match s.cursor with
    | c :: cs => coreTurn { s with cursor := cs } c
    | [] => .next { s with now := s.now + 1, cursor := s.cores.map (·.1) }

/-! ## A word where the next step fetches (log 30) -/

/-- The slot whose turn it is in this cycle, and the row that the word's thread takes. -/
def fetchRow (now : Nat) : Nat := if now % 8 = 7 then 0 else 12 * (now % 8)

/-- The object table and the code object that hold the word: core 0, rows 80 to 83, code handle 64. -/
def withCode (s : State) (w : InsnWord) : State :=
  let s := modTile s 0 fun t => { t with assigned := true, slot := 0 }
  let s := modPart s 0 fun p => { p with objplace := BitVec.ofNat 64 (1048576 + 80 * 2 ^ 40), objext := 1040#32 }
  let r := rowAddr 0 82
  let s := putFull s r (List.replicate 128 0)
  let s := putWord s r 0x616#64
  let s := putWord s (r + 8) 1024
  let s := putWord s (r + 24) 0xE40000000A#64
  let s := putWord s (r + 32) (BitVec.ofNat 64 (1048576 + 83 * 2 ^ 40))
  let s := putFull s (rowAddr 0 83) (toBytes 8 w.toNat)
  putFull s (rowAddr 0 85) (toBytes 8 w.toNat)

/-- A RUN thread of core 0 in an open row, at the word. -/
def withThread (s : State) (t : Thr) : State :=
  let s := setC s t 0 (BitVec.ofNat 64 (stRun * 16))
  let s := setC s t 1 (BitVec.ofNat 64 (64 * 4294967296))
  let s := setC (setC s t 11 0) t 14 0
  let s := setThr s t {}
  let s := modCore s 0 fun c => { c with gated := false, wide := false, handler := false,
                                         code := [⟨85, 64, 0⟩], buffers := [85] }
  modSub s 0 (t.row / 12) fun x => { x with mode := .opened t.row, hold := false }

/-- The same instruction, placed where the next step fetches: nothing is due, core 0 has the turn, and the governor
withholds none. -/
def State.withFetchWord (s : State) (_nbits w : Nat) : State :=
  let t : Thr := ⟨0, fetchRow s.now⟩
  let s := { s with absent := s.absent.filter (fun p => p.1 ≠ 0), pairs := s.pairs.filter fun p => p.leader ≠ t ∧ p.follower ≠ t
                    io := { s.io with pwrWatts := 0 } }
  let s := withThread (withCode s (BitVec.ofNat 32 w)) t
  { s with cursor := 0 :: s.cursor.filter (· ≠ 0), cur := t
           agenda := s.agenda.map fun x => { x with due := max x.due (s.now + 1) } }

end Sys2Proof.Machine
end

