-- ==== Sys2Proof/Safety.lean ====
section
/-! DEFINITION. The terms in which claims are stated: what a word must be to be read, what retiring changes, what a
frame is, and the invariant of the module's memory. -/
namespace Sys2Proof.Machine

/-! ## Runs -/

/-- The outcome is a next state. -/
def Answers (o : Out) : Prop := ∃ t, o = .next t

/-- The memory is in its one canonical form. -/
def State.Canonical (s : State) : Prop := Memory.wf s.mem = true

/-! ## Words that can be read -/

/-- None of the words is poisoned, and none holds a stored bit error (R99, R130). -/
def Readable (s : State) (ws : List Nat) : Prop :=
  ∀ w ∈ ws, isPoisoned s w = false ∧ ∀ e ∈ s.bitErrs, e.1 ≠ w

/-- The words that every instruction of a thread reads at its retirement: c14, and c13 of a paired thread. -/
def RetireReadable (s : State) (th : Thr) : Prop :=
  Readable s (cAddr th 14 :: if isPaired s th then [cAddr th 13] else [])

/-- These scalar registers can be read, and the thread can retire. -/
def SReadable (s : State) (th : Thr) (rs : List SReg) : Prop :=
  RetireReadable s th ∧ Readable s (sWords th rs)

/-! ## Frames -/

/-- An address is one of n bytes from lo on. -/
def within (lo n a : Nat) : Prop := lo ≤ a ∧ a < lo + n

/-- Every byte of memory outside a set of addresses reads as before. -/
def UnchangedBut (s t : State) (w : Nat → Prop) : Prop := ∀ a, ¬ w a → Memory.get t.mem a = Memory.get s.mem a

/-- The bytes that retiring writes: c1, c14, c13 of a paired thread and c0 of a thread that is stepped (R75, R124). -/
def retireBytes (s : State) (th : Thr) (a : Nat) : Prop :=
  within (cAddr th 1) 8 a ∨ within (cAddr th 14) 8 a ∨ (isPaired s th = true ∧ within (cAddr th 13) 8 a) ∨
    ((getThr s th).stepping = true ∧ within (cAddr th 0) 8 a)

/-- Everything of the module besides memory, the thread's control data and its pair is as before: queues, engines and
accumulators, object caches, requests, packets on their way, and the full bits of all words. -/
structure SameModule (s t : State) : Prop where
  now     : t.now = s.now
  agenda  : t.agenda = s.agenda
  tiles   : t.tiles = s.tiles
  stackSt  : t.stackSt = s.stackSt
  reqs    : t.reqs = s.reqs
  io      : t.io = s.io
  empty   : t.empty = s.empty
  absent  : t.absent = s.absent

/-! ## Retiring (R41, R124, R278) -/

/-- The PC of the next instruction. -/
def nextPc (s : State) (th : Thr) : Nat := (pcOf s th + 4) % 4294967296

/-- The thread has retired an instruction: PC and c14 go on, and c13 of a paired thread takes v. -/
structure Retired (s t : State) (th : Thr) (pc : Nat) (v : Word) : Prop where
  pc    : pcOf t th = pc
  code  : codeOf t th = codeOf s th
  count : getC t th 14 = getC s th 14 + 1
  print : getC t th 13 = if isPaired s th then fingerprintStep (getC s th 13) v else getC s th 13

/-- An instruction that writes nothing retired at pc. -/
structure PlainResult (s t : State) (th : Thr) (pc : Nat) (v : Word) : Prop where
  retired : Retired s t th pc v
  frame   : UnchangedBut s t (retireBytes s th)
  rest    : SameModule s t

/-- An instruction that wrote x to s[d] retired at pc; a write to s0 is discarded (R20). -/
structure ScalarResult (s t : State) (th : Thr) (d : SReg) (x : Word) (pc : Nat) : Prop where
  retired : Retired s t th pc (if d = 0 then BitVec.ofNat 64 pc else x)
  value   : getS t th d = if d = 0 then 0 else x
  frame   : UnchangedBut s t fun a => retireBytes s th a ∨ (d ≠ 0 ∧ within (sAddr th d.toNat) 8 a)
  rest    : SameModule s t

/-- An instruction that wrote x to s[d] and raised flags in c3 retired at pc. -/
structure FlaggedResult (s t : State) (th : Thr) (d : SReg) (x f : Word) (pc : Nat) : Prop where
  retired : Retired s t th pc (if d = 0 then BitVec.ofNat 64 pc else x)
  value   : getS t th d = if d = 0 then 0 else x
  flags   : getC t th 3 = getC s th 3 ||| f
  frame   : UnchangedBut s t fun a => retireBytes s th a ∨ (d ≠ 0 ∧ within (sAddr th d.toNat) 8 a) ∨ (f ≠ 0 ∧ within (cAddr th 3) 8 a)
  rest    : SameModule s t

/-- An instruction that wrote x to p[d] and raised flags retired; a write to p0 is discarded (R20). -/
structure PredResult (s t : State) (th : Thr) (d : PReg) (x : Pred) (f : Word) : Prop where
  retired : Retired s t th (nextPc s th) (if d = 0 then BitVec.ofNat 64 (nextPc s th) else x.setWidth 64)
  value   : getP t th d = if d = 0 then BitVec.allOnes 32 else x
  flags   : getC t th 3 = getC s th 3 ||| f
  frame   : UnchangedBut s t fun a => retireBytes s th a ∨ (d ≠ 0 ∧ within (pAddr th d.toNat) 4 a) ∨ (f ≠ 0 ∧ within (cAddr th 3) 8 a)
  rest    : SameModule s t

/-- An instruction that wrote x to v[d] and raised flags retired (R342, R343). -/
structure VecResult (s t : State) (th : Thr) (d : VReg) (x : Vec) (f : Word) : Prop where
  retired : Retired s t th (nextPc s th) (foldVec x)
  value   : getV t th d = x
  flags   : getC t th 3 = getC s th 3 ||| f
  frame   : UnchangedBut s t fun a => retireBytes s th a ∨ within (vAddr th d.toNat) 32 a ∨ (f ≠ 0 ∧ within (cAddr th 3) 8 a)
  rest    : SameModule s t

/-! ## Long operations (R34) -/

/-- The thread is held out of issue until a long operation ends; nothing has been written yet. -/
structure Started (s t : State) (th : Thr) (cycles : Nat) (w : RegWrite) (f : Word) : Prop where
  long   : (getThr t th).long = some ⟨s.now + cycles, w, f⟩
  due    : ⟨s.now + cycles, .local, 0, 0, .run (.longOpDone th)⟩ ∈ t.agenda
  mem    : t.mem = s.mem
  tiles  : t.tiles = s.tiles
  reqs   : t.reqs = s.reqs
  io     : t.io = s.io

/-! ## Parking (R26, R28) -/

/-- The bytes that parking and its end write: c0 and c2. -/
def parkBytes (th : Thr) (a : Nat) : Prop := within (cAddr th 0) 8 a ∨ within (cAddr th 2) 8 a

/-- The thread is parked with KIND, CAUSE and DETAIL in c2, and r is its outstanding instruction; nothing else has
changed yet. -/
structure Parked (s t : State) (th : Thr) (kind cause : Nat) (detail : Word) (r : Req) : Prop where
  state   : tstate t th = stParked
  park    : getC t th 2 = BitVec.ofNat 64 (detail.toNat * 65536 + cause * 256 + kind)
  reqs    : t.reqs = s.reqs ++ [{ r with id := s.nextReq }]
  nextReq : t.nextReq = s.nextReq + 1
  frame   : UnchangedBut s t (parkBytes th)
  now     : t.now = s.now
  agenda  : t.agenda = s.agenda
  tiles   : t.tiles = s.tiles
  stackSt  : t.stackSt = s.stackSt
  io      : t.io = s.io
  pairs   : t.pairs = s.pairs
  sides   : t.empty = s.empty ∧ ∀ a, isPoisoned t a = true → isPoisoned s a = true

/-- A parked thread is RUN again, c2 is zero, and its request is gone (R26, R28); nothing else has changed. -/
structure Unparked (s t : State) (th : Thr) (id : Nat) : Prop where
  state  : tstate t th = stRun
  park   : getC t th 2 = 0
  reqs   : t.reqs = s.reqs.filter fun r => r.id ≠ id
  frame  : UnchangedBut s t (parkBytes th)
  now    : t.now = s.now
  agenda : t.agenda = s.agenda
  tiles  : t.tiles = s.tiles
  stackSt : t.stackSt = s.stackSt
  pairs  : t.pairs = s.pairs
  io     : ∃ l, t.io = { s.io with outbound := l }
  sides  : t.empty = s.empty ∧ ∀ a, isPoisoned t a = true → isPoisoned s a = true

/-- Every request has a name below the next free one, and the name 0 names none. -/
def State.Named (s : State) : Prop := 0 < s.nextReq ∧ ∀ r ∈ s.reqs, r.id < s.nextReq

/-- No job or collective is in the middle of its own step. -/
def State.Rests (s : State) : Prop := s.trace = none ∧ s.acting = none

/-- Every core has its eight subarrays (R29). -/
def State.Subarrays (s : State) : Prop := ∀ core, (getCore s core).subs.length = 8

/-! ## Traps (R115, R116) -/

/-- The thread has taken a trap: TRAPPED, its PC kept, c2 zero, and the cause with the word in c10. -/
structure Trapped (s t : State) (th : Thr) (c : Cause) (w : InsnWord) : Prop where
  state : tstate t th = stTrapped
  pc    : getC t th 1 = getC s th 1
  count : getC t th 14 = getC s th 14
  park  : getC t th 2 = 0
  finfo : getC t th 10 = BitVec.ofNat 64 (c.code * 4294967296 + w.toNat)

end Sys2Proof.Machine
end

