-- ==== Sys2Proof/Certificates/Slice0/Obligations.lean ====
section
/-! DEFINITION. The statements for the provers.  Values are written from the rules of spec/, as a reader of a rule
would write them, and not by the names of the model's meanings where the rule itself gives the value. -/
namespace Sys2Proof.Claims
open Sys2Proof.Machine

/-- exec of i at s answers a next state of which R holds. -/
def Gives (i : Instr) (s : State) (R : State → Prop) : Prop := ∃ t, exec i s = .next t ∧ R t

/-- i writes x to s[d], PC goes to the next instruction, and nothing else changes. -/
def GivesS (s : State) (i : Instr) (d : SReg) (x : Word) : Prop :=
  Gives i s fun t => ScalarResult s t s.cur d x (nextPc s s.cur)

/-- i writes x to s[d], raises the flags f, and nothing else changes. -/
def GivesSF (s : State) (i : Instr) (d : SReg) (x f : Word) : Prop :=
  Gives i s fun t => FlaggedResult s t s.cur d x f (nextPc s s.cur)

/-- i is a long operation: it will write x to s[d] and raise f after so many cycles. -/
def GivesLong (s : State) (i : Instr) (cycles : Nat) (d : SReg) (x f : Word) : Prop :=
  Gives i s fun t => Started s t s.cur cycles (.s d.toNat x) f

/-- 1 if a condition holds, else 0. -/
def one (b : Bool) : Word := if b then 1#64 else 0#64

/-- The low n bits of a word, sign-extended. -/
def sextOf (n : Nat) (x : Word) : Word := BitVec.ofInt 64 ((x.setWidth n).toInt)

/-- The signed value clamped to 64 bits, and SAT when it was clamped (R221). -/
def clamp64 (x : Int) : Word × Word :=
  if x < -9223372036854775808 then (0x8000000000000000#64, 0x20#64)
  else if 9223372036854775807 < x then (0x7FFFFFFFFFFFFFFF#64, 0x20#64)
  else (BitVec.ofInt 64 x, 0)

/-- Leading zero bits, from bit 63 down. -/
def leadingZeros (x : Word) : Nat := ((List.range 64).takeWhile fun i => !x.getLsbD (63 - i)).length
/-- Trailing zero bits, from bit 0 up. -/
def trailingZeros (x : Word) : Nat := ((List.range 64).takeWhile fun i => !x.getLsbD i).length
/-- One bits. -/
def oneBits (x : Word) : Nat := (List.range 64).countP fun i => x.getLsbD i

/-- i writes to s[d] the word whose bits f gives, and nothing else changes. -/
def GivesBits (s : State) (i : Instr) (d : SReg) (f : Nat → Bool) : Prop :=
  ∃ x : Word, (∀ n, n < 64 → x.getLsbD n = f n) ∧ GivesS s i d x

end Sys2Proof.Claims

open Sys2Proof Sys2Proof.Machine Sys2Proof.Claims

/-! ## Integer instructions (R298 to R303) -/

/-- R298: the value of every function of major 0x01 that sets no flag, with its completion and its frame. -/
def Sys2Proof.Claims.IntegerResults : Prop :=
  ∀ (s : State) (d a b : SReg), SReadable s s.cur [a, b] →
    let x := getS s s.cur a
    let y := getS s s.cur b
    let k := y.toNat % 64
    GivesS s (.add d a b) d (BitVec.ofNat 64 (x.toNat + y.toNat)) ∧
    GivesS s (.sub d a b) d (BitVec.ofInt 64 (x.toNat - y.toNat)) ∧
    GivesS s (.addw d a b) d (sextOf 32 (BitVec.ofNat 64 (x.toNat + y.toNat))) ∧
    GivesS s (.subw d a b) d (sextOf 32 (BitVec.ofInt 64 (x.toNat - y.toNat))) ∧
    GivesBits s (.and d a b) d (fun i => x.getLsbD i && y.getLsbD i) ∧
    GivesBits s (.or d a b) d (fun i => x.getLsbD i || y.getLsbD i) ∧
    GivesBits s (.xor d a b) d (fun i => x.getLsbD i != y.getLsbD i) ∧
    GivesBits s (.andn d a b) d (fun i => x.getLsbD i && !y.getLsbD i) ∧
    GivesBits s (.orn d a b) d (fun i => x.getLsbD i || !y.getLsbD i) ∧
    GivesBits s (.shl d a b) d (fun i => decide (k ≤ i) && x.getLsbD (i - k)) ∧
    GivesBits s (.shr d a b) d (fun i => x.getLsbD (i + k)) ∧
    GivesBits s (.sra d a b) d (fun i => if i + k < 64 then x.getLsbD (i + k) else x.getLsbD 63) ∧
    GivesBits s (.rol d a b) d (fun i => x.getLsbD ((i + 64 - k) % 64)) ∧
    GivesBits s (.ror d a b) d (fun i => x.getLsbD ((i + k) % 64)) ∧
    GivesS s (.slt d a b) d (one (x.toInt < y.toInt)) ∧
    GivesS s (.sltu d a b) d (one (x.toNat < y.toNat)) ∧
    GivesS s (.seq d a b) d (one (x.toNat = y.toNat)) ∧
    GivesS s (.sne d a b) d (one (x.toNat ≠ y.toNat)) ∧
    GivesS s (.min d a b) d (BitVec.ofInt 64 (min x.toInt y.toInt)) ∧
    GivesS s (.max d a b) d (BitVec.ofInt 64 (max x.toInt y.toInt)) ∧
    GivesS s (.minu d a b) d (BitVec.ofNat 64 (min x.toNat y.toNat)) ∧
    GivesS s (.maxu d a b) d (BitVec.ofNat 64 (max x.toNat y.toNat))

/-- R298: the value of every unary function of major 0x01, with its completion and its frame. -/
def Sys2Proof.Claims.UnaryIntegerResults : Prop :=
  ∀ (s : State) (d a : SReg), SReadable s s.cur [a] →
    let x := getS s s.cur a
    GivesS s (.clz d a) d (BitVec.ofNat 64 (leadingZeros x)) ∧
    GivesS s (.ctz d a) d (BitVec.ofNat 64 (trailingZeros x)) ∧
    GivesS s (.popc d a) d (BitVec.ofNat 64 (oneBits x)) ∧
    GivesBits s (.brev d a) d (fun i => x.getLsbD (63 - i)) ∧
    GivesBits s (.bswap d a) d (fun i => x.getLsbD (8 * (7 - i / 8) + i % 8)) ∧
    GivesS s (.sextb d a) d (sextOf 8 x) ∧ GivesS s (.sexth d a) d (sextOf 16 x) ∧ GivesS s (.sextw d a) d (sextOf 32 x) ∧
    GivesS s (.zextw d a) d (BitVec.ofNat 64 (x.toNat % 2 ^ 32)) ∧
    GivesS s (.zextb d a) d (BitVec.ofNat 64 (x.toNat % 2 ^ 8)) ∧
    GivesS s (.zexth d a) d (BitVec.ofNat 64 (x.toNat % 2 ^ 16))

/-- R221, R298: SADD and SSUB clamp the exact result and set SAT exactly when they do; c3 is read only then (R130). -/
def Sys2Proof.Claims.SaturatingAddResults : Prop :=
  ∀ (s : State) (d a b : SReg), SReadable s s.cur [a, b] →
    let r := clamp64 ((getS s s.cur a).toInt + (getS s s.cur b).toInt)
    let q := clamp64 ((getS s s.cur a).toInt - (getS s s.cur b).toInt)
    ((r.2 ≠ 0 → Readable s [cAddr s.cur 3]) → GivesSF s (.sadd d a b) d r.1 r.2) ∧
    ((q.2 ≠ 0 → Readable s [cAddr s.cur 3]) → GivesSF s (.ssub d a b) d q.1 q.2)

/-- R299: the products. -/
def Sys2Proof.Claims.MultiplyResults : Prop :=
  ∀ (s : State) (d a b : SReg), SReadable s s.cur [a, b] →
    let x := getS s s.cur a
    let y := getS s s.cur b
    GivesS s (.mul d a b) d (BitVec.ofNat 64 (x.toNat * y.toNat)) ∧
    GivesS s (.mulh d a b) d (BitVec.ofInt 64 (x.toInt * y.toInt / 2 ^ 64)) ∧
    GivesS s (.mulhu d a b) d (BitVec.ofNat 64 (x.toNat * y.toNat / 2 ^ 64)) ∧
    GivesS s (.mulhsz d a b) d (BitVec.ofInt 64 (x.toInt * y.toNat / 2 ^ 64)) ∧
    GivesS s (.mulw d a b) d (sextOf 32 (BitVec.ofNat 64 (x.toNat * y.toNat)))

namespace Sys2Proof.Claims

/-- The signed quotient of R220: towards zero, all ones by zero, and it wraps only at MIN by −1. -/
def quotS (n : Nat) (x y : Int) : Int := if y = 0 then -1 else if x = -2 ^ (n - 1) ∧ y = -1 then x else x.tdiv y
/-- The signed remainder of R220: the sign of the dividend, the dividend by zero. -/
def remainS (x y : Int) : Int := if y = 0 then x else x.tmod y

/-- The low 32 bits as a signed number. -/
def low32 (x : Word) : Int := (x.setWidth 32).toInt

end Sys2Proof.Claims

/-- R220, R297, R299: a division starts, holds its thread for 36 or 20 cycles, and will write this value. -/
def Sys2Proof.Claims.DivisionsStart : Prop :=
  ∀ (s : State) (d a b : SReg), SReadable s s.cur [a, b] →
    let x := getS s s.cur a
    let y := getS s s.cur b
    GivesLong s (.div d a b) 36 d (BitVec.ofInt 64 (quotS 64 x.toInt y.toInt)) 0 ∧
    GivesLong s (.divu d a b) 36 d (if y.toNat = 0 then BitVec.allOnes 64 else BitVec.ofNat 64 (x.toNat / y.toNat)) 0 ∧
    GivesLong s (.rem d a b) 36 d (BitVec.ofInt 64 (remainS x.toInt y.toInt)) 0 ∧
    GivesLong s (.remu d a b) 36 d (if y.toNat = 0 then x else BitVec.ofNat 64 (x.toNat % y.toNat)) 0 ∧
    GivesLong s (.divw d a b) 20 d (BitVec.ofInt 64 (quotS 32 (low32 x) (low32 y))) 0 ∧
    GivesLong s (.remw d a b) 20 d (BitVec.ofInt 64 (remainS (low32 x) (low32 y))) 0

/-- R300: the immediate forms. -/
def Sys2Proof.Claims.ImmediateResults : Prop :=
  ∀ (s : State) (d a : SReg), SReadable s s.cur [a] →
    let x := getS s s.cur a
    ∀ i : BitVec 14,
      GivesS s (.addi d a i) d (BitVec.ofInt 64 (x.toNat + i.toInt)) ∧
      GivesBits s (.andi d a i) d (fun n => x.getLsbD n && i.getLsbD n) ∧
      GivesBits s (.ori d a i) d (fun n => x.getLsbD n || i.getLsbD n) ∧
      GivesBits s (.xori d a i) d (fun n => x.getLsbD n != i.getLsbD n) ∧
      GivesS s (.slti d a i) d (one (x.toInt < i.toInt)) ∧
      GivesS s (.sltiu d a i) d (one (x.toNat < (BitVec.ofInt 64 i.toInt).toNat))

/-- R301, R302, R303: the words of SHLI, SHRI, SRAI, RORI, LIL and LIK, no other word of their majors being an instruction; and
their results: the shifts and the rotate by an amount, the sign-extended immediate, and s[sd] with one chunk of 16 bits
replaced. -/
def Obligations.ShiftAndLongImmediates : Prop :=
  (∀ (d a k : BitVec 6), decode (0x09#6 ++ d ++ a ++ 0#2 ++ 0#6 ++ k) = .ok (.shli d a k) ∧
    decode (0x09#6 ++ d ++ a ++ 1#2 ++ 0#6 ++ k) = .ok (.shri d a k) ∧
    decode (0x09#6 ++ d ++ a ++ 2#2 ++ 0#6 ++ k) = .ok (.srai d a k) ∧
    decode (0x09#6 ++ d ++ a ++ 3#2 ++ 0#6 ++ k) = .ok (.rori d a k) ∧
    ∀ (c : BitVec 2) (m : BitVec 6), m ≠ 0 → ∃ r, decode (0x09#6 ++ d ++ a ++ c ++ m ++ k) = .error r) ∧
  (∀ (d : BitVec 6) (i : BitVec 20), decode (0x0A#6 ++ d ++ i) = .ok (.lil d i)) ∧
  (∀ (d : BitVec 6) (c m : BitVec 2) (i : BitVec 16), decode (0x0B#6 ++ d ++ c ++ 0#2 ++ i) = .ok (.lik d c i) ∧
    (m ≠ 0 → ∃ r, decode (0x0B#6 ++ d ++ c ++ m ++ i) = .error r)) ∧
  ∀ (s : State) (d a : SReg),
    (SReadable s s.cur [a] → ∀ k : BitVec 6,
      let x := getS s s.cur a
      GivesBits s (.shli d a k) d (fun n => decide (k.toNat ≤ n) && x.getLsbD (n - k.toNat)) ∧
      GivesBits s (.shri d a k) d (fun n => x.getLsbD (n + k.toNat)) ∧
      GivesBits s (.srai d a k) d (fun n => if n + k.toNat < 64 then x.getLsbD (n + k.toNat) else x.getLsbD 63) ∧
      GivesBits s (.rori d a k) d (fun n => x.getLsbD ((n + k.toNat) % 64))) ∧
    (RetireReadable s s.cur → ∀ i : BitVec 20, GivesS s (.lil d i) d (BitVec.ofInt 64 i.toInt)) ∧
    (SReadable s s.cur [d] → ∀ (c : BitVec 2) (i : BitVec 16),
      GivesBits s (.lik d c i) d (fun n => if n / 16 = c.toNat then i.getLsbD (n % 16) else (getS s s.cur d).getLsbD n))

/-! ## Branches and calls (R304 to R306) -/

namespace Sys2Proof.Claims

/-- Where a branch goes: so many words from PC, modulo 2^32, when it is taken, else the next instruction (R304). -/
def branchPc (s : State) (off : Int) (taken : Prop) [Decidable taken] : Nat :=
  if taken then ((pcOf s s.cur + 4 * off) % 4294967296).toNat else nextPc s s.cur

/-- i writes nothing and goes to pc; v is the new PC (R297). -/
def GivesPc (s : State) (i : Instr) (pc : Nat) : Prop :=
  Gives i s fun t => PlainResult s t s.cur pc (BitVec.ofNat 64 pc)

end Sys2Proof.Claims

/-- R304: the words of the branches; every branch goes where its condition says, and changes nothing else; a target at or beyond
the size of the code object traps ILLEGAL_INSN at its fetch, with PC on the target. -/
def Sys2Proof.Claims.BranchTargets : Prop :=
  (∀ (a b : BitVec 6) (o : BitVec 14),
    decode (0x0F#6 ++ a ++ b ++ o) = .ok (.beq a b o) ∧ decode (0x10#6 ++ a ++ b ++ o) = .ok (.bne a b o) ∧
    decode (0x11#6 ++ a ++ b ++ o) = .ok (.blt a b o) ∧ decode (0x12#6 ++ a ++ b ++ o) = .ok (.bge a b o) ∧
    decode (0x13#6 ++ a ++ b ++ o) = .ok (.bltu a b o) ∧ decode (0x14#6 ++ a ++ b ++ o) = .ok (.bgeu a b o)) ∧
  (∀ (s : State) (th : Thr),
    -- fetching reads the record of the code object (R99)
    let u := meetRecord s (slotOf s (tileOf th.core)) (codeOf s th)
    Readable u [cAddr th 0, cAddr th 1, cAddr th 11] → codeBytes u th.core (codeOf u th) ≤ pcOf u th →
    (getC u th 11).getLsbD 0 = false → prelude s th = (takeTrap u th .illegalInsn 0 none, none)) ∧
  ∀ (s : State) (a b : SReg) (o : BitVec 14), SReadable s s.cur [a, b] →
    let x := getS s s.cur a
    let y := getS s s.cur b
    GivesPc s (.beq a b o) (branchPc s o.toInt (x.toNat = y.toNat)) ∧
    GivesPc s (.bne a b o) (branchPc s o.toInt (x.toNat ≠ y.toNat)) ∧
    GivesPc s (.blt a b o) (branchPc s o.toInt (x.toInt < y.toInt)) ∧
    GivesPc s (.bge a b o) (branchPc s o.toInt (y.toInt ≤ x.toInt)) ∧
    GivesPc s (.bltu a b o) (branchPc s o.toInt (x.toNat < y.toNat)) ∧
    GivesPc s (.bgeu a b o) (branchPc s o.toInt (y.toNat ≤ x.toNat))

/-- R305, R306: CALL and CALLR write the link, unless sd is s0, and go to their target; a CALLR to a target that is no
multiple of 4 takes MISALIGNED and changes neither s[sd] nor PC; and their words. -/
def Sys2Proof.Claims.CallTargets : Prop :=
  (∀ (d : BitVec 6) (o : BitVec 20), decode (0x15#6 ++ d ++ o) = .ok (.call d o)) ∧
  (∀ (d a : BitVec 6) (i : BitVec 14), decode (0x16#6 ++ d ++ a ++ i) = .ok (.callr d a i)) ∧
  ∀ (s : State) (d a : SReg), SReadable s s.cur [a] →
    let link : Word := BitVec.ofNat 64 (nextPc s s.cur)
    (∀ o : BitVec 20,
      let pc := ((pcOf s s.cur + 4 * o.toInt) % 4294967296).toNat
      Gives (.call d o) s fun t => ScalarResult s t s.cur d link pc) ∧
    (∀ i : BitVec 14,
      let pc := (((getS s s.cur a).toNat + i.toInt) % 4294967296).toNat
      (pc % 4 = 0 → Gives (.callr d a i) s fun t => ScalarResult s t s.cur d link pc) ∧
      (pc % 4 ≠ 0 → exec (.callr d a i) s = .next (takeTrap s s.cur .misaligned s.curWord none)))

/-! ## Scalar floating point (R307 to R311) -/

namespace Sys2Proof.Claims

/-- c3 and these scalar registers can be read, and the thread can retire. -/
def FReadable (s : State) (rs : List SReg) : Prop :=
  SReadable s s.cur rs ∧ Readable s [cAddr s.cur 3]

/-- The format of a precision, and the source that it selects: all 64 bits, or bits 31:0 (R307). -/
def fmtAt : Prec → FFmt
  | .d => ⟨11, 52, 1023, true⟩
  | .s => ⟨8, 23, 127, true⟩
def srcAt (p : Prec) (x : Word) : Nat :=
  match p with
  | .d => x.toNat
  | .s => x.toNat % 2 ^ 32

/-- c3 as an instruction reads it (R24), with a rounding field in place of RM (R226). -/
def c3Env (s : State) (r : RField) : FEnv :=
  let c3 := getC s s.cur 3
  ⟨match r with
    | .static m => m
    | .dyn => if bits c3 8 2 = 0 then .rne else if bits c3 8 2 = 1 then .rtz else if bits c3 8 2 = 2 then .rdn else .rup,
    c3.getLsbD 10, c3.getLsbD 11, c3.getLsbD 12⟩

/-- i writes the value of a floating-point result, zero-extended, and raises its flags. -/
def GivesF (s : State) (i : Instr) (d : SReg) (r : FRes) : Prop := GivesSF s i d (BitVec.ofNat 64 r.1) r.2
def GivesFLong (s : State) (i : Instr) (cycles : Nat) (d : SReg) (r : FRes) : Prop :=
  GivesLong s i cycles d (BitVec.ofNat 64 r.1) r.2

/-- The sign bit of a precision. -/
def signAt : Prec → Nat
  | .d => 63
  | .s => 31

end Sys2Proof.Claims

/-- R24, R226, R307, R311: in either precision, the one-turn arithmetic of major 0x0C and the fused forms deliver the
rounded result of their operation in the environment of c3, with the rounding field in place of RM where there is one,
and add its flags to c3. -/
def Sys2Proof.Claims.FloatResults : Prop :=
  ∀ (s : State) (d a b c : SReg) (p : Prec), FReadable s [a, b, c] →
    let x := srcAt p (getS s s.cur a)
    let y := srcAt p (getS s s.cur b)
    let z := srcAt p (getS s s.cur c)
    let v := c3Env s .dyn
    (∀ r : RField,
      GivesF s (.fadd d a b p r) d (fadd (fmtAt p) (c3Env s r) x y) ∧
      GivesF s (.fsub d a b p r) d (fsub (fmtAt p) (c3Env s r) x y) ∧
      GivesF s (.fmul d a b p r) d (fmul (fmtAt p) (c3Env s r) x y)) ∧
    GivesF s (match p with | .d => .ffmaD d a b c | .s => .ffmaS d a b c) d (ffma (fmtAt p) v false false x y z) ∧
    GivesF s (match p with | .d => .ffmsD d a b c | .s => .ffmsS d a b c) d (ffma (fmtAt p) v false true x y z) ∧
    GivesF s (match p with | .d => .fnmaD d a b c | .s => .fnmaS d a b c) d (ffma (fmtAt p) v true false x y z) ∧
    GivesF s (match p with | .d => .fnmsD d a b c | .s => .fnmsS d a b c) d (ffma (fmtAt p) v true true x y z)

/-- R297, R307: FDIV and FSQRT hold the thread for 44 cycles in .d and 24 in .s, and will deliver the rounded quotient
or root. -/
def Sys2Proof.Claims.FloatDivisionStarts : Prop :=
  ∀ (s : State) (d a b : SReg) (p : Prec) (r : RField), FReadable s [a, b] →
    let n := if p = .d then 44 else 24
    GivesFLong s (.fdiv d a b p r) n d (fdiv (fmtAt p) (c3Env s r) (srcAt p (getS s s.cur a)) (srcAt p (getS s s.cur b))) ∧
    GivesFLong s (.fsqrt d a p r) n d (fsqrt (fmtAt p) (c3Env s r) (srcAt p (getS s s.cur a)))

/-- R307 to R310: minimum and maximum (with FZ on a subnormal result), comparison, kinds, conversions and the copies of
bits, which raise no flag. -/
def Sys2Proof.Claims.FloatOtherResults : Prop :=
  ∀ (s : State) (d a b : SReg) (p : Prec), FReadable s [a, b] →
    let x := srcAt p (getS s s.cur a)
    let y := srcAt p (getS s s.cur b)
    let v := c3Env s .dyn
    let k := signAt p
    GivesF s (.fmin d a b p) d (flushResult (fmtAt p) v.fz (fminmax (fmtAt p) v.daz false x y)) ∧
    GivesF s (.fmax d a b p) d (flushResult (fmtAt p) v.fz (fminmax (fmtAt p) v.daz true x y)) ∧
    (∀ c : FCond,
      let r := fcompare (fmtAt p) v.daz (match c with | .eq => .eq | .ne => .ne | .lt => .lt | .le => .le) x y
      GivesSF s (.fcmp d a b p c) d (one r.1) r.2) ∧
    GivesS s (.fkind d a p) d (fkind (fmtAt p) x) ∧
    (∀ (t u : CvtKind) (r : RField), (t.isFloat || u.isFloat) →
      let n := match u with | .f64 | .i64 | .z64 => 64 | .f32 | .i32 | .z32 => 32 | .f16 | .bf16 => 16
      let y := convertLane (CvtKind.vtype t) (CvtKind.vtype u) (c3Env s r) .c3 ((getS s s.cur a).toNat % 2 ^ n)
      GivesSF s (.fcvt d a t u r) d (if t = .i32 then sextOf 32 (BitVec.ofNat 64 y.1) else BitVec.ofNat 64 y.1) y.2) ∧
    GivesBits s (.fcopys d a b p) d (fun i => if i = k then (getS s s.cur b).getLsbD k else decide (i < k) && (getS s s.cur a).getLsbD i) ∧
    GivesBits s (.fabs d a p) d (fun i => decide (i < k) && (getS s s.cur a).getLsbD i) ∧
    GivesBits s (.fneg d a p) d (fun i => if i = k then !(getS s s.cur a).getLsbD k else decide (i < k) && (getS s s.cur a).getLsbD i)

/-- R226: rounding m × 2^e to a multiple of 2^q, for a number of either sign: the multiples below and above the exact value
are the only choices, each mode takes the one it names (RNE the nearer, and the even one of a tie), and the result is
inexact exactly when the value is no multiple. -/
def Sys2Proof.Claims.RoundingModes : Prop :=
  ∀ (r : Round) (neg : Bool) (m k : Nat) (e : Int), 0 < k →
    let d := roundAt r neg m e (e + k)
    let below := m / 2 ^ k
    (m % 2 ^ k = 0 → d = (below, false)) ∧
    (m % 2 ^ k ≠ 0 → d.2 = true ∧
      match r with
      | .rtz => d.1 = below
      | .rdn => d.1 = if neg then below + 1 else below
      | .rup => d.1 = if neg then below else below + 1
      | .rne => (d.1 = below ∨ d.1 = below + 1) ∧
          (2 * (m % 2 ^ k) < 2 ^ k → d.1 = below) ∧ (2 ^ k < 2 * (m % 2 ^ k) → d.1 = below + 1) ∧
          (2 * (m % 2 ^ k) = 2 ^ k → d.1 % 2 = 0))

/-- R226: a value that its format represents is delivered as it stands, raises nothing and is not flushed unless it is a
subnormal and FZ is set; so for f64, f32, f16 and bf16, reading any finite number and delivering it in any mode gives it
back. -/
def Sys2Proof.Claims.RoundingKeepsRepresentable : Prop :=
  ∀ (f : FFmt), f = .f64 ∨ f = .f32 ∨ f = .f16 ∨ f = .bf16 →
  ∀ (r : Round) (o : Over) (x : Nat) (neg : Bool) (m : Nat) (e : Int),
    x < 2 ^ f.width → f.unpack false x = .fin neg m e → f.round r false o neg m e = (x, 0)

/-- R227, R228: with FZ a normal result is delivered as it stands, and a tiny one as a zero of its sign, with UF and NX; a result whose
magnitude is above every finite number of its format is an infinity or the largest finite number of its sign, as the mode says, with
OF and NX. -/
def Sys2Proof.Claims.FlushAndOverflow : Prop :=
  ∀ (f : FFmt), f = .f64 ∨ f = .f32 ∨ f = .f16 ∨ f = .bf16 → ∀ (r : Round) (neg : Bool) (m : Nat) (e : Int), 0 < m →
    (∀ x, x < 2 ^ f.width → f.unpack false x = .fin neg m e → 2 ^ f.fbits ≤ m → f.round r true (.mode r) neg m e = (x, 0)) ∧
    (∀ x, x < 2 ^ f.width → f.unpack false x = .fin neg m e → m < 2 ^ f.fbits →
      f.round r true (.mode r) neg m e = (f.sign neg, fUF ||| fNX)) ∧
    ((m.log2 : Int) + e + 2 ≤ 1 - f.bias → f.round r true (.mode r) neg m e = (f.sign neg, fUF ||| fNX)) ∧
    ((f.bias : Int) + 1 ≤ m.log2 + e → ∀ fz,
      let inf := f.sign neg + (2 ^ f.ebits - 1) * 2 ^ f.fbits
      let away := match r with | .rne => true | .rtz => false | .rdn => neg | .rup => !neg
      f.round r fz (.mode r) neg m e = (if away then inf else inf - 1, fOF ||| fNX))

namespace Sys2Proof.Claims

/-- The number that an encoding of a format stands for. -/
def Means (f : FFmt) (c : Nat) (x : ℚ) : Prop := ∃ n m e, f.unpack false c = .fin n m e ∧ x = (if n then -1 else 1) * m * 2 ^ e

/-- A finite number of a format. -/
def Finite (f : FFmt) (x : ℚ) : Prop := ∃ c, c < 2 ^ f.width ∧ Means f c x

/-- y is the number of a format to which a mode rounds the real number that `le` says is at least a rational, and `ge` at most one
(R226). -/
def RoundsTo (f : FFmt) (r : Round) (le ge : ℚ → Prop) (y : ℚ) : Prop :=
  Finite f y ∧
  let down := le y ∧ ∀ z, Finite f z → le z → z ≤ y
  let up := ge y ∧ ∀ z, Finite f z → ge z → y ≤ z
  match r with
  | .rdn => down
  | .rup => up
  | .rtz => (le 0 → down) ∧ (ge 0 → up)
  | .rne => ∀ z, Finite f z → (z < y → le ((y + z) / 2)) ∧ (y < z → ge ((y + z) / 2))

/-- A result is the real number rounded once, where that lies among the finite numbers of its format, and NX says whether it differs
(R226, R228). -/
def Once (f : FFmt) (r : Round) (le ge : ℚ → Prop) (x : FRes) : Prop :=
  (∃ z, Finite f z ∧ le z) → (∃ z, Finite f z ∧ ge z) →
    x.1 < 2 ^ f.width ∧ ∃ y, Means f x.1 y ∧ RoundsTo f r le ge y ∧ (x.2 &&& fNX ≠ 0 ↔ ¬ (le y ∧ ge y))

end Sys2Proof.Claims

/-- R226, R228: on finite numbers add, subtract, multiply, divide, square root and the fused multiply-adds deliver the exact result
rounded once in the mode in force, and are inexact exactly where they differ from it (with FZ and DAZ clear, and a result
within the format's range). -/
def Sys2Proof.Claims.OperationsRoundOnce : Prop :=
  ∀ (f : FFmt), f = .f64 ∨ f = .f32 ∨ f = .f16 ∨ f = .bf16 → ∀ (v : FEnv) (a b c : Nat) (x y z : ℚ),
    v.fz = false → v.daz = false → Means f a x → Means f b y → Means f c z →
    let once := fun (q : ℚ) (w : FRes) => Once f v.rm (· ≤ q) (q ≤ ·) w
    once (x + y) (fadd f v a b) ∧ once (x - y) (fsub f v a b) ∧ once (x * y) (fmul f v a b) ∧
    (y ≠ 0 → once (x / y) (fdiv f v a b)) ∧
    (0 ≤ x → Once f v.rm (fun q => q < 0 ∨ q * q ≤ x) (fun q => 0 ≤ q ∧ x ≤ q * q) (fsqrt f v a)) ∧
    ∀ p n : Bool, once ((if p then -(x * y) else x * y) + (if n then -z else z)) (ffma f v p n a b c)

/-! ## Control words, NOP, LIVE and VLEN (R123, R312 to R316, R356) -/

namespace Sys2Proof.Claims

/-- Bit i of a control word after MTC cn with x, where old stood (R313). -/
def mtcBit (n : Nat) (old x : Word) (i : Nat) : Bool :=
  match n with
  | 0 => if i = 8 then decide (bits x 0 4 ≠ 0) || (old.getLsbD 8 && !x.getLsbD 8)
         else if 9 ≤ i ∧ i ≤ 47 then x.getLsbD i else old.getLsbD i
  | 3 => decide (i ≤ 5 ∨ (8 ≤ i ∧ i ≤ 12)) && x.getLsbD i
  | 4 | 6 | 12 => x.getLsbD i
  | 5 => decide (i = 62 ∨ i = 63) || x.getLsbD i
  | 7 => if i ≤ 16 ∨ (24 ≤ i ∧ i ≤ 47) then x.getLsbD i else old.getLsbD i
  | 8 => decide (i ≤ 15) && x.getLsbD i
  | 11 => decide (i = 0 ∨ (2 ≤ i ∧ i ≤ 31)) && x.getLsbD i
  | _ => old.getLsbD i

/-- i takes a precise trap (R115): `TrapEntry` says what that does. -/
def Traps (s : State) (i : Instr) (c : Cause) : Prop := exec i s = .next (takeTrap s s.cur c s.curWord none)

end Sys2Proof.Claims

/-- R312: MFC reads a control word: c5 with bits 62 and 63 set, and in a pair the leader's c7 on both sides. -/
def Sys2Proof.Claims.ReadControlWord : Prop :=
  ∀ (s : State) (d : SReg) (n : BitVec 4), RetireReadable s s.cur → Readable s [cAddr s.cur n.toNat] →
    let own := getWord s (cAddr s.cur n.toNat)
    GivesS s (.mfc d n) d
      (if n.toNat = 5 then own ||| 0xC000000000000000#64
       else if n.toNat = 7 then (match pairOf s s.cur with | some p => getWord s (cAddr p.leader 7) | none => own)
       else own)

/-- R313: MTC writes the fields of each word that R313 names and no other, and no other word but those of retiring; on c1, c2, c9, c10,
c13, c14 and c15 it has no effect; on c7 and c12 it is privileged. -/
def Sys2Proof.Claims.WriteControlWord : Prop :=
  ∀ (s : State) (a : SReg) (n : BitVec 4), SReadable s s.cur [a] → (getThr s s.cur).stepping = false →
    let x := getS s s.cur a
    let k := n.toNat
    ((k = 7 ∨ k = 12) → isPriv s s.cur = false → Traps s (.mtc a n) .priv) ∧
    ((k ≠ 7 ∧ k ≠ 12 ∨ isPriv s s.cur = true) →
      Gives (.mtc a n) s fun t =>
        (∀ i, i < 64 → k ≠ 1 → k ≠ 13 → k ≠ 14 → (getC t s.cur k).getLsbD i = mtcBit k (getC s s.cur k) x i) ∧
        (∃ v, Retired s t s.cur (nextPc s s.cur) v) ∧
        UnchangedBut s t (fun b => retireBytes s s.cur b ∨
          ((k = 0 ∨ (3 ≤ k ∧ k ≤ 8) ∨ k = 11 ∨ k = 12) ∧ within (cAddr s.cur k) 8 b)) ∧
        SameModule s t)

/-- R123, R314, R316, R356: NOP changes nothing but PC and c14; VLEN writes 256; LIVE writes entry k of its code object's
liveness table to c5, and all ones for k = 255. -/
def Sys2Proof.Claims.NopLiveVlen : Prop :=
  ∀ (s : State), RetireReadable s s.cur →
    GivesPc s .nop (nextPc s s.cur) ∧
    (∀ d, GivesS s (.vlen d) d 256) ∧
    (∀ k : BitVec 8, s.bitErrs = [] → Gives (.live k) s fun t =>
      (∃ v, Retired s t s.cur (nextPc s s.cur) v) ∧
      getC t s.cur 5 = livenessOf s s.cur.core (codeOf s s.cur) k.toNat ||| 0xC000000000000000#64 ∧
      (k = 255 → getC t s.cur 5 = BitVec.allOnes 64) ∧
      UnchangedBut s t (fun b => retireBytes s s.cur b ∨ within (cAddr s.cur 5) 8 b) ∧ SameModule s t)

/-! ## Traps (R115, R116, R118, R128, R281, R315) -/

/-- R115, R116: a trap of a thread that is no handler and in no pair: TRAPPED, PC and c14 kept, c2 zero, c10 with cause and
word, c9 written only where the cause has one; nothing else of any row changes, and one trap record leaves. -/
def Sys2Proof.Claims.TrapEntry : Prop :=
  ∀ (s : State) (th : Thr) (c : Cause) (w : InsnWord) (c9 : Option Word), pairOf s th = none → th.row ≠ 84 →
    Readable s [cAddr th 12] →
    let t := takeTrap s th c w c9
    Trapped s t th c w ∧
    (∀ x, c9 = some x → getC t th 9 = x) ∧
    UnchangedBut s t (fun b => within (cAddr th 0) 8 b ∨ within (cAddr th 2) 8 b ∨ within (cAddr th 10) 8 b ∨
      (c9 ≠ none ∧ within (cAddr th 9) 8 b)) ∧
    (getC s th 12 = 0 → (getPart s (slotOf s (tileOf th.core))).suprow = 0 →
      (getPart t (slotOf s (tileOf th.core))).lost =
        let n := (getPart s (slotOf s (tileOf th.core))).lost
        if n = 0xFFFFFFFF#32 then n else n + 1) ∧
    (let q := getC s th 12
     q ≠ 0 → refDev q = s.io.devid.toNat → corePresent s (refCore q) = true →
      stackDown s (stackOf (refCore q)) = false →
      ∃ x ∈ t.agenda, x.act = .arrive (refCore q) 84 (.inboxEntry
        ⟨.trap, q, keyedRef s th, BitVec.ofNat 8 c.code ++ (getC s th 7).extractLsb' 24 24 ++ w, refOf s th, 0, none⟩))

/-- R115, R118, R281, R315: TRAP traps TRAP_INSN with its word in c10, BRK traps BREAKPOINT, and a word that is no
instruction traps ILLEGAL_INSN. -/
def Sys2Proof.Claims.TrapInstructions : Prop :=
  ∀ (s : State),
    (∀ k, Traps s (.trap k) .trapInsn) ∧ Traps s .brk .breakpoint ∧
    (∀ w, s.doing = some (.illegalInsn w) → exec .illegalInsn s = .next (takeTrap s s.cur .illegalInsn w none))

/-- R128: a trap of one side of a pair changes no row: it is noted for that side, at the count of instructions it has
retired, and a checkpoint is called. -/
def Sys2Proof.Claims.TrapInPair : Prop :=
  ∀ (s : State) (th : Thr) (c : Cause) (w : InsnWord) (p : PairSt), pairOf s th = some p →
    let t := takeTrap s th c w none
    t.mem = s.mem ∧ t.agenda = s.agenda ∧ t.cores = s.cores ∧
    ∀ q ∈ t.pairs, q.leader = p.leader → q.called = true ∧
      (p.leader = th → q.trapLead = some (c, getC s th 14)) ∧ (p.leader ≠ th → q.trapFoll = some (c, getC s th 14))

/-! ## The own row (R22, R324, R325) -/

namespace Sys2Proof.Claims

/-- Byte b of the thread's row as it reads: s0 as zero and p0 as ones (R20), bits 62 and 63 of c5 as ones (R23), and CORESTAT and the
count of activations in the service row (R30, R31). -/
def ownByte (s : State) (th : Thr) (b : Nat) : Byte :=
  if b < 8 then 0 else if 1024 ≤ b ∧ b < 1028 then 0xFF
  else if b = 4015 then Memory.get s.mem (ownAddr th b) ||| 0xC0
  else if th.row = 84 ∧ 3936 ≤ b ∧ b < 3944 then (corestat s th.core).extractLsb' (8 * (b - 3936)) 8
  else if th.row = 84 ∧ 3944 ≤ b ∧ b < 3952 then (getCore s th.core).actCount.extractLsb' (8 * (b - 3944)) 8
  else Memory.get s.mem (ownAddr th b)

/-- Byte b as the thread of a pair reads it: c7 is the leader's (R312). -/
def pairByte (s : State) (th : Thr) (b : Nat) : Byte :=
  match pairOf s th with
  | some p => if 4024 ≤ b ∧ b < 4032 then Memory.get s.mem (cAddr p.leader 7 + (b - 4024)) else ownByte s th b
  | none => ownByte s th b

/-- The n bytes at a own-row address, lowest first, spell x. -/
def Spells (s : State) (th : Thr) (a n x : Nat) : Prop :=
  x < 256 ^ n ∧ ∀ i, i < n → x / 256 ^ i % 256 = (pairByte s th (a + i)).toNat

/-- The trap that R324 and R325 give an access of n bytes at a; a handler's store keeps off bytes 1056 to 3967 as well (R108).  What
a store meets is asked of its first byte: the pseudocode's words, where R22 speaks of all its bytes (log 49). -/
def ownFault (s : State) (a : Int) (n : Nat) (store : Bool) : Option Cause :=
  if a < 0 ∨ (if isWide s s.cur then 8192 else 4096) < a + n ∨ (store = true ∧ 3968 ≤ a ∧ a < 4096)
      ∨ (store = true ∧ s.cur.row = 84 ∧ 1056 ≤ a ∧ a < 3968) then some .rowProtect
  else if a % n ≠ 0 then some .misaligned
  else none

/-- The own-row address of an access. -/
def ownSum (s : State) (a : SReg) (off : Int) : Int := (getS s s.cur a).toInt + off

/-- i stores the n low bytes of x at own-row address a, s0 and p0 apart, and nothing else changes. -/
def GivesStore (s : State) (i : Instr) (a n x : Nat) (v : Word) : Prop :=
  Gives i s fun t =>
    Retired s t s.cur (nextPc s s.cur) v ∧
    (∀ k, k < n → Memory.get t.mem (ownAddr s.cur (a + k)) =
      if a + k < 8 ∨ (1024 ≤ a + k ∧ a + k < 1028) then Memory.get s.mem (ownAddr s.cur (a + k)) else BitVec.ofNat 8 (x / 256 ^ k)) ∧
    UnchangedBut s t (fun b => retireBytes s s.cur b ∨ within (ownAddr s.cur a) n b) ∧ SameModule s t

/-- Every vector register that is named exists for the thread: v16 to v31 need a wide thread (R40). -/
def VLegal (s : State) (vs : List VReg) : Prop := isWide s s.cur = true ∨ ∀ v ∈ vs, v.toNat < 16

/-- The four words of a vector, combined (R124). -/
def vecFold (x : Vec) : Word :=
  (x.extractLsb' 0 64 ^^^ x.extractLsb' 64 64) ^^^ (x.extractLsb' 128 64 ^^^ x.extractLsb' 192 64)

end Sys2Proof.Claims

/-- R324, R325: LDR and VLDR read their bytes, little-endian, LDR sign- or zero-extended. -/
def Sys2Proof.Claims.OwnRowLoads : Prop :=
  ∀ (s : State) (a : SReg), SReadable s s.cur [a] →
    (∀ (d : SReg) (z : Size) (sx : Bool) (o : BitVec 11),
      let n := z.bytes
      let at' := ownSum s a o.toInt
      ownFault s at' n false = none → Readable s (wordsOf (ownAddr s.cur at'.toNat) n) →
      ∃ x, Spells s s.cur at'.toNat n x ∧
        GivesS s (.ldr d a z sx o) d (if sx then sextOf (8 * n) (BitVec.ofNat 64 x) else BitVec.ofNat 64 x)) ∧
    (∀ (v : VReg) (o : BitVec 9),
      let at' := ownSum s a (32 * o.toInt)
      VLegal s [v] → ownFault s at' 32 false = none → Readable s (wordsOf (ownAddr s.cur at'.toNat) 32) →
      ∃ x, Spells s s.cur at'.toNat 32 x ∧ Gives (.vldr v a o) s fun t => VecResult s t s.cur v (BitVec.ofNat 256 x) 0)

/-- R324, R325: STR and VSTR write their bytes and no other; s0 and p0 stay (R20). -/
def Sys2Proof.Claims.OwnRowStores : Prop :=
  ∀ (s : State) (a : SReg),
    (∀ (d : SReg) (z : Size) (o : BitVec 11),
      let n := z.bytes
      let at' := ownSum s a o.toInt
      let x := (getS s s.cur d).toNat % 256 ^ n
      SReadable s s.cur [a, d] → ownFault s at' n true = none →
      GivesStore s (.str d a z o) at'.toNat n x (BitVec.ofNat 64 at'.toNat ^^^ BitVec.ofNat 64 x)) ∧
    (∀ (v : VReg) (o : BitVec 9),
      let at' := ownSum s a (32 * o.toInt)
      SReadable s s.cur [a] → Readable s (wordsOf (vAddr s.cur v.toNat) 32) → VLegal s [v] → ownFault s at' 32 true = none →
      GivesStore s (.vstr v a o) at'.toNat 32 (getV s s.cur v).toNat (BitVec.ofNat 64 at'.toNat ^^^ vecFold (getV s s.cur v)))

/-- R22, R108, R324, R325: an access outside the row or row pair, a store into the control block, or a handler's store into the tables
of the service row, takes ROW_PROTECT; any other that is not aligned takes MISALIGNED (that a store's first byte decides is log 49). -/
def Sys2Proof.Claims.OwnRowTraps : Prop :=
  ∀ (s : State) (a d : SReg) (v : VReg) (c : Cause), Readable s (sWords s.cur [a]) →
    (∀ (z : Size) (o : BitVec 11),
      (∀ sx, ownFault s (ownSum s a o.toInt) z.bytes false = some c → Traps s (.ldr d a z sx o) c) ∧
      (ownFault s (ownSum s a o.toInt) z.bytes true = some c → Traps s (.str d a z o) c)) ∧
    (∀ o : BitVec 9, VLegal s [v] →
      (ownFault s (ownSum s a (32 * o.toInt)) 32 false = some c → Traps s (.vldr v a o) c) ∧
      (ownFault s (ownSum s a (32 * o.toInt)) 32 true = some c → Traps s (.vstr v a o) c))

/-! ## Vectors and predicates (R21, R342 to R359) -/

namespace Sys2Proof.Claims

/-- Lane i of E bytes (R287). -/
def lane (E : Nat) (v : Vec) (i : Nat) : Nat := (v.extractLsb' (8 * E * i) (8 * E)).toNat
/-- A lane as a signed number, and as a type has it (R219). -/
def slane (E x : Nat) : Int := (BitVec.ofNat (8 * E) x).toInt
def tlane (t : VType) (x : Nat) : Int :=
  match t with
  | .i8 | .i16 | .i32 | .i64 => slane t.size x
  | .z8 | .z16 | .z32 | .z64 | .f16 | .bf16 | .f32 | .f64 | .e4m3 | .e5m2 => (x : Int)
/-- An exact value as w bits hold it (R219). -/
def lowBits (w : Nat) (x : Int) : Nat := (BitVec.ofInt w x).toNat
/-- Element i of size E is active (R21). -/
def on (s : State) (g : PReg) (E i : Nat) : Bool := (getP s s.cur g).getLsbD (i * E)

/-- The vector registers vs and predicates ps exist and can be read, and so can the words ws. -/
def VReadable (s : State) (named read : List VReg) (ps : List PReg) (ws : List Nat) : Prop :=
  RetireReadable s s.cur ∧ VLegal s named ∧ Readable s (ws ++ vWords s.cur read ++ pWords s.cur ps)

/-- The conditions of the active lanes together. -/
def laneFlags (s : State) (g : PReg) (E : Nat) (f : Nat → Word) : Word :=
  ((List.range (32 / E)).map fun i => if on s g E i then f i else 0).foldl (· ||| ·) 0

/-- x is the old value of v with f in the first n lanes of size E that are active. -/
def IsMerged (s : State) (v : VReg) (act : Nat → Bool) (E : Nat) (f : Nat → Nat) (x : Vec) : Prop :=
  ∀ i, i < 32 / E → lane E x i = if act i then f i else lane E (getV s s.cur v) i

/-- i writes f to the active lanes of v and changes nothing else. -/
def GivesV (s : State) (i : Instr) (v : VReg) (g : PReg) (E : Nat) (f : Nat → Nat) : Prop :=
  ∃ x, IsMerged s v (on s g E) E f x ∧ Gives i s fun t => VecResult s t s.cur v x 0

/-- The same with conditions: c3 is read where one is raised (R130). -/
def GivesVF (s : State) (i : Instr) (v : VReg) (g : PReg) (E : Nat) (f : Nat → FRes) : Prop :=
  let fl := laneFlags s g E fun k => (f k).2
  (fl ≠ 0 → Readable s [cAddr s.cur 3]) →
  ∃ x, IsMerged s v (on s g E) E (fun k => (f k).1) x ∧ Gives i s fun t => VecResult s t s.cur v x fl

/-- i is a long vector operation: it will write f to the active lanes of v, and raise its flags, after so many cycles. -/
def GivesVLong (s : State) (i : Instr) (v : VReg) (g : PReg) (E cycles : Nat) (f : Nat → FRes) : Prop :=
  ∃ x : Vec, ∃ m : Pred, (∀ k, k < 32 / E → lane E x k = (f k).1 % 2 ^ (8 * E)) ∧ (∀ b, b < 32 → m.getLsbD b = on s g E (b / E)) ∧
    Gives i s fun t => Started s t s.cur cycles (.v v.toNat x m) (laneFlags s g E fun k => (f k).2)

/-- Clamp to the range of an integer type (R221). -/
def clampT (t : VType) (x : Int) : FRes :=
  let w := 8 * t.size
  let lo : Int := match t with | .i8 | .i16 | .i32 | .i64 => -2 ^ (w - 1) | _ => 0
  let hi : Int := match t with | .i8 | .i16 | .i32 | .i64 => 2 ^ (w - 1) - 1 | _ => 2 ^ w - 1
  if x < lo then (lowBits w lo, 0x20) else if hi < x then (lowBits w hi, 0x20) else (lowBits w x, 0)

end Sys2Proof.Claims

/-- R221, R346: the lanes of the integer instructions; the inactive ones stay. -/
def Sys2Proof.Claims.VectorIntegerLanes : Prop :=
  ∀ (s : State) (v a b : VReg) (g : PReg) (t : VType), t.isInt = true → VReadable s [v, a, b] [a, b] [g] [] →
    let E := t.size
    let w := 8 * E
    let x := lane E (getV s s.cur a)
    let y := lane E (getV s s.cur b)
    let k := fun i => y i % w
    GivesV s (.vadd v a b g t) v g E (fun i => (x i + y i) % 2 ^ w) ∧
    GivesV s (.vsub v a b g t) v g E (fun i => lowBits w ((x i : Int) - (y i : Int))) ∧
    GivesV s (.vmul v a b g t) v g E (fun i => x i * y i % 2 ^ w) ∧
    GivesV s (.vmulh v a b g t) v g E (fun i => lowBits w (tlane t (x i) * tlane t (y i) / 2 ^ w)) ∧
    GivesV s (.vand v a b g t) v g E (fun i => x i &&& y i) ∧
    GivesV s (.vor v a b g t) v g E (fun i => x i ||| y i) ∧
    GivesV s (.vxor v a b g t) v g E (fun i => x i ^^^ y i) ∧
    GivesV s (.vshl v a b g t) v g E (fun i => x i * 2 ^ k i % 2 ^ w) ∧
    GivesV s (.vshr v a b g t) v g E (fun i => x i / 2 ^ k i) ∧
    GivesV s (.vsra v a b g t) v g E (fun i => lowBits w (slane E (x i) / 2 ^ k i)) ∧
    GivesV s (.vmin v a b g t) v g E (fun i => lowBits w (min (tlane t (x i)) (tlane t (y i)))) ∧
    GivesV s (.vmax v a b g t) v g E (fun i => lowBits w (max (tlane t (x i)) (tlane t (y i)))) ∧
    GivesVF s (.vsadd v a b g t) v g E (fun i => clampT t (tlane t (x i) + tlane t (y i))) ∧
    GivesVF s (.vssub v a b g t) v g E (fun i => clampT t (tlane t (x i) - tlane t (y i)))

/-- R346, R347: the lanes of the unary integer forms and of the three forms that copy bits. -/
def Sys2Proof.Claims.VectorUnaryLanes : Prop :=
  ∀ (s : State) (v a b : VReg) (g : PReg) (t : VType), VReadable s [v, a, b] [a, b] [g] [] →
    let E := t.size
    let w := 8 * E
    let x := lane E (getV s s.cur a)
    let y := lane E (getV s s.cur b)
    (t.isInt = true →
      GivesV s (.vabs v a g t) v g E (fun i => (tlane t (x i)).natAbs % 2 ^ w) ∧
      GivesV s (.vpopc v a g t) v g E (fun i => (List.range w).countP fun n => (x i).testBit n)) ∧
    (t.isArith = true →
      GivesV s (.vfabs v a g t) v g E (fun i => x i % 2 ^ (w - 1)) ∧
      GivesV s (.vfneg v a g t) v g E (fun i => (x i + 2 ^ (w - 1)) % 2 ^ w) ∧
      GivesV s (.vfcopys v a b g t) v g E (fun i => x i % 2 ^ (w - 1) + (if 2 ^ (w - 1) ≤ y i then 2 ^ (w - 1) else 0)))

/-- R347, R348: the lanes of the one-turn floating-point instructions, in the environment of c3. -/
def Sys2Proof.Claims.VectorFloatLanes : Prop :=
  ∀ (s : State) (v a b : VReg) (g : PReg),
    let x := getV s s.cur a
    let y := getV s s.cur b
    let e := c3Env s .dyn
    (∀ t : VType, t.isArith = true → VReadable s [v, a, b] [a, b] [g] [cAddr s.cur 3] →
      let E := t.size
      let on2 := fun (f : Nat → Nat → FRes) (i : Nat) => f (lane E x i) (lane E y i)
      GivesVF s (.vfadd v a b g t) v g E (on2 (fadd (fmtOf t) e)) ∧
      GivesVF s (.vfsub v a b g t) v g E (on2 (fsub (fmtOf t) e)) ∧
      GivesVF s (.vfmul v a b g t) v g E (on2 (fmul (fmtOf t) e)) ∧
      GivesVF s (.vfmin v a b g t) v g E (on2 (fminmax (fmtOf t) e.daz false)) ∧
      GivesVF s (.vfmax v a b g t) v g E (on2 (fminmax (fmtOf t) e.daz true))) ∧
    (∀ (f : FType) (c : VReg), VReadable s [v, a, b, c] [a, b, c] [g] [cAddr s.cur 3] →
      let t := FType.vtype f
      GivesVF s (.vfma v a b c g f) v g t.size fun i =>
        ffma (fmtOf t) e false false (lane t.size x i) (lane t.size y i) (lane t.size (getV s s.cur c) i))

/-- R231, R344, R347, R355: the long vector operations, with their latencies; which neighbour VEXP2, VLOG2, VSIN, VCOS and
VTANH return is the model's free value (log 10). -/
def Sys2Proof.Claims.VectorLongOperations : Prop :=
  ∀ (s : State) (v a b : VReg) (g : PReg) (t : VType), t.isArith = true → VReadable s [v, a, b] [a, b] [g] [cAddr s.cur 3] →
    let E := t.size
    let x := lane E (getV s s.cur a)
    let y := lane E (getV s s.cur b)
    let e := c3Env s .dyn
    let div := match t with | .f64 => 48 | .f32 => 28 | _ => 20
    let sfu := match t with | .f64 => 48 | .f32 => 32 | _ => 24
    GivesVLong s (.vfdiv v a b g t) v g E div (fun i => fdiv (fmtOf t) e (x i) (y i)) ∧
    GivesVLong s (.vfsqrt v a g t) v g E div (fun i => fsqrt (fmtOf t) e (x i)) ∧
    GivesVLong s (.vrcp v a g t) v g E sfu (fun i => fdivVal (fmtOf t) e (.fin false 1 0) ((fmtOf t).unpack e.daz (x i))) ∧
    GivesVLong s (.vrsq v a g t) v g E sfu (fun i => sfuRsq t e (x i)) ∧
    (t ≠ .f64 →
      GivesVLong s (.vexp2 v a g t) v g E sfu (fun i => sfuExp2 t e (x i)) ∧
      GivesVLong s (.vlog2 v a g t) v g E sfu (fun i => sfuLog2 t e (x i)) ∧
      GivesVLong s (.vsin v a g t) v g E sfu (fun i => sfuSinCos false t e (x i)) ∧
      GivesVLong s (.vcos v a g t) v g E sfu (fun i => sfuSinCos true t e (x i)) ∧
      GivesVLong s (.vtanh v a g t) v g E sfu (fun i => sfuTanh t e (x i)))

/-- R231, R355: the exact cases of the special functions: a quiet NaN, zeros, infinities and numbers outside the domain. -/
def Sys2Proof.Claims.SpecialFunctionCases : Prop :=
  ∀ (t : VType) (e : FEnv), t.isArith = true →
    let f := fmtOf t
    let zero := fun neg => f.sign neg
    (∀ neg, sfuRsq t e (zero neg) = (f.inf neg, fDZ)) ∧ sfuRsq t e (f.inf false) = (0, 0) ∧ sfuRsq t e (f.inf true) = (f.nan, fNV) ∧
    (∀ neg, sfuRcp t e (zero neg) = (f.inf neg, fDZ) ∧ sfuRcp t e (f.inf neg) = (zero neg, 0)) ∧
    sfuExp2 t e (f.inf true) = (0, 0) ∧ sfuExp2 t e (f.inf false) = (f.inf false, 0) ∧
    (∀ neg, sfuLog2 t e (zero neg) = (f.inf true, fDZ)) ∧ sfuLog2 t e (f.inf false) = (f.inf false, 0) ∧
    sfuLog2 t e (f.inf true) = (f.nan, fNV) ∧
    (∀ neg, sfuSinCos false t e (zero neg) = (zero neg, 0) ∧ sfuSinCos false t e (f.inf neg) = (f.nan, fNV) ∧
      sfuSinCos true t e (f.inf neg) = (f.nan, fNV) ∧ sfuTanh t e (zero neg) = (zero neg, 0)) ∧
    (∀ x, f.unpack e.daz x = .nan false →
      sfuRsq t e x = (f.nan, 0) ∧ sfuRcp t e x = (f.nan, 0) ∧ sfuExp2 t e x = (f.nan, 0) ∧ sfuLog2 t e x = (f.nan, 0) ∧
      sfuSinCos false t e x = (f.nan, 0) ∧ sfuTanh t e x = (f.nan, 0))

namespace Sys2Proof.Claims

/-- i writes to p[d] the predicate whose bits f gives, and raises the flags fl. -/
def GivesP (s : State) (i : Instr) (d : PReg) (fl : Word) (f : Nat → Bool) : Prop :=
  ∃ x : Pred, (∀ n, n < 32 → x.getLsbD n = f n) ∧ Gives i s fun t => PredResult s t s.cur d x fl

/-- A relation between two numbers (R349). -/
def rel (c : VCond) (x y : Int) : Bool :=
  match c with
  | .eq => x = y | .ne => x ≠ y | .lt => x < y | .le => x ≤ y | .gt => y < x | .ge => y ≤ x

/-- Predicates that can be read. -/
def PReadable (s : State) (ps : List PReg) : Prop := RetireReadable s s.cur ∧ Readable s (pWords s.cur ps)

end Sys2Proof.Claims

/-- R349: VCMP sets the whole group of every element in the three modes; integers compare by their signedness, floating
types as R230 says, with the conditions of the active lanes. -/
def Sys2Proof.Claims.VectorCompare : Prop :=
  ∀ (s : State) (d : PReg) (a b : VReg) (g : PReg) (k : VCond) (t : VType) (m : VMode),
    (t.isInt || t.isArith) = true → VReadable s [a, b] [a, b] [g, d] [cAddr s.cur 3] →
    let E := t.size
    let x := lane E (getV s s.cur a)
    let y := lane E (getV s s.cur b)
    let r := fun i => if t.isInt then (rel k (tlane t (x i)) (tlane t (y i)), (0 : Word))
      else fcompare (fmtOf t) (c3Env s .dyn).daz k (x i) (y i)
    GivesP s (.vcmp d a b g k t m) d (laneFlags s g E fun i => (r i).2) fun n =>
      let i := n / E
      match m with
      | .write => on s g E i && (r i).1
      | .merge => if on s g E i then (r i).1 else (getP s s.cur d).getLsbD n
      | .and => on s g E i && (r i).1 && (getP s s.cur d).getLsbD n

/-- R350: the forms that move lanes. -/
def Sys2Proof.Claims.VectorRearrangement : Prop :=
  ∀ (s : State) (v a b : VReg) (g : PReg) (t : VType), VReadable s [v, a, b] [a, b] [g] [] →
    let E := t.size
    let n := 32 / E
    let x := lane E (getV s s.cur a)
    let y := lane E (getV s s.cur b)
    -- the number of active lanes below lane i
    let before := fun i => (List.range i).countP (on s g E)
    let k := ((getV s s.cur b).extractLsb' 0 64).toInt
    let all := fun (i : Instr) (f : Nat → Nat) =>
      ∃ z, (∀ j, j < n → lane E z j = f j) ∧ Gives i s fun u => VecResult s u s.cur v z 0
    all (.vsel v a b g t) (fun i => if on s g E i then x i else y i) ∧
    all (.vexpand v a b g t) (fun i => if on s g E i then x (before i) else y i) ∧
    (∃ z, (∀ i, i < n → on s g E i = true → lane E z (before i) = x i) ∧ (∀ i, before n ≤ i → i < n → lane E z i = y i) ∧
      Gives (.vcompress v a b g t) s fun u => VecResult s u s.cur v z 0) ∧
    GivesV s (.vperm v a b g t) v g E (fun i => if y i < n then x (y i) else 0) ∧
    GivesV s (.vslide v a b g t) v g E (fun i => if 0 ≤ (i : Int) - k ∧ (i : Int) - k < n then x ((i : Int) - k).toNat else 0)

/-- R351: VCVT converts the first 32 ÷ max(E) elements that are active at the destination's size, and no other byte
changes. -/
def Sys2Proof.Claims.VectorConversion : Prop :=
  ∀ (s : State) (v a : VReg) (r : RField) (o : OvMode) (g : PReg) (t u : VType),
    cvtOk t u o = true → VReadable s [v, a] [a] [g] [cAddr s.cur 3] →
    let n := 32 / max t.size u.size
    let c := fun i => convertLane t u (c3Env s r) o (lane u.size (getV s s.cur a) i)
    let fl := ((List.range n).map fun i => if on s g t.size i then (c i).2 else 0).foldl (· ||| ·) 0
    ∃ z, IsMerged s v (fun i => decide (i < n) && on s g t.size i) t.size (fun i => (c i).1) z ∧
      Gives (.vcvt v a r o g t u) s fun w => VecResult s w s.cur v z fl

namespace Sys2Proof.Claims

/-- One node of a reduction (R232): the operation of a type, with the environment of c3. -/
def node (o : RedOp) (t : VType) (e : FEnv) (x y : Nat) : FRes :=
  let w := 8 * t.size
  match o with
  | .and => (x &&& y, 0)
  | .or => (x ||| y, 0)
  | .xor => (x ^^^ y, 0)
  | .sum => if t.isInt then ((x + y) % 2 ^ w, 0) else fadd (fmtOf t) e x y
  | .min => if t.isInt then (lowBits w (min (tlane t x) (tlane t y)), 0) else flushResult (fmtOf t) e.fz (fminmax (fmtOf t) e.daz false x y)
  | .max => if t.isInt then (lowBits w (max (tlane t x) (tlane t y)), 0) else flushResult (fmtOf t) e.fz (fminmax (fmtOf t) e.daz true x y)

/-- The value of node i of level k of the tree of R232, and its conditions with those below it. -/
def treeNode (o : RedOp) (t : VType) (e : FEnv) (leaf : Nat → Nat) : Nat → Nat → FRes
  | 0, i => (leaf i, 0)
  | k + 1, i =>
    let l := treeNode o t e leaf k (2 * i)
    let r := treeNode o t e leaf k (2 * i + 1)
    let x := node o t e l.1 r.1
    (x.1, x.2 ||| (l.2 ||| r.2))

/-- The identity of an operation (R232): −0.0 for a floating sum, the infinities for floating MIN and MAX. -/
def identity (o : RedOp) (t : VType) : Nat :=
  let w := 8 * t.size
  let signed : Bool := match t with | .i8 | .i16 | .i32 | .i64 => true | _ => false
  match o with
  | .and => 2 ^ w - 1
  | .or | .xor => 0
  | .sum => if t.isInt then 0 else 2 ^ (w - 1)
  | .min => if t.isInt then (if signed then 2 ^ (w - 1) - 1 else 2 ^ w - 1) else (fmtOf t).inf false
  | .max => if t.isInt then (if signed then 2 ^ (w - 1) else 0) else (fmtOf t).inf true

/-- An operation accepts a type (R352). -/
def redOk (o : RedOp) (t : VType) : Prop :=
  t.isInt = true ∨ t.isArith = true ∧ (match o with | .sum | .min | .max => True | .and | .or | .xor => False)

/-- The lanes of a list that are chosen, combined in its order (R233), with the conditions of every step. -/
def inOrder (o : RedOp) (t : VType) (e : FEnv) (chosen : Nat → Bool) (x : Nat → Nat) (l : List Nat) : Option FRes :=
  (l.filter chosen).foldl (fun acc i => match acc with
    | none => some (x i, 0)
    | some y => some ((node o t e y.1 (x i)).1, y.2 ||| (node o t e y.1 (x i)).2)) none

end Sys2Proof.Claims

/-- R232, R352: VRED combines the lanes, the inactive ones as identities, by the balanced tree whose level k pairs
neighbours, writes lane 0 and zeroes the rest. -/
def Sys2Proof.Claims.VectorReduction : Prop :=
  ∀ (s : State) (v a : VReg) (g : PReg) (t : VType) (o : RedOp),
    redOk o t → VReadable s [v, a] [a] [g] [cAddr s.cur 3] →
    let E := t.size
    let leaf := fun i => if on s g E i then lane E (getV s s.cur a) i else identity o t
    let r := treeNode o t (c3Env s .dyn) leaf (Nat.log2 (32 / E)) 0
    Gives (.vred v a g t o) s fun u => VecResult s u s.cur v (BitVec.ofNat 256 r.1) r.2

/-- R233, R353: every active lane of VSCAN receives the combination of the active lanes up to itself, in ascending order. -/
def Sys2Proof.Claims.VectorScan : Prop :=
  ∀ (s : State) (v a : VReg) (g : PReg) (t : VType) (o : RedOp),
    redOk o t → VReadable s [v, a] [a] [g] [cAddr s.cur 3] →
    let E := t.size
    let x := lane E (getV s s.cur a)
    GivesVF s (.vscan v a g t o) v g E fun i => (inOrder o t (c3Env s .dyn) (on s g E) x (List.range (i + 1))).getD (0, 0)

/-- R354: VMRED writes to the leader of every distinct key among the active lanes the combination of the values under that
key, in ascending lane order, and marks the leaders in pd. -/
def Sys2Proof.Claims.VectorMultiReduction : Prop :=
  ∀ (s : State) (d : PReg) (a b : VReg) (g : PReg) (o : RedOp) (t : VType),
    redOk o t → VReadable s [a, b] [a, b] [g] [cAddr s.cur 3] →
    let E := t.size
    let key := lane E (getV s s.cur a)
    let x := lane E (getV s s.cur b)
    let leads := fun i => on s g E i && (List.range i).all fun j => !(on s g E j && key j == key i)
    let all := fun i => (inOrder o t (c3Env s .dyn) (fun j => on s g E j && key j == key i) x (List.range (32 / E))).getD (0, 0)
    let fl := ((List.range (32 / E)).map fun i => if leads i then (all i).2 else 0).foldl (· ||| ·) 0
    Gives (.vmred d a b g o t) s fun u =>
      (∀ i, i < 32 / E → lane E (getV u s.cur b) i = if leads i then (all i).1 else x i) ∧
      getC u s.cur 3 = getC s s.cur 3 ||| fl ∧
      (d ≠ 0 → ∀ n, n < 32 → (getP u s.cur d).getLsbD n = leads (n / E)) ∧
      (∃ w, Retired s u s.cur (nextPc s s.cur) w) ∧
      UnchangedBut s u (fun c => retireBytes s s.cur c ∨ within (vAddr s.cur b.toNat) 32 c ∨
        (d ≠ 0 ∧ within (pAddr s.cur d.toNat) 4 c) ∨ (fl ≠ 0 ∧ within (cAddr s.cur 3) 8 c)) ∧ SameModule s u

/-- R356: VBCAST, VINS, VEXT and VWHILE. -/
def Sys2Proof.Claims.VectorScalarMoves : Prop :=
  ∀ (s : State) (v : VReg) (a b : SReg) (g d : PReg) (z : Size),
    SReadable s s.cur [a, b] → VReadable s [v] [v] [g] [] →
    let E := z.bytes
    let n := 32 / E
    GivesV s (.vbcast v a g z) v g E (fun _ => (getS s s.cur a).toNat % 2 ^ (8 * E)) ∧
    (let k := (getS s s.cur b).toNat
     (k < n → ∃ x, IsMerged s v (fun i => i == k) E (fun _ => (getS s s.cur a).toNat % 2 ^ (8 * E)) x ∧
        Gives (.vins v a b z) s fun t => VecResult s t s.cur v x 0) ∧
     (n ≤ k → GivesPc s (.vins v a b z) (nextPc s s.cur)) ∧
     GivesS s (.vext v a b z) a (BitVec.ofNat 64 (if k < n then lane E (getV s s.cur v) k else 0))) ∧
    GivesP s (.vwhile d a b z) d 0 (fun j => decide ((getS s s.cur a).toInt + (j / E : Nat) < (getS s s.cur b).toInt))

/-- R358: the predicate operations. -/
def Sys2Proof.Claims.PredicateResults : Prop :=
  ∀ (s : State) (d p q : PReg) (a : SReg) (t : VType), PReadable s [p, q] → SReadable s s.cur [a] →
    let x := getP s s.cur p
    let y := getP s s.cur q
    let E := t.size
    let set := fun i => x.getLsbD (i * E)
    GivesP s (.pand d p q) d 0 (fun n => x.getLsbD n && y.getLsbD n) ∧
    GivesP s (.por d p q) d 0 (fun n => x.getLsbD n || y.getLsbD n) ∧
    GivesP s (.pxor d p q) d 0 (fun n => x.getLsbD n != y.getLsbD n) ∧
    GivesP s (.pnot d p) d 0 (fun n => !x.getLsbD n) ∧
    GivesS s (.pcnt a p t) a (BitVec.ofNat 64 ((List.range (32 / E)).countP set)) ∧
    GivesP s (.pfirst d p t) d 0 (fun n => set (n / E) && (List.range (n / E)).all fun i => !set i) ∧
    GivesP s (.pset d a) d 0 (fun n => (getS s s.cur a).getLsbD n)

/-- R40, R115, R360: a narrow thread that names one of v16 to v31 takes ILLEGAL_REG. -/
def Sys2Proof.Claims.NarrowThreadTraps : Prop :=
  ∀ (s : State) (v a b : VReg) (g : PReg) (x : SReg) (z : Size) (o : BitVec 9), isWide s s.cur = false → 16 ≤ v.toNat →
    Traps s (.vldr v x o) .illegalReg ∧ Traps s (.vstr v x o) .illegalReg ∧
    Traps s (.vbcast v x g z) .illegalReg ∧ Traps s (.vext v x x z) .illegalReg ∧ Traps s (.vins v x x z) .illegalReg ∧
    (∀ t : VType,
      Traps s (.vadd v a b g t) .illegalReg ∧ Traps s (.vadd a v b g t) .illegalReg ∧ Traps s (.vadd a b v g t) .illegalReg ∧
      Traps s (.vfdiv v a b g t) .illegalReg ∧ Traps s (.vsel v a b g t) .illegalReg ∧ Traps s (.vexp2 a v g t) .illegalReg ∧
      (∀ d c m, Traps s (.vcmp d a v g c t m) .illegalReg) ∧
      (∀ p r, Traps s (.vldo v g p r t) .illegalReg ∧ Traps s (.vsto v g p r t) .illegalReg ∧ Traps s (.vldb v g p r t) .illegalReg))

/-! ## Instructions that go beyond the own row: their issue (R28, R34, R322 to R341, R361 to R377) -/

namespace Sys2Proof.Claims

/-- The request of an instruction: the thread, the word for c10, and KEY and PRIV of c7. -/
def asked (s : State) (i : Instr) : Req :=
  { id := s.nextReq, thr := s.cur, insn := i, word := s.curWord, phase := .sent,
    key := (getC s s.cur 7).extractLsb' 0 16, priv := (getC s s.cur 7).getLsbD 16 }

/-- i parks its thread with KIND, CAUSE and DETAIL and the request r, and from there go begins its operation. -/
def Issues (s : State) (i : Instr) (kind cause : Nat) (detail : Word) (r : Req) (go : State → Nat → State) : Prop :=
  ∃ u, Parked s u s.cur kind cause detail r ∧ exec i s = .next (go u s.nextReq)

/-- The issuing thread is in no pair, and no step of the part is being performed. -/
def Alone (s : State) : Prop := pairOf s s.cur = none ∧ s.doing = none

/-- These registers can be read, and so can c4, c6, c7 and c8. -/
def BReadable (s : State) (rs : List SReg) : Prop :=
  SReadable s s.cur rs ∧ Readable s [cAddr s.cur 4, cAddr s.cur 6, cAddr s.cur 7, cAddr s.cur 8]

/-- Registers 2ap and 2ap + 1 (R280). -/
def even (p : Pair) : SReg := BitVec.ofNat 6 (2 * p.toNat)
def odd (p : Pair) : SReg := BitVec.ofNat 6 (2 * p.toNat + 1)

/-- A .rel or .ar ordering performs its fence first (R113). -/
def afterFence (o : Order) (go : State → Nat → State) (s : State) (id : Nat) : State :=
  match o with
  | .rel _ | .ar _ => withFence s id go
  | .plain | .acq _ => go s id

/-- Translation at the thread's tile (R152). -/
def access (s : State) (id : Nat) : State := translateReq s id none

/-- The wait limit starts with the issue: c8 bits 15:0 times 1,024 cycles, none for 0 (R25, R105). -/
def limited (go : State → Nat → State) (s : State) (id : Nat) : State :=
  match findReq s id with
  | none => s
  | some q =>
    let n := ((getC s q.thr 8).extractLsb' 0 16).toNat * 1024
    go (if n = 0 then s else post (modReq s id fun q => { q with limit := some (s.now + n) }) n (.waitLimitExpiry id)) id

/-- The atomics of R328, the compare-and-swaps apart. -/
def amos64 : List (SReg → SReg → Pair → Order → Instr) :=
  [.amoAddD, .amoAndD, .amoOrD, .amoXorD, .amoSminD, .amoSmaxD, .amoUminD, .amoUmaxD, .amoSwapD, .amoFaddD, .amoFminD, .amoFmaxD]
def amos32 : List (SReg → SReg → Pair → Order → Instr) :=
  [.amoAddW, .amoAndW, .amoOrW, .amoXorW, .amoSminW, .amoSmaxW, .amoUminW, .amoUmaxW, .amoSwapW, .amoFaddW, .amoFminW, .amoFmaxW]

end Sys2Proof.Claims

/-- R322, R326, R328: loads, stores, atomics and the posted full/empty forms park with KIND MEM, their CAUSE and the handle,
carry handle, coordinates and operands, perform their fence first where the ordering asks for one, and are translated. -/
def Sys2Proof.Claims.ObjectAccessesIssue : Prop :=
  ∀ (s : State) (d a : SReg) (p : Pair) (o : Order) (z : Size), Alone s → BReadable s [even p, odd p, a, d] →
    let h := getS s s.cur (even p)
    let q := fun i => { asked s i with handle := h, coord := getS s s.cur (odd p) }
    let issues := fun (i : Instr) (cause : Nat) (r : Req) => Issues s i 1 cause (h &&& 0xFFFFFFFF) r (afterFence o access)
    issues (.ldo d p o z) 0x1A (q (.ldo d p o z)) ∧
    issues (.sto a p o z) 0x1A { q (.sto a p o z) with x := getS s s.cur a } ∧
    issues (.stff a p o) 0x1A { q (.stff a p o) with x := getS s s.cur a } ∧
    issues (.sete p o) 0x1A (q (.sete p o)) ∧
    (∀ f ∈ amos64, issues (f d a p o) 0x1B { q (f d a p o) with x := getS s s.cur a }) ∧
    (∀ f ∈ amos32, issues (f d a p o) 0x1C { q (f d a p o) with x := getS s s.cur a }) ∧
    issues (.amoCasD d a p o) 0x1B { q (.amoCasD d a p o) with x := getS s s.cur a, y := getS s s.cur d } ∧
    issues (.amoCasW d a p o) 0x1C { q (.amoCasW d a p o) with x := getS s s.cur a, y := getS s s.cur d }

/-- R105, R108, R327, R329: the waiting forms park with KIND FE and their function as CAUSE, under the wait limit of c8, and are
illegal in a handler; the vector forms park with CAUSE 0x1D and take their predicate and vector along. -/
def Sys2Proof.Claims.WaitingAndVectorAccessesIssue : Prop :=
  ∀ (s : State) (d a : SReg) (v : VReg) (g : PReg) (p : Pair) (o : Order) (t : VType), Alone s → BReadable s [even p, odd p, a, d] →
    let h := getS s s.cur (even p)
    let q := fun i => { asked s i with handle := h, coord := getS s s.cur (odd p) }
    let issues := fun (i : Instr) (kind cause : Nat) (r : Req) (go : State → Nat → State) => Issues s i kind cause (h &&& 0xFFFFFFFF) r go
    (s.cur.row ≠ 84 →
      issues (.ldfe d p o) 2 8 (q (.ldfe d p o)) (limited (afterFence o access)) ∧
      issues (.ldff d p o) 2 9 (q (.ldff d p o)) (limited (afterFence o access)) ∧
      issues (.stef a p o) 2 10 { q (.stef a p o) with x := getS s s.cur a } (limited (afterFence o access))) ∧
    (s.cur.row = 84 →
      Traps s (.ldfe d p o) .illegalInsn ∧ Traps s (.ldff d p o) .illegalInsn ∧ Traps s (.stef a p o) .illegalInsn) ∧
    (VLegal s [v] → Readable s (pWords s.cur [g] ++ vWords s.cur [v]) →
      let lanes := fun r : Req => { r with y := (getP s s.cur g).setWidth 64, z := BitVec.allOnes 64 }
      issues (.vldo v g p o t) 1 0x1D (lanes (q (.vldo v g p o t))) (afterFence o access) ∧
      issues (.vldb v g p o t) 1 0x1D (lanes (q (.vldb v g p o t))) (afterFence o access) ∧
      issues (.vsto v g p o t) 1 0x1D { lanes (q (.vsto v g p o t)) with vec := getV s s.cur v } (afterFence o access))

/-- R331, R332: the object-management instructions park with KIND MEM, CAUSE 0x1E and the handle; COMMIT, FILLC and OBJSYNC perform
a fence; modes 1 and 2 of FREE, and OBJSYNC, are privileged. -/
def Sys2Proof.Claims.ObjectManagementIssues : Prop :=
  ∀ (s : State) (d a : SReg) (p : Pair), Alone s → BReadable s [even p, odd p, a] →
    let h := getS s s.cur (even p)
    let c := getS s s.cur (odd p)
    let q := fun i => { asked s i with handle := h, coord := c }
    let issues := fun (i : Instr) (r : Req) (go : State → Nat → State) => Issues s i 1 0x1E (h &&& 0xFFFFFFFF) r go
    let fenced := fun (u : State) (id : Nat) => withFence u id opStart
    issues (.objq d a p) { q (.objq d a p) with x := getS s s.cur a } access ∧
    issues (.commit d a p) { q (.commit d a p) with x := getS s s.cur a } fenced ∧
    issues (.decommit d p) (q (.decommit d p)) opStart ∧
    issues (.alloc d p) (q (.alloc d p)) opStart ∧
    issues (.reloc d a p) { q (.reloc d a p) with x := getS s s.cur a } opStart ∧
    issues (.fillc d a p) { q (.fillc d a p) with x := getS s s.cur a } fenced ∧
    (let m := c.toNat % 256
     (isPriv s s.cur = true ∨ (m ≠ 1 ∧ m ≠ 2) → issues (.free d a p) { q (.free d a p) with x := getS s s.cur a } opStart) ∧
     (isPriv s s.cur = false → m = 1 ∨ m = 2 → Traps s (.free d a p) .priv)) ∧
    (isPriv s s.cur = true → issues (.objsync d p) { asked s (.objsync d p) with handle := h } startSync) ∧
    (isPriv s s.cur = false → Traps s (.objsync d p) .priv)

/-- R333 to R337: row-space instructions park with CAUSE 0x1F and the reference, word index and operands; HDL is a write of word 496; an
RCAS whose sd is odd, and an MSEND with ap 31, take ILLEGAL_REG; MSEND takes its five registers along. -/
def Sys2Proof.Claims.RowSpaceAndMessagesIssue : Prop :=
  ∀ (s : State) (d r a : SReg) (w : BitVec 9) (o : ROrder) (p : Pair) (k : Order), Alone s →
    BReadable s [r, d, d + 1, a, even p, odd p, odd p + 1] →
    let fenced := match o with | .rel | .ar => (fun u id => withFence u id sendRow) | .plain | .acq => sendRow
    let q := fun (i : Instr) (n : Word) => { asked s i with handle := getS s s.cur r, z := n }
    let x := getS s s.cur d
    let issues := fun (i : Instr) (r : Req) => Issues s i 1 0x1F 0 r fenced
    issues (.rld d r w o) (q (.rld d r w o) (BitVec.ofNat 64 w.toNat)) ∧
    issues (.rst d r w o) { q (.rst d r w o) (BitVec.ofNat 64 w.toNat) with x := x } ∧
    issues (.hdl d r o) { q (.hdl d r o) 496 with x := x } ∧
    issues (.ramoadd d r w o) { q (.ramoadd d r w o) (BitVec.ofNat 64 w.toNat) with x := x } ∧
    (d.toNat % 2 = 0 → issues (.rcas d r w o)
      { q (.rcas d r w o) (BitVec.ofNat 64 w.toNat) with x := x, y := getS s s.cur (d + 1) }) ∧
    (d.toNat % 2 = 1 → Traps s (.rcas d r w o) .illegalReg) ∧
    (p.toNat ≠ 31 → Issues s (.msend d a p k) 1 0x21 0
      { asked s (.msend d a p k) with handle := x, coord := getS s s.cur a, x := getS s s.cur (even p), y := getS s s.cur (odd p),
                                      z := getS s s.cur (odd p + 1) }
      (afterFence k sendMsg)) ∧
    (p.toNat = 31 → Traps s (.msend d a p k) .illegalReg)

/-- R335, R339, R376: FENCE in its three forms, IBRECV, IBPEEK, IBDROP, YIELD, PARK and EXIT. -/
def Obligations.FencesAndWaitsIssue : Prop :=
  ∀ (s : State) (k : Scope) (d : SReg), Alone s → BReadable s [] →
    let answered := fun (u : State) (id : Nat) => replyArrives u id (.value 0 false)
    Issues s (.fence k) 1 0x20 0 (asked s (.fence k)) (fun u id => withFence u id answered) ∧
    Issues s (.fenceRel k) 1 0x20 0 (asked s (.fenceRel k)) (fun u id => withFence u id answered) ∧
    Issues s (.fenceAcq k) 1 0x20 0 (asked s (.fenceAcq k)) answered ∧
    Issues s .exit 1 0x20 0 (asked s .exit) (fun u id => withFence u id answered) ∧
    (State.Named s →
      Issues s (.ibpeek d) 1 0x21 0 (asked s (.ibpeek d)) (fun u id =>
        replyArrives u id (.value (BitVec.ofNat 256 (entryCount u s.cur % 18446744073709551616)) false)) ∧
      Issues s .ibdrop 1 0x21 0 (asked s .ibdrop) (fun u id =>
        replyArrives (match firstEntry u s.cur with | none => u | some (e, _) => removeEntry u s.cur.core e) id (.value 0 false))) ∧
    (s.cur.row ≠ 84 →
      (d.toNat % 2 = 0 → Issues s (.ibrecv d) 3 0 0 (asked s (.ibrecv d)) startRecv) ∧
      (d.toNat % 2 = 1 → Traps s (.ibrecv d) .illegalReg) ∧
      Issues s .park 6 1 0 (asked s .park) (fun u _ => u) ∧
      Gives .yield s fun t =>
        tstate t s.cur = stParked ∧ getC t s.cur 2 = 6 ∧ (getThr t s.cur).yielded = true ∧
        UnchangedBut s t (parkBytes s.cur) ∧ SameModule s t) ∧
    (s.cur.row = 84 → Traps s (.ibrecv d) .illegalInsn ∧ Traps s .park .illegalInsn ∧ Traps s .yield .illegalInsn)

namespace Sys2Proof.Claims

/-- Where the n bytes of a command block or packet stand: own-row bytes 1056 to 3967, a multiple of 8 (R362). -/
def blockOk (x n : Nat) : Prop := 1056 ≤ x ∧ x + n ≤ 3968 ∧ x % 8 = 0
/-- Its words. -/
def blockAt (s : State) (x n : Nat) : List Word := (List.range (n / 8)).map fun i => getWord s (rowAddr s.cur.core s.cur.row + x + 8 * i)
def blockWords (s : State) (x n : Nat) : List Nat := (List.range (n / 8)).map fun i => rowAddr s.cur.core s.cur.row + x + 8 * i

/-- The commands that take a block of n bytes: constructor, bytes, KIND and CAUSE (R361, R369). -/
def blockCommands : List ((SReg → SReg → Instr) × Nat × Nat × Nat × (State → Nat → State)) :=
  [(.mldb, 64, 4, 0x31, toMatrix), (.mmul, 64, 4, 0x32, toMatrix),
   (.cpy, 64, 4, 0x36, toStreamer), (.cpyx, 64, 4, 0x36, toStreamer), (.cpyc, 64, 4, 0x36, toStreamer),
   (.gath, 64, 4, 0x37, toGather), (.scat, 64, 4, 0x37, toGather), (.scatadd, 64, 4, 0x37, toGather),
   (.rseq, 32, 7, 0x3A, toSequencer)]

/-- The commands with a block that are illegal in a handler (R108, R361, R371). -/
def waitingBlockCommands : List ((SReg → SReg → Instr) × Nat × Nat × Nat × (State → Nat → State)) :=
  [(.mldbW, 64, 4, 0x31, toMatrix), (.mmulW, 64, 4, 0x32, toMatrix),
   (.creduce, 64, 4, 0x39, fun u id => send u .req (tileOf u.cur.core) ioDie (.run (.request .creduce id)))]

end Sys2Proof.Claims

/-- R361, R362, R366 to R371: a command with a block copies it and c6 at issue and parks; an offset outside own-row bytes 1056 to
3967 takes ROW_PROTECT, and one that is not a multiple of 8 MISALIGNED. -/
def Sys2Proof.Claims.BlockCommandsIssue : Prop :=
  ∀ (s : State) (d a : SReg), Alone s → BReadable s [a] →
    let x := (getS s s.cur a).toNat
    ∀ c ∈ blockCommands ++ waitingBlockCommands,
      let i := c.1 d a
      (s.cur.row ≠ 84 ∨ c ∈ blockCommands →
        (blockOk x c.2.1 → Readable s (blockWords s x c.2.1) →
          Issues s i c.2.2.1 c.2.2.2.1 0 { asked s i with z := getC s s.cur 6, block := blockAt s x c.2.1 } c.2.2.2.2) ∧
        (x < 1056 ∨ 3968 < x + c.2.1 → Traps s i .rowProtect) ∧
        (1056 ≤ x → x + c.2.1 ≤ 3968 → x % 8 ≠ 0 → Traps s i .misaligned))

/-- R108, R363 to R365, R370: the commands without a block, JPOLL, JWAIT and RSWAIT; the waiting ones are illegal in a handler. -/
def Sys2Proof.Claims.OtherEngineCommandsIssue : Prop :=
  ∀ (s : State) (d a : SReg) (p : Pair), Alone s → BReadable s [a, even p, odd p] →
    let take := fun (i : Instr) (l : List Word) => { asked s i with z := getC s s.cur 6, block := l }
    Issues s (.mout d a p) 4 0x33 0 (take (.mout d a p) [getS s s.cur a, getS s s.cur (even p), getS s s.cur (odd p)]) toMatrix ∧
    Issues s (.mzero d a) 4 0x34 0 (take (.mzero d a) [getS s s.cur a]) toMatrix ∧
    Issues s (.mtest d) 4 0x34 0 (take (.mtest d) []) toMatrix ∧
    Issues s (.mstat d a) 4 0x34 0 (take (.mstat d a) [getS s s.cur a]) readStat ∧
    Issues s (.jpoll d a) 4 0x38 0 { asked s (.jpoll d a) with handle := getS s s.cur a } poll ∧
    (s.cur.row ≠ 84 →
      Issues s (.jwait d a) 4 0x38 0 { asked s (.jwait d a) with handle := getS s s.cur a } waitJob ∧
      Issues s (.rswait d) 7 0x3A 0 (asked s (.rswait d)) waitSeq) ∧
    (s.cur.row = 84 →
      Traps s (.jwait d a) .illegalInsn ∧ Traps s (.rswait d) .illegalInsn ∧
      (∀ c ∈ waitingBlockCommands, Traps s (c.1 d a) .illegalInsn))

/-- R372 to R375: LAUNCH copies its packet as a block is; the counter instructions and CANCEL take their operands along; CNTWAIT parks
with KIND COUNTER and the counter in DETAIL, and is illegal in a handler. -/
def Sys2Proof.Claims.TaskInstructionsIssue : Prop :=
  ∀ (s : State) (d a : SReg) (p : Pair) (o : Order), Alone s → BReadable s [a, even p] →
    let x := getS s s.cur a
    let y := getS s s.cur (even p)
    let n := x &&& 0xFFFF
    (blockOk x.toNat 64 → Readable s (blockWords s x.toNat 64) →
      Issues s (.launch d a p o) 1 0x23 0 { asked s (.launch d a p o) with x := y, block := blockAt s x.toNat 64 }
        (afterFence o (toIo .launch))) ∧
    (x.toNat < 1056 ∨ 3968 < x.toNat + 64 → Traps s (.launch d a p o) .rowProtect) ∧
    (1056 ≤ x.toNat → x.toNat + 64 ≤ 3968 → x.toNat % 8 ≠ 0 → Traps s (.launch d a p o) .misaligned) ∧
    Issues s (.cntdec a o) 1 0x23 0 { asked s (.cntdec a o) with x := n } (afterFence o sendDecrement) ∧
    Issues s (.cntadd a p o) 1 0x23 0 { asked s (.cntadd a p o) with x := n, y := y } (afterFence o (toIo .cntadd)) ∧
    (s.cur.row ≠ 84 → Issues s (.cntwait a o) 5 0 n { asked s (.cntwait a o) with x := n } (afterFence o (toIo .cntwait))) ∧
    (s.cur.row = 84 → Traps s (.cntwait a o) .illegalInsn) ∧
    Issues s (.cancel d a p) 1 0x23 0 { asked s (.cancel d a p) with x := x, y := y } (toIo .cancel)

/-- R115, R319, R321: every UNPAIR of a privileged thread that is in no pair completes: it writes 1, in a handler 3. -/
def Sys2Proof.Claims.UnpairCompletes : Prop :=
  ∀ (s : State) (d : SReg), isPriv s s.cur = true → pairOf s s.cur = none → RetireReadable s s.cur →
    ∃ t, exec (.unpair d) s = .next t ∧
      ScalarResult s t s.cur d (if s.cur.row = 84 then 3 else 1) (nextPc s s.cur)

/-- R297, R319: UNPAIR of a paired thread parks it; the leader calls the checkpoint, at which both stand, and which ends the pair. -/
def Sys2Proof.Claims.UnpairParks : Prop :=
  ∀ (s : State) (d : SReg) (p : PairSt), isPriv s s.cur = true → pairOf s s.cur = some p →
    ∃ u, Parked s u s.cur 1 0x24 0 (asked s (.unpair d)) ∧ (reqOf s s.cur = none → atUnpair u s.cur = true) ∧
      exec (.unpair d) s = .next (if s.cur = p.leader then callCheckpoint u p (getC u s.cur 14) else u)

/-- R317 to R320: REPART, PAIR and UNPAIR are privileged; REPART with a must-be-zero bit set answers 3 and sends nothing; UNPAIR of an
unpaired thread completes with 1 in its own turn, and with 3 in a handler; CAPR asks the I/O die, unless its offset is misaligned. -/
def Sys2Proof.Claims.SystemInstructionsIssue : Prop :=
  ∀ (s : State) (d a : SReg), Alone s → BReadable s [a] →
    let x := getS s s.cur a
    (isPriv s s.cur = false →
      Traps s (.repart d a) .priv ∧ Traps s (.pair d) .priv ∧ Traps s (.unpair d) .priv) ∧
    (isPriv s s.cur = true →
      (x.toNat % 2 ^ 32 < 2 ^ 20 → x.toNat < 2 ^ 33 →
        Issues s (.repart d a) 1 0x24 0 { asked s (.repart d a) with x := x } sendRepart) ∧
      (2 ^ 20 ≤ x.toNat % 2 ^ 32 ∨ 2 ^ 33 ≤ x.toNat → GivesS s (.repart d a) d 3) ∧
      GivesS s (.unpair d) d (if s.cur.row = 84 then 3 else 1) ∧
      (State.Named s → Issues s (.pair d) 1 0x24 0 (asked s (.pair d)) (fun u id =>
        replyArrives (if pairStatus u s.cur = 0 then wakeCore u (partnerOf s.cur).core else u) id
          (.value (BitVec.ofNat 256 (pairStatus u s.cur)) false)))) ∧
    (0x1000 ≤ x.toNat → x.toNat ≤ 0xFFFF8 → x.toNat % 8 ≠ 0 → Traps s (.capr d a) .misaligned) ∧
    (x.toNat < 0x1000 ∨ 0xFFFF8 < x.toNat ∨ x.toNat % 8 = 0 →
      Issues s (.capr d a) 1 0x24 0 { asked s (.capr d a) with x := x } (toIo .capr))

/-! ## Heddle commands and outside accesses (R64 to R78, R128, R333, R334, R376) -/

namespace Sys2Proof.Claims

/-- The step e of the part, when it is being performed, answers a next state of which R holds. -/
def Performs (s : State) (e : Event) (R : State → Prop) : Prop := ∃ t, exec e.instr s = .next t ∧ R t

/-- A step or packet on its way. -/
def Coming (t : State) (a : Act) : Prop := ∃ x ∈ t.agenda, x.act = a

/-- The sender of a packet gets x: the reply to a request is on its way, and the host has its answer. -/
def Answered (s t : State) (p : RowPkt) (x : Word) (poison : Bool) : Prop :=
  (p.req ≠ 0 → (findReq s p.req).isSome → Coming t (.run (.reply p.req (.value (x.setWidth 256) poison)))) ∧
  (p.req = 0 → p.sender.extractLsb' 0 7 = 127#7 → t.io.hostAnswers = s.io.hostAnswers ++ [x])

/-- A heddle store reaches its thread: the key check passes, the word is its c0, and nothing of the thread is under way that
the command would wait for or complete. -/
structure Reaches (s : State) (p : RowPkt) : Prop where
  check : rowCheck s p .write = none
  word  : p.widx = 496
  home  : pktHome s p = refThr p.ref
  alone : pairOf s (refThr p.ref) = none
  long  : (getThr s (refThr p.ref)).long = none
  cmds  : (getThr s (refThr p.ref)).cmds = []
  reply : (getThr s (refThr p.ref)).reply = none
  key   : ∀ e ∈ s.bitErrs, e.1 ≠ cAddr (refThr p.ref) 7
  first : p.stored = false ∧ p.old = 0 ∧ p.y = 0
  other : ∀ r, reqOf s (refThr p.ref) = some r → r.id ≠ p.req

/-- A heddle store of x left c0 with STATE st and HERR: PRIO and TARGET are x's and CMD reads 0; only these bytes of memory
changed, and of the module nothing but what an answer needs. -/
structure Steered (s t : State) (th : Thr) (x : Word) (st herr : Nat) (w : Nat → Prop) : Prop where
  cmd    : bits (getC t th 0) 0 4 = 0
  state  : tstate t th = st
  herr   : bits (getC t th 0) 8 1 = herr
  prio   : prioOf t th = bits x 9 7
  target : bits (getC t th 0) 16 32 = bits x 16 32
  frame  : UnchangedBut s t fun a => within (cAddr th 0) 8 a ∨ w a
  now    : t.now = s.now
  tiles  : t.tiles = s.tiles
  stackSt : t.stackSt = s.stackSt
  pairs  : t.pairs = s.pairs

/-- HERR of an accepted command: cleared by a one (R64). -/
def herrOf (s : State) (th : Thr) (x : Word) : Nat := if bits x 8 1 = 1 then 0 else bits (getC s th 0) 8 1

/-- R75: the state after a command on a thread that is not PARKED; none where the command is refused. -/
def afterCommand : Nat → Nat → Option Nat
  | 0, st => some st
  | 1, 1 => some 2
  | 2, 1 => some 1 | 2, 2 => some 1 | 2, 4 => some 1
  | 4, 1 => some 2 | 4, 4 => some 2
  | 5, 1 => some 2 | 5, 4 => some 2
  | _, _ => none

/-- The steps of a heddle store but REDIRECT and CANCEL, with the command they carry out. -/
def plainCommands (p : RowPkt) : List (Event × Nat) :=
  [(.heddleNone p, 0), (.start p, 1), (.stop p, 2), (.resume p, 4), (.step p, 5), (.reservedCommand p, 7)]

end Sys2Proof.Claims

/-- R64, R75: START, STOP, RESUME, STEP, no command and the reserved commands on a thread that is not PARKED leave c0 with
the state of R75's table, or with HERR set and the state as it was; the sender is answered 0, and that of an accepted STEP, which arms
a stop after one instruction, when that has ended (R65). -/
def Sys2Proof.Claims.HeddleCommands : Prop :=
  ∀ (s : State) (p : RowPkt), Reaches s p → tstate s (refThr p.ref) ≠ 3 →
    ∀ ec ∈ plainCommands p, s.doing = some ec.1 → (ec.2 = 5 → (getThr s (refThr p.ref)).stepPkt = none) → Performs s ec.1 fun t =>
      let st := tstate s (refThr p.ref)
      Steered s t (refThr p.ref) p.x ((afterCommand ec.2 st).getD st)
        (if (afterCommand ec.2 st).isSome then herrOf s (refThr p.ref) p.x else 1) (fun _ => False) ∧
      (ec.2 = 5 → (afterCommand 5 st).isSome →
        (getThr t (refThr p.ref)).stepping = true ∧ (getThr t (refThr p.ref)).stepPkt = some p) ∧
      (ec.2 = 2 → st ≠ 1 → (afterCommand 2 st).isSome → (getThr t (refThr p.ref)).stepping = false) ∧
      t.reqs = s.reqs ∧ (¬ (ec.2 = 5 ∧ (afterCommand 5 st).isSome) → Answered s t p 0 false)

/-- R75: REDIRECT puts 4 × TARGET into PC of an IDLE or RUN thread and makes a TRAPPED one IDLE as well; a TARGET outside the
code object, and any other state, is refused.  CANCEL makes an IDLE, RUN or TRAPPED thread CANCELLED with cause 0x3F and the
word at PC in c10, and leaves an ended one alone. -/
def Sys2Proof.Claims.RedirectAndCancel : Prop :=
  ∀ (s : State) (p : RowPkt), Reaches s p → tstate s (refThr p.ref) ≠ 3 →
    let th := refThr p.ref
    let st := tstate s th
    let ok := 4 * bits p.x 16 32 < codeBytes (storeHeddle s th p.x) th.core (codeOf s th) ∧ (st = 1 ∨ st = 2 ∨ st = 4)
    (s.doing = some (.redirect p) → Performs s (.redirect p) fun t =>
      (ok → Steered s t th p.x (if st = 4 then 1 else st) (herrOf s th p.x) (within (cAddr th 1) 8) ∧
        pcOf t th = 4 * bits p.x 16 32 % 4294967296 ∧ codeOf t th = codeOf s th) ∧
      (¬ ok → Steered s t th p.x st 1 (fun _ => False)) ∧ t.reqs = s.reqs ∧ Answered s t p 0 false) ∧
    (s.doing = some (.heddleCancel p) → Performs s (.heddleCancel p) fun t =>
      (st = 1 ∨ st = 2 ∨ st = 4 →
        Steered s t th p.x 5 (herrOf s th p.x) (fun a => within (cAddr th 2) 8 a ∨ within (cAddr th 10) 8 a) ∧ getC t th 2 = 0 ∧
        bits (getC t th 10) 32 8 = 0x3F ∧ bits (getC t th 10) 0 32 = (wordAtPc (storeHeddle s th p.x) th).toNat ∧
        (getThr t th).stepping = false) ∧
      (st = 5 ∨ st = 6 → Steered s t th p.x st (herrOf s th p.x) (fun _ => False)) ∧ t.reqs = s.reqs ∧ Answered s t p 0 false)

/-- R75, R77, R376: on a PARKED thread START, STEP and the reserved commands are refused, and so is RESUME but for KIND 8,
which it ends; STOP, REDIRECT and CANCEL withdraw a load that is outstanding first, and wait where the instruction must
complete (which instructions must is read from R77: log 21); a REDIRECT to a TARGET outside the code object is refused, and the thread
stays PARKED. -/
def Sys2Proof.Claims.CommandsOnParkedThread : Prop :=
  ∀ (s : State) (p : RowPkt), Reaches s p → tstate s (refThr p.ref) = 3 →
    let th := refThr p.ref
    (∀ ec ∈ [(Event.start p, 1), (.step p, 5), (.reservedCommand p, 7), (.resume p, 4)], s.doing = some ec.1 →
      (ec.2 = 4 → bits (getC s th 2) 0 4 ≠ 8) → Performs s ec.1 fun t =>
        Steered s t th p.x 3 1 (fun _ => False) ∧ t.reqs = s.reqs ∧ Answered s t p 0 false) ∧
    (s.doing = some (.resume p) → bits (getC s th 2) 0 4 = 8 → Performs s (.resume p) fun t =>
      Steered s t th p.x 2 (herrOf s th p.x) (within (cAddr th 2) 8) ∧ getC t th 2 = 0 ∧ Answered s t p 0 false) ∧
    (∀ r, reqOf s th = some r → (∃ d q o z, r.insn = .ldo d q o z) →
      (s.doing = some (.stop p) → Performs s (.stop p) fun t =>
        tstate t th = 1 ∧ getC t th 2 = 0 ∧ findReq t r.id = none ∧
        UnchangedBut s t fun a => within (cAddr th 0) 8 a ∨ within (cAddr th 2) 8 a) ∧
      (s.doing = some (.heddleCancel p) → Performs s (.heddleCancel p) fun t =>
        tstate t th = 5 ∧ getC t th 2 = 0 ∧ findReq t r.id = none) ∧
      (let w := storeHeddle s th p.x
       let inside := fun (u : State) => 4 * bits p.x 16 32 < codeBytes u th.core (codeOf s th)
       s.doing = some (.redirect p) → inside w → inside (unpark (withdrawReq w r) th) → Performs s (.redirect p) fun t =>
        tstate t th = 2 ∧ getC t th 2 = 0 ∧ findReq t r.id = none ∧ pcOf t th = 4 * bits p.x 16 32 % 4294967296 ∧
        UnchangedBut s t fun a => within (cAddr th 0) 8 a ∨ within (cAddr th 1) 8 a ∨ within (cAddr th 2) 8 a)) ∧
    (s.doing = some (.redirect p) → codeBytes (storeHeddle s th p.x) th.core (codeOf s th) ≤ 4 * bits p.x 16 32 →
      Performs s (.redirect p) fun t => Steered s t th p.x 3 1 (fun _ => False) ∧ t.reqs = s.reqs ∧ Answered s t p 0 false) ∧
    (∀ r, reqOf s th = some r → (∃ d a q, r.insn = .commit d a q) → ∀ e ∈ [Event.stop p, .redirect p, .heddleCancel p], s.doing = some e →
      (e = .redirect p → 4 * bits p.x 16 32 < codeBytes (storeHeddle s th p.x) th.core (codeOf s th)) → Performs s e fun t =>
        Steered s t th p.x 3 (herrOf s th p.x) (fun _ => False) ∧ (getThr t th).cmds = [{ p with stored := true }] ∧ t.reqs = s.reqs)

namespace Sys2Proof.Claims

/-- The word that a row-space read answers (R31, R67, R71): s0 reads zero, p0 all ones, a first row's words 496 to 511 are
its control words, and of the service row CORESTAT and ACTCOUNT can be read. -/
def wordRead (s : State) (core row widx : Nat) : Word :=
  if row = 84 then (if widx = 492 then corestat s core else if widx = 493 then (getCore s core).actCount else 0)
  else if homeRow (getCore s core) row ≠ row then getWord s (rowAddr core row + 8 * widx)
  else if widx = 0 then 0
  else if widx = 128 then getWord s (rowAddr core row + 8 * widx) ||| 0xFFFFFFFF
  else if 496 ≤ widx then getC s ⟨core, row⟩ (widx - 496)
  else getWord s (rowAddr core row + 8 * widx)

/-- A packet's word, whose access passes the key check, outside a pair and with nobody in PARK. -/
structure Free (s : State) (p : RowPkt) (f : RowFn) : Prop where
  check : rowCheck s p f = none
  alone : pairOf s (pktHome s p) = none
  bound : p.widx < 512
  clean : ∀ e ∈ s.bitErrs, e.1 ≠ rowAddr (refCore p.ref) (refRow p.ref) + 8 * p.widx ∧ e.1 ≠ cAddr (pktHome s p) 7
  awake : ∀ r ∈ s.reqs, r.thr = pktHome s p → r.insn ≠ .park

/-- The word is row data: no control word and none that holds a constant register. -/
def rowData (s : State) (core row widx : Nat) : Prop :=
  row < 84 ∧ (homeRow (getCore s core) row = row → widx ≠ 0 ∧ widx ≠ 128 ∧ widx < 496)

/-- Only these bytes of memory changed, and of the module nothing but what an answer needs. -/
structure OnlyBytes (s t : State) (w : Nat → Prop) : Prop where
  frame  : UnchangedBut s t w
  now    : t.now = s.now
  cores  : t.cores = s.cores
  tiles  : t.tiles = s.tiles
  stackSt : t.stackSt = s.stackSt
  reqs   : t.reqs = s.reqs
  pairs  : t.pairs = s.pairs

/-- A record is on its way to the supervisor row of a slot, or LOST counts it: SUPROW is 0, its stack is DOWN or its module cannot be
reached (R69). -/
def ToSupervisor (s t : State) (slot : Nat) (w0 w1 : Word) : Prop :=
  let r := (getPart s slot).suprow
  let here := refDev r = s.io.devid.toNat
  let n := (getPart s slot).lost
  (r = 0 ∨ (here ∧ stackDown s (stackOf (refCore r)) = true) ∨ (¬ here ∧ reachable s (refDev r) = false) →
    (getPart t slot).lost = if n = 0xFFFFFFFF#32 then n else n + 1) ∧
  (r ≠ 0 → here → stackDown s (stackOf (refCore r)) = false → corePresent s (refCore r) = true →
    Coming t (.arrive (refCore r) 84 (.inboxEntry ⟨.diversion, r, w0, w1, 0, slot, none⟩)))

/-- A packet leaves a diversion record with the sub-cause sub (R69). -/
def Diverted (s t : State) (p : RowPkt) (sub : Nat) : Prop :=
  ToSupervisor s t (slotOf s (tileOf (refCore p.ref))) p.ref (0x20#8 ++ BitVec.ofNat 8 sub ++ 0#2 ++ p.sender)

end Sys2Proof.Claims

/-- R70, R71, R333, R334: a read answers the word as it stands; a write of row data stores the packet's word; RAMOADD stores
the wrapped sum and RCAS its second operand where the word equals the first, both answering the old word; each is one word. -/
def Sys2Proof.Claims.OutsideAccesses : Prop :=
  ∀ (s : State) (p : RowPkt),
    let core := refCore p.ref
    let row := refRow p.ref
    let a := rowAddr core row + 8 * p.widx
    let old := wordRead s core row p.widx
    (s.doing = some (.outsideRead p) → Free s p .read → Performs s (.outsideRead p) fun t =>
      OnlyBytes s t (fun _ => False) ∧ Answered s t p old (row ≠ 84 && isPoisoned s a)) ∧
    (s.doing = some (.outsideWrite p) → Free s p .write → rowData s core row p.widx → Performs s (.outsideWrite p) fun t =>
      OnlyBytes s t (within a 8) ∧ getWord t a = p.x ∧ isPoisoned t a = false ∧ Answered s t p 0 false) ∧
    (s.doing = some (.outsideRamoadd p) → Free s p .add → rowData s core row p.widx → isPoisoned s a = false →
      Performs s (.outsideRamoadd p) fun t =>
        OnlyBytes s t (within a 8) ∧ getWord t a = old + p.x ∧ Answered s t p old false) ∧
    (s.doing = some (.outsideRcas p) → Free s p .cas → rowData s core row p.widx → isPoisoned s a = false →
      Performs s (.outsideRcas p) fun t =>
        OnlyBytes s t (within a 8) ∧ getWord t a = (if old = p.x then p.y else old) ∧ Answered s t p old false)

/-- R31, R68, R69: a privileged write of CORESTAT sets QUANT, 4,096 for 0, and nothing else; without PRIV it is diverted: its record
carries sub-cause 0x03, and it is answered 0. -/
def Sys2Proof.Claims.CorestatWrites : Prop :=
  ∀ (s : State) (p : RowPkt), s.doing = some (.corestatWrite p) → refRow p.ref = 84 → p.widx = 492 → refKey p.ref ≠ 0 →
    bits p.ref 46 2 = 0 → corePresent s (refCore p.ref) = true → refKey p.ref = partKey s (tileOf (refCore p.ref)) →
    Performs s (.corestatWrite p) fun t =>
      t.mem = s.mem ∧ Answered s t p 0 false ∧
      getCore t (refCore p.ref) =
        (if p.priv = true then
          { getCore s (refCore p.ref) with quantum := if bits p.x 0 16 = 0 then 4096 else bits p.x 0 16 }
        else getCore s (refCore p.ref)) ∧
      (p.priv = false → Diverted s t p 3) ∧
      ∀ c, c ≠ refCore p.ref → getCore t c = getCore s c

/-- R67, R68, R69: no row-space packet that the key check turns away changes a byte of a row or of any core's state, its sender
is answered 0, and a diversion record with its sub-cause goes to the supervisor queue. -/
def Sys2Proof.Claims.KeyCheckProtects : Prop :=
  ∀ (s : State) (p : RowPkt) (sub : Nat), (refRow p.ref < 84 → Readable s [cAddr (pktHome s p) 7]) →
    (p.y = 0 ∨ p.req ≠ 0 ∨ p.sender ≠ 0) → p.stored = false →
    ∀ ef ∈ [(Event.outsideRead p, RowFn.read), (.outsideWrite p, .write), (.outsideRamoadd p, .add), (.outsideRcas p, .cas),
      (.corestatWrite p, .write), (.start p, .write), (.stop p, .write), (.redirect p, .write), (.resume p, .write), (.step p, .write),
      (.heddleCancel p, .write), (.heddleNone p, .write), (.reservedCommand p, .write)],
      s.doing = some ef.1 → rowCheck s p ef.2 = some sub → Performs s ef.1 fun t =>
        Diverted s t p sub ∧ OnlyBytes s t (fun _ => False) ∧ ((findReq s p.req).isSome → p.req ≠ 0 → Coming t (.run (.reply p.req (.value 0 false))))

/-- R67, R68: a row-space access that passes the key check of a thread's row names a present core and a row that holds
no frame, with the row's own KEY, which is not 0; the thread is not ABSENT; a write of c7 or c12 carries PRIV; and only reads reach a
pair's follower and shadow rows (R128). -/
def Sys2Proof.Claims.KeyCheckRequires : Prop :=
  ∀ (s : State) (p : RowPkt) (f : RowFn), rowCheck s p f = none → refRow p.ref ≠ 84 →
    let th := pktHome s p
    refRow p.ref < 84 ∧ corePresent s (refCore p.ref) = true ∧ bits p.ref 46 2 = 0 ∧
    frameUse s (refCore p.ref) (refRow p.ref) = 0 ∧
    (f ≠ .read → isShadow s (refCore p.ref) (refRow p.ref) = false ∧ isFollowerRow s (refCore p.ref) (refRow p.ref) = false) ∧
    refKey p.ref = keyOf s th ∧ keyOf s th ≠ 0 ∧ tstate s th ≠ 7 ∧
    ((f = .write ∨ f = .cas) → th.row = refRow p.ref → p.widx = 503 ∨ p.widx = 508 → p.priv = true) ∧
    (f = .add → th.row = refRow p.ref → p.widx < 496)

/-- R20: s0 reads zero and p0 all ones in every state, as registers, as bytes of the own row and from outside; an instruction's
result, a store of the thread and a write from outside to their bytes are discarded. -/
def Obligations.ConstantRegisters : Prop :=
  (∀ (s : State) (th : Thr) (x : Word) (y : Pred),
    getS s th 0 = 0 ∧ getP s th 0 = 0xFFFFFFFF#32 ∧ (setS s th 0 x).mem = s.mem ∧ (setP s th 0 y).mem = s.mem ∧
    ∀ i, i < 4 → ownBytes s th i 1 = [0#8] ∧ ownBytes s th (4 + i) 1 = [0#8] ∧ ownBytes s th (1024 + i) 1 = [0xFF#8]) ∧
  (∀ (s : State) (d a : SReg) (z : Size) (o : BitVec 11), SReadable s s.cur [a, d] →
    let at' := ownSum s a o.toInt
    at' % z.bytes = 0 →
    (0 ≤ at' ∧ at' < 8 →
      (Readable s [ownAddr s.cur 0] → ∀ sx, Gives (.ldr d a z sx o) s fun t => getS t s.cur d = 0 ∧ pcOf t s.cur = nextPc s s.cur) ∧
      Gives (.str d a z o) s fun t => UnchangedBut s t (retireBytes s s.cur) ∧ pcOf t s.cur = nextPc s s.cur) ∧
    (1024 ≤ at' ∧ at' + z.bytes ≤ 1028 →
      (Readable s [ownAddr s.cur 1024] → d ≠ 0 → Gives (.ldr d a z true o) s fun t => getS t s.cur d = BitVec.allOnes 64) ∧
      Gives (.str d a z o) s fun t => UnchangedBut s t (retireBytes s s.cur) ∧ pcOf t s.cur = nextPc s s.cur)) ∧
  (∀ (s : State) (p : RowPkt), refRow p.ref < 84 → homeRow (getCore s (refCore p.ref)) (refRow p.ref) = refRow p.ref →
    let a := rowAddr (refCore p.ref) (refRow p.ref) + 8 * p.widx
    let discarded := fun t => p.widx = 0 → OnlyBytes s t (fun _ => False)
    let half := fun t => p.widx = 128 → OnlyBytes s t (within (a + 4) 4)
    (p.widx = 0 → s.doing = some (.outsideRead p) → Free s p .read → isPoisoned s a = false → Performs s (.outsideRead p) fun t =>
      Answered s t p 0 false) ∧
    (p.widx = 0 ∨ p.widx = 128 →
      (s.doing = some (.outsideWrite p) → Free s p .write → Performs s (.outsideWrite p) fun t => discarded t ∧ half t) ∧
      (s.doing = some (.outsideRamoadd p) → Free s p .add → Performs s (.outsideRamoadd p) fun t => discarded t ∧ half t) ∧
      (s.doing = some (.outsideRcas p) → Free s p .cas → Performs s (.outsideRcas p) fun t => discarded t ∧ half t)))

/-! ## Rows, credits, refresh, code rows, long operations and gating (R12 to R17, R28, R32 to R38, R79, R81, R82) -/

namespace Sys2Proof.Claims

/-- A step of the part is due so many cycles from now. -/
def DueIn (s t : State) (n : Nat) (e : Event) : Prop := ⟨s.now + n, .local, 0, 0, .run e⟩ ∈ t.agenda

/-- What subarray k of a core is doing. -/
def mode (s : State) (core k : Nat) : SubMode := (getSub s core k).mode

/-- Only one core's row buffers, credits and queue have changed. -/
structure CoreOnly (s t : State) (core : Nat) : Prop where
  mem    : t.mem = s.mem
  others : ∀ c, c ≠ core → getCore t c = getCore s c
  now    : t.now = s.now
  tiles  : t.tiles = s.tiles
  stackSt : t.stackSt = s.stackSt
  reqs   : t.reqs = s.reqs
  pairs  : t.pairs = s.pairs

/-- No activation and no sequencer step of the core waits for credits (R36). -/
def NoneWaits (s : State) (core : Nat) : Prop := creditWaits s core = [] ∧ seqWaits (getCore s core) s.now = false

/-- No command or reply waits for a thread, and no refresh has fallen due on its core. -/
def Quiet (s : State) (core row : Nat) : Prop :=
  (getThr s ⟨core, row⟩).reply = none ∧ (getThr s ⟨core, row⟩).cmds = [] ∧ ∀ k, refreshDue s core k = none

end Sys2Proof.Claims

/-- R12, R35, R36: the steps that close a row begin a close of 15 cycles on the open row that meets a closing condition.  A RUN
thread's row meets one only where a row of no lower PRIO waits, a credit is there that no earlier close has been promised and, for an
equal PRIO, Q issues are used. -/
def Sys2Proof.Claims.TreadleCloses : Prop :=
  ∀ (s : State) (core k r : Nat), State.Subarrays s → k < 8 → mode s core k = .opened r →
    (getThr s ⟨core, r⟩).long = none → (getThr s ⟨core, r⟩).yielded = false → (closing s core k r).isSome →
    (∀ e ∈ [Event.quantumExpiry core k, .memParkExpiry core k, .treadleClose core k], s.doing = some e →
      Performs s e fun t => mode t core k = .closing r .free ∧ DueIn s t 15 (.rowClose core k) ∧ CoreOnly s t core) ∧
    (tstate s ⟨core, r⟩ = 2 →
      rowsOf (getCore s core) r + promised s core ≤ (getCore s core).credits ∧ ∃ x ∈ waitingRows s core k, prioOf s ⟨core, r⟩ ≤ prioOf s ⟨core, x⟩ ∧
        (prioOf s ⟨core, x⟩ = prioOf s ⟨core, r⟩ → (∀ y ∈ waitingRows s core k, prioOf s ⟨core, y⟩ ≤ prioOf s ⟨core, r⟩) →
          quantumOf s ⟨core, r⟩ ≤ (getThr s ⟨core, r⟩).issued))

/-- R11, R12, R13, R17, R36: a close ends with the subarray closed, the row being the last that the treadle closed unless it was open
for outside accesses (that it is the last for ever is log 5), or with the activation it made room for, which spends a credit for each
row and ends 15 cycles later; where nothing else waits for a credit, it waits only without one. -/
def Sys2Proof.Claims.RowCloses : Prop :=
  ∀ (s : State) (core k r : Nat), State.Subarrays s → k < 8 → s.doing = some (.rowClose core k) →
    (∀ a, (a = .free ∨ a = .served) → mode s core k = .closing r a → oldest s core k = none → waitingRows s core k = [] →
      refreshDue s core k = none → Performs s (.rowClose core k) fun t =>
        mode t core k = .closed ∧ (getSub t core k).last = (if a = .free then some r else (getSub s core k).last) ∧ CoreOnly s t core) ∧
    (∀ row p, mode s core k = .closing r (.activate row p) → NoneWaits s core → Performs s (.rowClose core k) fun t =>
      let n := if (getSub s core k).free then 0 else rowsOf (getCore s core) row
      CoreOnly s t core ∧
      (n = 0 ∨ n + promised s core ≤ (getCore s core).credits → mode t core k = .activating row p ∧ (getCore t core).credits = (getCore s core).credits - n ∧
        (getCore t core).actCount = (getCore s core).actCount + BitVec.ofNat 64 n ∧ DueIn s t 15 (.rowActivation core k) ∧
        (n ≠ 0 → (getCore s core).credits = 32 → DueIn s t 2048 (.creditEarned core))) ∧
      (n ≠ 0 → (getCore s core).credits < n + promised s core →
        (∃ since, mode t core k = .waiting row p since) ∧ (getCore t core).credits = (getCore s core).credits)) ∧
    (mode s core k = .closing r .take → Performs s (.rowClose core k) fun t => mode t core k = .taken ∧ CoreOnly s t core)

/-- R11, R12, R17, R35, R70, R79, R95: an activation ends with its row open for its thread, whose issues count from 0, or with the
oldest access to it served in 20 cycles, of eight at most; the treadle, a queued access and a borrow window begin theirs; and an access
to the open row is applied at a boundary once the vertical bus has granted its request. -/
def Sys2Proof.Claims.RowActivations : Prop :=
  ∀ (s : State) (core k : Nat), State.Subarrays s → k < 8 →
    (s.doing = some (.rowActivation core k) →
      (∀ row, mode s core k = .activating row .thread → Quiet s core row → Performs s (.rowActivation core k) fun t =>
        mode t core k = .opened row ∧ (getThr t ⟨core, row⟩).issued = 0 ∧ CoreOnly s t core) ∧
      (∀ row b q l, mode s core k = .activating row (.serve b) → (getCore s core).oq = q :: l → q.row < 84 →
        homeRow (getCore s core) q.row = row → Performs s (.rowActivation core k) fun t =>
          mode t core k = .serving row b 7 ∧ (getCore t core).oq = l ∧ (getSub t core k).bus ≠ .none ∧
          ⟨s.now + 20, .local, 0, 0, .serve core k q.row q.act⟩ ∈ t.agenda ∧ t.mem = s.mem ∧ t.reqs = s.reqs ∧
          ∀ c, c ≠ core → getCore t c = getCore s c) ∧
      (∀ r, mode s core k = .closed → oldest s core k = none → nextRow s core k = some r →
        treadleCredit s core r = true → Performs s (.rowActivation core k) fun t =>
          mode t core k = .activating r .thread ∧ DueIn s t 15 (.rowActivation core k) ∧ CoreOnly s t core)) ∧
    (∀ q, oldest s core k = some q → mode s core k = .closed → s.doing = some (.outsideActivation core k) →
      NoneWaits s core → rowsOf (getCore s core) (homeRow (getCore s core) q.row) + promised s core ≤ (getCore s core).credits →
      Performs s (.outsideActivation core k) fun t =>
        mode t core k = .activating (homeRow (getCore s core) q.row) (.serve none) ∧ DueIn s t 15 (.rowActivation core k) ∧
        CoreOnly s t core) ∧
    (∀ q r, oldestClosed s core k r = some q → mode s core k = .opened r → (getThr s ⟨core, r⟩).long = none →
      s.doing = some (.borrowWindow core k) → Performs s (.borrowWindow core k) fun t =>
        mode t core k = .closing r (.activate (homeRow (getCore s core) q.row) (.serve (some r))) ∧
        DueIn s t 15 (.rowClose core k) ∧ CoreOnly s t core) ∧
    (∀ q l r, (getCore s core).oq = q :: l → q.row < 84 → homeRow (getCore s core) q.row = r → mode s core k = .opened r →
      (getThr s ⟨core, r⟩).long = none →
      let t := flushOpen s core k
      t.mem = s.mem ∧
      ((getSub s core k).bus = .granted → (getCore t core).oq = l ∧ ⟨s.now, .local, 0, 0, .serve core k q.row q.act⟩ ∈ t.agenda) ∧
      ((getSub s core k).bus ≠ .granted → (getCore t core).oq = q :: l ∧ (getSub t core k).bus = .waiting))

/-- R13, R15, R31, R37: a credit is earned up to 32, the next one 2,048 cycles later; a refresh closes the row buffer for 105
cycles, keeps every byte, and leaves the row open again that was open; and one of the core's subarrays falls due every
4,200,000 cycles, or every 2,100,000 while the stack is hot (that they fall due in ascending order is log 6). -/
def Sys2Proof.Claims.CreditsAndRefresh : Prop :=
  ∀ (s : State) (core k : Nat), State.Subarrays s → k < 8 →
    (s.doing = some (.creditEarned core) → (getCore s core).credits < 32 → (getCore s core).seq = none →
      (∀ j r p n, j < 7 → mode s core j ≠ .waiting r p n) → Performs s (.creditEarned core) fun t =>
        (getCore t core).credits = (getCore s core).credits + 1 ∧ (getCore t core).earnFrom = s.now ∧ CoreOnly s t core ∧
        ((getCore s core).credits + 1 < 32 → DueIn s t 2048 (.creditEarned core))) ∧
    (∀ back, s.doing = some (.refresh core k) →
      refreshHome s core k = k → (k = 7 → (getThr s ⟨core, 84⟩).long = none) → (mode s core k = .closed ∧ back = none ∨ ∃ r, mode s core k = .opened r ∧ (getThr s ⟨core, r⟩).long = none ∧ back = some r) →
      Performs s (.refresh core k) fun t =>
        mode t core k = .refreshing back ∧ DueIn s t 105 (.refreshEnd core k) ∧ CoreOnly s t core ∧
        (getCore t core).credits = (getCore s core).credits ∧ (getSub t core k).due = false) ∧
    ((getCore s core).refAt ≤ s.now + 1 → (getCore s core).refSub = k →
      let t := refreshTick s core
      (getSub t core k).due = true ∧ (getCore t core).refSub = (k + 1) % 8 ∧
      (getCore t core).refAt = (getCore s core).refAt + (if (getStack s (stackOf core)).hot then 2100000 else 4200000) ∧ CoreOnly s t core) ∧
    (∀ back, s.doing = some (.refreshEnd core k) → mode s core k = .refreshing back → (back = none → (getCore s core).oq = []) →
      (∀ r, back = some r → Quiet s core r) → Performs s (.refreshEnd core k) fun t =>
        mode t core k = (match back with | some r => .opened r | none => .closed) ∧ CoreOnly s t core ∧
        (getCore t core).credits = (getCore s core).credits)

/-- R32, R149: a code row is open for fetching in one of two buffers, and the threads that stalled on it go on, those of a row that is
still being opened apart; a fill copies
the 4,096 bytes of its part from their place into a code row, and the threads that parked for it are RUN. -/
def Sys2Proof.Claims.CodeRows : Prop :=
  ∀ (s : State) (core : Nat),
    (∀ row x, s.doing = some (.codeRowOpen core row) → (getCore s core).code.find? (fun y => y.row = row) = some x →
      Performs s (.codeRowOpen core row) fun t =>
        row ∈ (getCore t core).buffers ∧ (getCore t core).buffers.length ≤ 2 ∧ CoreOnly s t core ∧
        (∀ th ∈ ctlThreads s core, fetchesFrom s th x.handle x.part = true → awaitsOpening s th = false → (getThr t th).codeWait = false) ∧
        ∀ th ∈ ctlThreads s core, awaitsOpening s th = true → (getThr t th).codeWait = (getThr s th).codeWait) ∧
    (∀ h part r oc orow, s.doing = some (.codeRowFill core h part) → (∀ b, mode s core 7 ≠ .refreshing b) →
      codeRecord s core h = some r → computedPlace s (slotOf s (tileOf core)) r part = some (oc, orow) → stackDown s (stackOf oc) = false →
      ∃ u c, c ∈ (getCore u core).code ∧ c.handle = h ∧ c.part = part ∧
        (∀ i, i < 4096 → Memory.get u.mem (rowAddr core c.row + i) = Memory.get s.mem (rowAddr oc orow + i)) ∧
        UnchangedBut s u (within (rowAddr core c.row) 4096) ∧
        Performs s (.codeRowFill core h part) fun t =>
          UnchangedBut u t (fun a => ∃ th ∈ ctlThreads s core, parkBytes th a) ∧
          ∀ th ∈ ctlThreads s core, waitsForFill u th = true → fetchesFrom u th h part = true → tstate t th = 2 ∧ getC t th 2 = 0)

/-- R34, R297, R344: when a long operation ends, its register takes the value, c3 its flags, and the instruction retires; only
then can the thread issue again. -/
def Sys2Proof.Claims.LongOperationsEnd : Prop :=
  ∀ (s : State) (th : Thr) (l : LongOp), s.doing = some (.longOpDone th) → (getThr s th).long = some l →
    RetireReadable s th → (getThr s th).cmds = [] →
    (∀ r x, l.write = .s r x → Performs s (.longOpDone th) fun t =>
      FlaggedResult s t th (BitVec.ofNat 6 r) x l.flags (nextPc s th) ∧ (getThr t th).long = none) ∧
    (∀ r x m, l.write = .v r x m → ∃ y : Vec,
      (∀ b, b < 32 → y.extractLsb' (8 * b) 8 = if m.getLsbD b then x.extractLsb' (8 * b) 8
        else (getV s th (BitVec.ofNat 5 r)).extractLsb' (8 * b) 8) ∧
      Performs s (.longOpDone th) fun t =>
        VecResult s t th (BitVec.ofNat 5 r) y l.flags ∧ (getThr t th).long = none)

/-- R81, R82: a core that has stood idle for 65,536 cycles is gated and holds 32 credits; a packet wakes it, and the accesses
held for it join its queue in the order in which they came. -/
def Sys2Proof.Claims.Gating : Prop :=
  ∀ (s : State) (core : Nat),
    (s.doing = some (.coreGate core) → gateDue s core = true → Performs s (.coreGate core) fun t =>
      (getCore t core).gated = true ∧ (getCore t core).credits = 32 ∧ CoreOnly s t core ∧ ¬ Coming t (.run (.creditEarned core))) ∧
    (s.doing = some (.coreWake core) → (getCore s core).held = [] → Performs s (.coreWake core) fun t =>
      (getCore t core).gated = false ∧ CoreOnly s t core) ∧
    (∀ row e, s.doing = some (.coreWake core) → (getCore s core).held = [(row, e)] → queueFull (getCore s core) = false → row < 84 →
      mode s core (subOf (getCore s core) row) = .closed → Performs s (.coreWake core) fun t =>
        (getCore t core).gated = false ∧ (getCore t core).held = [] ∧ CoreOnly s t core ∧
        (getCore t core).oq = (getCore s core).oq ++ [⟨s.now, row, e⟩])

/-! ## Answers, retries, walks and waits (R28, R78, R87, R101 to R105, R112, R115, R153, R154) -/

namespace Sys2Proof.Claims

/-- A request whose thread is PARKED for it in an open row, outside a pair, with no command waiting. -/
structure Awaits (s : State) (id : Nat) (r : Req) : Prop where
  found  : findReq s id = some r
  held   : r.held = false
  parked : tstate s r.thr = 3
  opened : rowOpen s r.thr = true
  alone  : pairOf s r.thr = none
  cmds   : (getThr s r.thr).cmds = []
  fresh  : r.phase ≠ .answered
  reads  : RetireReadable s r.thr

/-- Instructions whose answer is one 64-bit word for s[d]. -/
def wordAnswer : Instr → Option SReg
  | .ldfe d _ _ | .ldff d _ _ | .ibpeek d | .rld d .. | .ramoadd d .. | .rcas d .. | .objq d .. | .commit d ..
  | .decommit d _ | .alloc d _ | .free d .. | .reloc d .. | .objsync d _ | .fillc d .. | .repart d _ | .unpair d | .capr d _
  | .launch d .. | .cancel d .. | .mldb d _ | .mldbW d _ | .mmul d _ | .mmulW d _ | .mout d .. | .mzero d _ | .mtest d
  | .cpy d _ | .cpyx d _ | .cpyc d _ | .gath d _ | .scat d _ | .scatadd d _ | .jpoll d _ | .jwait d _ | .creduce d _
  | .rseq d _ | .rswait d | .mstat d _ => some d
  | .amoAddD d .. | .amoAndD d .. | .amoOrD d .. | .amoXorD d .. | .amoSminD d .. | .amoSmaxD d .. | .amoUminD d ..
  | .amoUmaxD d .. | .amoSwapD d .. | .amoFaddD d .. | .amoFminD d .. | .amoFmaxD d .. | .amoCasD d .. => some d
  | _ => none

/-- The 32-bit atomics, whose answer is sign-extended (R328). -/
def halfAnswer : Instr → Option SReg
  | .amoAddW d .. | .amoAndW d .. | .amoOrW d .. | .amoXorW d .. | .amoSminW d .. | .amoSmaxW d .. | .amoUminW d ..
  | .amoUmaxW d .. | .amoSwapW d .. | .amoFaddW d .. | .amoFminW d .. | .amoFmaxW d .. | .amoCasW d .. => some d
  | _ => none

/-- Instructions whose answer only lets them complete. -/
def noAnswer : Instr → Bool
  | .sto .. | .vsto .. | .stef .. | .stff .. | .sete .. | .rst .. | .hdl .. | .fence _ | .fenceAcq _ | .fenceRel _ | .msend ..
  | .cntdec .. | .cntadd .. | .cntwait .. | .ibdrop | .park => true
  | _ => false

end Sys2Proof.Claims

/-- R28, R87, R326 to R376: a reply to a thread parked in an open row makes it RUN, clears c2, writes the instruction's result
and retires it: a word, a sign-extended part, the lanes of a vector, two registers, or nothing; that of a JWAIT takes the completion that
it awaited (R365). -/
def Sys2Proof.Claims.RepliesComplete : Prop :=
  ∀ (s : State) (id : Nat) (r : Req) (x : Vec), s.doing = some (.reply id (.value x false)) → (findReq s id).isSome →
    -- the answer of a JWAIT takes its job's completion
    let v := takeAwaited s id
    Awaits v id r →
    let th := r.thr
    let w : Word := x.extractLsb' 0 64
    ∃ u, Unparked v u th id ∧
      (∀ d, wordAnswer r.insn = some d → Performs s (.reply id (.value x false)) fun t => ScalarResult u t th d w (nextPc v th)) ∧
      (∀ d, halfAnswer r.insn = some d →
        Performs s (.reply id (.value x false)) fun t => ScalarResult u t th d (sextOf 32 w) (nextPc v th)) ∧
      (∀ d p o z, r.insn = .ldo d p o z →
        Performs s (.reply id (.value x false)) fun t => ScalarResult u t th d (sextOf (8 * z.bytes) w) (nextPc v th)) ∧
      (noAnswer r.insn = true → Performs s (.reply id (.value x false)) fun t => ∃ y, PlainResult u t th (nextPc v th) y) ∧
      (∀ b g p o ty, r.insn = .vldo b g p o ty → ∃ y : Vec,
        (∀ i, i < 32 / ty.size → lane ty.size y i =
          if r.y.getLsbD (i * ty.size) then lane ty.size x i else lane ty.size (getV v th b) i) ∧
        Performs s (.reply id (.value x false)) fun t => VecResult u t th b y 0) ∧
      (∀ b g p o ty, r.insn = .vldb b g p o ty → ∃ y : Vec,
        (∀ i, i < 32 / ty.size → lane ty.size y i =
          if r.y.getLsbD (i * ty.size) then lane ty.size x 0 else lane ty.size (getV v th b) i) ∧
        Performs s (.reply id (.value x false)) fun t => VecResult u t th b y 0) ∧
      (∀ d, r.insn = .ibrecv d → d.toNat % 2 = 0 → d ≠ 0 → Performs s (.reply id (.value x false)) fun t =>
        getS t th d = w ∧ getS t th (d + 1) = x.extractLsb' 64 64 ∧ pcOf t th = nextPc v th ∧ getC t th 14 = getC v th 14 + 1)

/-- R28, R115, R130: a reply that raises a trap makes the thread TRAPPED with the cause, the word and, for an access, the
sub-tile and handle in c9; a poisoned value ends the thread with cause 0x21 and clears its row; a reply to a closed row makes
the thread RUN and is kept. -/
def Sys2Proof.Claims.RepliesOtherwise : Prop :=
  ∀ (s : State) (id : Nat) (r : Req),
    (∀ c sub, s.doing = some (.reply id (.trap c sub)) → awaitedJob s id = none → Awaits s id r → r.thr.row ≠ 84 → Readable s [cAddr r.thr 12] →
      Performs s (.reply id (.trap c sub)) fun t =>
        Trapped s t r.thr c r.word ∧ findReq t id = none ∧
        (c = .stackDown ∨ c = .notResident ∨ c = .objNull ∨ c = .objPerm ∨ c = .outOfShape →
          getC t r.thr 9 = BitVec.ofNat 32 sub ++ r.handle.extractLsb' 0 32)) ∧
    (∀ x, s.doing = some (.reply id (.value x true)) → awaitedJob s id = none → Awaits s id r → r.thr.row < 84 →
      Performs s (.reply id (.value x true)) fun t =>
        tstate t r.thr = 5 ∧ getC t r.thr 7 = getC s r.thr 7 ∧
        getC t r.thr 10 = BitVec.ofNat 64 (0x21 * 4294967296 + r.word.toNat) ∧ findReq t id = none ∧
        ∀ i, i < 3968 → Memory.get t.mem (rowAddr r.thr.core r.thr.row + i) = 0) ∧
    (∀ a, s.doing = some (.reply id a) → awaitedJob s id = none → findReq s id = some r → r.held = false → tstate s r.thr = 3 → rowOpen s r.thr = false →
      r.phase ≠ .answered → Performs s (.reply id a) fun t =>
        tstate t r.thr = 2 ∧ getC t r.thr 2 = 0 ∧ (getThr t r.thr).reply = some (id, a) ∧
        t.reqs = s.reqs.map (fun q => if q.id = id then { q with phase := .answered } else q) ∧
        UnchangedBut s t (parkBytes r.thr))

/-- R103, R105, R153, R154: RETRY backs off 256 cycles, doubled each time up to 4,096, and resends the same operation; REDIRECT
drops the entry and translates again; a walk answers the words it read, or waits for a claimed entry; and a record that it
brings is cached before the translations that waited for it go on. -/
def Sys2Proof.Claims.RetriesAndWalks : Prop :=
  ∀ (s : State) (id : Nat) (r : Req), findReq s id = some r → r.id = id →
    let tile := tileOf r.thr.core
    (s.doing = some (.retry id) → r.cw = .none → Performs s (.retry id) fun t =>
      findReq t id = some { r with retries := r.retries + 1, phase := .backoff } ∧
      DueIn s t (256 * 2 ^ min r.retries 4) (.retryBackoff id) ∧ t.mem = s.mem) ∧
    (s.doing = some (.retryBackoff id) → r.phase = .backoff → (∀ d a p k, r.insn ≠ .msend d a p k) → Performs s (.retryBackoff id) fun t =>
      t = translateReq s id none) ∧
    (s.doing = some (.redirectAnswer id) → Performs s (.redirectAnswer id) fun t =>
      ∃ u, (∀ e ∈ (getTile u tile).subs, ¬ (e.handle = r.oh ∧ e.sub = r.sub)) ∧ u.mem = s.mem ∧ u.reqs = s.reqs ∧
        t = translateReq u id none) ∧
    (∀ p h, s.doing = some (.walk p) → p.addr = .record h → p.recAt = none → s.bitErrs = [] → Performs s (.walk p) fun t =>
      t.mem = s.mem ∧ Coming t (.run (.walkReply p
        ⟨(List.range p.count).map fun i => getWord s (p.place + 8 * i), runPoisoned s p.place (8 * p.count)⟩))) ∧
    (∀ p h n, s.doing = some (.walk p) → p.addr = .entry h n → (h, n) ∈ (getTile s (tileOf (coreOfAddr p.place))).claims →
      s.bitErrs = [] → Performs s (.walk p) fun t =>
        p ∈ (getTile t (tileOf (coreOfAddr p.place))).walks ∧ t.mem = s.mem ∧ t.agenda = s.agenda) ∧
    (∀ p y h words, s.doing = some (.walkReply p ⟨words, false⟩) → p.addr = .record h → p.tile = tile → y.stale = false →
      (getTile s tile).walking.find? (fun x => x.no = p.no) = some y → y.waiters = [id] →
      Performs s (.walkReply p ⟨words, false⟩) fun t =>
        ∃ u, (getTile u tile).recs.find? (fun x => x.1 = h) = some (h, words) ∧ u.mem = s.mem ∧ u.reqs = s.reqs ∧
          t = retranslate u id none)

/-- R78, R87, R105: a wait limit withdraws an operation that is not at its owner with WAIT_LIMIT, and sends a cancel-wait after
one that is; the owner frees the entry and says so, or says that it was served; a withdrawn wait traps, or ends for a command
that asked for it (an operation not yet at its owner is withdrawn at home: log 22). -/
def Sys2Proof.Claims.WaitsAreWithdrawn : Prop :=
  ∀ (s : State) (id : Nat) (r : Req), Awaits s id r → r.thr.row ≠ 84 → r.id = id → Readable s [cAddr r.thr 12] →
    let core := r.frame / 128
    (s.doing = some (.waitLimitExpiry id) → r.cw = .none → r.phase ≠ .sent → Performs s (.waitLimitExpiry id) fun t =>
      Trapped s t r.thr .waitLimit r.word ∧ findReq t id = none) ∧
    (s.doing = some (.waitLimitExpiry id) → r.cw = .none → r.phase = .sent → r.dev = s.io.devid.toNat → Performs s (.waitLimitExpiry id) fun t =>
      findReq t id = some { r with cw := .limit } ∧ t.mem = s.mem ∧
      Coming t (.arrive core (r.frame % 128) (.cancelWait id core))) ∧
    (∀ e, s.doing = some (.cancelWait id core) → (getCore s core).waits.find? (fun p => p.2 = id) = some (e, id) →
      Performs s (.cancelWait id core) fun t =>
        waitOp t core e = 0 ∧ (∀ p ∈ (getCore t core).waits, p.1 ≠ e) ∧ Coming t (.run (.cancelWaitAnswer id false)) ∧
        UnchangedBut s t (within (waitAddr core e) 16)) ∧
    (s.doing = some (.cancelWait id core) → (∀ p ∈ (getCore s core).waits, p.2 ≠ id) → Performs s (.cancelWait id core) fun t =>
      t.mem = s.mem ∧ Coming t (.run (.cancelWaitAnswer id true))) ∧
    (s.doing = some (.cancelWaitAnswer id false) → r.cw = .limit → Performs s (.cancelWaitAnswer id false) fun t =>
      Trapped s t r.thr .waitLimit r.word ∧ findReq t id = none) ∧
    (s.doing = some (.cancelWaitAnswer id false) → r.cw = .stop → Performs s (.cancelWaitAnswer id false) fun t =>
      tstate t r.thr = 2 ∧ getC t r.thr 2 = 0 ∧ findReq t id = none ∧ UnchangedBut s t (parkBytes r.thr))

namespace Sys2Proof.Claims

/-- A packet at its owner: the stack is UP, and the frame's entry names the packet's sub-tile and generation (R104). -/
structure AtOwner (s : State) (p : ObjPkt) : Prop where
  object : p.handle ≠ Config.moduleObj
  up     : stackDown s (stackOf p.frame.core) = false
  fits   : frameFits s p = true
  here   : frameUse s p.frame.core p.frame.row = 1

/-- The issuer's reply is on its way. -/
def Replied (t : State) (p : ObjPkt) (x : Nat) (poison : Bool) : Prop :=
  p.req ≠ 0 → Coming t (.run (.reply p.req (.value (BitVec.ofNat 256 x) poison)))

/-- Only these bytes changed, and FE of no word. -/
def Wrote (s t : State) (w : Nat → Prop) : Prop := UnchangedBut s t w ∧ t.empty = s.empty

/-- R328: the new value of an atomic on w bits. -/
def amoValue (w : Nat) (op : AmoOp) (old x cmp : Nat) : Nat :=
  let f : FFmt := if w = 64 then ⟨11, 52, 1023, true⟩ else ⟨8, 23, 127, true⟩
  match op with
  | .add => (old + x) % 2 ^ w
  | .and => old &&& x
  | .or => old ||| x
  | .xor => old ^^^ x
  | .smin => if (BitVec.ofNat w x).toInt < (BitVec.ofNat w old).toInt then x else old
  | .smax => if (BitVec.ofNat w old).toInt < (BitVec.ofNat w x).toInt then x else old
  | .umin => if x < old then x else old
  | .umax => if old < x then x else old
  | .swap => x
  | .fadd => (fadd f .engine old x).1
  | .fmin => (fminmax f false false old x).1
  | .fmax => (fminmax f false true old x).1
  | .cas => if old = cmp then x else old

/-- Bytes of an atomic. -/
def amoBytes : AmoW → Nat
  | .w64 => 8
  | .w32 => 4

end Sys2Proof.Claims

/-- R17, R92, R104, R110, R190: at its owner an access joins the core's queue, a posted one being answered first; a closed row is
opened for it; one whose frame has changed is answered REDIRECT, and one to a DOWN stack STACK_DOWN. -/
def Sys2Proof.Claims.AccessesArrive : Prop :=
  ∀ (s : State) (p : ObjPkt), s.doing = some (.objectAccessArrival p) → p.handle ≠ Config.moduleObj → p.frame.row < 84 → s.bitErrs = [] →
    let core := p.frame.core
    let k := subOf (getCore s core) p.frame.row
    let posts := ∃ r, findReq s p.req = some r ∧ posted r.insn = true
    (stackDown s (stackOf core) = true → p.op ≠ .retire → p.req ≠ 0 → Performs s (.objectAccessArrival p) fun t =>
      t.mem = s.mem ∧ Coming t (.run (.reply p.req (.trap .stackDown p.sub)))) ∧
    (stackDown s (stackOf core) = false → frameFits s p = false → Performs s (.objectAccessArrival p) fun t =>
      t.mem = s.mem ∧ Coming t (.run (.redirectAnswer p.req))) ∧
    (AtOwner s p → retirementQueued s p.frame = false → (opReads p.op = true → frameCache s core p.frame.row = false) →
      (getCore s core).gated = false → (getCore s core).held = [] → queueFull (getCore s core) = false →
      Performs s (.objectAccessArrival p) fun t =>
        t.mem = s.mem ∧ (posts → p.req ≠ 0 → Replied t p 0 false) ∧
        ∃ q, (q = p ∧ ¬ posts ∨ q = { p with req := 0 } ∧ posts) ∧
          (getCore t core).oq = (getCore s core).oq ++ [⟨s.now, p.frame.row, .step (.admission q)⟩] ∧
          (mode s core k = .closed → Coming t (.run (.outsideActivation core k))))

/-- R93, R101, R326 to R329: at its admission a load answers its bytes, a store writes them, an atomic answers the old value and
writes its new one, and a vector access moves its byte lanes; nothing else changes.  The reserved bits of a handler entry take nothing
(R5, R107; the table has no class for atomics). -/
def Sys2Proof.Claims.AdmittedAccesses : Prop :=
  ∀ (s : State) (p : ObjPkt), s.doing = some (.admission p) → AtOwner s p → s.bitErrs = [] →
    let a := pktAddr p
    let e := Event.admission p
    (∀ n, p.op = .load n → Performs s e fun t => Wrote s t (fun _ => False) ∧ Replied t p (getNat s a n) (runPoisoned s a n)) ∧
    (∀ n, p.op = .vbcast n true → Performs s e fun t => Wrote s t (fun _ => False) ∧ Replied t p (getNat s a n) (runPoisoned s a n)) ∧
    (∀ m, p.op = .vload m → ∃ x, Performs s e (fun t => Wrote s t (fun _ => False) ∧
        Replied t p x ((List.range 4).any fun w => m.extractLsb' (8 * w) 8 ≠ 0 && isPoisoned s (a + 8 * w))) ∧
      ∀ i, i < 32 → x / 256 ^ i % 256 = if m.getLsbD i then (Memory.get s.mem (a + i)).toNat else 0) ∧
    (∀ n x, p.op = .store n x → n ≤ 8 → p.handle ≠ 3 → Performs s e fun t =>
      Wrote s t (within a n) ∧ getNat t a n = x.toNat % 2 ^ (8 * n) ∧ Replied t p 0 false) ∧
    (∀ m x, p.op = .vstore m x → p.handle ≠ 3 → Performs s e fun t =>
      Wrote s t (fun b => within a 32 b ∧ m.getLsbD (b - a)) ∧
      (∀ i, i < 32 → m.getLsbD i → Memory.get t.mem (a + i) = x.extractLsb' (8 * i) 8) ∧ Replied t p 0 false) ∧
    (∀ x, p.op = .store 8 x → p.handle = 3 → a % 8 = 0 → Performs s e fun t =>
      Wrote s t (within a 8) ∧ getWord t a = if a / 8 % 2 = 1 then BitVec.ofNat 64 (x.toNat % 4) else x) ∧
    (∀ o w x cmp, p.op = .amo o w x cmp → runPoisoned s a (amoBytes w) = false → p.handle ≠ 3 → Performs s e fun t =>
      let n := amoBytes w
      Wrote s t (within a n) ∧ Replied t p (getNat s a n) false ∧
      getNat t a n = amoValue (8 * n) o (getNat s a n) (x.toNat % 2 ^ (8 * n)) (cmp.toNat % 2 ^ (8 * n)) % 2 ^ (8 * n)) ∧
    (∀ o w x cmp, p.op = .amo o w x cmp → runPoisoned s a (amoBytes w) = true → p.handle ≠ 3 → Performs s e fun t =>
      Wrote s t (fun _ => False) ∧ Replied t p (getNat s a (amoBytes w)) true)

/-- R101, R103, R327: on a word with no waiter LDFE takes a full word and empties it, LDFF reads it, STEF fills an empty one,
STFF stores and fills, SETE empties; an access that must wait takes an entry of the core's wait list, and a full list answers
RETRY and changes nothing. -/
def Sys2Proof.Claims.FullEmptyAccesses : Prop :=
  ∀ (s : State) (p : ObjPkt), s.doing = some (.admission p) → AtOwner s p → s.bitErrs = [] → (getCore s p.frame.core).waits = [] →
    p.handle ≠ 3 →
    let a := pktAddr p
    let core := p.frame.core
    let e := Event.admission p
    let gives := fun (w : Nat → Prop) (full : Bool) (x : Word) (bad : Bool) => Performs s e fun t =>
      UnchangedBut s t w ∧ isFull t a = full ∧ (∀ b, b ≠ a → isFull t b = isFull s b) ∧ Replied t p x.toNat bad
    let waits := fun (op : Nat) (x : Word) =>
      (∀ n, n < 32 → waitOp s core n ≠ 0) ∧ (Performs s e fun t => Wrote s t (fun _ => False) ∧ Coming t (.run (.retry p.req))) ∨
      ∃ n, n < 32 ∧ waitOp s core n = 0 ∧ Performs s e fun t =>
        waitOp t core n = op ∧ waitRow t core n = p.frame.row % 128 ∧ waitWidx t core n = p.off / 8 % 512 ∧ waitValue t core n = x ∧
        (getCore t core).waits = [(n, p.req)] ∧ Wrote s t (within (waitAddr core n) 16)
    (p.op = .ldfe → isFull s a = true → gives (fun _ => False) false (getWord s a) (isPoisoned s a)) ∧
    (p.op = .ldff → isFull s a = true → gives (fun _ => False) true (getWord s a) (isPoisoned s a)) ∧
    (∀ x, p.op = .stef x → isFull s a = false → gives (within a 8) true 0 false ∧
      ∀ t, exec e.instr s = .next t → getWord t a = x ∧ isPoisoned t a = false) ∧
    (∀ x, p.op = .stff x → gives (within a 8) true 0 false ∧ ∀ t, exec e.instr s = .next t → getWord t a = x ∧ isPoisoned t a = false) ∧
    (p.op = .sete → gives (fun _ => False) false 0 false) ∧
    (p.frame.row < 84 → p.off < 4096 →
      (p.op = .ldfe → isFull s a = false → waits 1 0) ∧ (p.op = .ldff → isFull s a = false → waits 2 0) ∧
      ∀ x, p.op = .stef x → isFull s a = true → waits 3 x)

/-- R111, R112, R336: a probe is echoed by its tile when no access that its sender sent there before is left to be admitted, and
waits otherwise; the last echo clears the bits of c4 that were probed for and completes a FENCE. -/
def Sys2Proof.Claims.FenceProbes : Prop :=
  ∀ (s : State) (id tile : Nat) (r : Req), findReq s id = some r →
    let my := tileOf r.thr.core
    (∀ seq, s.doing = some (.fenceProbe id tile seq) → tile < 2048 →
      ((∀ q ∈ unadmitted s, q.via = tile → q.srcTile = my → seq ≤ q.seq) →
        Performs s (.fenceProbe id tile seq) fun t => t.mem = s.mem ∧ Coming t (.run (.probeEcho id tile))) ∧
      ((∃ q ∈ unadmitted s, q.via = tile ∧ q.srcTile = my ∧ q.seq < seq) →
        Performs s (.fenceProbe id tile seq) fun t => t.mem = s.mem ∧ (id, my, seq) ∈ (getTile t tile).probes)) ∧
    (s.doing = some (.probeEcho id tile) → Performs s (.probeEcho id tile) fun t =>
      t.mem = s.mem ∧ Coming t (.run (.fenceEcho id tile)) ∧ (tile < 2048 → ∀ q ∈ (getTile t tile).probes, q.1 ≠ id)) ∧
    (s.doing = some (.fenceEcho id tile) → r.phase = .fence →
      ((∃ x ∈ r.echoes, x ≠ tile) → Performs s (.fenceEcho id tile) fun t =>
        t.mem = s.mem ∧ findReq t id = some { r with echoes := r.echoes.filter (· ≠ tile) }) ∧
      (∀ sc, r.insn = .fence sc → (∀ x ∈ r.echoes, x = tile) → Awaits s id r → r.id = id → Performs s (.fenceEcho id tile) fun t =>
        getC t r.thr 4 = getC s r.thr 4 &&& ~~~ r.mask ∧ tstate t r.thr = (if (getThr s r.thr).stepping then 1 else 2) ∧
        pcOf t r.thr = nextPc s r.thr ∧ findReq t id = none ∧
        UnchangedBut s t fun b => parkBytes r.thr b ∨ within (cAddr r.thr 4) 8 b ∨ retireBytes s r.thr b))

/-! ## Translation (R115, R133, R139 to R141, R144, R146, R150 to R153, R162, R163) -/

namespace Sys2Proof.Claims

/-- The product of f over the numbers below n. -/
def prodTo (f : Nat → Nat) (n : Nat) : Nat := ((List.range n).map f).prod

/-- The sub-tile of in-shape coordinates, dimension 0 fastest (R146). -/
def subNumber (x : Rec) (c : List Int) : Nat :=
  ((List.range 4).map fun j => (c.getD j 0).toNat / rTile x j * prodTo (rSub x) j).sum

/-- The byte offset within it, the dimensions in the order of PERM (R146). -/
def subOffset (x : Rec) (c : List Int) : Nat :=
  codeSize (rEfmt x) * ((List.range 4).map fun k =>
    (c.getD (rPerm x k) 0).toNat % rTile x (rPerm x k) * prodTo (fun i => rTile x (rPerm x i)) k).sum

/-- In shape (R151). -/
def InShape (x : Rec) (c : List Int) : Prop := ∀ j, j < rRank x → 0 ≤ c.getD j 0 ∧ c.getD j 0 < (rExt x j : Int)

/-- The tile of a request has the record of handle h, which the object table can hold. -/
def Known (s : State) (r : Req) (h : Nat) (x : Rec) : Prop :=
  handleOk s (slotOf s (tileOf r.thr.core)) h = true ∧ (getTile s (tileOf r.thr.core)).recs.find? (fun p => p.1 = h) = some (h, x)

end Sys2Proof.Claims

/-- R115, R141, R144, R146, R150 to R153, R162, R163: what the translation of a plain LDO or STO to a computed or framed object leads
to, of an unpaired thread. Handle 0, a handle above 32 bits and an invalid record trap OBJ_NULL, a missing class OBJ_PERM; out of shape, FAULT
traps OUT_OF_SHAPE, ZERO reads 0 or discards without a packet, CLAMP and WRAP go on with the coordinates that they give; an offset
that is not aligned traps MISALIGNED; else the access goes to its owner. In an entry, RESIDENT and MOVING give the frame and
generation, a CONSTANT reads as its word, an ABSENT one traps NOT_RESIDENT under RESPOL 0 and reads 0 under ZEROREAD, and what
may not be read or written so is a fault: the trap where the record names no fault row, else the park with its record. A record
or an entry that the tile does not have is walked for. -/
def Sys2Proof.Claims.Translation : Prop :=
  ∀ (s : State) (id : Nat) (r : Req) (w : Bool) (d : SReg) (p : Pair) (z : Size), Awaits s id r → r.id = id →
    r.insn = (if w then .sto d p .plain z else .ldo d p .plain z) → r.bad = false → r.thr.row ≠ 84 →
    s.poison = [] → s.bitErrs = [] →
    let slot := slotOf s (tileOf r.thr.core)
    let tile := fun (t : State) => getTile t (tileOf r.thr.core)
    let h := r.handle.toNat
    let cls := if w then 1 else 0
    let traps := fun (t : State) (c : Cause) (n : Nat) => tstate t r.thr = 4 ∧ bits (getC t r.thr 10) 32 8 = c.code ∧
      getC t r.thr 9 = BitVec.ofNat 32 n ++ r.handle.extractLsb' 0 32 ∧ pcOf t r.thr = pcOf s r.thr ∧ findReq t id = none
    let ends := fun (t : State) (x : Word) => (w = false → getS t r.thr d = if d = 0 then 0 else x) ∧ pcOf t r.thr = nextPc s r.thr ∧
      getC t r.thr 4 = getC s r.thr 4 ∧ t.agenda = s.agenda ∧ findReq t id = none
    let sends := fun (t : State) (n g : Nat) (f : Thr) (off : Nat) => ∃ k : ObjPkt, Coming t (.run (.objectAccessArrival k)) ∧
      k.handle = h ∧ k.sub = n ∧ k.gen = g ∧ k.frame = f ∧ k.off = off ∧ k.req = id
    let nowhere := 4294967295
    let t := translateReq s id none
    (h = 0 ∨ 2 ^ 32 ≤ h → traps t .objNull nowhere) ∧
    (h ≠ 0 → h < 2 ^ 32 → handleOk s slot h = false → traps t .objNull nowhere) ∧
    (∀ q, h < 2 ^ 32 → handleOk s slot h = true → (tile s).recs.find? (fun p => p.1 = h) = none → recordPlace s slot h = some q →
      stackDown s (stackOf q.1) = false → q.1 < 2 ^ 20 → q.2.1 < 128 → q.2.2 < 4096 →
      (∃ x ∈ (tile t).walking, x.addr = .record h ∧ id ∈ x.waiters) ∧ t.mem = s.mem) ∧
    (∀ x, h < 2 ^ 32 → h ≠ Config.moduleObj → Known s r h x →
      (recOk s slot x = false ∨ rKind x = 5 → traps t .objNull nowhere) ∧
      -- a computed object
      (recOk s slot x = true → rKind x = 1 →
        (grants x r.key r.priv cls = false → traps t .objPerm nowhere) ∧
        (grants x r.key r.priv cls = true →
          (unpackCoord (rRank x) r.coord = none → traps t .outOfShape nowhere) ∧
          ∀ c, unpackCoord (rRank x) r.coord = some c →
            let goes := fun (c : List Int) =>
              (subOffset x c % z.bytes ≠ 0 → traps t .misaligned (subNumber x c)) ∧
              ∀ core row, subOffset x c % z.bytes = 0 → computedPlace s slot x (subNumber x c) = some (core, row) →
                (stackDown s (stackOf core) = true → traps t .stackDown (subNumber x c)) ∧
                (stackDown s (stackOf core) = false → row < 128 → sends t (subNumber x c) 0 ⟨core, row⟩ (subOffset x c))
            (InShape x c → goes c) ∧
            (¬ InShape x c →
              (rOspol x = 0 → traps t .outOfShape nowhere) ∧ (rOspol x = 1 → ends t 0) ∧
              (rOspol x = 2 → goes ((List.range 4).map fun j => if j < rRank x then min (max (c.getD j 0) 0) (rExt x j - 1) else 0)) ∧
              (rOspol x = 3 → goes ((List.range 4).map fun j => if j < rRank x then
                c.getD j 0 - rExt x j * (c.getD j 0 / rExt x j) else 0))))) ∧
      -- a framed object
      (∀ y c, recOk s slot x = true → rKind x = 2 → Known s r (rTable x) y → tableOk s slot x y = true →
        grants x r.key r.priv cls = true → unpackCoord (rRank x) r.coord = some c → InShape x c → subOffset x c % z.bytes = 0 →
        let n := subNumber x c
        let off := subOffset x c
        (∀ q, (tile s).subs.find? (fun e => e.handle = h ∧ e.sub = n) = none → entryPlace s slot x y n = some q →
          stackDown s (stackOf q.1) = false → q.1 < 2 ^ 20 → q.2.1 < 128 → q.2.2 < 4096 →
          (∃ k ∈ (tile t).walking, k.addr = .entry h n ∧ id ∈ k.waiters) ∧ t.mem = s.mem) ∧
        (∀ w0 w1 : Word,
          let t := translateReq s id (some (h, n, [w0, w1]))
          let faults := (rFaultRow x = 0 → traps t .notResident n) ∧
            (rFaultRow x ≠ 0 → tstate t r.thr = 3 ∧ getC t r.thr 2 = 0x1308 ∧ bits (getC t r.thr 10) 32 8 = 0x13 ∧
              getC t r.thr 9 = BitVec.ofNat 32 n ++ r.handle.extractLsb' 0 32 ∧ pcOf t r.thr = pcOf s r.thr ∧ findReq t id = none)
          (bits w0 0 2 = 1 ∨ bits w0 0 2 = 3 → bits w0 43 19 = s.io.devid.toNat → stackDown s (stackOf (refCore (w0 >>> 16))) = false →
            sends t n (bits w0 2 14) (refThr (w0 >>> 16)) off) ∧
          (bits w0 0 2 = 2 → (w = false → ends t (sextOf (8 * z.bytes) (w1 >>> (8 * (off % 8))))) ∧ (w = true → faults)) ∧
          (bits w0 0 2 = 0 → (rRespol x = 0 → traps t .notResident n) ∧ (rRespol x = 1 → faults) ∧
            (rRespol x = 2 → (w = false → ends t 0) ∧ (w = true → faults))))))

/-! ## Messages, queues, counters, launches (R44 to R62, R106 to R109, R337 to R340) -/

namespace Sys2Proof.Claims

/-- The service row runs the handler of a message: entry (w0, w1) of the table, and its operands in s1 to s6 (R107, R108). -/
structure Handles (s t : State) (core : Nat) (m : Msg) (w0 w1 : Word) : Prop where
  state   : tstate t ⟨core, 84⟩ = 2
  pc      : pcOf t ⟨core, 84⟩ = bits w0 0 32
  code    : codeOf t ⟨core, 84⟩ = bits w0 32 32
  sender  : getS t ⟨core, 84⟩ 1 = refKey m.target ++ 0#2 ++ m.sender
  target  : getS t ⟨core, 84⟩ 2 = m.target
  words   : getS t ⟨core, 84⟩ 3 = m.a ∧ getS t ⟨core, 84⟩ 4 = m.b ∧ getS t ⟨core, 84⟩ 5 = m.c
  number  : getS t ⟨core, 84⟩ 6 = BitVec.ofNat 64 m.h
  key     : keyOf t ⟨core, 84⟩ = refKey m.target ∧ isPriv t ⟨core, 84⟩ = w1.getLsbD 1
  flags   : getC t ⟨core, 84⟩ 3 = 0
  busy    : (getCore t core).handler = true
  frame   : UnchangedBut s t (within (rowAddr core 84) 4096)

end Sys2Proof.Claims

/-- R89, R106, R108, R109: an inbox entry is written behind the others of its core and its sender answered; a thread parked in
IBRECV takes it; an active message starts its handler in the idle service row, or waits for the handler that runs (the entry of one that
has waited is read when it starts: log 68). -/
def Obligations.MessagesArrive : Prop :=
  ∀ (s : State),
    (∀ m e, s.doing = some (.inboxEntry m) → inboxCheck s m = none → Readable s [cAddr (pktHome s (inboxPkt m)) 7] →
      freeEntry s (refCore m.target) = some e → (getCore s (refCore m.target)).ibHeld = [] →
      let core := refCore m.target
      let th := refThr m.target
      ((∀ r ∈ s.reqs, r.thr = th → r.insn ≠ .park ∧ ∀ d, r.insn ≠ .ibrecv d) → Performs s (.inboxEntry m) fun t =>
        getWord t (inboxAddr core e) = m.w0 ∧ getWord t (inboxAddr core e + 8) = m.w1 ∧
        (getCore t core).ibOrder = (getCore s core).ibOrder ++ [(e, refRow m.target, m.scope)] ∧
        UnchangedBut s t (within (inboxAddr core e) 16) ∧
        (m.kind = .message → m.req ≠ 0 → (findReq s m.req).isSome → Coming t (.run (.reply m.req (.value 0 false))))) ∧
      (∀ r d, Awaits s r.id r → r.thr = th → r.insn = .ibrecv d → d ≠ 0 → d.toNat % 2 = 0 → (∀ q ∈ s.reqs, q.thr = th → q = r) →
        (getCore s core).ibOrder = [] → Performs s (.inboxEntry m) fun t =>
          getS t th d = m.w0 ∧ getS t th (d + 1) = m.w1 ∧ pcOf t th = nextPc s th ∧ (getCore t core).ibOrder = [] ∧
          findReq t r.id = none)) ∧
    (∀ m w0 w1, s.doing = some (.activeMessage m) →
      let i : InboxMsg := ⟨.message, m.target, m.a, m.b, m.sender, m.req, m.scope⟩
      inboxCheck s i = none → Readable s [cAddr (pktHome s (inboxPkt i)) 7] → s.bitErrs = [] →
      handlerEntry s (tileOf (refCore m.target)) m.h = some (w0, w1) → w1.getLsbD 0 = true → Performs s (.activeMessage m) fun t =>
        let c := getCore s (refCore m.target)
        (c.handler = false → c.msgs = [] → Handles s t (refCore m.target) m w0 w1) ∧
        (c.handler = true → (getCore t (refCore m.target)).msgs = c.msgs ++ [m] ∧ t.mem = s.mem) ∧
        (m.req ≠ 0 → (findReq s m.req).isSome → Coming t (.run (.reply m.req (.value 0 false))))) ∧
    (∀ core m l w0 w1, s.doing = some (.handlerStart core) → (getCore s core).msgs = m :: l → (getCore s core).handler = false → s.bitErrs = [] →
      handlerEntry s (tileOf core) m.h = some (w0, w1) → Performs s (.handlerStart core) fun t =>
        Handles s t core m w0 w1 ∧ (getCore t core).msgs = l)

/-- R51, R52: a doorbell moves QTAIL to an index ahead of it that the ring can hold and its packet becomes a QUEUED launch, and
one behind or too far changes nothing (a QSIZE outside 4 to 20 is used as it stands: log 63); THAW clears FROZEN. -/
def Sys2Proof.Claims.Doorbells : Prop :=
  ∀ (s : State) (q : Nat) (v : Word),
    let qs := getQueue s q
    (s.doing = some (.doorbell q v) → qs.devfed = false →
      ((v - qs.tail).toNat < 2 ^ 63 → (v - qs.fence).toNat ≤ 2 ^ qs.size.toNat → Performs s (.doorbell q v) fun t =>
        (getQueue t q).tail = v ∧ (getQueue t q).head = qs.head ∧ t.mem = s.mem ∧
        (v = qs.tail + 1 → pKind (ringPacket s qs qs.tail) = 1 → qs.issuers = [] → s.bitErrs = [] →
          ∃ l ∈ t.io.launches, l.queue = q ∧ l.index = qs.tail ∧ l.state = .queued ∧ l.packet = ringPacket s qs qs.tail ∧
            l.part = qs.part ∧ l.key = (if bits (l.packet.getD 0 0) 16 16 = 0 then qs.key else ((l.packet.getD 0 0).extractLsb' 16 16)))) ∧
      (2 ^ 63 ≤ (v - qs.tail).toNat ∨ 2 ^ qs.size.toNat < (v - qs.fence).toNat → exec .doorbell s = .next s)) ∧
    (s.doing = some (.thaw q) → Performs s (.thaw q) fun t =>
      (getQueue t q).frozen = false ∧ (getQueue t q).head = qs.head ∧ (getQueue t q).tail = qs.tail ∧ t.mem = s.mem)

/-- R45, R52, R53, R55, R57: the packet at QHEAD of an enabled queue is dispatched: a sound launch becomes READY, or WAITING on its
counter; one that fails its checks is COMPLETE and freezes the queue; a COUNTER packet sets its counter; a FENCE packet moves
QFENCE once its queue's launches are complete and its record word can be written; and QHEAD moves on. -/
def Sys2Proof.Claims.Dispatching : Prop :=
  ∀ (s : State) (q : Nat), canDispatch (getQueue s q) = true → (getQueue s q).hold = .none →
    let qs := getQueue s q
    let p := ringPacket s qs qs.head
    (∀ l, s.doing = some (.dispatch q) → launchAt s q qs.head = some l → l.state = .queued → findLaunch s l.id = some l →
      l.part = qs.part → Performs s (.dispatch q) fun t =>
        (getQueue t q).head = qs.head + 1 ∧
        (threadsPacketOk s qs l = true → cancelledCounter s l.packet = false →
          (pWaitEn l.packet = false ∨ ((getCounter s (pWaitCtr l.packet)).value = 0 ∧ (getCounter s (pWaitCtr l.packet)).errtok = false ∧
            (getCounter s (pWaitCtr l.packet)).cancel = false) →
            findLaunch t l.id = some { l with state := .ready, readyAt := s.io.nextReady, inRing := false } ∧ t.mem = s.mem) ∧
          (pWaitEn l.packet = true → (getCounter s (pWaitCtr l.packet)).value ≠ 0 →
            findLaunch t l.id = some { l with state := .waiting, inRing := false } ∧ t.mem = s.mem ∧
            Waiter.launch l.id ∈ (getCounter t (pWaitCtr l.packet)).waiters)) ∧
        (threadsPacketOk s qs l = false → (∀ x, findLaunch t l.id = some x → x.state = .complete ∧ x.status = 3) ∧
          (getQueue t q).frozen = true)) ∧
    (s.doing = some (.counterPacket q) → s.bitErrs = [] → headKind s q = 3 → plainPacketOk s qs p = true → pWaitEn p = false →
      (getCounter s (pDoneCtr p)).waiters = [] → Performs s (.counterPacket q) fun t =>
        getCounter t (pDoneCtr p) = { owner := (getCounter s (pDoneCtr p)).owner, value := (pw p 3).extractLsb' 0 32 } ∧
        (getQueue t q).head = qs.head + 1 ∧ t.mem = s.mem) ∧
    (s.doing = some (.fencePacket q) → s.bitErrs = [] → headKind s q = 2 → plainPacketOk s qs p = true → pWaitEn p = false →
      (queueBusy s q = false → fenceWaits s qs p = false → Performs s (.fencePacket q) fun t =>
        (getQueue t q).fence = qs.head + 1 ∧ (getQueue t q).head = qs.head + 1) ∧
      (queueBusy s q = false → fenceWaits s qs p = true → Performs s (.fencePacket q) fun t =>
        (getQueue t q).fence = qs.fence ∧ (getQueue t q).head = qs.head ∧ t.mem = s.mem ∧ DueIn s t 1 (.fencePacket q)) ∧
      (queueBusy s q = true → Performs s (.fencePacket q) fun t =>
        (getQueue t q).head = qs.head ∧ (getQueue t q).fence = qs.fence ∧ t.mem = s.mem))

/-- R55 to R57, R374: a decrement takes one from VALUE, sets OVER at 0 and keeps an error token; at 0 it releases what waits: a
launch is READY, a CNTWAIT answered; CNTDEC is answered, decrements a counter of the thread's own partition, and leaves one of another
partition as it is, with a diversion record; a write sets VALUE and clears the flags, and through the PF sets OWNER. -/
def Obligations.Counters : Prop :=
  ∀ (s : State) (n : Nat),
    let c := getCounter s n
    (∀ err, s.doing = some (.counterDecrement n err 0) →
      (c.value ≠ 1 → Performs s (.counterDecrement n err 0) fun t =>
        getCounter t n = { c with value := (if c.value = 0 then 0 else c.value - 1), overrun := c.overrun || c.value == 0, errtok := c.errtok || err } ∧
        t.mem = s.mem) ∧
      (∀ l, c.value = 1 → c.waiters = [.launch l.id] → findLaunch s l.id = some l → c.cancel = false → c.errtok = false → err = false →
        Performs s (.counterDecrement n err 0) fun t =>
          findLaunch t l.id = some { l with state := .ready, readyAt := s.io.nextReady } ∧
          (getCounter t n).value = 0 ∧ (getCounter t n).waiters = []) ∧
      (∀ r, c.value = 1 → c.waiters = [.request r.id] → findReq s r.id = some r → Performs s (.counterDecrement n err 0) fun t =>
        Coming t (.run (.reply r.id (.value 0 false))) ∧ (getCounter t n).value = 0 ∧ (getCounter t n).waiters = [])) ∧
    (∀ r, s.doing = some (.counterDecrement n false r.id) → r.id ≠ 0 → findReq s r.id = some r →
      (c.owner = partKey s (tileOf r.thr.core) → c.value ≠ 1 ∨ c.waiters = [] → Performs s (.counterDecrement n false r.id) fun t =>
        getCounter t n = { c with value := (if c.value = 0 then 0 else c.value - 1), overrun := c.overrun || c.value == 0 } ∧
        t.mem = s.mem ∧ Coming t (.run (.reply r.id (.value 0 false)))) ∧
      (c.owner ≠ partKey s (tileOf r.thr.core) → Performs s (.counterDecrement n false r.id) fun t =>
        getCounter t n = c ∧ t.mem = s.mem ∧ Coming t (.run (.reply r.id (.value 0 false))) ∧
        ToSupervisor s t (slotOf s (tileOf r.thr.core)) (BitVec.ofNat 64 n) (0x20#8 ++ 1#8 ++ 0#2 ++ refOf s r.thr))) ∧
    (∀ v pf, s.doing = some (.counterWrite n v pf) → c.waiters = [] → Performs s (.counterWrite n v pf) fun t =>
      getCounter t n = { owner := if pf then v.extractLsb' 48 16 else c.owner, value := v.extractLsb' 0 32 } ∧ t.mem = s.mem)

/-- R47 to R50, R62: a reservation whose rows are FREE leads to the placement, which writes the thread's registers and control
words, every other byte of its row or row pair but c5 zero, before it is runnable; an agent reports the FREE rows of its tile (that
the placement follows its reservation at once is log 28). -/
def Sys2Proof.Claims.Placing : Prop :=
  ∀ (s : State),
    (∀ l rows, s.doing = some (.reservation l.id rows) → findLaunch s l.id = some l → l.state = .ready → allFree s l rows = true →
      Performs s (.reservation l.id rows) fun t => t.mem = s.mem ∧ t.io = s.io ∧ DueIn s t 0 (.placement l.id rows)) ∧
    (∀ l th, s.doing = some (.placement l.id [th]) → findLaunch s l.id = some l → l.state = .ready → (keySlot s l.part).isSome →
      allFree s l [th] = true → pPair l.packet = false → pImage l.packet = 0 → l.id < 2 ^ 24 → l.prio < 128 →
      (codeRowOf s th.core (pCode l.packet) (pEntry l.packet / 4096)).isSome →
      Performs s (.placement l.id [th]) fun t =>
        findLaunch t l.id = some { l with state := .placed, rows := [th], msgs := [] } ∧
        tstate t th = (if pHold l.packet then 1 else 2) ∧ prioOf t th = l.prio ∧
        pcOf t th = pEntry l.packet ∧ codeOf t th = pCode l.packet ∧
        getS t th 1 = 0 ∧ getS t th 2 = BitVec.ofNat 64 (pThreads l.packet) ∧ getS t th 3 = BitVec.ofNat 64 (pArg l.packet) ∧
        keyOf t th = l.key ∧ isPriv t th = pPriv l.packet ∧ isWide t th = pWide l.packet ∧ launchIdOf t th = l.id ∧
        getC t th 6 = pw l.packet 5 ∧ getC t th 12 = pw l.packet 4 ∧ getC t th 15 = BitVec.ofNat 64 (pArg l.packet) ∧
        (∀ n ∈ [2, 3, 4, 9, 10, 11, 13, 14], getC t th n = 0) ∧
        (∀ i, i < 8 ∨ 32 ≤ i → i < 3968 → Memory.get t.mem (rowAddr th.core th.row + i) = 0) ∧
        (pWide l.packet = true → ∀ i, i < 4096 → Memory.get t.mem (rowAddr th.core (th.row + 12) + i) = 0)) ∧
    (∀ tile, s.doing = some (.agentReport tile) → Performs s (.agentReport tile) fun t =>
      t.mem = s.mem ∧ ∀ c ∈ s.cores, tileOf c.1 = tile →
        (c.1, (List.range 84).filter (isFreeRow s c.1)) ∈ (getTile t tile).report)

/-- R54, R57, R60, R61, R201: a launch whose threads have ended is COMPLETE, its rows are zero and FREE, a failed one freezes its
queue and puts an error token on the counter that it decrements (that a failed one is THREAD_FAULT though it was cancelled is log 41), and
QCOMP counts it once its counters have been; a WAITING launch
lends its PRIO to the one that its counter awaits, and a write of it goes to each row; a partition's reset frees every thread row,
clears its counters and stops its handlers. -/
def Sys2Proof.Claims.LaunchesEnd : Prop :=
  ∀ (s : State),
    (∀ l th, s.doing = some (.launchCompletion l.id) → findLaunch s l.id = some l → l.state = .placed → l.rows = [th] →
      l.ended = [th] → (∀ p ∈ s.pairs, p.leader ≠ th) → (getCore s th.core).ibHeld = [] → th.row < 84 →
      (getQueue s l.queue).part = l.part → Performs s (.launchCompletion l.id) fun t =>
        (∀ x, findLaunch t l.id = some x → x.state = .complete ∧ x.status = (if l.failed then 2 else if l.cancel then 1 else 0)) ∧
        (∀ i, i < 4096 → Memory.get t.mem (rowAddr th.core th.row + i) = 0) ∧
        tstate t th = 0 ∧ (∀ i, isFull t (rowAddr th.core th.row + 8 * i) = true ∨ 512 ≤ i) ∧
        (l.failed = true → (getQueue t l.queue).frozen = true) ∧
        (pDoneEn l.packet = true → (getCounter s (pDoneCtr l.packet)).owner = l.part →
          Coming t (.run (.counterDecrement (pDoneCtr l.packet) l.failed 0)) ∧ Coming t (.run (.launchCompletion l.id)))) ∧
    (∀ l, s.doing = some (.launchCompletion l.id) → findLaunch s l.id = some l → l.state = .complete → l.launcher = none →
      l.inRing = false → (getQueue s l.queue).part = l.part → Performs s (.launchCompletion l.id) fun t =>
        findLaunch t l.id = none ∧ t.mem = s.mem ∧
        (getQueue t l.queue).comp =
          ((getQueue s l.queue).comp.extractLsb' 32 32 + (if l.status = 0 then 0 else 1)) ++
          ((getQueue s l.queue).comp.extractLsb' 0 32 + 1)) ∧
    (∀ x w th, s.doing = some (.priorityLoan x.part.toNat none 0) → s.io.launches = [x, w] → w.part = x.part → x.id ≠ w.id →
      x.state = .placed → x.rows = [th] → pPair x.packet = false → w.state = .waiting → pDoneEn x.packet = true →
      pDoneCtr x.packet = pWaitCtr w.packet → pPrio x.packet < pPrio w.packet → x.prio < pPrio w.packet →
      Performs s (.priorityLoan x.part.toNat none 0) fun t =>
        (findLaunch t x.id).map (·.prio) = some (pPrio w.packet) ∧ t.mem = s.mem ∧
        Coming t (.arrive th.core th.row (.priorityLoan x.part.toNat (some th) (pPrio w.packet)))) ∧
    (∀ part th prio l, s.doing = some (.priorityLoan part (some th) prio) → l ∈ s.io.launches → l.state = .placed → th ∈ l.rows →
      pairOf s th = none → prio < 128 → Performs s (.priorityLoan part (some th) prio) fun t =>
        prioOf t th = prio ∧ tstate t th = tstate s th ∧ UnchangedBut s t (within (cAddr th 0) 8)) ∧
    (∀ slot, s.doing = some (.partitionReset slot) → (getPart s slot).key ≠ 0 → (∀ l ∈ s.io.launches, l.part ≠ (getPart s slot).key) →
      (∀ c, (getCore s c).ibHeld = []) → Performs s (.partitionReset slot) fun t =>
        (∀ n, (getCounter s n).owner = (getPart s slot).key → getCounter t n = { owner := (getPart s slot).key }) ∧
        (∀ n, (getCounter s n).owner ≠ (getPart s slot).key → (∀ q, Waiter.queue q ∉ (getCounter s n).waiters) →
          getCounter t n = getCounter s n) ∧
        ∀ c ∈ s.cores, tileOf c.1 ∈ tilesOfSlot s slot →
          (getCore t c.1).handler = false ∧ (getCore t c.1).msgs = [] ∧
          ∀ r, r < 84 → isThreadRow s c.1 r = true → tstate t ⟨c.1, r⟩ = 0)

/-- R51, R55, R58, R320, R373 to R375: what the instructions of the task family ask for happens at the I/O die. LAUNCH gets the first
status that applies, or its packet stands at QTAIL and its launch is QUEUED; CNTADD saturates and releases nobody; CNTWAIT is answered
at 0 and else waits; a counter of another partition is left as it is, with a diversion record; CANCEL applies to what its level names,
and of a placed launch is answered once other rows have had their packet; CAPR reads the capability list. -/
def Sys2Proof.Claims.TaskEffects : Prop :=
  ∀ (s : State) (id : Nat) (r : Req), findReq s id = some r →
    let tells := fun (t : State) (x : Word) => Coming t (.run (.reply id (.value (x.setWidth 256) false)))
    let own := partKey s (tileOf r.thr.core)
    let n := r.x.toNat
    let c := getCounter s n
    let divertsIt := fun (t : State) => getCounter t n = c ∧ t.mem = s.mem ∧ tells t 0 ∧
      ToSupervisor s t (slotOf s (tileOf r.thr.core)) (BitVec.ofNat 64 n) (0x20#8 ++ 1#8 ++ 0#2 ++ refOf s r.thr)
    (s.doing = some (.request .launch id) →
      let q := getQueue s n
      let bad := fun (k : Word) => Performs s (.request .launch id) fun t => tells t (0x8000000000000000#64 + k) ∧ t.mem = s.mem ∧ t.io = s.io
      (2048 ≤ n → bad 4) ∧
      (n < 2048 → (q.en = false ∨ q.devfed = false ∨ q.part ≠ own → bad 1) ∧
        (q.en = true → q.devfed = true → q.part = own → (pPriv r.block = true → r.priv = false → bad 3) ∧
          (pPriv r.block = false ∨ r.priv = true →
            (q.tail - q.fence = BitVec.ofNat 64 (2 ^ q.size.toNat) → bad 2) ∧
            (∀ a : Nat → Nat, q.tail - q.fence ≠ BitVec.ofNat 64 (2 ^ q.size.toNat) → (∀ i, i < 8 → ringAddr s q q.tail i = some (a i)) →
              (∀ i j, i < 8 → j < 8 → i ≠ j → a i + 8 ≤ a j ∨ a j + 8 ≤ a i) → s.io.launches.length < 16777215 →
              Performs s (.request .launch id) fun t => ∃ l, l < 2 ^ 24 ∧ (∀ x ∈ s.io.launches, x.id ≠ l) ∧ tells t (BitVec.ofNat 64 l) ∧
                (getQueue t n).tail = q.tail + 1 ∧ (∀ i, i < 8 → getWord t (a i) = pw r.block i) ∧
                UnchangedBut s t (fun b => ∃ i, i < 8 ∧ within (a i) 8 b) ∧
                (pKind r.block = 1 → ∃ x ∈ t.io.launches, x.id = l ∧ x.queue = n ∧ x.index = q.tail ∧ x.state = .queued ∧
                  x.packet = r.block ∧ x.launcher = some r.thr ∧ x.key = if pKey r.block = 0 then r.key else pKey r.block)))))) ∧
    (s.doing = some (.request .cntadd id) →
      (c.owner = own → Performs s (.request .cntadd id) fun t => tells t 0 ∧ t.mem = s.mem ∧
        getCounter t n = if 2 ^ 32 ≤ c.value.toNat + bits r.y 0 32 then { c with value := 0xFFFFFFFF#32, overrun := true }
          else { c with value := c.value + r.y.setWidth 32 }) ∧
      (c.owner ≠ own → Performs s (.request .cntadd id) divertsIt)) ∧
    (s.doing = some (.request .cntwait id) →
      (c.owner = own → c.value = 0 → Performs s (.request .cntwait id) fun t => tells t 0 ∧ t.mem = s.mem ∧ getCounter t n = c) ∧
      (c.owner = own → c.value ≠ 0 → Performs s (.request .cntwait id) fun t =>
        getCounter t n = { c with waiters := c.waiters ++ [.request id] } ∧ t.mem = s.mem ∧ t.agenda = s.agenda) ∧
      (c.owner ≠ own → Performs s (.request .cntwait id) divertsIt)) ∧
    (s.doing = some (.request .capr id) → Performs s (.request .capr id) fun t => t.mem = s.mem ∧ t.io = s.io ∧
      tells t (if 0x1000 ≤ n ∧ n ≤ 0xFFFF8 then barRead s n else BitVec.allOnes 64)) ∧
    (s.doing = some (.request .cancel id) → s.io.swapStatus ≠ 1 →
      let alone := fun (k : Word) => Performs s (.request .cancel id) fun t => tells t k ∧ t.mem = s.mem ∧ t.io = s.io ∧ t.tiles = s.tiles
      (4 ≤ bits r.y 0 8 ∨ bits r.y 8 56 ≠ 0 → alone 3) ∧
      (r.y = 0 → (2 ^ 24 ≤ n → alone 3) ∧ (n < 2 ^ 24 → findLaunch s n = none → alone 1) ∧
        ∀ l, n < 2 ^ 24 → findLaunch s n = some l →
          (l.state = .complete → alone 1) ∧
          (l.state ≠ .complete → r.priv = false → l.key ≠ r.key → alone 2) ∧
          (r.priv = true ∨ l.key = r.key →
            (l.state = .queued ∨ l.state = .waiting ∨ l.state = .ready → Performs s (.request .cancel id) fun t => tells t 0 ∧
              ∀ x, findLaunch t n = some x → x.state = .complete ∧ x.status = 1) ∧
            (∀ th, l.state = .placed → l.swapped = false → l.rows = [th] → Performs s (.request .cancel id) fun t =>
              Coming t (.arrive th.core th.row (.heddleCancel ⟨keyedRef s th, 496, true, 0, 0, 6, BitVec.ofNat 64 id, false, 0⟩)) ∧
              (findLaunch t n).map (·.cancel) = some true ∧ t.mem = s.mem ∧
              (th = r.thr → tells t 0) ∧
              (th ≠ r.thr → findReq t id = some { r with echoes := [th.core * 128 + th.row] })))) ∧
      (∀ g : Bool, r.y = (if g then 2 else 1) → (2 ^ 16 ≤ n → alone 3) ∧ (n < 2 ^ 16 → c.owner ≠ own → alone 2) ∧
        (n < 2 ^ 16 → c.owner = own → namedBy s n g = [] → Performs s (.request .cancel id) fun t =>
          getCounter t n = { c with cancel := true } ∧ tells t 0 ∧ t.mem = s.mem)) ∧
      (r.y = 3 → (2 ^ 19 ≤ n → alone 3) ∧
        (n < 64 → ((getTile s (tileOf r.thr.core)).jobs.find? fun j => j.entry = n && j.status.isNone) = none → alone 1) ∧
        ∀ j, n < 64 → ((getTile s (tileOf r.thr.core)).jobs.find? fun j => j.entry = n && j.status.isNone) = some j →
          (r.priv = false → keyOf s j.thr ≠ r.key → alone 2) ∧
          (r.priv = true ∨ keyOf s j.thr = r.key → Performs s (.request .cancel id) fun t => tells t 0 ∧ t.mem = s.mem ∧
            ∃ x ∈ (getTile t (tileOf r.thr.core)).jobs, x.entry = n ∧ x.cancel = true ∧ x.status = none)))

/-- R39, R317: REPART at the core that it names: 1 where that is the issuer's own or is not quiescent, and nothing changes; else 0, and
where the mode differs it is changed and rows 0 to 83 are zeros. -/
def Sys2Proof.Claims.RepartEffects : Prop :=
  ∀ (s : State) (id : Nat) (r : Req), findReq s id = some r → s.doing = some (.request .repart id) → State.Subarrays s →
    let core := bits r.x 0 20
    let quiet := (∀ row, row < 84 → isFreeRow s core row = true) ∧ (∀ k, k < 7 → (getSub s core k).mode = .closed ∨ (getSub s core k).mode = .refreshing none) ∧
      (∀ q ∈ (getCore s core).oq, 84 ≤ q.row) ∧ ∀ h ∈ (getCore s core).held, 84 ≤ h.1
    let tells := fun (t : State) (x : Word) => Coming t (.run (.reply id (.value (x.setWidth 256) false)))
    (core = r.thr.core ∨ ¬ quiet → Performs s (.request .repart id) fun t => tells t 1 ∧ t.mem = s.mem ∧ t.cores = s.cores) ∧
    (core ≠ r.thr.core → quiet → (getCore s core).wide = r.x.getLsbD 32 → Performs s (.request .repart id) fun t =>
      tells t 0 ∧ t.mem = s.mem ∧ t.cores = s.cores) ∧
    (core ≠ r.thr.core → quiet → (getCore s core).wide ≠ r.x.getLsbD 32 → Performs s (.request .repart id) fun t =>
      tells t 0 ∧ (getCore t core).wide = r.x.getLsbD 32 ∧
      (∀ row i, row < 84 → i < 4096 → Memory.get t.mem (rowAddr core row + i) = 0) ∧
      UnchangedBut s t (within (rowAddr core 0) (84 * 4096)))

/-! ## Pairs, swap, relocation, majority, health, fabric and device registers (R37, R54 to R61, R97 to R99, R120 to R137, R154 to
R208, R256) -/

namespace Sys2Proof.Claims

/-- A pair stands with nothing trapped, held or waiting, its follower on the core beside the leader's (R48). -/
structure Calm (s : State) (p : PairSt) : Prop where
  found    : pairOf s p.leader = some p
  both     : pairOf s p.follower = some p
  beside   : p.follower = partnerOf p.leader
  rows     : p.leader.row < 84
  narrow   : isWide s p.leader = false ∧ isWide s p.follower = false
  nothing  : p.held = [] ∧ p.outside = [] ∧ p.ending = .none ∧ p.trapLead = none ∧ p.trapFoll = none ∧ p.sending = [] ∧ p.storing = 0
  requests : reqOf s p.leader = none ∧ reqOf s p.follower = none

/-- Both sides ended as UNRECOVERED (R127). -/
def PairEnded (t : State) (p : PairSt) : Prop :=
  tstate t p.leader = 5 ∧ tstate t p.follower = 5 ∧ bits (getC t p.leader 10) 32 8 = 0x22 ∧ bits (getC t p.follower 10) 32 8 = 0x22

end Sys2Proof.Claims

/-- R126, R127: at a checkpoint a side sends its fingerprint and waits 2^20 cycles for the other's; equal ones commit, the first
unequal ones roll back, and second unequal ones, or none in time, end the pair with cause 0x22 (that sides which have retired different
counts of instructions are unequal is log 25). -/
def Sys2Proof.Claims.PairCheckpoints : Prop :=
  ∀ (s : State) (p : PairSt), Calm s p →
    let l := p.leader
    let f := p.follower
    (s.doing = some (.checkpoint l.core l.row) → atCheckpoint s p l = true → p.copying = none → (getThr s l).long = none →
      printSent s l = false → Readable s [cAddr l 13] → Performs s (.checkpoint l.core l.row) fun t =>
        t.mem = s.mem ∧ Coming t (.run (.fingerprint l.core l.row (getC s l 13))) ∧
        DueIn s t 1048576 (.fingerprintTimeout l.core l.row)) ∧
    (∀ th ∈ [l, f], ∀ x, s.doing = some (.fingerprint th.core th.row x) →
      let other := if th = l then p.fpFoll else p.fpLead
      let q := if th = l then { p with fpLead := some x } else { p with fpFoll := some x }
      (other = none → Performs s (.fingerprint th.core th.row x) fun t =>
        pairOf t l = some q ∧ t.mem = s.mem ∧ t.agenda = s.agenda) ∧
      (∀ y, other = some y →
        let same := x = y ∧ getC s l 14 = getC s f 14
        (same ∨ p.missed = false → Performs s (.fingerprint th.core th.row x) fun t =>
          (∃ k, k = decide same ∧ DueIn s t 160 (.shadowCopy l.core l.row k) ∧ DueIn s t 160 (.shadowCopy f.core f.row k) ∧
            pairOf t l = some { q with copying := some k, copied := 0 }) ∧ t.mem = s.mem) ∧
        (¬ same → p.missed = true → Performs s (.fingerprint th.core th.row x) fun t => PairEnded t p))) ∧
    (s.doing = some (.fingerprintTimeout l.core l.row) → p.copying = none → Performs s (.fingerprintTimeout l.core l.row) fun t =>
      PairEnded t p)

/-- R126: a commit copies a side's row to its shadow row, and the second copy begins a new interval with c13 zero; a rollback
copies the shadow row back and the interval counts as missed; each copy spends a credit. -/
def Sys2Proof.Claims.ShadowCopies : Prop :=
  ∀ (s : State) (p : PairSt) (k : Bool), Calm s p → p.copying = some k →
    1 + promised s p.leader.core ≤ (getCore s p.leader.core).credits →
    let l := p.leader
    let sh := shadowOf l
    s.doing = some (.shadowCopy l.core l.row k) →
    (k = false → s.bitErrs = [] ∧ runPoisoned s (rowAddr sh.core sh.row) 4096 = false) →
    (p.copied = 0 → Performs s (.shadowCopy l.core l.row k) fun t =>
      (∀ i, i < 4096 → Memory.get t.mem (rowAddr (if k then sh else l).core (if k then sh else l).row + i) =
        Memory.get s.mem (rowAddr (if k then l else sh).core (if k then l else sh).row + i)) ∧
      UnchangedBut s t (within (rowAddr (if k then sh else l).core (if k then sh else l).row) 4096) ∧
      pairOf t l = some { p with copied := 1 } ∧ (getCore t l.core).credits = (getCore s l.core).credits - 1) ∧
    (p.copied = 1 → k = true → Performs s (.shadowCopy l.core l.row k) fun t =>
      getC t l 13 = 0 ∧ getC t p.follower 13 = 0 ∧
      ∃ q, pairOf t l = some q ∧ q.start = getC s l 14 ∧ q.missed = false ∧ q.copying = none ∧ q.fpLead = none ∧ q.fpFoll = none) ∧
    (p.copied = 1 → k = false → Performs s (.shadowCopy l.core l.row k) fun t =>
      (∀ i, i < 4096 → Memory.get t.mem (rowAddr l.core l.row + i) = Memory.get s.mem (rowAddr sh.core sh.row + i)) ∧
      ∃ q, pairOf t l = some q ∧ q.missed = true ∧ q.copying = none ∧ q.start = p.start)

/-- R48, R124, R318: the answer 0 of PAIR makes the pair: s[d] is 0 and c7 PAIRED; the follower's row on the core beside it is a copy with
PARTNER in place of PAIRED, each side's shadow row a copy of the side, and both stand at the next instruction with c13 zero. -/
def Sys2Proof.Claims.PairMade : Prop :=
  ∀ (s : State) (r : Req) (d : SReg), s.doing = some (.reply r.id (.value 0 false)) → Awaits s r.id r → awaitedJob s r.id = none →
    r.insn = .pair d → r.thr.row < 84 → r.thr.row % 12 ≠ 11 → isWide s r.thr = false → s.poison = [] → s.bitErrs = [] →
    let l := r.thr
    let f := partnerOf r.thr
    let same := fun (t : State) (x y : Thr) (w : Nat → Prop) => ∀ i, i < 4096 → ¬ w (rowAddr y.core y.row + i) →
      Memory.get t.mem (rowAddr y.core y.row + i) = Memory.get t.mem (rowAddr x.core x.row + i)
    Performs s (.reply r.id (.value 0 false)) fun t =>
      getS t l d = 0 ∧ pcOf t l = nextPc s l ∧ getC t l 13 = 0 ∧ bits (getC t l 7) 18 2 = 1 ∧ bits (getC t f 7) 18 2 = 2 ∧
      same t l f (within (cAddr f 7) 8) ∧ same t l (shadowOf l) (fun _ => False) ∧ same t f (shadowOf f) (fun _ => False) ∧
      (∃ p ∈ t.pairs, p.leader = l ∧ p.follower = f ∧ p.start = getC t l 14) ∧ findReq t r.id = none

/-- R128, R297, R319: where both sides stand at UNPAIR as their interval commits, the pair ends: follower and shadow rows are FREE and
zero, the leader's c7 is PAIRED no longer, and its UNPAIR writes 0 and is done. -/
def Sys2Proof.Claims.UnpairEnds : Prop :=
  ∀ (s : State) (p : PairSt) (r : Req) (d : SReg), s.pairs = [p] → p.follower = partnerOf p.leader → p.leader.row < 84 → p.leader.row % 12 ≠ 11 →
    isWide s p.leader = false → isWide s p.follower = false →
    p.copying = some true → p.copied = 1 → p.held = [] ∧ p.outside = [] ∧ p.storing = 0 → p.ending = .none → p.trapLead = none →
    1 + promised s p.leader.core ≤ (getCore s p.leader.core).credits →
    reqOf s p.leader = some r → findReq s r.id = some r → r.insn = .unpair d → r.held = false → r.phase ≠ .answered →
    tstate s p.leader = 3 → rowOpen s p.leader = true → (getThr s p.leader).cmds = [] → s.poison = [] → s.bitErrs = [] →
    (∀ c, (getCore s c).ibHeld = []) → s.doing = some (.shadowCopy p.leader.core p.leader.row true) →
    Performs s (.shadowCopy p.leader.core p.leader.row true) fun t =>
      t.pairs = [] ∧ bits (getC t p.leader 7) 18 2 = 0 ∧ getS t p.leader d = 0 ∧ pcOf t p.leader = nextPc s p.leader ∧
      tstate t p.leader = (if (getThr s p.leader).stepping then 1 else 2) ∧ findReq t r.id = none ∧
      ∀ x ∈ [p.follower, shadowOf p.follower, shadowOf p.leader], tstate t x = 0 ∧
        ∀ i, i < 4096 → Memory.get t.mem (rowAddr x.core x.row + i) = 0

/-- R20, R120 to R122: a swap-out of a launch of one narrow thread copies the segments that c5 names, as they read, to the swap object and leaves an
ABSENT stub with PRIO, KEY and the state to restore; a swap-in brings state, PRIO and the saved segments back; without such a
launch the operation fails (which objects fit, and the boundary, are log 26). -/
def Obligations.Swapping : Prop :=
  ∀ (s : State), s.io.swapStatus = 1 →
    (∀ l th d slot, s.doing = some .swapOut → findLaunch s s.io.swapLaunch.toNat = some l → keySlot s l.part = some slot →
      l.state = .placed → l.swapped = false → l.swapObj = 0 → l.cancel = false → l.rows = [th] → pWide l.packet = false →
      swapFits s slot l s.io.swapHandle.toNat = true → swapRow s slot s.io.swapHandle.toNat 0 = some d → d ≠ th → d.row < 84 → th.row < 84 →
      pairOf s th = none → (getThr s th).long = none → (getThr s th).reply = none → (getThr s th).cmds = [] → rowAwaited s th.core th.row = false → isPaired s th = false →
      isWide s th = false → tstate s th ≠ 3 → tstate s th ≠ 7 → Readable s [cAddr th 5] → Performs s .swapOut fun t =>
        t.io.swapStatus = 2 ∧ (findLaunch t l.id).map (·.swapped) = some true ∧ tstate t th = 7 ∧ prioOf t th = prioOf s th ∧
        getC t th 7 = getC s th 7 ∧ bits (getC t th 2) 0 4 = tstate s th ∧
        ∀ k, k < 64 → (getC s th 5).getLsbD k = true → ∀ i, i < 64 →
          Memory.get t.mem (rowAddr d.core d.row + 64 * k + i) = ownByte s th (64 * k + i)) ∧
    (∀ l th d slot, s.doing = some .swapIn → findLaunch s s.io.swapLaunch.toNat = some l → keySlot s l.part = some slot →
      l.state = .placed → l.swapped = true → l.swapObj = s.io.swapHandle.toNat → l.cancel = false → l.rows = [th] →
      pWide l.packet = false → swapRow s slot l.swapObj 0 = some d → d ≠ th → d.row < 84 → th.row < 84 → pairOf s th = none →
      Performs s .swapIn fun t =>
        t.io.swapStatus = 2 ∧ (findLaunch t l.id).map (·.swapped) = some false ∧ tstate t th = bits (getC s th 2) 0 4 ∧
        prioOf t th = prioOf s th ∧ getC t th 2 = 0 ∧
        ∀ k, k < 62 → (getC s d 5).getLsbD k = true → ∀ i, i < 64 →
          Memory.get t.mem (rowAddr th.core th.row + 64 * k + i) = Memory.get s.mem (rowAddr d.core d.row + 64 * k + i)) ∧
    (∀ e ∈ [Event.swapOut, .swapIn], s.doing = some e → findLaunch s s.io.swapLaunch.toNat = none → Performs s e fun t =>
      t.io.swapStatus = 3 ∧ t.mem = s.mem)

namespace Sys2Proof.Claims

/-- A claim stands at its entry's owner: the entry's address and words, the object's record, nothing poisoned or claimed. -/
structure AtEntry (s : State) (id : Nat) (r : Req) (a : Nat) (x : Rec) : Prop where
  found : findReq s id = some r
  entry : entryAddr s (slotOf s (tileOf r.thr.core)) r.oh r.sub = some a
  known : recordNow s (slotOf s (tileOf r.thr.core)) r.oh = some x
  data  : rowOfAddr a < 84
  clean : s.bitErrs = [] ∧ runPoisoned s a 16 = false
  free  : isClaimed s (slotOf s (tileOf r.thr.core)) r.oh r.sub = false
  small : r.oh < 2 ^ 32 ∧ r.sub < 2 ^ 32

end Sys2Proof.Claims

/-- R136, R137, R159, R169, R171: a claim of COMMIT gives an ABSENT sub-tile its zeroed frame with the next generation; of DECOMMIT
it sends the retirement; of FILLC it makes the entry CONSTANT; of RELOC it makes it MOVING; a state or frame that does not fit
is answered with its status and changes nothing. -/
def Sys2Proof.Claims.EntryClaims : Prop :=
  ∀ (s : State) (id a : Nat) (r : Req) (x : Rec), s.doing = some (.claim id) → AtEntry s id r a x →
    let w0 := getWord s a
    let slot := slotOf s (tileOf r.thr.core)
    let g := nextGen (bits w0 2 14)
    let tells := fun (t : State) (n : Word) => Coming t (.run (.reply id (.value (n.setWidth 256) false)))
    (∀ d b p f, r.insn = .commit d b p →
      (bits w0 0 2 ≠ 0 → Performs s (.claim id) fun t => t.mem = s.mem ∧ tells t 1) ∧
      (bits w0 0 2 = 0 → frameOf s r.x = none → Performs s (.claim id) fun t => t.mem = s.mem ∧ tells t 2) ∧
      (bits w0 0 2 = 0 → frameOf s r.x = some f → f % 128 < 84 → isAllocated s (poolKey slot (rPool x)) f = true →
        stackDown s (frameStack f) = false → bits w0 2 14 ≠ 16383 → Performs s (.claim id) fun t =>
          bits (getWord t a) 0 2 = 1 ∧ bits (getWord t a) 2 14 = g ∧ bits (getWord t a) 16 46 = (refOf s ⟨f / 128, f % 128⟩).toNat ∧
          frameUse t (f / 128) (f % 128) = 1 ∧ frameHandle t (f / 128) (f % 128) = r.oh ∧ frameSub t (f / 128) (f % 128) = r.sub ∧
          frameGen t (f / 128) (f % 128) = g ∧ isAllocated t (poolKey slot (rPool x)) f = false ∧ tells t 0 ∧
          ∀ i, i < 4096 → ¬ within a 16 (rowAddr (f / 128) (f % 128) + i) → Memory.get t.mem (rowAddr (f / 128) (f % 128) + i) = 0)) ∧
    (∀ d p, r.insn = .decommit d p →
      (bits w0 0 2 = 0 ∨ bits w0 0 2 = 2 → Performs s (.claim id) fun t => t.mem = s.mem ∧ tells t 1) ∧
      (bits w0 0 2 = 1 → stackDown s (stackOf (refCore (w0 >>> 16))) = false → Performs s (.claim id) fun t =>
        t.mem = s.mem ∧ (r.oh, r.sub) ∈ (getTile t (tileOf (coreOfAddr a))).claims ∧
        ∃ q : ObjPkt, Coming t (.run (.objectAccessArrival q)) ∧ q.op = .retire ∧ q.handle = r.oh ∧ q.sub = r.sub ∧ q.req = r.id ∧
          q.gen = bits w0 2 14 ∧ q.frame = refThr ((w0 >>> 16) &&& 0x3FFFFFFFFFFF))) ∧
    (∀ d b p, r.insn = .fillc d b p → bits r.coord 32 1 = 0 → bits w0 0 2 = 0 ∨ bits w0 0 2 = 2 → bits w0 2 14 ≠ 16383 →
      Performs s (.claim id) fun t =>
        bits (getWord t a) 0 2 = 2 ∧ bits (getWord t a) 2 14 = g ∧ getWord t (a + 8) = r.x ∧ tells t 0 ∧ UnchangedBut s t (within a 16)) ∧
    (∀ d b p f, r.insn = .reloc d b p → bits w0 0 2 = 1 → frameOf s r.x = some f → isAllocated s (poolKey slot (rPool x)) f = true →
      stackDown s (frameStack f) = false → Performs s (.claim id) fun t =>
        let old := refThr ((w0 >>> 16) &&& 0x3FFFFFFFFFFF)
        bits (getWord t a) 0 2 = 3 ∧ bits (getWord t a) 2 14 = bits w0 2 14 ∧
        (old.row < 84 → old.core < 2 ^ 20 → frameUse t old.core old.row = 2) ∧
        isAllocated t (poolKey slot (rPool x)) f = false ∧ Coming t (.run (.relocCopy id)))

/-- R36, R153, R155, R171, R173: the copy of a relocation spends a credit at either core; then, the buses of both columns granted, it
moves the frame's bytes, names the new frame in the entry with the next generation and holds the old one for its pool; OBJSYNC's drop
takes the handle out of a tile's caches and code rows (when the copy may act is log 33). -/
def Sys2Proof.Claims.RelocationsAndDrops : Prop :=
  ∀ (s : State) (id : Nat),
    (∀ a r x, s.doing = some (.relocCopy id) → findReq s id = some r →
      entryAddr s (slotOf s (tileOf r.thr.core)) r.oh r.sub = some a → recordNow s (slotOf s (tileOf r.thr.core)) r.oh = some x →
      rowOfAddr a < 84 → r.oh < 2 ^ 32 → r.sub < 2 ^ 32 →
      let old := refThr ((getWord s a >>> 16) &&& 0x3FFFFFFFFFFF)
      let new : Thr := ⟨r.frame / 128, r.frame % 128⟩
      old.row < 84 → new.row < 84 → old ≠ new →
      (r.phase = .moving → old.core ≠ new.core → 1 + promised s old.core ≤ (getCore s old.core).credits →
        1 + promised s new.core ≤ (getCore s new.core).credits → Performs s (.relocCopy id) fun t =>
          (getCore t old.core).credits = (getCore s old.core).credits - 1 ∧ (getCore t new.core).credits = (getCore s new.core).credits - 1 ∧
          (findReq t id).map (·.phase) = some .copying ∧ DueIn s t 1 (.relocCopy id) ∧ t.mem = s.mem) ∧
      (r.phase = .copying → copyBusy s old = true ∨ copyBusy s new = true → Performs s (.relocCopy id) fun t =>
        DueIn s t 1 (.relocCopy id) ∧ t.mem = s.mem ∧ t.reqs = s.reqs) ∧
      (r.phase = .copying → copyBusy s old = false → copyBusy s new = false → bits (getWord s a) 2 14 ≠ 16383 →
      (getCore s old.core).waits = [] → (∀ b, rowAddr old.core old.row ≤ b → b < rowAddr old.core old.row + 4096 → ¬ within a 16 b) →
      Performs s (.relocCopy id) fun t =>
        (∀ i, i < 4096 → ¬ within a 16 (rowAddr new.core new.row + i) →
          Memory.get t.mem (rowAddr new.core new.row + i) = Memory.get s.mem (rowAddr old.core old.row + i)) ∧
        bits (getWord t a) 0 2 = 1 ∧ bits (getWord t a) 2 14 = nextGen (bits (getWord s a) 2 14) ∧
        bits (getWord t a) 16 46 = (refOf s new).toNat ∧ frameUse t new.core new.row = 1 ∧ frameUse t old.core old.row = 3 ∧
        Coming t (.run (.reply id (.value 0 false))))) ∧
    (∀ tile h, s.doing = some (.objsyncDrop id tile h) → Performs s (.objsyncDrop id tile h) fun t =>
      t.mem = s.mem ∧ (∀ p ∈ (getTile t tile).recs, p.1 ≠ h) ∧ (∀ p ∈ (getTile t tile).subs, p.handle ≠ h) ∧
      ∀ c ∈ s.cores, tileOf c.1 = tile → ∀ y ∈ (getCore t c.1).code, y.handle ≠ h)

/-- R177 to R179, R183, R185: a replica on an UP stack answers a read with its tag and granule, takes a write with a later tag and
refuses an earlier one; one in REBUILD takes a later one and answers nothing; RHOLD holds what comes to its stacks; a store whose
quorum has answered goes on to write with a later tag, and completes when a quorum has answered ACCEPT or NEWER. -/
def Obligations.MajorityProtocol : Prop :=
  ∀ (s : State) (p : MajPkt),
    let k := stackOf p.frame.core
    let a := granuleAddr p
    let here := healthOf s k = 0 ∧ s.io.rhold.getLsbD k = false ∧ replicaFits s p = true ∧ replicaPoisoned s p = false ∧ s.bitErrs = []
    (s.doing = some (.tagAndGranuleRead p) → here → p.op = .read → Performs s (.tagAndGranuleRead p) fun t =>
      t.mem = s.mem ∧ Coming t (.run (.majorityAnswer p (.value (getWord s (tagAddr p)) (BitVec.ofNat 512 (getNat s a 64)))))) ∧
    (s.doing = some (.phase2Write p) → here → p.op = .write → (a + 64 ≤ tagAddr p ∨ tagAddr p + 8 ≤ a) →
      (bits (getWord s (tagAddr p)) 0 62 < bits p.tag 0 62 → Performs s (.phase2Write p) fun t =>
        getNat t a 64 = p.data.toNat ∧ getWord t (tagAddr p) = p.tag ∧ Coming t (.run (.majorityAnswer p .accept)) ∧
        UnchangedBut s t fun b => within a 64 b ∨ within (tagAddr p) 8 b) ∧
      (bits p.tag 0 62 ≤ bits (getWord s (tagAddr p)) 0 62 → Performs s (.phase2Write p) fun t =>
        t.mem = s.mem ∧ Coming t (.run (.majorityAnswer p .newer)))) ∧
    (s.doing = some (.phase2Write p) → healthOf s k = 2 → s.io.rhold.getLsbD k = false → Performs s (.phase2Write p) fun t =>
      t.agenda = s.agenda ∧ (UnchangedBut s t fun b => within a 64 b ∨ within (tagAddr p) 8 b) ∧
      (p.op ≠ .read → replicaFits s p = true → replicaPoisoned s p = false → s.bitErrs = [] → (a + 64 ≤ tagAddr p ∨ tagAddr p + 8 ≤ a) →
        bits (getWord s (tagAddr p)) 0 62 < bits p.tag 0 62 → getNat t a 64 = p.data.toNat ∧ getWord t (tagAddr p) = p.tag)) ∧
    (∀ e ∈ [Event.tagAndGranuleRead p, .phase2Write p], s.doing = some e → stackDown s k = false → s.io.rhold.getLsbD k = true →
      Performs s e fun t => t.mem = s.mem ∧ t.agenda = s.agenda ∧ (getStack t k).held = (getStack s k).held ++ [e]) ∧
    (∀ v req, s.doing = some (.rholdWrite v req) → req ≠ 0 → (findReq s req).isSome → (∀ j, (getStack s j).held = []) →
      Performs s (.rholdWrite v req) fun t =>
        t.io.rhold = v.extractLsb' 0 16 ∧ t.mem = s.mem ∧ Coming t (.run (.reply req (.value 0 false)))) ∧
    (∀ r tg d, s.doing = some (.majorityAnswer p (.value tg d)) → findReq s p.req = some r → r.phase = .majority → r.round = p.round →
      r.round % 2 = 1 → healthOf s k = 0 → (∀ y ∈ r.answers, y.1 ≠ p.replica ∧ ∃ u v, y.2 = .value u v) → (∃ i q o z, r.insn = .sto i q o z) →
      (r.answers.length + 1 < r.quorum → (∃ y ∈ upReplicas s r.reps, y.1 ≠ p.replica ∧ y.1 ∉ r.lost ∧ ∀ z ∈ r.answers, z.1 ≠ y.1) →
        Performs s (.majorityAnswer p (.value tg d)) fun t =>
          t.mem = s.mem ∧ findReq t p.req = some { r with answers := r.answers ++ [(p.replica, .value tg d)] }) ∧
      (r.answers.length + 1 = r.quorum → r.thr.core < 2 ^ 20 → r.thr.row < 128 → (∀ y ∈ r.answers ++ [(p.replica, MajAns.value tg d)], ∀ u v, y.2 = .value u v → bits u 27 35 < 2 ^ 35 - 1) →
        Performs s (.majorityAnswer p (.value tg d)) fun t =>
          ∃ q, findReq t p.req = some q ∧ q.round = r.round + 1 ∧ q.answers = [] ∧
            (∀ y ∈ r.answers ++ [(p.replica, MajAns.value tg d)], ∀ u v, y.2 = .value u v → bits u 27 35 < bits q.tag 27 35) ∧
            ∀ y ∈ r.reps, healthOf s (stackOf y.2.1.core) ≠ 1 →
              ∃ m : MajPkt, m.tag = q.tag ∧ m.data = q.data ∧ m.frame = y.2.1 ∧ m.trow = y.2.2 ∧ m.op = .write ∧
                Coming t (.arrive y.2.1.core y.2.1.row (.phase2Write m)))) ∧
    (∀ r i q o z, s.doing = some (.majorityAnswer p .accept) → Awaits s p.req r → r.phase = .majority → r.round = p.round →
      r.round % 2 = 0 → healthOf s k = 0 → (∀ y ∈ r.answers, y.1 ≠ p.replica ∧ (y.2 = .accept ∨ y.2 = .newer)) → r.insn = .sto i q o z →
      r.quorum ≤ r.answers.length + 1 → Performs s (.majorityAnswer p .accept) fun t =>
        ∃ u v, Unparked s u r.thr p.req ∧ PlainResult u t r.thr (nextPc s r.thr) v)

/-- R187 to R190, R197, R206: a failed or DOWN stack ends its threads with cause 0x14; marking sets HEALTH, and coming back starts a
scrub, whose end writes UP; a lost path answers what waits for it and a recovered one is used again; a withdrawn member leaves
its group, whose epoch counts, and the members of this module that wait are told SHRINK (that a marked stack keeps its bytes is the
model's reading, log 37; which unit tells whom, log 47). -/
def Obligations.HealthAndPaths : Prop :=
  ∀ (s : State) (k : Nat), k < 16 →
    (∀ e ∈ [Event.stackFailure k, .markDown k], s.doing = some e → healthOf s k = 0 → Performs s e fun t =>
      healthOf t k = 1 ∧ (∀ j, j < 16 → j ≠ k → healthOf t j = healthOf s j) ∧
      ∀ l th, s.reqs = [] → s.io.groups = [] → s.pairs = [] → s.io.launches = [l] → l.state = .placed → l.rows = [th] → l.ended = [] →
        stackOf th.core = k → th.row < 84 → tstate t th = 5 ∧ bits (getC t th 10) 32 8 = 0x14 ∧ getC t th 2 = 0) ∧
    (s.doing = some (.markUp k) → s.reqs = [] → Performs s (.markUp k) fun t =>
      healthOf t k = 0 ∧ t.mem = s.mem ∧ (healthOf s k = 1 → (getStack t k).scrub = true ∧ Coming t (.run (.scrubPass k)))) ∧
    (s.doing = some (.markRebuild k) → healthOf s k = 1 → Performs s (.markRebuild k) fun t =>
      healthOf t k = 2 ∧ t.mem = s.mem ∧ (getStack t k).scrub = true ∧ Coming t (.run (.scrubPass k))) ∧
    (s.doing = some (.scrubPass k) → (getStack s k).scrub = true → (getStack s k).scrubFeeding = 0 → healthOf s k ≠ 1 → scrubRows s k = [] → s.reqs = [] →
      Performs s (.scrubPass k) fun t =>
        (getStack t k).scrub = false ∧ healthOf t k = (if healthOf s k = 2 then 0 else healthOf s k) ∧ t.mem = s.mem) ∧
    (∀ d, s.doing = some (.pathFailure d) → s.io.groups = [] → Performs s (.pathFailure d) fun t =>
      d ∉ t.io.domain ∧ (∀ o ∈ t.io.outbound, o.dev ≠ d) ∧ t.mem = s.mem ∧
      ∀ o ∈ s.io.outbound, o.dev = d → o.req ≠ 0 → (findReq s o.req).isSome → Coming t (.run (.reply o.req (.value 0 false)))) ∧
    (∀ d, s.doing = some (.pathRecovery d) → Performs s (.pathRecovery d) fun t =>
      d ∈ t.io.domain ∧ t = { s with io := { s.io with domain := t.io.domain } }) ∧
    (∀ g m, s.doing = some (.memberWithdrawal g m) → m ∈ membersOf (getGroup s g) → Performs s (.memberWithdrawal g m) fun t =>
      m ∉ membersOf (getGroup t g) ∧ (getGroup t g).epoch = (getGroup s g).epoch + 1 ∧ (getGroup t g).ops = [] ∧ t.mem = s.mem ∧
      ∀ c ∈ (getGroup s g).ops, isLocal s c.member = true → (findReq s c.req).isSome → Coming t (.run (.reply c.req (.value (BitVec.ofNat 256 0xFF0A) false))))

namespace Sys2Proof.Claims

/-- A write of BAR0 leaves everything but the I/O die's registers and what is due alone. -/
def IoOnly (s t : State) : Prop :=
  t.mem = s.mem ∧ t.cores = s.cores ∧ t.tiles = s.tiles ∧ t.stackSt = s.stackSt ∧ t.reqs = s.reqs ∧ t.pairs = s.pairs ∧ t.now = s.now

end Sys2Proof.Claims

/-- R51, R120, R177, R187, R199, R200, R202, R203, R205, R208, R378: what writes of BAR0's registers do: the registers of a queue, among
them the doorbell and those that take no write, the swap control, RHOLD, STKHEALTH, DEVID, the power limit, HSEM, a tile's partition, and
a partition's KEY, EN, SUPROW, OBJPLACE and OBJEXT; a VF reaches neither the module's registers nor another partition's (that its write
of QCTL takes no field is log 35), nothing is written that is not aligned, and TILEPART and PARTCFG take writes of HSEM's holder only. -/
def Obligations.RegisterWrites : Prop :=
  ∀ (s : State) (off slot port : Nat) (v : Word), s.doing = some (.registerWrite off v port slot) →
    let e := Event.registerWrite off v port slot
    let q := (off - 0x100000) / 64
    (off % 8 ≠ 0 ∨ (slot ≠ 0 ∧ 0x280000 ≤ off) ∨ (slot ≠ 0 ∧ 0x100000 ≤ off ∧ off < 0x120000 ∧ (getQueue s q).part ≠ (getPart s slot).key) →
      Performs s e fun t => t = s) ∧
    (s.io.published = true → slot ≠ 0 → 0x100000 ≤ off → off < 0x120000 → off % 64 = 40 → Performs s e fun t =>
      getQueue t q = getQueue s q ∧ IoOnly s t) ∧
    (s.io.published = true → slot = 0 →
      (0x100000 ≤ off → off < 0x120000 → off % 64 = 0 → Performs s e fun t =>
        getQueue t q = { getQueue s q with base := v.extractLsb' 0 32 } ∧ IoOnly s t) ∧
      (0x100000 ≤ off → off < 0x120000 → off % 64 = 8 → Performs s e fun t =>
        getQueue t q = { getQueue s q with size := v.extractLsb' 0 5 } ∧ IoOnly s t) ∧
      (0x100000 ≤ off → off < 0x120000 → off % 64 = 56 → Performs s e fun t =>
        getQueue t q = { getQueue s q with irqEn := v.getLsbD 63, irqVec := v.extractLsb' 0 11 } ∧ IoOnly s t) ∧
      (0x100000 ≤ off → off < 0x120000 → off % 64 = 16 ∨ off % 64 = 32 ∨ off % 64 = 48 → Performs s e fun t => t = s) ∧
      (0x100000 ≤ off → off < 0x120000 → off % 64 = 40 → Performs s e fun t =>
        getQueue t q = { (if v.extractLsb' 16 16 = (getQueue s q).part then getQueue s q else { part := v.extractLsb' 16 16 } : QueueSt) with
          key := v.extractLsb' 48 16, privq := v.getLsbD 34, devfed := v.getLsbD 1, en := v.getLsbD 0 } ∧
        t.mem = s.mem ∧ (v.getLsbD 33 = true → Coming t (.run (.thaw q)))) ∧
      (0x100000 ≤ off → off < 0x120000 → off % 64 = 24 → Performs s e fun t =>
        t = { s with agenda := ⟨s.now, .local, 0, 0, .run (.doorbell q v)⟩ :: s.agenda }) ∧
      (0x200000 ≤ off → off < 0x280000 → off % 8 = 0 → Performs s e fun t =>
        t = { s with agenda := ⟨s.now, .local, 0, 0, .run (.counterWrite ((off - 0x200000) / 8) v true)⟩ :: s.agenda }) ∧
      (off = 0x300000 → s.io.swapStatus ≠ 1 → v.extractLsb' 0 2 = 1#2 → Performs s e fun t =>
        t.io.swapStatus = 1 ∧ t.io.swapLaunch = v.extractLsb' 40 24 ∧ t.io.swapHandle = v.extractLsb' 8 32 ∧ IoOnly s t ∧
        t.agenda = ⟨s.now, .local, 0, 0, .run .swapOut⟩ :: s.agenda) ∧
      (off = 0x300100 → Performs s e fun t => t = { s with agenda := ⟨s.now, .local, 0, 0, .run (.rholdWrite v 0)⟩ :: s.agenda }) ∧
      (off = 0x300108 → Performs s e fun t => IoOnly s t ∧ t.io = s.io ∧ ∀ k, k < 16 →
        let n := if bits v (2 * k) 2 = 3 then 1 else bits v (2 * k) 2
        n ≠ healthOf s k → Coming t (.run (if n = 0 then .markUp k else if n = 1 then .markDown k else .markRebuild k))) ∧
      (off = 0x300110 → Performs s e fun t =>
        t.io.devid = (if ∃ p ∈ s.io.parts, p.2.en = true then s.io.devid else v.extractLsb' 0 19) ∧ IoOnly s t) ∧
      (off = 0x300118 → Performs s e fun t =>
        t.io.pwrlim = (if 1200 ≤ bits v 0 13 ∧ bits v 0 13 ≤ 4800 then v.extractLsb' 0 13 else s.io.pwrlim) ∧ IoOnly s t) ∧
      (0x500000 ≤ off → off < 0x500800 → off % 32 = 8 → Performs s e fun t =>
        (getPart t ((off - 0x500000) / 32)).suprow =
          (if port < 2 ∧ s.io.hsem.toNat = port + 1 then v else (getPart s ((off - 0x500000) / 32)).suprow) ∧ IoOnly s t) ∧
      (0x400000 ≤ off → off < 0x404000 →
        let tile := (off - 0x400000) / 8
        let x := getTile s tile
        let holds := port < 2 ∧ s.io.hsem.toNat = port + 1
        (¬ holds ∨ x.busy = true ∨ (v.getLsbD 6 = x.assigned ∧ bits v 0 6 = x.slot) → Performs s e fun t => t = s) ∧
        (holds → x.busy = false → v.getLsbD 6 ≠ x.assigned ∨ bits v 0 6 ≠ x.slot → Performs s e fun t =>
          (getTile t tile).busy = true ∧ t.mem = s.mem ∧ t.io = s.io ∧ Coming t (.run (.tileReassign tile v)))) ∧
      (0x500000 ≤ off → off < 0x500800 → port < 2 → s.io.hsem.toNat = port + 1 →
        let n := (off - 0x500000) / 32
        let p := getPart s n
        (off % 32 = 0 → p.en = true → v.extractLsb' 0 16 ≠ p.key → Performs s e fun t => t = s) ∧
        (off % 32 = 0 → (p.en = true → v.extractLsb' 0 16 = p.key) → Performs s e fun t =>
          (getPart t n).key = v.extractLsb' 0 16 ∧ (getPart t n).en = v.getLsbD 16 ∧ IoOnly s t ∧
          (v.getLsbD 16 = true → p.en = false → Coming t (.run (.partitionEnable n))) ∧
          (v.getLsbD 17 = true → p.reset = false → Coming t (.run (.vfReset n)))) ∧
        (off % 32 = 16 → Performs s e fun t =>
          (getPart t n).objplace = (if p.en then p.objplace else v) ∧ IoOnly s t) ∧
        (off % 32 = 24 → Performs s e fun t => (getPart t n).objext = v.extractLsb' 0 32 ∧ IoOnly s t))) ∧
    (off = 0x100 → slot = 0 → port < 2 → Performs s e fun t =>
      t = { s with agenda := ⟨s.now, .local, 0, 0, .run (.hsem port (v.extractLsb' 0 2))⟩ :: s.agenda })

/-- R200, R202, R203, R206: HSEM goes to a port that finds it free and is given back by its holder; enabling a partition writes
the records of handles 1 to 3; a reset or a reassignment leaves every word of its rows zero, the partition without a
launch, counter or queue, and the tile in its new slot (where the handler table lies is the model's choice, log 27, and who may read it, log 64; what else a reset
keeps, log 34). -/
def Obligations.Partitions : Prop :=
  ∀ (s : State),
    (∀ port v, s.doing = some (.hsem port v) → port < 2 → Performs s (.hsem port v) fun t =>
      t.io.hsem = (if v = 0 ∧ s.io.hsem.toNat = port + 1 then 0 else if v.toNat = port + 1 ∧ s.io.hsem = 0 then v else s.io.hsem) ∧
      t = { s with io := { s.io with hsem := t.io.hsem } }) ∧
    (∀ (slot : Nat) (place : Nat → Nat), s.doing = some (.partitionEnable slot) →
      (∀ n, n < 48 → ∃ q, elemAddr s slot (getPart s slot).objplace (getPart s slot).objext.toNat (16 + n) = some q ∧
        rowAddr q.1 q.2.1 + q.2.2 = place n) →
      (∀ i j, i < 48 → j < 48 → i ≠ j → place i + 8 ≤ place j ∨ place j + 8 ≤ place i) → Performs s (.partitionEnable slot) fun t =>
        (getPart t slot).en = true ∧ (getPart t slot).key = (getPart s slot).key ∧
        ∀ i, i < 16 →
          getWord t (place i) = rw (systemRecord (getPart s slot).objext.toNat (getPart s slot).objplace 0) i ∧
          getWord t (place (16 + i)) = rw moduleRecord i ∧
          getWord t (place (32 + i)) = rw (systemRecord 512 (handlerPlace s slot) (getPart s slot).key) i) ∧
    (∀ slot, s.doing = some (.vfReset slot) → (getPart s slot).key ≠ 0 → s.io.groups = [] → Performs s (.vfReset slot) fun t =>
      (getPart t slot).reset = false ∧ (∀ l ∈ t.io.launches, l.part ≠ (getPart s slot).key) ∧
      (∀ c ∈ t.io.counters, c.2.owner ≠ (getPart s slot).key) ∧ (∀ q ∈ t.io.queues, q.2.part ≠ (getPart s slot).key) ∧
      ∀ a, tileOf (coreOfAddr a) ∈ tilesOfSlot s slot → rowOfAddr a < 84 → Memory.get t.mem a = 0) ∧
    (∀ tile v, s.doing = some (.tileReassign tile v) →
      (launchesOn s tile = [] → Performs s (.tileReassign tile v) fun t =>
        (getTile t tile).assigned = v.getLsbD 6 ∧ (getTile t tile).slot = bits v 0 6 ∧ (getTile t tile).busy = false ∧
        (getTile t tile).recs = [] ∧ (getTile t tile).subs = [] ∧
        ∀ a, tileOf (coreOfAddr a) = tile → rowOfAddr a < 96 → Memory.get t.mem a = 0) ∧
      (launchesOn s tile ≠ [] → Performs s (.tileReassign tile v) fun t =>
        (getTile t tile).busy = true ∧ DueIn s t 1 (.tileReassign tile v)))

/-- R37, R99, R199, R207, R208, R256: firmware is staged for the holder of HSEM when it verifies, a report takes the nonce, the SHA3-256
digests of the running firmware, the carving record and the partitions, and the count; bring-up zeroes
every row and publishes with good firmware only, and a sample, a bit error, a sub-array fault and a sensor are recorded where
the machine keeps them, with no other effect (that the staged image outlives bring-up is the model's reading, log 36). -/
def Obligations.FirmwareAndPhysicalEvents : Prop :=
  ∀ (s : State),
    (∀ port image good, s.doing = some (.firmwareStage port image good) → Performs s (.firmwareStage port image good) fun t =>
      (port < 2 ∧ s.io.hsem.toNat = port + 1 ∧ good = true → t = { s with io := { s.io with image := image, staged := true, firmwareOk := true } }) ∧
      (¬ (port < 2 ∧ s.io.hsem.toNat = port + 1 ∧ good = true) → t = s)) ∧
    (∀ sig, s.doing = some (.attestationRequest sig) → sig.length = 2420 → Performs s (.attestationRequest sig) fun t =>
      t = { s with io := { s.io with reports := s.io.reports + 1, report := t.io.report, signature := sig } } ∧
      (∀ i, i < 4 → t.io.report.getD i 0 = BitVec.ofNat 64 (ofBytes ((s.io.nonce.drop (8 * i)).take 8))) ∧
      (t.io.report.drop 4).take 4 = sha3 s.io.running ∧
      (t.io.report.drop 8).take 4 = sha3 ((List.range (8 * 2048)).map fun i => (look 0#512 s.absent (i / 8)).extractLsb' (64 * (i % 8)) 64) ∧
      (t.io.report.drop 12).take 4 = sha3 (partitionWords s) ∧
      t.io.report.getD 16 0 = s.io.reports + 1 ∧ t.io.report.length = 17) ∧
    (∀ ab good, s.doing = some (.bringUp ab good) → Performs s (.bringUp ab good) fun t =>
      (∀ a, Memory.get t.mem a = 0) ∧ (∀ a, isFull t a = true) ∧ t.io.published = good ∧ t.absent = ab ∧
      (∀ c, (getCore t c).credits = 32) ∧ t.io.launches = [] ∧ t.io.parts = [] ∧ t.io.running = s.io.image) ∧
    (∀ w i, s.doing = some (.powerSample w i) → Performs s (.powerSample w i) fun t =>
      t = { s with io := { s.io with pwrWatts := w, pwrIssue := i } }) ∧
    (∀ th wi dbl, s.doing = some (.bitError th wi dbl) → corePresent s th.core = true → th.row < 96 → Performs s (.bitError th wi dbl) fun t =>
      let a := rowAddr th.core th.row + 8 * wi
      (a, dbl || s.bitErrs.any fun e => e.1 == a) ∈ t.bitErrs ∧ t.mem = s.mem ∧ t.poison = s.poison ∧
      ∀ e ∈ t.bitErrs, e.1 ≠ a → e ∈ s.bitErrs) ∧
    (∀ tile k, s.doing = some (.subArrayFault tile k) → k < 66 → k ∉ (getTile s tile).fenced → Performs s (.subArrayFault tile k) fun t =>
      k ∈ (getTile t tile).faulty ∧ (getTile t tile).fenced = (getTile s tile).fenced ∧ t.mem = s.mem) ∧
    (∀ k hot, s.doing = some (.temperatureSensor k hot) → Performs s (.temperatureSensor k hot) fun t =>
      (getStack t k).hot = hot ∧ t = { s with stackSt := t.stackSt } ∧ ∀ j, j ≠ k → getStack t j = getStack s j)

/-! ## Engine jobs (R210 to R214, R234 to R275, R362 to R371, R379) -/

namespace Sys2Proof.Claims

/-- Job j is the one that the engine of a queue runs (R210): the first that has not completed; no command waits for an entry
of the queue, the thread that waits for the job, if one does, is parked in a closed row, and no word of memory is poisoned. -/
structure Turn (s : State) (tile : Nat) (q : QSel) (j : Job) : Prop where
  first  : (jobsIn (getTile s tile) q).find? (fun x => x.status.isNone) = some j
  full   : (getTile s tile).full = []
  issuer : j.req = 0 ∨ ∃ r, findReq s j.req = some r ∧ r.held = false ∧ r.phase ≠ .answered ∧ tstate s r.thr = 3 ∧ rowOpen s r.thr = false
  clean  : s.poison = [] ∧ s.bitErrs = [] ∧ s.Canonical
  rest   : s.Rests

/-- The job may run: what it needs has been fetched, whole, none of its accesses is under way, it is not cancelled, its stack is up, and
no sub-array of its tile is faulty. -/
structure Ready (s : State) (tile : Nat) (q : QSel) (j : Job) : Prop extends Turn s tile q j where
  fed    : j.ready = true ∧ ∀ x ∈ j.got, x.bad = []
  unsent : j.done = none ∧ j.todo = [] ∧ j.feeding = 0 ∧ ∀ f, Coming s (.feed f) → f.no ≠ j.no
  up     : stackDown s (tile / 128) = false
  live   : j.cancel = false
  sound  : (getTile s tile).faulty = []

/-- A byte as the job has fetched it (R275); what it needed no fetch for as it stands. -/
def seen (s : State) (j : Job) (a : Nat) : Byte :=
  match j.got.reverse.find? fun x => x.gran = a / 64 with
  | some x => x.data.extractLsb' (8 * (a % 64)) 8
  | none => Memory.get s.mem a

/-- The unsigned number in n bytes that the job has fetched. -/
def seenNum (s : State) (j : Job) (a n : Nat) : Nat := ofBytes ((List.range n).map fun i => seen s j (a + i))

/-- An access that the job has sent: it is on its way to the owner, or leaves when one before it has been admitted (R266). -/
def Sent (t : State) (tile : Nat) (q : QSel) (j : Job) (f : Feed) : Prop :=
  (Coming t (.feed f) ∧ f.no = j.no) ∨ ∃ x ∈ jobsIn (getTile t tile) q, x.entry = j.entry ∧ f ∈ x.todo

/-- An access writes the bits m of byte v at address b, and makes its word full (R100). -/
def Puts (f : Feed) (b : Nat) (m v : Byte) : Prop :=
  f.gran = b / 64 ∧ ∃ l x y, f.act = .put true l ∧ (b / 8 * 8, x, y) ∈ l ∧
    y.extractLsb' (8 * (b % 8)) 8 &&& m = m ∧ x.extractLsb' (8 * (b % 8)) 8 &&& m = v &&& m

/-- The job has sent its writes and waits until each has been admitted at its owner (R262, R275): memory is as it was, and no access
writes a bit (address, number) outside a set. -/
structure Writing (s t : State) (tile : Nat) (q : QSel) (j : Job) (may : Nat → Nat → Prop) : Prop where
  memory : t.mem = s.mem ∧ t.empty = s.empty
  waits  : ∃ x ∈ jobsIn (getTile t tile) q, x.entry = j.entry ∧ x.status = none ∧ x.feeding ≠ 0
  only   : ∀ f, Sent t tile q j f → ∃ l, f.act = .put true l ∧ ∀ w ∈ l, ∀ k, k < 64 → w.2.2.getLsbD k = true → may (w.1 + k / 8) (k % 8)

/-- The job holds the status word that it ends with once its writes have landed. -/
def Holds (t : State) (tile : Nat) (q : QSel) (j : Job) (st : Word) : Prop :=
  ∃ x ∈ jobsIn (getTile t tile) q, x.entry = j.entry ∧ x.status = none ∧ x.done = some st

/-- The bytes of the thread that waits for a job. -/
def issuerBytes (s : State) (j : Job) (a : Nat) : Prop :=
  j.req ≠ 0 ∧ ∃ r, findReq s j.req = some r ∧ within (rowAddr r.thr.core r.thr.row) 4096 a

/-- A job has ended with a status word (R259, R260): its inbox entry or its counter's decrement is on its way, the thread that
waited has the word as its answer, and without any of these the entry holds it for JPOLL and JWAIT; an answer to a JWAIT is on its
way, and takes it on arrival. -/
structure Ended (s t : State) (tile : Nat) (q : QSel) (j : Job) (st : Word) : Prop where
  held    : unrouted j = true → ∃ x ∈ jobsIn (getTile t tile) q, x.entry = j.entry ∧ x.thr = j.thr ∧ x.status = some st
  freed   : unrouted j = false → ∀ x ∈ jobsIn (getTile t tile) q, x.entry ≠ j.entry
  inbox   : (routes j).1 = true → j.thr.core < 1048576 → j.thr.row < 128 → stackDown s (stackOf j.thr.core) = false →
    ∃ x ∈ t.agenda, ∃ m : InboxMsg, (x.act = .run (.inboxEntry m) ∨ x.act = .arrive j.thr.core 84 (.inboxEntry m)) ∧
      m.kind = .job ∧ m.target = j.key ++ 0#2 ++ refOf s j.thr ∧ m.w0 = jobRef tile q j.entry ∧ m.w1 = st
  counter : (routes j).2 = true → ownsCounter s (partKey s (tileOf j.thr.core)) (bits (bw j.block 6) 48 16) = true →
    Coming t (.run (.counterDecrement (bits (bw j.block 6) 48 16) (bits st 0 8 ≠ 0) 0))
  parked  : ∀ r, j.req ≠ 0 → findReq s j.req = some r → (getThr t r.thr).reply = some (j.req, .value (st.setWidth 256) false)
  waiters : j.req = 0 → ∀ id ∈ j.waiters, (findReq s id).isSome → Coming t (.run (.reply id (.value (st.setWidth 256) false)))

/-- The element at a spot of an operand stands at address a of this module, on a stack that is up, in a sub-tile that does
not change (R162, R379). -/
def StandsAt (s : State) (slot : Nat) (o : Opd) (x : Spot) (write : Bool) (a : Nat) : Prop :=
  ∃ n off core row gen, x = .at_ n off ∧ homeOf s slot o n write = .place s.io.devid.toNat core row gen ∧
    stackDown s (stackOf core) = false ∧ (∀ g, homeWaits s slot o n g = false) ∧ off < 4096 ∧ a = rowAddr core row + off ∧ a % o.size = 0

/-- The element of a rank-1 index stands at address a (R211). -/
def Stands (s : State) (slot : Nat) (o : Opd) (i : Int) (write : Bool) (a : Nat) : Prop := StandsAt s slot o (spotAt o i) write a

/-- Every bank of a tile holds no cells, that is zeros, or its 128 × 128 (R240, R244). -/
def Banked (s : State) (tile : Nat) : Prop :=
  (getTile s tile).acc.length = 4 ∧ (getTile s tile).bbanks.length = 2 ∧
    ∀ b ∈ (getTile s tile).acc, b.cells = [] ∨ b.cells.length = 16384

/-- Element (m, n) of an accumulator bank, and the bank's tag. -/
def cell (s : State) (tile b m n : Nat) : BitVec 32 := ((getTile s tile).acc.getD b {}).cells.getD (128 * m + n) 0
def bankTag (s : State) (tile b : Nat) : AccTag := ((getTile s tile).acc.getD b {}).tag
def bBank (s : State) (tile b : Nat) : BBank := (getTile s tile).bbanks.getD b .empty

/-- The steps that run jobs, with the commands that they run. -/
def runs : Event → Instr → Bool
  | .matrixJob _, .mmul .. | .matrixJob _, .mmulW .. | .mldbJob _, .mldb .. | .mldbJob _, .mldbW .. | .moutJob _, .mout ..
  | .mzeroJob _, .mzero .. | .mtestJob _, .mtest _ | .copyJob _, .cpy .. | .cpyxJob _, .cpyx .. | .cpycJob _, .cpyc ..
  | .gathJob _, .gath .. | .scatJob _, .scat .. | .scataddJob _, .scatadd .. => true
  | .pointerWrite _, .cpy .. | .pointerWrite _, .cpyx .. | .pointerWrite _, .cpyc .. => true
  | _, _ => false

/-- The format word that an MMUL works with: c6 at its issue, or w7 where w6 bit 7 says so (R242). -/
def formats (j : Job) : Word := if bits (bw j.block 6) 7 1 = 1 then bw j.block 7 else j.fmt

/-- The elements of B, row k of f × 128 and column n, that an MMUL computes with, none in an absent block: streamed from its
operand, or of a LOADED bank (R244, R248). -/
def BIs (s : State) (tile : Nat) (j : Job) (p : MatPlan) (f : Nat) (b : Nat → Nat → Option Byte) : Prop :=
  let w := bw j.block
  match p.src with
  | .streamed _ => f = 1 ∧ ∃ r, p.b = some r ∧ ∀ k n, k < 128 → n < 128 → ∃ a,
      Stands s (slotOf s tile) r.o (bits (w 1) 32 32 + bits (w 2) 32 32 * k + n : Nat) false a ∧ b k n = some (seen s j a)
  | .held g live data _ => f = g ∧ ∀ k n, k < 128 * f → n < 128 →
      b k n = if live.getD (k / 16 * 8 + n / 16) true then some (data.getD (128 * k + n) 0) else none

/-- An element of A or B is the number x, in units of its format (R234). -/
def Exact (e : MEl) (x : Int) : Prop := ∃ (n : Bool) (y : Nat), e = .fin n y ∧ x = if n then -(y : Int) else y

end Sys2Proof.Claims

/-- R211, R212, R234, R240, R243, R245, R249: an MMUL of i8 elements adds Σ A·B modulo 2^32 to every element of its bank, or
starts it at zero; an MMUL of 8-bit floats without scales adds each K-tile's exact sum with one rounding; the bank has the
job's tag, and memory is unchanged. -/
def Obligations.MatrixJobs : Prop :=
  ∀ (s : State) (tile : Nat) (j : Job) (p : MatPlan) (f : Nat) (a : Nat → Nat → Byte) (b : Nat → Nat → Option Byte),
    s.doing = some (.matrixJob tile) → Ready s tile .mat j → Banked s tile → runs (.matrixJob tile) j.cmd = true →
    matPlan s tile j = .ok p → (∀ x ∈ p.list, x.2.waits s = false) → readingsFault s p.list = none →
    let w := bw j.block
    let fm := formats j
    bits fm 24 8 = 0 → bits (w 4) 32 16 = 0 → BIs s tile j p f b →
    (∀ m k, m < 128 → k < 128 * f → ∃ x, Stands s (slotOf s tile) p.a.o (bits (w 0) 32 32 + bits (w 2) 0 32 * m + k : Nat) false x ∧
      a m k = seen s j x) →
    let bank := bits (w 6) 0 2
    let old := fun m n => if bits (w 6) 6 1 = 1 then 0#32 else cell s tile bank m n
    Performs s (.matrixJob tile) fun t =>
      (bits fm 16 8 = 2 → bankTag t tile bank = .i32 ∧ ∀ m n, m < 128 → n < 128 →
        cell t tile bank m n = old m n + BitVec.ofInt 32 (((List.range (128 * f)).map fun k =>
          (a m k).toInt * (match b k n with | some y => y.toInt | none => 0)).sum)) ∧
      (bits fm 16 8 = 10 → bankTag t tile bank = .f32 ∧ ∀ (xa xb : Nat → Nat → Int),
        (∀ m k, m < 128 → k < 128 * f → Exact (mEl (bits fm 0 8) (a m k).toNat) (xa m k)) →
        (∀ k n, k < 128 * f → n < 128 → (match b k n with | some y => Exact (mEl (bits fm 8 8) y.toNat) (xb k n) | none => xb k n = 0)) →
        ∀ m n, m < 128 → n < 128 → (cell t tile bank m n).toNat =
          (List.range f).foldl (fun c i =>
            let d := ((List.range 128).map fun k => xa m (128 * i + k) * xb (128 * i + k) n).sum
            (addTo32 c (.fin (d < 0) d.natAbs (-32))).1) (old m n).toNat) ∧
      (∀ x, x < 4 → x ≠ bank → (getTile t tile).acc.getD x {} = (getTile s tile).acc.getD x {}) ∧
      Ended s t tile .mat j 0 ∧ UnchangedBut s t (issuerBytes s j)

/-- R214, R240, R244, R246, R256, R363, R364: MLDB loads a dense B; MOUT sends the writes of the bank's elements to the owners of its
object, and ends when they have landed; MZERO empties
a bank of either kind; MTEST fences what is faulty and answers SUSPECT, or 0 with the count of fenced sub-arrays. -/
def Obligations.MatrixBanks : Prop :=
  ∀ (s : State) (tile : Nat) (j : Job),
    let w := bw j.block
    let slot := slotOf s tile
    (∀ o (x : Nat → Nat → Nat), s.doing = some (.mldbJob tile) → Ready s tile .mat j → Banked s tile → runs (.mldbJob tile) j.cmd = true →
      mldbBroken j = false → bits (w 3) 7 1 = 0 → denseOk (getTile s tile) = true →
      let bf := bits (if bits (w 4) 0 1 = 1 then w 5 else j.fmt) 8 8
      (bf = 12 ∨ bf = 13 ∨ bf = 0) → operand s slot j.key j.priv (bits (w 0) 0 32) [0] = some o → o.fmt = bf →
      (∀ k n, k < 128 → n < 128 → Stands s slot o (bits (w 0) 32 32 + bits (w 1) 0 32 * k + n : Nat) false (x k n)) →
      Performs s (.mldbJob tile) fun t =>
        (∃ data layout, bBank t tile (bits (w 3) 0 1) = .loaded bf 1 (List.replicate 64 true) data 16 layout ∧ data.length = 16384 ∧
          (∀ x ∈ layout, x.1 ∉ (getTile s tile).fenced ∧ x.2 < 64) ∧
          ∀ k n, k < 128 → n < 128 → data.getD (128 * k + n) 0 = seen s j (x k n)) ∧
        (getTile t tile).acc = (getTile s tile).acc ∧ Ended s t tile .mat j 0 ∧ UnchangedBut s t (issuerBytes s j)) ∧
    (∀ o c (x : Nat → Nat), s.doing = some (.moutJob tile) → Ready s tile .mat j → Banked s tile → runs (.moutJob tile) j.cmd = true →
      bits (w 0) 2 62 = 0 → bits (w 1) 32 32 = 0 → operand s slot j.key j.priv (w 1).toNat [1] = some o → unpackCoord 1 (w 2) = some c →
      (bankTag s tile (bits (w 0) 0 2) = .none ∧ (o.fmt = 10 ∨ o.fmt = 2) ∨ bankTag s tile (bits (w 0) 0 2) = .f32 ∧ o.fmt = 10 ∨
        bankTag s tile (bits (w 0) 0 2) = .i32 ∧ o.fmt = 2) →
      (∀ i : Nat, i < 16384 → Stands s slot o (c.getD 0 0 + (i : Int)) true (x i)) →
      (∀ i k : Nat, i < 16384 → k < i → x k ≠ x i) →
      Performs s (.moutJob tile) fun t =>
        (∀ m n k, m < 128 → n < 128 → k < 4 → ∃ f, Sent t tile .mat j f ∧
          Puts f (x (128 * m + n) + k) 0xFF ((cell s tile (bits (w 0) 0 2) m n).extractLsb' (8 * k) 8)) ∧
        (getTile t tile).acc = (getTile s tile).acc ∧ Holds t tile .mat j 0 ∧
        Writing s t tile .mat j fun a _ => ∃ i, i < 16384 ∧ within (x i) 4 a) ∧
    (s.doing = some (.mzeroJob tile) → Ready s tile .mat j → Banked s tile → runs (.mzeroJob tile) j.cmd = true → bits (w 0) 3 61 = 0 →
      (bits (w 0) 2 1 = 0 → Performs s (.mzeroJob tile) fun t =>
        bankTag t tile (bits (w 0) 0 2) = .none ∧ (∀ m n, cell t tile (bits (w 0) 0 2) m n = 0) ∧
        (getTile t tile).bbanks = (getTile s tile).bbanks ∧ Ended s t tile .mat j 0 ∧ UnchangedBut s t (issuerBytes s j)) ∧
      (bits (w 0) 2 1 = 1 → bits (w 0) 0 2 < 2 → Performs s (.mzeroJob tile) fun t =>
        bBank t tile (bits (w 0) 0 2) = .empty ∧ (getTile t tile).acc = (getTile s tile).acc ∧ Ended s t tile .mat j 0 ∧
        UnchangedBut s t (issuerBytes s j))) ∧
    (s.doing = some (.mtestJob tile) → Turn s tile .mat j → stackDown s (tile / 128) = false → j.cancel = false → j.done = none →
      runs (.mtestJob tile) j.cmd = true → Performs s (.mtestJob tile) fun t =>
        let x := getTile s tile
        let y := getTile t tile
        y.fenced = x.fenced ++ x.faulty ∧ y.faulty = [] ∧ y.acc = x.acc ∧ y.jobsDone = x.jobsDone + 1 ∧
        y.bbanks = (if x.faulty = [] then x.bbanks else [.empty, .empty]) ∧
        y.suspect = x.suspect + (if x.faulty = [] then 0 else 1) ∧
        Ended s t tile .mat j (statusWord (if x.faulty = [] then 0 else 1) 0xFF (x.fenced.length + x.faulty.length)) ∧
        UnchangedBut s t (issuerBytes s j))

/-- R190, R213, R246, R254, R260: a job that is cancelled before its writes leave, or whose stack is DOWN, ends CANCELLED or STACK_DOWN
without an operand number and with none of its effect; an MMUL's bank is then zero and an MLDB's EMPTY. -/
def Sys2Proof.Claims.JobsCancelled : Prop :=
  ∀ (s : State) (tile : Nat) (j : Job) (e : Event),
    e ∈ [Event.matrixJob tile, .mldbJob tile, .moutJob tile, .mzeroJob tile, .mtestJob tile, .copyJob tile, .cpyxJob tile,
      .cpycJob tile, .pointerWrite tile, .gathJob tile, .scatJob tile, .scataddJob tile] →
    s.doing = some e → runs e j.cmd = true → Turn s tile (queueOf j.cmd) j →
    (stackDown s (tile / 128) = true ∨ (j.cancel = true ∧ j.done = none)) → Performs s e fun t =>
      Ended s t tile (queueOf j.cmd) j (if stackDown s (tile / 128) then 0xFF0C else 0xFF05) ∧ UnchangedBut s t (issuerBytes s j) ∧
      (e = .matrixJob tile → bankTag t tile (bits (bw j.block 6) 0 2) = .none ∧ ∀ m n, cell t tile (bits (bw j.block 6) 0 2) m n = 0) ∧
      (e = .mldbJob tile → bBank t tile (bits (bw j.block 3) 0 1) = .empty)

/-- R93, R100, R190, R259, R262, R266, R275: a job's write acts when the step serves it at its owner: it replaces its bits and makes
their words full, or adds one element in place, and nothing else of memory changes; the last one brings the job's own step back.
That step ends a job whose writes have landed with its status word, or with that of the first that failed, and one whose writes are
still under way waits. A cancelled job sends none of the writes that have not left. -/
def Sys2Proof.Claims.JobWritesLand : Prop :=
  (∀ (s : State) (x : Sched) (l : List Sched) (f : Feed) (core k row : Nat), s.agenda = x :: l → x.due ≤ s.now →
    x.act = .serve core k row (.feed f false) → serveWaits { s with agenda := l } core k = false → s.bitErrs = [] → s.poison = [] →
    feedAt s f = .here → f.oh ≠ 3 →
    (∀ full ws, f.act = .put full ws → (ws.Pairwise fun a b => a.1 + 8 ≤ b.1 ∨ b.1 + 8 ≤ a.1) → (∀ w ∈ ws, w.1 % 8 = 0) →
      ∃ t, step s = .next t ∧ UnchangedBut s t (fun b => ∃ w ∈ ws, within w.1 8 b) ∧ (∀ w ∈ ws,
        getWord t w.1 = (getWord s w.1 &&& ~~~w.2.2) ||| (w.2.1 &&& w.2.2) ∧ (isFull t w.1 = (full || isFull s w.1)))) ∧
    (∀ f32 off y, f.act = .add f32 off y →
      ∃ t, step s = .next t ∧ UnchangedBut s t (within (64 * f.gran + off) 4) ∧ t.empty = s.empty ∧
        getNat t (64 * f.gran + off) 4 = (if f32 then (fadd .f32 .engine (getNat s (64 * f.gran + off) 4) y).1
          else (getNat s (64 * f.gran + off) 4 + y)) % 4294967296) ∧
    (∀ tile q j, fedJob s f.no = some (tile, q, j) → f.act ≠ .fetch → (f.cls = .matrix ∨ f.cls = .copy ∨ f.cls = .gather) →
      j.todo = [] ∨ j.cancel = true → ∃ t, step s = .next t ∧
        (j.feeding = 1 → ∃ e, runs e j.cmd = true ∧ Coming t (.run e)) ∧ ∀ y ∈ jobsIn (getTile t tile) q, y.entry = j.entry → y.todo = [])) ∧
  (∀ (s : State) (tile : Nat) (j : Job) (e : Event) (w : Word), s.doing = some e → runs e j.cmd = true → Turn s tile (queueOf j.cmd) j →
    stackDown s (tile / 128) = false → j.done = some w →
    (j.feeding ≠ 0 → Performs s e fun t => t.mem = s.mem ∧ t.tiles = s.tiles ∧ t.agenda = s.agenda) ∧
    (j.feeding = 0 → findReq s j.release = none → Performs s e fun t =>
      Ended s t tile (queueOf j.cmd) j (match j.failed with | some f => f.2 | none => w) ∧ UnchangedBut s t (issuerBytes s j)))

/-- R261 to R264, R366: CPY copies rows × columns of elements between two strides, CPYX transposes them, by elements or by
nibbles: the elements that it has fetched go out as writes to the owners of their destinations. A job without a pointer ends with
status 0 when they have landed, and one with a pointer then begins to write its values: CPY's every 2^GRAN
elements and the total, CPYX's the total. A pointer value is a release of the issuing thread: it goes out as an STFF once that
thread's posted stores are fenced, the next value waits for it, and the job ends after the last (a total that is a multiple of
the granule is written once: log 44). -/
def Obligations.CopyJobs : Prop :=
  ∀ (s : State) (tile : Nat) (j : Job), Ready s tile .cpy j → j.req = 0 →
    let w := bw j.block
    let slot := slotOf s (tileOf j.thr.core)
    let rows := bits (w 3) 0 32
    let cols := bits (w 3) 32 32
    let si := fun (r c : Nat) => ((w 1).extractLsb' 0 48).toInt + (r : Int) * ((w 4).extractLsb' 0 32).toInt + (c : Int)
    let di := fun (x : Bool) (r c : Nat) =>
      ((w 2).extractLsb' 0 48).toInt + (if x then (c : Int) else (r : Int)) * ((w 4).extractLsb' 32 32).toInt + (if x then (r : Int) else (c : Int))
    let ends := fun (t : State) (steps : List Nat) =>
      (bits (w 6) 3 1 = 0 → Holds t tile .cpy j 0) ∧
      (bits (w 6) 3 1 = 1 → ∃ x ∈ (getTile t tile).copies,
        x.entry = j.entry ∧ x.status = none ∧ x.done = none ∧ x.ptrs = steps ∧ x.result = 0)
    let total := rows * cols
    let gran := 2 ^ bits (w 6) 11 5
    (∀ so do_ (f g : Nat → Nat → Nat) (x : Bool) (e : Event), e = (if x then .cpyxJob tile else .copyJob tile) → s.doing = some e →
      runs e j.cmd = true → badCopy s j = false → operand s slot j.key j.priv (bits (w 0) 0 32) [0] = some so →
      operand s slot j.key j.priv (bits (w 0) 32 32) [1] = some do_ → so.size = do_.size → (∃ y, pointerOf s j = .ok y) →
      (x = true → 1 ≤ bits (w 6) 16 8 ∧ bits (w 6) 16 8 ≤ 3 ∧ so.size = 2 ^ (bits (w 6) 16 8 - 1)) →
      (∀ r c, r < rows → c < cols → Stands s slot so (si r c) false (f r c) ∧ Stands s slot do_ (di x r c) true (g r c)) →
      (∀ r c r' c', r < rows → c < cols → r' < rows → c' < cols → g r c = g r' c' → r = r' ∧ c = c') →
      Performs s e fun t =>
        (∀ r c k, r < rows → c < cols → k < do_.size → ∃ y, Sent t tile .cpy j y ∧ Puts y (g r c + k) 0xFF (seen s j (f r c + k))) ∧
        Writing s t tile .cpy j (fun a _ => ∃ r c, r < rows ∧ c < cols ∧ within (g r c) do_.size a) ∧
        ends t (if x then [total] else (List.range (total / gran)).map (fun i => (i + 1) * gran) ++
          (if total % gran = 0 then [] else [total]))) ∧
    (∀ so do_ (f g : Nat → Nat → Nat), s.doing = some (.cpyxJob tile) →
      runs (.cpyxJob tile) j.cmd = true → badCopy s j = false → operand s slot j.key j.priv (bits (w 0) 0 32) [0] = some so →
      operand s slot j.key j.priv (bits (w 0) 32 32) [1] = some do_ → so.size = 1 → do_.size = 1 → (∃ y, pointerOf s j = .ok y) →
      bits (w 6) 16 8 = 0 →
      (∀ r c, r < rows → c < cols → Stands s slot so (si r c / 2) false (f r c) ∧ Stands s slot do_ (di true r c / 2) true (g r c)) →
      (∀ r c r' c', r < rows → c < cols → r' < rows → c' < cols → g r c = g r' c' → di true r c % 2 = di true r' c' % 2 → r = r' ∧ c = c') →
      let half := fun (i : Int) => if i % 2 = 0 then 0 else 4
      Performs s (.cpyxJob tile) fun t =>
        (∀ r c, r < rows → c < cols → ∃ y, Sent t tile .cpy j y ∧
          Puts y (g r c) (15#8 <<< half (di true r c)) (((seen s j (f r c)).extractLsb' (half (si r c)) 4).setWidth 8 <<< half (di true r c))) ∧
        Writing s t tile .cpy j (fun a k => ∃ r c, r < rows ∧ c < cols ∧ g r c = a ∧ k / 4 * 4 = half (di true r c)) ∧
        ends t [total]) ∧
    (s.doing = some (.pointerWrite tile) → runs (.pointerWrite tile) j.cmd = true →
      let still := fun (t : State) (l : List Nat) (id : Nat) => Coming t (.run (.pointerWrite tile)) ∧ t.mem = s.mem ∧
        ∃ x ∈ (getTile t tile).copies, x.entry = j.entry ∧ x.status = none ∧ x.ptrs = l ∧ x.release = id
      (j.release ≠ 0 → (findReq s j.release).isSome → Performs s (.pointerWrite tile) fun t =>
        still t j.ptrs j.release ∧ t.reqs = s.reqs) ∧
      ((j.release = 0 ∨ findReq s j.release = none) → j.ptrs = [] → j.failed = none → Performs s (.pointerWrite tile) fun t =>
        Ended s t tile .cpy j j.result ∧ t.mem = s.mem) ∧
      (∀ o v l a sub off f h gen lanes, (j.release = 0 ∨ findReq s j.release = none) → j.ptrs = v :: l → j.failed = none → State.Named s →
        pointerOf s j = .ok (some o) → Stands s slot o (bits (w 5) 32 32 : Nat) true a →
        (getC s j.thr 4 = 0 → h ≠ Config.moduleObj → stackDown s (stackOf f.core) = false →
          translate s slot (tileSrc s (tileOf j.thr.core) none true) j.key j.priv (BitVec.ofNat 64 o.h) (BitVec.ofNat 64 (bits (w 5) 32 32))
            { cls := 1, width := 8, zeroOk := false, writes := true, word := true } = .place h sub gen s.io.devid.toNat f off lanes →
          Performs s (.pointerWrite tile) fun t => still t l s.nextReq ∧ (findReq t s.nextReq).isSome ∧
            ∃ pk : ObjPkt, Coming t (.run (.objectAccessArrival pk)) ∧ pk.op = .stff (BitVec.ofNat 64 v) ∧ pk.frame = f ∧ pk.off = off ∧
              pk.req = s.nextReq) ∧
        (getC s j.thr 4 ≠ 0 → ∀ x ∈ probedTiles j.thr (getC s j.thr 4), (x < 2048 → stackDown s (x / 128) = false) →
          Performs s (.pointerWrite tile) fun t => still t l s.nextReq ∧ ∃ n, Coming t (.run (.fenceProbe s.nextReq x n)))))

/-- R174, R265, R367: CPYC fills a free frame P of the pool on the stack of the sub-tile's frame with the source's elements and
zeros behind them, and where the entry's version is the one expected, the entry names P with the next generation and version,
and the old frame heads the free list; a generation that wraps waits for the drop of the handle first (R161); another version ends
the job with status 6 and keeps entry and frame. -/
def Obligations.FrameSwaps : Prop :=
  ∀ (s : State) (tile : Nat) (j : Job) (so do_ : Opd) (sub off e p : Nat) (l : List Nat) (f : Nat → Nat → Nat),
    s.doing = some (.cpycJob tile) → Ready s tile .cpy j → j.req = 0 → runs (.cpycJob tile) j.cmd = true →
    let w := bw j.block
    let slot := slotOf s (tileOf j.thr.core)
    let rows := bits (w 3) 0 32
    let cols := bits (w 3) 32 32
    let si := fun (r c : Nat) => ((w 1).extractLsb' 0 48).toInt + (r : Int) * ((w 4).extractLsb' 0 32).toInt + (c : Int)
    let w0 := getWord s e
    let q : Thr := refThr (BitVec.ofNat 64 (entFrame w0))
    let key := poolKey slot (rPool do_.p)
    badCopy s j = false → bits (w 6) 3 1 = 0 → operand s slot j.key j.priv (bits (w 0) 0 32) [0] = some so →
    rows * cols * so.size ≤ 4096 → operand s slot j.key j.priv (bits (w 0) 32 32) [1, 5] = some do_ →
    rKind do_.r = 2 → spotAt do_ ((w 2).extractLsb' 0 48).toInt = .at_ sub off → (∀ g, homeWaits s slot do_ sub g = false) →
    entryAddr s slot do_.ph sub = some e → stackDown s (stackOf (coreOfAddr e)) = false → stackDown s (stackOf q.core) = false →
    State.Named s → entState w0 = 1 → bits w0 43 19 = s.io.devid.toNat → (getPool s (stackOf q.core) key).free = p :: l → frameStack p = stackOf q.core → p % 128 < 84 → p ≠ q.core * 128 + q.row →
    (getCore s q.core).waits = [] → postedAt s q = [] → ¬ within (rowAddr (p / 128) (p % 128)) 4096 e → rowOfAddr e < 84 → e % 16 = 0 →
    (∀ r c, r < rows → c < cols → Stands s slot so (si r c) false (f r c)) →
    Performs s (.cpycJob tile) fun t =>
      (getWord s (e + 8) = w 7 →
        (∀ r c k, r < rows → c < cols → k < so.size →
          Memory.get t.mem (rowAddr (p / 128) (p % 128) + (r * cols + c) * so.size + k) = seen s j (f r c + k)) ∧
        (∀ i, rows * cols * so.size ≤ i → i < 4096 → Memory.get t.mem (rowAddr (p / 128) (p % 128) + i) = 0) ∧
        entState (getWord t e) = 1 ∧ entGen (getWord t e) = nextGen (entGen w0) ∧
        (p / 128 < 1048576 → refThr (BitVec.ofNat 64 (entFrame (getWord t e))) = ⟨p / 128, p % 128⟩) ∧
        getWord t (e + 8) = getWord s (e + 8) + 1 ∧
        (getPool t (stackOf q.core) key).free = (q.core * 128 + q.row) :: l ∧
        (entGen w0 ≠ 16383 → Ended s t tile .cpy j 0) ∧
        (entGen w0 = 16383 → Coming t (.run (.pointerWrite tile)) ∧ ∃ x ∈ (getTile t tile).copies, x.entry = j.entry ∧ x.status = none ∧
          x.result = 0 ∧ x.ptrs = [] ∧ x.release = s.nextReq)) ∧
      (getWord s (e + 8) ≠ w 7 → t.mem = s.mem ∧ (getPool t (stackOf q.core) key).free = p :: l ∧
        Ended s t tile .cpy j (statusWord 6 4 sub))

/-- R266, R368: GATH sends the elements at listed coordinates into P in list order, SCAT sends P's elements to the coordinates, one access
each in the order of the list, so that a later entry is behind an earlier one at its owner, and SCATADD sends one addition in place
for each; the job ends with status 0 when they have landed. -/
def Obligations.GatherJobs : Prop :=
  ∀ (s : State) (tile : Nat) (j : Job) (o p lo : Opd) (c : Nat → List Int) (lf of_ pf : Nat → Nat),
    Ready s tile .gat j → j.req = 0 → tileOf j.thr.core = tile →
    let w := bw j.block
    let slot := slotOf s tile
    let n := bits (w 2) 0 32
    let own := fun (h cls : Nat) => operand s slot j.key j.priv h [cls]
    badGather s j = false → own (bits (w 0) 32 32) 0 = some lo → lo.fmt = 7 →
    (∀ i, i < n → Stands s slot lo (((w 1).extractLsb' 0 48).toInt + i) false (lf i) ∧ unpackCoord (rRank o.r) (BitVec.ofNat 64 (seenNum s j (lf i) 8)) = some (c i)) →
    let places := fun (ow pw : Bool) => ∀ i, i < n → StandsAt s slot o (spotOf o (c i)) ow (of_ i) ∧
      Stands s slot p (((w 3).extractLsb' 0 48).toInt + i) pw (pf i) ∧
      ∃ m off core row gen, spotAt p (((w 3).extractLsb' 0 48).toInt + i) = .at_ m off ∧
        homeOf s slot p m pw = .place s.io.devid.toNat core row gen ∧ tileOf core = tile
    (∀ i k, i < n → k < i → pf k ≠ pf i) →
    -- of two accesses of one granule that are on the agenda, the one of the earlier entry comes first; what still waits comes later
    let inOrder := fun (t : State) =>
      (t.agenda.filterMap fun x => match x.act with | .feed f => if f.no = j.no then some f else none | _ => none).Pairwise
        (fun f g => f.gran = g.gran → f.first < g.first) ∧
      ∀ x ∈ (getTile t tile).gathers, x.entry = j.entry →
        (x.todo.Pairwise fun f g => f.first < g.first) ∧ ∀ f ∈ x.todo, ∀ g, Coming t (.feed g) → g.no = j.no → g.first < f.first
    (s.doing = some (.gathJob tile) → runs (.gathJob tile) j.cmd = true → own (bits (w 0) 0 32) 0 = some o →
      own (bits (w 2) 32 32) 1 = some p → o.size = p.size → places false true → Performs s (.gathJob tile) fun t =>
        (∀ i k, i < n → k < p.size → ∃ y, Sent t tile .gat j y ∧ y.first = i ∧ Puts y (pf i + k) 0xFF (seen s j (of_ i + k))) ∧
        Writing s t tile .gat j (fun a _ => ∃ i, i < n ∧ within (pf i) p.size a) ∧ Holds t tile .gat j 0) ∧
    (s.doing = some (.scatJob tile) → runs (.scatJob tile) j.cmd = true → own (bits (w 0) 0 32) 1 = some o →
      own (bits (w 2) 32 32) 0 = some p → o.size = p.size → places true false → Performs s (.scatJob tile) fun t =>
        (∀ i k, i < n → k < o.size → ∃ y, Sent t tile .gat j y ∧ y.first = i ∧ Puts y (of_ i + k) 0xFF (seen s j (pf i + k))) ∧
        inOrder t ∧ Writing s t tile .gat j (fun a _ => ∃ i, i < n ∧ within (of_ i) o.size a) ∧ Holds t tile .gat j 0) ∧
    (s.doing = some (.scataddJob tile) → runs (.scataddJob tile) j.cmd = true → own (bits (w 0) 0 32) 2 = some o →
      own (bits (w 2) 32 32) 0 = some p → o.fmt = p.fmt → o.fmt = 2 ∨ o.fmt = 10 → places true false → Performs s (.scataddJob tile) fun t =>
        (∀ i, i < n → ∃ y, Sent t tile .gat j y ∧ y.first = i ∧ y.gran = of_ i / 64 ∧
          y.act = .add (o.fmt = 10) (of_ i % 64) (seenNum s j (pf i) 4)) ∧
        (∀ y, Sent t tile .gat j y → ∃ i, i < n ∧ y.first = i) ∧ inOrder t ∧ t.mem = s.mem ∧ Holds t tile .gat j 0)

namespace Sys2Proof.Claims

/-- R268: what the fixed kernels compute on 64-bit integers x, y and the scalar a. -/
def kernel64 (k : Nat) (signed : Bool) (a x y : Word) : Word :=
  let less : Bool := if signed then x.toInt < y.toInt else x.toNat < y.toNat
  match k with
  | 0 => 0 | 1 => x | 2 => a | 3 => x + y | 4 => x - y | 5 => a * x + y | 6 => a * x
  | 7 => if less then x else y | 8 => if less then y else x
  | 9 => x &&& y | 10 => x ||| y | 11 => x ^^^ y | 12 => ~~~x
  | 13 => if less then BitVec.allOnes 64 else 0
  | _ => BitVec.ofNat 64 (oneBits x)

/-- Kernel k of a core is at rest as far as refresh, cancelling and outside accesses go, and its present activity is over. -/
structure Stepping (s : State) (core : Nat) (k : SeqSt) : Prop where
  runs    : (getCore s core).seq = some k
  due     : k.endAt ≤ s.now
  live    : k.cancel = false
  up      : stackDown s (stackOf core) = false
  refresh : seqRefresh s core (namedSubs s core k.block (kernelOps k.block k.chain)) = none
  queued  : seqQueued s core (namedSubs s core k.block (kernelOps k.block k.chain)) = none
  whole   : kSteps k.block = 0
  first   : (creditWaits s core).all (fun w => creditClass s core w ≠ 1) = true
  clean   : s.poison = [] ∧ s.bitErrs = []

end Sys2Proof.Claims

/-- R268 to R273, R369: a kernel takes its closed subarrays and begins its first step; a row step on 64-bit integers writes Z
word by word and nothing else, and the next step begins with a credit for each row; after the last step the kernel ends with
status 0 and gives the subarrays back; a service interval applies a queued access in 20 cycles, and ends after a restore of
45 cycles. -/
def Obligations.SequencerSteps : Prop :=
  ∀ (s : State) (core : Nat) (k : SeqSt),
    let b := k.block
    let ops := kernelOps b k.chain
    let subs := namedSubs s core b ops
    let begins := fun (t : State) (i : Nat) =>
      ∃ q, (getCore t core).seq = some q ∧ q.stepNo = i ∧ q.phase = .stepping ∧ q.endAt = s.now + stepCycles k ∧
        DueIn s t (stepCycles k) (.rowStep core) ∧ (getCore t core).credits = (getCore s core).credits - (stepRows b ops i).length
    (s.doing = some (.rowStep core) → Stepping s core k → k.phase = .starting → k.stepNo < kCount b → State.Subarrays s →
      (∀ n ∈ subs, n < 8 ∧ mode s core n = .closed) → (stepRows b ops k.stepNo).length + promised s core ≤ (getCore s core).credits → k.ran = 0 →
      Performs s (.rowStep core) fun t => (∀ n ∈ subs, mode t core n = .taken) ∧ begins t k.stepNo ∧ t.mem = s.mem) ∧
    (s.doing = some (.rowStep core) → Stepping s core k → k.phase = .stepping → kKernel b < 15 → kType b = 3 ∨ kType b = 7 →
      k.stepNo < kCount b → kFirst b 2 + k.stepNo < 128 →
      let at_ := fun (role : Nat) => rowAddr core (kFirst b role + k.stepNo)
      (k.stepNo + 1 < kCount b → (stepRows b ops (k.stepNo + 1)).length + promised s core ≤ (getCore s core).credits → Performs s (.rowStep core) fun t =>
        (∀ i, i < 512 → getWord t (at_ 2 + 8 * i) =
          kernel64 (kKernel b) (kType b = 3) (bw b 2) (getWord s (at_ 0 + 8 * i)) (getWord s (at_ 1 + 8 * i))) ∧
        UnchangedBut s t (within (at_ 2) 4096) ∧ begins t (k.stepNo + 1)) ∧
      (k.stepNo + 1 = kCount b → kInbox b = false → seqWaiter s k.thr = none → (getCore s core).seqWait = [] → State.Subarrays s →
        (∀ n ∈ subs, n < 8 ∧ mode s core n = .taken) → Performs s (.rowStep core) fun t =>
        (∀ i, i < 512 → getWord t (at_ 2 + 8 * i) =
          kernel64 (kKernel b) (kType b = 3) (bw b 2) (getWord s (at_ 0 + 8 * i)) (getWord s (at_ 1 + 8 * i))) ∧
        UnchangedBut s t (within (at_ 2) 4096) ∧ (getCore t core).seq = none ∧ (∀ n ∈ subs, mode t core n = .closed) ∧
        ∃ q ∈ (getCore t core).finished, q.thr = k.thr ∧ q.status = some 0)) ∧
    (∀ left row, s.doing = some (.serviceInterval core) → (getCore s core).seq = some k → k.endAt ≤ s.now → k.phase = .serving left row →
      (∀ q, seqQueued s core subs = some q → left ≠ 0 →
        let need := if row = some q.row || q.act.free then 0 else 1
        need + promised s core ≤ (getCore s core).credits → Performs s (.serviceInterval core) fun t =>
          (getCore t core).oq = (getCore s core).oq.erase q ∧ (getCore t core).credits = (getCore s core).credits - need ∧
          ⟨s.now + 20, .local, 0, 0, .serve core (subOf (getCore s core) q.row) q.row q.act⟩ ∈ t.agenda ∧ DueIn s t 20 (.serviceInterval core) ∧ t.mem = s.mem ∧
          (getCore t core).seq = some { k with phase := .serving (left - 1) (some q.row), endAt := s.now + 20 }) ∧
      (left = 0 ∨ seqQueued s core subs = none → 1 + promised s core ≤ (getCore s core).credits → Performs s (.serviceInterval core) fun t =>
        (getCore t core).credits = (getCore s core).credits - 1 ∧ DueIn s t 45 (.rowStep core) ∧ t.mem = s.mem ∧
        (getCore t core).seq = some { k with phase := .ready true, endAt := s.now + 45 }))

/-- R274, R371: when every member of a group has contributed to an operation, the sum modulo 2^64, the minimum or the maximum
of the members' u64 elements, whatever the tree's shape, is written to the destination of each member on this module, and
every one of them is answered 0. -/
def Obligations.CollectivesCombine : Prop :=
  ∀ (s : State) (g n : Nat) (mine : List Contrib) (o : Contrib → Opd) (x : Contrib → Nat → Nat),
    s.doing = some (.collectiveCombine g) → readyOp (getGroup s g) = some n → s.poison = [] → s.bitErrs = [] →
    mine = (membersOf (getGroup s g)).filterMap (fun m => (getGroup s g).ops.find? fun c => c.member = m && c.number = n) →
    let b := ((mine.head?.map (·.block)).getD [])
    let op := bits (bw b 3) 8 2
    let len := bits (bw b 3) 16 16
    let here := mine.filter fun c => isLocal s c.member
    mine ≠ [] → bits (bw b 3) 12 2 = 3 → op ≤ 2 → (∀ c ∈ mine, c.data.length = 8 * len) →
    let dest := fun a => ∃ c ∈ here, ∃ i, i < len ∧ within (x c i) 8 a
    (∀ u : State, u.poison = [] → u.bitErrs = [] → u.tiles = s.tiles → u.cores = s.cores → u.stackSt = s.stackSt → u.absent = s.absent →
      u.io = { s.io with groups := u.io.groups } → UnchangedBut s u dest → ∀ c ∈ here,
        operand u (slotOf u (tileOf c.thr.core)) c.key c.priv (bits (bw c.block 0) 32 32) [1] = some (o c) ∧ (o c).size = 8 ∧
        ∀ i, i < len → Stands u (slotOf u (tileOf c.thr.core)) (o c) (((bw c.block 2).extractLsb' 0 48).toInt + i) true (x c i)) →
    (∀ c ∈ here, ∀ d ∈ here, ∀ i k, i < len → k < len → x c i = x d k → c.req = d.req ∧ i = k) →
    Performs s (.collectiveCombine g) fun t =>
      (∀ c ∈ here, ∀ i, i < len → getWord t (x c i) =
        let v := fun (d : Contrib) => ofBytes ((d.data.drop (8 * i)).take 8)
        BitVec.ofNat 64 (match op with
          | 0 => (mine.map v).sum
          | 1 => ((mine.map v).min?).getD 0
          | _ => ((mine.map v).max?).getD 0)) ∧
      UnchangedBut s t dest ∧ (∀ c ∈ (getGroup t g).ops, c.number ≠ n) ∧
      (∀ c ∈ here, (findReq s c.req).isSome → Coming t (.run (.reply c.req (.value 0 false))))

/-! ## Pairs at issue, decoding, steps and invariants -/

/-- R125: in a pair a plain LDO of the leader goes out as an unpaired thread's does, and one of the follower parks, sends nothing
and takes the next forwarded value; an LDO with an ordering and an atomic first call a checkpoint, and then run in an interval of
their own (log 24). -/
def Obligations.PairedAccesses : Prop :=
  ∀ (s : State) (q : PairSt) (d a : SReg) (p : Pair) (o : Order) (z : Size), s.doing = none → pairOf s s.cur = some q →
    q.again = none → reqOf s s.cur = none → BReadable s [even p, odd p, a, d] →
    let h := getS s s.cur (even p)
    let ld : Req := { asked s (.ldo d p o z) with handle := h, coord := getS s s.cur (odd p) }
    let am : Req := { asked s (.amoAddD d a p o) with handle := h, coord := getS s s.cur (odd p), x := getS s s.cur a }
    let takes := fun (s' : State) (i : Instr) (cause : Nat) (r : Req) => ∃ u t, Parked s' u s.cur 1 cause (h &&& 0xFFFFFFFF) r ∧
      exec i s = .next t ∧ t.mem = u.mem ∧ t.reqs = u.reqs ∧ t.tiles = s.tiles ∧ t.io = s.io ∧
      (q.fwd[q.taken]? = none → t.agenda = s.agenda) ∧
      (∀ x, q.fwd[q.taken]? = some x → Coming t (.run (.reply s.nextReq x)) ∧ (pairOf t s.cur).map (·.taken) = some (q.taken + 1))
    let once := { s with pairs := s.pairs.map fun x => if x.leader = q.leader then { x with ending := .once } else x }
    let calls := fun (i : Instr) => Gives i s fun t => t.mem = s.mem ∧ t.reqs = s.reqs ∧ t.agenda = s.agenda ∧
      (pairOf t s.cur).map (·.called) = some true
    (o = .plain → (s.cur = q.leader → Issues s (.ldo d p o z) 1 0x1A (h &&& 0xFFFFFFFF) ld access) ∧
      (s.cur ≠ q.leader → takes s (.ldo d p o z) 0x1A ld)) ∧
    (getC s s.cur 14 ≠ q.start → calls (.amoAddD d a p o) ∧ (o ≠ .plain → calls (.ldo d p o z))) ∧
    (getC s s.cur 14 = q.start →
      (s.cur = q.leader → ∃ u, Parked once u s.cur 1 0x1B (h &&& 0xFFFFFFFF) am ∧
        exec (.amoAddD d a p o) s = .next (Claims.afterFence o access u s.nextReq)) ∧
      (s.cur ≠ q.leader → takes once (.amoAddD d a p o) 0x1B am))

/-- Words written out from the encoding tables (R280 to R286, R298 to R376), and what they decode to; words that no row of the
tables gives are rejected (R281). -/
def Obligations.DecodeWords : Prop :=
  decode 0x04518701#32 = .ok (.sub 5 6 7) ∧ decode 0x08518701#32 = .ok (.mulh 5 6 7) ∧
  decode 0x18514001#32 = .ok (.xori 5 5 1) ∧ decode 0x44518003#32 = .ok (.blt 5 6 3) ∧
  decode 0x580F8000#32 = .ok (.callr 0 62 0) ∧ decode 0x8850000E#32 = .ok (.mfc 5 14) ∧
  decode 0x90000001#32 = .ok .brk ∧ decode 0x90000006#32 = .ok .nop ∧ decode 0x94611020#32 = .ok (.vadd 3 1 2 0 .i32) ∧
  decode 0x9C221909#32 = .ok (.vfma 1 2 3 4 1 .f32) ∧ decode 0xC0304200#32 = .ok (.pand 3 1 2) ∧
  (∃ r, decode 0x00000000#32 = .error r) ∧ (∃ r, decode 0xFFFFFFFF#32 = .error r)

/-- R280 to R286: every instruction that is well formed and is no step of the part has an encoding, which decodes to it; of the
steps only the requests of instructions have one. -/
def Sys2Proof.Claims.DecodeOfEncode : Prop :=
  ∀ i : Instr, i.wf = true →
    ((encode i).isSome ∨ ∃ e : Event, e.instr = i) ∧ (∀ w, encode i = some w → decode w = .ok i ∧ ∀ e : Event, e.instr = i → ∃ op r, e = .request op r)

/-- R281: what a word decodes to is well formed, and is encoded by that word alone: every bit counts, and no reserved encoding
decodes. -/
def Sys2Proof.Claims.EncodeOfDecode : Prop :=
  ∀ (w : InsnWord) (i : Instr), decode w = .ok i → i.wf = true ∧ encode i = some w ∧ ∀ v, decode v = .ok i → v = w

/-- R32, R33, R278: when nothing is due and a core's turn chooses a thread whose code row is open, the step is exec of the
instruction that the word at PC decodes to, the issue counted, and then the treadle's look; a word that decodes to none is
the illegal instruction; and a step of the part that is due is exec of it (that what is due goes before a core's turn, and the
treadle's look after the issue, is the model's choice, log 2). -/
def Obligations.StepRunsDecodedInstruction : Prop :=
  (∀ (s u : State) (c : Nat) (cs : List Nat) (t : Thr) (w : InsnWord),
    (∀ x ∈ s.agenda, s.now < x.due) → s.cursor = c :: cs → choose (yieldTurn { s with cursor := cs } c) c = some t →
    prelude { yieldTurn { s with cursor := cs } c with cur := t } t = (u, some w) →
    let v := noteIssue { u with cur := t, curWord := w, doing := none } t
    (∃ r, codeRowOf (yieldTurn { s with cursor := cs } c) t.core (codeOf (yieldTurn { s with cursor := cs } c) t)
        (pcOf (yieldTurn { s with cursor := cs } c) t / 4096) = some r ∧
      w = BitVec.ofNat 32 (getNat (yieldTurn { s with cursor := cs } c) (rowAddr t.core r.row + pcOf (yieldTurn { s with cursor := cs } c) t % 4096) 4)) ∧
    (∀ i, decode w = .ok i → step s = andThen (exec i v) fun s => coreEnd s c) ∧
    (∀ e, decode w = .error e → step s = andThen (exec .illegalInsn { v with doing := some (.illegalInsn w) }) fun s => coreEnd s c)) ∧
  (∀ (s : State) (x : Sched) (l : List Sched) (e : Event), s.agenda = x :: l → x.due ≤ s.now → x.act = .run e → e.wf = true →
    step s = exec e.instr { s with agenda := l, doing := some e })

/-- R66, R115, R278: every instruction answers a next state, whatever the state and the operands, and so does every step: nothing that a
program or the part does stops the machine (that a step whose payload names no place of the module changes nothing is log 1). -/
def Obligations.EveryInstructionAnswers : Prop :=
  (∀ (i : Instr) (s : State), ∃ t, exec i s = .next t) ∧ ∀ s : State, ∃ t, step s = .next t

/-- Every step keeps memory in its canonical form. -/
def Obligations.StepKeepsMemoryCanonical : Prop :=
  ∀ s t : State, step s = .next t → s.Canonical → t.Canonical

/-- Every step keeps what other statements take as premises: requests have names below the next free one and 0 is none, every core has its
eight subarrays (R29), every follower stands on the core beside its leader's (R48), and between steps no job is in the middle of its
own step. -/
def Obligations.StepKeepsStructure : Prop :=
  ∀ s t : State, step s = .next t →
    (s.Named → t.Named) ∧ (s.Subarrays → t.Subarrays) ∧ (s.Rests → t.Rests) ∧
    ((∀ p ∈ s.pairs, p.follower = partnerOf p.leader) → ∀ p ∈ t.pairs, p.follower = partnerOf p.leader)

/-- R31, R208: after reset every byte of memory is 0, every word is full and none is poisoned; every row is FREE, every core has 32
credits, and no tile belongs to a partition; and the invariants hold. -/
def Obligations.ResetLeaves : Prop :=
  (∀ a, Memory.get State.reset.mem a = 0 ∧ isFull State.reset a = true ∧ isPoisoned State.reset a = false) ∧
  (∀ t : Thr, tstate State.reset t = 0) ∧
  (∀ c, (getCore State.reset c).credits = 32 ∧ (getCore State.reset c).wide = false ∧ (getCore State.reset c).seq = none) ∧
  (∀ n, (getTile State.reset n).assigned = false ∧ partKey State.reset n = 0) ∧
  (∀ k, stackDown State.reset k = false) ∧
  State.reset.Canonical ∧ State.reset.Named ∧ State.reset.Subarrays ∧ State.reset.Rests ∧
  ∀ p ∈ State.reset.pairs, p.follower = partnerOf p.leader

/-! ## Statements that join the ones above -/

/-- The integer instructions write the value of their rule, and change nothing else: `IntegerResults`, `UnaryIntegerResults`,
`SaturatingAddResults`, `MultiplyResults`, `ImmediateResults`. -/
def Obligations.IntegerArithmetic : Prop := Claims.IntegerResults ∧ Claims.UnaryIntegerResults ∧ Claims.SaturatingAddResults ∧ Claims.MultiplyResults ∧ Claims.ImmediateResults

/-- Divisions hold their thread, write the quotient or remainder of their rule, and change no flag: `DivisionsStart`,
`LongOperationsEnd`. -/
def Obligations.DivisionResults : Prop := Claims.DivisionsStart ∧ Claims.LongOperationsEnd

/-- Branches and calls: their words, targets, links and traps: `BranchTargets`, `CallTargets`. -/
def Obligations.ControlTransfers : Prop := Claims.BranchTargets ∧ Claims.CallTargets

/-- Scalar floating point: the rounded results, flags and latencies of majors 0x0C to 0x0E: `FloatResults`,
`FloatDivisionStarts`, `FloatOtherResults`. -/
def Obligations.FloatArithmetic : Prop := Claims.FloatResults ∧ Claims.FloatDivisionStarts ∧ Claims.FloatOtherResults

/-- Rounding delivers a neighbour of the exact value in each mode, exact values as they stand, and FZ and overflow what they say; the
operations deliver their exact results rounded once: `RoundingModes`, `RoundingKeepsRepresentable`, `FlushAndOverflow`,
`OperationsRoundOnce`. -/
def Obligations.Rounding : Prop :=
  Claims.RoundingModes ∧ Claims.RoundingKeepsRepresentable ∧ Claims.FlushAndOverflow ∧ Claims.OperationsRoundOnce

/-- MFC, MTC, LIVE, VLEN and NOP: what is read and which fields are written: `ReadControlWord`, `WriteControlWord`,
`NopLiveVlen`. -/
def Obligations.ControlWords : Prop := Claims.ReadControlWord ∧ Claims.WriteControlWord ∧ Claims.NopLiveVlen

/-- What a trap saves and where it goes, alone and in a pair, and which instructions trap: `TrapEntry`, `TrapInstructions`,
`TrapInPair`. -/
def Obligations.TrapsTaken : Prop := Claims.TrapEntry ∧ Claims.TrapInstructions ∧ Claims.TrapInPair

/-- Loads and stores of the own row: their bytes, their frame, and where they trap: `OwnRowLoads`, `OwnRowStores`,
`OwnRowTraps`. -/
def Obligations.OwnRowAccesses : Prop := Claims.OwnRowLoads ∧ Claims.OwnRowStores ∧ Claims.OwnRowTraps

/-- Vector integer lanes, and the forms that copy bits: `VectorIntegerLanes`, `VectorUnaryLanes`. -/
def Obligations.VectorIntegers : Prop := Claims.VectorIntegerLanes ∧ Claims.VectorUnaryLanes

/-- Vector floating-point lanes and conversions: `VectorFloatLanes`, `VectorConversion`. -/
def Obligations.VectorFloats : Prop := Claims.VectorFloatLanes ∧ Claims.VectorConversion

/-- Long vector operations and the exact cases of the special functions; the choice of neighbour is the model's (log 10):
`VectorLongOperations`, `SpecialFunctionCases`. -/
def Obligations.VectorLongResults : Prop := Claims.VectorLongOperations ∧ Claims.SpecialFunctionCases

/-- Vector comparisons and predicate operations, and ILLEGAL_REG in a narrow thread: `VectorCompare`, `PredicateResults`,
`NarrowThreadTraps`. -/
def Obligations.VectorPredicates : Prop := Claims.VectorCompare ∧ Claims.PredicateResults ∧ Claims.NarrowThreadTraps

/-- Vector selections, permutations and moves between vectors and scalars: `VectorRearrangement`, `VectorScalarMoves`. -/
def Obligations.VectorMoves : Prop := Claims.VectorRearrangement ∧ Claims.VectorScalarMoves

/-- Reductions, scans and reductions by key: `VectorReduction`, `VectorScan`, `VectorMultiReduction`. -/
def Obligations.VectorReductions : Prop := Claims.VectorReduction ∧ Claims.VectorScan ∧ Claims.VectorMultiReduction

/-- Translation of plain loads and stores: `Translation`. -/
def Obligations.ObjectTranslation : Prop := Claims.Translation

/-- Object accesses park with their cause and operands, fence where they release, and are translated: `ObjectAccessesIssue`,
`WaitingAndVectorAccessesIssue`. -/
def Obligations.ObjectAccesses : Prop := Claims.ObjectAccessesIssue ∧ Claims.WaitingAndVectorAccessesIssue

/-- Object management, row-space instructions and MSEND: how they issue, and where they trap: `ObjectManagementIssues`,
`RowSpaceAndMessagesIssue`. -/
def Obligations.ObjectAndRowInstructions : Prop := Claims.ObjectManagementIssues ∧ Claims.RowSpaceAndMessagesIssue

/-- Engine commands copy their block, park and go to their engine; where they trap: `BlockCommandsIssue`,
`OtherEngineCommandsIssue`. -/
def Obligations.EngineCommands : Prop := Claims.BlockCommandsIssue ∧ Claims.OtherEngineCommandsIssue

/-- LAUNCH, CANCEL, the counter and the privileged system instructions at issue, and what they do at the I/O die or the target core:
`TaskInstructionsIssue`, `SystemInstructionsIssue`, `UnpairCompletes`, `UnpairParks`, `TaskEffects`, `RepartEffects`. -/
def Obligations.TaskAndSystemInstructions : Prop :=
  Claims.TaskInstructionsIssue ∧ Claims.SystemInstructionsIssue ∧ Claims.UnpairCompletes ∧ Claims.UnpairParks ∧
    Claims.TaskEffects ∧ Claims.RepartEffects

/-- Heddle commands from every state, and what they do to an outstanding instruction: `HeddleCommands`, `RedirectAndCancel`,
`CommandsOnParkedThread`. -/
def Obligations.Heddle : Prop := Claims.HeddleCommands ∧ Claims.RedirectAndCancel ∧ Claims.CommandsOnParkedThread

/-- Row-space accesses from outside: values, words written, and CORESTAT: `OutsideAccesses`, `CorestatWrites`. -/
def Obligations.RowSpaceAccesses : Prop := Claims.OutsideAccesses ∧ Claims.CorestatWrites

/-- The key check: what passes it, and that nothing turned away changes a row: `KeyCheckProtects`, `KeyCheckRequires`. -/
def Obligations.KeyChecks : Prop := Claims.KeyCheckProtects ∧ Claims.KeyCheckRequires

/-- When the treadle closes a row, and what follows the close: `TreadleCloses`, `RowCloses`. -/
def Obligations.RowClosing : Prop := Claims.TreadleCloses ∧ Claims.RowCloses

/-- Activations, service openings, credits and refresh: `RowActivations`, `CreditsAndRefresh`. -/
def Obligations.RowOpening : Prop := Claims.RowActivations ∧ Claims.CreditsAndRefresh

/-- Code rows are filled and opened; cores gate and wake: `CodeRows`, `Gating`. -/
def Obligations.CodeRowsAndGating : Prop := Claims.CodeRows ∧ Claims.Gating

/-- A reply completes the parked instruction, traps it, or waits for its row: `RepliesComplete`, `RepliesOtherwise`. -/
def Obligations.Replies : Prop := Claims.RepliesComplete ∧ Claims.RepliesOtherwise

/-- RETRY, REDIRECT, walks, and the withdrawal of waiting accesses: `RetriesAndWalks`, `WaitsAreWithdrawn`. -/
def Obligations.RetriesAndWaits : Prop := Claims.RetriesAndWalks ∧ Claims.WaitsAreWithdrawn

/-- Accesses at their owner: admission, loads, stores and atomics: `AccessesArrive`, `AdmittedAccesses`. -/
def Obligations.OwnerAccesses : Prop := Claims.AccessesArrive ∧ Claims.AdmittedAccesses

/-- Full/empty accesses and their waiters, and the echoes of fence probes: `FullEmptyAccesses`, `FenceProbes`. -/
def Obligations.FullEmptyAndFences : Prop := Claims.FullEmptyAccesses ∧ Claims.FenceProbes

/-- Doorbells, THAW and the dispatch of packets: `Doorbells`, `Dispatching`. -/
def Obligations.Queues : Prop := Claims.Doorbells ∧ Claims.Dispatching

/-- Placement, completion, loans of priority and partition reset: `Placing`, `LaunchesEnd`. -/
def Obligations.LaunchesPlacedAndEnded : Prop := Claims.Placing ∧ Claims.LaunchesEnd

/-- Jobs that are stopped, and the writes of jobs at their owners: `JobsCancelled`, `JobWritesLand`. -/
def Obligations.JobsStop : Prop := Claims.JobsCancelled ∧ Claims.JobWritesLand

/-- PAIR, checkpoints, commits and rollbacks of a pair, and UNPAIR: `PairMade`, `PairCheckpoints`, `ShadowCopies`, `UnpairEnds`. -/
def Obligations.PairIntervals : Prop := Claims.PairMade ∧ Claims.PairCheckpoints ∧ Claims.ShadowCopies ∧ Claims.UnpairEnds

/-- Claims, relocation copies and drops of cached translations: `EntryClaims`, `RelocationsAndDrops`. -/
def Obligations.ObjectEntries : Prop := Claims.EntryClaims ∧ Claims.RelocationsAndDrops

/-- Decode and encode agree, in both directions, on every instruction and every word: `DecodeOfEncode`, `EncodeOfDecode`. -/
def Obligations.Encoding : Prop := Claims.DecodeOfEncode ∧ Claims.EncodeOfDecode
end

