-- ==== Sys2Proof/Laws/Memory.lean ====
section
/-! SUPPORT. The laws of memory: the canonical form is kept, and a read finds the last write. -/
namespace Sys2Proof.Machine

/-! ## The canonical form -/

theorem Memory.wfFrom_mono : ∀ {m : List Host.Cell} {lo hi : Nat}, lo ≤ hi → Memory.wfFrom hi m = true → Memory.wfFrom lo m = true
  | [], _, _, _, _ => rfl
  | (a, b) :: l, lo, hi, h, w => by
    simp only [Memory.wfFrom, Bool.and_eq_true, decide_eq_true_eq] at w ⊢
    exact ⟨⟨Nat.le_trans h w.1.1, w.1.2⟩, w.2⟩

/-- Every address of a canonical memory from lo on is at least lo. -/
theorem Memory.wfFrom_le : ∀ {m : List Host.Cell} {lo : Nat}, Memory.wfFrom lo m = true → ∀ c ∈ m, lo ≤ c.1
  | [], _, _ => fun _ h => nomatch h
  | (a, b) :: l, lo, w => by
    simp only [Memory.wfFrom, Bool.and_eq_true, decide_eq_true_eq] at w
    intro c hc
    rcases List.mem_cons.1 hc with rfl | hc
    · exact w.1.1
    · have := Memory.wfFrom_le w.2 c hc; omega

theorem Memory.wfFrom_filter (p : Host.Cell → Bool) :
    ∀ {m : List Host.Cell} {lo : Nat}, Memory.wfFrom lo m = true → Memory.wfFrom lo (m.filter p) = true
  | [], _, _ => rfl
  | (a, b) :: l, lo, w => by
    simp only [Memory.wfFrom, Bool.and_eq_true, decide_eq_true_eq] at w
    rw [List.filter_cons]
    split
    · simp only [Memory.wfFrom, Bool.and_eq_true, decide_eq_true_eq]
      exact ⟨w.1, Memory.wfFrom_filter p w.2⟩
    · exact Memory.wfFrom_mono (Nat.le_succ_of_le w.1.1) (Memory.wfFrom_filter p w.2)

/-- Canonical pieces whose addresses follow each other join to a canonical memory. -/
theorem Memory.wfFrom_append : ∀ {x y : List Host.Cell} {lo mid : Nat}, Memory.wfFrom lo x = true →
    (∀ c ∈ x, c.1 < mid) → lo ≤ mid → Memory.wfFrom mid y = true → Memory.wfFrom lo (x ++ y) = true
  | [], _, _, _, _, _, h, w => Memory.wfFrom_mono h w
  | (a, b) :: l, y, lo, mid, wx, hx, h, wy => by
    simp only [Memory.wfFrom, Bool.and_eq_true, decide_eq_true_eq, List.cons_append] at wx ⊢
    refine ⟨wx.1, Memory.wfFrom_append wx.2 (fun c hc => hx c (List.mem_cons_of_mem _ hc)) ?_ wy⟩
    exact hx (a, b) List.mem_cons_self

theorem Memory.wfFrom_cells : ∀ (bs : List Byte) (lo : Nat), Memory.wfFrom lo (Memory.cells lo bs) = true
  | [], _ => rfl
  | b :: bs, lo => by
    rw [Memory.cells]
    split
    · exact Memory.wfFrom_mono (Nat.le_succ lo) (Memory.wfFrom_cells bs (lo + 1))
    · next h =>
      simp only [Memory.wfFrom, Bool.and_eq_true, decide_eq_true_eq, bne_iff_ne, ne_eq]
      exact ⟨⟨Nat.le_refl _, h⟩, Memory.wfFrom_cells bs (lo + 1)⟩

theorem Memory.cells_lt : ∀ (bs : List Byte) (lo : Nat), ∀ c ∈ Memory.cells lo bs, c.1 < lo + bs.length
  | [], _ => fun _ h => nomatch h
  | b :: bs, lo => by
    intro c hc
    rw [Memory.cells] at hc
    split at hc
    · have := Memory.cells_lt bs (lo + 1) c hc; simp only [List.length_cons]; omega
    · rcases List.mem_cons.1 hc with rfl | hc
      · simp only [List.length_cons]; omega
      · have := Memory.cells_lt bs (lo + 1) c hc; simp only [List.length_cons]; omega

/-- A filter that keeps the addresses from lo on leaves a canonical memory from lo on. -/
theorem Memory.wfFrom_from {m : List Host.Cell} {lo : Nat} (hi : Nat) (w : Memory.wfFrom lo m = true) :
    Memory.wfFrom hi (m.filter fun c => hi ≤ c.1) = true := by
  induction m generalizing lo with
  | nil => rfl
  | cons c l ih =>
    obtain ⟨a, b⟩ := c
    simp only [Memory.wfFrom, Bool.and_eq_true, decide_eq_true_eq] at w
    rw [List.filter_cons]
    split
    · next h =>
      simp only [Memory.wfFrom, Bool.and_eq_true, decide_eq_true_eq]
      exact ⟨⟨of_decide_eq_true h, w.1.2⟩, Memory.wfFrom_filter _ w.2⟩
    · exact ih w.2

/-- A write keeps the canonical form. -/
theorem Memory.wf_put {m : List Host.Cell} (w : Memory.wf m = true) (lo : Nat) (bs : List Byte) :
    Memory.wf (Memory.put m lo bs) = true := by
  unfold Memory.wf Memory.put at *
  rw [List.append_assoc]
  refine Memory.wfFrom_append (mid := lo) (Memory.wfFrom_filter _ w) ?_ (Nat.zero_le _) ?_
  · intro c hc; simpa using (List.mem_filter.1 hc).2
  · exact Memory.wfFrom_append (mid := lo + bs.length) (Memory.wfFrom_cells bs lo) (Memory.cells_lt bs lo) (Nat.le_add_right _ _)
      (Memory.wfFrom_from _ w)

/-! ## Reads and writes -/

theorem Memory.get_append (x y : List Host.Cell) (a : Nat) :
    Memory.get (x ++ y) a = if x.any (fun c => c.1 == a) then Memory.get x a else Memory.get y a := by
  induction x with
  | nil => rfl
  | cons c l ih =>
    obtain ⟨k, b⟩ := c
    by_cases h : k = a <;> simp [Memory.get, h, ih]

theorem Memory.get_filter (p : Nat → Bool) (m : List Host.Cell) (a : Nat) :
    Memory.get (m.filter fun c => p c.1) a = if p a then Memory.get m a else Memory.unlisted := by
  induction m with
  | nil => simp [Memory.get]
  | cons c l ih =>
    obtain ⟨k, b⟩ := c
    rw [List.filter_cons]
    by_cases h : k = a
    · subst h; by_cases hp : p k <;> simp [hp, Memory.get, ih]
    · by_cases hp : p k <;> simp [hp, Memory.get, ih, h]

theorem Memory.any_filter (p : Nat → Bool) (m : List Host.Cell) (a : Nat) (h : p a = false) :
    (m.filter fun c => p c.1).any (fun c => c.1 == a) = false := by
  simp only [List.any_eq_false, List.mem_filter, beq_iff_eq]
  rintro c ⟨_, hc⟩ rfl
  simp [h] at hc

theorem Memory.get_of_not_any {m : List Host.Cell} {a : Nat} (h : m.any (fun c => c.1 == a) = false) :
    Memory.get m a = Memory.unlisted := by
  induction m with
  | nil => rfl
  | cons c l ih =>
    obtain ⟨k, b⟩ := c
    simp only [List.any_cons, Bool.or_eq_false_iff, beq_eq_false_iff_ne] at h
    simp [Memory.get, h.1, ih h.2]

theorem Memory.get_cells (bs : List Byte) : ∀ (lo a : Nat),
    Memory.get (Memory.cells lo bs) a = if lo ≤ a ∧ a < lo + bs.length then bs.getD (a - lo) 0 else Memory.unlisted := by
  induction bs with
  | nil => intro lo a; rw [if_neg (by simp only [List.length_nil]; omega)]; rfl
  | cons b bs ih =>
    intro lo a
    rw [Memory.cells]
    by_cases h : a = lo
    · subst h
      split
      · next hb => simp [ih, hb]
      · simp [Memory.get]
    · have e : (lo + 1 ≤ a ∧ a < lo + 1 + bs.length) ↔ (lo ≤ a ∧ a < lo + (b :: bs).length) := by
        simp only [List.length_cons]; omega
      have key : Memory.get (Memory.cells (lo + 1) bs) a =
          if lo ≤ a ∧ a < lo + (b :: bs).length then (b :: bs).getD (a - lo) 0 else Memory.unlisted := by
        rw [ih]
        by_cases c : lo ≤ a ∧ a < lo + (b :: bs).length
        · rw [if_pos c, if_pos (e.2 c)]
          have : a - lo = (a - (lo + 1)) + 1 := by omega
          rw [this, List.getD_cons_succ]
        · rw [if_neg c, if_neg (fun x => c (e.1 x))]
      split
      · exact key
      · rw [Memory.get, if_neg (fun x => h x.symm), key]

/-- A read finds the last write, and a write leaves every other place alone. -/
theorem Memory.get_put (m : List Host.Cell) (lo : Nat) (bs : List Byte) (a : Nat) :
    Memory.get (Memory.put m lo bs) a = if lo ≤ a ∧ a < lo + bs.length then bs.getD (a - lo) 0 else Memory.get m a := by
  unfold Memory.put
  rw [List.append_assoc, Memory.get_append]
  by_cases h : a < lo
  · rw [if_neg (by omega : ¬ (lo ≤ a ∧ a < lo + bs.length))]
    split
    · rw [Memory.get_filter (fun k => decide (k < lo))]; simp [h]
    · next hn =>
      have h1 : Memory.get m a = Memory.unlisted := by
        have := Memory.get_of_not_any (Bool.eq_false_iff.2 hn)
        rw [Memory.get_filter (fun k => decide (k < lo))] at this
        simpa [h] using this
      have h2 := Memory.get_cells bs lo a
      rw [if_neg (by omega)] at h2
      rw [Memory.get_append, h1]
      split
      · exact h2
      · rw [Memory.get_filter (fun k => decide (lo + bs.length ≤ k)), if_neg (by simp; omega)]
  · have hf := Memory.any_filter (fun k => decide (k < lo)) m a (by simp; omega)
    rw [hf, if_neg Bool.false_ne_true, Memory.get_append]
    have h2 := Memory.get_cells bs lo a
    have h3 := Memory.get_filter (fun k => decide (lo + bs.length ≤ k)) m a
    by_cases hi : a < lo + bs.length
    · have hw : lo ≤ a ∧ a < lo + bs.length := by omega
      rw [if_pos hw] at h2 ⊢
      by_cases hc : (Memory.cells lo bs).any (fun c => c.1 == a) = true
      · rw [if_pos hc, h2]
      · have := Memory.get_of_not_any (Bool.eq_false_iff.2 hc)
        rw [if_neg hc, h3, if_neg (by simp; omega), ← h2, this]
    · have hc : (Memory.cells lo bs).any (fun c => c.1 == a) = false := by
        simp only [List.any_eq_false, beq_iff_eq]
        intro c hc e
        have := Memory.cells_lt bs lo c hc
        omega
      rw [hc, if_neg Bool.false_ne_true, h3, if_pos (by simp; omega), if_neg (by omega)]

theorem Memory.get_put_other {m : List Host.Cell} {lo : Nat} {bs : List Byte} {a : Nat} (h : a < lo ∨ lo + bs.length ≤ a) :
    Memory.get (Memory.put m lo bs) a = Memory.get m a := by
  rw [Memory.get_put, if_neg (by omega)]

/-- A run is read byte by byte. -/
theorem Memory.slice_eq (m : List Host.Cell) (lo n : Nat) :
    Memory.slice m lo n = (List.range n).map fun i => Memory.get m (lo + i) := by
  unfold Memory.slice
  refine List.map_congr_left fun i hi => ?_
  rw [Memory.get_filter (fun k => decide (lo ≤ k) && decide (k < lo + n))]
  rw [if_pos]
  simp only [List.mem_range] at hi
  simp; omega

theorem Memory.length_slice (m : List Host.Cell) (lo n : Nat) : (Memory.slice m lo n).length = n := by
  simp [Memory.slice]

/-- Reading a run that was just written. -/
theorem Memory.slice_put_self (m : List Host.Cell) (lo : Nat) (bs : List Byte) :
    Memory.slice (Memory.put m lo bs) lo bs.length = bs := by
  rw [Memory.slice_eq]
  refine List.ext_getElem (by simp) fun i h1 h2 => ?_
  simp only [List.getElem_map, List.getElem_range, Memory.get_put]
  rw [if_pos (by omega)]
  simp [h2]

/-- Reading a run that a write does not meet. -/
theorem Memory.slice_put_other {m : List Host.Cell} {lo a n : Nat} {bs : List Byte} (h : a + n ≤ lo ∨ lo + bs.length ≤ a) :
    Memory.slice (Memory.put m lo bs) a n = Memory.slice m a n := by
  rw [Memory.slice_eq, Memory.slice_eq]
  refine List.map_congr_left fun i hi => ?_
  simp only [List.mem_range] at hi
  exact Memory.get_put_other (by omega)

end Sys2Proof.Machine
end

