-- ==== Sys2Proof/Laws/PerInstr.lean ====
section
/-! SUPPORT. One statement for every instruction: a step of the part has no encoding, requests and contributions apart. -/
namespace Sys2Proof.Laws

/-- A step that is part of an instruction's own row: its request at the I/O die or at its core, or another module's contribution. -/
def partOfRow : Event → Bool
  | .request .. | .contribution .. => true
  | _ => false

/-- A step of the part has no word. -/
theorem encode_step (e : Event) : encode e.instr = none ∨ partOfRow e = true := by
  cases e with
  | hostRow _ f _ _ _ _ => cases f <;> exact .inl rfl
  | _ => first | exact .inl rfl | exact .inr rfl

/-- Events that stand for an instruction: where it has a word, they are part of its row. -/
def Steps.Statement (i : Instr) : Prop := ∀ e : Event, e.instr = i → encode i = none ∨ partOfRow e = true

theorem steps (i : Instr) : Steps.Statement i := fun e h => h ▸ encode_step e

namespace Steps
theorem add (d : SReg) (a : SReg) (b : SReg) : Statement (.add d a b) := steps _
theorem sub (d : SReg) (a : SReg) (b : SReg) : Statement (.sub d a b) := steps _
theorem addw (d : SReg) (a : SReg) (b : SReg) : Statement (.addw d a b) := steps _
theorem subw (d : SReg) (a : SReg) (b : SReg) : Statement (.subw d a b) := steps _
theorem and (d : SReg) (a : SReg) (b : SReg) : Statement (.and d a b) := steps _
theorem or (d : SReg) (a : SReg) (b : SReg) : Statement (.or d a b) := steps _
theorem xor (d : SReg) (a : SReg) (b : SReg) : Statement (.xor d a b) := steps _
theorem andn (d : SReg) (a : SReg) (b : SReg) : Statement (.andn d a b) := steps _
theorem orn (d : SReg) (a : SReg) (b : SReg) : Statement (.orn d a b) := steps _
theorem shl (d : SReg) (a : SReg) (b : SReg) : Statement (.shl d a b) := steps _
theorem shr (d : SReg) (a : SReg) (b : SReg) : Statement (.shr d a b) := steps _
theorem sra (d : SReg) (a : SReg) (b : SReg) : Statement (.sra d a b) := steps _
theorem rol (d : SReg) (a : SReg) (b : SReg) : Statement (.rol d a b) := steps _
theorem ror (d : SReg) (a : SReg) (b : SReg) : Statement (.ror d a b) := steps _
theorem slt (d : SReg) (a : SReg) (b : SReg) : Statement (.slt d a b) := steps _
theorem sltu (d : SReg) (a : SReg) (b : SReg) : Statement (.sltu d a b) := steps _
theorem seq (d : SReg) (a : SReg) (b : SReg) : Statement (.seq d a b) := steps _
theorem sne (d : SReg) (a : SReg) (b : SReg) : Statement (.sne d a b) := steps _
theorem min (d : SReg) (a : SReg) (b : SReg) : Statement (.min d a b) := steps _
theorem max (d : SReg) (a : SReg) (b : SReg) : Statement (.max d a b) := steps _
theorem minu (d : SReg) (a : SReg) (b : SReg) : Statement (.minu d a b) := steps _
theorem maxu (d : SReg) (a : SReg) (b : SReg) : Statement (.maxu d a b) := steps _
theorem sadd (d : SReg) (a : SReg) (b : SReg) : Statement (.sadd d a b) := steps _
theorem ssub (d : SReg) (a : SReg) (b : SReg) : Statement (.ssub d a b) := steps _
theorem clz (d : SReg) (a : SReg) : Statement (.clz d a) := steps _
theorem ctz (d : SReg) (a : SReg) : Statement (.ctz d a) := steps _
theorem popc (d : SReg) (a : SReg) : Statement (.popc d a) := steps _
theorem brev (d : SReg) (a : SReg) : Statement (.brev d a) := steps _
theorem bswap (d : SReg) (a : SReg) : Statement (.bswap d a) := steps _
theorem sextb (d : SReg) (a : SReg) : Statement (.sextb d a) := steps _
theorem sexth (d : SReg) (a : SReg) : Statement (.sexth d a) := steps _
theorem sextw (d : SReg) (a : SReg) : Statement (.sextw d a) := steps _
theorem zextw (d : SReg) (a : SReg) : Statement (.zextw d a) := steps _
theorem zextb (d : SReg) (a : SReg) : Statement (.zextb d a) := steps _
theorem zexth (d : SReg) (a : SReg) : Statement (.zexth d a) := steps _
theorem mul (d : SReg) (a : SReg) (b : SReg) : Statement (.mul d a b) := steps _
theorem mulh (d : SReg) (a : SReg) (b : SReg) : Statement (.mulh d a b) := steps _
theorem mulhu (d : SReg) (a : SReg) (b : SReg) : Statement (.mulhu d a b) := steps _
theorem mulhsz (d : SReg) (a : SReg) (b : SReg) : Statement (.mulhsz d a b) := steps _
theorem mulw (d : SReg) (a : SReg) (b : SReg) : Statement (.mulw d a b) := steps _
theorem div (d : SReg) (a : SReg) (b : SReg) : Statement (.div d a b) := steps _
theorem divu (d : SReg) (a : SReg) (b : SReg) : Statement (.divu d a b) := steps _
theorem rem (d : SReg) (a : SReg) (b : SReg) : Statement (.rem d a b) := steps _
theorem remu (d : SReg) (a : SReg) (b : SReg) : Statement (.remu d a b) := steps _
theorem divw (d : SReg) (a : SReg) (b : SReg) : Statement (.divw d a b) := steps _
theorem remw (d : SReg) (a : SReg) (b : SReg) : Statement (.remw d a b) := steps _
theorem addi (d : SReg) (a : SReg) (i : BitVec 14) : Statement (.addi d a i) := steps _
theorem andi (d : SReg) (a : SReg) (i : BitVec 14) : Statement (.andi d a i) := steps _
theorem ori (d : SReg) (a : SReg) (i : BitVec 14) : Statement (.ori d a i) := steps _
theorem xori (d : SReg) (a : SReg) (i : BitVec 14) : Statement (.xori d a i) := steps _
theorem slti (d : SReg) (a : SReg) (i : BitVec 14) : Statement (.slti d a i) := steps _
theorem sltiu (d : SReg) (a : SReg) (i : BitVec 14) : Statement (.sltiu d a i) := steps _
theorem shli (d : SReg) (a : SReg) (k : BitVec 6) : Statement (.shli d a k) := steps _
theorem shri (d : SReg) (a : SReg) (k : BitVec 6) : Statement (.shri d a k) := steps _
theorem srai (d : SReg) (a : SReg) (k : BitVec 6) : Statement (.srai d a k) := steps _
theorem rori (d : SReg) (a : SReg) (k : BitVec 6) : Statement (.rori d a k) := steps _
theorem lil (d : SReg) (i : BitVec 20) : Statement (.lil d i) := steps _
theorem lik (d : SReg) (c : BitVec 2) (i : BitVec 16) : Statement (.lik d c i) := steps _
theorem fadd (d : SReg) (a : SReg) (b : SReg) (p : Prec) (r : RField) : Statement (.fadd d a b p r) := steps _
theorem fsub (d : SReg) (a : SReg) (b : SReg) (p : Prec) (r : RField) : Statement (.fsub d a b p r) := steps _
theorem fmul (d : SReg) (a : SReg) (b : SReg) (p : Prec) (r : RField) : Statement (.fmul d a b p r) := steps _
theorem fdiv (d : SReg) (a : SReg) (b : SReg) (p : Prec) (r : RField) : Statement (.fdiv d a b p r) := steps _
theorem fsqrt (d : SReg) (a : SReg) (p : Prec) (r : RField) : Statement (.fsqrt d a p r) := steps _
theorem fmin (d : SReg) (a : SReg) (b : SReg) (p : Prec) : Statement (.fmin d a b p) := steps _
theorem fmax (d : SReg) (a : SReg) (b : SReg) (p : Prec) : Statement (.fmax d a b p) := steps _
theorem fcmp (d : SReg) (a : SReg) (b : SReg) (p : Prec) (c : FCond) : Statement (.fcmp d a b p c) := steps _
theorem fkind (d : SReg) (a : SReg) (p : Prec) : Statement (.fkind d a p) := steps _
theorem fcvt (d : SReg) (a : SReg) (dst : CvtKind) (src : CvtKind) (r : RField) : Statement (.fcvt d a dst src r) := steps _
theorem fcopys (d : SReg) (a : SReg) (b : SReg) (p : Prec) : Statement (.fcopys d a b p) := steps _
theorem fabs (d : SReg) (a : SReg) (p : Prec) : Statement (.fabs d a p) := steps _
theorem fneg (d : SReg) (a : SReg) (p : Prec) : Statement (.fneg d a p) := steps _
theorem ffmaD (d : SReg) (a : SReg) (b : SReg) (c : SReg) : Statement (.ffmaD d a b c) := steps _
theorem ffmsD (d : SReg) (a : SReg) (b : SReg) (c : SReg) : Statement (.ffmsD d a b c) := steps _
theorem fnmaD (d : SReg) (a : SReg) (b : SReg) (c : SReg) : Statement (.fnmaD d a b c) := steps _
theorem fnmsD (d : SReg) (a : SReg) (b : SReg) (c : SReg) : Statement (.fnmsD d a b c) := steps _
theorem ffmaS (d : SReg) (a : SReg) (b : SReg) (c : SReg) : Statement (.ffmaS d a b c) := steps _
theorem ffmsS (d : SReg) (a : SReg) (b : SReg) (c : SReg) : Statement (.ffmsS d a b c) := steps _
theorem fnmaS (d : SReg) (a : SReg) (b : SReg) (c : SReg) : Statement (.fnmaS d a b c) := steps _
theorem fnmsS (d : SReg) (a : SReg) (b : SReg) (c : SReg) : Statement (.fnmsS d a b c) := steps _
theorem beq (a : SReg) (b : SReg) (o : BitVec 14) : Statement (.beq a b o) := steps _
theorem bne (a : SReg) (b : SReg) (o : BitVec 14) : Statement (.bne a b o) := steps _
theorem blt (a : SReg) (b : SReg) (o : BitVec 14) : Statement (.blt a b o) := steps _
theorem bge (a : SReg) (b : SReg) (o : BitVec 14) : Statement (.bge a b o) := steps _
theorem bltu (a : SReg) (b : SReg) (o : BitVec 14) : Statement (.bltu a b o) := steps _
theorem bgeu (a : SReg) (b : SReg) (o : BitVec 14) : Statement (.bgeu a b o) := steps _
theorem call (d : SReg) (o : BitVec 20) : Statement (.call d o) := steps _
theorem callr (d : SReg) (a : SReg) (i : BitVec 14) : Statement (.callr d a i) := steps _
theorem ldr (d : SReg) (a : SReg) (z : Size) (sx : Bool) (o : BitVec 11) : Statement (.ldr d a z sx o) := steps _
theorem str (d : SReg) (a : SReg) (z : Size) (o : BitVec 11) : Statement (.str d a z o) := steps _
theorem vldr (v : VReg) (a : SReg) (o : BitVec 9) : Statement (.vldr v a o) := steps _
theorem vstr (v : VReg) (a : SReg) (o : BitVec 9) : Statement (.vstr v a o) := steps _
theorem ldo (d : SReg) (p : Pair) (r : Order) (z : Size) : Statement (.ldo d p r z) := steps _
theorem sto (a : SReg) (p : Pair) (r : Order) (z : Size) : Statement (.sto a p r z) := steps _
theorem ldfe (d : SReg) (p : Pair) (r : Order) : Statement (.ldfe d p r) := steps _
theorem ldff (d : SReg) (p : Pair) (r : Order) : Statement (.ldff d p r) := steps _
theorem stef (a : SReg) (p : Pair) (r : Order) : Statement (.stef a p r) := steps _
theorem stff (a : SReg) (p : Pair) (r : Order) : Statement (.stff a p r) := steps _
theorem sete (p : Pair) (r : Order) : Statement (.sete p r) := steps _
theorem amoAddD (d : SReg) (a : SReg) (p : Pair) (r : Order) : Statement (.amoAddD d a p r) := steps _
theorem amoAndD (d : SReg) (a : SReg) (p : Pair) (r : Order) : Statement (.amoAndD d a p r) := steps _
theorem amoOrD (d : SReg) (a : SReg) (p : Pair) (r : Order) : Statement (.amoOrD d a p r) := steps _
theorem amoXorD (d : SReg) (a : SReg) (p : Pair) (r : Order) : Statement (.amoXorD d a p r) := steps _
theorem amoSminD (d : SReg) (a : SReg) (p : Pair) (r : Order) : Statement (.amoSminD d a p r) := steps _
theorem amoSmaxD (d : SReg) (a : SReg) (p : Pair) (r : Order) : Statement (.amoSmaxD d a p r) := steps _
theorem amoUminD (d : SReg) (a : SReg) (p : Pair) (r : Order) : Statement (.amoUminD d a p r) := steps _
theorem amoUmaxD (d : SReg) (a : SReg) (p : Pair) (r : Order) : Statement (.amoUmaxD d a p r) := steps _
theorem amoSwapD (d : SReg) (a : SReg) (p : Pair) (r : Order) : Statement (.amoSwapD d a p r) := steps _
theorem amoFaddD (d : SReg) (a : SReg) (p : Pair) (r : Order) : Statement (.amoFaddD d a p r) := steps _
theorem amoFminD (d : SReg) (a : SReg) (p : Pair) (r : Order) : Statement (.amoFminD d a p r) := steps _
theorem amoFmaxD (d : SReg) (a : SReg) (p : Pair) (r : Order) : Statement (.amoFmaxD d a p r) := steps _
theorem amoCasD (d : SReg) (a : SReg) (p : Pair) (r : Order) : Statement (.amoCasD d a p r) := steps _
theorem amoAddW (d : SReg) (a : SReg) (p : Pair) (r : Order) : Statement (.amoAddW d a p r) := steps _
theorem amoAndW (d : SReg) (a : SReg) (p : Pair) (r : Order) : Statement (.amoAndW d a p r) := steps _
theorem amoOrW (d : SReg) (a : SReg) (p : Pair) (r : Order) : Statement (.amoOrW d a p r) := steps _
theorem amoXorW (d : SReg) (a : SReg) (p : Pair) (r : Order) : Statement (.amoXorW d a p r) := steps _
theorem amoSminW (d : SReg) (a : SReg) (p : Pair) (r : Order) : Statement (.amoSminW d a p r) := steps _
theorem amoSmaxW (d : SReg) (a : SReg) (p : Pair) (r : Order) : Statement (.amoSmaxW d a p r) := steps _
theorem amoUminW (d : SReg) (a : SReg) (p : Pair) (r : Order) : Statement (.amoUminW d a p r) := steps _
theorem amoUmaxW (d : SReg) (a : SReg) (p : Pair) (r : Order) : Statement (.amoUmaxW d a p r) := steps _
theorem amoSwapW (d : SReg) (a : SReg) (p : Pair) (r : Order) : Statement (.amoSwapW d a p r) := steps _
theorem amoFaddW (d : SReg) (a : SReg) (p : Pair) (r : Order) : Statement (.amoFaddW d a p r) := steps _
theorem amoFminW (d : SReg) (a : SReg) (p : Pair) (r : Order) : Statement (.amoFminW d a p r) := steps _
theorem amoFmaxW (d : SReg) (a : SReg) (p : Pair) (r : Order) : Statement (.amoFmaxW d a p r) := steps _
theorem amoCasW (d : SReg) (a : SReg) (p : Pair) (r : Order) : Statement (.amoCasW d a p r) := steps _
theorem vldo (v : VReg) (g : PReg) (p : Pair) (r : Order) (t : VType) : Statement (.vldo v g p r t) := steps _
theorem vsto (v : VReg) (g : PReg) (p : Pair) (r : Order) (t : VType) : Statement (.vsto v g p r t) := steps _
theorem vldb (v : VReg) (g : PReg) (p : Pair) (r : Order) (t : VType) : Statement (.vldb v g p r t) := steps _
theorem objq (d : SReg) (a : SReg) (p : Pair) : Statement (.objq d a p) := steps _
theorem commit (d : SReg) (a : SReg) (p : Pair) : Statement (.commit d a p) := steps _
theorem decommit (d : SReg) (p : Pair) : Statement (.decommit d p) := steps _
theorem alloc (d : SReg) (p : Pair) : Statement (.alloc d p) := steps _
theorem free (d : SReg) (a : SReg) (p : Pair) : Statement (.free d a p) := steps _
theorem reloc (d : SReg) (a : SReg) (p : Pair) : Statement (.reloc d a p) := steps _
theorem objsync (d : SReg) (p : Pair) : Statement (.objsync d p) := steps _
theorem fillc (d : SReg) (a : SReg) (p : Pair) : Statement (.fillc d a p) := steps _
theorem rld (d : SReg) (r : SReg) (w : BitVec 9) (o : ROrder) : Statement (.rld d r w o) := steps _
theorem rst (d : SReg) (r : SReg) (w : BitVec 9) (o : ROrder) : Statement (.rst d r w o) := steps _
theorem hdl (d : SReg) (r : SReg) (o : ROrder) : Statement (.hdl d r o) := steps _
theorem ramoadd (d : SReg) (r : SReg) (w : BitVec 9) (o : ROrder) : Statement (.ramoadd d r w o) := steps _
theorem rcas (d : SReg) (r : SReg) (w : BitVec 9) (o : ROrder) : Statement (.rcas d r w o) := steps _
theorem fence (s : Scope) : Statement (.fence s) := steps _
theorem fenceAcq (s : Scope) : Statement (.fenceAcq s) := steps _
theorem fenceRel (s : Scope) : Statement (.fenceRel s) := steps _
theorem msend (d : SReg) (a : SReg) (p : Pair) (r : Order) : Statement (.msend d a p r) := steps _
theorem ibrecv (d : SReg) : Statement (.ibrecv d) := steps _
theorem ibpeek (d : SReg) : Statement (.ibpeek d) := steps _
theorem ibdrop : Statement (.ibdrop) := steps _
theorem mfc (d : SReg) (n : BitVec 4) : Statement (.mfc d n) := steps _
theorem mtc (a : SReg) (n : BitVec 4) : Statement (.mtc a n) := steps _
theorem live (k : BitVec 8) : Statement (.live k) := steps _
theorem launch (d : SReg) (a : SReg) (p : Pair) (r : Order) : Statement (.launch d a p r) := steps _
theorem cntdec (a : SReg) (r : Order) : Statement (.cntdec a r) := steps _
theorem cntadd (a : SReg) (p : Pair) (r : Order) : Statement (.cntadd a p r) := steps _
theorem cntwait (a : SReg) (r : Order) : Statement (.cntwait a r) := steps _
theorem cancel (d : SReg) (a : SReg) (p : Pair) : Statement (.cancel d a p) := steps _
theorem yield : Statement (.yield) := steps _
theorem park : Statement (.park) := steps _
theorem exit : Statement (.exit) := steps _
theorem trap (c : BitVec 10) : Statement (.trap c) := steps _
theorem brk : Statement (.brk) := steps _
theorem repart (d : SReg) (a : SReg) : Statement (.repart d a) := steps _
theorem pair (d : SReg) : Statement (.pair d) := steps _
theorem unpair (d : SReg) : Statement (.unpair d) := steps _
theorem capr (d : SReg) (a : SReg) : Statement (.capr d a) := steps _
theorem nop : Statement (.nop) := steps _
theorem vadd (v : VReg) (a : VReg) (b : VReg) (g : PReg) (t : VType) : Statement (.vadd v a b g t) := steps _
theorem vsub (v : VReg) (a : VReg) (b : VReg) (g : PReg) (t : VType) : Statement (.vsub v a b g t) := steps _
theorem vmul (v : VReg) (a : VReg) (b : VReg) (g : PReg) (t : VType) : Statement (.vmul v a b g t) := steps _
theorem vmulh (v : VReg) (a : VReg) (b : VReg) (g : PReg) (t : VType) : Statement (.vmulh v a b g t) := steps _
theorem vand (v : VReg) (a : VReg) (b : VReg) (g : PReg) (t : VType) : Statement (.vand v a b g t) := steps _
theorem vor (v : VReg) (a : VReg) (b : VReg) (g : PReg) (t : VType) : Statement (.vor v a b g t) := steps _
theorem vxor (v : VReg) (a : VReg) (b : VReg) (g : PReg) (t : VType) : Statement (.vxor v a b g t) := steps _
theorem vshl (v : VReg) (a : VReg) (b : VReg) (g : PReg) (t : VType) : Statement (.vshl v a b g t) := steps _
theorem vshr (v : VReg) (a : VReg) (b : VReg) (g : PReg) (t : VType) : Statement (.vshr v a b g t) := steps _
theorem vsra (v : VReg) (a : VReg) (b : VReg) (g : PReg) (t : VType) : Statement (.vsra v a b g t) := steps _
theorem vmin (v : VReg) (a : VReg) (b : VReg) (g : PReg) (t : VType) : Statement (.vmin v a b g t) := steps _
theorem vmax (v : VReg) (a : VReg) (b : VReg) (g : PReg) (t : VType) : Statement (.vmax v a b g t) := steps _
theorem vsadd (v : VReg) (a : VReg) (b : VReg) (g : PReg) (t : VType) : Statement (.vsadd v a b g t) := steps _
theorem vssub (v : VReg) (a : VReg) (b : VReg) (g : PReg) (t : VType) : Statement (.vssub v a b g t) := steps _
theorem vabs (v : VReg) (a : VReg) (g : PReg) (t : VType) : Statement (.vabs v a g t) := steps _
theorem vpopc (v : VReg) (a : VReg) (g : PReg) (t : VType) : Statement (.vpopc v a g t) := steps _
theorem vfadd (v : VReg) (a : VReg) (b : VReg) (g : PReg) (t : VType) : Statement (.vfadd v a b g t) := steps _
theorem vfsub (v : VReg) (a : VReg) (b : VReg) (g : PReg) (t : VType) : Statement (.vfsub v a b g t) := steps _
theorem vfmul (v : VReg) (a : VReg) (b : VReg) (g : PReg) (t : VType) : Statement (.vfmul v a b g t) := steps _
theorem vfdiv (v : VReg) (a : VReg) (b : VReg) (g : PReg) (t : VType) : Statement (.vfdiv v a b g t) := steps _
theorem vfsqrt (v : VReg) (a : VReg) (g : PReg) (t : VType) : Statement (.vfsqrt v a g t) := steps _
theorem vfmin (v : VReg) (a : VReg) (b : VReg) (g : PReg) (t : VType) : Statement (.vfmin v a b g t) := steps _
theorem vfmax (v : VReg) (a : VReg) (b : VReg) (g : PReg) (t : VType) : Statement (.vfmax v a b g t) := steps _
theorem vfabs (v : VReg) (a : VReg) (g : PReg) (t : VType) : Statement (.vfabs v a g t) := steps _
theorem vfneg (v : VReg) (a : VReg) (g : PReg) (t : VType) : Statement (.vfneg v a g t) := steps _
theorem vfcopys (v : VReg) (a : VReg) (b : VReg) (g : PReg) (t : VType) : Statement (.vfcopys v a b g t) := steps _
theorem vfma (v : VReg) (a : VReg) (b : VReg) (c : VReg) (g : PReg) (f : FType) : Statement (.vfma v a b c g f) := steps _
theorem vcmp (d : PReg) (a : VReg) (b : VReg) (g : PReg) (k : VCond) (t : VType) (m : VMode) : Statement (.vcmp d a b g k t m) := steps _
theorem vsel (v : VReg) (a : VReg) (b : VReg) (g : PReg) (t : VType) : Statement (.vsel v a b g t) := steps _
theorem vperm (v : VReg) (a : VReg) (b : VReg) (g : PReg) (t : VType) : Statement (.vperm v a b g t) := steps _
theorem vslide (v : VReg) (a : VReg) (b : VReg) (g : PReg) (t : VType) : Statement (.vslide v a b g t) := steps _
theorem vcompress (v : VReg) (a : VReg) (b : VReg) (g : PReg) (t : VType) : Statement (.vcompress v a b g t) := steps _
theorem vexpand (v : VReg) (a : VReg) (b : VReg) (g : PReg) (t : VType) : Statement (.vexpand v a b g t) := steps _
theorem vcvt (v : VReg) (a : VReg) (r : RField) (o : OvMode) (g : PReg) (t : VType) (s : VType) : Statement (.vcvt v a r o g t s) := steps _
theorem vred (v : VReg) (a : VReg) (g : PReg) (t : VType) (o : RedOp) : Statement (.vred v a g t o) := steps _
theorem vmred (d : PReg) (a : VReg) (b : VReg) (g : PReg) (o : RedOp) (t : VType) : Statement (.vmred d a b g o t) := steps _
theorem vscan (v : VReg) (a : VReg) (g : PReg) (t : VType) (o : RedOp) : Statement (.vscan v a g t o) := steps _
theorem vrcp (v : VReg) (a : VReg) (g : PReg) (t : VType) : Statement (.vrcp v a g t) := steps _
theorem vrsq (v : VReg) (a : VReg) (g : PReg) (t : VType) : Statement (.vrsq v a g t) := steps _
theorem vexp2 (v : VReg) (a : VReg) (g : PReg) (t : VType) : Statement (.vexp2 v a g t) := steps _
theorem vlog2 (v : VReg) (a : VReg) (g : PReg) (t : VType) : Statement (.vlog2 v a g t) := steps _
theorem vsin (v : VReg) (a : VReg) (g : PReg) (t : VType) : Statement (.vsin v a g t) := steps _
theorem vcos (v : VReg) (a : VReg) (g : PReg) (t : VType) : Statement (.vcos v a g t) := steps _
theorem vtanh (v : VReg) (a : VReg) (g : PReg) (t : VType) : Statement (.vtanh v a g t) := steps _
theorem vbcast (v : VReg) (a : SReg) (g : PReg) (e : Size) : Statement (.vbcast v a g e) := steps _
theorem vins (v : VReg) (a : SReg) (b : SReg) (e : Size) : Statement (.vins v a b e) := steps _
theorem vext (v : VReg) (a : SReg) (b : SReg) (e : Size) : Statement (.vext v a b e) := steps _
theorem vwhile (d : PReg) (a : SReg) (b : SReg) (e : Size) : Statement (.vwhile d a b e) := steps _
theorem vlen (a : SReg) : Statement (.vlen a) := steps _
theorem pand (d : PReg) (a : PReg) (b : PReg) : Statement (.pand d a b) := steps _
theorem por (d : PReg) (a : PReg) (b : PReg) : Statement (.por d a b) := steps _
theorem pxor (d : PReg) (a : PReg) (b : PReg) : Statement (.pxor d a b) := steps _
theorem pnot (d : PReg) (a : PReg) : Statement (.pnot d a) := steps _
theorem pcnt (d : SReg) (a : PReg) (t : VType) : Statement (.pcnt d a t) := steps _
theorem pfirst (d : PReg) (a : PReg) (t : VType) : Statement (.pfirst d a t) := steps _
theorem pset (d : PReg) (a : SReg) : Statement (.pset d a) := steps _
theorem mldb (d : SReg) (a : SReg) : Statement (.mldb d a) := steps _
theorem mldbW (d : SReg) (a : SReg) : Statement (.mldbW d a) := steps _
theorem mmul (d : SReg) (a : SReg) : Statement (.mmul d a) := steps _
theorem mmulW (d : SReg) (a : SReg) : Statement (.mmulW d a) := steps _
theorem mout (d : SReg) (a : SReg) (p : Pair) : Statement (.mout d a p) := steps _
theorem mzero (d : SReg) (a : SReg) : Statement (.mzero d a) := steps _
theorem mtest (d : SReg) : Statement (.mtest d) := steps _
theorem mstat (d : SReg) (a : SReg) : Statement (.mstat d a) := steps _
theorem cpy (d : SReg) (a : SReg) : Statement (.cpy d a) := steps _
theorem cpyx (d : SReg) (a : SReg) : Statement (.cpyx d a) := steps _
theorem cpyc (d : SReg) (a : SReg) : Statement (.cpyc d a) := steps _
theorem gath (d : SReg) (a : SReg) : Statement (.gath d a) := steps _
theorem scat (d : SReg) (a : SReg) : Statement (.scat d a) := steps _
theorem scatadd (d : SReg) (a : SReg) : Statement (.scatadd d a) := steps _
theorem jpoll (d : SReg) (a : SReg) : Statement (.jpoll d a) := steps _
theorem jwait (d : SReg) (a : SReg) : Statement (.jwait d a) := steps _
theorem creduce (d : SReg) (a : SReg) : Statement (.creduce d a) := steps _
theorem rseq (d : SReg) (a : SReg) : Statement (.rseq d a) := steps _
theorem rswait (d : SReg) : Statement (.rswait d) := steps _
theorem start : Statement (.start) := steps _
theorem stop : Statement (.stop) := steps _
theorem redirect : Statement (.redirect) := steps _
theorem resume : Statement (.resume) := steps _
theorem step : Statement (.step) := steps _
theorem heddleCancel : Statement (.heddleCancel) := steps _
theorem heddleNone : Statement (.heddleNone) := steps _
theorem reservedCommand : Statement (.reservedCommand) := steps _
theorem outsideRead : Statement (.outsideRead) := steps _
theorem outsideWrite : Statement (.outsideWrite) := steps _
theorem outsideRamoadd : Statement (.outsideRamoadd) := steps _
theorem outsideRcas : Statement (.outsideRcas) := steps _
theorem outsideActivation : Statement (.outsideActivation) := steps _
theorem borrowWindow : Statement (.borrowWindow) := steps _
theorem quantumExpiry : Statement (.quantumExpiry) := steps _
theorem memParkExpiry : Statement (.memParkExpiry) := steps _
theorem treadleClose : Statement (.treadleClose) := steps _
theorem rowClose : Statement (.rowClose) := steps _
theorem rowActivation : Statement (.rowActivation) := steps _
theorem creditEarned : Statement (.creditEarned) := steps _
theorem refresh : Statement (.refresh) := steps _
theorem refreshEnd : Statement (.refreshEnd) := steps _
theorem codeRowOpen : Statement (.codeRowOpen) := steps _
theorem codeRowFill : Statement (.codeRowFill) := steps _
theorem longOpDone : Statement (.longOpDone) := steps _
theorem reply : Statement (.reply) := steps _
theorem retry : Statement (.retry) := steps _
theorem retryBackoff : Statement (.retryBackoff) := steps _
theorem redirectAnswer : Statement (.redirectAnswer) := steps _
theorem walk : Statement (.walk) := steps _
theorem walkReply : Statement (.walkReply) := steps _
theorem waitLimitExpiry : Statement (.waitLimitExpiry) := steps _
theorem cancelWait : Statement (.cancelWait) := steps _
theorem cancelWaitAnswer : Statement (.cancelWaitAnswer) := steps _
theorem objectAccessArrival : Statement (.objectAccessArrival) := steps _
theorem admission : Statement (.admission) := steps _
theorem fenceProbe : Statement (.fenceProbe) := steps _
theorem probeEcho : Statement (.probeEcho) := steps _
theorem fenceEcho : Statement (.fenceEcho) := steps _
theorem coreGate : Statement (.coreGate) := steps _
theorem coreWake : Statement (.coreWake) := steps _
theorem inboxEntry : Statement (.inboxEntry) := steps _
theorem activeMessage : Statement (.activeMessage) := steps _
theorem handlerStart : Statement (.handlerStart) := steps _
theorem doorbell : Statement (.doorbell) := steps _
theorem thaw : Statement (.thaw) := steps _
theorem dispatch : Statement (.dispatch) := steps _
theorem counterPacket : Statement (.counterPacket) := steps _
theorem fencePacket : Statement (.fencePacket) := steps _
theorem placement : Statement (.placement) := steps _
theorem reservation : Statement (.reservation) := steps _
theorem agentReport : Statement (.agentReport) := steps _
theorem launchCompletion : Statement (.launchCompletion) := steps _
theorem counterDecrement : Statement (.counterDecrement) := steps _
theorem counterWrite : Statement (.counterWrite) := steps _
theorem priorityLoan : Statement (.priorityLoan) := steps _
theorem partitionReset : Statement (.partitionReset) := steps _
theorem swapOut : Statement (.swapOut) := steps _
theorem swapIn : Statement (.swapIn) := steps _
theorem checkpoint : Statement (.checkpoint) := steps _
theorem fingerprint : Statement (.fingerprint) := steps _
theorem fingerprintTimeout : Statement (.fingerprintTimeout) := steps _
theorem shadowCopy : Statement (.shadowCopy) := steps _
theorem claim : Statement (.claim) := steps _
theorem relocCopy : Statement (.relocCopy) := steps _
theorem objsyncDrop : Statement (.objsyncDrop) := steps _
theorem tagAndGranuleRead : Statement (.tagAndGranuleRead) := steps _
theorem phase2Write : Statement (.phase2Write) := steps _
theorem majorityAnswer : Statement (.majorityAnswer) := steps _
theorem rholdWrite : Statement (.rholdWrite) := steps _
theorem stackFailure : Statement (.stackFailure) := steps _
theorem markDown : Statement (.markDown) := steps _
theorem markUp : Statement (.markUp) := steps _
theorem markRebuild : Statement (.markRebuild) := steps _
theorem scrubPass : Statement (.scrubPass) := steps _
theorem pathFailure : Statement (.pathFailure) := steps _
theorem pathRecovery : Statement (.pathRecovery) := steps _
theorem powerSample : Statement (.powerSample) := steps _
theorem hsem : Statement (.hsem) := steps _
theorem partitionEnable : Statement (.partitionEnable) := steps _
theorem vfReset : Statement (.vfReset) := steps _
theorem tileReassign : Statement (.tileReassign) := steps _
theorem memberWithdrawal : Statement (.memberWithdrawal) := steps _
theorem firmwareStage : Statement (.firmwareStage) := steps _
theorem attestationRequest : Statement (.attestationRequest) := steps _
theorem bringUp : Statement (.bringUp) := steps _
theorem corestatWrite : Statement (.corestatWrite) := steps _
theorem registerWrite : Statement (.registerWrite) := steps _
theorem matrixJob : Statement (.matrixJob) := steps _
theorem mldbJob : Statement (.mldbJob) := steps _
theorem moutJob : Statement (.moutJob) := steps _
theorem mzeroJob : Statement (.mzeroJob) := steps _
theorem mtestJob : Statement (.mtestJob) := steps _
theorem copyJob : Statement (.copyJob) := steps _
theorem cpyxJob : Statement (.cpyxJob) := steps _
theorem cpycJob : Statement (.cpycJob) := steps _
theorem pointerWrite : Statement (.pointerWrite) := steps _
theorem gathJob : Statement (.gathJob) := steps _
theorem scatJob : Statement (.scatJob) := steps _
theorem scataddJob : Statement (.scataddJob) := steps _
theorem rowStep : Statement (.rowStep) := steps _
theorem serviceInterval : Statement (.serviceInterval) := steps _
theorem collectiveCombine : Statement (.collectiveCombine) := steps _
theorem illegalInsn : Statement (.illegalInsn) := steps _
theorem bitError : Statement (.bitError) := steps _
theorem subArrayFault : Statement (.subArrayFault) := steps _
theorem temperatureSensor : Statement (.temperatureSensor) := steps _
end Steps

end Sys2Proof.Laws
end

