-- ==== Sys2Proof/Laws/State.lean ====
section
/-! SUPPORT. What each update of the state does to each field: one lemma for each field and update. -/
namespace Sys2Proof.Machine

/-! ## putBytes -/

@[simp] theorem putBytes_now (s : State) (a : Nat) (bs : List Byte) : (Machine.putBytes s a bs).now = s.now := rfl
@[simp] theorem putBytes_agenda (s : State) (a : Nat) (bs : List Byte) : (Machine.putBytes s a bs).agenda = s.agenda := rfl
@[simp] theorem putBytes_cursor (s : State) (a : Nat) (bs : List Byte) : (Machine.putBytes s a bs).cursor = s.cursor := rfl
@[simp] theorem putBytes_cur (s : State) (a : Nat) (bs : List Byte) : (Machine.putBytes s a bs).cur = s.cur := rfl
@[simp] theorem putBytes_curWord (s : State) (a : Nat) (bs : List Byte) : (Machine.putBytes s a bs).curWord = s.curWord := rfl
@[simp] theorem putBytes_doing (s : State) (a : Nat) (bs : List Byte) : (Machine.putBytes s a bs).doing = s.doing := rfl
@[simp] theorem putBytes_delays (s : State) (a : Nat) (bs : List Byte) : (Machine.putBytes s a bs).delays = s.delays := rfl
@[simp] theorem putBytes_fresh (s : State) (a : Nat) (bs : List Byte) : (Machine.putBytes s a bs).fresh = s.fresh := rfl
@[simp] theorem putBytes_nextReq (s : State) (a : Nat) (bs : List Byte) : (Machine.putBytes s a bs).nextReq = s.nextReq := rfl
@[simp] theorem putBytes_nextSeq (s : State) (a : Nat) (bs : List Byte) : (Machine.putBytes s a bs).nextSeq = s.nextSeq := rfl
@[simp] theorem putBytes_mem (s : State) (a : Nat) (bs : List Byte) : (Machine.putBytes s a bs).mem = Memory.put s.mem (a) (bs) := rfl
@[simp] theorem putBytes_empty (s : State) (a : Nat) (bs : List Byte) : (Machine.putBytes s a bs).empty = s.empty := rfl
@[simp] theorem putBytes_cores (s : State) (a : Nat) (bs : List Byte) : (Machine.putBytes s a bs).cores = s.cores := rfl
@[simp] theorem putBytes_tiles (s : State) (a : Nat) (bs : List Byte) : (Machine.putBytes s a bs).tiles = s.tiles := rfl
@[simp] theorem putBytes_stacks (s : State) (a : Nat) (bs : List Byte) : (Machine.putBytes s a bs).stackSt = s.stackSt := rfl
@[simp] theorem putBytes_reqs (s : State) (a : Nat) (bs : List Byte) : (Machine.putBytes s a bs).reqs = s.reqs := rfl
@[simp] theorem putBytes_io (s : State) (a : Nat) (bs : List Byte) : (Machine.putBytes s a bs).io = s.io := rfl
@[simp] theorem putBytes_pairs (s : State) (a : Nat) (bs : List Byte) : (Machine.putBytes s a bs).pairs = s.pairs := rfl
@[simp] theorem putBytes_absent (s : State) (a : Nat) (bs : List Byte) : (Machine.putBytes s a bs).absent = s.absent := rfl
@[simp] theorem putBytes_trace (s : State) (a : Nat) (bs : List Byte) : (Machine.putBytes s a bs).trace = s.trace := rfl
@[simp] theorem putBytes_acting (s : State) (a : Nat) (bs : List Byte) : (Machine.putBytes s a bs).acting = s.acting := rfl

/-! ## putWord -/

@[simp] theorem putWord_now (s : State) (a : Nat) (x : Word) : (Machine.putWord s a x).now = s.now := rfl
@[simp] theorem putWord_agenda (s : State) (a : Nat) (x : Word) : (Machine.putWord s a x).agenda = s.agenda := rfl
@[simp] theorem putWord_cursor (s : State) (a : Nat) (x : Word) : (Machine.putWord s a x).cursor = s.cursor := rfl
@[simp] theorem putWord_cur (s : State) (a : Nat) (x : Word) : (Machine.putWord s a x).cur = s.cur := rfl
@[simp] theorem putWord_curWord (s : State) (a : Nat) (x : Word) : (Machine.putWord s a x).curWord = s.curWord := rfl
@[simp] theorem putWord_doing (s : State) (a : Nat) (x : Word) : (Machine.putWord s a x).doing = s.doing := rfl
@[simp] theorem putWord_delays (s : State) (a : Nat) (x : Word) : (Machine.putWord s a x).delays = s.delays := rfl
@[simp] theorem putWord_fresh (s : State) (a : Nat) (x : Word) : (Machine.putWord s a x).fresh = s.fresh := rfl
@[simp] theorem putWord_nextReq (s : State) (a : Nat) (x : Word) : (Machine.putWord s a x).nextReq = s.nextReq := rfl
@[simp] theorem putWord_nextSeq (s : State) (a : Nat) (x : Word) : (Machine.putWord s a x).nextSeq = s.nextSeq := rfl
@[simp] theorem putWord_mem (s : State) (a : Nat) (x : Word) : (Machine.putWord s a x).mem = Memory.put s.mem a (toBytes 8 x.toNat) := rfl
@[simp] theorem putWord_empty (s : State) (a : Nat) (x : Word) : (Machine.putWord s a x).empty = s.empty := rfl
@[simp] theorem putWord_cores (s : State) (a : Nat) (x : Word) : (Machine.putWord s a x).cores = s.cores := rfl
@[simp] theorem putWord_tiles (s : State) (a : Nat) (x : Word) : (Machine.putWord s a x).tiles = s.tiles := rfl
@[simp] theorem putWord_stacks (s : State) (a : Nat) (x : Word) : (Machine.putWord s a x).stackSt = s.stackSt := rfl
@[simp] theorem putWord_reqs (s : State) (a : Nat) (x : Word) : (Machine.putWord s a x).reqs = s.reqs := rfl
@[simp] theorem putWord_io (s : State) (a : Nat) (x : Word) : (Machine.putWord s a x).io = s.io := rfl
@[simp] theorem putWord_pairs (s : State) (a : Nat) (x : Word) : (Machine.putWord s a x).pairs = s.pairs := rfl
@[simp] theorem putWord_absent (s : State) (a : Nat) (x : Word) : (Machine.putWord s a x).absent = s.absent := rfl
@[simp] theorem putWord_trace (s : State) (a : Nat) (x : Word) : (Machine.putWord s a x).trace = s.trace := rfl
@[simp] theorem putWord_acting (s : State) (a : Nat) (x : Word) : (Machine.putWord s a x).acting = s.acting := rfl

/-! ## fillFE -/

@[simp] theorem fillFE_now (s : State) (a n : Nat) : (Machine.fillFE s a n).now = s.now := rfl
@[simp] theorem fillFE_agenda (s : State) (a n : Nat) : (Machine.fillFE s a n).agenda = s.agenda := rfl
@[simp] theorem fillFE_cursor (s : State) (a n : Nat) : (Machine.fillFE s a n).cursor = s.cursor := rfl
@[simp] theorem fillFE_cur (s : State) (a n : Nat) : (Machine.fillFE s a n).cur = s.cur := rfl
@[simp] theorem fillFE_curWord (s : State) (a n : Nat) : (Machine.fillFE s a n).curWord = s.curWord := rfl
@[simp] theorem fillFE_doing (s : State) (a n : Nat) : (Machine.fillFE s a n).doing = s.doing := rfl
@[simp] theorem fillFE_delays (s : State) (a n : Nat) : (Machine.fillFE s a n).delays = s.delays := rfl
@[simp] theorem fillFE_fresh (s : State) (a n : Nat) : (Machine.fillFE s a n).fresh = s.fresh := rfl
@[simp] theorem fillFE_nextReq (s : State) (a n : Nat) : (Machine.fillFE s a n).nextReq = s.nextReq := rfl
@[simp] theorem fillFE_nextSeq (s : State) (a n : Nat) : (Machine.fillFE s a n).nextSeq = s.nextSeq := rfl
@[simp] theorem fillFE_mem (s : State) (a n : Nat) : (Machine.fillFE s a n).mem = s.mem := rfl
@[simp] theorem fillFE_poison (s : State) (a n : Nat) : (Machine.fillFE s a n).poison = s.poison := rfl
@[simp] theorem fillFE_bitErrs (s : State) (a n : Nat) : (Machine.fillFE s a n).bitErrs = s.bitErrs := rfl
@[simp] theorem fillFE_cores (s : State) (a n : Nat) : (Machine.fillFE s a n).cores = s.cores := rfl
@[simp] theorem fillFE_tiles (s : State) (a n : Nat) : (Machine.fillFE s a n).tiles = s.tiles := rfl
@[simp] theorem fillFE_stacks (s : State) (a n : Nat) : (Machine.fillFE s a n).stackSt = s.stackSt := rfl
@[simp] theorem fillFE_reqs (s : State) (a n : Nat) : (Machine.fillFE s a n).reqs = s.reqs := rfl
@[simp] theorem fillFE_io (s : State) (a n : Nat) : (Machine.fillFE s a n).io = s.io := rfl
@[simp] theorem fillFE_pairs (s : State) (a n : Nat) : (Machine.fillFE s a n).pairs = s.pairs := rfl
@[simp] theorem fillFE_absent (s : State) (a n : Nat) : (Machine.fillFE s a n).absent = s.absent := rfl
@[simp] theorem fillFE_trace (s : State) (a n : Nat) : (Machine.fillFE s a n).trace = s.trace := rfl
@[simp] theorem fillFE_acting (s : State) (a n : Nat) : (Machine.fillFE s a n).acting = s.acting := rfl

/-! ## putFull -/

@[simp] theorem putFull_now (s : State) (a : Nat) (bs : List Byte) : (Machine.putFull s a bs).now = s.now := rfl
@[simp] theorem putFull_agenda (s : State) (a : Nat) (bs : List Byte) : (Machine.putFull s a bs).agenda = s.agenda := rfl
@[simp] theorem putFull_cursor (s : State) (a : Nat) (bs : List Byte) : (Machine.putFull s a bs).cursor = s.cursor := rfl
@[simp] theorem putFull_cur (s : State) (a : Nat) (bs : List Byte) : (Machine.putFull s a bs).cur = s.cur := rfl
@[simp] theorem putFull_curWord (s : State) (a : Nat) (bs : List Byte) : (Machine.putFull s a bs).curWord = s.curWord := rfl
@[simp] theorem putFull_doing (s : State) (a : Nat) (bs : List Byte) : (Machine.putFull s a bs).doing = s.doing := rfl
@[simp] theorem putFull_delays (s : State) (a : Nat) (bs : List Byte) : (Machine.putFull s a bs).delays = s.delays := rfl
@[simp] theorem putFull_fresh (s : State) (a : Nat) (bs : List Byte) : (Machine.putFull s a bs).fresh = s.fresh := rfl
@[simp] theorem putFull_nextReq (s : State) (a : Nat) (bs : List Byte) : (Machine.putFull s a bs).nextReq = s.nextReq := rfl
@[simp] theorem putFull_nextSeq (s : State) (a : Nat) (bs : List Byte) : (Machine.putFull s a bs).nextSeq = s.nextSeq := rfl
@[simp] theorem putFull_mem (s : State) (a : Nat) (bs : List Byte) : (Machine.putFull s a bs).mem = Memory.put s.mem a bs := rfl
@[simp] theorem putFull_cores (s : State) (a : Nat) (bs : List Byte) : (Machine.putFull s a bs).cores = s.cores := rfl
@[simp] theorem putFull_tiles (s : State) (a : Nat) (bs : List Byte) : (Machine.putFull s a bs).tiles = s.tiles := rfl
@[simp] theorem putFull_stacks (s : State) (a : Nat) (bs : List Byte) : (Machine.putFull s a bs).stackSt = s.stackSt := rfl
@[simp] theorem putFull_reqs (s : State) (a : Nat) (bs : List Byte) : (Machine.putFull s a bs).reqs = s.reqs := rfl
@[simp] theorem putFull_io (s : State) (a : Nat) (bs : List Byte) : (Machine.putFull s a bs).io = s.io := rfl
@[simp] theorem putFull_pairs (s : State) (a : Nat) (bs : List Byte) : (Machine.putFull s a bs).pairs = s.pairs := rfl
@[simp] theorem putFull_absent (s : State) (a : Nat) (bs : List Byte) : (Machine.putFull s a bs).absent = s.absent := rfl
@[simp] theorem putFull_trace (s : State) (a : Nat) (bs : List Byte) : (Machine.putFull s a bs).trace = s.trace := rfl
@[simp] theorem putFull_acting (s : State) (a : Nat) (bs : List Byte) : (Machine.putFull s a bs).acting = s.acting := rfl

/-! ## setFull -/

@[simp] theorem setFull_now (s : State) (a : Nat) (b : Bool) : (Machine.setFull s a b).now = s.now := rfl
@[simp] theorem setFull_agenda (s : State) (a : Nat) (b : Bool) : (Machine.setFull s a b).agenda = s.agenda := rfl
@[simp] theorem setFull_cursor (s : State) (a : Nat) (b : Bool) : (Machine.setFull s a b).cursor = s.cursor := rfl
@[simp] theorem setFull_cur (s : State) (a : Nat) (b : Bool) : (Machine.setFull s a b).cur = s.cur := rfl
@[simp] theorem setFull_curWord (s : State) (a : Nat) (b : Bool) : (Machine.setFull s a b).curWord = s.curWord := rfl
@[simp] theorem setFull_doing (s : State) (a : Nat) (b : Bool) : (Machine.setFull s a b).doing = s.doing := rfl
@[simp] theorem setFull_delays (s : State) (a : Nat) (b : Bool) : (Machine.setFull s a b).delays = s.delays := rfl
@[simp] theorem setFull_fresh (s : State) (a : Nat) (b : Bool) : (Machine.setFull s a b).fresh = s.fresh := rfl
@[simp] theorem setFull_nextReq (s : State) (a : Nat) (b : Bool) : (Machine.setFull s a b).nextReq = s.nextReq := rfl
@[simp] theorem setFull_nextSeq (s : State) (a : Nat) (b : Bool) : (Machine.setFull s a b).nextSeq = s.nextSeq := rfl
@[simp] theorem setFull_mem (s : State) (a : Nat) (b : Bool) : (Machine.setFull s a b).mem = s.mem := rfl
@[simp] theorem setFull_poison (s : State) (a : Nat) (b : Bool) : (Machine.setFull s a b).poison = s.poison := rfl
@[simp] theorem setFull_bitErrs (s : State) (a : Nat) (b : Bool) : (Machine.setFull s a b).bitErrs = s.bitErrs := rfl
@[simp] theorem setFull_cores (s : State) (a : Nat) (b : Bool) : (Machine.setFull s a b).cores = s.cores := rfl
@[simp] theorem setFull_tiles (s : State) (a : Nat) (b : Bool) : (Machine.setFull s a b).tiles = s.tiles := rfl
@[simp] theorem setFull_stacks (s : State) (a : Nat) (b : Bool) : (Machine.setFull s a b).stackSt = s.stackSt := rfl
@[simp] theorem setFull_reqs (s : State) (a : Nat) (b : Bool) : (Machine.setFull s a b).reqs = s.reqs := rfl
@[simp] theorem setFull_io (s : State) (a : Nat) (b : Bool) : (Machine.setFull s a b).io = s.io := rfl
@[simp] theorem setFull_pairs (s : State) (a : Nat) (b : Bool) : (Machine.setFull s a b).pairs = s.pairs := rfl
@[simp] theorem setFull_absent (s : State) (a : Nat) (b : Bool) : (Machine.setFull s a b).absent = s.absent := rfl
@[simp] theorem setFull_trace (s : State) (a : Nat) (b : Bool) : (Machine.setFull s a b).trace = s.trace := rfl
@[simp] theorem setFull_acting (s : State) (a : Nat) (b : Bool) : (Machine.setFull s a b).acting = s.acting := rfl

/-! ## setV -/

@[simp] theorem setV_now (s : State) (t : Thr) (n : VReg) (x : Vec) : (Machine.setV s t n x).now = s.now := rfl
@[simp] theorem setV_agenda (s : State) (t : Thr) (n : VReg) (x : Vec) : (Machine.setV s t n x).agenda = s.agenda := rfl
@[simp] theorem setV_cursor (s : State) (t : Thr) (n : VReg) (x : Vec) : (Machine.setV s t n x).cursor = s.cursor := rfl
@[simp] theorem setV_cur (s : State) (t : Thr) (n : VReg) (x : Vec) : (Machine.setV s t n x).cur = s.cur := rfl
@[simp] theorem setV_curWord (s : State) (t : Thr) (n : VReg) (x : Vec) : (Machine.setV s t n x).curWord = s.curWord := rfl
@[simp] theorem setV_doing (s : State) (t : Thr) (n : VReg) (x : Vec) : (Machine.setV s t n x).doing = s.doing := rfl
@[simp] theorem setV_delays (s : State) (t : Thr) (n : VReg) (x : Vec) : (Machine.setV s t n x).delays = s.delays := rfl
@[simp] theorem setV_fresh (s : State) (t : Thr) (n : VReg) (x : Vec) : (Machine.setV s t n x).fresh = s.fresh := rfl
@[simp] theorem setV_nextReq (s : State) (t : Thr) (n : VReg) (x : Vec) : (Machine.setV s t n x).nextReq = s.nextReq := rfl
@[simp] theorem setV_nextSeq (s : State) (t : Thr) (n : VReg) (x : Vec) : (Machine.setV s t n x).nextSeq = s.nextSeq := rfl
@[simp] theorem setV_mem (s : State) (t : Thr) (n : VReg) (x : Vec) : (Machine.setV s t n x).mem = Memory.put s.mem (vAddr t n.toNat) (toBytes 32 x.toNat) := rfl
@[simp] theorem setV_empty (s : State) (t : Thr) (n : VReg) (x : Vec) : (Machine.setV s t n x).empty = s.empty := rfl
@[simp] theorem setV_cores (s : State) (t : Thr) (n : VReg) (x : Vec) : (Machine.setV s t n x).cores = s.cores := rfl
@[simp] theorem setV_tiles (s : State) (t : Thr) (n : VReg) (x : Vec) : (Machine.setV s t n x).tiles = s.tiles := rfl
@[simp] theorem setV_stacks (s : State) (t : Thr) (n : VReg) (x : Vec) : (Machine.setV s t n x).stackSt = s.stackSt := rfl
@[simp] theorem setV_reqs (s : State) (t : Thr) (n : VReg) (x : Vec) : (Machine.setV s t n x).reqs = s.reqs := rfl
@[simp] theorem setV_io (s : State) (t : Thr) (n : VReg) (x : Vec) : (Machine.setV s t n x).io = s.io := rfl
@[simp] theorem setV_pairs (s : State) (t : Thr) (n : VReg) (x : Vec) : (Machine.setV s t n x).pairs = s.pairs := rfl
@[simp] theorem setV_absent (s : State) (t : Thr) (n : VReg) (x : Vec) : (Machine.setV s t n x).absent = s.absent := rfl
@[simp] theorem setV_trace (s : State) (t : Thr) (n : VReg) (x : Vec) : (Machine.setV s t n x).trace = s.trace := rfl
@[simp] theorem setV_acting (s : State) (t : Thr) (n : VReg) (x : Vec) : (Machine.setV s t n x).acting = s.acting := rfl

/-! ## setC -/

@[simp] theorem setC_now (s : State) (t : Thr) (n : Nat) (x : Word) : (Machine.setC s t n x).now = s.now := rfl
@[simp] theorem setC_agenda (s : State) (t : Thr) (n : Nat) (x : Word) : (Machine.setC s t n x).agenda = s.agenda := rfl
@[simp] theorem setC_cursor (s : State) (t : Thr) (n : Nat) (x : Word) : (Machine.setC s t n x).cursor = s.cursor := rfl
@[simp] theorem setC_cur (s : State) (t : Thr) (n : Nat) (x : Word) : (Machine.setC s t n x).cur = s.cur := rfl
@[simp] theorem setC_curWord (s : State) (t : Thr) (n : Nat) (x : Word) : (Machine.setC s t n x).curWord = s.curWord := rfl
@[simp] theorem setC_doing (s : State) (t : Thr) (n : Nat) (x : Word) : (Machine.setC s t n x).doing = s.doing := rfl
@[simp] theorem setC_delays (s : State) (t : Thr) (n : Nat) (x : Word) : (Machine.setC s t n x).delays = s.delays := rfl
@[simp] theorem setC_fresh (s : State) (t : Thr) (n : Nat) (x : Word) : (Machine.setC s t n x).fresh = s.fresh := rfl
@[simp] theorem setC_nextReq (s : State) (t : Thr) (n : Nat) (x : Word) : (Machine.setC s t n x).nextReq = s.nextReq := rfl
@[simp] theorem setC_nextSeq (s : State) (t : Thr) (n : Nat) (x : Word) : (Machine.setC s t n x).nextSeq = s.nextSeq := rfl
@[simp] theorem setC_mem (s : State) (t : Thr) (n : Nat) (x : Word) : (Machine.setC s t n x).mem = Memory.put s.mem (cAddr t n) (toBytes 8 x.toNat) := rfl
@[simp] theorem setC_empty (s : State) (t : Thr) (n : Nat) (x : Word) : (Machine.setC s t n x).empty = s.empty := rfl
@[simp] theorem setC_cores (s : State) (t : Thr) (n : Nat) (x : Word) : (Machine.setC s t n x).cores = s.cores := rfl
@[simp] theorem setC_tiles (s : State) (t : Thr) (n : Nat) (x : Word) : (Machine.setC s t n x).tiles = s.tiles := rfl
@[simp] theorem setC_stacks (s : State) (t : Thr) (n : Nat) (x : Word) : (Machine.setC s t n x).stackSt = s.stackSt := rfl
@[simp] theorem setC_reqs (s : State) (t : Thr) (n : Nat) (x : Word) : (Machine.setC s t n x).reqs = s.reqs := rfl
@[simp] theorem setC_io (s : State) (t : Thr) (n : Nat) (x : Word) : (Machine.setC s t n x).io = s.io := rfl
@[simp] theorem setC_pairs (s : State) (t : Thr) (n : Nat) (x : Word) : (Machine.setC s t n x).pairs = s.pairs := rfl
@[simp] theorem setC_absent (s : State) (t : Thr) (n : Nat) (x : Word) : (Machine.setC s t n x).absent = s.absent := rfl
@[simp] theorem setC_trace (s : State) (t : Thr) (n : Nat) (x : Word) : (Machine.setC s t n x).trace = s.trace := rfl
@[simp] theorem setC_acting (s : State) (t : Thr) (n : Nat) (x : Word) : (Machine.setC s t n x).acting = s.acting := rfl

/-! ## setCore -/

@[simp] theorem setCore_now (s : State) (c : Nat) (x : CoreSt) : (Machine.setCore s c x).now = s.now := rfl
@[simp] theorem setCore_agenda (s : State) (c : Nat) (x : CoreSt) : (Machine.setCore s c x).agenda = s.agenda := rfl
@[simp] theorem setCore_cursor (s : State) (c : Nat) (x : CoreSt) : (Machine.setCore s c x).cursor = s.cursor := rfl
@[simp] theorem setCore_cur (s : State) (c : Nat) (x : CoreSt) : (Machine.setCore s c x).cur = s.cur := rfl
@[simp] theorem setCore_curWord (s : State) (c : Nat) (x : CoreSt) : (Machine.setCore s c x).curWord = s.curWord := rfl
@[simp] theorem setCore_doing (s : State) (c : Nat) (x : CoreSt) : (Machine.setCore s c x).doing = s.doing := rfl
@[simp] theorem setCore_delays (s : State) (c : Nat) (x : CoreSt) : (Machine.setCore s c x).delays = s.delays := rfl
@[simp] theorem setCore_fresh (s : State) (c : Nat) (x : CoreSt) : (Machine.setCore s c x).fresh = s.fresh := rfl
@[simp] theorem setCore_nextReq (s : State) (c : Nat) (x : CoreSt) : (Machine.setCore s c x).nextReq = s.nextReq := rfl
@[simp] theorem setCore_nextSeq (s : State) (c : Nat) (x : CoreSt) : (Machine.setCore s c x).nextSeq = s.nextSeq := rfl
@[simp] theorem setCore_mem (s : State) (c : Nat) (x : CoreSt) : (Machine.setCore s c x).mem = s.mem := rfl
@[simp] theorem setCore_empty (s : State) (c : Nat) (x : CoreSt) : (Machine.setCore s c x).empty = s.empty := rfl
@[simp] theorem setCore_poison (s : State) (c : Nat) (x : CoreSt) : (Machine.setCore s c x).poison = s.poison := rfl
@[simp] theorem setCore_bitErrs (s : State) (c : Nat) (x : CoreSt) : (Machine.setCore s c x).bitErrs = s.bitErrs := rfl
@[simp] theorem setCore_cores (s : State) (c : Nat) (x : CoreSt) : (Machine.setCore s c x).cores = Machine.store s.cores c x := rfl
@[simp] theorem setCore_tiles (s : State) (c : Nat) (x : CoreSt) : (Machine.setCore s c x).tiles = s.tiles := rfl
@[simp] theorem setCore_stacks (s : State) (c : Nat) (x : CoreSt) : (Machine.setCore s c x).stackSt = s.stackSt := rfl
@[simp] theorem setCore_reqs (s : State) (c : Nat) (x : CoreSt) : (Machine.setCore s c x).reqs = s.reqs := rfl
@[simp] theorem setCore_io (s : State) (c : Nat) (x : CoreSt) : (Machine.setCore s c x).io = s.io := rfl
@[simp] theorem setCore_pairs (s : State) (c : Nat) (x : CoreSt) : (Machine.setCore s c x).pairs = s.pairs := rfl
@[simp] theorem setCore_absent (s : State) (c : Nat) (x : CoreSt) : (Machine.setCore s c x).absent = s.absent := rfl
@[simp] theorem setCore_trace (s : State) (c : Nat) (x : CoreSt) : (Machine.setCore s c x).trace = s.trace := rfl
@[simp] theorem setCore_acting (s : State) (c : Nat) (x : CoreSt) : (Machine.setCore s c x).acting = s.acting := rfl

/-! ## modCore -/

@[simp] theorem modCore_now (s : State) (c : Nat) (f : CoreSt → CoreSt) : (Machine.modCore s c f).now = s.now := rfl
@[simp] theorem modCore_agenda (s : State) (c : Nat) (f : CoreSt → CoreSt) : (Machine.modCore s c f).agenda = s.agenda := rfl
@[simp] theorem modCore_cursor (s : State) (c : Nat) (f : CoreSt → CoreSt) : (Machine.modCore s c f).cursor = s.cursor := rfl
@[simp] theorem modCore_cur (s : State) (c : Nat) (f : CoreSt → CoreSt) : (Machine.modCore s c f).cur = s.cur := rfl
@[simp] theorem modCore_curWord (s : State) (c : Nat) (f : CoreSt → CoreSt) : (Machine.modCore s c f).curWord = s.curWord := rfl
@[simp] theorem modCore_doing (s : State) (c : Nat) (f : CoreSt → CoreSt) : (Machine.modCore s c f).doing = s.doing := rfl
@[simp] theorem modCore_delays (s : State) (c : Nat) (f : CoreSt → CoreSt) : (Machine.modCore s c f).delays = s.delays := rfl
@[simp] theorem modCore_fresh (s : State) (c : Nat) (f : CoreSt → CoreSt) : (Machine.modCore s c f).fresh = s.fresh := rfl
@[simp] theorem modCore_nextReq (s : State) (c : Nat) (f : CoreSt → CoreSt) : (Machine.modCore s c f).nextReq = s.nextReq := rfl
@[simp] theorem modCore_nextSeq (s : State) (c : Nat) (f : CoreSt → CoreSt) : (Machine.modCore s c f).nextSeq = s.nextSeq := rfl
@[simp] theorem modCore_mem (s : State) (c : Nat) (f : CoreSt → CoreSt) : (Machine.modCore s c f).mem = s.mem := rfl
@[simp] theorem modCore_empty (s : State) (c : Nat) (f : CoreSt → CoreSt) : (Machine.modCore s c f).empty = s.empty := rfl
@[simp] theorem modCore_poison (s : State) (c : Nat) (f : CoreSt → CoreSt) : (Machine.modCore s c f).poison = s.poison := rfl
@[simp] theorem modCore_bitErrs (s : State) (c : Nat) (f : CoreSt → CoreSt) : (Machine.modCore s c f).bitErrs = s.bitErrs := rfl
@[simp] theorem modCore_tiles (s : State) (c : Nat) (f : CoreSt → CoreSt) : (Machine.modCore s c f).tiles = s.tiles := rfl
@[simp] theorem modCore_stacks (s : State) (c : Nat) (f : CoreSt → CoreSt) : (Machine.modCore s c f).stackSt = s.stackSt := rfl
@[simp] theorem modCore_reqs (s : State) (c : Nat) (f : CoreSt → CoreSt) : (Machine.modCore s c f).reqs = s.reqs := rfl
@[simp] theorem modCore_io (s : State) (c : Nat) (f : CoreSt → CoreSt) : (Machine.modCore s c f).io = s.io := rfl
@[simp] theorem modCore_pairs (s : State) (c : Nat) (f : CoreSt → CoreSt) : (Machine.modCore s c f).pairs = s.pairs := rfl
@[simp] theorem modCore_absent (s : State) (c : Nat) (f : CoreSt → CoreSt) : (Machine.modCore s c f).absent = s.absent := rfl
@[simp] theorem modCore_trace (s : State) (c : Nat) (f : CoreSt → CoreSt) : (Machine.modCore s c f).trace = s.trace := rfl
@[simp] theorem modCore_acting (s : State) (c : Nat) (f : CoreSt → CoreSt) : (Machine.modCore s c f).acting = s.acting := rfl

/-! ## setTile -/

@[simp] theorem setTile_now (s : State) (k : Nat) (x : TileSt) : (Machine.setTile s k x).now = s.now := rfl
@[simp] theorem setTile_agenda (s : State) (k : Nat) (x : TileSt) : (Machine.setTile s k x).agenda = s.agenda := rfl
@[simp] theorem setTile_cursor (s : State) (k : Nat) (x : TileSt) : (Machine.setTile s k x).cursor = s.cursor := rfl
@[simp] theorem setTile_cur (s : State) (k : Nat) (x : TileSt) : (Machine.setTile s k x).cur = s.cur := rfl
@[simp] theorem setTile_curWord (s : State) (k : Nat) (x : TileSt) : (Machine.setTile s k x).curWord = s.curWord := rfl
@[simp] theorem setTile_doing (s : State) (k : Nat) (x : TileSt) : (Machine.setTile s k x).doing = s.doing := rfl
@[simp] theorem setTile_delays (s : State) (k : Nat) (x : TileSt) : (Machine.setTile s k x).delays = s.delays := rfl
@[simp] theorem setTile_fresh (s : State) (k : Nat) (x : TileSt) : (Machine.setTile s k x).fresh = s.fresh := rfl
@[simp] theorem setTile_nextReq (s : State) (k : Nat) (x : TileSt) : (Machine.setTile s k x).nextReq = s.nextReq := rfl
@[simp] theorem setTile_nextSeq (s : State) (k : Nat) (x : TileSt) : (Machine.setTile s k x).nextSeq = s.nextSeq := rfl
@[simp] theorem setTile_mem (s : State) (k : Nat) (x : TileSt) : (Machine.setTile s k x).mem = s.mem := rfl
@[simp] theorem setTile_empty (s : State) (k : Nat) (x : TileSt) : (Machine.setTile s k x).empty = s.empty := rfl
@[simp] theorem setTile_poison (s : State) (k : Nat) (x : TileSt) : (Machine.setTile s k x).poison = s.poison := rfl
@[simp] theorem setTile_bitErrs (s : State) (k : Nat) (x : TileSt) : (Machine.setTile s k x).bitErrs = s.bitErrs := rfl
@[simp] theorem setTile_cores (s : State) (k : Nat) (x : TileSt) : (Machine.setTile s k x).cores = s.cores := rfl
@[simp] theorem setTile_tiles (s : State) (k : Nat) (x : TileSt) : (Machine.setTile s k x).tiles = Machine.store s.tiles k x := rfl
@[simp] theorem setTile_stacks (s : State) (k : Nat) (x : TileSt) : (Machine.setTile s k x).stackSt = s.stackSt := rfl
@[simp] theorem setTile_reqs (s : State) (k : Nat) (x : TileSt) : (Machine.setTile s k x).reqs = s.reqs := rfl
@[simp] theorem setTile_io (s : State) (k : Nat) (x : TileSt) : (Machine.setTile s k x).io = s.io := rfl
@[simp] theorem setTile_pairs (s : State) (k : Nat) (x : TileSt) : (Machine.setTile s k x).pairs = s.pairs := rfl
@[simp] theorem setTile_absent (s : State) (k : Nat) (x : TileSt) : (Machine.setTile s k x).absent = s.absent := rfl
@[simp] theorem setTile_trace (s : State) (k : Nat) (x : TileSt) : (Machine.setTile s k x).trace = s.trace := rfl
@[simp] theorem setTile_acting (s : State) (k : Nat) (x : TileSt) : (Machine.setTile s k x).acting = s.acting := rfl

/-! ## modTile -/

@[simp] theorem modTile_now (s : State) (k : Nat) (f : TileSt → TileSt) : (Machine.modTile s k f).now = s.now := rfl
@[simp] theorem modTile_agenda (s : State) (k : Nat) (f : TileSt → TileSt) : (Machine.modTile s k f).agenda = s.agenda := rfl
@[simp] theorem modTile_cursor (s : State) (k : Nat) (f : TileSt → TileSt) : (Machine.modTile s k f).cursor = s.cursor := rfl
@[simp] theorem modTile_cur (s : State) (k : Nat) (f : TileSt → TileSt) : (Machine.modTile s k f).cur = s.cur := rfl
@[simp] theorem modTile_curWord (s : State) (k : Nat) (f : TileSt → TileSt) : (Machine.modTile s k f).curWord = s.curWord := rfl
@[simp] theorem modTile_doing (s : State) (k : Nat) (f : TileSt → TileSt) : (Machine.modTile s k f).doing = s.doing := rfl
@[simp] theorem modTile_delays (s : State) (k : Nat) (f : TileSt → TileSt) : (Machine.modTile s k f).delays = s.delays := rfl
@[simp] theorem modTile_fresh (s : State) (k : Nat) (f : TileSt → TileSt) : (Machine.modTile s k f).fresh = s.fresh := rfl
@[simp] theorem modTile_nextReq (s : State) (k : Nat) (f : TileSt → TileSt) : (Machine.modTile s k f).nextReq = s.nextReq := rfl
@[simp] theorem modTile_nextSeq (s : State) (k : Nat) (f : TileSt → TileSt) : (Machine.modTile s k f).nextSeq = s.nextSeq := rfl
@[simp] theorem modTile_mem (s : State) (k : Nat) (f : TileSt → TileSt) : (Machine.modTile s k f).mem = s.mem := rfl
@[simp] theorem modTile_empty (s : State) (k : Nat) (f : TileSt → TileSt) : (Machine.modTile s k f).empty = s.empty := rfl
@[simp] theorem modTile_poison (s : State) (k : Nat) (f : TileSt → TileSt) : (Machine.modTile s k f).poison = s.poison := rfl
@[simp] theorem modTile_bitErrs (s : State) (k : Nat) (f : TileSt → TileSt) : (Machine.modTile s k f).bitErrs = s.bitErrs := rfl
@[simp] theorem modTile_cores (s : State) (k : Nat) (f : TileSt → TileSt) : (Machine.modTile s k f).cores = s.cores := rfl
@[simp] theorem modTile_stacks (s : State) (k : Nat) (f : TileSt → TileSt) : (Machine.modTile s k f).stackSt = s.stackSt := rfl
@[simp] theorem modTile_reqs (s : State) (k : Nat) (f : TileSt → TileSt) : (Machine.modTile s k f).reqs = s.reqs := rfl
@[simp] theorem modTile_io (s : State) (k : Nat) (f : TileSt → TileSt) : (Machine.modTile s k f).io = s.io := rfl
@[simp] theorem modTile_pairs (s : State) (k : Nat) (f : TileSt → TileSt) : (Machine.modTile s k f).pairs = s.pairs := rfl
@[simp] theorem modTile_absent (s : State) (k : Nat) (f : TileSt → TileSt) : (Machine.modTile s k f).absent = s.absent := rfl
@[simp] theorem modTile_trace (s : State) (k : Nat) (f : TileSt → TileSt) : (Machine.modTile s k f).trace = s.trace := rfl
@[simp] theorem modTile_acting (s : State) (k : Nat) (f : TileSt → TileSt) : (Machine.modTile s k f).acting = s.acting := rfl

/-! ## setStack -/

@[simp] theorem setStack_now (s : State) (k : Nat) (x : StackSt) : (Machine.setStack s k x).now = s.now := rfl
@[simp] theorem setStack_agenda (s : State) (k : Nat) (x : StackSt) : (Machine.setStack s k x).agenda = s.agenda := rfl
@[simp] theorem setStack_cursor (s : State) (k : Nat) (x : StackSt) : (Machine.setStack s k x).cursor = s.cursor := rfl
@[simp] theorem setStack_cur (s : State) (k : Nat) (x : StackSt) : (Machine.setStack s k x).cur = s.cur := rfl
@[simp] theorem setStack_curWord (s : State) (k : Nat) (x : StackSt) : (Machine.setStack s k x).curWord = s.curWord := rfl
@[simp] theorem setStack_doing (s : State) (k : Nat) (x : StackSt) : (Machine.setStack s k x).doing = s.doing := rfl
@[simp] theorem setStack_delays (s : State) (k : Nat) (x : StackSt) : (Machine.setStack s k x).delays = s.delays := rfl
@[simp] theorem setStack_fresh (s : State) (k : Nat) (x : StackSt) : (Machine.setStack s k x).fresh = s.fresh := rfl
@[simp] theorem setStack_nextReq (s : State) (k : Nat) (x : StackSt) : (Machine.setStack s k x).nextReq = s.nextReq := rfl
@[simp] theorem setStack_nextSeq (s : State) (k : Nat) (x : StackSt) : (Machine.setStack s k x).nextSeq = s.nextSeq := rfl
@[simp] theorem setStack_mem (s : State) (k : Nat) (x : StackSt) : (Machine.setStack s k x).mem = s.mem := rfl
@[simp] theorem setStack_empty (s : State) (k : Nat) (x : StackSt) : (Machine.setStack s k x).empty = s.empty := rfl
@[simp] theorem setStack_poison (s : State) (k : Nat) (x : StackSt) : (Machine.setStack s k x).poison = s.poison := rfl
@[simp] theorem setStack_bitErrs (s : State) (k : Nat) (x : StackSt) : (Machine.setStack s k x).bitErrs = s.bitErrs := rfl
@[simp] theorem setStack_cores (s : State) (k : Nat) (x : StackSt) : (Machine.setStack s k x).cores = s.cores := rfl
@[simp] theorem setStack_tiles (s : State) (k : Nat) (x : StackSt) : (Machine.setStack s k x).tiles = s.tiles := rfl
@[simp] theorem setStack_stacks (s : State) (k : Nat) (x : StackSt) : (Machine.setStack s k x).stackSt = Machine.store s.stackSt k x := rfl
@[simp] theorem setStack_reqs (s : State) (k : Nat) (x : StackSt) : (Machine.setStack s k x).reqs = s.reqs := rfl
@[simp] theorem setStack_io (s : State) (k : Nat) (x : StackSt) : (Machine.setStack s k x).io = s.io := rfl
@[simp] theorem setStack_pairs (s : State) (k : Nat) (x : StackSt) : (Machine.setStack s k x).pairs = s.pairs := rfl
@[simp] theorem setStack_absent (s : State) (k : Nat) (x : StackSt) : (Machine.setStack s k x).absent = s.absent := rfl
@[simp] theorem setStack_trace (s : State) (k : Nat) (x : StackSt) : (Machine.setStack s k x).trace = s.trace := rfl
@[simp] theorem setStack_acting (s : State) (k : Nat) (x : StackSt) : (Machine.setStack s k x).acting = s.acting := rfl

/-! ## modStack -/

@[simp] theorem modStack_now (s : State) (k : Nat) (f : StackSt → StackSt) : (Machine.modStack s k f).now = s.now := rfl
@[simp] theorem modStack_agenda (s : State) (k : Nat) (f : StackSt → StackSt) : (Machine.modStack s k f).agenda = s.agenda := rfl
@[simp] theorem modStack_cursor (s : State) (k : Nat) (f : StackSt → StackSt) : (Machine.modStack s k f).cursor = s.cursor := rfl
@[simp] theorem modStack_cur (s : State) (k : Nat) (f : StackSt → StackSt) : (Machine.modStack s k f).cur = s.cur := rfl
@[simp] theorem modStack_curWord (s : State) (k : Nat) (f : StackSt → StackSt) : (Machine.modStack s k f).curWord = s.curWord := rfl
@[simp] theorem modStack_doing (s : State) (k : Nat) (f : StackSt → StackSt) : (Machine.modStack s k f).doing = s.doing := rfl
@[simp] theorem modStack_delays (s : State) (k : Nat) (f : StackSt → StackSt) : (Machine.modStack s k f).delays = s.delays := rfl
@[simp] theorem modStack_fresh (s : State) (k : Nat) (f : StackSt → StackSt) : (Machine.modStack s k f).fresh = s.fresh := rfl
@[simp] theorem modStack_nextReq (s : State) (k : Nat) (f : StackSt → StackSt) : (Machine.modStack s k f).nextReq = s.nextReq := rfl
@[simp] theorem modStack_nextSeq (s : State) (k : Nat) (f : StackSt → StackSt) : (Machine.modStack s k f).nextSeq = s.nextSeq := rfl
@[simp] theorem modStack_mem (s : State) (k : Nat) (f : StackSt → StackSt) : (Machine.modStack s k f).mem = s.mem := rfl
@[simp] theorem modStack_empty (s : State) (k : Nat) (f : StackSt → StackSt) : (Machine.modStack s k f).empty = s.empty := rfl
@[simp] theorem modStack_poison (s : State) (k : Nat) (f : StackSt → StackSt) : (Machine.modStack s k f).poison = s.poison := rfl
@[simp] theorem modStack_bitErrs (s : State) (k : Nat) (f : StackSt → StackSt) : (Machine.modStack s k f).bitErrs = s.bitErrs := rfl
@[simp] theorem modStack_cores (s : State) (k : Nat) (f : StackSt → StackSt) : (Machine.modStack s k f).cores = s.cores := rfl
@[simp] theorem modStack_tiles (s : State) (k : Nat) (f : StackSt → StackSt) : (Machine.modStack s k f).tiles = s.tiles := rfl
@[simp] theorem modStack_reqs (s : State) (k : Nat) (f : StackSt → StackSt) : (Machine.modStack s k f).reqs = s.reqs := rfl
@[simp] theorem modStack_io (s : State) (k : Nat) (f : StackSt → StackSt) : (Machine.modStack s k f).io = s.io := rfl
@[simp] theorem modStack_pairs (s : State) (k : Nat) (f : StackSt → StackSt) : (Machine.modStack s k f).pairs = s.pairs := rfl
@[simp] theorem modStack_absent (s : State) (k : Nat) (f : StackSt → StackSt) : (Machine.modStack s k f).absent = s.absent := rfl
@[simp] theorem modStack_trace (s : State) (k : Nat) (f : StackSt → StackSt) : (Machine.modStack s k f).trace = s.trace := rfl
@[simp] theorem modStack_acting (s : State) (k : Nat) (f : StackSt → StackSt) : (Machine.modStack s k f).acting = s.acting := rfl

/-! ## setThr -/

@[simp] theorem setThr_now (s : State) (t : Thr) (x : ThrCtl) : (Machine.setThr s t x).now = s.now := rfl
@[simp] theorem setThr_agenda (s : State) (t : Thr) (x : ThrCtl) : (Machine.setThr s t x).agenda = s.agenda := rfl
@[simp] theorem setThr_cursor (s : State) (t : Thr) (x : ThrCtl) : (Machine.setThr s t x).cursor = s.cursor := rfl
@[simp] theorem setThr_cur (s : State) (t : Thr) (x : ThrCtl) : (Machine.setThr s t x).cur = s.cur := rfl
@[simp] theorem setThr_curWord (s : State) (t : Thr) (x : ThrCtl) : (Machine.setThr s t x).curWord = s.curWord := rfl
@[simp] theorem setThr_doing (s : State) (t : Thr) (x : ThrCtl) : (Machine.setThr s t x).doing = s.doing := rfl
@[simp] theorem setThr_delays (s : State) (t : Thr) (x : ThrCtl) : (Machine.setThr s t x).delays = s.delays := rfl
@[simp] theorem setThr_fresh (s : State) (t : Thr) (x : ThrCtl) : (Machine.setThr s t x).fresh = s.fresh := rfl
@[simp] theorem setThr_nextReq (s : State) (t : Thr) (x : ThrCtl) : (Machine.setThr s t x).nextReq = s.nextReq := rfl
@[simp] theorem setThr_nextSeq (s : State) (t : Thr) (x : ThrCtl) : (Machine.setThr s t x).nextSeq = s.nextSeq := rfl
@[simp] theorem setThr_mem (s : State) (t : Thr) (x : ThrCtl) : (Machine.setThr s t x).mem = s.mem := rfl
@[simp] theorem setThr_empty (s : State) (t : Thr) (x : ThrCtl) : (Machine.setThr s t x).empty = s.empty := rfl
@[simp] theorem setThr_poison (s : State) (t : Thr) (x : ThrCtl) : (Machine.setThr s t x).poison = s.poison := rfl
@[simp] theorem setThr_bitErrs (s : State) (t : Thr) (x : ThrCtl) : (Machine.setThr s t x).bitErrs = s.bitErrs := rfl
@[simp] theorem setThr_tiles (s : State) (t : Thr) (x : ThrCtl) : (Machine.setThr s t x).tiles = s.tiles := rfl
@[simp] theorem setThr_stacks (s : State) (t : Thr) (x : ThrCtl) : (Machine.setThr s t x).stackSt = s.stackSt := rfl
@[simp] theorem setThr_reqs (s : State) (t : Thr) (x : ThrCtl) : (Machine.setThr s t x).reqs = s.reqs := rfl
@[simp] theorem setThr_io (s : State) (t : Thr) (x : ThrCtl) : (Machine.setThr s t x).io = s.io := rfl
@[simp] theorem setThr_pairs (s : State) (t : Thr) (x : ThrCtl) : (Machine.setThr s t x).pairs = s.pairs := rfl
@[simp] theorem setThr_absent (s : State) (t : Thr) (x : ThrCtl) : (Machine.setThr s t x).absent = s.absent := rfl
@[simp] theorem setThr_trace (s : State) (t : Thr) (x : ThrCtl) : (Machine.setThr s t x).trace = s.trace := rfl
@[simp] theorem setThr_acting (s : State) (t : Thr) (x : ThrCtl) : (Machine.setThr s t x).acting = s.acting := rfl

/-! ## modThr -/

@[simp] theorem modThr_now (s : State) (t : Thr) (f : ThrCtl → ThrCtl) : (Machine.modThr s t f).now = s.now := rfl
@[simp] theorem modThr_agenda (s : State) (t : Thr) (f : ThrCtl → ThrCtl) : (Machine.modThr s t f).agenda = s.agenda := rfl
@[simp] theorem modThr_cursor (s : State) (t : Thr) (f : ThrCtl → ThrCtl) : (Machine.modThr s t f).cursor = s.cursor := rfl
@[simp] theorem modThr_cur (s : State) (t : Thr) (f : ThrCtl → ThrCtl) : (Machine.modThr s t f).cur = s.cur := rfl
@[simp] theorem modThr_curWord (s : State) (t : Thr) (f : ThrCtl → ThrCtl) : (Machine.modThr s t f).curWord = s.curWord := rfl
@[simp] theorem modThr_doing (s : State) (t : Thr) (f : ThrCtl → ThrCtl) : (Machine.modThr s t f).doing = s.doing := rfl
@[simp] theorem modThr_delays (s : State) (t : Thr) (f : ThrCtl → ThrCtl) : (Machine.modThr s t f).delays = s.delays := rfl
@[simp] theorem modThr_fresh (s : State) (t : Thr) (f : ThrCtl → ThrCtl) : (Machine.modThr s t f).fresh = s.fresh := rfl
@[simp] theorem modThr_nextReq (s : State) (t : Thr) (f : ThrCtl → ThrCtl) : (Machine.modThr s t f).nextReq = s.nextReq := rfl
@[simp] theorem modThr_nextSeq (s : State) (t : Thr) (f : ThrCtl → ThrCtl) : (Machine.modThr s t f).nextSeq = s.nextSeq := rfl
@[simp] theorem modThr_mem (s : State) (t : Thr) (f : ThrCtl → ThrCtl) : (Machine.modThr s t f).mem = s.mem := rfl
@[simp] theorem modThr_empty (s : State) (t : Thr) (f : ThrCtl → ThrCtl) : (Machine.modThr s t f).empty = s.empty := rfl
@[simp] theorem modThr_poison (s : State) (t : Thr) (f : ThrCtl → ThrCtl) : (Machine.modThr s t f).poison = s.poison := rfl
@[simp] theorem modThr_bitErrs (s : State) (t : Thr) (f : ThrCtl → ThrCtl) : (Machine.modThr s t f).bitErrs = s.bitErrs := rfl
@[simp] theorem modThr_tiles (s : State) (t : Thr) (f : ThrCtl → ThrCtl) : (Machine.modThr s t f).tiles = s.tiles := rfl
@[simp] theorem modThr_stacks (s : State) (t : Thr) (f : ThrCtl → ThrCtl) : (Machine.modThr s t f).stackSt = s.stackSt := rfl
@[simp] theorem modThr_reqs (s : State) (t : Thr) (f : ThrCtl → ThrCtl) : (Machine.modThr s t f).reqs = s.reqs := rfl
@[simp] theorem modThr_io (s : State) (t : Thr) (f : ThrCtl → ThrCtl) : (Machine.modThr s t f).io = s.io := rfl
@[simp] theorem modThr_pairs (s : State) (t : Thr) (f : ThrCtl → ThrCtl) : (Machine.modThr s t f).pairs = s.pairs := rfl
@[simp] theorem modThr_absent (s : State) (t : Thr) (f : ThrCtl → ThrCtl) : (Machine.modThr s t f).absent = s.absent := rfl
@[simp] theorem modThr_trace (s : State) (t : Thr) (f : ThrCtl → ThrCtl) : (Machine.modThr s t f).trace = s.trace := rfl
@[simp] theorem modThr_acting (s : State) (t : Thr) (f : ThrCtl → ThrCtl) : (Machine.modThr s t f).acting = s.acting := rfl

/-! ## setSub -/

@[simp] theorem setSub_now (s : State) (c k : Nat) (x : SubSt) : (Machine.setSub s c k x).now = s.now := rfl
@[simp] theorem setSub_agenda (s : State) (c k : Nat) (x : SubSt) : (Machine.setSub s c k x).agenda = s.agenda := rfl
@[simp] theorem setSub_cursor (s : State) (c k : Nat) (x : SubSt) : (Machine.setSub s c k x).cursor = s.cursor := rfl
@[simp] theorem setSub_cur (s : State) (c k : Nat) (x : SubSt) : (Machine.setSub s c k x).cur = s.cur := rfl
@[simp] theorem setSub_curWord (s : State) (c k : Nat) (x : SubSt) : (Machine.setSub s c k x).curWord = s.curWord := rfl
@[simp] theorem setSub_doing (s : State) (c k : Nat) (x : SubSt) : (Machine.setSub s c k x).doing = s.doing := rfl
@[simp] theorem setSub_delays (s : State) (c k : Nat) (x : SubSt) : (Machine.setSub s c k x).delays = s.delays := rfl
@[simp] theorem setSub_fresh (s : State) (c k : Nat) (x : SubSt) : (Machine.setSub s c k x).fresh = s.fresh := rfl
@[simp] theorem setSub_nextReq (s : State) (c k : Nat) (x : SubSt) : (Machine.setSub s c k x).nextReq = s.nextReq := rfl
@[simp] theorem setSub_nextSeq (s : State) (c k : Nat) (x : SubSt) : (Machine.setSub s c k x).nextSeq = s.nextSeq := rfl
@[simp] theorem setSub_mem (s : State) (c k : Nat) (x : SubSt) : (Machine.setSub s c k x).mem = s.mem := rfl
@[simp] theorem setSub_empty (s : State) (c k : Nat) (x : SubSt) : (Machine.setSub s c k x).empty = s.empty := rfl
@[simp] theorem setSub_poison (s : State) (c k : Nat) (x : SubSt) : (Machine.setSub s c k x).poison = s.poison := rfl
@[simp] theorem setSub_bitErrs (s : State) (c k : Nat) (x : SubSt) : (Machine.setSub s c k x).bitErrs = s.bitErrs := rfl
@[simp] theorem setSub_tiles (s : State) (c k : Nat) (x : SubSt) : (Machine.setSub s c k x).tiles = s.tiles := rfl
@[simp] theorem setSub_stacks (s : State) (c k : Nat) (x : SubSt) : (Machine.setSub s c k x).stackSt = s.stackSt := rfl
@[simp] theorem setSub_reqs (s : State) (c k : Nat) (x : SubSt) : (Machine.setSub s c k x).reqs = s.reqs := rfl
@[simp] theorem setSub_io (s : State) (c k : Nat) (x : SubSt) : (Machine.setSub s c k x).io = s.io := rfl
@[simp] theorem setSub_pairs (s : State) (c k : Nat) (x : SubSt) : (Machine.setSub s c k x).pairs = s.pairs := rfl
@[simp] theorem setSub_absent (s : State) (c k : Nat) (x : SubSt) : (Machine.setSub s c k x).absent = s.absent := rfl
@[simp] theorem setSub_trace (s : State) (c k : Nat) (x : SubSt) : (Machine.setSub s c k x).trace = s.trace := rfl
@[simp] theorem setSub_acting (s : State) (c k : Nat) (x : SubSt) : (Machine.setSub s c k x).acting = s.acting := rfl

/-! ## modSub -/

@[simp] theorem modSub_now (s : State) (c k : Nat) (f : SubSt → SubSt) : (Machine.modSub s c k f).now = s.now := rfl
@[simp] theorem modSub_agenda (s : State) (c k : Nat) (f : SubSt → SubSt) : (Machine.modSub s c k f).agenda = s.agenda := rfl
@[simp] theorem modSub_cursor (s : State) (c k : Nat) (f : SubSt → SubSt) : (Machine.modSub s c k f).cursor = s.cursor := rfl
@[simp] theorem modSub_cur (s : State) (c k : Nat) (f : SubSt → SubSt) : (Machine.modSub s c k f).cur = s.cur := rfl
@[simp] theorem modSub_curWord (s : State) (c k : Nat) (f : SubSt → SubSt) : (Machine.modSub s c k f).curWord = s.curWord := rfl
@[simp] theorem modSub_doing (s : State) (c k : Nat) (f : SubSt → SubSt) : (Machine.modSub s c k f).doing = s.doing := rfl
@[simp] theorem modSub_delays (s : State) (c k : Nat) (f : SubSt → SubSt) : (Machine.modSub s c k f).delays = s.delays := rfl
@[simp] theorem modSub_fresh (s : State) (c k : Nat) (f : SubSt → SubSt) : (Machine.modSub s c k f).fresh = s.fresh := rfl
@[simp] theorem modSub_nextReq (s : State) (c k : Nat) (f : SubSt → SubSt) : (Machine.modSub s c k f).nextReq = s.nextReq := rfl
@[simp] theorem modSub_nextSeq (s : State) (c k : Nat) (f : SubSt → SubSt) : (Machine.modSub s c k f).nextSeq = s.nextSeq := rfl
@[simp] theorem modSub_mem (s : State) (c k : Nat) (f : SubSt → SubSt) : (Machine.modSub s c k f).mem = s.mem := rfl
@[simp] theorem modSub_empty (s : State) (c k : Nat) (f : SubSt → SubSt) : (Machine.modSub s c k f).empty = s.empty := rfl
@[simp] theorem modSub_poison (s : State) (c k : Nat) (f : SubSt → SubSt) : (Machine.modSub s c k f).poison = s.poison := rfl
@[simp] theorem modSub_bitErrs (s : State) (c k : Nat) (f : SubSt → SubSt) : (Machine.modSub s c k f).bitErrs = s.bitErrs := rfl
@[simp] theorem modSub_tiles (s : State) (c k : Nat) (f : SubSt → SubSt) : (Machine.modSub s c k f).tiles = s.tiles := rfl
@[simp] theorem modSub_stacks (s : State) (c k : Nat) (f : SubSt → SubSt) : (Machine.modSub s c k f).stackSt = s.stackSt := rfl
@[simp] theorem modSub_reqs (s : State) (c k : Nat) (f : SubSt → SubSt) : (Machine.modSub s c k f).reqs = s.reqs := rfl
@[simp] theorem modSub_io (s : State) (c k : Nat) (f : SubSt → SubSt) : (Machine.modSub s c k f).io = s.io := rfl
@[simp] theorem modSub_pairs (s : State) (c k : Nat) (f : SubSt → SubSt) : (Machine.modSub s c k f).pairs = s.pairs := rfl
@[simp] theorem modSub_absent (s : State) (c k : Nat) (f : SubSt → SubSt) : (Machine.modSub s c k f).absent = s.absent := rfl
@[simp] theorem modSub_trace (s : State) (c k : Nat) (f : SubSt → SubSt) : (Machine.modSub s c k f).trace = s.trace := rfl
@[simp] theorem modSub_acting (s : State) (c k : Nat) (f : SubSt → SubSt) : (Machine.modSub s c k f).acting = s.acting := rfl

/-! ## post -/

@[simp] theorem post_now (s : State) (d : Nat) (e : Event) : (Machine.post s d e).now = s.now := rfl
@[simp] theorem post_agenda (s : State) (d : Nat) (e : Event) : (Machine.post s d e).agenda = insertSched ⟨s.now + d, .local, 0, 0, .run e⟩ s.agenda := rfl
@[simp] theorem post_cursor (s : State) (d : Nat) (e : Event) : (Machine.post s d e).cursor = s.cursor := rfl
@[simp] theorem post_cur (s : State) (d : Nat) (e : Event) : (Machine.post s d e).cur = s.cur := rfl
@[simp] theorem post_curWord (s : State) (d : Nat) (e : Event) : (Machine.post s d e).curWord = s.curWord := rfl
@[simp] theorem post_doing (s : State) (d : Nat) (e : Event) : (Machine.post s d e).doing = s.doing := rfl
@[simp] theorem post_delays (s : State) (d : Nat) (e : Event) : (Machine.post s d e).delays = s.delays := rfl
@[simp] theorem post_fresh (s : State) (d : Nat) (e : Event) : (Machine.post s d e).fresh = s.fresh := rfl
@[simp] theorem post_nextReq (s : State) (d : Nat) (e : Event) : (Machine.post s d e).nextReq = s.nextReq := rfl
@[simp] theorem post_nextSeq (s : State) (d : Nat) (e : Event) : (Machine.post s d e).nextSeq = s.nextSeq := rfl
@[simp] theorem post_mem (s : State) (d : Nat) (e : Event) : (Machine.post s d e).mem = s.mem := rfl
@[simp] theorem post_empty (s : State) (d : Nat) (e : Event) : (Machine.post s d e).empty = s.empty := rfl
@[simp] theorem post_poison (s : State) (d : Nat) (e : Event) : (Machine.post s d e).poison = s.poison := rfl
@[simp] theorem post_bitErrs (s : State) (d : Nat) (e : Event) : (Machine.post s d e).bitErrs = s.bitErrs := rfl
@[simp] theorem post_cores (s : State) (d : Nat) (e : Event) : (Machine.post s d e).cores = s.cores := rfl
@[simp] theorem post_tiles (s : State) (d : Nat) (e : Event) : (Machine.post s d e).tiles = s.tiles := rfl
@[simp] theorem post_stacks (s : State) (d : Nat) (e : Event) : (Machine.post s d e).stackSt = s.stackSt := rfl
@[simp] theorem post_reqs (s : State) (d : Nat) (e : Event) : (Machine.post s d e).reqs = s.reqs := rfl
@[simp] theorem post_io (s : State) (d : Nat) (e : Event) : (Machine.post s d e).io = s.io := rfl
@[simp] theorem post_pairs (s : State) (d : Nat) (e : Event) : (Machine.post s d e).pairs = s.pairs := rfl
@[simp] theorem post_absent (s : State) (d : Nat) (e : Event) : (Machine.post s d e).absent = s.absent := rfl
@[simp] theorem post_trace (s : State) (d : Nat) (e : Event) : (Machine.post s d e).trace = s.trace := rfl
@[simp] theorem post_acting (s : State) (d : Nat) (e : Event) : (Machine.post s d e).acting = s.acting := rfl

/-! ## follow -/

@[simp] theorem follow_now (s : State) (e : Event) : (Machine.follow s e).now = s.now := rfl
@[simp] theorem follow_agenda (s : State) (e : Event) : (Machine.follow s e).agenda = ⟨s.now, .local, 0, 0, .run e⟩ :: s.agenda := rfl
@[simp] theorem follow_cursor (s : State) (e : Event) : (Machine.follow s e).cursor = s.cursor := rfl
@[simp] theorem follow_cur (s : State) (e : Event) : (Machine.follow s e).cur = s.cur := rfl
@[simp] theorem follow_curWord (s : State) (e : Event) : (Machine.follow s e).curWord = s.curWord := rfl
@[simp] theorem follow_doing (s : State) (e : Event) : (Machine.follow s e).doing = s.doing := rfl
@[simp] theorem follow_delays (s : State) (e : Event) : (Machine.follow s e).delays = s.delays := rfl
@[simp] theorem follow_fresh (s : State) (e : Event) : (Machine.follow s e).fresh = s.fresh := rfl
@[simp] theorem follow_nextReq (s : State) (e : Event) : (Machine.follow s e).nextReq = s.nextReq := rfl
@[simp] theorem follow_nextSeq (s : State) (e : Event) : (Machine.follow s e).nextSeq = s.nextSeq := rfl
@[simp] theorem follow_mem (s : State) (e : Event) : (Machine.follow s e).mem = s.mem := rfl
@[simp] theorem follow_empty (s : State) (e : Event) : (Machine.follow s e).empty = s.empty := rfl
@[simp] theorem follow_poison (s : State) (e : Event) : (Machine.follow s e).poison = s.poison := rfl
@[simp] theorem follow_bitErrs (s : State) (e : Event) : (Machine.follow s e).bitErrs = s.bitErrs := rfl
@[simp] theorem follow_cores (s : State) (e : Event) : (Machine.follow s e).cores = s.cores := rfl
@[simp] theorem follow_tiles (s : State) (e : Event) : (Machine.follow s e).tiles = s.tiles := rfl
@[simp] theorem follow_stacks (s : State) (e : Event) : (Machine.follow s e).stackSt = s.stackSt := rfl
@[simp] theorem follow_reqs (s : State) (e : Event) : (Machine.follow s e).reqs = s.reqs := rfl
@[simp] theorem follow_io (s : State) (e : Event) : (Machine.follow s e).io = s.io := rfl
@[simp] theorem follow_pairs (s : State) (e : Event) : (Machine.follow s e).pairs = s.pairs := rfl
@[simp] theorem follow_absent (s : State) (e : Event) : (Machine.follow s e).absent = s.absent := rfl
@[simp] theorem follow_trace (s : State) (e : Event) : (Machine.follow s e).trace = s.trace := rfl
@[simp] theorem follow_acting (s : State) (e : Event) : (Machine.follow s e).acting = s.acting := rfl

/-! ## unpost -/

@[simp] theorem unpost_now (s : State) (e : Event) : (Machine.unpost s e).now = s.now := rfl
@[simp] theorem unpost_cursor (s : State) (e : Event) : (Machine.unpost s e).cursor = s.cursor := rfl
@[simp] theorem unpost_cur (s : State) (e : Event) : (Machine.unpost s e).cur = s.cur := rfl
@[simp] theorem unpost_curWord (s : State) (e : Event) : (Machine.unpost s e).curWord = s.curWord := rfl
@[simp] theorem unpost_doing (s : State) (e : Event) : (Machine.unpost s e).doing = s.doing := rfl
@[simp] theorem unpost_delays (s : State) (e : Event) : (Machine.unpost s e).delays = s.delays := rfl
@[simp] theorem unpost_fresh (s : State) (e : Event) : (Machine.unpost s e).fresh = s.fresh := rfl
@[simp] theorem unpost_nextReq (s : State) (e : Event) : (Machine.unpost s e).nextReq = s.nextReq := rfl
@[simp] theorem unpost_nextSeq (s : State) (e : Event) : (Machine.unpost s e).nextSeq = s.nextSeq := rfl
@[simp] theorem unpost_mem (s : State) (e : Event) : (Machine.unpost s e).mem = s.mem := rfl
@[simp] theorem unpost_empty (s : State) (e : Event) : (Machine.unpost s e).empty = s.empty := rfl
@[simp] theorem unpost_poison (s : State) (e : Event) : (Machine.unpost s e).poison = s.poison := rfl
@[simp] theorem unpost_bitErrs (s : State) (e : Event) : (Machine.unpost s e).bitErrs = s.bitErrs := rfl
@[simp] theorem unpost_cores (s : State) (e : Event) : (Machine.unpost s e).cores = s.cores := rfl
@[simp] theorem unpost_tiles (s : State) (e : Event) : (Machine.unpost s e).tiles = s.tiles := rfl
@[simp] theorem unpost_stacks (s : State) (e : Event) : (Machine.unpost s e).stackSt = s.stackSt := rfl
@[simp] theorem unpost_reqs (s : State) (e : Event) : (Machine.unpost s e).reqs = s.reqs := rfl
@[simp] theorem unpost_io (s : State) (e : Event) : (Machine.unpost s e).io = s.io := rfl
@[simp] theorem unpost_pairs (s : State) (e : Event) : (Machine.unpost s e).pairs = s.pairs := rfl
@[simp] theorem unpost_absent (s : State) (e : Event) : (Machine.unpost s e).absent = s.absent := rfl
@[simp] theorem unpost_trace (s : State) (e : Event) : (Machine.unpost s e).trace = s.trace := rfl
@[simp] theorem unpost_acting (s : State) (e : Event) : (Machine.unpost s e).acting = s.acting := rfl

/-! ## send -/

@[simp] theorem send_now (s : State) (c : Cls) (x y : Nat) (a : Act) : (Machine.send s c x y a).now = s.now := rfl
@[simp] theorem send_cursor (s : State) (c : Cls) (x y : Nat) (a : Act) : (Machine.send s c x y a).cursor = s.cursor := rfl
@[simp] theorem send_cur (s : State) (c : Cls) (x y : Nat) (a : Act) : (Machine.send s c x y a).cur = s.cur := rfl
@[simp] theorem send_curWord (s : State) (c : Cls) (x y : Nat) (a : Act) : (Machine.send s c x y a).curWord = s.curWord := rfl
@[simp] theorem send_doing (s : State) (c : Cls) (x y : Nat) (a : Act) : (Machine.send s c x y a).doing = s.doing := rfl
@[simp] theorem send_delays (s : State) (c : Cls) (x y : Nat) (a : Act) : (Machine.send s c x y a).delays = s.delays.tail := rfl
@[simp] theorem send_fresh (s : State) (c : Cls) (x y : Nat) (a : Act) : (Machine.send s c x y a).fresh = s.fresh := rfl
@[simp] theorem send_nextReq (s : State) (c : Cls) (x y : Nat) (a : Act) : (Machine.send s c x y a).nextReq = s.nextReq := rfl
@[simp] theorem send_nextSeq (s : State) (c : Cls) (x y : Nat) (a : Act) : (Machine.send s c x y a).nextSeq = s.nextSeq := rfl
@[simp] theorem send_mem (s : State) (c : Cls) (x y : Nat) (a : Act) : (Machine.send s c x y a).mem = s.mem := rfl
@[simp] theorem send_empty (s : State) (c : Cls) (x y : Nat) (a : Act) : (Machine.send s c x y a).empty = s.empty := rfl
@[simp] theorem send_poison (s : State) (c : Cls) (x y : Nat) (a : Act) : (Machine.send s c x y a).poison = s.poison := rfl
@[simp] theorem send_bitErrs (s : State) (c : Cls) (x y : Nat) (a : Act) : (Machine.send s c x y a).bitErrs = s.bitErrs := rfl
@[simp] theorem send_cores (s : State) (c : Cls) (x y : Nat) (a : Act) : (Machine.send s c x y a).cores = s.cores := rfl
@[simp] theorem send_tiles (s : State) (c : Cls) (x y : Nat) (a : Act) : (Machine.send s c x y a).tiles = s.tiles := rfl
@[simp] theorem send_stacks (s : State) (c : Cls) (x y : Nat) (a : Act) : (Machine.send s c x y a).stackSt = s.stackSt := rfl
@[simp] theorem send_reqs (s : State) (c : Cls) (x y : Nat) (a : Act) : (Machine.send s c x y a).reqs = s.reqs := rfl
@[simp] theorem send_io (s : State) (c : Cls) (x y : Nat) (a : Act) : (Machine.send s c x y a).io = s.io := rfl
@[simp] theorem send_pairs (s : State) (c : Cls) (x y : Nat) (a : Act) : (Machine.send s c x y a).pairs = s.pairs := rfl
@[simp] theorem send_absent (s : State) (c : Cls) (x y : Nat) (a : Act) : (Machine.send s c x y a).absent = s.absent := rfl
@[simp] theorem send_trace (s : State) (c : Cls) (x y : Nat) (a : Act) : (Machine.send s c x y a).trace = s.trace := rfl
@[simp] theorem send_acting (s : State) (c : Cls) (x y : Nat) (a : Act) : (Machine.send s c x y a).acting = s.acting := rfl

/-! ## setTState -/

@[simp] theorem setTState_now (s : State) (t : Thr) (n : Nat) : (Machine.setTState s t n).now = s.now := rfl
@[simp] theorem setTState_agenda (s : State) (t : Thr) (n : Nat) : (Machine.setTState s t n).agenda = s.agenda := rfl
@[simp] theorem setTState_cursor (s : State) (t : Thr) (n : Nat) : (Machine.setTState s t n).cursor = s.cursor := rfl
@[simp] theorem setTState_cur (s : State) (t : Thr) (n : Nat) : (Machine.setTState s t n).cur = s.cur := rfl
@[simp] theorem setTState_curWord (s : State) (t : Thr) (n : Nat) : (Machine.setTState s t n).curWord = s.curWord := rfl
@[simp] theorem setTState_doing (s : State) (t : Thr) (n : Nat) : (Machine.setTState s t n).doing = s.doing := rfl
@[simp] theorem setTState_delays (s : State) (t : Thr) (n : Nat) : (Machine.setTState s t n).delays = s.delays := rfl
@[simp] theorem setTState_fresh (s : State) (t : Thr) (n : Nat) : (Machine.setTState s t n).fresh = s.fresh := rfl
@[simp] theorem setTState_nextReq (s : State) (t : Thr) (n : Nat) : (Machine.setTState s t n).nextReq = s.nextReq := rfl
@[simp] theorem setTState_nextSeq (s : State) (t : Thr) (n : Nat) : (Machine.setTState s t n).nextSeq = s.nextSeq := rfl
@[simp] theorem setTState_empty (s : State) (t : Thr) (n : Nat) : (Machine.setTState s t n).empty = s.empty := rfl
@[simp] theorem setTState_cores (s : State) (t : Thr) (n : Nat) : (Machine.setTState s t n).cores = s.cores := rfl
@[simp] theorem setTState_tiles (s : State) (t : Thr) (n : Nat) : (Machine.setTState s t n).tiles = s.tiles := rfl
@[simp] theorem setTState_stacks (s : State) (t : Thr) (n : Nat) : (Machine.setTState s t n).stackSt = s.stackSt := rfl
@[simp] theorem setTState_reqs (s : State) (t : Thr) (n : Nat) : (Machine.setTState s t n).reqs = s.reqs := rfl
@[simp] theorem setTState_io (s : State) (t : Thr) (n : Nat) : (Machine.setTState s t n).io = s.io := rfl
@[simp] theorem setTState_pairs (s : State) (t : Thr) (n : Nat) : (Machine.setTState s t n).pairs = s.pairs := rfl
@[simp] theorem setTState_absent (s : State) (t : Thr) (n : Nat) : (Machine.setTState s t n).absent = s.absent := rfl
@[simp] theorem setTState_trace (s : State) (t : Thr) (n : Nat) : (Machine.setTState s t n).trace = s.trace := rfl
@[simp] theorem setTState_acting (s : State) (t : Thr) (n : Nat) : (Machine.setTState s t n).acting = s.acting := rfl

/-! ## setPc -/

@[simp] theorem setPc_now (s : State) (t : Thr) (n : Nat) : (Machine.setPc s t n).now = s.now := rfl
@[simp] theorem setPc_agenda (s : State) (t : Thr) (n : Nat) : (Machine.setPc s t n).agenda = s.agenda := rfl
@[simp] theorem setPc_cursor (s : State) (t : Thr) (n : Nat) : (Machine.setPc s t n).cursor = s.cursor := rfl
@[simp] theorem setPc_cur (s : State) (t : Thr) (n : Nat) : (Machine.setPc s t n).cur = s.cur := rfl
@[simp] theorem setPc_curWord (s : State) (t : Thr) (n : Nat) : (Machine.setPc s t n).curWord = s.curWord := rfl
@[simp] theorem setPc_doing (s : State) (t : Thr) (n : Nat) : (Machine.setPc s t n).doing = s.doing := rfl
@[simp] theorem setPc_delays (s : State) (t : Thr) (n : Nat) : (Machine.setPc s t n).delays = s.delays := rfl
@[simp] theorem setPc_fresh (s : State) (t : Thr) (n : Nat) : (Machine.setPc s t n).fresh = s.fresh := rfl
@[simp] theorem setPc_nextReq (s : State) (t : Thr) (n : Nat) : (Machine.setPc s t n).nextReq = s.nextReq := rfl
@[simp] theorem setPc_nextSeq (s : State) (t : Thr) (n : Nat) : (Machine.setPc s t n).nextSeq = s.nextSeq := rfl
@[simp] theorem setPc_empty (s : State) (t : Thr) (n : Nat) : (Machine.setPc s t n).empty = s.empty := rfl
@[simp] theorem setPc_cores (s : State) (t : Thr) (n : Nat) : (Machine.setPc s t n).cores = s.cores := rfl
@[simp] theorem setPc_tiles (s : State) (t : Thr) (n : Nat) : (Machine.setPc s t n).tiles = s.tiles := rfl
@[simp] theorem setPc_stacks (s : State) (t : Thr) (n : Nat) : (Machine.setPc s t n).stackSt = s.stackSt := rfl
@[simp] theorem setPc_reqs (s : State) (t : Thr) (n : Nat) : (Machine.setPc s t n).reqs = s.reqs := rfl
@[simp] theorem setPc_io (s : State) (t : Thr) (n : Nat) : (Machine.setPc s t n).io = s.io := rfl
@[simp] theorem setPc_pairs (s : State) (t : Thr) (n : Nat) : (Machine.setPc s t n).pairs = s.pairs := rfl
@[simp] theorem setPc_absent (s : State) (t : Thr) (n : Nat) : (Machine.setPc s t n).absent = s.absent := rfl
@[simp] theorem setPc_trace (s : State) (t : Thr) (n : Nat) : (Machine.setPc s t n).trace = s.trace := rfl
@[simp] theorem setPc_acting (s : State) (t : Thr) (n : Nat) : (Machine.setPc s t n).acting = s.acting := rfl

/-! ## setFinfo -/

@[simp] theorem setFinfo_now (s : State) (t : Thr) (n : Nat) (w : InsnWord) : (Machine.setFinfo s t n w).now = s.now := rfl
@[simp] theorem setFinfo_agenda (s : State) (t : Thr) (n : Nat) (w : InsnWord) : (Machine.setFinfo s t n w).agenda = s.agenda := rfl
@[simp] theorem setFinfo_cursor (s : State) (t : Thr) (n : Nat) (w : InsnWord) : (Machine.setFinfo s t n w).cursor = s.cursor := rfl
@[simp] theorem setFinfo_cur (s : State) (t : Thr) (n : Nat) (w : InsnWord) : (Machine.setFinfo s t n w).cur = s.cur := rfl
@[simp] theorem setFinfo_curWord (s : State) (t : Thr) (n : Nat) (w : InsnWord) : (Machine.setFinfo s t n w).curWord = s.curWord := rfl
@[simp] theorem setFinfo_doing (s : State) (t : Thr) (n : Nat) (w : InsnWord) : (Machine.setFinfo s t n w).doing = s.doing := rfl
@[simp] theorem setFinfo_delays (s : State) (t : Thr) (n : Nat) (w : InsnWord) : (Machine.setFinfo s t n w).delays = s.delays := rfl
@[simp] theorem setFinfo_fresh (s : State) (t : Thr) (n : Nat) (w : InsnWord) : (Machine.setFinfo s t n w).fresh = s.fresh := rfl
@[simp] theorem setFinfo_nextReq (s : State) (t : Thr) (n : Nat) (w : InsnWord) : (Machine.setFinfo s t n w).nextReq = s.nextReq := rfl
@[simp] theorem setFinfo_nextSeq (s : State) (t : Thr) (n : Nat) (w : InsnWord) : (Machine.setFinfo s t n w).nextSeq = s.nextSeq := rfl
@[simp] theorem setFinfo_empty (s : State) (t : Thr) (n : Nat) (w : InsnWord) : (Machine.setFinfo s t n w).empty = s.empty := rfl
@[simp] theorem setFinfo_cores (s : State) (t : Thr) (n : Nat) (w : InsnWord) : (Machine.setFinfo s t n w).cores = s.cores := rfl
@[simp] theorem setFinfo_tiles (s : State) (t : Thr) (n : Nat) (w : InsnWord) : (Machine.setFinfo s t n w).tiles = s.tiles := rfl
@[simp] theorem setFinfo_stacks (s : State) (t : Thr) (n : Nat) (w : InsnWord) : (Machine.setFinfo s t n w).stackSt = s.stackSt := rfl
@[simp] theorem setFinfo_reqs (s : State) (t : Thr) (n : Nat) (w : InsnWord) : (Machine.setFinfo s t n w).reqs = s.reqs := rfl
@[simp] theorem setFinfo_io (s : State) (t : Thr) (n : Nat) (w : InsnWord) : (Machine.setFinfo s t n w).io = s.io := rfl
@[simp] theorem setFinfo_pairs (s : State) (t : Thr) (n : Nat) (w : InsnWord) : (Machine.setFinfo s t n w).pairs = s.pairs := rfl
@[simp] theorem setFinfo_absent (s : State) (t : Thr) (n : Nat) (w : InsnWord) : (Machine.setFinfo s t n w).absent = s.absent := rfl
@[simp] theorem setFinfo_trace (s : State) (t : Thr) (n : Nat) (w : InsnWord) : (Machine.setFinfo s t n w).trace = s.trace := rfl
@[simp] theorem setFinfo_acting (s : State) (t : Thr) (n : Nat) (w : InsnWord) : (Machine.setFinfo s t n w).acting = s.acting := rfl

/-! ## modPair -/

@[simp] theorem modPair_now (s : State) (t : Thr) (f : PairSt → PairSt) : (Machine.modPair s t f).now = s.now := rfl
@[simp] theorem modPair_agenda (s : State) (t : Thr) (f : PairSt → PairSt) : (Machine.modPair s t f).agenda = s.agenda := rfl
@[simp] theorem modPair_cursor (s : State) (t : Thr) (f : PairSt → PairSt) : (Machine.modPair s t f).cursor = s.cursor := rfl
@[simp] theorem modPair_cur (s : State) (t : Thr) (f : PairSt → PairSt) : (Machine.modPair s t f).cur = s.cur := rfl
@[simp] theorem modPair_curWord (s : State) (t : Thr) (f : PairSt → PairSt) : (Machine.modPair s t f).curWord = s.curWord := rfl
@[simp] theorem modPair_doing (s : State) (t : Thr) (f : PairSt → PairSt) : (Machine.modPair s t f).doing = s.doing := rfl
@[simp] theorem modPair_delays (s : State) (t : Thr) (f : PairSt → PairSt) : (Machine.modPair s t f).delays = s.delays := rfl
@[simp] theorem modPair_fresh (s : State) (t : Thr) (f : PairSt → PairSt) : (Machine.modPair s t f).fresh = s.fresh := rfl
@[simp] theorem modPair_nextReq (s : State) (t : Thr) (f : PairSt → PairSt) : (Machine.modPair s t f).nextReq = s.nextReq := rfl
@[simp] theorem modPair_nextSeq (s : State) (t : Thr) (f : PairSt → PairSt) : (Machine.modPair s t f).nextSeq = s.nextSeq := rfl
@[simp] theorem modPair_mem (s : State) (t : Thr) (f : PairSt → PairSt) : (Machine.modPair s t f).mem = s.mem := rfl
@[simp] theorem modPair_empty (s : State) (t : Thr) (f : PairSt → PairSt) : (Machine.modPair s t f).empty = s.empty := rfl
@[simp] theorem modPair_poison (s : State) (t : Thr) (f : PairSt → PairSt) : (Machine.modPair s t f).poison = s.poison := rfl
@[simp] theorem modPair_bitErrs (s : State) (t : Thr) (f : PairSt → PairSt) : (Machine.modPair s t f).bitErrs = s.bitErrs := rfl
@[simp] theorem modPair_cores (s : State) (t : Thr) (f : PairSt → PairSt) : (Machine.modPair s t f).cores = s.cores := rfl
@[simp] theorem modPair_tiles (s : State) (t : Thr) (f : PairSt → PairSt) : (Machine.modPair s t f).tiles = s.tiles := rfl
@[simp] theorem modPair_stacks (s : State) (t : Thr) (f : PairSt → PairSt) : (Machine.modPair s t f).stackSt = s.stackSt := rfl
@[simp] theorem modPair_reqs (s : State) (t : Thr) (f : PairSt → PairSt) : (Machine.modPair s t f).reqs = s.reqs := rfl
@[simp] theorem modPair_io (s : State) (t : Thr) (f : PairSt → PairSt) : (Machine.modPair s t f).io = s.io := rfl
@[simp] theorem modPair_absent (s : State) (t : Thr) (f : PairSt → PairSt) : (Machine.modPair s t f).absent = s.absent := rfl
@[simp] theorem modPair_trace (s : State) (t : Thr) (f : PairSt → PairSt) : (Machine.modPair s t f).trace = s.trace := rfl
@[simp] theorem modPair_acting (s : State) (t : Thr) (f : PairSt → PairSt) : (Machine.modPair s t f).acting = s.acting := rfl

/-! ## modPart -/

@[simp] theorem modPart_now (s : State) (k : Nat) (f : PartSt → PartSt) : (Machine.modPart s k f).now = s.now := rfl
@[simp] theorem modPart_agenda (s : State) (k : Nat) (f : PartSt → PartSt) : (Machine.modPart s k f).agenda = s.agenda := rfl
@[simp] theorem modPart_cursor (s : State) (k : Nat) (f : PartSt → PartSt) : (Machine.modPart s k f).cursor = s.cursor := rfl
@[simp] theorem modPart_cur (s : State) (k : Nat) (f : PartSt → PartSt) : (Machine.modPart s k f).cur = s.cur := rfl
@[simp] theorem modPart_curWord (s : State) (k : Nat) (f : PartSt → PartSt) : (Machine.modPart s k f).curWord = s.curWord := rfl
@[simp] theorem modPart_doing (s : State) (k : Nat) (f : PartSt → PartSt) : (Machine.modPart s k f).doing = s.doing := rfl
@[simp] theorem modPart_delays (s : State) (k : Nat) (f : PartSt → PartSt) : (Machine.modPart s k f).delays = s.delays := rfl
@[simp] theorem modPart_fresh (s : State) (k : Nat) (f : PartSt → PartSt) : (Machine.modPart s k f).fresh = s.fresh := rfl
@[simp] theorem modPart_nextReq (s : State) (k : Nat) (f : PartSt → PartSt) : (Machine.modPart s k f).nextReq = s.nextReq := rfl
@[simp] theorem modPart_nextSeq (s : State) (k : Nat) (f : PartSt → PartSt) : (Machine.modPart s k f).nextSeq = s.nextSeq := rfl
@[simp] theorem modPart_mem (s : State) (k : Nat) (f : PartSt → PartSt) : (Machine.modPart s k f).mem = s.mem := rfl
@[simp] theorem modPart_empty (s : State) (k : Nat) (f : PartSt → PartSt) : (Machine.modPart s k f).empty = s.empty := rfl
@[simp] theorem modPart_poison (s : State) (k : Nat) (f : PartSt → PartSt) : (Machine.modPart s k f).poison = s.poison := rfl
@[simp] theorem modPart_bitErrs (s : State) (k : Nat) (f : PartSt → PartSt) : (Machine.modPart s k f).bitErrs = s.bitErrs := rfl
@[simp] theorem modPart_cores (s : State) (k : Nat) (f : PartSt → PartSt) : (Machine.modPart s k f).cores = s.cores := rfl
@[simp] theorem modPart_tiles (s : State) (k : Nat) (f : PartSt → PartSt) : (Machine.modPart s k f).tiles = s.tiles := rfl
@[simp] theorem modPart_stacks (s : State) (k : Nat) (f : PartSt → PartSt) : (Machine.modPart s k f).stackSt = s.stackSt := rfl
@[simp] theorem modPart_reqs (s : State) (k : Nat) (f : PartSt → PartSt) : (Machine.modPart s k f).reqs = s.reqs := rfl
@[simp] theorem modPart_pairs (s : State) (k : Nat) (f : PartSt → PartSt) : (Machine.modPart s k f).pairs = s.pairs := rfl
@[simp] theorem modPart_absent (s : State) (k : Nat) (f : PartSt → PartSt) : (Machine.modPart s k f).absent = s.absent := rfl
@[simp] theorem modPart_trace (s : State) (k : Nat) (f : PartSt → PartSt) : (Machine.modPart s k f).trace = s.trace := rfl
@[simp] theorem modPart_acting (s : State) (k : Nat) (f : PartSt → PartSt) : (Machine.modPart s k f).acting = s.acting := rfl

/-! ## modLaunch -/

@[simp] theorem modLaunch_now (s : State) (k : Nat) (f : LaunchSt → LaunchSt) : (Machine.modLaunch s k f).now = s.now := rfl
@[simp] theorem modLaunch_agenda (s : State) (k : Nat) (f : LaunchSt → LaunchSt) : (Machine.modLaunch s k f).agenda = s.agenda := rfl
@[simp] theorem modLaunch_cursor (s : State) (k : Nat) (f : LaunchSt → LaunchSt) : (Machine.modLaunch s k f).cursor = s.cursor := rfl
@[simp] theorem modLaunch_cur (s : State) (k : Nat) (f : LaunchSt → LaunchSt) : (Machine.modLaunch s k f).cur = s.cur := rfl
@[simp] theorem modLaunch_curWord (s : State) (k : Nat) (f : LaunchSt → LaunchSt) : (Machine.modLaunch s k f).curWord = s.curWord := rfl
@[simp] theorem modLaunch_doing (s : State) (k : Nat) (f : LaunchSt → LaunchSt) : (Machine.modLaunch s k f).doing = s.doing := rfl
@[simp] theorem modLaunch_delays (s : State) (k : Nat) (f : LaunchSt → LaunchSt) : (Machine.modLaunch s k f).delays = s.delays := rfl
@[simp] theorem modLaunch_fresh (s : State) (k : Nat) (f : LaunchSt → LaunchSt) : (Machine.modLaunch s k f).fresh = s.fresh := rfl
@[simp] theorem modLaunch_nextReq (s : State) (k : Nat) (f : LaunchSt → LaunchSt) : (Machine.modLaunch s k f).nextReq = s.nextReq := rfl
@[simp] theorem modLaunch_nextSeq (s : State) (k : Nat) (f : LaunchSt → LaunchSt) : (Machine.modLaunch s k f).nextSeq = s.nextSeq := rfl
@[simp] theorem modLaunch_mem (s : State) (k : Nat) (f : LaunchSt → LaunchSt) : (Machine.modLaunch s k f).mem = s.mem := rfl
@[simp] theorem modLaunch_empty (s : State) (k : Nat) (f : LaunchSt → LaunchSt) : (Machine.modLaunch s k f).empty = s.empty := rfl
@[simp] theorem modLaunch_poison (s : State) (k : Nat) (f : LaunchSt → LaunchSt) : (Machine.modLaunch s k f).poison = s.poison := rfl
@[simp] theorem modLaunch_bitErrs (s : State) (k : Nat) (f : LaunchSt → LaunchSt) : (Machine.modLaunch s k f).bitErrs = s.bitErrs := rfl
@[simp] theorem modLaunch_cores (s : State) (k : Nat) (f : LaunchSt → LaunchSt) : (Machine.modLaunch s k f).cores = s.cores := rfl
@[simp] theorem modLaunch_tiles (s : State) (k : Nat) (f : LaunchSt → LaunchSt) : (Machine.modLaunch s k f).tiles = s.tiles := rfl
@[simp] theorem modLaunch_stacks (s : State) (k : Nat) (f : LaunchSt → LaunchSt) : (Machine.modLaunch s k f).stackSt = s.stackSt := rfl
@[simp] theorem modLaunch_reqs (s : State) (k : Nat) (f : LaunchSt → LaunchSt) : (Machine.modLaunch s k f).reqs = s.reqs := rfl
@[simp] theorem modLaunch_pairs (s : State) (k : Nat) (f : LaunchSt → LaunchSt) : (Machine.modLaunch s k f).pairs = s.pairs := rfl
@[simp] theorem modLaunch_absent (s : State) (k : Nat) (f : LaunchSt → LaunchSt) : (Machine.modLaunch s k f).absent = s.absent := rfl
@[simp] theorem modLaunch_trace (s : State) (k : Nat) (f : LaunchSt → LaunchSt) : (Machine.modLaunch s k f).trace = s.trace := rfl
@[simp] theorem modLaunch_acting (s : State) (k : Nat) (f : LaunchSt → LaunchSt) : (Machine.modLaunch s k f).acting = s.acting := rfl

/-! ## dropReq -/

@[simp] theorem dropReq_now (s : State) (k : Nat) : (Machine.dropReq s k).now = s.now := rfl
@[simp] theorem dropReq_agenda (s : State) (k : Nat) : (Machine.dropReq s k).agenda = s.agenda := rfl
@[simp] theorem dropReq_cursor (s : State) (k : Nat) : (Machine.dropReq s k).cursor = s.cursor := rfl
@[simp] theorem dropReq_cur (s : State) (k : Nat) : (Machine.dropReq s k).cur = s.cur := rfl
@[simp] theorem dropReq_curWord (s : State) (k : Nat) : (Machine.dropReq s k).curWord = s.curWord := rfl
@[simp] theorem dropReq_doing (s : State) (k : Nat) : (Machine.dropReq s k).doing = s.doing := rfl
@[simp] theorem dropReq_delays (s : State) (k : Nat) : (Machine.dropReq s k).delays = s.delays := rfl
@[simp] theorem dropReq_fresh (s : State) (k : Nat) : (Machine.dropReq s k).fresh = s.fresh := rfl
@[simp] theorem dropReq_nextReq (s : State) (k : Nat) : (Machine.dropReq s k).nextReq = s.nextReq := rfl
@[simp] theorem dropReq_nextSeq (s : State) (k : Nat) : (Machine.dropReq s k).nextSeq = s.nextSeq := rfl
@[simp] theorem dropReq_mem (s : State) (k : Nat) : (Machine.dropReq s k).mem = s.mem := rfl
@[simp] theorem dropReq_empty (s : State) (k : Nat) : (Machine.dropReq s k).empty = s.empty := rfl
@[simp] theorem dropReq_poison (s : State) (k : Nat) : (Machine.dropReq s k).poison = s.poison := rfl
@[simp] theorem dropReq_bitErrs (s : State) (k : Nat) : (Machine.dropReq s k).bitErrs = s.bitErrs := rfl
@[simp] theorem dropReq_cores (s : State) (k : Nat) : (Machine.dropReq s k).cores = s.cores := rfl
@[simp] theorem dropReq_tiles (s : State) (k : Nat) : (Machine.dropReq s k).tiles = s.tiles := rfl
@[simp] theorem dropReq_stacks (s : State) (k : Nat) : (Machine.dropReq s k).stackSt = s.stackSt := rfl
@[simp] theorem dropReq_reqs (s : State) (k : Nat) : (Machine.dropReq s k).reqs = s.reqs.filter fun r => r.id ≠ k := rfl
@[simp] theorem dropReq_io (s : State) (k : Nat) : (Machine.dropReq s k).io = s.io := rfl
@[simp] theorem dropReq_pairs (s : State) (k : Nat) : (Machine.dropReq s k).pairs = s.pairs := rfl
@[simp] theorem dropReq_absent (s : State) (k : Nat) : (Machine.dropReq s k).absent = s.absent := rfl
@[simp] theorem dropReq_trace (s : State) (k : Nat) : (Machine.dropReq s k).trace = s.trace := rfl
@[simp] theorem dropReq_acting (s : State) (k : Nat) : (Machine.dropReq s k).acting = s.acting := rfl

/-! ## modReq -/

@[simp] theorem modReq_now (s : State) (k : Nat) (f : Req → Req) : (Machine.modReq s k f).now = s.now := rfl
@[simp] theorem modReq_agenda (s : State) (k : Nat) (f : Req → Req) : (Machine.modReq s k f).agenda = s.agenda := rfl
@[simp] theorem modReq_cursor (s : State) (k : Nat) (f : Req → Req) : (Machine.modReq s k f).cursor = s.cursor := rfl
@[simp] theorem modReq_cur (s : State) (k : Nat) (f : Req → Req) : (Machine.modReq s k f).cur = s.cur := rfl
@[simp] theorem modReq_curWord (s : State) (k : Nat) (f : Req → Req) : (Machine.modReq s k f).curWord = s.curWord := rfl
@[simp] theorem modReq_doing (s : State) (k : Nat) (f : Req → Req) : (Machine.modReq s k f).doing = s.doing := rfl
@[simp] theorem modReq_delays (s : State) (k : Nat) (f : Req → Req) : (Machine.modReq s k f).delays = s.delays := rfl
@[simp] theorem modReq_fresh (s : State) (k : Nat) (f : Req → Req) : (Machine.modReq s k f).fresh = s.fresh := rfl
@[simp] theorem modReq_nextReq (s : State) (k : Nat) (f : Req → Req) : (Machine.modReq s k f).nextReq = s.nextReq := rfl
@[simp] theorem modReq_nextSeq (s : State) (k : Nat) (f : Req → Req) : (Machine.modReq s k f).nextSeq = s.nextSeq := rfl
@[simp] theorem modReq_mem (s : State) (k : Nat) (f : Req → Req) : (Machine.modReq s k f).mem = s.mem := rfl
@[simp] theorem modReq_empty (s : State) (k : Nat) (f : Req → Req) : (Machine.modReq s k f).empty = s.empty := rfl
@[simp] theorem modReq_poison (s : State) (k : Nat) (f : Req → Req) : (Machine.modReq s k f).poison = s.poison := rfl
@[simp] theorem modReq_bitErrs (s : State) (k : Nat) (f : Req → Req) : (Machine.modReq s k f).bitErrs = s.bitErrs := rfl
@[simp] theorem modReq_cores (s : State) (k : Nat) (f : Req → Req) : (Machine.modReq s k f).cores = s.cores := rfl
@[simp] theorem modReq_tiles (s : State) (k : Nat) (f : Req → Req) : (Machine.modReq s k f).tiles = s.tiles := rfl
@[simp] theorem modReq_stacks (s : State) (k : Nat) (f : Req → Req) : (Machine.modReq s k f).stackSt = s.stackSt := rfl
@[simp] theorem modReq_reqs (s : State) (k : Nat) (f : Req → Req) : (Machine.modReq s k f).reqs = s.reqs.map fun r => if r.id = k then f r else r := rfl
@[simp] theorem modReq_io (s : State) (k : Nat) (f : Req → Req) : (Machine.modReq s k f).io = s.io := rfl
@[simp] theorem modReq_pairs (s : State) (k : Nat) (f : Req → Req) : (Machine.modReq s k f).pairs = s.pairs := rfl
@[simp] theorem modReq_absent (s : State) (k : Nat) (f : Req → Req) : (Machine.modReq s k f).absent = s.absent := rfl
@[simp] theorem modReq_trace (s : State) (k : Nat) (f : Req → Req) : (Machine.modReq s k f).trace = s.trace := rfl
@[simp] theorem modReq_acting (s : State) (k : Nat) (f : Req → Req) : (Machine.modReq s k f).acting = s.acting := rfl

/-! ## addReq -/

@[simp] theorem addReq_now (s : State) (r : Req) : (Machine.addReq s r).now = s.now := rfl
@[simp] theorem addReq_agenda (s : State) (r : Req) : (Machine.addReq s r).agenda = s.agenda := rfl
@[simp] theorem addReq_cursor (s : State) (r : Req) : (Machine.addReq s r).cursor = s.cursor := rfl
@[simp] theorem addReq_cur (s : State) (r : Req) : (Machine.addReq s r).cur = s.cur := rfl
@[simp] theorem addReq_curWord (s : State) (r : Req) : (Machine.addReq s r).curWord = s.curWord := rfl
@[simp] theorem addReq_doing (s : State) (r : Req) : (Machine.addReq s r).doing = s.doing := rfl
@[simp] theorem addReq_delays (s : State) (r : Req) : (Machine.addReq s r).delays = s.delays := rfl
@[simp] theorem addReq_fresh (s : State) (r : Req) : (Machine.addReq s r).fresh = s.fresh := rfl
@[simp] theorem addReq_nextReq (s : State) (r : Req) : (Machine.addReq s r).nextReq = s.nextReq + 1 := rfl
@[simp] theorem addReq_nextSeq (s : State) (r : Req) : (Machine.addReq s r).nextSeq = s.nextSeq := rfl
@[simp] theorem addReq_mem (s : State) (r : Req) : (Machine.addReq s r).mem = s.mem := rfl
@[simp] theorem addReq_empty (s : State) (r : Req) : (Machine.addReq s r).empty = s.empty := rfl
@[simp] theorem addReq_poison (s : State) (r : Req) : (Machine.addReq s r).poison = s.poison := rfl
@[simp] theorem addReq_bitErrs (s : State) (r : Req) : (Machine.addReq s r).bitErrs = s.bitErrs := rfl
@[simp] theorem addReq_cores (s : State) (r : Req) : (Machine.addReq s r).cores = s.cores := rfl
@[simp] theorem addReq_tiles (s : State) (r : Req) : (Machine.addReq s r).tiles = s.tiles := rfl
@[simp] theorem addReq_stacks (s : State) (r : Req) : (Machine.addReq s r).stackSt = s.stackSt := rfl
@[simp] theorem addReq_reqs (s : State) (r : Req) : (Machine.addReq s r).reqs = s.reqs ++ [{ r with id := s.nextReq }] := rfl
@[simp] theorem addReq_io (s : State) (r : Req) : (Machine.addReq s r).io = s.io := rfl
@[simp] theorem addReq_pairs (s : State) (r : Req) : (Machine.addReq s r).pairs = s.pairs := rfl
@[simp] theorem addReq_absent (s : State) (r : Req) : (Machine.addReq s r).absent = s.absent := rfl
@[simp] theorem addReq_trace (s : State) (r : Req) : (Machine.addReq s r).trace = s.trace := rfl
@[simp] theorem addReq_acting (s : State) (r : Req) : (Machine.addReq s r).acting = s.acting := rfl

/-! ## park -/

@[simp] theorem park_now (s : State) (t : Thr) (k c : Nat) (d : Word) : (Machine.park s t k c d).now = s.now := rfl
@[simp] theorem park_agenda (s : State) (t : Thr) (k c : Nat) (d : Word) : (Machine.park s t k c d).agenda = s.agenda := rfl
@[simp] theorem park_cursor (s : State) (t : Thr) (k c : Nat) (d : Word) : (Machine.park s t k c d).cursor = s.cursor := rfl
@[simp] theorem park_cur (s : State) (t : Thr) (k c : Nat) (d : Word) : (Machine.park s t k c d).cur = s.cur := rfl
@[simp] theorem park_curWord (s : State) (t : Thr) (k c : Nat) (d : Word) : (Machine.park s t k c d).curWord = s.curWord := rfl
@[simp] theorem park_doing (s : State) (t : Thr) (k c : Nat) (d : Word) : (Machine.park s t k c d).doing = s.doing := rfl
@[simp] theorem park_delays (s : State) (t : Thr) (k c : Nat) (d : Word) : (Machine.park s t k c d).delays = s.delays := rfl
@[simp] theorem park_fresh (s : State) (t : Thr) (k c : Nat) (d : Word) : (Machine.park s t k c d).fresh = s.fresh := rfl
@[simp] theorem park_nextReq (s : State) (t : Thr) (k c : Nat) (d : Word) : (Machine.park s t k c d).nextReq = s.nextReq := rfl
@[simp] theorem park_nextSeq (s : State) (t : Thr) (k c : Nat) (d : Word) : (Machine.park s t k c d).nextSeq = s.nextSeq := rfl
@[simp] theorem park_empty (s : State) (t : Thr) (k c : Nat) (d : Word) : (Machine.park s t k c d).empty = s.empty := rfl
@[simp] theorem park_tiles (s : State) (t : Thr) (k c : Nat) (d : Word) : (Machine.park s t k c d).tiles = s.tiles := rfl
@[simp] theorem park_stacks (s : State) (t : Thr) (k c : Nat) (d : Word) : (Machine.park s t k c d).stackSt = s.stackSt := rfl
@[simp] theorem park_reqs (s : State) (t : Thr) (k c : Nat) (d : Word) : (Machine.park s t k c d).reqs = s.reqs := rfl
@[simp] theorem park_io (s : State) (t : Thr) (k c : Nat) (d : Word) : (Machine.park s t k c d).io = s.io := rfl
@[simp] theorem park_pairs (s : State) (t : Thr) (k c : Nat) (d : Word) : (Machine.park s t k c d).pairs = s.pairs := rfl
@[simp] theorem park_absent (s : State) (t : Thr) (k c : Nat) (d : Word) : (Machine.park s t k c d).absent = s.absent := rfl
@[simp] theorem park_trace (s : State) (t : Thr) (k c : Nat) (d : Word) : (Machine.park s t k c d).trace = s.trace := rfl
@[simp] theorem park_acting (s : State) (t : Thr) (k c : Nat) (d : Word) : (Machine.park s t k c d).acting = s.acting := rfl

/-! ## unpark -/

@[simp] theorem unpark_now (s : State) (t : Thr) : (Machine.unpark s t).now = s.now := rfl
@[simp] theorem unpark_agenda (s : State) (t : Thr) : (Machine.unpark s t).agenda = s.agenda := rfl
@[simp] theorem unpark_cursor (s : State) (t : Thr) : (Machine.unpark s t).cursor = s.cursor := rfl
@[simp] theorem unpark_cur (s : State) (t : Thr) : (Machine.unpark s t).cur = s.cur := rfl
@[simp] theorem unpark_curWord (s : State) (t : Thr) : (Machine.unpark s t).curWord = s.curWord := rfl
@[simp] theorem unpark_doing (s : State) (t : Thr) : (Machine.unpark s t).doing = s.doing := rfl
@[simp] theorem unpark_delays (s : State) (t : Thr) : (Machine.unpark s t).delays = s.delays := rfl
@[simp] theorem unpark_fresh (s : State) (t : Thr) : (Machine.unpark s t).fresh = s.fresh := rfl
@[simp] theorem unpark_nextReq (s : State) (t : Thr) : (Machine.unpark s t).nextReq = s.nextReq := rfl
@[simp] theorem unpark_nextSeq (s : State) (t : Thr) : (Machine.unpark s t).nextSeq = s.nextSeq := rfl
@[simp] theorem unpark_empty (s : State) (t : Thr) : (Machine.unpark s t).empty = s.empty := rfl
@[simp] theorem unpark_cores (s : State) (t : Thr) : (Machine.unpark s t).cores = s.cores := rfl
@[simp] theorem unpark_tiles (s : State) (t : Thr) : (Machine.unpark s t).tiles = s.tiles := rfl
@[simp] theorem unpark_stacks (s : State) (t : Thr) : (Machine.unpark s t).stackSt = s.stackSt := rfl
@[simp] theorem unpark_reqs (s : State) (t : Thr) : (Machine.unpark s t).reqs = s.reqs := rfl
@[simp] theorem unpark_io (s : State) (t : Thr) : (Machine.unpark s t).io = s.io := rfl
@[simp] theorem unpark_pairs (s : State) (t : Thr) : (Machine.unpark s t).pairs = s.pairs := rfl
@[simp] theorem unpark_absent (s : State) (t : Thr) : (Machine.unpark s t).absent = s.absent := rfl
@[simp] theorem unpark_trace (s : State) (t : Thr) : (Machine.unpark s t).trace = s.trace := rfl
@[simp] theorem unpark_acting (s : State) (t : Thr) : (Machine.unpark s t).acting = s.acting := rfl

/-! ## setS -/

@[simp] theorem setS_now (s : State) (t : Thr) (n : SReg) (x : Word) : (Machine.setS s t n x).now = s.now := by
  unfold Machine.setS; split <;> rfl
@[simp] theorem setS_agenda (s : State) (t : Thr) (n : SReg) (x : Word) : (Machine.setS s t n x).agenda = s.agenda := by
  unfold Machine.setS; split <;> rfl
@[simp] theorem setS_cursor (s : State) (t : Thr) (n : SReg) (x : Word) : (Machine.setS s t n x).cursor = s.cursor := by
  unfold Machine.setS; split <;> rfl
@[simp] theorem setS_cur (s : State) (t : Thr) (n : SReg) (x : Word) : (Machine.setS s t n x).cur = s.cur := by
  unfold Machine.setS; split <;> rfl
@[simp] theorem setS_curWord (s : State) (t : Thr) (n : SReg) (x : Word) : (Machine.setS s t n x).curWord = s.curWord := by
  unfold Machine.setS; split <;> rfl
@[simp] theorem setS_doing (s : State) (t : Thr) (n : SReg) (x : Word) : (Machine.setS s t n x).doing = s.doing := by
  unfold Machine.setS; split <;> rfl
@[simp] theorem setS_delays (s : State) (t : Thr) (n : SReg) (x : Word) : (Machine.setS s t n x).delays = s.delays := by
  unfold Machine.setS; split <;> rfl
@[simp] theorem setS_fresh (s : State) (t : Thr) (n : SReg) (x : Word) : (Machine.setS s t n x).fresh = s.fresh := by
  unfold Machine.setS; split <;> rfl
@[simp] theorem setS_nextReq (s : State) (t : Thr) (n : SReg) (x : Word) : (Machine.setS s t n x).nextReq = s.nextReq := by
  unfold Machine.setS; split <;> rfl
@[simp] theorem setS_nextSeq (s : State) (t : Thr) (n : SReg) (x : Word) : (Machine.setS s t n x).nextSeq = s.nextSeq := by
  unfold Machine.setS; split <;> rfl
@[simp] theorem setS_empty (s : State) (t : Thr) (n : SReg) (x : Word) : (Machine.setS s t n x).empty = s.empty := by
  unfold Machine.setS; split <;> rfl
@[simp] theorem setS_cores (s : State) (t : Thr) (n : SReg) (x : Word) : (Machine.setS s t n x).cores = s.cores := by
  unfold Machine.setS; split <;> rfl
@[simp] theorem setS_tiles (s : State) (t : Thr) (n : SReg) (x : Word) : (Machine.setS s t n x).tiles = s.tiles := by
  unfold Machine.setS; split <;> rfl
@[simp] theorem setS_stacks (s : State) (t : Thr) (n : SReg) (x : Word) : (Machine.setS s t n x).stackSt = s.stackSt := by
  unfold Machine.setS; split <;> rfl
@[simp] theorem setS_reqs (s : State) (t : Thr) (n : SReg) (x : Word) : (Machine.setS s t n x).reqs = s.reqs := by
  unfold Machine.setS; split <;> rfl
@[simp] theorem setS_io (s : State) (t : Thr) (n : SReg) (x : Word) : (Machine.setS s t n x).io = s.io := by
  unfold Machine.setS; split <;> rfl
@[simp] theorem setS_pairs (s : State) (t : Thr) (n : SReg) (x : Word) : (Machine.setS s t n x).pairs = s.pairs := by
  unfold Machine.setS; split <;> rfl
@[simp] theorem setS_absent (s : State) (t : Thr) (n : SReg) (x : Word) : (Machine.setS s t n x).absent = s.absent := by
  unfold Machine.setS; split <;> rfl
@[simp] theorem setS_trace (s : State) (t : Thr) (n : SReg) (x : Word) : (Machine.setS s t n x).trace = s.trace := by
  unfold Machine.setS; split <;> rfl
@[simp] theorem setS_acting (s : State) (t : Thr) (n : SReg) (x : Word) : (Machine.setS s t n x).acting = s.acting := by
  unfold Machine.setS; split <;> rfl

/-! ## setP -/

@[simp] theorem setP_now (s : State) (t : Thr) (n : PReg) (x : Pred) : (Machine.setP s t n x).now = s.now := by
  unfold Machine.setP; split <;> rfl
@[simp] theorem setP_agenda (s : State) (t : Thr) (n : PReg) (x : Pred) : (Machine.setP s t n x).agenda = s.agenda := by
  unfold Machine.setP; split <;> rfl
@[simp] theorem setP_cursor (s : State) (t : Thr) (n : PReg) (x : Pred) : (Machine.setP s t n x).cursor = s.cursor := by
  unfold Machine.setP; split <;> rfl
@[simp] theorem setP_cur (s : State) (t : Thr) (n : PReg) (x : Pred) : (Machine.setP s t n x).cur = s.cur := by
  unfold Machine.setP; split <;> rfl
@[simp] theorem setP_curWord (s : State) (t : Thr) (n : PReg) (x : Pred) : (Machine.setP s t n x).curWord = s.curWord := by
  unfold Machine.setP; split <;> rfl
@[simp] theorem setP_doing (s : State) (t : Thr) (n : PReg) (x : Pred) : (Machine.setP s t n x).doing = s.doing := by
  unfold Machine.setP; split <;> rfl
@[simp] theorem setP_delays (s : State) (t : Thr) (n : PReg) (x : Pred) : (Machine.setP s t n x).delays = s.delays := by
  unfold Machine.setP; split <;> rfl
@[simp] theorem setP_fresh (s : State) (t : Thr) (n : PReg) (x : Pred) : (Machine.setP s t n x).fresh = s.fresh := by
  unfold Machine.setP; split <;> rfl
@[simp] theorem setP_nextReq (s : State) (t : Thr) (n : PReg) (x : Pred) : (Machine.setP s t n x).nextReq = s.nextReq := by
  unfold Machine.setP; split <;> rfl
@[simp] theorem setP_nextSeq (s : State) (t : Thr) (n : PReg) (x : Pred) : (Machine.setP s t n x).nextSeq = s.nextSeq := by
  unfold Machine.setP; split <;> rfl
@[simp] theorem setP_empty (s : State) (t : Thr) (n : PReg) (x : Pred) : (Machine.setP s t n x).empty = s.empty := by
  unfold Machine.setP; split <;> rfl
@[simp] theorem setP_cores (s : State) (t : Thr) (n : PReg) (x : Pred) : (Machine.setP s t n x).cores = s.cores := by
  unfold Machine.setP; split <;> rfl
@[simp] theorem setP_tiles (s : State) (t : Thr) (n : PReg) (x : Pred) : (Machine.setP s t n x).tiles = s.tiles := by
  unfold Machine.setP; split <;> rfl
@[simp] theorem setP_stacks (s : State) (t : Thr) (n : PReg) (x : Pred) : (Machine.setP s t n x).stackSt = s.stackSt := by
  unfold Machine.setP; split <;> rfl
@[simp] theorem setP_reqs (s : State) (t : Thr) (n : PReg) (x : Pred) : (Machine.setP s t n x).reqs = s.reqs := by
  unfold Machine.setP; split <;> rfl
@[simp] theorem setP_io (s : State) (t : Thr) (n : PReg) (x : Pred) : (Machine.setP s t n x).io = s.io := by
  unfold Machine.setP; split <;> rfl
@[simp] theorem setP_pairs (s : State) (t : Thr) (n : PReg) (x : Pred) : (Machine.setP s t n x).pairs = s.pairs := by
  unfold Machine.setP; split <;> rfl
@[simp] theorem setP_absent (s : State) (t : Thr) (n : PReg) (x : Pred) : (Machine.setP s t n x).absent = s.absent := by
  unfold Machine.setP; split <;> rfl
@[simp] theorem setP_trace (s : State) (t : Thr) (n : PReg) (x : Pred) : (Machine.setP s t n x).trace = s.trace := by
  unfold Machine.setP; split <;> rfl
@[simp] theorem setP_acting (s : State) (t : Thr) (n : PReg) (x : Pred) : (Machine.setP s t n x).acting = s.acting := by
  unfold Machine.setP; split <;> rfl

/-! ## raise -/

@[simp] theorem raise_now (s : State) (t : Thr) (f : Word) : (Machine.raise s t f).now = s.now := by
  unfold Machine.raise; split <;> rfl
@[simp] theorem raise_agenda (s : State) (t : Thr) (f : Word) : (Machine.raise s t f).agenda = s.agenda := by
  unfold Machine.raise; split <;> rfl
@[simp] theorem raise_cursor (s : State) (t : Thr) (f : Word) : (Machine.raise s t f).cursor = s.cursor := by
  unfold Machine.raise; split <;> rfl
@[simp] theorem raise_cur (s : State) (t : Thr) (f : Word) : (Machine.raise s t f).cur = s.cur := by
  unfold Machine.raise; split <;> rfl
@[simp] theorem raise_curWord (s : State) (t : Thr) (f : Word) : (Machine.raise s t f).curWord = s.curWord := by
  unfold Machine.raise; split <;> rfl
@[simp] theorem raise_doing (s : State) (t : Thr) (f : Word) : (Machine.raise s t f).doing = s.doing := by
  unfold Machine.raise; split <;> rfl
@[simp] theorem raise_delays (s : State) (t : Thr) (f : Word) : (Machine.raise s t f).delays = s.delays := by
  unfold Machine.raise; split <;> rfl
@[simp] theorem raise_fresh (s : State) (t : Thr) (f : Word) : (Machine.raise s t f).fresh = s.fresh := by
  unfold Machine.raise; split <;> rfl
@[simp] theorem raise_nextReq (s : State) (t : Thr) (f : Word) : (Machine.raise s t f).nextReq = s.nextReq := by
  unfold Machine.raise; split <;> rfl
@[simp] theorem raise_nextSeq (s : State) (t : Thr) (f : Word) : (Machine.raise s t f).nextSeq = s.nextSeq := by
  unfold Machine.raise; split <;> rfl
@[simp] theorem raise_empty (s : State) (t : Thr) (f : Word) : (Machine.raise s t f).empty = s.empty := by
  unfold Machine.raise; split <;> rfl
@[simp] theorem raise_cores (s : State) (t : Thr) (f : Word) : (Machine.raise s t f).cores = s.cores := by
  unfold Machine.raise; split <;> rfl
@[simp] theorem raise_tiles (s : State) (t : Thr) (f : Word) : (Machine.raise s t f).tiles = s.tiles := by
  unfold Machine.raise; split <;> rfl
@[simp] theorem raise_stacks (s : State) (t : Thr) (f : Word) : (Machine.raise s t f).stackSt = s.stackSt := by
  unfold Machine.raise; split <;> rfl
@[simp] theorem raise_reqs (s : State) (t : Thr) (f : Word) : (Machine.raise s t f).reqs = s.reqs := by
  unfold Machine.raise; split <;> rfl
@[simp] theorem raise_io (s : State) (t : Thr) (f : Word) : (Machine.raise s t f).io = s.io := by
  unfold Machine.raise; split <;> rfl
@[simp] theorem raise_pairs (s : State) (t : Thr) (f : Word) : (Machine.raise s t f).pairs = s.pairs := by
  unfold Machine.raise; split <;> rfl
@[simp] theorem raise_absent (s : State) (t : Thr) (f : Word) : (Machine.raise s t f).absent = s.absent := by
  unfold Machine.raise; split <;> rfl
@[simp] theorem raise_trace (s : State) (t : Thr) (f : Word) : (Machine.raise s t f).trace = s.trace := by
  unfold Machine.raise; split <;> rfl
@[simp] theorem raise_acting (s : State) (t : Thr) (f : Word) : (Machine.raise s t f).acting = s.acting := by
  unfold Machine.raise; split <;> rfl

/-! ## touchWord -/

@[simp] theorem touchWord_now (s : State) (a : Nat) : (Machine.touchWord s a).now = s.now := by
  unfold Machine.touchWord; split <;> rfl
@[simp] theorem touchWord_agenda (s : State) (a : Nat) : (Machine.touchWord s a).agenda = s.agenda := by
  unfold Machine.touchWord; split <;> rfl
@[simp] theorem touchWord_cursor (s : State) (a : Nat) : (Machine.touchWord s a).cursor = s.cursor := by
  unfold Machine.touchWord; split <;> rfl
@[simp] theorem touchWord_cur (s : State) (a : Nat) : (Machine.touchWord s a).cur = s.cur := by
  unfold Machine.touchWord; split <;> rfl
@[simp] theorem touchWord_curWord (s : State) (a : Nat) : (Machine.touchWord s a).curWord = s.curWord := by
  unfold Machine.touchWord; split <;> rfl
@[simp] theorem touchWord_doing (s : State) (a : Nat) : (Machine.touchWord s a).doing = s.doing := by
  unfold Machine.touchWord; split <;> rfl
@[simp] theorem touchWord_delays (s : State) (a : Nat) : (Machine.touchWord s a).delays = s.delays := by
  unfold Machine.touchWord; split <;> rfl
@[simp] theorem touchWord_fresh (s : State) (a : Nat) : (Machine.touchWord s a).fresh = s.fresh := by
  unfold Machine.touchWord; split <;> rfl
@[simp] theorem touchWord_nextReq (s : State) (a : Nat) : (Machine.touchWord s a).nextReq = s.nextReq := by
  unfold Machine.touchWord; split <;> rfl
@[simp] theorem touchWord_nextSeq (s : State) (a : Nat) : (Machine.touchWord s a).nextSeq = s.nextSeq := by
  unfold Machine.touchWord; split <;> rfl
@[simp] theorem touchWord_mem (s : State) (a : Nat) : (Machine.touchWord s a).mem = s.mem := by
  unfold Machine.touchWord; split <;> rfl
@[simp] theorem touchWord_empty (s : State) (a : Nat) : (Machine.touchWord s a).empty = s.empty := by
  unfold Machine.touchWord; split <;> rfl
@[simp] theorem touchWord_cores (s : State) (a : Nat) : (Machine.touchWord s a).cores = s.cores := by
  unfold Machine.touchWord; split <;> rfl
@[simp] theorem touchWord_tiles (s : State) (a : Nat) : (Machine.touchWord s a).tiles = s.tiles := by
  unfold Machine.touchWord; split <;> rfl
@[simp] theorem touchWord_stacks (s : State) (a : Nat) : (Machine.touchWord s a).stackSt = s.stackSt := by
  unfold Machine.touchWord; split <;> rfl
@[simp] theorem touchWord_reqs (s : State) (a : Nat) : (Machine.touchWord s a).reqs = s.reqs := by
  unfold Machine.touchWord; split <;> rfl
@[simp] theorem touchWord_pairs (s : State) (a : Nat) : (Machine.touchWord s a).pairs = s.pairs := by
  unfold Machine.touchWord; split <;> rfl
@[simp] theorem touchWord_absent (s : State) (a : Nat) : (Machine.touchWord s a).absent = s.absent := by
  unfold Machine.touchWord; split <;> rfl
@[simp] theorem touchWord_trace (s : State) (a : Nat) : (Machine.touchWord s a).trace = s.trace := by
  unfold Machine.touchWord; split <;> rfl
@[simp] theorem touchWord_acting (s : State) (a : Nat) : (Machine.touchWord s a).acting = s.acting := by
  unfold Machine.touchWord; split <;> rfl

end Sys2Proof.Machine
end

