-- ==== Sys2Proof/Laws/Registers.lean ====
section
/-! SUPPORT. The laws of registers: what a write leaves to be read, and what it leaves alone. -/
namespace Sys2Proof.Machine

/-! ## Bytes of a number -/

@[simp] theorem length_toBytes (n x : Nat) : (toBytes n x).length = n := by
  induction n generalizing x with
  | zero => rfl
  | succ n ih => simp [toBytes, ih]

theorem ofBytes_toBytes (n x : Nat) : ofBytes (toBytes n x) = x % 256 ^ n := by
  induction n generalizing x with
  | zero => simp [toBytes, ofBytes, Nat.mod_one]
  | succ n ih =>
    have h : x % 256 ^ (n + 1) = x % 256 + 256 * (x / 256 % 256 ^ n) := by rw [Nat.pow_succ', Nat.mod_mul]
    simp only [toBytes, ofBytes, ih, BitVec.toNat_ofNat, h]

theorem ofBytes_lt (l : List Byte) : ofBytes l < 256 ^ l.length := by
  induction l with
  | nil => simp [ofBytes]
  | cons b l ih =>
    have := b.isLt
    simp only [ofBytes, List.length_cons, Nat.pow_succ]
    omega

/-! ## Fields of a word -/

theorem bits_setBits_self (x : Word) (lo len v : Nat) (h : lo + len ≤ 64) : bits (setBits x lo len v) lo len = v % 2 ^ len := by
  have e : (setBits x lo len v).extractLsb' lo len = BitVec.ofNat len v := by
    apply BitVec.eq_of_getLsbD_eq
    intro i hi
    simp only [setBits, BitVec.getLsbD_extractLsb', BitVec.getLsbD_or, BitVec.getLsbD_and, BitVec.getLsbD_not,
      BitVec.getLsbD_shiftLeft, BitVec.getLsbD_ofNat, Nat.testBit_two_pow_sub_one, hi]
    have h1 : lo + i < 64 := by omega
    have h2 : ¬ lo + i < lo := by omega
    have h3 : lo + i - lo = i := by omega
    have h4 : i < 64 := by omega
    simp [h1, h2, h3, h4, hi]
  rw [bits, e, BitVec.toNat_ofNat]

theorem getLsbD_setBits_other (x : Word) (lo len v i : Nat) (h : i < lo ∨ lo + len ≤ i) :
    (setBits x lo len v).getLsbD i = x.getLsbD i := by
  by_cases hi : i < 64
  · simp only [setBits, BitVec.getLsbD_or, BitVec.getLsbD_and, BitVec.getLsbD_not, BitVec.getLsbD_shiftLeft,
      BitVec.getLsbD_ofNat, Nat.testBit_two_pow_sub_one, hi]
    rcases h with h | h
    · simp [h]
    · have : ¬ i < lo := by omega
      have h2 : ¬ (i - lo < len) := by omega
      simp [this, h2]
  · rw [BitVec.getLsbD_of_ge _ _ (by omega), BitVec.getLsbD_of_ge _ _ (by omega)]

theorem bits_setBits_other (x : Word) (lo len v k n : Nat) (h : k + n ≤ lo ∨ lo + len ≤ k) :
    bits (setBits x lo len v) k n = bits x k n := by
  have e : (setBits x lo len v).extractLsb' k n = x.extractLsb' k n := by
    apply BitVec.eq_of_getLsbD_eq
    intro i hi
    simp only [BitVec.getLsbD_extractLsb']
    rw [getLsbD_setBits_other]
    omega
  rw [bits, bits, e]

/-! ## Reads that agree -/

theorem getNat_congr {s t : State} {a n : Nat} (h : ∀ i, i < n → Memory.get t.mem (a + i) = Memory.get s.mem (a + i)) :
    getNat t a n = getNat s a n := by
  unfold getNat getBytes
  rw [Memory.slice_eq, Memory.slice_eq]
  congr 1
  exact List.map_congr_left fun i hi => h i (List.mem_range.1 hi)

theorem getWord_congr {s t : State} {a : Nat} (h : ∀ i, i < 8 → Memory.get t.mem (a + i) = Memory.get s.mem (a + i)) :
    getWord t a = getWord s a := by rw [getWord, getWord, getNat_congr h]

theorem UnchangedBut.getWord {s t : State} {w : Nat → Prop} (u : UnchangedBut s t w) {a : Nat} (h : ∀ i, i < 8 → ¬ w (a + i)) :
    getWord t a = getWord s a := getWord_congr fun i hi => u _ (h i hi)

theorem UnchangedBut.getC {s t : State} {w : Nat → Prop} (u : UnchangedBut s t w) {th : Thr} {n : Nat}
    (h : ∀ i, i < 8 → ¬ w (cAddr th n + i)) : getC t th n = getC s th n := by
  simp only [Machine.getC, u.getWord h]

theorem UnchangedBut.mono {s t : State} {w w' : Nat → Prop} (u : UnchangedBut s t w) (h : ∀ a, w a → w' a) : UnchangedBut s t w' :=
  fun a ha => u a fun hw => ha (h a hw)

theorem UnchangedBut.refl (s : State) (w : Nat → Prop) : UnchangedBut s s w := fun _ _ => rfl

theorem UnchangedBut.trans {s t u : State} {w : Nat → Prop} (h : UnchangedBut s t w) (k : UnchangedBut t u w) : UnchangedBut s u w :=
  fun a ha => (k a ha).trans (h a ha)

/-! ## Writing bytes -/

theorem putBytes_unchanged (s : State) (a : Nat) (bs : List Byte) : UnchangedBut s (putBytes s a bs) (within a bs.length) := by
  intro x hx
  rw [putBytes_mem, Memory.get_put_other]
  unfold within at hx
  omega

theorem putWord_unchanged (s : State) (a : Nat) (x : Word) : UnchangedBut s (putWord s a x) (within a 8) := by
  have := putBytes_unchanged s a (toBytes 8 x.toNat)
  rwa [length_toBytes] at this

theorem getNat_putBytes_self (s : State) (a : Nat) (bs : List Byte) : getNat (putBytes s a bs) a bs.length = ofBytes bs := by
  rw [getNat, getBytes, putBytes_mem, Memory.slice_put_self]

theorem getWord_putWord_self (s : State) (a : Nat) (x : Word) : getWord (putWord s a x) a = x := by
  have := getNat_putBytes_self s a (toBytes 8 x.toNat)
  rw [length_toBytes, ofBytes_toBytes] at this
  rw [getWord, putWord, this]
  apply BitVec.eq_of_toNat_eq
  have := x.isLt
  rw [BitVec.toNat_ofNat]
  omega

/-! ## Control words -/

theorem setC_unchanged (s : State) (th : Thr) (n : Nat) (x : Word) : UnchangedBut s (setC s th n x) (within (cAddr th n) 8) :=
  putWord_unchanged s _ x

theorem getC_setC_self (s : State) (th : Thr) (n : Nat) (x : Word) (h : n ≠ 5) : getC (setC s th n x) th n = x := by
  rw [getC, setC, getWord_putWord_self, if_neg h]

theorem cAddr_apart (th : Thr) {n m : Nat} (h : n ≠ m) {i : Nat} (hi : i < 8) : ¬ within (cAddr th n) 8 (cAddr th m + i) := by
  unfold within cAddr; omega

theorem getC_setC_other (s : State) (th : Thr) {n m : Nat} (x : Word) (h : n ≠ m) : getC (setC s th n x) th m = getC s th m :=
  (setC_unchanged s th n x).getC fun _ hi => cAddr_apart th h hi

/-! ## Scalar registers -/

theorem getS_zero (s : State) (th : Thr) : getS s th 0 = 0 := if_pos rfl
theorem setS_zero (s : State) (th : Thr) (x : Word) : setS s th 0 x = s := if_pos rfl

theorem getS_setS_self (s : State) (th : Thr) (d : SReg) (x : Word) : getS (setS s th d x) th d = if d = 0 then 0 else x := by
  unfold getS setS
  split
  · rfl
  · exact getWord_putWord_self s _ x

theorem setS_unchanged (s : State) (th : Thr) (d : SReg) (x : Word) :
    UnchangedBut s (setS s th d x) fun a => d ≠ 0 ∧ within (sAddr th d.toNat) 8 a := by
  unfold setS
  split
  · exact UnchangedBut.refl _ _
  · next h => exact (putWord_unchanged s _ x).mono fun a ha => ⟨h, ha⟩

theorem sAddr_toNat_lt (th : Thr) (d : SReg) : sAddr th d.toNat + 8 ≤ rowAddr th.core th.row + 512 := by
  have := d.isLt
  unfold sAddr; omega

end Sys2Proof.Machine
end

