-- ==== Sys2Proof/Laws/Retire.lean ====
section
/-! SUPPORT. What reading words, retiring and writing results do, each said once. -/
namespace Sys2Proof.Machine

/-! ## Reading words (R99, R130) -/

theorem pick_none {α : Type} (p : α → Bool) (l : List α) (h : ∀ x ∈ l, p x = false) : pick p l = none := by
  induction l with
  | nil => rfl
  | cons x l ih => simp [pick, h x List.mem_cons_self, ih fun y hy => h y (List.mem_cons_of_mem _ hy)]

theorem touchWord_id (s : State) (a : Nat) (h : ∀ e ∈ s.bitErrs, e.1 ≠ a) : touchWord s a = s := by
  have : pick (fun p => p.1 == a) s.bitErrs = none := pick_none _ _ fun x hx => by simp [h x hx]
  simp [touchWord, this]

theorem touchWords_id (s : State) (ws : List Nat) (h : Readable s ws) : ws.foldl touchWord s = s := by
  induction ws with
  | nil => rfl
  | cons w l ih =>
    rw [List.foldl_cons, touchWord_id s w (h w List.mem_cons_self).2]
    exact ih fun x hx => h x (List.mem_cons_of_mem _ hx)

theorem any_poisoned_false (s : State) (ws : List Nat) (h : Readable s ws) : ws.any (isPoisoned s) = false := by
  simp only [List.any_eq_false]
  intro x hx
  simp [(h x hx).1]

theorem Readable.append {s : State} {a b : List Nat} (ha : Readable s a) (hb : Readable s b) : Readable s (a ++ b) :=
  fun w hw => (List.mem_append.1 hw).elim (ha w) (hb w)

/-- Readable words are read, and the effect follows. -/
theorem withWords_readable {s : State} {ws : List Nat} (hr : RetireReadable s s.cur) (h : Readable s ws) (k : State → State) :
    withWords s ws k = k s := by
  have all : Readable s (cAddr s.cur 14 :: (if isPaired s s.cur then cAddr s.cur 13 :: ws else ws)) := by
    intro w hw
    by_cases hp : isPaired s s.cur = true
    · simp only [hp, if_true, List.mem_cons] at hw
      rcases hw with rfl | rfl | hw
      · exact hr _ List.mem_cons_self
      · exact hr _ (by simp [hp])
      · exact h w hw
    · simp only [hp, List.mem_cons] at hw
      rcases hw with rfl | hw
      · exact hr _ List.mem_cons_self
      · exact h w (by simpa using hw)
  unfold withWords
  simp only [touchWords_id s _ all, any_poisoned_false s _ all, Bool.false_eq_true, if_false]

/-! ## Retiring (R41, R124, R278) -/

theorem callCheckpoint_mem (s : State) (p : PairSt) (n : Word) : (callCheckpoint s p n).mem = s.mem := rfl

theorem SameModule.refl (s : State) : SameModule s s := ⟨rfl, rfl, rfl, rfl, rfl, rfl, rfl, rfl⟩

theorem SameModule.trans {s t u : State} (h : SameModule s t) (k : SameModule t u) : SameModule s u :=
  ⟨k.now.trans h.now, k.agenda.trans h.agenda, k.tiles.trans h.tiles, k.stackSt.trans h.stackSt, k.reqs.trans h.reqs,
    k.io.trans h.io, k.empty.trans h.empty, k.absent.trans h.absent⟩

theorem setC_same (s : State) (th : Thr) (n : Nat) (x : Word) : SameModule s (setC s th n x) :=
  ⟨rfl, rfl, rfl, rfl, rfl, rfl, rfl, rfl⟩

theorem setS_same (s : State) (th : Thr) (d : SReg) (x : Word) : SameModule s (setS s th d x) := by
  constructor <;> simp

theorem countRetired_same (s : State) (th : Thr) (pc : Nat) (v : Word) : SameModule s (countRetired s th pc v) := by
  have h1 : SameModule s (setC (setPc s th pc) th 14 (getC (setPc s th pc) th 14 + 1)) :=
    (setC_same s th 1 _).trans (setC_same _ th 14 _)
  dsimp only [countRetired]
  split
  · exact h1.trans (setC_same _ th 13 _)
  · exact h1

theorem endStep_same (s : State) (th : Thr) : SameModule s (endStep s th) := by
  unfold endStep
  split
  · split <;> constructor <;> simp
  · exact SameModule.refl s

theorem endInterval_same (s : State) (th : Thr) : SameModule s (endInterval s th) := by
  unfold endInterval
  split
  · exact SameModule.refl s
  · split
    · exact ⟨rfl, rfl, rfl, rfl, rfl, rfl, rfl, rfl⟩
    · exact SameModule.refl s

theorem endInterval_mem (s : State) (th : Thr) : (endInterval s th).mem = s.mem := by
  unfold endInterval
  split
  · rfl
  · split <;> rfl

theorem retireTo_same (s : State) (th : Thr) (pc : Nat) (v : Word) : SameModule s (retireTo s th pc v) :=
  ((countRetired_same s th pc v).trans (endStep_same _ th)).trans (endInterval_same _ th)

theorem getThr_congr {s t : State} (hc : t.cores = s.cores) (hn : t.now = s.now) (th : Thr) : getThr t th = getThr s th := by
  simp only [getThr, getCore, hc, hn]

theorem endStep_unchanged (s : State) (th : Thr) :
    UnchangedBut s (endStep s th) fun a => (getThr s th).stepping = true ∧ within (cAddr th 0) 8 a := by
  unfold endStep
  split
  · next h =>
    intro a ha
    rw [modThr_mem]
    split
    · exact setC_unchanged s th 0 _ a fun hw => ha ⟨h, hw⟩
    · rfl
  · exact UnchangedBut.refl _ _

theorem isPaired_congr {s t : State} {th : Thr} (h : getC t th 7 = getC s th 7) : isPaired t th = isPaired s th := by
  simp only [isPaired, h]

theorem countRetired_unchanged (s : State) (th : Thr) (pc : Nat) (v : Word) :
    UnchangedBut s (countRetired s th pc v) fun a =>
      within (cAddr th 1) 8 a ∨ within (cAddr th 14) 8 a ∨ (isPaired s th = true ∧ within (cAddr th 13) 8 a) := by
  have h1 : UnchangedBut s (setPc s th pc) fun a => within (cAddr th 1) 8 a := setC_unchanged s th 1 _
  have h2 := setC_unchanged (setPc s th pc) th 14 (getC (setPc s th pc) th 14 + 1)
  have h12 : UnchangedBut s (setC (setPc s th pc) th 14 (getC (setPc s th pc) th 14 + 1)) fun a =>
      within (cAddr th 1) 8 a ∨ within (cAddr th 14) 8 a :=
    (h1.mono fun _ h => .inl h).trans (h2.mono fun _ h => .inr h)
  have hp : isPaired (setC (setPc s th pc) th 14 (getC (setPc s th pc) th 14 + 1)) th = isPaired s th :=
    isPaired_congr (h12.getC fun i hi h => h.elim (cAddr_apart th (by decide) hi) (cAddr_apart th (by decide) hi))
  dsimp only [countRetired]
  simp only [hp]
  split
  · next h =>
    exact (h12.mono fun _ h => h.elim .inl fun h => .inr (.inl h)).trans
      ((setC_unchanged _ th 13 _).mono fun _ hw => .inr (.inr ⟨h, hw⟩))
  · exact h12.mono fun _ h => h.elim .inl fun h => .inr (.inl h)

/-- Retiring writes its control words and no other byte. -/
theorem retireTo_unchanged (s : State) (th : Thr) (pc : Nat) (v : Word) :
    UnchangedBut s (retireTo s th pc v) (retireBytes s th) := by
  have h1 := countRetired_unchanged s th pc v
  have h2 := endStep_unchanged (countRetired s th pc v) th
  have ht : getThr (countRetired s th pc v) th = getThr s th := by
    refine getThr_congr ?_ (countRetired_same s th pc v).now th
    dsimp only [countRetired]
    split <;> rfl
  rw [ht] at h2
  intro a ha
  rw [retireTo, endInterval_mem]
  refine (h1.mono ?_).trans (h2.mono ?_) a ha
  · rintro a (h | h | h)
    · exact .inl h
    · exact .inr (.inl h)
    · exact .inr (.inr (.inl h))
  · exact fun a h => .inr (.inr (.inr h))

/-- A control word that retiring does not count in is as after the count. -/
theorem getC_retireTo (s : State) (th : Thr) (pc : Nat) (v : Word) {n : Nat} (h : n ≠ 0) :
    getC (retireTo s th pc v) th n = getC (countRetired s th pc v) th n := by
  have h2 := endStep_unchanged (countRetired s th pc v) th
  have e : getC (retireTo s th pc v) th n = getC (endStep (countRetired s th pc v) th) th n := by
    simp only [getC, getWord, getNat, getBytes, retireTo, endInterval_mem]
  rw [e]
  exact h2.getC fun i hi hw => cAddr_apart th (Ne.symm h) hi hw.2

theorem getC_countRetired (s : State) (th : Thr) (pc : Nat) (v : Word) (n : Nat) :
    getC (countRetired s th pc v) th n =
      if n = 1 then setBits (getC s th 1) 0 32 pc
      else if n = 14 then getC s th 14 + 1
      else if n = 13 ∧ isPaired s th = true then fingerprintStep (getC s th 13) v
      else getC s th n := by
  have h7 : isPaired (setC (setPc s th pc) th 14 (getC (setPc s th pc) th 14 + 1)) th = isPaired s th := by
    refine isPaired_congr ?_
    rw [getC_setC_other _ _ _ (by decide), setPc, getC_setC_other _ _ _ (by decide)]
  have base : ∀ n, getC (setC (setPc s th pc) th 14 (getC (setPc s th pc) th 14 + 1)) th n =
      if n = 1 then setBits (getC s th 1) 0 32 pc else if n = 14 then getC s th 14 + 1 else getC s th n := by
    intro n
    by_cases h14 : n = 14
    · subst h14
      rw [getC_setC_self _ _ _ _ (by decide), setPc, getC_setC_other _ _ _ (by decide)]
      rfl
    · rw [getC_setC_other _ _ _ (Ne.symm h14), setPc]
      by_cases h1 : n = 1
      · subst h1; rw [getC_setC_self _ _ _ _ (by decide)]; rfl
      · rw [getC_setC_other _ _ _ (Ne.symm h1), if_neg h1, if_neg h14]
  dsimp only [countRetired]
  rw [h7]
  by_cases hp : isPaired s th = true
  · rw [if_pos hp]
    by_cases h13 : n = 13
    · subst h13
      rw [getC_setC_self _ _ _ _ (by decide), base]
      simp [hp]
    · rw [getC_setC_other _ _ _ (Ne.symm h13), base]
      simp [h13]
  · rw [if_neg hp, base]
    simp [hp]

/-- Retiring counts the instruction. -/
theorem retireTo_retired (s : State) (th : Thr) (pc : Nat) (v : Word) (h : pc < 4294967296) :
    Retired s (retireTo s th pc v) th pc v := by
  have c : ∀ n, n ≠ 0 → getC (retireTo s th pc v) th n = _ := fun n hn =>
    (getC_retireTo s th pc v hn).trans (getC_countRetired s th pc v n)
  constructor
  · rw [pcOf, c 1 (by decide), if_pos rfl, bits_setBits_self _ _ _ _ (by decide)]
    exact Nat.mod_eq_of_lt h
  · rw [codeOf, codeOf, c 1 (by decide), if_pos rfl, bits_setBits_other _ _ _ _ _ _ (by decide)]
  · rw [c 14 (by decide)]; rfl
  · rw [c 13 (by decide)]; simp

/-- Retiring with nothing written. -/
theorem retireTo_plain (s : State) (th : Thr) (pc : Nat) (v : Word) (h : pc < 4294967296) :
    PlainResult s (retireTo s th pc v) th pc v :=
  ⟨retireTo_retired s th pc v h, retireTo_unchanged s th pc v, retireTo_same s th pc v⟩

/-! ## Results in registers -/

theorem nextPc_lt (s : State) (th : Thr) : nextPc s th < 4294967296 := Nat.mod_lt _ (by decide)

/-- A state that differs in registers only retires as before. -/
theorem Retired.of_unchanged {s u t : State} {th : Thr} {pc : Nat} {v : Word} {w : Nat → Prop} (hu : UnchangedBut s u w)
    (hw : ∀ n, n = 1 ∨ n = 13 ∨ n = 14 ∨ n = 7 → ∀ i, i < 8 → ¬ w (cAddr th n + i)) (r : Retired u t th pc v) :
    Retired s t th pc v := by
  have e : ∀ n, n = 1 ∨ n = 13 ∨ n = 14 ∨ n = 7 → getC u th n = getC s th n := fun n hn => hu.getC (hw n hn)
  exact ⟨r.pc, by rw [r.code, codeOf, codeOf, e 1 (by simp)], by rw [r.count, e 14 (by simp)],
    by rw [r.print, isPaired_congr (e 7 (by simp)), e 13 (by simp)]⟩

theorem sAddr_cAddr (th : Thr) (d : SReg) (n i : Nat) (_ : i < 8) : ¬ within (sAddr th d.toNat) 8 (cAddr th n + i) := by
  have := d.isLt
  unfold within sAddr cAddr; omega

theorem retireBytes_congr {s u : State} {th : Thr} (h7 : getC u th 7 = getC s th 7) (hc : getThr u th = getThr s th) (a : Nat) :
    retireBytes u th a = retireBytes s th a := by
  simp only [retireBytes, isPaired_congr h7, hc]

theorem setS_retireBytes (s : State) (th : Thr) (d : SReg) (x : Word) (a : Nat) :
    retireBytes (setS s th d x) th a = retireBytes s th a :=
  retireBytes_congr ((setS_unchanged s th d x).getC fun i hi hw => sAddr_cAddr th d 7 i hi hw.2)
    (getThr_congr (setS_cores ..) (setS_now ..) th) a

/-- A register below the control words is not a byte that retiring writes. -/
theorem not_retireBytes {s : State} {th : Thr} {a : Nat} (h : a < rowAddr th.core th.row + 3968 ∨ rowAddr th.core th.row + 4096 ≤ a) :
    ¬ retireBytes s th a := by
  unfold retireBytes within cAddr; omega

theorem getS_unchanged {s t : State} {w : Nat → Prop} (u : UnchangedBut s t w) {th : Thr} {d : SReg}
    (h : ∀ i, i < 8 → ¬ w (sAddr th d.toNat + i)) : getS t th d = getS s th d := by
  simp only [getS, u.getWord h]

/-- Writing s[d] and retiring. -/
theorem retireTo_scalar (s : State) (th : Thr) (d : SReg) (x : Word) (pc : Nat) (h : pc < 4294967296) :
    ScalarResult s (if d = 0 then retireTo s th pc (BitVec.ofNat 64 pc) else retireTo (setS s th d x) th pc x) th d x pc := by
  by_cases hd : d = 0
  · subst hd
    have p := retireTo_plain s th pc (BitVec.ofNat 64 pc) h
    exact ⟨by simpa using p.retired, by rw [getS_zero, if_pos rfl], p.frame.mono fun _ h => .inl h, p.rest⟩
  · simp only [if_neg hd]
    have p := retireTo_plain (setS s th d x) th pc x h
    have u := setS_unchanged s th d x
    refine ⟨?_, ?_, ?_, (setS_same s th d x).trans p.rest⟩
    · rw [if_neg hd]
      exact p.retired.of_unchanged u fun n _ i hi hw => sAddr_cAddr th d n i hi hw.2
    · rw [if_neg hd, getS_unchanged p.frame, getS_setS_self, if_neg hd]
      intro i hi
      have := sAddr_toNat_lt th d
      exact not_retireBytes (by omega)
    · exact (u.mono fun _ hw => .inr hw).trans (p.frame.mono fun a hw => .inl (by rwa [← setS_retireBytes s th d x a]))

theorem retireS_result (s : State) (th : Thr) (d : SReg) (x : Word) : ScalarResult s (retireS s th d x) th d x (nextPc s th) := by
  have e : retireS s th d x =
      if d = 0 then retireTo s th (nextPc s th) (BitVec.ofNat 64 (nextPc s th)) else retireTo (setS s th d x) th (nextPc s th) x := by
    unfold retireS retirePlain retire
    split
    · rfl
    · have : pcOf (setS s th d x) th = pcOf s th := by
        rw [pcOf, pcOf, (setS_unchanged s th d x).getC fun i hi hw => sAddr_cAddr th d 1 i hi hw.2]
      rw [this]; rfl
  rw [e]
  exact retireTo_scalar s th d x _ (nextPc_lt s th)

theorem retirePlain_result (s : State) (th : Thr) :
    PlainResult s (retirePlain s th) th (nextPc s th) (BitVec.ofNat 64 (nextPc s th)) :=
  retireTo_plain s th _ _ (nextPc_lt s th)

/-! ## Frames of scalar instructions -/

/-- An instruction on readable scalar registers has its effect. -/
theorem withS_readable {s : State} {rs : List SReg} (h : SReadable s s.cur rs) (k : State → State) : withS s rs k = .next (k s) := by
  rw [withS, withWords_readable h.1 h.2]

theorem opSSS_result {s : State} {a b : SReg} (h : SReadable s s.cur [a, b]) (d : SReg) (f : Word → Word → Word) :
    ∃ t, opSSS s d a b f = .next t ∧ ScalarResult s t s.cur d (f (getS s s.cur a) (getS s s.cur b)) (nextPc s s.cur) :=
  ⟨_, withS_readable h _, retireS_result s s.cur d _⟩

theorem opSS_result {s : State} {a : SReg} (h : SReadable s s.cur [a]) (d : SReg) (f : Word → Word) :
    ∃ t, opSS s d a f = .next t ∧ ScalarResult s t s.cur d (f (getS s s.cur a)) (nextPc s s.cur) :=
  ⟨_, withS_readable h _, retireS_result s s.cur d _⟩

end Sys2Proof.Machine
end

