-- ==== Sys2Proof/Tests/Slice0.lean ====
section
/-! SUPPORT. Tests of the model: words of the encoding tables, terms that the well-formedness check refuses, single steps on
small states, and for each obligation a state and operands that meet its premises.  Expected results are the spec's: the
worked words of its chapters 16 to 23, and values worked by hand from the rules cited. -/
namespace Sys2Proof.Tests
open Sys2Proof.Machine

set_option Elab.async false

/-! ## Words and instructions -/

/-- Each word decodes to its instruction. -/
abbrev Reads (l : List (InsnWord × Instr)) : Prop := ∀ p ∈ l, (decode p.1).toOption = some p.2

/-- The word is no instruction (R281). -/
abbrev No (w : InsnWord) : Prop := (decode w).toOption = none

/-! The worked encodings that the chapters state (R284, R298 to R376). -/
theorem test_stated_words_scalar : Reads [(0x04518701, .sub 5 6 7), (0x04518018, .clz 5 6), (0x08518701, .mulh 5 6 7),
  (0x08824A05, .div 8 9 10), (0x18514001, .xori 5 5 1), (0x2451800C, .shli 5 6 12), (0x24412003, .srai 4 4 3),
  (0x2C581234, .lik 5 2 0x1234), (0x44518003, .blt 5 6 3), (0x57E0000B, .call 62 11), (0x580F8000, .callr 0 62 0),
  (0x30518703, .fdiv 5 6 7 .d (.static .rne)), (0x305187F0, .fadd 5 6 7 .s .dyn), (0x305187A7, .fcmp 5 6 7 .s .lt),
  (0x30518008, .fkind 5 6 .d), (0x3051B019, .fcvt 5 6 .i32 .f64 (.static .rtz)), (0x34824A2C, .ffmaD 8 9 10 11),
  (0x38518721, .ffmsS 5 6 7 8)] := by decide +kernel
theorem test_stated_words_system : Reads [(0x8850000E, .mfc 5 14), (0x88014013, .mtc 5 3), (0x880000E0, .live 3),
  (0x90000050, .trap 5), (0x90000001, .brk), (0x90000006, .nop), (0x90824002, .repart 8 9), (0x90800003, .pair 8),
  (0x90800004, .unpair 8)] := by decide +kernel
theorem test_stated_words_memory : Reads [(0x5C711800, .ldr 7 4 .h true 0), (0x64610040, .vldr 3 4 2), (0x64710040, .vstr 3 4 2),
  (0x68700A03, .ldo 7 5 .plain .d), (0x68500A08, .ldfe 5 5 .plain), (0x70614A09, .amoFaddW 6 5 5 .plain),
  (0x7420A0A0, .vldo 1 0 5 .plain .f32), (0x78824A00, .objq 8 9 5), (0x7881CE04, .free 8 7 7), (0x78824A07, .fillc 8 9 5),
  (0x7881CA05, .reloc 8 7 5), (0x7C81C060, .rld 8 7 3 .plain), (0x7C51FE01, .hdl 5 7 .plain), (0x7C01FF01, .rst 0 7 504 .plain),
  (0x80000003, .fence .pkg), (0x80000013, .fenceRel .pkg), (0x84725400, .msend 7 9 10 .plain), (0x85400001, .ibrecv 20),
  (0x84500002, .ibpeek 5), (0x84000003, .ibdrop)] := by decide +kernel
theorem test_stated_words_vector : Reads [(0x94611020, .vadd 3 1 2 0 .i32), (0x982110A0, .vfadd 1 1 2 0 .f32),
  (0x9C221909, .vfma 1 2 3 4 1 .f32), (0xA10440A8, .vcmp 2 1 2 0 .lt .f32 .write), (0xA46111A0, .vsel 3 1 2 1 .f32),
  (0xACA100A0, .vred 5 1 0 .f32 .sum), (0xB1044408, .vmred 2 1 2 1 .sum .i32), (0xB84100A2, .vexp2 2 1 0 .f32)] := by decide +kernel
theorem test_stated_words_engine : Reads [(0xC4718001, .mldbW 7 6), (0xC8718001, .mmulW 7 6), (0xCC738A00, .mout 7 14 5),
  (0xD0720000, .mzero 7 8), (0xD0700001, .mtest 7), (0xD0720002, .mstat 7 8), (0xDC718000, .gath 7 6), (0xDC718001, .scat 7 6),
  (0xDC718002, .scatadd 7 6), (0xE081C000, .jpoll 8 7), (0xE081C001, .jwait 8 7), (0xE4718000, .creduce 7 6), (0xE8718000, .rseq 7 6),
  (0xE8700001, .rswait 7)] := by decide +kernel

/-! One word of every encoded row, from the fixed bits and the field places that the encoding tables give (R282 to R286). -/
theorem test_words_int : Reads [
  (0x06BD5600, .add 43 53 22), (0x06BD5601, .sub 43 53 22), (0x06BD5602, .addw 43 53 22), (0x06BD5603, .subw 43 53 22),
  (0x06BD5604, .and 43 53 22), (0x06BD5605, .or 43 53 22), (0x06BD5606, .xor 43 53 22), (0x06BD5607, .andn 43 53 22),
  (0x06BD5608, .orn 43 53 22), (0x06BD5609, .shl 43 53 22), (0x06BD560A, .shr 43 53 22), (0x06BD560B, .sra 43 53 22),
  (0x06BD560C, .rol 43 53 22), (0x06BD560D, .ror 43 53 22), (0x06BD560E, .slt 43 53 22), (0x06BD560F, .sltu 43 53 22),
  (0x06BD5610, .seq 43 53 22), (0x06BD5611, .sne 43 53 22), (0x06BD5612, .min 43 53 22), (0x06BD5613, .max 43 53 22),
  (0x06BD5614, .minu 43 53 22), (0x06BD5615, .maxu 43 53 22), (0x06BD5616, .sadd 43 53 22), (0x06BD5617, .ssub 43 53 22),
  (0x06BD4018, .clz 43 53), (0x06BD4019, .ctz 43 53), (0x06BD401A, .popc 43 53), (0x06BD401B, .brev 43 53), (0x06BD401C, .bswap 43 53),
  (0x06BD401D, .sextb 43 53), (0x06BD401E, .sexth 43 53), (0x06BD401F, .sextw 43 53), (0x06BD4020, .zextw 43 53), (0x06BD4021, .zextb 43 53),
  (0x06BD4022, .zexth 43 53)] := by decide +kernel
theorem test_words_mul : Reads [
  (0x0ABD5600, .mul 43 53 22), (0x0ABD5601, .mulh 43 53 22), (0x0ABD5602, .mulhu 43 53 22), (0x0ABD5603, .mulhsz 43 53 22),
  (0x0ABD5604, .mulw 43 53 22), (0x0ABD5605, .div 43 53 22), (0x0ABD5606, .divu 43 53 22), (0x0ABD5607, .rem 43 53 22),
  (0x0ABD5608, .remu 43 53 22), (0x0ABD5609, .divw 43 53 22), (0x0ABD560A, .remw 43 53 22)] := by decide +kernel
theorem test_words_immediate : Reads [
  (0x0EBD6C35, .addi 43 53 11317), (0x12BD6C35, .andi 43 53 11317), (0x16BD6C35, .ori 43 53 11317), (0x1ABD6C35, .xori 43 53 11317),
  (0x1EBD6C35, .slti 43 53 11317), (0x22BD6C35, .sltiu 43 53 11317), (0x26BD402D, .shli 43 53 45), (0x26BD502D, .shri 43 53 45),
  (0x26BD602D, .srai 43 53 45), (0x26BD702D, .rori 43 53 45), (0x2AB9C3A5, .lil 43 639909), (0x2EB88C35, .lik 43 2 35893)] := by decide +kernel
theorem test_words_float : Reads [
  (0x32BD56A0, .fadd 43 53 22 .s (.static .rdn)), (0x32BD56A1, .fsub 43 53 22 .s (.static .rdn)),
  (0x32BD56A2, .fmul 43 53 22 .s (.static .rdn)), (0x32BD56A3, .fdiv 43 53 22 .s (.static .rdn)),
  (0x32BD40A4, .fsqrt 43 53 .s (.static .rdn)), (0x32BD5685, .fmin 43 53 22 .s), (0x32BD5686, .fmax 43 53 22 .s),
  (0x32BD56A7, .fcmp 43 53 22 .s .lt), (0x32BD4088, .fkind 43 53 .s), (0x32BD7129, .fcvt 43 53 .i32 .f32 (.static .rdn)),
  (0x32BD568A, .fcopys 43 53 22 .s), (0x32BD408B, .fabs 43 53 .s), (0x32BD408C, .fneg 43 53 .s), (0x36BD5664, .ffmaD 43 53 22 25),
  (0x36BD5665, .ffmsD 43 53 22 25), (0x36BD5666, .fnmaD 43 53 22 25), (0x36BD5667, .fnmsD 43 53 22 25), (0x3ABD5664, .ffmaS 43 53 22 25),
  (0x3ABD5665, .ffmsS 43 53 22 25), (0x3ABD5666, .fnmaS 43 53 22 25), (0x3ABD5667, .fnmsS 43 53 22 25)] := by decide +kernel
theorem test_words_branch : Reads [
  (0x3F55AC35, .beq 53 22 11317), (0x4355AC35, .bne 53 22 11317), (0x4755AC35, .blt 53 22 11317), (0x4B55AC35, .bge 53 22 11317),
  (0x4F55AC35, .bltu 53 22 11317), (0x5355AC35, .bgeu 53 22 11317), (0x56B9C3A5, .call 43 639909), (0x5ABD6C35, .callr 43 53 11317)] := by decide +kernel
theorem test_words_own_row : Reads [
  (0x5EBD5CB5, .ldr 43 53 .h true 1205), (0x62BD54B5, .str 43 53 .h 1205), (0x66AD66A0, .vldr 21 53 309), (0x66BD66A0, .vstr 21 53 309)] := by decide +kernel
theorem test_words_object : Reads [
  (0x6AB02CB1, .ldo 43 22 (.acq .pkg) .h), (0x680D6DB5, .sto 53 22 (.ar .pkg) .h), (0x6AB02CB8, .ldfe 43 22 (.acq .pkg)),
  (0x6AB02CB9, .ldff 43 22 (.acq .pkg)), (0x680D6D3A, .stef 53 22 (.rel .pkg)), (0x680D6D3B, .stff 53 22 (.rel .pkg)),
  (0x68002D3C, .sete 22 (.rel .pkg))] := by decide +kernel
theorem test_words_atomic_d : Reads [
  (0x6EBD6DB0, .amoAddD 43 53 22 (.ar .pkg)), (0x6EBD6DB1, .amoAndD 43 53 22 (.ar .pkg)), (0x6EBD6DB2, .amoOrD 43 53 22 (.ar .pkg)),
  (0x6EBD6DB3, .amoXorD 43 53 22 (.ar .pkg)), (0x6EBD6DB4, .amoSminD 43 53 22 (.ar .pkg)), (0x6EBD6DB5, .amoSmaxD 43 53 22 (.ar .pkg)),
  (0x6EBD6DB6, .amoUminD 43 53 22 (.ar .pkg)), (0x6EBD6DB7, .amoUmaxD 43 53 22 (.ar .pkg)), (0x6EBD6DB8, .amoSwapD 43 53 22 (.ar .pkg)),
  (0x6EBD6DB9, .amoFaddD 43 53 22 (.ar .pkg)), (0x6EBD6DBA, .amoFminD 43 53 22 (.ar .pkg)), (0x6EBD6DBB, .amoFmaxD 43 53 22 (.ar .pkg)),
  (0x6EBD6DBC, .amoCasD 43 53 22 (.ar .pkg))] := by decide +kernel
theorem test_words_atomic_w : Reads [
  (0x72BD6DB0, .amoAddW 43 53 22 (.ar .pkg)), (0x72BD6DB1, .amoAndW 43 53 22 (.ar .pkg)), (0x72BD6DB2, .amoOrW 43 53 22 (.ar .pkg)),
  (0x72BD6DB3, .amoXorW 43 53 22 (.ar .pkg)), (0x72BD6DB4, .amoSminW 43 53 22 (.ar .pkg)), (0x72BD6DB5, .amoSmaxW 43 53 22 (.ar .pkg)),
  (0x72BD6DB6, .amoUminW 43 53 22 (.ar .pkg)), (0x72BD6DB7, .amoUmaxW 43 53 22 (.ar .pkg)), (0x72BD6DB8, .amoSwapW 43 53 22 (.ar .pkg)),
  (0x72BD6DB9, .amoFaddW 43 53 22 (.ar .pkg)), (0x72BD6DBA, .amoFminW 43 53 22 (.ar .pkg)), (0x72BD6DBB, .amoFmaxW 43 53 22 (.ar .pkg)),
  (0x72BD6DBC, .amoCasW 43 53 22 (.ar .pkg))] := by decide +kernel
theorem test_words_vector_object : Reads [
  (0x76BACB60, .vldo 21 6 22 (.acq .pkg) .z32), (0x76BADB61, .vsto 21 6 22 (.ar .pkg) .z32), (0x76BACB62, .vldb 21 6 22 (.acq .pkg) .z32)] := by decide +kernel
theorem test_words_management : Reads [
  (0x7ABD6C00, .objq 43 53 22), (0x7ABD6C01, .commit 43 53 22), (0x7AB02C02, .decommit 43 22), (0x7AB02C03, .alloc 43 22),
  (0x7ABD6C04, .free 43 53 22), (0x7ABD6C05, .reloc 43 53 22), (0x7AB02C06, .objsync 43 22), (0x7ABD6C07, .fillc 43 53 22)] := by decide +kernel
theorem test_words_row_space : Reads [
  (0x7EBD66A8, .rld 43 53 309 .acq), (0x7EBD66B1, .rst 43 53 309 .rel), (0x7EBD7E09, .hdl 43 53 .acq), (0x7EBD66AA, .ramoadd 43 53 309 .acq),
  (0x7EBD66AB, .rcas 43 53 309 .acq)] := by decide +kernel
theorem test_words_fence_message : Reads [
  (0x80000004, .fence .dom), (0x8000000C, .fenceAcq .dom), (0x80000014, .fenceRel .dom), (0x86BD6D30, .msend 43 53 22 (.rel .pkg)),
  (0x86B00001, .ibrecv 43), (0x86B00002, .ibpeek 43), (0x84000003, .ibdrop)] := by decide +kernel
theorem test_words_control : Reads [
  (0x8AB0000B, .mfc 43 11), (0x880D401B, .mtc 53 11), (0x88002D60, .live 181)] := by decide +kernel
theorem test_words_task : Reads [
  (0x8EBD6D30, .launch 43 53 22 (.rel .pkg)), (0x8C0D4131, .cntdec 53 (.rel .pkg)), (0x8C0D6D32, .cntadd 53 22 (.rel .pkg)),
  (0x8C0D40B3, .cntwait 53 (.acq .pkg)), (0x8EBD6C04, .cancel 43 53 22), (0x8C000005, .yield), (0x8C000006, .park), (0x8C000007, .exit)] := by decide +kernel
theorem test_words_system : Reads [
  (0x90002C50, .trap 709), (0x90000001, .brk), (0x92BD4002, .repart 43 53), (0x92B00003, .pair 43), (0x92B00004, .unpair 43),
  (0x92BD4005, .capr 43 53), (0x90000006, .nop)] := by decide +kernel
theorem test_words_vint : Reads [
  (0x96BA5E60, .vadd 21 26 11 6 .z32), (0x96BA5E61, .vsub 21 26 11 6 .z32), (0x96BA5E62, .vmul 21 26 11 6 .z32),
  (0x96BA5E63, .vmulh 21 26 11 6 .z32), (0x96BA5E64, .vand 21 26 11 6 .z32), (0x96BA5E65, .vor 21 26 11 6 .z32),
  (0x96BA5E66, .vxor 21 26 11 6 .z32), (0x96BA5E67, .vshl 21 26 11 6 .z32), (0x96BA5E68, .vshr 21 26 11 6 .z32),
  (0x96BA5E69, .vsra 21 26 11 6 .z32), (0x96BA5E6A, .vmin 21 26 11 6 .z32), (0x96BA5E6B, .vmax 21 26 11 6 .z32),
  (0x96BA5E6C, .vsadd 21 26 11 6 .z32), (0x96BA5E6D, .vssub 21 26 11 6 .z32), (0x96BA066E, .vabs 21 26 6 .z32),
  (0x96BA066F, .vpopc 21 26 6 .z32)] := by decide +kernel
theorem test_words_vfloat : Reads [
  (0x9ABA5E80, .vfadd 21 26 11 6 .f16), (0x9ABA5E81, .vfsub 21 26 11 6 .f16), (0x9ABA5E82, .vfmul 21 26 11 6 .f16),
  (0x9ABA5E83, .vfdiv 21 26 11 6 .f16), (0x9ABA0684, .vfsqrt 21 26 6 .f16), (0x9ABA5E85, .vfmin 21 26 11 6 .f16),
  (0x9ABA5E86, .vfmax 21 26 11 6 .f16), (0x9ABA0687, .vfabs 21 26 6 .f16), (0x9ABA0688, .vfneg 21 26 6 .f16),
  (0x9ABA5E89, .vfcopys 21 26 11 6 .f16), (0x9EBA5B72, .vfma 21 26 11 13 6 .bf16)] := by decide +kernel
theorem test_words_vselect : Reads [
  (0xA2E9791A, .vcmp 5 26 11 6 .gt .z32 .and), (0xA6BA5E60, .vsel 21 26 11 6 .z32), (0xA6BA5E61, .vperm 21 26 11 6 .z32),
  (0xA6BA5E62, .vslide 21 26 11 6 .z32), (0xA6BA5E63, .vcompress 21 26 11 6 .z32), (0xA6BA5E64, .vexpand 21 26 11 6 .z32),
  (0xAABA4EB2, .vcvt 21 26 (.static .rdn) .sat 6 .f64 .i32)] := by decide +kernel
theorem test_words_vreduce : Reads [
  (0xAEBA0662, .vred 21 26 6 .z32 .max), (0xB2E97898, .vmred 5 26 11 6 .max .z32), (0xB6BA0662, .vscan 21 26 6 .z32 .max)] := by decide +kernel
theorem test_words_vspecial : Reads [
  (0xBABA0680, .vrcp 21 26 6 .f16), (0xBABA0681, .vrsq 21 26 6 .f16), (0xBABA0682, .vexp2 21 26 6 .f16), (0xBABA0683, .vlog2 21 26 6 .f16),
  (0xBABA0684, .vsin 21 26 6 .f16), (0xBABA0685, .vcos 21 26 6 .f16), (0xBABA0686, .vtanh 21 26 6 .f16)] := by decide +kernel
theorem test_words_vscalar : Reads [
  (0xBEBA8188, .vbcast 21 53 6 .h), (0xBEBAAC09, .vins 21 53 22 .h), (0xBEBAAC0A, .vext 21 53 22 .h), (0xBCBAAC0B, .vwhile 5 53 22 .h),
  (0xBC1A8004, .vlen 53)] := by decide +kernel
theorem test_words_predicate : Reads [
  (0xC0518300, .pand 5 6 3), (0xC0518301, .por 5 6 3), (0xC0518302, .pxor 5 6 3), (0xC0518003, .pnot 5 6), (0xC2B18064, .pcnt 43 6 .z32),
  (0xC0518065, .pfirst 5 6 .z32), (0xC05D4006, .pset 5 53)] := by decide +kernel
theorem test_words_engine : Reads [
  (0xC6BD4000, .mldb 43 53), (0xC6BD4001, .mldbW 43 53), (0xCABD4000, .mmul 43 53), (0xCABD4001, .mmulW 43 53), (0xCEBD6C00, .mout 43 53 22),
  (0xD2BD4000, .mzero 43 53), (0xD2B00001, .mtest 43), (0xD2BD4002, .mstat 43 53), (0xDABD4000, .cpy 43 53), (0xDABD4001, .cpyx 43 53),
  (0xDABD4002, .cpyc 43 53), (0xDEBD4000, .gath 43 53), (0xDEBD4001, .scat 43 53), (0xDEBD4002, .scatadd 43 53), (0xE2BD4000, .jpoll 43 53),
  (0xE2BD4001, .jwait 43 53), (0xE6BD4000, .creduce 43 53), (0xEABD4000, .rseq 43 53), (0xEAB00001, .rswait 43)] := by decide +kernel

/-- Words that R281 names: no major, an unused field, a reserved function, type, rounding field, ordering, scope, or a vector form
whose type is not accepted. -/
theorem test_words_rejected :
  No 0x00000000 ∧ No 0xFFFFFFFF ∧ No 0x04518118 ∧ No 0x04000023 ∧ No 0x0800000B ∧ No 0x305187C0 ∧ No 0x3051870D ∧ No
  0x68514A03 ∧ No 0x68500B03 ∧ No 0x68500A10 ∧ No 0x68500AD3 ∧ No 0x80000005 ∧ No 0x80000018 ∧ No 0x8C000008 ∧ No
  0x90000007 ∧ No 0x946110E0 ∧ No 0x946110A0 ∧ No 0x98211020 ∧ No 0xA10441A8 ∧ No 0x88500010 ∧ No 0xC8718100 := by decide +kernel

/-- The instruction of a word is encoded by that word (R279). -/
abbrev Again (w : InsnWord) : Prop := (decode w).toOption.bind encode = some w
theorem test_encode : Again 0x04518701 ∧ Again 0x3051B019 ∧ Again 0x44518003 ∧ Again 0x7C51FE01 ∧ Again 0x7C01FF01 ∧
  Again 0x9C221909 ∧ Again 0xA10440A8 ∧ Again 0xC0304200 := by decide +kernel

/-! ## Terms that are no instruction -/

/-- Orderings that R286 does not list. -/
theorem test_ill_formed_orders : ∀ i ∈ ([.ldo 1 1 (.rel .core) .d, .ldfe 1 1 (.rel .dom), .ldff 1 1 (.rel .dom),
  .vldo 1 0 1 (.rel .dom) .i8, .vldb 1 0 1 (.rel .dom) .i8, .stef 1 1 (.acq .dom), .stff 1 1 (.acq .dom), .sete 1 (.acq .dom),
  .msend 1 2 1 (.acq .dom), .launch 1 2 1 (.ar .dom), .cntdec 1 (.acq .dom), .cntadd 1 1 (.ar .dom), .cntwait 1 (.rel .dom),
  .rld 1 2 3 .rel] : List Instr), i.wf = false := by decide +kernel

/-- Types that R283 does not list, conversions that R310 and R351 do not, RST to word 496 (which is HDL), and a
sign-extended LDR.D (R281). -/
theorem test_ill_formed_types : ∀ i ∈ ([.vadd 1 2 3 0 .f32, .vpopc 1 2 0 .e4m3, .vfadd 1 2 3 0 .i32, .vfmul 1 2 3 0 .e5m2,
  .vrcp 1 2 0 .z8, .vexp2 1 2 0 .f64, .vcmp 1 2 3 0 .eq .e4m3 .write, .vred 1 2 0 .f32 .and, .vscan 1 2 0 .e5m2 .sum,
  .vmred 1 2 3 0 .xor .f64, .vcvt 1 2 .dyn .c3 0 .f32 .f32, .vcvt 1 2 .dyn .nan 0 .i32 .f32, .fcvt 1 2 .f32 .f32 .dyn,
  .fcvt 1 2 .i64 .i32 .dyn, .rst 1 2 496 .plain, .ldr 1 2 .d true 0] : List Instr), i.wf = false := by decide +kernel

/-- A row-space packet of nothing. -/
def noRow (widx : Nat) : RowPkt := ⟨0, widx, false, 0, 0, 0, 0, false, 0⟩

/-- An access to a frame of nothing. -/
def noObj (core row off : Nat) : ObjPkt := ⟨64, 0, 0, ⟨core, row⟩, off, .retire, 0, 0, 0, 0⟩

/-- A request to a replica of nothing. -/
def noMaj (core trow granule : Nat) : MajPkt := ⟨64, 0, 0, ⟨core, 0⟩, trow, granule, 0, .read, 0, 0, 0, 0, 0, 0⟩

/-- Steps of the part at places that do not exist (R29, R51, R56, R66, R67, R69, R91, R201, R275). -/
theorem test_ill_formed_events : ∀ e ∈ ([.start (noRow 512), .corestatWrite (noRow 512), .borrowWindow 1048576 0, .refresh 0 8,
  .creditEarned 1048576, .codeRowOpen 0 128, .checkpoint 1048576 0, .longOpDone ⟨0, 128⟩, .matrixJob 2048, .subArrayFault 2048 0,
  .stackFailure 16, .temperatureSensor 16 true, .dispatch 2048, .counterDecrement 65536 false 0, .counterWrite 65536 0 false,
  .partitionEnable 64, .vfReset 64, .hsem 2 0, .firmwareStage 2 [] true, .memberWithdrawal 256 0, .collectiveCombine 256,
  .bitError ⟨0, 0⟩ 512 false, .bitError ⟨1048576, 0⟩ 0 true, .admission (noObj 1048576 0 0), .objectAccessArrival (noObj 0 0 4096),
  .tagAndGranuleRead (noMaj 0 128 0), .phase2Write (noMaj 0 0 64), .majorityAnswer (noMaj 1048576 0 0) .accept,
  .contribution 256 0 [] [], .hostRow 64 .read 0 0 0 0, .hostRow 0 .read 0 512 0 0, .hostRead 64 0] : List Event),
  e.wf = false := by decide +kernel

/-! ## Small states -/

/-- A RUN thread of core 0, row 0, in its open row, at the first word of its code, a NOP. -/
def base : State := State.reset.withFetchWord 32 0x90000006

/-- No word is poisoned and none holds a bit error. -/
abbrev Clean (s : State) : Prop := s.poison = [] ∧ s.bitErrs = []

theorem readable {s : State} (h : Clean s) (ws : List Nat) : Readable s ws := fun w _ => by
  simp [isPoisoned, h.1, h.2]

/-- On a clean state every premise on readable words holds. -/
theorem sreadable {s : State} (h : Clean s) (th : Thr) (rs : List SReg) : SReadable s th rs := ⟨readable h _, readable h _⟩

theorem base_clean : Clean base := by decide +kernel

/-- The base state with s1 = x and s2 = y. -/
def with2 (x y : Word) : State := setS (setS base base.cur 1 x) base.cur 2 y

/-- What is left of an outcome. -/
def after (o : Out) (f : State → Bool) : Bool := match o with | .next t => f t | .fault _ => false | .refused _ => false

/-! ## Single steps -/

/-- The step fetches the word placed, runs it and goes on (R278): PC 4, c14 1. -/
theorem test_step_nop : after (step base) (fun t => pcOf t base.cur = 4 ∧ getC t base.cur 14 = 1) = true := by decide +kernel
/-- R298: ADD wraps, SLT is signed and SLTU is not. -/
theorem test_add_wraps : after (exec (.add 3 1 2) (with2 0xFFFFFFFFFFFFFFFF 2)) (fun t => getS t base.cur 3 = 1) = true := by decide +kernel
theorem test_slt_signed : after (exec (.slt 3 1 2) (with2 0xFFFFFFFFFFFFFFFF 2)) (fun t => getS t base.cur 3 = 1) = true ∧
  after (exec (.sltu 3 1 2) (with2 0xFFFFFFFFFFFFFFFF 2)) (fun t => getS t base.cur 3 = 0) = true := by decide +kernel
/-- R298: a shift takes the low six bits of its amount; SRA keeps the sign. -/
theorem test_shifts : after (exec (.shl 3 1 2) (with2 1 65)) (fun t => getS t base.cur 3 = 2) = true ∧
  after (exec (.sra 1 1 2) (with2 0x8000000000000000 63)) (fun t => getS t base.cur 1 = 0xFFFFFFFFFFFFFFFF) = true := by decide +kernel
/-- R221: SADD clamps and sets SAT, bit 5 of c3. -/
theorem test_sadd : after (exec (.sadd 3 1 2) (with2 0x7FFFFFFFFFFFFFFF 1))
  (fun t => getS t base.cur 3 = 0x7FFFFFFFFFFFFFFF ∧ getC t base.cur 3 = 0x20) = true := by decide +kernel
/-- R299: the high half of −1 times 2 is −1 signed and 1 unsigned. -/
theorem test_mulh : after (exec (.mulh 3 1 2) (with2 0xFFFFFFFFFFFFFFFF 2)) (fun t => getS t base.cur 3 = 0xFFFFFFFFFFFFFFFF) = true ∧
  after (exec (.mulhu 3 1 2) (with2 0xFFFFFFFFFFFFFFFF 2)) (fun t => getS t base.cur 3 = 1) = true := by decide +kernel
/-- R220, R297: a division holds its thread 36 cycles; by zero the quotient is all ones, MIN by −1 wraps. -/
theorem test_div : after (exec (.div 3 1 2) (with2 7 0))
    (fun t => (getThr t base.cur).long = some ⟨base.now + 36, .s 3 0xFFFFFFFFFFFFFFFF, 0⟩) = true ∧
  after (exec (.div 3 1 2) (with2 0x8000000000000000 0xFFFFFFFFFFFFFFFF))
    (fun t => (getThr t base.cur).long = some ⟨base.now + 36, .s 3 0x8000000000000000, 0⟩) = true := by decide +kernel
/-- R20: s0 reads 0, and a write to it is discarded. -/
theorem test_s0 : after (exec (.add 0 1 2) (with2 1 2)) (fun t => getS t base.cur 0 = 0 ∧ pcOf t base.cur = 4) = true := by decide +kernel
/-- R302, R303: LIL sign-extends 20 bits; LIK replaces one chunk of 16. -/
theorem test_lil_lik : after (exec (.lil 3 0x80000) base) (fun t => getS t base.cur 3 = 0xFFFFFFFFFFF80000) = true ∧
  after (exec (.lik 1 2 0x1234) (with2 0xFFFFFFFFFFFFFFFF 0)) (fun t => getS t base.cur 1 = 0xFFFF1234FFFFFFFF) = true := by
  decide +kernel
/-- R304: a taken branch of −1 words from PC 0 wraps modulo 2^32; one not taken goes on. -/
theorem test_branch : after (exec (.beq 1 2 0x3FFF) (with2 5 5)) (fun t => pcOf t base.cur = 4294967292) = true ∧
  after (exec (.beq 1 2 0x3FFF) (with2 5 6)) (fun t => pcOf t base.cur = 4) = true := by decide +kernel
/-- R306: CALLR reads its target before it writes the link, and traps MISALIGNED (cause 7) on a target that is no multiple of 4. -/
theorem test_callr : after (exec (.callr 1 1 0) (with2 16 0)) (fun t => pcOf t base.cur = 16 ∧ getS t base.cur 1 = 4) = true ∧
  after (exec (.callr 1 1 1) (with2 16 0)) (fun t => tstate t base.cur = stTrapped ∧ getS t base.cur 1 = 16) = true := by
  decide +kernel
/-- R307: 1 + 1 is 2 in either precision, and 1 / 3 is inexact in .s under truncation. -/
theorem test_fadd : after (exec (.fadd 3 1 1 .d .dyn) (with2 0x3FF0000000000000 0)) (fun t => getS t base.cur 3 = 0x4000000000000000) = true ∧
  after (exec (.fadd 3 1 1 .s .dyn) (with2 0x3F800000 0)) (fun t => getS t base.cur 3 = 0x40000000) = true := by decide +kernel
/-- R308, R310: LT holds between −1 and 1; FCVT to i32 under truncation of −1.5 is −1, sign-extended and inexact (NX, bit 4). -/
theorem test_fcmp_fcvt : after (exec (.fcmp 3 1 2 .d .lt) (with2 0xBFF0000000000000 0x3FF0000000000000)) (fun t => getS t base.cur 3 = 1) = true ∧
  after (exec (.fcvt 3 1 .i32 .f64 (.static .rtz)) (with2 0xBFF8000000000000 0)) (fun t => getS t base.cur 3 = 0xFFFFFFFFFFFFFFFF) = true := by
  decide +kernel
/-- R324: a store at the last bytes before the control block, and the same read back sign-extended; into the block it traps. -/
theorem test_own_row : after (exec (.str 1 2 .h 0) (with2 0x8001 3966)) (fun t =>
    after (exec (.ldr 3 2 .h true 0) t) fun u => getS u base.cur 3 = 0xFFFFFFFFFFFF8001) = true ∧
  after (exec (.str 1 2 .h 0) (with2 0x8001 3968)) (fun t => tstate t base.cur = stTrapped) = true := by decide +kernel
/-- R313: MTC c7 is privileged; R312: c5 reads with bits 62 and 63 set. -/
theorem test_mtc_priv : after (exec (.mtc 1 7) (with2 0xFFFF 0)) (fun t => tstate t base.cur = stTrapped) = true ∧
  after (exec (.mfc 3 5) base) (fun t => getS t base.cur 3 = 0xC000000000000000) = true := by decide +kernel
/-- R115, R315: TRAP #5 leaves the thread TRAPPED at its PC. -/
theorem test_trap : after (exec (.trap 5) base) (fun t => tstate t base.cur = stTrapped ∧ pcOf t base.cur = 0) = true := by decide +kernel

/-! ## Premises are met: scalar instructions and traps -/

/-- The base state with a control word. -/
def withC (n : Nat) (x : Word) : State := setC base base.cur n x
theorem withC_clean : Clean (withC 7 0x10000) ∧ Clean (withC 1 (BitVec.ofNat 64 (64 * 4294967296 + 4096))) := by decide +kernel

/-- IntegerArithmetic, DivisionResults, ShiftAndLongImmediates, ControlTransfers, FloatArithmetic: any registers at all. -/
theorem test_meets_scalar (d a b c : SReg) : SReadable base base.cur [a, b, c] ∧ SReadable base base.cur [a, b] ∧
    SReadable base base.cur [a] ∧ SReadable base base.cur [d] ∧ RetireReadable base base.cur ∧ Claims.FReadable base [a, b, c] ∧
    Claims.FReadable base [a, b] :=
  ⟨sreadable base_clean _ _, sreadable base_clean _ _, sreadable base_clean _ _, sreadable base_clean _ _,
    readable base_clean _, ⟨sreadable base_clean _ _, readable base_clean _⟩, ⟨sreadable base_clean _ _, readable base_clean _⟩⟩

/-- IntegerArithmetic: sums that clamp and one that does not; each is at the boundary. -/
theorem test_meets_saturation :
    (Claims.clamp64 (9223372036854775807 + 1)).2 ≠ 0 ∧ (Claims.clamp64 9223372036854775807).2 = 0 ∧
    (Claims.clamp64 (-9223372036854775808)).2 = 0 ∧ (Claims.clamp64 (-9223372036854775808 - 1)).2 ≠ 0 ∧
    (Readable base [cAddr base.cur 3]) :=
  ⟨by decide, by decide, by decide, by decide, readable base_clean _⟩

/-- ControlTransfers: PC just beyond the code of 1,024 instructions; CALLR to a multiple of 4 and to none. -/
theorem test_meets_transfers :
    (let s := withC 1 (BitVec.ofNat 64 (64 * 4294967296 + 4096))
     Readable s [cAddr s.cur 0, cAddr s.cur 1, cAddr s.cur 11] ∧
     codeBytes s s.cur.core (codeOf s s.cur) ≤ pcOf s s.cur ∧ (getC s s.cur 11).getLsbD 0 = false) ∧
    (((getS base base.cur 5).toNat + (0x2000#14).toInt) % 4294967296).toNat % 4 = 0 ∧
    (((getS base base.cur 5).toNat + (0x3FFF#14).toInt) % 4294967296).toNat % 4 ≠ 0 :=
  ⟨⟨readable withC_clean.2 _, by decide +kernel, by decide +kernel⟩, by decide +kernel, by decide +kernel⟩

/-- Rounding: one bit below the last place kept, with and without a remainder; the least subnormal of f64 and the greatest
finite number of f16. -/
theorem test_meets_rounding : 0 < 1 ∧ 2 % 2 ^ 1 = 0 ∧ 3 % 2 ^ 1 ≠ 0 ∧ 1 < 2 ^ FFmt.f64.width ∧
    FFmt.f64.unpack false 1 = .fin false 1 (-1074) ∧ 0x7BFF < 2 ^ FFmt.f16.width ∧
    FFmt.f16.unpack false 0x7BFF = .fin false 2047 5 := by decide +kernel

/-- ControlWords: MTC c7 by a thread without PRIV, and by one with it; any other word. -/
theorem test_meets_control (a : SReg) (n : BitVec 4) :
    SReadable base base.cur [a] ∧ (getThr base base.cur).stepping = false ∧ isPriv base base.cur = false ∧
    RetireReadable base base.cur ∧ Readable base [cAddr base.cur n.toNat] ∧
    (let s := withC 7 0x10000
     SReadable s s.cur [a] ∧ (getThr s s.cur).stepping = false ∧ isPriv s s.cur = true) :=
  ⟨sreadable base_clean _ _, by decide +kernel, by decide +kernel, readable base_clean _, readable base_clean _,
    sreadable withC_clean.1 _ _, by decide +kernel, by decide +kernel⟩

/-- Two threads of core 0 as a pair, and a thread with an intake row. -/
def paired : State := { base with pairs := [{ leader := ⟨0, 0⟩, follower := partnerOf ⟨0, 0⟩ }] }
def takenIn : State := setC base base.cur 12 (refOf base ⟨1, 0⟩).toNat

/-- TrapsTaken: a thread without a supervisor, one whose supervisor's row is another core's, an illegal word, and a side of a
pair. -/
theorem test_meets_traps : (pairOf base base.cur = none ∧ base.cur.row ≠ 84 ∧ getC base base.cur 12 = 0 ∧
      (getPart base (slotOf base (tileOf base.cur.core))).suprow = 0) ∧
    (let s := takenIn
     let q := getC s s.cur 12
     pairOf s s.cur = none ∧ s.cur.row ≠ 84 ∧ q ≠ 0 ∧ refDev q = s.io.devid.toNat ∧ corePresent s (refCore q) = true ∧
     stackDown s (stackOf (refCore q)) = false) ∧
    { base with doing := some (.illegalInsn 0) }.doing = some (.illegalInsn 0) ∧
    pairOf paired base.cur = some { leader := ⟨0, 0⟩, follower := partnerOf ⟨0, 0⟩ } := by decide +kernel
theorem test_meets_trap_record (ws : List Nat) : Readable takenIn ws ∧ Readable base ws :=
  ⟨readable (by decide +kernel) _, readable base_clean _⟩

/-- OwnRowAccesses: byte 4095 as the last one to be read, byte 3967 as the last one to be stored, and the traps beside them. -/
theorem test_meets_own_row (d a : SReg) (v : VReg) (h : v.toNat < 16) :
    SReadable base base.cur [a, d] ∧ SReadable base base.cur [a] ∧ Claims.VLegal base [v] ∧
    Readable base (wordsOf (vAddr base.cur v.toNat) 32) ∧ (∀ n, Readable base (wordsOf (ownAddr base.cur n) 8)) ∧
    Claims.ownFault base 4095 1 false = none ∧ Claims.ownFault base 4096 1 false = some .rowProtect ∧
    Claims.ownFault base 3967 1 true = none ∧ Claims.ownFault base 3968 1 true = some .rowProtect ∧
    Claims.ownFault base (-1) 1 false = some .rowProtect ∧ Claims.ownFault base 1 2 false = some .misaligned ∧
    Claims.ownFault base 4064 32 false = none ∧ Claims.ownFault base 3936 32 true = none ∧
    (let s := { base with cur := ⟨0, 84⟩ }
     Claims.ownFault s 1055 1 true = none ∧ Claims.ownFault s 1056 1 true = some .rowProtect ∧ Claims.ownFault s 3967 1 true = some .rowProtect ∧
       Claims.ownFault s 3936 8 false = none) :=
  ⟨sreadable base_clean _ _, sreadable base_clean _ _, .inr fun w hw => by simp_all, readable base_clean _,
    fun _ => readable base_clean _, by decide +kernel, by decide +kernel, by decide +kernel, by decide +kernel, by decide +kernel,
    by decide +kernel, by decide +kernel, by decide +kernel, by decide +kernel⟩

/-! ## Premises are met: vectors -/

/-- The base state with v1 = x and v2 = y, and one with a wide thread (c7 WIDE, R24). -/
def withV (x y : Vec) : State := setV (setV base base.cur 1 x) base.cur 2 y
def wide : State := withC 7 0x20000
theorem wide_clean : Clean wide := by decide +kernel

theorem vreadable {s : State} (h : Clean s) (named read : List VReg) (ps : List PReg) (ws : List Nat)
    (l : Claims.VLegal s named) : Claims.VReadable s named read ps ws := ⟨readable h _, l, readable h _⟩

/-- VectorIntegers, VectorFloats, VectorLongResults, VectorPredicates, VectorMoves, VectorReductions: v15 is the last register of
a narrow thread, and a wide one has all. -/
theorem test_meets_vector (v a b c : VReg) (g d : PReg) (x y : SReg) :
    Claims.VReadable base [15, 0, 15] [0, 15] [g] [] ∧ Claims.VReadable wide [v, a, b] [a, b] [g] [] ∧
    Claims.VReadable wide [v, a, b, c] [a, b, c] [g] [cAddr wide.cur 3] ∧ Claims.VReadable wide [v, a] [a] [g] [cAddr wide.cur 3] ∧
    Claims.VReadable wide [a, b] [a, b] [g, d] [cAddr wide.cur 3] ∧ Claims.VReadable wide [v] [v] [g] [] ∧
    Claims.PReadable base [g, d] ∧ SReadable wide wide.cur [x, y] ∧ SReadable base base.cur [x] ∧
    isWide base base.cur = false ∧ 16 ≤ (16#5).toNat :=
  have w : ∀ l, Claims.VLegal wide l := fun _ => .inl (by decide +kernel)
  ⟨vreadable base_clean _ _ _ _ (.inr (by decide)), vreadable wide_clean _ _ _ _ (w _), vreadable wide_clean _ _ _ _ (w _),
    vreadable wide_clean _ _ _ _ (w _), vreadable wide_clean _ _ _ _ (w _), vreadable wide_clean _ _ _ _ (w _),
    ⟨readable base_clean _, readable base_clean _⟩, sreadable wide_clean _ _, sreadable base_clean _ _,
    by decide +kernel, by decide⟩

/-- The types, operations and conversions that the vector statements name; the last lane, and the first beyond it. -/
theorem test_meets_types : VType.z64.isInt = true ∧ VType.f16.isArith = true ∧ VType.f64.isArith = true ∧ VType.f32 ≠ .f64 ∧
    (VType.f32.isInt || VType.f32.isArith) = true ∧ cvtOk .e4m3 .f32 .nan = true ∧ cvtOk .i32 .f32 .sat = true ∧
    Claims.redOk .xor .i8 ∧ Claims.redOk .max .f64 ∧ (3 : Word).toNat < 32 / Size.d.bytes ∧ 32 / Size.d.bytes ≤ (4 : Word).toNat ∧
    (fmtOf .f32).unpack false (fmtOf .f32).nan = .nan false :=
  ⟨by decide, by decide, by decide, by decide, by decide, by decide, by decide, .inl (by decide), .inr ⟨by decide, trivial⟩,
    by decide, by decide, by decide +kernel⟩

/-- R346: VADD.i8 wraps in its lane and VSADD.i8 clamps. -/
theorem test_vadd : after (exec (.vadd 3 1 2 0 .i8) (withV 0xFF7F 0x0101)) (fun t => (getV t base.cur 3).setWidth 16 = 0x0080#16) = true ∧
  after (exec (.vsadd 3 1 2 0 .i8) (withV 0xFF7F 0x0101)) (fun t => (getV t base.cur 3).setWidth 16 = 0x007F#16 ∧
    getC t base.cur 3 = 0x20) = true := by decide +kernel
/-- R349, R358: LT on lanes of 4 bytes sets whole groups; PCNT counts elements. -/
theorem test_vcmp : after (exec (.vcmp 2 1 2 0 .lt .i32 .write) (withV 1 0x0000000100000002)) (fun t =>
    getP t base.cur 2 = 0xFF ∧ after (exec (.pcnt 3 2 .i32) t) fun u => getS u base.cur 3 = 2) = true := by decide +kernel
/-- R352: VRED.MAX.i64 writes lane 0 and zeroes the rest. -/
theorem test_vred : after (exec (.vred 3 1 0 .i64 .max) (withV (5#64 ++ 9#64 ++ 7#64 ++ 1#64) 0))
    (fun t => getV t base.cur 3 = 9) = true := by decide +kernel
/-- R40: v16 is no register of a narrow thread. -/
theorem test_narrow : after (exec (.vadd 16 1 2 0 .i8) base) (fun t => tstate t base.cur = stTrapped) = true ∧
    after (exec (.vadd 16 1 2 0 .i8) wide) (fun t => tstate t base.cur = stRun) = true := by decide +kernel

/-! ## Premises are met: instructions that go beyond the own row -/

/-- A handler's state: its thread is row 84; and a thread with PRIV. -/
def handler : State := { base with cur := ⟨0, 84⟩ }
def priv : State := withC 7 0x10000
theorem handler_clean : Clean handler := by decide +kernel

theorem breadable {s : State} (h : Clean s) (rs : List SReg) : Claims.BReadable s rs := ⟨sreadable h _ _, readable h _⟩

/-- ObjectAccesses, ObjectAndRowInstructions, FencesAndWaitsIssue, EngineCommands, TaskAndSystemInstructions: threads, handlers and
privileged threads, with any registers. -/
theorem test_meets_issue (rs : List SReg) (ws : List Nat) :
    Claims.BReadable base rs ∧ Claims.BReadable handler rs ∧ Claims.BReadable priv rs ∧ Readable base ws ∧
    Claims.Alone base ∧ Claims.Alone handler ∧ Claims.Alone priv ∧ base.cur.row ≠ 84 ∧ handler.cur.row = 84 ∧
    isPriv base base.cur = false ∧ isPriv priv priv.cur = true ∧ Claims.VLegal base [15] :=
  ⟨breadable base_clean _, breadable handler_clean _, breadable withC_clean.1 _, readable base_clean _,
    ⟨by decide +kernel, by decide +kernel⟩, ⟨by decide +kernel, by decide +kernel⟩, ⟨by decide +kernel, by decide +kernel⟩,
    by decide +kernel, by decide +kernel, by decide +kernel, by decide +kernel, .inr (by decide)⟩

/-- Requests have names: none is outstanding. -/
abbrev NamedD (s : State) : Prop := 0 < s.nextReq ∧ ∀ r ∈ s.reqs, r.id < s.nextReq
theorem named {s : State} (h : NamedD s) : s.Named := h
theorem test_meets_named : State.Named base ∧ State.Named priv := ⟨named (by decide +kernel), named (by decide +kernel)⟩

/-- Blocks of 64 and 32 bytes at both ends of bytes 1056 to 3967, and beyond them; references and offsets of the other commands. -/
theorem test_meets_blocks : Claims.blockOk 1056 64 ∧ Claims.blockOk 3904 64 ∧ Claims.blockOk 3936 32 ∧ 1055 < 1056 ∧ 3968 < 3905 + 64 ∧
    (1056 ≤ 1057 ∧ 1057 + 64 ≤ 3968 ∧ 1057 % 8 ≠ 0) ∧ (62#6).toNat % 2 = 0 ∧ (63#6).toNat % 2 = 1 ∧ (30#5).toNat ≠ 31 ∧ (31#5).toNat = 31 ∧
    (0xFFFFF#64).toNat % 2 ^ 32 < 2 ^ 20 ∧ (0x1000FFFFF#64).toNat < 2 ^ 33 ∧ 2 ^ 20 ≤ (0x100000#64).toNat % 2 ^ 32 ∧
    (0x1001#64).toNat % 8 ≠ 0 ∧ 0x1000 ≤ (0x1001#64).toNat ∧ (0xFFF#64).toNat < 0x1000 ∧ (2 : Word).toNat % 256 = 2 := by
  simp only [Claims.blockOk]; decide

/-- R322, R327: LDO parks with KIND MEM, LDFE with KIND FE; R108: LDFE traps in a handler. -/
theorem test_parks : after (exec (.ldo 3 1 .plain .d) (with2 0 64)) (fun t => tstate t base.cur = stParked ∧ getC t base.cur 2 = 0x401A01) = true ∧
  after (exec (.ldfe 3 1 .plain) (with2 0 64)) (fun t => getC t base.cur 2 = 0x400802) = true ∧
  after (exec (.ldfe 3 1 .plain) handler) (fun t => bits (getC t handler.cur 10) 32 32 = Cause.illegalInsn.code) = true := by decide +kernel
/-- R331: OBJSYNC is privileged; R333: HDL is a write of word 496. -/
theorem test_privilege : after (exec (.objsync 3 1) base) (fun t => tstate t base.cur = stTrapped) = true ∧
  after (exec (.objsync 3 1) (setS priv priv.cur 2 64)) (fun t => tstate t base.cur = stParked) = true ∧
  after (exec (.hdl 1 2 .plain) (with2 5 0)) (fun t => t.reqs.map (fun r => (r.x, r.z)) = [(5, 496)]) = true := by decide +kernel
/-- R362: a block below byte 1056 takes ROW_PROTECT; one at 1056 is a job of the tile's matrix engine. -/
theorem test_block : after (exec (.mmul 3 1) (with2 1055 0)) (fun t => tstate t base.cur = stTrapped) = true ∧
  after (exec (.mmul 3 1) (with2 1056 0)) (fun t => (getTile t 0).jobs.length = 1) = true := by decide +kernel
/-- R376: EXIT parks as MEM for its fence; with nothing to fence it is DONE in the same turn. -/
theorem test_exit : after (exec .exit base) (fun t => tstate t base.cur = stDone) = true := by decide +kernel

/-! ## Premises are met: heddle commands and outside accesses -/

/-- What an outcome leaves; the base state where it is none. -/
def next (o : Out) : State := match o with | .next t => t | .fault _ => base | .refused _ => base

/-- The thread of the base state with KEY 5, in a state of R27; and a packet of the host for a word of its row, or of row r of its
core. -/
def owned (st : Nat) : State := setC (withC 7 5) base.cur 0 (BitVec.ofNat 64 (16 * st))
def pkt (row widx : Nat) (x y : Word) : RowPkt := ⟨BitVec.ofNat 64 (5 * 2 ^ 48 + row), widx, true, 127, 0, x, y, false, 0⟩

/-- The premises of `Reaches`, in a form that can be decided. -/
abbrev ReachesD (s : State) (p : RowPkt) : Prop :=
  rowCheck s p .write = none ∧ p.widx = 496 ∧ pktHome s p = refThr p.ref ∧ pairOf s (refThr p.ref) = none ∧
  (getThr s (refThr p.ref)).long = none ∧ (getThr s (refThr p.ref)).cmds = [] ∧ (getThr s (refThr p.ref)).reply = none ∧
  s.bitErrs = [] ∧ (p.stored = false ∧ p.old = 0 ∧ p.y = 0) ∧
  (reqOf s (refThr p.ref)).all (fun r => r.id != p.req) = true

theorem reaches {s : State} {p : RowPkt} (h : ReachesD s p) : Claims.Reaches s p where
  check := h.1
  word := h.2.1
  home := h.2.2.1
  alone := h.2.2.2.1
  long := h.2.2.2.2.1
  cmds := h.2.2.2.2.2.1
  reply := h.2.2.2.2.2.2.1
  key e he := by rw [h.2.2.2.2.2.2.2.1] at he; cases he
  first := h.2.2.2.2.2.2.2.2.1
  other r e := by simpa [e] using h.2.2.2.2.2.2.2.2.2

/-- Heddle: each command on a RUN, an IDLE, a TRAPPED and a DONE thread; a REDIRECT to the last word of the code and one beyond. -/
theorem test_meets_heddle : (∀ st ∈ [1, 2, 4, 6], ∀ e ∈ (Claims.plainCommands (pkt 0 496 0 0)).map (·.1),
      let s := { owned st with doing := some e }
      ReachesD s (pkt 0 496 0 0) ∧ tstate s (refThr (pkt 0 496 0 0).ref) = st) ∧
    (∀ n ∈ [1023, 1024], ∀ c ∈ [Event.redirect, Event.heddleCancel],
      let p := pkt 0 496 (BitVec.ofNat 64 (n * 65536 + 3)) 0
      let s := { owned 4 with doing := some (c p) }
      ReachesD s p ∧ tstate s (refThr p.ref) ≠ 3 ∧
        (4 * bits p.x 16 32 < codeBytes (storeHeddle s (refThr p.ref) p.x) 0 (codeOf s (refThr p.ref)) ↔ n = 1023)) := by
  decide +kernel

/-- The same thread parked on a load, on a COMMIT, and with KIND 8. -/
def parkedOn (i : Instr) : State := next (exec i (setS (owned 2) base.cur 2 64))
def kind8 : State := setC (owned 3) base.cur 2 8

/-- Heddle: commands on a parked thread. -/
theorem test_meets_heddle_parked : let p := pkt 0 496 0 0
    let ldo := Instr.ldo 3 1 .plain .d
    let com := Instr.commit 3 4 1
    (∀ e ∈ [Event.start p, .step p, .reservedCommand p, .resume p, .stop p, .redirect p, .heddleCancel p],
      let s := { parkedOn ldo with doing := some e }
      ReachesD s p ∧ tstate s (refThr p.ref) = 3 ∧ bits (getC s (refThr p.ref) 2) 0 4 ≠ 8 ∧
        (reqOf s (refThr p.ref)).map (·.insn) = some ldo) ∧
    (let s := { kind8 with doing := some (.resume p) }
     ReachesD s p ∧ tstate s (refThr p.ref) = 3 ∧ bits (getC s (refThr p.ref) 2) 0 4 = 8) ∧
    (∀ e ∈ [Event.stop p, .redirect p, .heddleCancel p], let s := { parkedOn com with doing := some e }
     ReachesD s p ∧ tstate s (refThr p.ref) = 3 ∧ (reqOf s (refThr p.ref)).map (·.insn) = some com) := by decide +kernel
/-- Heddle: a REDIRECT of a parked thread to the last word of the code, before and after its load is withdrawn, and one beyond. -/
theorem test_meets_redirect : ∀ n ∈ [1023, 1024], let p := pkt 0 496 (BitVec.ofNat 64 (n * 65536 + 3)) 0
    let s := { parkedOn (.ldo 3 1 .plain .d) with doing := some (.redirect p) }
    let w := storeHeddle s ⟨0, 0⟩ p.x
    ReachesD s p ∧ tstate s ⟨0, 0⟩ = 3 ∧ (4 * bits p.x 16 32 < codeBytes w 0 (codeOf s ⟨0, 0⟩) ↔ n = 1023) ∧
      (reqOf s ⟨0, 0⟩).all (fun r => n == 1024 || decide (4 * n < codeBytes (unpark (withdrawReq w r) ⟨0, 0⟩) 0 (codeOf s ⟨0, 0⟩))) = true := by
  decide +kernel

/-- The premises of `Free`, in a form that can be decided. -/
abbrev FreeD (s : State) (p : RowPkt) (f : RowFn) : Prop :=
  rowCheck s p f = none ∧ pairOf s (pktHome s p) = none ∧ p.widx < 512 ∧ s.bitErrs = [] ∧
  s.reqs.all (fun r => r.insn != .park) = true

theorem free {s : State} {p : RowPkt} {f : RowFn} (h : FreeD s p f) : Claims.Free s p f where
  check := h.1
  alone := h.2.1
  bound := h.2.2.1
  clean e he := by rw [h.2.2.2.1] at he; cases he
  awake r hr _ := by simpa using List.all_eq_true.mp h.2.2.2.2 r hr

/-- The four accesses with what each asks of the key check. -/
def outside (p : RowPkt) : List (Event × RowFn) :=
  [(.outsideRead p, .read), (.outsideWrite p, .write), (.outsideRamoadd p, .add), (.outsideRcas p, .cas)]

/-- RowSpaceAccesses, ConstantRegisters: words 1, 127, 129 and 495 as row data; words 0, 128, 503 and 511 as the others. -/
theorem test_meets_outside : (∀ w ∈ [1, 127, 129, 495], ∀ ef ∈ outside (pkt 0 w 1 2),
      let s := { owned 1 with doing := some ef.1 }
      FreeD s (pkt 0 w 1 2) ef.2 ∧ isPoisoned s (rowAddr 0 0 + 8 * w) = false) ∧
    (∀ w ∈ [0, 128], ∀ ef ∈ outside (pkt 0 w 1 2),
      let s := { owned 1 with doing := some ef.1 }
      FreeD s (pkt 0 w 1 2) ef.2 ∧ homeRow (getCore s 0) 0 = 0) ∧
    (∀ w ∈ [503, 511], FreeD { owned 1 with doing := some (.outsideRead (pkt 0 w 1 2)) } (pkt 0 w 1 2) .read) := by decide +kernel
theorem test_meets_row_data : Claims.rowData (owned 1) 0 0 495 ∧ Claims.rowData (owned 1) 0 0 129 :=
  ⟨⟨by decide, fun _ => by decide⟩, ⟨by decide, fun _ => by decide⟩⟩
/-- RowSpaceAccesses: CORESTAT of a core whose tile is of the partition with KEY 5, with PRIV and without. -/
theorem test_meets_corestat : ∀ b ∈ [true, false], let p := { pkt 84 492 0 0 with priv := b }
    let s := { modPart (owned 1) 0 (fun q => { q with key := 5 }) with doing := some (.corestatWrite p) }
    refRow p.ref = 84 ∧ p.widx = 492 ∧ refKey p.ref ≠ 0 ∧ bits p.ref 46 2 = 0 ∧ corePresent s (refCore p.ref) = true ∧
      refKey p.ref = partKey s (tileOf (refCore p.ref)) := by decide +kernel
/-- KeyChecks: another KEY is turned away, by every access and every heddle step; the right one passes. -/
theorem test_meets_keys : let p := { pkt 0 496 0 0 with ref := BitVec.ofNat 64 (6 * 2 ^ 48) }
    (∀ ef ∈ outside p ++ [(.corestatWrite p, .write), (.start p, .write), (.stop p, .write), (.redirect p, .write), (.resume p, .write),
        (.step p, .write), (.heddleCancel p, .write), (.heddleNone p, .write), (.reservedCommand p, .write)],
      let s := { owned 1 with doing := some ef.1 }
      (rowCheck s p ef.2).isSome ∧ Clean s ∧ p.sender ≠ 0) ∧
    rowCheck (owned 1) (pkt 0 503 0 0) .write = none ∧ refRow (pkt 0 503 0 0).ref ≠ 84 := by decide +kernel
/-- ConstantRegisters: own-row bytes 0 to 7 and 1024 to 1027 through s2. -/
theorem test_meets_constants : ∀ a ∈ [0, 7, 1024, 1027], let s := with2 0 (BitVec.ofNat 64 a)
    Clean s ∧ Claims.ownSum s 2 0 = a ∧ Claims.ownSum s 2 0 % Size.b.bytes = 0 := by decide +kernel

/-! ## Premises are met: rows, credits, refresh, code rows and gating -/

theorem look_all {α : Type} {p : α → Bool} {d : α} (hd : p d = true) :
    ∀ l : List (Nat × α), l.all (fun x => p x.2) = true → ∀ n, p (look d l n) = true
  | [], _, _ => hd
  | (k, x) :: l, h, n => by
    simp only [List.all_cons, Bool.and_eq_true] at h
    unfold look
    split
    · exact h.1
    · exact look_all hd l h.2 n

/-- Every core that the state lists has its eight subarrays, and so has every other. -/
theorem subarrays {s : State} (h : s.cores.all (fun x => x.2.subs.length == 8) = true) : State.Subarrays s := fun n => by
  have := look_all (p := fun c : CoreSt => c.subs.length == 8) (d := freshCore s.now) (by simp [freshCore]) s.cores h n
  simpa [getCore] using this

/-- The base state performing a step, with subarray 0 of core 0 in a mode, rows 0 and 1 in states of R27 (0 for FREE), and more. -/
def rowsAt (e : Event) (m : SubMode) (st0 st1 : Nat) (f : CoreSt → CoreSt := id) : State :=
  { modCore (modSub (setC (setC (withC 7 5) ⟨0, 0⟩ 0 (BitVec.ofNat 64 (16 * st0))) ⟨0, 1⟩ 0 (BitVec.ofNat 64 (16 * st1))) 0 0
      fun x => { x with mode := m }) 0 f with doing := some e }

/-- Subarrays, for the states below. -/
abbrev Eight (s : State) : Prop := s.cores.all (fun x => x.2.subs.length == 8) = true

/-- The premises of `NoneWaits` on core 0, in a form that can be decided. -/
abbrev NoneWaitsD (s : State) : Prop := creditWaits s 0 = [] ∧ seqWaits (getCore s 0) s.now = false
theorem noneWaits {s : State} (h : NoneWaitsD s) : Claims.NoneWaits s 0 := h

/-- Row 0 has used a quantum of one. -/
def usedUp (c : CoreSt) : CoreSt := { c with thr := [(0, { quantum := 1, issued := 1 })] }

/-- RowClosing: a DONE thread's row, and a RUN thread's row beside a waiting one, once its quantum is used; each kind of close. -/
theorem test_meets_closing : (∀ e ∈ [Event.quantumExpiry 0 0, .memParkExpiry 0 0, .treadleClose 0 0], ∀ st ∈ [2, 6],
      let s := rowsAt e (.opened 0) st 2 usedUp
      Eight s ∧ Claims.mode s 0 0 = .opened 0 ∧ (getThr s ⟨0, 0⟩).long = none ∧ (getThr s ⟨0, 0⟩).yielded = false ∧
        (closing s 0 0 0).isSome ∧ tstate s ⟨0, 0⟩ = st) ∧
    (∀ a ∈ [After.free, .served], let s := rowsAt (.rowClose 0 0) (.closing 0 a) 6 0
     Eight s ∧ Claims.mode s 0 0 = .closing 0 a ∧ oldest s 0 0 = none ∧ waitingRows s 0 0 = [] ∧ refreshDue s 0 0 = none) ∧
    (∀ n ∈ [0, 1], let s := rowsAt (.rowClose 0 0) (.closing 0 (.activate 1 .thread)) 6 2 fun c => { c with credits := n }
     Eight s ∧ Claims.mode s 0 0 = .closing 0 (.activate 1 .thread) ∧
       (getSub s 0 0).free = false ∧ NoneWaitsD s ∧ (rowsOf (getCore s 0) 1 + promised s 0 ≤ (getCore s 0).credits ↔ n = 1)) ∧
    (let s := rowsAt (.rowClose 0 0) (.closing 0 .take) 6 0
     Eight s ∧ Claims.mode s 0 0 = .closing 0 .take) := by decide +kernel

/-- A queued access to row 1: a fill of the row-side cache (R97). -/
def waiting (c : CoreSt) : CoreSt := { c with oq := [⟨0, 1, .fill⟩] }

/-- No refresh has fallen due on a core. -/
theorem none_due {s : State} {c : Nat} (h : (getCore s c).subs.all (fun x => !x.due) = true) (k : Nat) : refreshDue s c k = none := by
  have hs : ∀ j, (getSub s c j).due = false := fun j => by
    unfold getSub
    rw [List.getD_eq_getElem?_getD]
    cases e : (getCore s c).subs[j]? with
    | none => rfl
    | some x => simpa using List.all_eq_true.mp h x (List.mem_of_getElem? e)
  unfold refreshDue
  rw [List.find?_eq_none]
  intro j _
  simp [hs]

/-- The premises of `Quiet`, in a form that can be decided. -/
abbrev QuietD (s : State) (row : Nat) : Prop :=
  (getThr s ⟨0, row⟩).reply = none ∧ (getThr s ⟨0, row⟩).cmds = [] ∧ (getCore s 0).subs.all (fun x => !x.due) = true
theorem quiet {s : State} {row : Nat} (h : QuietD s row) : Claims.Quiet s 0 row := ⟨h.1, h.2.1, none_due h.2.2⟩

/-- The bus request of subarray 0 stands so. -/
def bus (b : BusSt) (c : CoreSt) : CoreSt := { waiting c with subs := c.subs.set 0 { (c.subs.getD 0 {}) with bus := b } }

/-- RowOpening: activations that end for a thread and for an access; those that begin, with one credit; a window; credits at 31 and
refreshes. -/
theorem test_meets_opening : (let s := rowsAt (.rowActivation 0 0) (.activating 0 .thread) 2 0
     Eight s ∧ Claims.mode s 0 0 = .activating 0 .thread ∧ QuietD s 0) ∧
    (let s := rowsAt (.rowActivation 0 0) (.activating 1 (.serve none)) 2 0 waiting
     Eight s ∧ Claims.mode s 0 0 = .activating 1 (.serve none) ∧ (getCore s 0).oq = [⟨0, 1, .fill⟩] ∧ homeRow (getCore s 0) 1 = 1) ∧
    (let s := rowsAt (.rowActivation 0 0) .closed 2 0 fun c => { c with credits := 1 }
     Eight s ∧ Claims.mode s 0 0 = .closed ∧ oldest s 0 0 = none ∧ nextRow s 0 0 = some 0 ∧
       treadleCredit s 0 0 = true) ∧
    (let s := rowsAt (.outsideActivation 0 0) .closed 2 0 waiting
     Eight s ∧ Claims.mode s 0 0 = .closed ∧ oldest s 0 0 = some ⟨0, 1, .fill⟩ ∧ NoneWaitsD s ∧
       rowsOf (getCore s 0) 1 + promised s 0 ≤ (getCore s 0).credits) ∧
    (let s := rowsAt (.borrowWindow 0 0) (.opened 0) 2 0 waiting
     Eight s ∧ Claims.mode s 0 0 = .opened 0 ∧ oldestClosed s 0 0 0 = some ⟨0, 1, .fill⟩ ∧ (getThr s ⟨0, 0⟩).long = none) ∧
    (∀ b ∈ [BusSt.granted, .waiting, .none], let s := rowsAt .swapOut (.opened 1) 2 2 (bus b)
     Eight s ∧ (getCore s 0).oq = [⟨0, 1, .fill⟩] ∧ homeRow (getCore s 0) 1 = 1 ∧ Claims.mode s 0 0 = .opened 1 ∧
       (getThr s ⟨0, 1⟩).long = none ∧ (getSub s 0 0).bus = b) ∧
    (let s := rowsAt (.creditEarned 0) .closed 2 0 fun c => { c with credits := 31 }
     Eight s ∧ (getCore s 0).credits < 32 ∧ (getCore s 0).seq = none ∧ ∀ j < 7, Claims.mode s 0 j = .closed) ∧
    (∀ m ∈ [SubMode.closed, .opened 0], let s := rowsAt (.refresh 0 0) m 2 0
     Eight s ∧ Claims.mode s 0 0 = m ∧ (getThr s ⟨0, 0⟩).long = none ∧ refreshHome s 0 0 = 0) ∧
    (let s := { rowsAt .swapOut .closed 2 0 with now := 4199999 }
     Eight s ∧ (getCore s 0).refAt ≤ s.now + 1 ∧ (getCore s 0).refSub = 0) ∧
    (∀ b ∈ [none, some 0], let s := rowsAt (.refreshEnd 0 0) (.refreshing b) 2 0
     Eight s ∧ Claims.mode s 0 0 = .refreshing b ∧ (getCore s 0).oq = [] ∧ QuietD s 0) := by decide +kernel

/-- CodeRowsAndGating: the base state's code row; its code object, whose record and place are at the tile; a core that has been
idle, and one that wakes for a held access. -/
theorem test_meets_code : (let s := { base with doing := some (.codeRowOpen 0 85) }
     (getCore s 0).code.find? (fun y => y.row = 85) = some ⟨85, 64, 0⟩) ∧
    (let s := { base with doing := some (.codeRowFill 0 64 0) }
     Claims.mode s 0 7 = .closed ∧ (codeRecord s 0 64).isSome ∧
       (codeRecord s 0 64).bind (fun r => computedPlace s (slotOf s (tileOf 0)) r 0) = some (0, 83) ∧ stackDown s (stackOf 0) = false) ∧
    gateDue { State.reset with now := 65536, doing := some (.coreGate 0) } 0 = true ∧
    (let s := { modCore base 0 (fun c => { c with gated := true }) with doing := some (.coreWake 0) }
     (getCore s 0).held = []) ∧
    (let s := rowsAt (.coreWake 0) .closed 0 0 fun c => { c with gated := true, held := [(83, .step (.outsideRead (pkt 83 0 0 0)))] }
     (getCore s 0).held = [(83, .step (.outsideRead (pkt 83 0 0 0)))] ∧ queueFull (getCore s 0) = false ∧
       Claims.mode s 0 (subOf (getCore s 0) 83) = .closed) := by decide +kernel

/-- DivisionResults, VectorLongResults: the end of a division, and of a vector operation. -/
theorem test_meets_long : ∀ w ∈ [RegWrite.s 3 7, .v 3 7 0xFF],
    let s := { setThr base ⟨0, 0⟩ { long := some ⟨36, w, 0⟩ } with doing := some (.longOpDone ⟨0, 0⟩) }
    (getThr s ⟨0, 0⟩).long = some ⟨36, w, 0⟩ ∧ Clean s ∧ (getThr s ⟨0, 0⟩).cmds = [] := by decide +kernel

/-! ## Premises are met: replies, retries, walks, waits and accesses at their owner -/

/-- Records of KEY 5 with all classes for the owner (R142 to R150): a computed object of a format, extent and tile at a core's rows,
and a framed one of 512 i64 with its table and pool. -/
def computed (fmt ext tlog core row : Nat) : Rec :=
  [BitVec.ofNat 64 (0x3F00000011 + fmt * 256), BitVec.ofNat 64 ext, 0, BitVec.ofNat 64 (0xE400000000 + tlog),
    BitVec.ofNat 64 (core + 1048576 + row * 2 ^ 40), 0, 0, 0, 0, 0, 5, 0, 0, 0, 0, 0]
def framed (table pool : Nat) : Rec :=
  [0x3F00000312, 512, 0, 0xE400000009, 0, BitVec.ofNat 64 table, 0, 0, BitVec.ofNat 64 pool, 0, 5, 0, 0, 0, 0, 0]

/-- A record in its place of the object table, row 82 of core 0; words that are zero are zero there already. -/
def withRec (s : State) (h : Nat) (r : Rec) : State :=
  (r.zip (List.range 16)).foldl (fun s x => if x.1 = 0 then s else putWord s (rowAddr 0 82 + 128 * (h - 64) + 8 * x.2) x.1) s

/-- The base state's thread with KEY 5 beside objects 65 (framed, its one sub-tile in row 60 of core 1), 66 (its table), 67 (its
pool, with a free and an allocated frame in rows 61 and 62 of core 1), 68 (i8), 69 (i32) and 70 (z64). -/
def world : State :=
  let s := modPart (owned 2) 0 fun p => { p with objext := 1152, key := 5 }
  let s := withRec s 65 (framed 66 67)
  let s := withRec s 66 (computed 7 2 9 0 78)
  let s := withRec s 67 [0x3F00000005, 0, 0, 0, 0, 0, 0, 0, 1, 0, 5, 0, 0, 0, 0, 0]
  let s := withRec s 68 (computed 0 16384 12 2 0)
  let s := withRec s 69 (computed 2 16384 10 3 0)
  let s := withRec s 70 (computed 7 512 9 4 0)
  let s := putWord s (rowAddr 0 78) (BitVec.ofNat 64 (188 * 65536 + 4 + 1))
  let s := setFrame s 1 60 65 0 1 1 false
  setPool s 0 { handle := poolKey 0 67, free := [189], alloc := [190] }

theorem world_clean : Clean world := by decide +kernel
/-- The records are valid, and the framed object's sub-tile is where its entry says (R144, R157). -/
theorem test_world : (∀ h ∈ [65, 66, 68, 69, 70], (validNow world 0 h).isSome) ∧
    homeOf world 0 ⟨65, framed 66 67, 65, framed 66 67⟩ 0 true = .place 0 1 60 1 ∧ Memory.wf world.mem = true := by decide +kernel

/-- The thread of `world`, parked on an instruction. -/
def waitsFor (i : Instr) : State := next (exec i (setS world base.cur 2 65))

/-- The premises of `Awaits`, in a form that can be decided. -/
abbrev AwaitsD (s : State) (id : Nat) (p : Req → Bool) : Prop :=
  (findReq s id).any (fun r => !r.held && tstate s r.thr == 3 && rowOpen s r.thr && (pairOf s r.thr).isNone &&
    (getThr s r.thr).cmds == [] && (r.phase != .answered) && p r) = true ∧ Clean s

theorem awaits {s : State} {id : Nat} {p : Req → Bool} (h : AwaitsD s id p) : ∃ r, Claims.Awaits s id r ∧ p r = true := by
  obtain ⟨h1, hc⟩ := h
  cases e : findReq s id with
  | none => simp [e] at h1
  | some r =>
    simp only [e, Option.any_some, Bool.and_eq_true, Bool.not_eq_true', beq_iff_eq, bne_iff_ne, Option.isNone_iff_eq_none] at h1
    obtain ⟨⟨⟨⟨⟨⟨a, b⟩, c⟩, d⟩, f⟩, g⟩, i⟩ := h1
    exact ⟨r, ⟨e, a, b, c, d, f, g, readable hc _⟩, i⟩

/-- Replies: a value, a poisoned value and a trap for a thread that awaits one, for each kind of answer; and a closed row. -/
theorem test_meets_replies : (∀ i ∈ [Instr.ldo 3 1 .plain .d, .amoAddD 3 4 1 .plain, .amoAddW 3 4 1 .plain, .sto 3 1 .plain .d,
      .vldo 1 0 1 .plain .i64, .vldb 1 0 1 .plain .i64, .ibrecv 4],
      AwaitsD { waitsFor i with doing := some (.reply 1 (.value 0 false)) } 1 (fun r => r.insn == i && r.thr.row != 84)) ∧
    (∀ a ∈ [Ans.value 0 true, .trap .stackDown 0, .trap .misaligned 0], let s := { waitsFor (.ldo 3 1 .plain .d) with doing := some (.reply 1 a) }
      AwaitsD s 1 (fun r => r.thr.row < 84) ∧ (awaitedJob s 1).isNone = true) ∧
    (let j : Job := { entry := 0, cmd := .mtest 3, thr := ⟨0, 0⟩, block := [], fmt := 0, key := 5, priv := false, req := 0, status := some 0, waiters := [1] }
     let s := modTile (modReq (waitsFor (.ldo 3 1 .plain .d)) 1 fun r => { r with insn := .jwait 3 4 }) 0 fun t => { t with jobs := [j] }
     (awaitedJob s 1).map (fun x => x.2.2) = some j ∧ (findReq s 1).isSome = true ∧ AwaitsD (takeAwaited s 1) 1 (fun r => r.insn == .jwait 3 4)) ∧
    (let s := { modSub (waitsFor (.ldo 3 1 .plain .d)) 0 0 (fun x => { x with mode := .closed }) with doing := some (.reply 1 (.value 0 false)) }
     (findReq s 1).any (fun r => !r.held && tstate s r.thr == 3 && !rowOpen s r.thr && r.phase != .answered) = true) := by decide +kernel

/-- The request of a thread that waits on word 0 of object 65, sent to its owner. -/
def sentTo (e : Event) (f : Req → Req) : State :=
  { modReq (waitsFor (.ldfe 3 1 .plain)) 1 (fun r => f { r with phase := .sent, frame := 188, oh := 65, gen := 1 }) with doing := some e }
abbrev Asks (s : State) (p : Req → Bool) : Prop := (findReq s 1).any (fun r => r.id == 1 && p r) = true

/-- Walk 1 of tile 0. -/
def walkOf (a : WalkAddr) (place n : Nat) (rec : Option Nat) : WalkPkt := ⟨1, 0, a, place, n, rec⟩

/-- RetriesAndWaits: RETRY, the end of its backoff, REDIRECT, walks of a record and of a claimed entry, and what a walk brings. -/
theorem test_meets_retries : Asks (sentTo (.retry 1) id) (fun r => r.cw == .none) ∧
    Asks (sentTo (.retryBackoff 1) fun r => { r with phase := .backoff })
      (fun r => r.phase == .backoff && r.insn == .ldfe 3 1 .plain) ∧ Asks (sentTo (.redirectAnswer 1) id) (fun _ => true) ∧
    (let s := sentTo (.walk (walkOf (.record 65) (rowAddr 0 82 + 128) 16 none)) id
     Asks s (fun _ => true) ∧ s.bitErrs = []) ∧
    (let p := walkOf (.entry 65 0) (rowAddr 0 78) 2 (some (rowAddr 0 82 + 128))
     let s := modTile (sentTo (.walk p) id) 0 fun t => { t with claims := [(65, 0)] }
     Asks s (fun _ => true) ∧ (65, 0) ∈ (getTile s (tileOf (coreOfAddr p.place))).claims ∧ s.bitErrs = []) ∧
    (let p := walkOf (.record 65) (rowAddr 0 82 + 128) 16 none
     let s := modTile (sentTo (.walkReply p ⟨framed 66 67, false⟩) id) 0 fun t => { t with walking := [⟨1, .record 65, [1], false⟩] }
     Asks s (fun r => tileOf r.thr.core == p.tile) ∧
       (getTile s 0).walking.find? (fun x => x.no = p.no) = some ⟨1, .record 65, [1], false⟩) := by decide +kernel

/-- RetriesAndWaits: a limit for an operation that is translating, and for one sent; the owner with the wait and without; answers. -/
theorem test_meets_waits : AwaitsD (sentTo (.waitLimitExpiry 1) fun r => { r with phase := .translate }) 1
      (fun r => r.cw == .none && r.phase != .sent && r.id == 1 && r.thr.row != 84) ∧
    AwaitsD (sentTo (.waitLimitExpiry 1) id) 1 (fun r => r.cw == .none && r.phase == .sent && r.id == 1 && r.dev == 0) ∧
    (let s := modCore (sentTo (.cancelWait 1 1) id) 1 fun c => { c with waits := [(0, 1)] }
     AwaitsD s 1 (fun r => r.frame / 128 == 1) ∧ (getCore s 1).waits.find? (fun p => p.2 = 1) = some (0, 1)) ∧
    (let s := sentTo (.cancelWait 1 1) id
     AwaitsD s 1 (fun r => r.frame / 128 == 1) ∧ ∀ p ∈ (getCore s 1).waits, p.2 ≠ 1) ∧
    AwaitsD (sentTo (.cancelWaitAnswer 1 false) fun r => { r with cw := .limit }) 1 (fun r => r.cw == .limit) ∧
    AwaitsD (sentTo (.cancelWaitAnswer 1 false) fun r => { r with cw := .stop }) 1 (fun r => r.cw == .stop) := by decide +kernel

/-- An access to object 65 at its owner. -/
def access65 (off : Nat) (o : ObjOp) : ObjPkt := ⟨65, 0, 1, ⟨1, 60⟩, off, o, 1, 0, 0, 0⟩

abbrev AtOwnerD (s : State) (p : ObjPkt) : Prop := p.handle ≠ Config.moduleObj ∧ stackDown s (stackOf p.frame.core) = false ∧ frameFits s p = true ∧
  frameUse s p.frame.core p.frame.row = 1
theorem atOwner {s : State} {p : ObjPkt} (h : AtOwnerD s p) : Claims.AtOwner s p := ⟨h.1, h.2.1, h.2.2.1, h.2.2.2⟩

/-- OwnerAccesses: arrivals at an open and at a closed row, posted and not, at a DOWN stack and for a frame that has changed. -/
theorem test_meets_arrivals : (∀ m ∈ [SubMode.closed, .opened 60], ∀ i ∈ [Instr.ldo 3 1 .plain .d, .sto 3 1 .plain .d],
      let p := access65 4088 (if i = .sto 3 1 .plain .d then .store 8 0 else .load 8)
      let s := { modSub (waitsFor i) 1 5 (fun x => { x with mode := m }) with doing := some (.objectAccessArrival p) }
      AtOwnerD s p ∧ s.bitErrs = [] ∧ retirementQueued s p.frame = false ∧ frameCache s 1 60 = false ∧ (getCore s 1).gated = false ∧
        (getCore s 1).held = [] ∧ queueFull (getCore s 1) = false ∧
        ((findReq s p.req).any (fun r => posted r.insn) = true ↔ i = .sto 3 1 .plain .d) ∧
        Claims.mode s 1 (subOf (getCore s 1) 60) = m) ∧
    (let p := access65 0 (.load 8)
     stackDown { world with io := { world.io with health := 1 }, doing := some (.objectAccessArrival p) } 0 = true ∧ p.op ≠ .retire ∧ p.req ≠ 0) ∧
    (let p := { access65 0 (.load 8) with gen := 2 }
     frameFits { world with doing := some (.objectAccessArrival p) } p = false) := by decide +kernel

/-- OwnerAccesses: each operation at its admission, on a word and on one that is poisoned. -/
theorem test_meets_admissions : ∀ o ∈ [ObjOp.load 8, .vbcast 4 true, .vload 0xFFFF, .store 1 5, .vstore 0xF0 5, .amo .add .w64 1 0, .amo .cas .w32 1 0],
    let p := access65 64 o
    let s := { world with doing := some (.admission p) }
    let u := { s with poison := [pktAddr p] }
    AtOwnerD s p ∧ s.bitErrs = [] ∧ runPoisoned s (pktAddr p) 8 = false ∧ AtOwnerD u p ∧ u.bitErrs = [] ∧ runPoisoned u (pktAddr p) 8 = true := by
  decide +kernel
/-- OwnerAccesses: stores to both words of an entry of the handler table, handle 3 in row 83. -/
theorem test_meets_handler_stores : ∀ off ∈ ([80, 88] : List Nat), let p : ObjPkt := ⟨3, 0, 1, ⟨0, 83⟩, off, .store 8 7, 0, 0, 0, 0⟩
    let s := { setFrame world 0 83 3 0 1 1 false with doing := some (.admission p) }
    AtOwnerD s p ∧ s.bitErrs = [] ∧ p.handle = 3 ∧ pktAddr p % 8 = 0 ∧ (pktAddr p / 8 % 2 = 1 ↔ off = 88) := by decide +kernel

/-- FullEmptyAndFences: full/empty accesses to full and empty words with no waiter; a full wait list is not needed for either. -/
theorem test_meets_full_empty : ∀ o ∈ [ObjOp.ldfe, .ldff, .stef 5, .stff 5, .sete], ∀ b ∈ [true, false],
    let p := access65 4088 o
    let s := { world with doing := some (.admission p), empty := if b then [] else [pktAddr p] }
    AtOwnerD s p ∧ s.bitErrs = [] ∧ (getCore s 1).waits = [] ∧ isFull s (pktAddr p) = b ∧ p.frame.row < 84 ∧ p.off < 4096 := by decide +kernel

/-- FullEmptyAndFences: a fence with two echoes left, and with one; a probe with and without an earlier access. -/
def fencing (e : Event) (l : List Nat) : State :=
  { modReq (next (exec (.fence .pkg) (setC world base.cur 4 1))) 1 (fun r => { r with echoes := l }) with doing := some e }
theorem test_meets_fences :
    (let s := fencing (.fenceProbe 1 5 3) [5]
     (findReq s 1).isSome ∧ ∀ q ∈ unadmitted s, q.via = 5 → q.srcTile = 0 → 3 ≤ q.seq) ∧
    (let s := { fencing (.fenceProbe 1 0 3) [0] with
       agenda := [⟨99, .req, 0, 0, .run (.objectAccessArrival { access65 0 (.load 8) with seq := 2 })⟩] }
     (findReq s 1).isSome ∧ ∃ q ∈ unadmitted s, q.via = 0 ∧ q.srcTile = 0 ∧ q.seq < 3) ∧
    (findReq (fencing (.probeEcho 1 5) [5]) 1).isSome ∧
    AwaitsD (fencing (.fenceEcho 1 5) [5, 6]) 1 (fun r => r.phase == .fence && r.echoes.any (· != 5)) ∧
    AwaitsD (fencing (.fenceEcho 1 5) [5]) 1
      (fun r => r.phase == .fence && r.insn == .fence .pkg && r.echoes.all (· == 5) && r.id == 1) := by decide +kernel

/-! ## Premises are met: messages, queues, counters and launches -/

/-- An entry for the thread of `world`, and a message for handler 5 of its partition. -/
def entry0 (k : InboxKind) : InboxMsg := ⟨k, BitVec.ofNat 64 (5 * 2 ^ 48), 1, 2, 0, 0, none⟩
def msg0 : Msg := ⟨BitVec.ofNat 64 (5 * 2 ^ 48), 5, 1, 2, 3, false, 0, 0, none⟩

/-- The partition's record of handle 3 is written (R202), and entry 5 of its handler table names code object 64 and is valid (R107). -/
def served (e : Event) (busy : Bool) : State :=
  let s := ((systemRecord 512 (handlerPlace world 0) 5).zip (List.range 16)).foldl (fun s x => if x.1 = 0 then s else putWord s (rowAddr 0 80 + 384 + 8 * x.2) x.1) world
  let s := putWord (putWord s (rowAddr 0 83 + 80) (BitVec.ofNat 64 (64 * 2 ^ 32))) (rowAddr 0 83 + 88) 1
  { modCore s 0 (fun c => { c with handler := busy, msgs := match e with | .handlerStart _ => [msg0] | _ => [] }) with doing := some e }

/-- MessagesArrive: an entry for a thread that waits for none and for one in IBRECV; messages to an idle and to a busy service row. -/
theorem test_meets_messages : (∀ k ∈ [InboxKind.message, .trap], let s := { world with doing := some (.inboxEntry (entry0 k)) }
     inboxCheck s (entry0 k) = none ∧ Clean s ∧ freeEntry s 0 = some 0 ∧ (getCore s 0).ibHeld = [] ∧ s.reqs = []) ∧
    (let s := { waitsFor (.ibrecv 4) with doing := some (.inboxEntry (entry0 .message)) }
     inboxCheck s (entry0 .message) = none ∧ freeEntry s 0 = some 0 ∧ (getCore s 0).ibHeld = [] ∧ (getCore s 0).ibOrder = [] ∧
       AwaitsD s 1 (fun r => r.id == 1 && r.thr == ⟨0, 0⟩ && r.insn == .ibrecv 4) ∧ s.reqs.length = 1) ∧
    (∀ b ∈ [true, false], let s := served (.activeMessage msg0) b
     inboxCheck s ⟨.message, msg0.target, msg0.a, msg0.b, msg0.sender, msg0.req, msg0.scope⟩ = none ∧ Clean s ∧
       handlerEntry s 0 5 = some (BitVec.ofNat 64 (64 * 2 ^ 32), 1) ∧ (getCore s 0).handler = b ∧ (getCore s 0).msgs = []) ∧
    (let s := served (.handlerStart 0) false
     (getCore s 0).msgs = [msg0] ∧ (getCore s 0).handler = false ∧ (handlerEntry s 0 5).isSome) := by decide +kernel

/-- Packets of one narrow thread of code object 64 pinned to row 2 of core 0, and of the other kinds; object 70 as the ring of queue 3 with one of them. -/
def packet (w0 w6 : Word) : List Word := [w0, BitVec.ofNat 64 (64 * 2 ^ 32), 0x600000001, 0x20000100000, 0, 0, w6, 0]
def plain (w0 w6 : Word) : List Word := [w0, 0, 0, 7, 0, 0, w6, 0]
def ring (p : List Word) (e : Event) : State :=
  let s := withRec world 64 [0x3F00000616, 1024, 0, 0xE40000000A, BitVec.ofNat 64 (1048576 + 83 * 2 ^ 40), 0, 0, 0, 0, 0, 5, 0, 0, 0, 0, 0]
  let s := (p.zip (List.range 8)).foldl (fun s x => if x.1 = 0 then s else putWord s (rowAddr 4 0 + 8 * x.2) x.1) s
  { modQueue s 3 (fun q => { q with base := 70, size := 3, part := 5, key := 5, en := true }) with doing := some e }

/-- The launch of queue 3's first packet, and the same with its doorbell rung, and with the launch in a later state (R53). -/
def launch1 (p : List Word) (st : LState) (rows : List Thr := []) : LaunchSt :=
  { id := 1, queue := 3, index := 0, packet := p, part := 5, key := 5, state := st, rows := rows }
def tailed (p : List Word) (e : Event) (l : List LaunchSt) : State :=
  let s := modQueue (ring p e) 3 fun q => { q with tail := 1 }
  { s with io := { s.io with launches := l } }
def rung (p : List Word) (e : Event) : State := tailed p e [launch1 p .queued]
def dispatched (p : List Word) (e : Event) : State := tailed p e [launch1 p .ready]

/-- Queues: doorbells to the last index that the ring holds, beyond it, and behind; THAW. -/
theorem test_meets_doorbells : (∀ n ∈ [1, 8], let v : Word := BitVec.ofNat 64 n
     let s := ring (packet 1 0) (.doorbell 3 v)
     (getQueue s 3).devfed = false ∧ (v - (getQueue s 3).tail).toNat < 2 ^ 63 ∧ (v - (getQueue s 3).fence).toNat ≤ 2 ^ (getQueue s 3).size.toNat ∧
       pKind (ringPacket s (getQueue s 3) (getQueue s 3).tail) = 1 ∧ (getQueue s 3).issuers = [] ∧ s.bitErrs = []) ∧
    (let s := ring (packet 1 0) (.doorbell 3 9)
     2 ^ (getQueue s 3).size.toNat < (9#64 - (getQueue s 3).fence).toNat) ∧
    (let s := ring (packet 1 0) (.doorbell 3 (-1))
     2 ^ 63 ≤ ((-1#64) - (getQueue s 3).tail).toNat) ∧
    (ring (packet 1 0) (.thaw 3)).doing = some (.thaw 3) := by decide +kernel

/-- The launch of queue 3's first packet. -/
abbrev Launched (s : State) (p : LaunchSt → Bool) : Prop := (findLaunch s 1).any p = true

/-- Queues: a launch with and without a counter to wait for, and one of no thread. -/
theorem test_meets_dispatch : (∀ w ∈ ([0, 1, 2] : List Nat), let p := packet (if w = 0 then 1 else 0x101) 9
      let s := modCounter (rung p (.dispatch 3)) 9 fun c => { c with owner := 5, value := if w = 2 then 1 else 0 }
      canDispatch (getQueue s 3) = true ∧ (getQueue s 3).hold = .none ∧ (launchAt s 3 0).map (·.id) = some 1 ∧ (getQueue s 3).head = 0 ∧
        Launched s (fun l => l.state == .queued && l.part == (getQueue s 3).part && threadsPacketOk s (getQueue s 3) l && !cancelledCounter s l.packet) ∧
        (getCounter s 9).errtok = false ∧ (getCounter s 9).cancel = false ∧ ((getCounter s 9).value = 0 ↔ w ≠ 2)) ∧
    (let s := rung [1, BitVec.ofNat 64 (64 * 2 ^ 32), 2 ^ 34, 0, 0, 0, 0, 0] (.dispatch 3)
     canDispatch (getQueue s 3) = true ∧ (getQueue s 3).hold = .none ∧
       Launched s (fun l => l.state == .queued && l.part == (getQueue s 3).part && !threadsPacketOk s (getQueue s 3) l)) := by decide +kernel
/-- Queues: a COUNTER and a FENCE packet, with the queue's launches complete and not. -/
theorem test_meets_plain : (let s := modCounter (tailed (plain 3 0x90000) (.counterPacket 3) []) 9 fun c => { c with owner := 5 }
     s.bitErrs = [] ∧ canDispatch (getQueue s 3) = true ∧ (getQueue s 3).hold = .none ∧ headKind s 3 = 3 ∧
       plainPacketOk s (getQueue s 3) (ringPacket s (getQueue s 3) 0) = true ∧ (getCounter s 9).waiters = []) ∧
    (∀ b ∈ [true, false],
     let s := tailed [2, 0, 0, 0, 0, 0, 0, 0] (.fencePacket 3) (if b then [{ launch1 [] .placed with index := 99 }] else [])
     s.bitErrs = [] ∧ canDispatch (getQueue s 3) = true ∧ (getQueue s 3).hold = .none ∧ headKind s 3 = 2 ∧
       plainPacketOk s (getQueue s 3) (ringPacket s (getQueue s 3) 0) = true ∧ queueBusy s 3 = b) ∧
    (∀ b ∈ [true, false],
     let s := modTile (withRec (tailed [2, 0, 0, 65, 0, 0, 0, 0] (.fencePacket 3) []) 65 ((framed 66 67).set 0 0x3F00000712)) 0 fun t => { t with claims := if b then [(65, 0)] else [] }
     canDispatch (getQueue s 3) = true ∧ headKind s 3 = 2 ∧ plainPacketOk s (getQueue s 3) (ringPacket s (getQueue s 3) 0) = true ∧
       queueBusy s 3 = false ∧ fenceWaits s (getQueue s 3) (ringPacket s (getQueue s 3) 0) = b) := by decide +kernel

/-- Counters: values 0, 1 and 2; a launch and a CNTWAIT that the counter releases; a CNTDEC of another partition. -/
theorem test_meets_counters : (∀ v ∈ ([0, 2] : List Nat), (getCounter (modCounter world 9 fun c => { c with value := BitVec.ofNat 32 v }) 9).value ≠ 1) ∧
    (let s := modCounter (rung (packet 0x101 9) (.counterDecrement 9 false 0)) 9 fun _ => { owner := 5, value := 1, waiters := [.launch 1] }
     (getCounter s 9).value = 1 ∧ (getCounter s 9).waiters = [.launch 1] ∧ (getCounter s 9).cancel = false ∧ Launched s fun _ => true) ∧
    (let s := modCounter (waitsFor (.cntwait 1 .plain)) 9 fun _ => { owner := 6, value := 1, waiters := [.request 1] }
     (getCounter s 9).value = 1 ∧ (findReq s 1).any (fun r => r.id == 1 && (getCounter s 9).owner != partKey s (tileOf r.thr.core)) = true) ∧
    (∀ v ∈ ([0, 2] : List Nat), let s := modCounter (waitsFor (.cntwait 1 .plain)) 9 fun _ => { owner := 5, value := BitVec.ofNat 32 v }
     (findReq s 1).any (fun r => r.id == 1 && (getCounter s 9).owner == partKey s (tileOf r.thr.core)) = true ∧ (getCounter s 9).value ≠ 1) ∧
    (getCounter (modCounter { world with doing := some (.counterWrite 9 5 true) } 9 id) 9).waiters = [] := by decide +kernel

/-- LaunchesPlacedAndEnded: a READY launch and FREE rows; a placement in a row beside the code row. -/
theorem test_meets_placing : (∀ e ∈ [Event.reservation 1 [⟨0, 2⟩], .placement 1 [⟨0, 2⟩]], let s := dispatched (packet 1 0) e
     s.doing = some e ∧ Launched s fun l => l.state == .ready && allFree s l [⟨0, 2⟩] && (keySlot s l.part).isSome && !pPair l.packet &&
       pImage l.packet == 0 && l.id < 2 ^ 24 && l.prio < 128 && (codeRowOf s 0 (pCode l.packet) (pEntry l.packet / 4096)).isSome) := by decide +kernel

/-- A placed launch of one RUN thread in row 2, which has ended or not. -/
def placed (e : Event) (done : Bool) : State :=
  let l := { launch1 (packet 0x201 0) .placed [⟨0, 2⟩] with ended := if done then [⟨0, 2⟩] else [] }
  modQueue (modCounter { setC world ⟨0, 2⟩ 0 32 with io := { world.io with launches := [l] }, doing := some e } 0 fun c => { c with owner := 5 }) 3
    fun q => { q with part := 5 }

/-- LaunchesPlacedAndEnded: completion; a loan to a launch that is placed; a reset of the partition. -/
theorem test_meets_ends : (let s := placed (.launchCompletion 1) true
     Launched s (fun l => l.state == .placed && l.rows == [⟨0, 2⟩] && l.ended == [⟨0, 2⟩] && (getQueue s l.queue).part == l.part && pDoneEn l.packet &&
       (getCounter s (pDoneCtr l.packet)).owner == l.part) ∧ s.pairs = [] ∧ (getCore s 0).ibHeld = []) ∧
    (let s := placed (.launchCompletion 1) true
     let s := { s with io := { s.io with launches := s.io.launches.map fun l => { l with state := .complete, inRing := false } } }
     Launched s (fun l => l.state == .complete && l.launcher.isNone && !l.inRing && (getQueue s l.queue).part == l.part)) ∧
    (let w : LaunchSt := { id := 2, queue := 3, index := 1, packet := packet 0x171 0, part := 5, key := 5, state := .waiting }
     let s := placed (.priorityLoan 5 none 0) false
     let s := { s with io := { s.io with launches := s.io.launches ++ [w] } }
     s.io.launches.map (fun l => (l.id, l.part, l.state, pPrio l.packet)) = [(1, 5, .placed, 0), (2, 5, .waiting, 7)] ∧
       Launched s (fun x => x.rows == [⟨0, 2⟩] && !pPair x.packet && pDoneEn x.packet && pDoneCtr x.packet == pWaitCtr w.packet && x.prio < 7)) ∧
    (let s := placed (.priorityLoan 5 (some ⟨0, 2⟩) 127) false
     Launched s (fun l => l.state == .placed && l.rows == [⟨0, 2⟩]) ∧ pairOf s ⟨0, 2⟩ = none) ∧
    (let s := { world with doing := some (.partitionReset 0) }
     (getPart s 0).key ≠ 0 ∧ s.io.launches = [] ∧ s.cores.all (fun c => c.2.ibHeld.isEmpty) = true ∧ (freshCore s.now).ibHeld = []) := by
  decide +kernel

/-! ## Premises are met: pairs, swap, claims, majority, health, device registers -/

/-- The premises of `Calm`, in a form that can be decided. -/
abbrev CalmD (s : State) (p : PairSt) : Prop :=
  pairOf s p.leader = some p ∧ pairOf s p.follower = some p ∧ p.follower = partnerOf p.leader ∧ p.leader.row < 84 ∧
  (isWide s p.leader = false ∧ isWide s p.follower = false) ∧
  (p.held = [] ∧ p.outside = [] ∧ p.ending = .none ∧ p.trapLead = none ∧ p.trapFoll = none ∧ p.sending = [] ∧ p.storing = 0) ∧
  (reqOf s p.leader = none ∧ reqOf s p.follower = none)
theorem calm {s : State} {p : PairSt} (h : CalmD s p) : Claims.Calm s p :=
  ⟨h.1, h.2.1, h.2.2.1, h.2.2.2.1, h.2.2.2.2.1, h.2.2.2.2.2.1, h.2.2.2.2.2.2⟩

/-- A pair in rows 0 of cores 0 and 1. -/
def pair0 : PairSt := { leader := ⟨0, 0⟩, follower := ⟨1, 0⟩ }
def pairing (p : PairSt) (e : Event) : State := { owned 2 with pairs := [p], doing := some e }

/-- PairCheckpoints: a checkpoint; a first fingerprint, an equal and an unequal second one after a missed interval and not; no
fingerprint in time. -/
theorem test_meets_pairs : (let p : PairSt := { pair0 with called := true }
     let s := pairing p (.checkpoint 0 0)
     CalmD s p ∧ atCheckpoint s p p.leader = true ∧ p.copying = none ∧ (getThr s ⟨0, 0⟩).long = none ∧
       printSent s ⟨0, 0⟩ = false ∧ Clean s) ∧
    CalmD (pairing pair0 (.fingerprint 0 0 7)) pair0 ∧ CalmD (pairing pair0 (.fingerprintTimeout 0 0)) pair0 := by decide +kernel
def printed (y : Word) (b : Bool) : PairSt := { pair0 with fpFoll := some y, missed := b }
theorem test_meets_prints : ∀ y ∈ ([7, 8] : List Nat), ∀ b ∈ [true, false],
    let p := printed (BitVec.ofNat 64 y) b
    CalmD (pairing p (.fingerprint 0 0 7)) p ∧
      getC (pairing p (.fingerprint 0 0 7)) ⟨0, 0⟩ 14 = getC (pairing p (.fingerprint 0 0 7)) ⟨1, 0⟩ 14 := by decide +kernel
/-- ShadowCopies: both copies of a commit and of a rollback. -/
def copyingBoth (k : Bool) (n : Nat) : PairSt := { pair0 with copying := some k, copied := n }
theorem test_meets_shadow : ∀ k ∈ [true, false], ∀ n ∈ ([0, 1] : List Nat), let p := copyingBoth k n
    CalmD (pairing p (.shadowCopy 0 0 k)) p ∧
      1 + promised (pairing p (.shadowCopy 0 0 k)) 0 ≤ (getCore (pairing p (.shadowCopy 0 0 k)) 0).credits ∧
      (pairing p (.shadowCopy 0 0 k)).bitErrs = [] ∧ runPoisoned (pairing p (.shadowCopy 0 0 k)) (rowAddr 0 1) 4096 = false := by decide +kernel

/-- Swapping: the placed launch of one thread with object 68 for its swap object, in place and swapped out; no such launch. -/
def swapping (e : Event) (out : Bool) : State :=
  let s := modLaunch (placed e false) 1 fun l => { l with swapped := out, swapObj := if out then 68 else 0 }
  { s with io := { s.io with swapStatus := 1, swapLaunch := 1, swapHandle := 68 } }
theorem test_meets_swapping : (∀ b ∈ [true, false], let s := swapping (if b then .swapIn else .swapOut) b
     s.io.swapStatus = 1 ∧ Launched s (fun l => keySlot s l.part == some 0 && l.state == .placed && l.swapped == b && !l.cancel &&
       l.swapObj == (if b then 68 else 0) && l.rows == [⟨0, 2⟩] && !pWide l.packet && swapFits s 0 l 68) ∧
     swapRow s 0 68 0 = some ⟨2, 0⟩ ∧ pairOf s ⟨0, 2⟩ = none ∧ (getThr s ⟨0, 2⟩).long = none ∧ (getThr s ⟨0, 2⟩).reply = none ∧
     (getThr s ⟨0, 2⟩).cmds = [] ∧ rowAwaited s 0 2 = false ∧ isPaired s ⟨0, 2⟩ = false ∧ isWide s ⟨0, 2⟩ = false ∧ tstate s ⟨0, 2⟩ ≠ 3 ∧ tstate s ⟨0, 2⟩ ≠ 7 ∧ Clean s) ∧
    findLaunch { world with io := { world.io with swapStatus := 1 } } 0 = none := by decide +kernel

/-- The premises of `AtEntry` for a claim of sub-tile 0 of object 65, in a form that can be decided. -/
abbrev AtEntryD (s : State) (p : Req → Bool) : Prop :=
  entryAddr s 0 65 0 = some (rowAddr 0 78) ∧ recordNow s 0 65 = some (framed 66 67) ∧ rowOfAddr (rowAddr 0 78) < 84 ∧
  (s.bitErrs = [] ∧ runPoisoned s (rowAddr 0 78) 16 = false) ∧ isClaimed s 0 65 0 = false ∧
  (findReq s 1).any (fun r => slotOf s (tileOf r.thr.core) == 0 && r.oh == 65 && r.sub == 0 && p r) = true
theorem atEntry {s : State} {p : Req → Bool} (h : AtEntryD s p) :
    ∃ r, Claims.AtEntry s 1 r (rowAddr 0 78) (framed 66 67) ∧ p r = true := by
  obtain ⟨h1, h2, h3, h4, h5, h6⟩ := h
  cases e : findReq s 1 with
  | none => simp [e] at h6
  | some r =>
    simp only [e, Option.any_some, Bool.and_eq_true, beq_iff_eq] at h6
    obtain ⟨⟨⟨hs, ho⟩, hb⟩, hp⟩ := h6
    exact ⟨r, ⟨e, by rw [hs, ho, hb]; exact h1, by rw [hs, ho]; exact h2, h3, h4, by rw [hs, ho, hb]; exact h5, by simp [ho, hb]⟩, hp⟩

/-- The entry of object 65 in state e (R157), its thread parked on an instruction with a reference in sa. -/
def claiming (i : Instr) (e : Nat) (x : Word) : State :=
  let s := modReq (waitsFor i) 1 fun r => { r with phase := .claim, oh := 65, sub := 0, x := x, coord := 0 }
  { putWord s (rowAddr 0 78) (BitVec.ofNat 64 (188 * 65536 + 4 + e)) with doing := some (.claim 1) }

/-- Claims, RelocationsAndDrops: each operation on each state of the entry, with an allocated frame and with a reference to none. -/
theorem test_meets_claims : (∀ ie ∈ [(Instr.commit 3 4 1, 0), (.commit 3 4 1, 1), (.decommit 3 1, 0), (.decommit 3 1, 1), (.fillc 3 4 1, 2), (.reloc 3 4 1, 1)],
      let i := ie.1
      let e : Nat := ie.2
      let x := plainRef world ⟨1, 62⟩
      let s := claiming i e x
      AtEntryD s (fun r => r.insn == i && r.x == x && bits r.coord 32 1 == 0) ∧ bits (getWord s (rowAddr 0 78)) 0 2 = e ∧
        bits (getWord s (rowAddr 0 78)) 2 14 = 1 ∧ frameOf s x = some 190 ∧ isAllocated s (poolKey 0 (rPool (framed 66 67))) 190 = true ∧
        stackDown s 0 = false ∧ stackDown s (stackOf (refCore (getWord s (rowAddr 0 78) >>> 16))) = false) ∧
    (let x := plainRef world ⟨1, 62⟩ ||| 0x8000000000000000
     AtEntryD (claiming (.commit 3 4 1) 0 x) (fun r => r.x == x) ∧ frameOf (claiming (.commit 3 4 1) 0 x) x = none) ∧
    (let s := { modReq (claiming (.reloc 3 4 1) 3 0) 1 (fun r => { r with frame := 318 }) with doing := some (.relocCopy 1) }
     AtEntryD s (fun r => r.frame == 318) ∧ refThr ((getWord s (rowAddr 0 78) >>> 16) &&& 0x3FFFFFFFFFFF) = ⟨1, 60⟩ ∧
       (∀ c ∈ ([1, 2] : List Nat), 1 + promised s c ≤ (getCore s c).credits) ∧ (getCore s 1).waits = [] ∧
       rowAddr 0 78 + 16 ≤ rowAddr 1 60 ∧
       (∀ ph ∈ [Phase.moving, .copying], (findReq (modReq s 1 fun r => { r with phase := ph }) 1).map (·.phase) = some ph) ∧
       copyBusy s ⟨1, 60⟩ = false ∧ copyBusy s ⟨2, 62⟩ = false ∧ copyBusy (modTile s 0 fun t => { t with columns := [(0, { bulk := { raised := [⟨1, 5, 0, 0⟩] } })] }) ⟨1, 60⟩ = true) ∧
    ({ world with doing := some (.objsyncDrop 1 0 65) }).doing = some (.objsyncDrop 1 0 65) := by decide +kernel

/-- A packet to a replica of object 65's granule 3, with its tag in row 61. -/
def maj (o : MajOp) (tag : Word) (round : Nat) : MajPkt := ⟨65, 0, 1, ⟨1, 60⟩, 61, 3, 0, o, tag, 0, 1, round, 0, 0⟩
/-- A store in its round of reads or writes, with its answers. -/
def storing (e : Event) (q : Nat) (l : List (Nat × MajAns)) (n : Nat) : State :=
  let f (r : Req) : Req := { r with phase := .majority, round := n, quorum := q, answers := l, reps := [(0, ⟨1, 60⟩, 61), (1, ⟨2, 60⟩, 61)] }
  { modReq (waitsFor (.sto 3 1 .plain .d)) 1 f with doing := some e }

/-- MajorityProtocol: a read, a write with a later and with an earlier tag, both held, RHOLD; answers short of a quorum and with it. -/
theorem test_meets_majority : (∀ p ∈ [maj .read 0 1, maj .write 5 2, maj .write 0 2],
      let s := { world with doing := some (if p.op = .read then .tagAndGranuleRead p else .phase2Write p) }
      healthOf s 0 = 0 ∧ s.io.rhold.getLsbD 0 = false ∧ replicaFits s p = true ∧ replicaPoisoned s p = false ∧ s.bitErrs = [] ∧
        granuleAddr p + 64 ≤ tagAddr p ∧ bits (getWord s (tagAddr p)) 0 62 = 0) ∧
    (let s := { world with io := { world.io with health := 2 }, doing := some (.phase2Write (maj .write 5 2)) }
     healthOf s 0 = 2 ∧ s.io.rhold.getLsbD 0 = false ∧ replicaFits s (maj .write 5 2) = true ∧ replicaPoisoned s (maj .write 5 2) = false ∧
       s.bitErrs = [] ∧ granuleAddr (maj .write 5 2) + 64 ≤ tagAddr (maj .write 5 2) ∧ bits (getWord s (tagAddr (maj .write 5 2))) 0 62 < 5) ∧
    (let s := { world with io := { world.io with rhold := 1 }, doing := some (.tagAndGranuleRead (maj .read 0 1)) }
     stackDown s 0 = false ∧ s.io.rhold.getLsbD 0 = true) ∧
    (let s := storing (.rholdWrite 1 1) 1 [] 1
     (findReq s 1).isSome ∧ s.stackSt.all (fun x => x.2.held.isEmpty) = true) ∧
    (∀ q ∈ ([2, 1] : List Nat), let s := storing (.majorityAnswer (maj .read 0 1) (.value 3 0)) q [] 1
     (findReq s 1).any (fun r => r.phase == .majority && r.round == 1 && r.answers == [] && r.quorum == q && r.insn == .sto 3 1 .plain .d &&
       (upReplicas s r.reps).length == 2 && r.lost == []) = true ∧ healthOf s 0 = 0 ∧ bits (3 : Word) 27 35 < 2 ^ 35 - 1) ∧
    AwaitsD (storing (.majorityAnswer (maj .write 5 2) .accept) 1 [] 2) 1
      (fun r => r.phase == .majority && r.round == 2 && r.answers == [] && r.quorum == 1 && r.insn == .sto 3 1 .plain .d) ∧
    AwaitsD (storing (.majorityAnswer (maj .write 5 2) .accept) 2 [(1, .accept)] 2) 1
      (fun r => r.phase == .majority && r.round == 2 && r.answers == [(1, .accept)] && r.quorum == 2) := by decide +kernel

/-- The state with HEALTH and a scrub on stack 0, a packet for device 5 under way, and group 2 of two members. -/
def healthy (h : Nat) (e : Event) : State :=
  let groups := match e with | .memberWithdrawal .. => [(2, { count := 2, members := [7, 9] })] | _ => []
  { modStack base 0 (fun x => { x with scrub := true }) with
      io := { base.io with health := BitVec.ofNat 32 h, outbound := [⟨0, 1, 5, 0, 0, 1, none⟩], groups := groups }, doing := some e }
theorem test_meets_health : (∀ e ∈ [Event.stackFailure 0, .markDown 0], let s := placed e false
     healthOf s 0 = 0 ∧ s.reqs = [] ∧ s.io.groups = [] ∧ s.pairs = [] ∧ s.io.launches.length = 1 ∧
       Launched s (fun l => l.state == .placed && l.rows == [⟨0, 2⟩] && l.ended == []) ∧ stackOf 0 = 0) ∧
    (∀ h ∈ ([0, 1] : List Nat), (healthy h (.markUp 0)).reqs = [] ∧ healthOf (healthy h (.markUp 0)) 0 = h) ∧
    healthOf (healthy 1 (.markRebuild 0)) 0 = 1 ∧
    (∀ h ∈ ([0, 2] : List Nat), let s := healthy h (.scrubPass 0)
     (getStack s 0).scrub = true ∧ (getStack s 0).scrubFeeding = 0 ∧ healthOf s 0 = h ∧ scrubRows s 0 = [] ∧ s.reqs = []) ∧
    (healthy 0 (.pathFailure 5)).io.groups = [] ∧ (7 : BitVec 46) ∈ membersOf (getGroup (healthy 0 (.memberWithdrawal 2 7)) 2) := by
  decide +kernel

/-- RegisterWrites: the state stands at each write, its queue belongs to no partition and slot 1 to KEY 6. -/
theorem test_meets_register_writes : (let s := modPart world 1 fun p => { p with key := 6 }
     s.io.published = true ∧ s.io.swapStatus ≠ 1 ∧ (getQueue s 0).part ≠ (getPart s 1).key ∧ (getQueue s 2047).part ≠ (getPart s 1).key) ∧
    (∀ p ∈ ([0, 1] : List Nat), let s := { world with io := { world.io with hsem := BitVec.ofNat 2 (p + 1) } }
     s.io.hsem.toNat = p + 1 ∧ (getTile s 0).busy = false ∧ (getTile s 0).assigned = true ∧ (getTile s 0).slot = 0 ∧
       ((0x41 : Word).getLsbD 6 = (getTile s 0).assigned ∧ bits (0x41 : Word) 0 6 ≠ (getTile s 0).slot) ∧
       ∀ e ∈ [true, false], (getPart (modPart s 1 fun x => { x with en := e, key := 6 }) 1).en = e) ∧
    (0x4007F8 < 0x404000 ∧ 0x5007E0 % 32 = 0 ∧ 0x5007F0 % 32 = 16 ∧ 0x5007F8 % 32 = 24 ∧ 0x11FFC8 % 64 = 8 ∧ 0x11FFF8 % 64 = 56 ∧ 0x11FFF0 % 64 = 48) ∧
    (0x100028 % 64 = 40 ∧ 0x11FFE8 % 64 = 40) ∧
    (0x100000 % 64 = 0 ∧ 0x11FFD8 % 64 = 24 ∧ 0x11FFD8 < 0x120000 ∧ (1 : Word).extractLsb' 0 2 = 1#2 ∧ 0x5007E8 % 32 = 8) := by
  decide +kernel

/-- Partitions, FirmwareAndPhysicalEvents: the records of handles 1 to 3 have their places, one beside the other; a partition and a
tile with a launch and without; a word of a present core, and a sub-array that is not fenced. -/
theorem test_meets_partitions : ((List.range 48).all fun n => (elemAddr world 0 (getPart world 0).objplace (getPart world 0).objext.toNat (16 + n)).map
      (fun q => rowAddr q.1 q.2.1 + q.2.2) == some (rowAddr 0 80 + 128 + 8 * n)) = true ∧
    (getPart world 0).key ≠ 0 ∧ world.io.groups = [] ∧ launchesOn world 0 = [] ∧ launchesOn (placed (.tileReassign 0 65) false) 0 ≠ [] ∧
    corePresent world 0 = true ∧ 65 ∉ (getTile world 0).fenced := by decide +kernel

/-! ## Premises are met: rounding, translation, tasks, REPART, PAIR and UNPAIR -/

/-- Rounding: the least normal number of f64 and the subnormal below it under FZ, and the magnitudes next to both ends of the range. -/
theorem test_meets_flush : FFmt.f64.unpack false 0x0010000000000000 = .fin false (2 ^ 52) (-1074) ∧ 2 ^ FFmt.f64.fbits ≤ 2 ^ 52 ∧
    FFmt.f64.unpack false 0x000FFFFFFFFFFFFF = .fin false (2 ^ 52 - 1) (-1074) ∧ 2 ^ 52 - 1 < 2 ^ FFmt.f64.fbits ∧
    ((1 : Nat).log2 : Int) + (-1024) + 2 ≤ 1 - FFmt.f64.bias ∧ (FFmt.f64.bias : Int) + 1 ≤ (1 : Nat).log2 + 1024 := by decide +kernel
/-- Rounding: 1, 3 and 0 of f16 as numbers, and results that lie among its finite numbers. -/
theorem test_meets_operations : Claims.Means .f16 0x3C00 1 ∧ Claims.Means .f16 0x4200 3 ∧ Claims.Means .f16 0 0 ∧
    (∃ z, Claims.Finite .f16 z ∧ z ≤ (1 : ℚ) / 3) ∧ ∃ z, Claims.Finite .f16 z ∧ (1 : ℚ) / 3 ≤ z := by
  have one : Claims.Means .f16 0x3C00 1 := ⟨false, 1024, -10, by decide +kernel, by norm_num⟩
  have nil : Claims.Means .f16 0 0 := ⟨false, 0, -24, by decide +kernel, by norm_num⟩
  exact ⟨one, ⟨false, 1536, -9, by decide +kernel, by norm_num⟩, nil, ⟨0, ⟨0, by decide +kernel, nil⟩, by norm_num⟩,
    1, ⟨0x3C00, by decide +kernel, one⟩, by norm_num⟩

/-- The thread of `world`, parked on a load or a store by handle and coordinate, its tile knowing records. -/
def translating (w : Bool) (z : Size) (h c : Word) (recs : List (Nat × Rec)) : State :=
  let i := if w then Instr.sto 3 1 .plain z else .ldo 3 1 .plain z
  modTile (modReq (waitsFor (.ldo 3 1 .plain .d)) 1 fun r => { r with insn := i, handle := h, coord := c, key := 5 }) 0 fun t => { t with recs := recs }
abbrev Loads (s : State) (p : Req → Bool) : Prop := AwaitsD s 1 fun r => r.id == 1 && !r.bad && r.thr == ⟨0, 0⟩ && p r

/-- Object 68 with an OSPOL, and object 65 with a RESPOL and a fault row. -/
def edged (n : Nat) : Rec := (computed 0 16384 12 2 0).set 0 (BitVec.ofNat 64 (0x3F00000011 + n * 65536))
def absented (n : Nat) (f : Word) : Rec := ((framed 66 67).set 0 (BitVec.ofNat 64 (0x3F00000312 + n * 16777216))).set 9 f

/-- ObjectTranslation: handles that name no record, a record to walk for, an invalid one and one whose classes are another key's. -/
theorem test_meets_handles : (∀ h ∈ ([0, 4294967296, 5000] : List Nat), let s := translating false .d (BitVec.ofNat 64 h) 0 []
     Loads s (fun r => r.handle.toNat == h) ∧ (h = 5000 → handleOk s 0 h = false)) ∧
    (let s := translating true .d 65 0 []
     Loads s (fun _ => true) ∧ handleOk s 0 65 = true ∧ recordPlace s 0 65 = some (0, 82, 128) ∧ stackDown s 0 = false) ∧
    (let s := translating false .d 68 0 [(68, [])]
     Loads s (fun _ => true) ∧ handleOk s 0 68 = true ∧ recOk s 0 [] = false) ∧
    (let s := translating false .d 68 0 [(68, edged 0)]
     Loads s (fun r => !grants (edged 0) (r.key + 1) r.priv 0 && grants (edged 0) r.key r.priv 0) ∧ recOk s 0 (edged 0) = true ∧ rKind (edged 0) = 1) := by
  decide +kernel
/-- ObjectTranslation: the last element of a computed object and the one beyond it under each OSPOL, a coordinate that is none, an
offset that is not aligned, a stack that is UP and one that is DOWN. -/
theorem test_meets_shapes : (∀ n ∈ ([0, 1, 2, 3] : List Nat), ∀ c ∈ ([16383, 16384] : List Nat), ∀ w ∈ [true, false],
      let s := translating w .b 68 (BitVec.ofNat 64 c) [(68, edged n)]
      Loads s (fun r => r.insn == (if w then .sto 3 1 .plain .b else .ldo 3 1 .plain .b) && grants (edged n) r.key r.priv (if w then 1 else 0) &&
          unpackCoord (rRank (edged n)) r.coord == some [(c : Int), 0, 0, 0]) ∧
        recOk s 0 (edged n) = true ∧ rOspol (edged n) = n ∧ rExt (edged n) 0 = 16384 ∧ rRank (edged n) = 1 ∧
        (∀ k ∈ ([0, 3] : List Nat), computedPlace s 0 (edged n) k = some (2, k)) ∧ stackDown s (stackOf 2) = false) ∧
    unpackCoord 1 0x8000000000000000 = none ∧ Claims.subOffset (edged 0) [16383, 0, 0, 0] = 4095 ∧
    Claims.subOffset (edged 0) [16383, 0, 0, 0] % Size.d.bytes ≠ 0 ∧ Claims.subNumber (edged 0) [16383, 0, 0, 0] = 3 ∧
    stackDown { world with io := { world.io with health := 1 } } (stackOf 2) = true := by decide +kernel
/-- ObjectTranslation: a framed object's entry to walk for, and each state of an entry, under each RESPOL, with and without a fault row. -/
theorem test_meets_entries : ∀ n ∈ ([0, 1, 2] : List Nat), ∀ f ∈ ([0, 5] : List Nat), let x := absented n (BitVec.ofNat 64 f)
    let y := computed 7 2 9 0 78
    let s := translating false .d 65 3 [(65, x), (66, y)]
    Loads s (fun r => grants x r.key r.priv 0 && grants x r.key r.priv 1 && unpackCoord (rRank x) r.coord == some [3, 0, 0, 0]) ∧
      recOk s 0 x = true ∧ rKind x = 2 ∧ rTable x = 66 ∧ tableOk s 0 x y = true ∧ rExt x 0 = 512 ∧ rRespol x = n ∧ rFaultRow x = BitVec.ofNat 64 f ∧
      Claims.subNumber x [3, 0, 0, 0] = 0 ∧ Claims.subOffset x [3, 0, 0, 0] = 24 ∧ (getTile s 0).subs = [] ∧
      entryPlace s 0 x y 0 = some (0, 78, 0) ∧ stackDown s 0 = false ∧
      ∀ e ∈ ([0, 1, 2, 3] : List Nat), let w0 : Word := BitVec.ofNat 64 (188 * 65536 + 4 + e)
        bits w0 0 2 = e ∧ bits w0 43 19 = s.io.devid.toNat ∧ stackDown s (stackOf (refCore (w0 >>> 16))) = false := by decide +kernel

/-- A request at the I/O die or a core, with its operands and block. -/
def asking (o : ReqOp) (x y : Word) (block : List Word) (f : State → State := id) : State :=
  { f (modReq (waitsFor (.ldo 3 1 .plain .d)) 1 fun r => { r with x := x, y := y, block := block, key := 5 }) with doing := some (.request o 1) }
/-- Queue 3 as a device-fed queue of the partition with KEY 5, whose ring of eight packets is object 70. -/
def devQueue (t : Word) (en : Bool) (s : State) : State :=
  modQueue s 3 fun q => { q with base := 70, size := 3, part := 5, devfed := true, en := en, tail := t }

/-- TaskAndSystemInstructions: LAUNCH with each failure, and with none. -/
theorem test_meets_launch : (∀ x ∈ ([(2048, 0, true, 1), (3, 0, false, 1), (3, 0, true, 0x81), (3, 8, true, 1), (3, 0, true, 1)] : List (Nat × Nat × Bool × Nat)),
      let s := asking .launch (BitVec.ofNat 64 x.1) 0 (packet (BitVec.ofNat 64 x.2.2.2) 0) (devQueue (BitVec.ofNat 64 x.2.1) x.2.2.1)
      let q := getQueue s 3
      (findReq s 1).any (fun r => r.x.toNat == x.1 && !r.priv && r.thr == ⟨0, 0⟩) = true ∧ q.en = x.2.2.1 ∧ q.devfed = true ∧
        q.part = partKey s (tileOf 0) ∧ (q.tail - q.fence = BitVec.ofNat 64 (2 ^ q.size.toNat) ↔ x.2.1 = 8)) ∧
    (let s := asking .launch 3 0 (packet 1 0) (devQueue 0 true)
     (∀ i < 8, ringAddr s (getQueue s 3) (getQueue s 3).tail i = some (rowAddr 4 0 + 8 * i)) ∧ s.io.launches.length = 0 ∧
       pPriv (packet 1 0) = false ∧ pKind (packet 1 0) = 1 ∧ pPriv (packet 0x81 0) = true) := by decide +kernel

/-- TaskAndSystemInstructions: counters of the thread's partition and of another, at 0 and above, a sum that fits and the first that does not. -/
theorem test_meets_counter_ops : ∀ o ∈ [ReqOp.cntadd, .cntwait], ∀ k ∈ ([5, 6] : List Nat), ∀ v ∈ ([0, 0xFFFFFFFE] : List Nat), ∀ y ∈ ([1, 2] : List Nat),
    let s := asking o 9 (BitVec.ofNat 64 y) [] fun s => modCounter s 9 fun c => { c with owner := BitVec.ofNat 16 k, value := BitVec.ofNat 32 v }
    (findReq s 1).any (fun r => r.x == 9 && ((getCounter s 9).owner == partKey s (tileOf r.thr.core)) == (k == 5) &&
        decide (2 ^ 32 ≤ (getCounter s 9).value.toNat + bits r.y 0 32) == (v == 0xFFFFFFFE && y == 2)) = true ∧
      ((getCounter s 9).value = 0 ↔ v = 0) := by decide +kernel

/-- TaskAndSystemInstructions: CANCEL of launches in each state by the thread's key and another's, of a counter that no launch names, and of a job. -/
theorem test_meets_cancel : (∀ st ∈ [LState.queued, .waiting, .ready, .placed, .complete], ∀ k ∈ ([5, 6] : List Nat), ∀ t ∈ [(⟨0, 0⟩ : Thr), ⟨0, 2⟩],
      let s := asking .cancel 1 0 [] fun s => { s with io := { s.io with launches := [{ launch1 (packet 1 0) st [t] with key := BitVec.ofNat 16 k }] } }
      s.io.swapStatus ≠ 1 ∧ (findLaunch s 1).any (fun l => l.state == st && !l.swapped && l.rows == [t]) = true ∧
        (findReq s 1).any (fun r => r.y == 0 && r.x == 1 && !r.priv && (t == r.thr) == (t == ⟨0, 0⟩) &&
          (findLaunch s 1).any (fun l => (l.key == r.key) == (k == 5))) = true) ∧
    findLaunch (asking .cancel 7 0 []) 7 = none ∧ (0xFFFFFF#64).toNat < 2 ^ 24 ∧ 2 ^ 24 ≤ (0x1000000#64).toNat ∧ 4 ≤ bits (4 : Word) 0 8 ∧
    (∀ g ∈ [true, false], ∀ k ∈ ([5, 6] : List Nat),
      let s := asking .cancel 9 (if g then 2 else 1) [] fun s => modCounter s 9 fun c => { c with owner := BitVec.ofNat 16 k }
      namedBy s 9 g = [] ∧ ((getCounter s 9).owner = partKey s (tileOf 0) ↔ k = 5)) ∧
    (let j : Job := { entry := 7, cmd := .mtest 3, thr := ⟨0, 0⟩, block := [], fmt := 0, key := 5, priv := false, req := 0 }
     let s := asking .cancel 7 3 [] fun s => modTile s 0 fun t => { t with jobs := [j] }
     ((getTile s 0).jobs.find? fun j => j.entry = 7 && j.status.isNone) = some j ∧
       ((getTile s 0).jobs.find? fun j => j.entry = 8 && j.status.isNone) = none ∧
       (findReq s 1).any (fun r => r.y == 3 && keyOf s j.thr == r.key && keyOf s j.thr != r.key + 1) = true) := by decide +kernel

/-- TaskAndSystemInstructions: REPART of the issuer's core, of one that is not quiescent, and of a quiescent one to both modes. -/
theorem test_meets_repart : ∀ c ∈ ([0, 1, 5] : List Nat), ∀ w ∈ [true, false],
    let s := asking .repart (BitVec.ofNat 64 (c + if w then 2 ^ 32 else 0)) 0 []
    (findReq s 1).any (fun r => bits r.x 0 20 == c && r.x.getLsbD 32 == w && r.thr.core == 0) = true ∧ Eight s ∧
      ((∀ row, row < 84 → isFreeRow s c row = true) ↔ c = 5) ∧ (∀ k, k < 7 → c = 5 → (getSub s c k).mode = .closed) ∧
      (getCore s c).oq = [] ∧ (getCore s c).held = [] ∧ ((getCore s c).wide = w ↔ w = false) := by decide +kernel

/-- TaskAndSystemInstructions: UNPAIR of a thread and of a handler in no pair, and of either side of one. -/
def unpairing (lead : Bool) : State :=
  { setC (setC { base with pairs := [pair0] } ⟨0, 0⟩ 7 0x10000) ⟨1, 0⟩ 7 0x10000 with cur := if lead then ⟨0, 0⟩ else ⟨1, 0⟩ }
theorem test_meets_unpair : (∀ r ∈ ([0, 84] : List Nat), let s := { setC base ⟨0, r⟩ 7 0x10000 with cur := ⟨0, r⟩ }
     isPriv s s.cur = true ∧ pairOf s s.cur = none ∧ Clean s ∧ s.cur.row = r) ∧
    ∀ b ∈ [true, false], let s := unpairing b
      isPriv s s.cur = true ∧ pairOf s s.cur = some pair0 ∧ reqOf s s.cur = none ∧ (s.cur = pair0.leader ↔ b = true) := by decide +kernel

/-- PairIntervals: the answer of PAIR to a parked thread; a pair whose sides stand at UNPAIR in the last copy of a commit. -/
def parkedIn (i : Instr) (e : Event) (l : List PairSt) : State :=
  { modReq (parkedOn (.ldo 3 1 .plain .d)) 1 (fun r => { r with insn := i }) with doing := some e, pairs := l }
theorem test_meets_pair_made : let s := parkedIn (.pair 3) (.reply 1 (.value 0 false)) []
    AwaitsD s 1 (fun r => r.id == 1 && r.insn == .pair 3 && r.thr == ⟨0, 0⟩) ∧ (awaitedJob s 1).isNone = true ∧ isWide s ⟨0, 0⟩ = false := by
  decide +kernel
theorem test_meets_unpair_ends : let p := copyingBoth true 1
    let s := parkedIn (.unpair 3) (.shadowCopy 0 0 true) [p]
    s.pairs = [p] ∧ p.follower = partnerOf p.leader ∧ isWide s p.leader = false ∧ isWide s p.follower = false ∧
      (p.held = [] ∧ p.outside = [] ∧ p.storing = 0 ∧ p.ending = .none ∧ p.trapLead = none) ∧ 1 + promised s 0 ≤ (getCore s 0).credits ∧
      (reqOf s p.leader).any (fun r => (findReq s r.id == some r) && r.insn == .unpair 3 && !r.held && r.phase != .answered) = true ∧
      tstate s p.leader = 3 ∧ rowOpen s p.leader = true ∧ (getThr s p.leader).cmds = [] ∧ Clean s ∧
      s.cores.all (fun c => c.2.ibHeld.isEmpty) = true ∧ (freshCore s.now).ibHeld = [] := by decide +kernel

/-! ## Premises are met: engine jobs -/

/-- An element's place, in a form that can be decided. -/
def standsB (s : State) (o : Opd) (x : Spot) (w : Bool) (a : Nat) : Bool :=
  match x with
  | .at_ n off => match homeOf s 0 o n w with
    | .place dev core row _ => dev == s.io.devid.toNat && !stackDown s (stackOf core) && (rKind o.p != 3 && !homeWaits s 0 o n []) && off < 4096 &&
        a == rowAddr core row + off && a % o.size == 0
    | _ => false
  | _ => false
theorem waits_any {s : State} {o : Opd} {n : Nat} (h : (rKind o.p != 3 && !homeWaits s 0 o n []) = true) (g : List Nat) :
    homeWaits s 0 o n g = false := by
  simp only [Bool.and_eq_true, bne_iff_ne, ne_eq, Bool.not_eq_true'] at h
  obtain ⟨hk, h⟩ := h
  rw [← h]
  unfold homeWaits
  split <;> first | rfl | (rename_i e; exact absurd e hk)
theorem standsAt {s : State} {o : Opd} {x : Spot} {w : Bool} {a : Nat} (h : standsB s o x w a = true) : Claims.StandsAt s 0 o x w a := by
  unfold standsB at h
  split at h
  · split at h
    · rename_i dev core row gen e
      simp only [Bool.and_eq_true, beq_iff_eq, Bool.not_eq_true', decide_eq_true_eq, bne_iff_ne, ne_eq] at h
      obtain ⟨⟨⟨⟨⟨h1, h2⟩, h3⟩, h4⟩, h5⟩, h6⟩ := h
      exact ⟨_, _, core, row, gen, rfl, by rw [e, h1], h2, waits_any (by simpa using h3), h4, h5, h6⟩
    · cases h
  · cases h

/-- A reading whose elements all have places is in shape, does not wait and meets no fault. -/
theorem mem_subs (l : List Spot) (n : Nat) (h : n ∈ subsOf l) : ∃ off, Spot.at_ n off ∈ l := by
  have key : ∀ (l : List Spot) (a : List Nat), n ∈ l.foldl (fun (a : List Nat) x => match x with
      | .at_ n _ => if a.contains n then a else n :: a | .oos | .zero => a) a → n ∈ a ∨ ∃ off, Spot.at_ n off ∈ l := by
    intro l
    induction l with
    | nil => exact fun a h => .inl h
    | cons x l ih =>
      intro a h
      rcases ih _ h with h | ⟨off, h⟩
      · cases x with
        | oos => exact .inl h
        | zero => exact .inl h
        | at_ k off =>
          simp only at h
          split at h
          · exact .inl h
          · rcases List.mem_cons.mp h with rfl | h
            · exact .inr ⟨off, List.mem_cons_self ..⟩
            · exact .inl h
      · exact .inr ⟨off, List.mem_cons_of_mem _ h⟩
  rw [subsOf, List.mem_reverse] at h
  rcases key l [] h with h | h
  · cases h
  · exact h
theorem reading_sound {s : State} {w : Doer} {o : Opd} {idx : List Int} (hz : w.slot = 0) (h : ∀ i ∈ idx, ∃ a, Claims.Stands s 0 o i false a) :
    (reading s w o idx).oos = false ∧ (reading s w o idx).waits s = false ∧ (reading s w o idx).fault s = none := by
  rw [← hz] at h
  have hs : ∀ n ∈ subsOf (idx.map fun i => spotAt o i), (∀ g, homeWaits s w.slot o n g = false) ∧
      homeFault s o (homeOf s w.slot o n false) = none := by
    intro n hn
    obtain ⟨off, hm⟩ := mem_subs _ _ hn
    obtain ⟨i, hi, e⟩ := List.mem_map.mp hm
    obtain ⟨a, m, off', core, row, gen, e', hh, hd, hf, _⟩ := h i hi
    rw [e] at e'
    injection e' with e1 e2
    subst e1
    exact ⟨hf, by simp [hh, homeFault, hd]⟩
  refine ⟨?_, ?_, ?_⟩
  · simp only [Reading.oos, reading, List.any_map, List.any_eq_false, Function.comp_apply]
    intro i hi
    obtain ⟨a, n, off, core, row, gen, e, -⟩ := h i hi
    simp [e]
  · simp only [Reading.waits, anyWaits, reading, List.any_eq_false]
    intro n hn
    simp [(hs n hn).1]
  · simp only [Reading.fault, firstFault, reading, homesOf, List.findSome?_map, List.findSome?_eq_none_iff, Function.comp_apply]
    intro n hn
    simp [(hs n hn).2]

/-- Objects 68 (8-bit elements from row 0 of core 2 on) and 69 (32-bit elements from row 0 of core 3 on) as operands. -/
def o68 (f : Nat) : Opd := ⟨68, computed f 16384 12 2 0, 68, computed f 16384 12 2 0⟩
def o69 (g : Nat) : Opd := ⟨69, computed g 16384 10 3 0, 69, computed g 16384 10 3 0⟩

/-- The state with those, a job in a queue of tile 0, its step, and more of the tile. -/
def engine (f g : Nat) (e : Event) (q : QSel) (j : Job) (more : TileSt → TileSt := id) : State :=
  { modTile (withRec (withRec world 68 (o68 f).r) 69 (o69 g).r) 0 (fun t => more (setJobs t q [j])) with doing := some e }

/-- The sub-tiles of an operand are in rows 0 to n of a core, and stay there. -/
abbrev Placed (s : State) (o : Opd) (core n : Nat) : Prop := stackDown s (stackOf core) = false ∧ ∀ k ∈ List.range n, ∀ w ∈ [true, false],
  homeOf s 0 o k w = .place s.io.devid.toNat core k 0 ∧ (rKind o.p != 3 && !homeWaits s 0 o k []) = true

theorem spot68 {f : Nat} (hf : f = 0 ∨ f = 12) {i : Nat} (hi : i < 16384) : spotAt (o68 f) i = .at_ (i / 4096) (i % 4096) := by
  have h : ∀ f ∈ ([0, 12] : List Nat), let r := (o68 f).r
      rRank r = 1 ∧ rKind r = 1 ∧ rExt r 0 = 16384 ∧ rTile r 0 = 4096 ∧ rTile r 1 = 1 ∧ rTile r 2 = 1 ∧ rTile r 3 = 1 ∧ rPerm r 0 = 0 ∧
        rPerm r 1 = 1 ∧ rPerm r 2 = 2 ∧ rPerm r 3 = 3 ∧ codeSize (rEfmt r) = 1 := by decide +kernel
  obtain ⟨h1, h2, h3, h4, h5, h6, h7, h8, h9, h10, h11, h12⟩ := h f (by simpa using hf)
  have e : (o68 f).p = (o68 f).r := rfl
  simp [spotAt, spotOf, applyOspol, inShape, subtileOf, e, h1, h2, h3, h4, h5, h6, h7, h8, h9, h10, h11, h12, hi]
theorem spot69 {g : Nat} (hg : g = 2 ∨ g = 10) {i : Nat} (hi : i < 16384) : spotAt (o69 g) i = .at_ (i / 1024) (i % 1024 * 4) := by
  have h : ∀ g ∈ ([2, 10] : List Nat), let r := (o69 g).r
      rRank r = 1 ∧ rKind r = 1 ∧ rExt r 0 = 16384 ∧ rTile r 0 = 1024 ∧ rTile r 1 = 1 ∧ rTile r 2 = 1 ∧ rTile r 3 = 1 ∧ rPerm r 0 = 0 ∧
        rPerm r 1 = 1 ∧ rPerm r 2 = 2 ∧ rPerm r 3 = 3 ∧ codeSize (rEfmt r) = 4 := by decide +kernel
  obtain ⟨h1, h2, h3, h4, h5, h6, h7, h8, h9, h10, h11, h12⟩ := h g (by simpa using hg)
  have e : (o69 g).p = (o69 g).r := rfl
  simp [spotAt, spotOf, applyOspol, inShape, subtileOf, e, h1, h2, h3, h4, h5, h6, h7, h8, h9, h10, h11, h12, hi]

theorem stands68 {s : State} {f : Nat} (hf : f = 0 ∨ f = 12) (h : Placed s (o68 f) 2 4) {i : Nat} (hi : i < 16384) (w : Bool) :
    Claims.Stands s 0 (o68 f) (i : Int) w (rowAddr 2 0 + i) := by
  obtain ⟨h1, h2⟩ := h.2 (i / 4096) (by simp; omega) w (by cases w <;> simp)
  have hz : (o68 f).size = 1 := by rcases hf with rfl | rfl <;> decide +kernel
  exact ⟨_, _, 2, i / 4096, 0, spot68 hf hi, h1, h.1, waits_any h2, by omega, by simp only [rowAddr]; omega, by rw [hz]; omega⟩
theorem stands69 {s : State} {g : Nat} (hg : g = 2 ∨ g = 10) (h : Placed s (o69 g) 3 16) {i : Nat} (hi : i < 16384) (w : Bool) :
    Claims.Stands s 0 (o69 g) (i : Int) w (rowAddr 3 0 + 4 * i) := by
  obtain ⟨h1, h2⟩ := h.2 (i / 1024) (by simp; omega) w (by cases w <;> simp)
  have hz : (o69 g).size = 4 := by rcases hg with rfl | rfl <;> decide +kernel
  exact ⟨_, _, 3, i / 1024, 0, spot69 hg hi, h1, h.1, waits_any h2, by omega, by simp only [rowAddr]; omega, by rw [hz]; simp only [rowAddr]; omega⟩

/-- The premises of `Turn` and `Ready`, in a form that can be decided. -/
abbrev TurnD (s : State) (q : QSel) (j : Job) : Prop :=
  (jobsIn (getTile s 0) q).find? (fun x => x.status.isNone) = some j ∧ (getTile s 0).full = [] ∧ j.req = 0 ∧ s.poison = [] ∧
  s.bitErrs = [] ∧ Memory.wf s.mem = true ∧ (s.trace = none ∧ s.acting = none)
theorem turn {s : State} {q : QSel} {j : Job} (h : TurnD s q j) : Claims.Turn s 0 q j :=
  ⟨h.1, h.2.1, .inl h.2.2.1, ⟨h.2.2.2.1, h.2.2.2.2.1, h.2.2.2.2.2.1⟩, h.2.2.2.2.2.2⟩
/-- What a job fetches is whole. -/
abbrev Whole (j : Job) : Prop := j.ready = true ∧ j.got.all (fun x => x.bad.isEmpty) = true
/-- None of its accesses is under way. -/
abbrev UnsentD (s : State) (j : Job) : Prop := j.done = none ∧ j.todo = [] ∧ j.feeding = 0 ∧ s.agenda = []
abbrev ReadyD (s : State) (q : QSel) (j : Job) : Prop := TurnD s q j ∧ Whole j ∧ UnsentD s j ∧ stackDown s 0 = false ∧ j.cancel = false ∧ (getTile s 0).faulty = []
theorem ready {s : State} {q : QSel} {j : Job} (h : ReadyD s q j) : Claims.Ready s 0 q j where
  toTurn := turn h.1
  fed := ⟨h.2.1.1, fun x hx => by simpa using List.all_eq_true.mp h.2.1.2 x hx⟩
  unsent := ⟨h.2.2.1.1, h.2.2.1.2.1, h.2.2.1.2.2.1, fun f ⟨x, hx, _⟩ => by simp [h.2.2.1.2.2.2] at hx⟩
  up := h.2.2.2.1
  live := h.2.2.2.2.1
  sound := h.2.2.2.2.2
abbrev BankedD (s : State) : Prop := (getTile s 0).acc.length = 4 ∧ (getTile s 0).bbanks.length = 2 ∧ ∀ b ∈ (getTile s 0).acc, b.cells = []
theorem banked {s : State} (h : BankedD s) : Claims.Banked s 0 := ⟨h.1, h.2.1, fun b hb => .inl (h.2.2 b hb)⟩

/-- A job of thread 0 with KEY 5 and no route. -/
def jobOf (c : Instr) (block : List Word) : Job := { entry := 0, cmd := c, thr := ⟨0, 0⟩, block := block, fmt := 0, key := 5, priv := false, req := 0, ready := true }

/-- MMUL of object 68 by itself, streamed, or by a LOADED bank of zeros; of i8 to i32, or of e4m3 to f32. -/
def mmulJob (f : Nat) (st : Bool) : Job :=
  jobOf (.mmul 3 4) [68, if st then 68 else 0, if st then 0x8000000080 else 128, 0, 0, 0, 0x80, if f = 0 then 0x20000 else 0xA0C0C]
def mmuls (f : Nat) (st : Bool) : State :=
  engine f 2 (.matrixJob 0) .mat (mmulJob f st) fun t => if st then t else { t with bbanks := [.loaded f 1 (List.replicate 64 true) [] 16 [], .empty] }

theorem test_meets_mmul : ∀ x ∈ [(0, true), (0, false), (12, false)], let s := mmuls x.1 x.2
    let j := mmulJob x.1 x.2
    s.doing = some (.matrixJob 0) ∧ ReadyD s .mat j ∧ BankedD s ∧ Placed s (o68 x.1) 2 4 ∧ slotOf s 0 = 0 := by decide +kernel

theorem mmuls_ok {x : Nat × Bool} (h : x ∈ [(0, true), (0, false), (12, false)]) : (x.1 = 0 ∨ x.1 = 12) ∧ Placed (mmuls x.1 x.2) (o68 x.1) 2 4 ∧
    slotOf (mmuls x.1 x.2) 0 = 0 := by
  refine ⟨?_, (test_meets_mmul x h).2.2.2⟩
  rcases x with ⟨f, b⟩
  simp at h
  rcases h with ⟨rfl, -⟩ | ⟨rfl, -⟩ | ⟨rfl, -⟩ <;> simp

/-- The indices of A, one K-tile, and of a streamed B (R243, R244). -/
def idxA (j : Job) : List Int := (List.range 1).flatMap fun t => (List.range 128).flatMap fun m => (List.range 128).map fun k =>
  ((bits (bw j.block 0) 32 32 + bits (bw j.block 2) 0 32 * m + 128 * t + k : Nat) : Int)
def idxB (j : Job) : List Int := (List.range 128).flatMap fun k => (List.range 128).map fun c =>
  ((bits (bw j.block 1) 32 32 + bits (bw j.block 2) 32 32 * k + c : Nat) : Int)

/-- Who reads the operands of an MMUL of tile 0. -/
def feeder (s : State) (j : Job) : Doer := { doerOf s 0 j with each := false }

def readB (s : State) (o : Opd) (j : Job) : BSource → Option Reading
  | .streamed _ => some (reading s (feeder s j) o (idxB j))
  | .held .. => none

/-- The plan of an MMUL of one object by itself or by a LOADED bank, without scales and outliers. -/
theorem plan_ok {s : State} {j : Job} {o : Opd} {src : BSource} (hs : slotOf s 0 = 0) (hm : bits (jobFormats j) 24 8 = 0)
    (hc : bits (bw j.block 4) 32 16 = 0)
    (hb : (bits (bw j.block 4) 48 16 = 0 ∧ bits (bw j.block 5) 32 32 = 0 ∧ bits (bw j.block 6) 8 56 = 0 ∧ bits (bw j.block 6) 2 4 = 0) ∧
      formatsOk (bits (jobFormats j) 0 8) (bits (jobFormats j) 8 8) (bits (jobFormats j) 16 8) 0 = true ∧
      ((getTile s 0).acc.getD (bits (bw j.block 6) 0 2) {}).tag = .none)
    (hsrc : bSource (getTile s 0) j.block (bits (jobFormats j) 8 8) = some src)
    (hf : ∀ f l d y, src = .held f l d y → f = 1) (ho : operand s 0 j.key j.priv (bits (bw j.block 0) 0 32) [0] = some o)
    (hf0 : o.fmt = bits (jobFormats j) 0 8) (hf1 : o.fmt = bits (jobFormats j) 8 8) (hr : (reading s (feeder s j) o (idxA j)).oos = false)
    (hst : ∀ b, src = .streamed b → bits (bw j.block 1) 0 32 = bits (bw j.block 0) 0 32 ∧ (reading s (feeder s j) o (idxB j)).oos = false) :
    matPlan s 0 j = .ok ⟨reading s (feeder s j) o (idxA j), readB s o j src, none, none, src⟩ := by
  obtain ⟨⟨h1, h2, h3, h4⟩, h5, h6⟩ := hb
  have hfe : (⟨(doerOf s 0 j).tile, (doerOf s 0 j).slot, (doerOf s 0 j).thr, false⟩ : Doer) = feeder s j := rfl
  unfold matPlan
  cases src with
  | streamed b =>
    obtain ⟨he, hr2⟩ := hst b rfl
    unfold idxA at hr
    unfold idxB at hr2
    have hq : bits (jobFormats j) 8 8 = bits (jobFormats j) 0 8 := hf1.symm.trans hf0
    rw [hq] at h5 hsrc
    have hk : (!([bits (jobFormats j) 0 8] : List Nat).contains o.fmt) = false := by simp [hf0]
    simp only [h1, h2, h3, h4, hm, hc, hq, h5, h6, hs, soundReading, hfe, ho, he, hsrc, hk, hr, hr2, ne_eq, not_true_eq_false, decide_false,
      Bool.or_false, Bool.not_true, Bool.and_false, Bool.false_and, Bool.false_eq_true, if_false, if_true, Option.map_some, idxA, idxB, readB]
  | held f l d y =>
    have := hf f l d y rfl
    subst this
    unfold idxA at hr
    have hq : bits (jobFormats j) 8 8 = bits (jobFormats j) 0 8 := hf1.symm.trans hf0
    rw [hq] at h5 hsrc
    have hk : (!([bits (jobFormats j) 0 8] : List Nat).contains o.fmt) = false := by simp [hf0]
    simp only [h1, h2, h3, h4, hm, hc, hq, h5, h6, hs, soundReading, hfe, ho, hsrc, hk, hr, ne_eq, not_true_eq_false, decide_false,
      Bool.or_false, Bool.not_true, Bool.and_false, Bool.false_and, Bool.false_eq_true, if_false, if_true, idxA, readB]

theorem mmuls_facts : ∀ x ∈ [(0, true), (0, false), (12, false)], let s := mmuls x.1 x.2
    let j := mmulJob x.1 x.2
    bits (jobFormats j) 24 8 = 0 ∧ bits (bw j.block 4) 32 16 = 0 ∧
    ((bits (bw j.block 4) 48 16 = 0 ∧ bits (bw j.block 5) 32 32 = 0 ∧ bits (bw j.block 6) 8 56 = 0 ∧ bits (bw j.block 6) 2 4 = 0) ∧
      formatsOk (bits (jobFormats j) 0 8) (bits (jobFormats j) 8 8) (bits (jobFormats j) 16 8) 0 = true ∧
      ((getTile s 0).acc.getD (bits (bw j.block 6) 0 2) {}).tag = .none) ∧
    operand s 0 j.key j.priv (bits (bw j.block 0) 0 32) [0] = some (o68 x.1) ∧ (o68 x.1).fmt = bits (jobFormats j) 0 8 ∧
    (o68 x.1).fmt = bits (jobFormats j) 8 8 ∧ bits (bw j.block 0) 32 32 = 0 ∧ bits (bw j.block 2) 0 32 = 128 ∧
    (x.2 = true → bits (bw j.block 1) 0 32 = bits (bw j.block 0) 0 32 ∧ bits (bw j.block 1) 32 32 = 0 ∧ bits (bw j.block 2) 32 32 = 128) := by
  decide +kernel

/-- Nothing is listed from an address on. -/
theorem zero_above {N : Nat} : ∀ {m : List Host.Cell}, m.all (fun c => c.1 < N) = true → ∀ a, N ≤ a → Memory.get m a = 0
  | [], _, _, _ => rfl
  | (k, b) :: m, h, a, ha => by
    simp only [List.all_cons, Bool.and_eq_true, decide_eq_true_eq] at h
    unfold Memory.get
    rw [if_neg (by omega)]
    exact zero_above h.2 a ha
theorem mmuls_low : ∀ x ∈ [(0, true), (0, false), (12, false)], (mmuls x.1 x.2).mem.all (fun c => c.1 < rowAddr 2 0) = true := by
  decide +kernel

/-- What a job needed no fetch for stands as it is. -/
theorem seen_none {s : State} {j : Job} (h : j.got = []) (a : Nat) : Claims.seen s j a = Memory.get s.mem a := by simp [Claims.seen, h]

/-- MatrixJobs: every premise on plan, operands and elements; from the bank of zeros every element of A and B is finite. -/
theorem test_meets_matrix_jobs (x : Nat × Bool) (hx : x ∈ [(0, true), (0, false), (12, false)]) :
    ∃ p b, matPlan (mmuls x.1 x.2) 0 (mmulJob x.1 x.2) = .ok p ∧ (∀ y ∈ p.list, y.2.waits (mmuls x.1 x.2) = false) ∧ readingsFault (mmuls x.1 x.2) p.list = none ∧
      Claims.BIs (mmuls x.1 x.2) 0 (mmulJob x.1 x.2) p 1 b ∧ bits (Claims.formats (mmulJob x.1 x.2)) 24 8 = 0 ∧ bits (bw (mmulJob x.1 x.2).block 4) 32 16 = 0 ∧
      (∀ m k : Nat, m < 128 → k < 128 →
        Claims.Stands (mmuls x.1 x.2) (slotOf (mmuls x.1 x.2) 0) p.a.o (bits (bw (mmulJob x.1 x.2).block 0) 32 32 + bits (bw (mmulJob x.1 x.2).block 2) 0 32 * m + k : Nat) false (rowAddr 2 0 + (128 * m + k)) ∧
        Claims.seen (mmuls x.1 x.2) (mmulJob x.1 x.2) (rowAddr 2 0 + (128 * m + k)) = 0) ∧
      (x.2 = false → ∀ k n, b k n = some 0) ∧ Claims.Exact (mEl 12 0) 0 := by
  obtain ⟨hf, hp, hs⟩ := mmuls_ok hx
  obtain ⟨f1, f2, f3, f4, f5, f6, f7, f8, f9⟩ := mmuls_facts x hx
  have hA : ∀ i ∈ idxA (mmulJob x.1 x.2), ∃ a, Claims.Stands (mmuls x.1 x.2) 0 (o68 x.1) i false a := by
    intro i hi
    simp only [idxA, List.mem_flatMap, List.mem_map, List.mem_range, f7, f8] at hi
    obtain ⟨t, ht, m, hm, k, hk, rfl⟩ := hi
    exact ⟨_, stands68 hf hp (by omega) false⟩
  have hz : (feeder (mmuls x.1 x.2) (mmulJob x.1 x.2)).slot = 0 := by
    have ht : tileOf (mmulJob x.1 x.2).thr.core = 0 := by show tileOf 0 = 0; decide
    show slotOf _ (tileOf _) = 0
    rw [ht]
    exact hs
  have hA' := reading_sound hz hA
  have hlow := zero_above (mmuls_low x hx)
  have hstA : ∀ m k : Nat, m < 128 → k < 128 →
        Claims.Stands (mmuls x.1 x.2) (slotOf (mmuls x.1 x.2) 0) (o68 x.1) (bits (bw (mmulJob x.1 x.2).block 0) 32 32 + bits (bw (mmulJob x.1 x.2).block 2) 0 32 * m + k : Nat) false (rowAddr 2 0 + (128 * m + k)) ∧
        Claims.seen (mmuls x.1 x.2) (mmulJob x.1 x.2) (rowAddr 2 0 + (128 * m + k)) = 0 := by
    intro m k hm hk
    refine ⟨?_, (seen_none rfl _).trans (hlow _ (by omega))⟩
    rw [f7, f8, hs, Nat.zero_add]
    exact stands68 hf hp (by omega) false
  by_cases hb : x.2 = true
  · obtain ⟨e1, e2, e3⟩ := f9 hb
    have hB : ∀ k n : Nat, k < 128 → n < 128 →
        Claims.Stands (mmuls x.1 x.2) 0 (o68 x.1) (bits (bw (mmulJob x.1 x.2).block 1) 32 32 + bits (bw (mmulJob x.1 x.2).block 2) 32 32 * k + n : Nat) false (rowAddr 2 0 + (128 * k + n)) := by
      intro k n hk hn
      rw [e2, e3, Nat.zero_add]
      exact stands68 hf hp (by omega) false
    have hB' := reading_sound (s := (mmuls x.1 x.2)) (o := o68 x.1) (idx := idxB (mmulJob x.1 x.2)) hz (by
      intro i hi
      simp only [idxB, List.mem_flatMap, List.mem_map, List.mem_range] at hi
      obtain ⟨k, hk, n, hn, rfl⟩ := hi
      exact ⟨_, hB k n hk hn⟩)
    have hsrc : bSource (getTile (mmuls x.1 x.2) 0) (mmulJob x.1 x.2).block (bits (jobFormats (mmulJob x.1 x.2)) 8 8) = some (.streamed 0) := by
      rcases x with ⟨f, b⟩
      simp only at hb
      subst hb
      simp at hx
      subst hx
      show bSource (getTile (mmuls 0 true) 0) (mmulJob 0 true).block (bits (jobFormats (mmulJob 0 true)) 8 8) = some (.streamed 0)
      have : ∀ y, bSource (getTile (mmuls 0 true) 0) (mmulJob 0 true).block (bits (jobFormats (mmulJob 0 true)) 8 8) = y →
        (match y with | some (.streamed 0) => true | _ => false) = true := by
        intro y e; subst e; decide +kernel
      have := this _ rfl
      split at this
      · assumption
      · cases this
    have hplan := plan_ok hs f1 f2 f3 hsrc (by intro f l d y h; cases h) f4 f5 f6 hA'.1 (by
      intro b h; exact ⟨e1, hB'.1⟩)
    refine ⟨_, fun k n => some (Claims.seen (mmuls x.1 x.2) (mmulJob x.1 x.2) (rowAddr 2 0 + (128 * k + n))), hplan, ?_, ?_, ?_, f1, f2, hstA, by simp [hb], ⟨false, 0, by decide +kernel, rfl⟩⟩
    · simp [MatPlan.list, readB, hA'.2.1, hB'.2.1]
    · simp [MatPlan.list, readingsFault, readB, hA'.2.2, hB'.2.2]
    · refine ⟨rfl, _, rfl, fun k n hk hn => ⟨_, ?_, rfl⟩⟩
      rw [hs]
      exact hB k n hk hn
  · have hsrc : bSource (getTile (mmuls x.1 x.2) 0) (mmulJob x.1 x.2).block (bits (jobFormats (mmulJob x.1 x.2)) 8 8) = some (.held 1 (List.replicate 64 true) [] []) := by
      have : ∀ z ∈ [(0, false), (12, false)], ∀ y, bSource (getTile (mmuls z.1 z.2) 0) (mmulJob z.1 z.2).block (bits (jobFormats (mmulJob z.1 z.2)) 8 8) = y →
          (match y with | some (.held 1 l [] []) => l == List.replicate 64 true | _ => false) = true := by
        intro z hz y e; subst e; revert z; decide +kernel
      have := this x (by simp at hx hb ⊢; rcases hx with rfl | rfl | rfl <;> simp_all) _ rfl
      split at this
      · rw [beq_iff_eq] at this; subst this; assumption
      · cases this
    have hplan := plan_ok hs f1 f2 f3 hsrc (by intro f l d y h; injection h with h; exact h.symm) f4 f5 f6 hA'.1 (by intro b h; cases h)
    have hl : ∀ i, (List.replicate 64 true).getD i true = true := by
      intro i
      rw [List.getD_eq_getElem?_getD, List.getElem?_replicate]
      split <;> rfl
    refine ⟨_, fun _ _ => some 0, hplan, ?_, ?_, ?_, f1, f2, hstA, by simp, ⟨false, 0, by decide +kernel, rfl⟩⟩
    · simp [MatPlan.list, readB, hA'.2.1]
    · simp [MatPlan.list, readingsFault, readB, hA'.2.2]
    · exact ⟨rfl, fun k n hk hn => by rw [if_pos (hl _)]; rfl⟩

/-- MatrixBanks: MLDB of object 68 in either format; MOUT of a bank with each tag to object 69; MZERO of both kinds of bank; MTEST
with and without a faulty sub-array. -/
def mldbJob (f : Nat) : Job := jobOf (.mldb 3 4) [68, 128, 0, 0, 1, BitVec.ofNat 64 (f * 256), 0, 0]
def mldbs (f : Nat) : State := engine f 2 (.mldbJob 0) .mat (mldbJob f)
theorem test_meets_mldb : ∀ f ∈ ([0, 12] : List Nat), let s := mldbs f
    let j := mldbJob f
    let w := bw j.block
    ReadyD s .mat j ∧ BankedD s ∧ Claims.runs (.mldbJob 0) j.cmd = true ∧ mldbBroken j = false ∧ bits (w 3) 7 1 = 0 ∧
      denseOk (getTile s 0) = true ∧ bits (if bits (w 4) 0 1 = 1 then w 5 else j.fmt) 8 8 = f ∧ slotOf s 0 = 0 ∧
      operand s 0 j.key j.priv (bits (w 0) 0 32) [0] = some (o68 f) ∧ (o68 f).fmt = f ∧ Placed s (o68 f) 2 4 ∧
      bits (w 0) 32 32 = 0 ∧ bits (w 1) 0 32 = 128 := by decide +kernel
theorem test_meets_mldb_places : ∀ f ∈ ([0, 12] : List Nat), ∀ k n : Nat, k < 128 → n < 128 →
    Claims.Stands (mldbs f) 0 (o68 f) (0 + 128 * k + n : Nat) false (rowAddr 2 0 + (128 * k + n)) := fun f hf k n hk hn => by
  rw [Nat.zero_add]
  exact stands68 (by simpa using hf) (test_meets_mldb f hf).2.2.2.2.2.2.2.2.2.2.1 (by omega) false

def moutJob : Job := jobOf (.mout 3 4 1) [0, 69, 0]
def mouts (x : Nat × AccTag) : State :=
  engine 0 x.1 (.moutJob 0) .mat moutJob fun t => { t with acc := t.acc.set 0 { tag := x.2 } }
theorem test_meets_mout : ∀ x ∈ [(2, AccTag.none), (10, .none), (10, .f32), (2, .i32)], let s := mouts x
    let w := bw moutJob.block
    ReadyD s .mat moutJob ∧ BankedD s ∧ Claims.runs (.moutJob 0) moutJob.cmd = true ∧ bits (w 0) 2 62 = 0 ∧ bits (w 1) 32 32 = 0 ∧
      slotOf s 0 = 0 ∧ operand s 0 moutJob.key moutJob.priv (w 1).toNat [1] = some (o69 x.1) ∧ unpackCoord 1 (w 2) = some [0, 0, 0, 0] ∧
      Claims.bankTag s 0 (bits (w 0) 0 2) = x.2 ∧ (o69 x.1).fmt = x.1 ∧ Placed s (o69 x.1) 3 16 := by decide +kernel
theorem test_meets_mout_places : ∀ x ∈ [(2, AccTag.none), (10, .none), (10, .f32), (2, .i32)],
    (∀ i : Nat, i < 16384 → Claims.Stands (mouts x) 0 (o69 x.1) (0 + (i : Int)) true (rowAddr 3 0 + 4 * i)) ∧
    (∀ i k : Nat, i < 16384 → k < i → rowAddr 3 0 + 4 * k ≠ rowAddr 3 0 + 4 * i) ∧ ∀ a, ¬ Claims.issuerBytes (mouts x) moutJob a :=
  fun x hx => ⟨fun i hi => by
      rw [Int.zero_add]
      exact stands69 (by simp at hx; rcases hx with rfl | rfl | rfl | rfl <;> simp) (test_meets_mout x hx).2.2.2.2.2.2.2.2.2.2 hi true,
    fun i k _ _ => by omega, fun a h => h.1 rfl⟩

def mzeroJob (n : Word) : Job := jobOf (.mzero 3 4) [n]
def mtestJob : Job := jobOf (.mtest 3) []
theorem test_meets_mzero : (∀ n ∈ ([0, 3, 4, 5] : List Nat), let j := mzeroJob (BitVec.ofNat 64 n)
      let s := engine 0 2 (.mzeroJob 0) .mat j
      ReadyD s .mat j ∧ BankedD s ∧ Claims.runs (.mzeroJob 0) j.cmd = true ∧ bits (bw j.block 0) 3 61 = 0 ∧
        (bits (bw j.block 0) 2 1 = 1 → bits (bw j.block 0) 0 2 < 2)) ∧
    (∀ l ∈ ([[], [3]] : List (List Nat)), let s := engine 0 2 (.mtestJob 0) .mat mtestJob fun t => { t with faulty := l }
      TurnD s .mat mtestJob ∧ stackDown s 0 = false ∧ mtestJob.cancel = false ∧ mtestJob.done = none ∧ Claims.runs (.mtestJob 0) mtestJob.cmd = true) := by
  decide +kernel

/-- JobsStop: every kind of job, cancelled, and on a stack that is DOWN. -/
theorem test_meets_jobs_stop : ∀ x ∈ [(Event.matrixJob 0, Instr.mmul 3 4), (.mldbJob 0, .mldbW 3 4), (.moutJob 0, .mout 3 4 1), (.mzeroJob 0, .mzero 3 4),
      (.mtestJob 0, .mtest 3), (.copyJob 0, .cpy 3 4), (.cpyxJob 0, .cpyx 3 4), (.cpycJob 0, .cpyc 3 4), (.pointerWrite 0, .cpy 3 4),
      (.gathJob 0, .gath 3 4), (.scatJob 0, .scat 3 4), (.scataddJob 0, .scatadd 3 4)], ∀ b ∈ [true, false],
    let j := { jobOf x.2 [] with cancel := b }
    let s := modTile { world with doing := some x.1 } 0 fun t => setJobs t (queueOf j.cmd) [j]
    let s := { s with io := { s.io with health := if b then 0 else 1 } }
    Claims.runs x.1 j.cmd = true ∧ TurnD s (queueOf j.cmd) j ∧ (stackDown s 0 = true ∨ (j.cancel = true ∧ j.done = none)) := by decide +kernel

/-- JobsStop: a write of a copy's job served at its owner, an addition to word 5 of object 69, and the last of a job's writes. -/
def landing (a : FeedDo) (l : List Feed) (c : Bool) : State :=
  let j := { jobOf (.cpy 3 4) [] with no := 7, feeding := 1, todo := l, cancel := c, done := some 0 }
  let f : Feed := { gran := rowAddr 3 0 / 64, no := 7, act := a, oh := 69 }
  { modTile world 0 (fun t => setJobs t .cpy [j]) with agenda := [⟨0, .local, 0, 0, .serve 3 0 0 (.feed f false)⟩] }
theorem test_meets_landing : ∀ x ∈ [(FeedDo.put true [(rowAddr 3 0 + 8, 5, 0xFF), (rowAddr 3 0 + 16, 0, 1)], []), (.add true 20 1, []),
      (.add false 20 1, [{ gran := rowAddr 3 0 / 64, no := 7, act := .fetch }])],
    let s := landing x.1 x.2 (x.2 != [])
    let f : Feed := { gran := rowAddr 3 0 / 64, no := 7, act := x.1, oh := 69 }
    s.agenda = [⟨0, .local, 0, 0, .serve 3 0 0 (.feed f false)⟩] ∧ serveWaits { s with agenda := [] } 3 0 = false ∧ Clean s ∧
      (match feedAt s f with | .here => true | _ => false) = true ∧ f.oh ≠ 3 ∧ f.act ≠ .fetch ∧ f.cls = .copy ∧
      (fedJob s f.no).any (fun y => y.1 == 0 && y.2.1 == .cpy && y.2.2.feeding == 1 && (y.2.2.todo.isEmpty || y.2.2.cancel)) = true := by
  decide +kernel
/-- JobsStop: a job whose writes are under way, and one whose writes have landed, the first of them having failed or not. -/
theorem test_meets_landed : ∀ n ∈ ([0, 1] : List Nat), ∀ y ∈ [none, some (3, 0xFF0C)],
    let j := { jobOf (.scat 3 4) [] with feeding := n, done := some 0, failed := y }
    let s := modTile { world with doing := some (.scatJob 0) } 0 fun t => setJobs t .gat [j]
    Claims.runs (.scatJob 0) j.cmd = true ∧ queueOf j.cmd = .gat ∧ TurnD s .gat j ∧ stackDown s 0 = false ∧ j.done = some 0 ∧
      findReq s j.release = none := by decide +kernel

/-! ## Premises are met: copies, frame swaps, gathers -/

/-- A copy of 2 × 2 bytes of object 68 to its index 4096, with a pointer in element 5 of object 70 or without; by nibbles of its
words. -/
def copyOf (c : Instr) (esz ptr : Nat) : Job := jobOf c [0x4400000044, 0, 4096, 0x200000002, 0x200000002, 0x500000046,
  BitVec.ofNat 64 (8 * ptr + 65536 * esz), 0]
def copying (e : Event) (j : Job) : State := engine 0 2 e .cpy j
theorem test_meets_copies : ∀ x ∈ [false, true], ∀ ptr ∈ ([0, 1] : List Nat), let e := if x then Event.cpyxJob 0 else .copyJob 0
    let j := copyOf (if x then .cpyx 3 4 else .cpy 3 4) (if x then 1 else 0) ptr
    let s := copying e j
    ReadyD s .cpy j ∧ Claims.runs e j.cmd = true ∧ badCopy s j = false ∧ slotOf s (tileOf j.thr.core) = 0 ∧
      operand s 0 j.key j.priv (bits (bw j.block 0) 0 32) [0] = some (o68 0) ∧ operand s 0 j.key j.priv (bits (bw j.block 0) 32 32) [1] = some (o68 0) ∧
      (pointerOf s j).isOk = true ∧ (o68 0).size = 1 ∧
      Placed s (o68 0) 2 4 := by decide +kernel
theorem test_meets_nibbles : let j := copyOf (.cpyx 3 4) 0 0
    let s := copying (.cpyxJob 0) j
    ReadyD s .cpy j ∧ badCopy s j = false ∧ bits (bw j.block 6) 16 8 = 0 ∧ (pointerOf s j).isOk = true ∧
      Placed s (o68 0) 2 4 := by decide +kernel
/-- So every element that these copies read and write stands (`stands68`), and no two write one place. -/
theorem test_meets_copies_places {s : State} (h : Placed s (o68 0) 2 4) (x : Bool) (r c : Nat) (hr : r < 2) (hc : c < 2) :
    Claims.Stands s 0 (o68 0) (2 * r + c : Nat) false (rowAddr 2 0 + (2 * r + c)) ∧
    Claims.Stands s 0 (o68 0) (4096 + 2 * (if x then c else r) + (if x then r else c) : Nat) true
      (rowAddr 2 0 + (4096 + 2 * (if x then c else r) + if x then r else c)) ∧
    Claims.Stands s 0 (o68 0) ((2 * r + c) / 2 : Nat) false (rowAddr 2 0 + (2 * r + c) / 2) ∧
    Claims.Stands s 0 (o68 0) ((4096 + 2 * c + r) / 2 : Nat) true (rowAddr 2 0 + (4096 + 2 * c + r) / 2) := by
  refine ⟨stands68 (.inl rfl) h (by omega) _, stands68 (.inl rfl) h (by cases x <;> simp <;> omega) _, stands68 (.inl rfl) h (by omega) _,
    stands68 (.inl rfl) h (by omega) _⟩
def o70 : Opd := ⟨70, computed 7 512 9 4 0, 70, computed 7 512 9 4 0⟩
/-- CopyJobs' pointers: one whose release is out, none left, and the next one, without and with accesses to fence. -/
def pointing (l : List Nat) (rel : Nat) (c4 : Word) : State × Job :=
  let j := { copyOf (.cpy 3 4) 0 1 with ptrs := l, release := rel }
  (modTile (setC (copying (.pointerWrite 0) j) j.thr 4 c4) 0 fun t => { t with recs := [(70, o70.r)] }, j)
theorem test_meets_pointer :
    (∀ x ∈ ([([2], 1, 0), ([2], 0, 0), ([2, 4], 0, 1), ([], 0, 0)] : List (List Nat × Nat × Word)),
      let r := pointing x.1 x.2.1 x.2.2
      let s := if x.2.1 = 1 then addReq r.1 (jobReq r.1 r.2 (.stff 0 0 .plain)) else r.1
      let j := r.2
      ReadyD s .cpy j ∧ Claims.runs (.pointerWrite 0) j.cmd = true ∧ NamedD s ∧ (j.release = 0 ∨ findReq s j.release = none ↔ x.2.1 = 0) ∧
      (match pointerOf s j with | .ok (some o) => o == o70 | _ => false) = true ∧ bits (bw j.block 5) 32 32 = 5 ∧
      standsB s o70 (spotAt o70 5) true (rowAddr 4 0 + 40) = true ∧ (getC s j.thr 4 = 0 ↔ x.2.2 = 0) ∧
      (∀ t ∈ probedTiles j.thr (getC s j.thr 4), t < 2048 → stackDown s (t / 128) = false) ∧
      (match translate s 0 (tileSrc s 0 none true) j.key j.priv 70 5 { cls := 1, width := 8, zeroOk := false, writes := true, word := true } with
        | .place h _ _ dev f _ _ => h != Config.moduleObj && j.failed == none && dev == s.io.devid.toNat && !stackDown s (stackOf f.core)
        | _ => x.1 == []) = true) := by decide +kernel

/-- FrameSwaps: two i32 elements to the framed object 65, with the version that the block expects and another. -/
def o65 : Opd := ⟨65, framed 66 67, 65, framed 66 67⟩
theorem test_meets_frame_swaps : ∀ v ∈ ([0, 1] : List Nat), ∀ g ∈ ([1, 16383] : List Nat),
    let j := jobOf (.cpyc 3 4) [0x4100000045, 0, 3, 0x200000001, 0, 0, 0, BitVec.ofNat 64 v]
    let s := putWord (engine 0 2 (.cpycJob 0) .cpy j) (rowAddr 0 78) (BitVec.ofNat 64 (188 * 65536 + 4 * g + 1))
    NamedD s ∧ entGen (getWord s (rowAddr 0 78)) = g ∧ bits (getWord s (rowAddr 0 78)) 43 19 = s.io.devid.toNat ∧
      ReadyD s .cpy j ∧ Claims.runs (.cpycJob 0) j.cmd = true ∧ badCopy s j = false ∧ bits (bw j.block 6) 3 1 = 0 ∧
      operand s 0 j.key j.priv (bits (bw j.block 0) 0 32) [0] = some (o69 2) ∧
      operand s 0 j.key j.priv (bits (bw j.block 0) 32 32) [1, 5] = some o65 ∧ rKind o65.r = 2 ∧
      spotAt o65 ((bw j.block 2).extractLsb' 0 48).toInt = .at_ 0 24 ∧ (rKind o65.p != 3 && !homeWaits s 0 o65 0 []) = true ∧
      entryAddr s 0 o65.ph 0 = some (rowAddr 0 78) ∧ stackDown s (stackOf (coreOfAddr (rowAddr 0 78))) = false ∧
      refThr (BitVec.ofNat 64 (entFrame (getWord s (rowAddr 0 78)))) = ⟨1, 60⟩ ∧ stackDown s (stackOf 1) = false ∧
      entState (getWord s (rowAddr 0 78)) = 1 ∧ (getPool s (stackOf 1) (poolKey 0 (rPool o65.p))).free = [189] ∧
      frameStack 189 = stackOf 1 ∧ (getCore s 1).waits = [] ∧ postedAt s ⟨1, 60⟩ = [] ∧ rowAddr 0 78 < rowAddr 1 61 ∧ rowOfAddr (rowAddr 0 78) < 84 ∧
      rowAddr 0 78 % 16 = 0 ∧ (getWord s (rowAddr 0 78 + 8) = bw j.block 7 ↔ v = 0) ∧
      (∀ c ∈ ([0, 1] : List Nat), standsB s (o69 2) (spotAt (o69 2) (0 + c : Int)) false (rowAddr 3 0 + 4 * c) = true) := by decide +kernel

/-- GatherJobs: a list of two coordinates in object 70, 5 and 7, or 5 twice; bytes gathered and scattered within object 68, i32 and
f32 elements added within object 69. -/
def gathering (c : Instr) (e : Event) (g : Nat) (h : Word) (second : Word) : State × Job :=
  let j := jobOf c [0x4600000000 ||| h, 0, 2 ||| (h <<< 32), 8, 0, 0, 0, 0]
  (putWord (putWord (engine 0 g e .gat j) (rowAddr 4 0) 5) (rowAddr 4 0 + 8) second, j)
theorem test_meets_gathers : ∀ x ∈ [(Instr.gath 3 4, Event.gathJob 0, 2, o68 0, 68, 7), (.scat 3 4, .scatJob 0, 2, o68 0, 68, 5),
      (.scatadd 3 4, .scataddJob 0, 2, o69 2, 69, 5), (.scatadd 3 4, .scataddJob 0, 10, o69 10, 69, 7)],
    let k : Nat := x.2.2.2.2.2
    let r := gathering x.1 x.2.1 x.2.2.1 (BitVec.ofNat 64 x.2.2.2.2.1) (BitVec.ofNat 64 k)
    let s := r.1
    let j := r.2
    let o := x.2.2.2.1
    s.doing = some x.2.1 ∧ Claims.runs x.2.1 j.cmd = true ∧ badGather s j = false ∧ slotOf s 0 = 0 ∧
      operand s 0 j.key j.priv (bits (bw j.block 0) 32 32) [0] = some o70 ∧ o70.fmt = 7 ∧
      (∀ cls ∈ ([0, 1, 2] : List Nat), operand s 0 j.key j.priv (bits (bw j.block 0) 0 32) [cls] = some o ∧
        operand s 0 j.key j.priv (bits (bw j.block 2) 32 32) [cls] = some o) ∧ bits (bw j.block 2) 0 32 = 2 ∧
      (∀ i ∈ ([0, 1] : List Nat), standsB s o70 (spotAt o70 (0 + i : Int)) false (rowAddr 4 0 + 8 * i) = true ∧
        unpackCoord (rRank o.r) (BitVec.ofNat 64 (Claims.seenNum s j (rowAddr 4 0 + 8 * i) 8)) = some [((if i = 0 then 5 else k : Nat) : Int), 0, 0, 0]) ∧
      (if o.size = 1 then Placed s o 2 4 else Placed s o 3 16) ∧ rRank o.r = 1 ∧ tileOf 2 = 0 ∧ tileOf 3 = 0 := by decide +kernel

theorem test_meets_gathers_ready : ∀ x ∈ [(Instr.gath 3 4, Event.gathJob 0, 2), (.scat 3 4, .scatJob 0, 2), (.scatadd 3 4, .scataddJob 0, 10)],
    ∀ h ∈ ([68, 69] : List Nat), let r := gathering x.1 x.2.1 x.2.2 (BitVec.ofNat 64 h) 7
    ReadyD r.1 .gat r.2 := by decide +kernel

/-! ## Premises are met: the row sequencer and the collectives -/

/-- A kernel of a core on two rows from X = row 12, Y = row 24 and Z = row 36, its spill rows 60 and 61. -/
def kernel (k ty step : Nat) (ph : SeqPhase) : SeqSt :=
  { thr := ⟨5, 0⟩, block := [BitVec.ofNat 64 (k + 65536 * ty + 2 * 16777216), 0x3C24180C, 3, 0], chain := [], key := 5, priv := false, stepNo := step
    ran := step, acc := [], cancel := false, status := none, phase := ph }
def kernelAt (e : Event) (k : SeqSt) (m : SubMode) (oq : List QEnt) : State :=
  modCore { base with doing := some e } 5 fun c => { c with seq := some k, subs := c.subs.map (fun x => { x with mode := m }), oq := oq }

/-- SequencerSteps: the first step; a step among others and the last one, of integers; a service interval with an access and without. -/
theorem test_meets_sequencer :
    (∀ k ∈ ([0, 3, 14] : List Nat), ∀ ty ∈ ([3, 7] : List Nat), ∀ x ∈ [(SeqPhase.starting, 0), (.stepping, 0), (.stepping, 1)],
      let k := kernel k ty x.2 x.1
      let s := kernelAt (.rowStep 5) k (if x.1 = .starting then .closed else .taken) []
      let ops := kernelOps k.block k.chain
      let subs := namedSubs s 5 k.block ops
      (getCore s 5).seq = some k ∧ k.endAt ≤ s.now ∧ k.cancel = false ∧ stackDown s (stackOf 5) = false ∧ seqRefresh s 5 subs = none ∧
        seqQueued s 5 subs = none ∧ (creditWaits s 5).all (fun w => creditClass s 5 w ≠ 1) = true ∧ kSteps k.block = 0 ∧ Clean s ∧ Eight s ∧ kCount k.block = 2 ∧ kType k.block = ty ∧
        (∀ n ∈ subs, n < 8 ∧ Claims.mode s 5 n = if x.1 = .starting then .closed else .taken) ∧
        (∀ i ∈ ([0, 1] : List Nat), (stepRows k.block ops i).length + promised s 5 ≤ (getCore s 5).credits) ∧ kFirst k.block 2 + k.stepNo < 128 ∧
        kInbox k.block = false ∧ seqWaiter s k.thr = none ∧ (getCore s 5).seqWait = []) ∧
    (∀ l ∈ ([8, 0] : List Nat), let k := kernel 3 3 1 (.serving l none)
      let q : QEnt := ⟨0, 13, .step (.outsideRead (pkt 13 0 0 0))⟩
      let s := kernelAt (.serviceInterval 5) k .taken [q]
      let t := kernelAt (.serviceInterval 5) k .taken []
      (getCore s 5).seq = some k ∧ k.endAt ≤ s.now ∧ seqQueued s 5 (namedSubs s 5 k.block (kernelOps k.block k.chain)) = some q ∧
        1 + promised s 5 ≤ (getCore s 5).credits ∧ seqQueued t 5 (namedSubs t 5 k.block (kernelOps k.block k.chain)) = none ∧ (getCore t 5).seq = some k) := by
  decide +kernel

/-! A place and a record depend on the tiles, the partition and the record's words alone. -/
theorem kthFrom_same {s u : State} (ht : u.tiles = s.tiles) (ha : u.absent = s.absent) (slot : Nat) :
    ∀ n t i k, kthFrom u slot n t i k = kthFrom s slot n t i k
  | 0, _, _, _ => rfl
  | n + 1, t, i, k => by
    have h1 : inSlot u slot t = inSlot s slot t := by unfold inSlot getTile; rw [ht]
    have h2 : presentIn u t = presentIn s t := by unfold presentIn; rw [ha]
    unfold kthFrom
    simp only [h1, h2, kthFrom_same ht ha slot n]
theorem placeSub_same {s u : State} (ht : u.tiles = s.tiles) (ha : u.absent = s.absent) (slot : Nat) (w : Word) (S n : Nat) :
    placeSub u slot w S n = placeSub s slot w S n := by
  simp only [placeSub, kthCore, kthFrom_same ht ha]
theorem recOk_same {s u : State} (ht : u.tiles = s.tiles) (ha : u.absent = s.absent) (slot : Nat) (r : Rec) : recOk u slot r = recOk s slot r := by
  simp only [recOk, placeFits, placeOk, kthCore, kthFrom_same ht ha]
theorem getWord_same {s u : State} {w : Nat → Prop} (h : UnchangedBut s u w) {a : Nat} (ha : ∀ i, i < 8 → ¬ w (a + i)) : getWord u a = getWord s a := by
  simp only [getWord, getNat, getBytes, Memory.slice_eq]
  congr 2
  exact List.map_congr_left fun i hi => h _ (ha i (List.mem_range.mp hi))

/-- CREDUCE of two u64 elements of a sum, minimum or maximum, to elements 0 and 8 of object 70, by two members of group 2. -/
def contrib (op : Nat) (m : Nat) : Contrib :=
  { member := BitVec.ofNat 46 m, number := 0, req := m, thr := ⟨m, 0⟩, block := [0x4600000000, 0, BitVec.ofNat 64 (8 * m), BitVec.ofNat 64 (256 * op + 12288 + 131072)]
    key := 5, priv := false, data := List.replicate 16 1 }
def reducing (op : Nat) : State :=
  { world with io := { world.io with groups := [(2, { count := 2, members := [0, 1], ops := [contrib op 0, contrib op 1] })] }
               doing := some (.collectiveCombine 2) }

theorem test_meets_collectives : ∀ op ∈ ([0, 1, 2] : List Nat), let s := reducing op
    let mine := [contrib op 0, contrib op 1]
    readyOp (getGroup s 2) = some 0 ∧ Clean s ∧
      mine = (membersOf (getGroup s 2)).filterMap (fun m => (getGroup s 2).ops.find? fun c => c.member = m && c.number = 0) ∧
      (∀ c ∈ mine, let b := c.block
        bits (bw b 3) 12 2 = 3 ∧ bits (bw b 3) 8 2 = op ∧ bits (bw b 3) 16 16 = 2 ∧ c.data.length = 16 ∧ bits (bw b 0) 32 32 = 70 ∧
        isLocal s c.member = true ∧ ((bw b 2).extractLsb' 0 48).toInt = 8 * c.thr.core ∧ slotOf s (tileOf c.thr.core) = 0 ∧ c.key = 5 ∧ c.priv = false) ∧
      handleOk s 0 70 = true ∧ recordPlace s 0 70 = some (0, 82, 768) ∧ recordNow s 0 70 = some o70.r ∧ recOk s 0 o70.r = true ∧
      grants o70.r 5 false 1 = true ∧ rKind o70.r = 1 ∧ o70.size = 8 ∧ computedPlace s 0 o70.r 0 = some (4, 0) ∧ stackDown s (stackOf 4) = false ∧
      (∀ n ∈ ([0, 1, 8, 9] : List Nat), spotAt o70 n = .at_ 0 (8 * n)) := by decide +kernel

/-- The bytes that the members' destinations take. -/
def reduced (op : Nat) (a : Nat) : Prop := ∃ c ∈ [contrib op 0, contrib op 1], ∃ i, i < 2 ∧ within (rowAddr 4 0 + 64 * c.thr.core + 8 * i) 8 a

/-- CollectivesCombine: the destinations stand in every state that differs from this one in what they hold alone. -/
theorem test_meets_collectives_places (op : Nat) (hop : op ∈ ([0, 1, 2] : List Nat)) (u : State) (ht : u.tiles = (reducing op).tiles)
    (ha : u.absent = (reducing op).absent) (hpo : u.poison = []) (hbe : u.bitErrs = []) (hio : u.io = { (reducing op).io with groups := u.io.groups }) (hm : UnchangedBut (reducing op) u (reduced op)) :
    ∀ c ∈ [contrib op 0, contrib op 1],
      operand u (slotOf u (tileOf c.thr.core)) c.key c.priv (bits (bw c.block 0) 32 32) [1] = some o70 ∧ o70.size = 8 ∧
      ∀ i : Nat, i < 2 → Claims.Stands u (slotOf u (tileOf c.thr.core)) o70 (((bw c.block 2).extractLsb' 0 48).toInt + i) true
        (rowAddr 4 0 + 64 * c.thr.core + 8 * i) := by
  obtain ⟨-, -, -, hc, h1, h2, h3, h4, h5, h6, h7, h8, h9, h10⟩ := test_meets_collectives op hop
  have hp : getPart u 0 = getPart (reducing op) 0 := by unfold getPart; rw [hio]
  have hslot : ∀ t, slotOf u t = slotOf (reducing op) t := fun t => by unfold slotOf getTile; rw [ht]
  have hok : handleOk u 0 70 = true := by unfold handleOk at h1 ⊢; rw [hp]; exact h1
  have hpl : recordPlace u 0 70 = some (0, 82, 768) := by
    rw [← h2]; unfold recordPlace elemAddr; rw [hp, placeSub_same ht ha]
  have hw : ∀ n, n < 16 → getWord u (rowAddr 0 82 + 768 + 8 * n) = getWord (reducing op) (rowAddr 0 82 + 768 + 8 * n) := fun n hn =>
    getWord_same hm fun i hi ⟨c, hc', k, hk, hw⟩ => by
      simp only [within, rowAddr] at hw
      omega
  have hrec : recordNow u 0 70 = some o70.r := by
    rw [← h3]
    unfold recordNow
    rw [hok, h1, hpl, h2]
    simp only [if_true, Option.map_some, readWords]
    exact congrArg some (List.map_congr_left fun n hn => hw n (List.mem_range.mp hn))
  have hval : validNow u 0 70 = some o70.r := by
    have : handleRecOk u 0 70 o70.r = true := by
      rw [← recOk_same ht ha] at h4
      simpa [handleRecOk, isModule, recOk] using h4
    simp [validNow, hrec, this, h6]
  intro c hcm
  obtain ⟨-, -, -, -, e5, -, e6, e7, e8, e9⟩ := hc c hcm
  rw [hslot, e7, e8, e9, e5, e6]
  refine ⟨?_, h7, fun i hi => ?_⟩
  · unfold operand
    have hsp : (recordWords u 0 70).any (spoiled u) = false := List.any_eq_false.mpr fun a _ => by simp [spoiled, isPoisoned, hpo, hbe]
    rw [hval]
    simp only [hsp, h6, Bool.false_eq_true, if_false]
    rw [if_pos (by simp only [List.all_cons, List.all_nil, Bool.and_true]; exact h5)]
    rfl
  · have hcore : c.thr.core < 2 := by
      simp only [List.mem_cons, List.not_mem_nil, or_false] at hcm
      rcases hcm with rfl | rfl <;> simp [contrib]
    have hs := h10 (8 * c.thr.core + i) (by
      have : c.thr.core = 0 ∨ c.thr.core = 1 := by omega
      have : i = 0 ∨ i = 1 := by omega
      rcases ‹c.thr.core = 0 ∨ c.thr.core = 1› with h | h <;> rcases this with h' | h' <;> simp [h, h'])
    refine ⟨0, 8 * (8 * c.thr.core + i), 4, 0, 0, ?_, ?_, ?_, ?_, by omega, by omega, by rw [h7]; simp only [rowAddr]; omega⟩
    · simpa using hs
    · have : computedPlace u 0 o70.r 0 = some (4, 0) := by rw [← h8]; unfold computedPlace; rw [placeSub_same ht ha]
      have e : o70.p = o70.r := rfl
      simp [homeOf, e, h6, this]
      decide +kernel
    · have : u.io.health = (reducing op).io.health := by rw [hio]
      unfold stackDown healthOf at h9 ⊢; rw [this]; exact h9
    · intro g
      simp [homeWaits, show o70.p = o70.r from rfl, h6]

/-! ## Premises are met: pairs at issue, decoding and steps -/

/-- The pair's leader or follower about to issue, at the start of its interval or later, with and without a forwarded value. -/
def pairIssue (lead : Bool) (start : Word) (fwd : List Ans) : State :=
  { pairing { pair0 with start := start, fwd := fwd } (.start (pkt 0 0 0 0)) with doing := none, cur := if lead then ⟨0, 0⟩ else ⟨1, 0⟩ }
theorem test_meets_paired_accesses : ∀ lead ∈ [true, false], ∀ st ∈ ([0, 1] : List Nat), ∀ l ∈ [[], [Ans.value 7 false]],
    let s := pairIssue lead (BitVec.ofNat 64 st) l
    s.doing = none ∧ (pairOf s s.cur).any (fun q => q.again.isNone && (q.leader == s.cur) == lead && q.fwd == l && q.taken == 0) = true ∧
      (reqOf s s.cur).isNone = true ∧ Clean s ∧ (getC s s.cur 14 = BitVec.ofNat 64 st ↔ st = 0) := by decide +kernel

/-- StepRunsDecodedInstruction: the base state's turn, with a word that decodes and with one that does not; a step that is due. -/
theorem test_meets_step : (∀ w ∈ ([0x90000006, 0] : List Nat), let s := State.reset.withFetchWord 32 w
      s.agenda = [] ∧ s.cursor = [0] ∧ choose (yieldTurn { s with cursor := [] } 0) 0 = some ⟨0, 0⟩ ∧
        (prelude { yieldTurn { s with cursor := [] } 0 with cur := ⟨0, 0⟩ } ⟨0, 0⟩).2 = some (BitVec.ofNat 32 w) ∧
        ((decode (BitVec.ofNat 32 w)).toOption.isSome = true ↔ w ≠ 0)) ∧
    (let s := { base with agenda := [⟨0, .local, 0, 0, .run (.creditEarned 0)⟩] }
     s.agenda = [⟨0, .local, 0, 0, .run (.creditEarned 0)⟩] ∧ 0 ≤ s.now ∧ (Event.creditEarned 0).wf = true) := by decide +kernel

/-- R91: a step at a place that does not exist changes nothing (log 1). -/
theorem test_no_place : ∀ a ∈ [Act.arrive 1048576 0 (.creditEarned 0), .run (.creditEarned 1048576),
      .serve 0 0 0 (.step (.creditEarned 1048576)), .feed { gran := 1048576 * 8192, act := .fetch }],
    after (step { base with agenda := [⟨0, .local, 0, 0, a⟩] }) (fun t => t.mem = base.mem ∧ t.agenda = []) = true := by decide +kernel
/-- StepKeepsMemoryCanonical, StepKeepsStructure: the base state has the invariants, and steps. -/
theorem test_meets_invariants : after (step base) (fun _ => true) = true ∧ base.Canonical ∧ base.Named ∧ base.Subarrays ∧ base.Rests ∧
    ∀ p ∈ base.pairs, p.follower = partnerOf p.leader := by
  have hp : base.pairs = [] := rfl
  refine ⟨by decide +kernel, ?_, test_meets_named.1, subarrays (by decide +kernel), ⟨by decide +kernel, by decide +kernel⟩, ?_⟩
  · show Memory.wf base.mem = true
    decide +kernel
  · intro p h
    simp [hp] at h

end Sys2Proof.Tests
end

section
/-! PROOFS. Every step keeps memory in its canonical form (O57).

Memory changes in three ways only: `Memory.put` (in `putBytes`, and twice beside it), a filter of its cells (`clearWords`), and
the reset of bring-up. `Memory.wf_put` and `Memory.wfFrom_filter` say that the first two keep the canonical form. What is left is
that every operation of the model is made of these and of updates that leave `mem` alone. `State.Canonical.f` says so of the
operation `f`, in the model's order, and its proof follows the branches of `f` and cites the lemmas of what `f` calls:
`h.setC.retire` reads "memory is canonical, so it is after `setC`, so it is after `retire`". -/
namespace Sys2Proof.Machine

/-- The next state of an outcome is canonical. -/
def NextCanonical : Out → Prop
  | .next s => s.Canonical
  | .fault _ | .refused _ => True

theorem NextCanonical.andThen {o : Out} {f : State → State} (ho : NextCanonical o)
    (hf : ∀ {s}, s.Canonical → (f s).Canonical) : NextCanonical (Machine.andThen o f) := by
  cases o with
  | next s => exact hf ho
  | fault | refused => trivial

namespace State.Canonical

/-! ### The shapes that operations are made of -/

theorem ite {c : Prop} [Decidable c] {s t : State} (hs : s.Canonical) (ht : t.Canonical) : (if c then s else t).Canonical := by
  split
  · exact hs
  · exact ht

theorem ite_fst {α : Type} {c : Prop} [Decidable c] {p q : State × α} (hp : p.1.Canonical) (hq : q.1.Canonical) :
    (if c then p else q).1.Canonical := by
  split
  · exact hp
  · exact hq

/-- For a result that is taken apart into a state and a value. -/
theorem of_fst {α : Type} {p : State × α} {s : State} {x : α} (e : p = (s, x)) (h : p.1.Canonical) : s.Canonical := by
  subst e
  exact h

theorem foldl {α : Type} {f : State → α → State} {l : List α} {s : State} (h : s.Canonical)
    (hf : ∀ {s x}, s.Canonical → (f s x).Canonical) : (l.foldl f s).Canonical :=
  l.foldlRecOn f h fun _ hs _ _ => hf hs

theorem foldl_fst {α β : Type} {f : State × β → α → State × β} {l : List α} {p : State × β} (h : p.1.Canonical)
    (hf : ∀ {p x}, p.1.Canonical → (f p x).1.Canonical) : (l.foldl f p).1.Canonical :=
  l.foldlRecOn (motive := fun p => p.1.Canonical) f h fun _ hp _ _ => hf hp

/-- A record update keeps the form where the memory that it writes, or keeps, has it. -/
theorem update {now agenda cursor cur curWord doing delays fresh nextReq nextSeq trace acting mem empty poison bitErrs cores tiles
    stackSt reqs io pairs absent} (h : Memory.wf mem = true) :
    State.Canonical ⟨now, agenda, cursor, cur, curWord, doing, delays, fresh, nextReq, nextSeq, trace, acting, mem, empty, poison,
      bitErrs, cores, tiles, stackSt, reqs, io, pairs, absent⟩ :=
  h

theorem reset : State.reset.Canonical := rfl

variable {s : State}
    {a cause cmd core dev entry g handle id k kind n part pc q req row slot srcTile sub tile w widx writer : Nat}
    {ref status v w0 w1 x : Word} {dst leader src t thr : Thr} {full pf wide : Bool} {subs tiles ws : List Nat}
    {key : BitVec 16} {c : Cause} {e : Event} {f : Feed} {m : InboxMsg} {word : InsnWord} {i : Instr} {j : Job} {l : LaunchSt}
    {hs : List (Nat × Home)} {bs : List Byte} {regs : List SReg} {o : Opd} {r : Req} {p : RowPkt} {d : SReg}

theorem putBytes (h : s.Canonical) : (Machine.putBytes s a bs).Canonical := Memory.wf_put h a bs

/-! ### The operations of Machine/Mem.lean -/

theorem setFull (h : s.Canonical) : (Machine.setFull s a full).Canonical := h

theorem putWord (h : s.Canonical) : (Machine.putWord s a x).Canonical := h.putBytes

theorem fillFE (h : s.Canonical) : (Machine.fillFE s a n).Canonical := h

theorem putFull (h : s.Canonical) : (Machine.putFull s a bs).Canonical := h.putBytes.fillFE

theorem zeroRow (h : s.Canonical) : (Machine.zeroRow s core row).Canonical := h.putFull

theorem touchWord (h : s.Canonical) : (Machine.touchWord s a).Canonical := by
  unfold Machine.touchWord
  split <;> exact h

theorem touch (h : s.Canonical) : (Machine.touch s a n).Canonical := h.foldl fun h => h.touchWord

theorem copyRow (h : s.Canonical) : (Machine.copyRow s src dst).Canonical := by
  unfold Machine.copyRow
  exact .update h.touch.putFull

theorem setCore (h : s.Canonical) {c : Nat} {x : CoreSt} : (Machine.setCore s c x).Canonical := h

theorem modCore (h : s.Canonical) {c : Nat} {f : CoreSt → CoreSt} : (Machine.modCore s c f).Canonical :=
  h.setCore

theorem setTile (h : s.Canonical) {t : Nat} {x : TileSt} : (Machine.setTile s t x).Canonical := h

theorem modTile (h : s.Canonical) {t : Nat} {f : TileSt → TileSt} : (Machine.modTile s t f).Canonical :=
  h.setTile

theorem setStack (h : s.Canonical) {x : StackSt} : (Machine.setStack s k x).Canonical := h

theorem modStack (h : s.Canonical) {f : StackSt → StackSt} : (Machine.modStack s k f).Canonical := h.setStack

theorem setThr (h : s.Canonical) {x : ThrCtl} : (Machine.setThr s t x).Canonical := h.modCore

theorem modThr (h : s.Canonical) {f : ThrCtl → ThrCtl} : (Machine.modThr s t f).Canonical := h.setThr

theorem setSub (h : s.Canonical) {c : Nat} {x : SubSt} : (Machine.setSub s c k x).Canonical := h.modCore

theorem modSub (h : s.Canonical) {c : Nat} {f : SubSt → SubSt} : (Machine.modSub s c k f).Canonical := h.setSub

theorem setS (h : s.Canonical) {n : SReg} : (Machine.setS s t n x).Canonical := by
  unfold Machine.setS
  exact .ite h h.putWord

theorem setV (h : s.Canonical) {n : VReg} {x : Vec} : (Machine.setV s t n x).Canonical := h.putBytes

theorem setP (h : s.Canonical) {n : PReg} {x : Pred} : (Machine.setP s t n x).Canonical := by
  unfold Machine.setP
  exact .ite h h.putBytes

theorem setC (h : s.Canonical) : (Machine.setC s t n x).Canonical := h.putWord

theorem putOwn (h : s.Canonical) : (Machine.putOwn s t a bs).Canonical := h.putBytes

/-! ### The operations of Machine/Ops.lean -/

theorem post (h : s.Canonical) {d : Nat} : (Machine.post s d e).Canonical := h

theorem follow (h : s.Canonical) : (Machine.follow s e).Canonical := h

theorem unpost (h : s.Canonical) : (Machine.unpost s e).Canonical := h

theorem send (h : s.Canonical) {cls : Cls} {src dst : Nat} {a : Act} :
    (Machine.send s cls src dst a).Canonical :=
  h

theorem setTState (h : s.Canonical) : (Machine.setTState s t n).Canonical := h.setC

theorem setPc (h : s.Canonical) : (Machine.setPc s t pc).Canonical := h.setC

theorem modPair (h : s.Canonical) {f : PairSt → PairSt} : (Machine.modPair s leader f).Canonical := h

theorem modPart (h : s.Canonical) {f : PartSt → PartSt} : (Machine.modPart s slot f).Canonical := h

theorem countLost (h : s.Canonical) : (Machine.countLost s slot).Canonical := h.modPart

theorem toSupervisor (h : s.Canonical) : (Machine.toSupervisor s srcTile slot w0 w1).Canonical := by
  unfold Machine.toSupervisor
  exact .ite h.countLost (.ite (.ite (.update h) h.countLost) (.ite h.countLost h.send))

theorem diversion (h : s.Canonical) {tref : Word} {sender : BitVec 46} :
    (Machine.diversion s srcTile slot tref sub sender).Canonical :=
  h.toSupervisor

theorem leaveModule (h : s.Canonical) {sender : BitVec 46} :
    (Machine.leaveModule s tile dev ref sender req e).Canonical :=
  h

theorem entryFails (h : s.Canonical) : (Machine.entryFails s srcTile m sub).Canonical := by
  unfold Machine.entryFails
  dsimp only
  split
  · exact h.toSupervisor
  · exact h.countLost
  all_goals exact h.diversion

theorem toInbox (h : s.Canonical) : (Machine.toInbox s srcTile m).Canonical := by
  unfold Machine.toInbox
  extract_lets +onlyGivenNames fail
  have hfail : ∀ {sub}, (fail sub).Canonical := .ite h.entryFails.send h.entryFails
  exact .ite (.ite h.leaveModule hfail) (.ite hfail h.send)

theorem dropReq (h : s.Canonical) : (Machine.dropReq s id).Canonical := h

theorem modReq (h : s.Canonical) {f : Req → Req} : (Machine.modReq s id f).Canonical := h

theorem addReq (h : s.Canonical) : (Machine.addReq s r).Canonical := h

theorem answer (h : s.Canonical) {a : Ans} : (Machine.answer s srcTile id a).Canonical := by
  unfold Machine.answer
  split
  · exact h
  · exact h.send

theorem answerPkt (h : s.Canonical) {a : Ans} : (Machine.answerPkt s p a).Canonical := by
  unfold Machine.answerPkt
  refine .ite ?_ h.answer
  split
  · exact .ite (.update h) h
  · exact h

theorem runCmds (h : s.Canonical) : (Machine.runCmds s t).Canonical := by
  unfold Machine.runCmds
  exact .ite h (h.setThr.foldl fun h => h.post)

theorem modLaunch (h : s.Canonical) {f : LaunchSt → LaunchSt} : (Machine.modLaunch s id f).Canonical := h

theorem threadEnded (h : s.Canonical) {failed : Bool} : (Machine.threadEnded s t failed).Canonical := by
  unfold Machine.threadEnded
  split
  · exact h
  · exact .ite h.modLaunch.send h.modLaunch

theorem trapRecord (h : s.Canonical) : (Machine.trapRecord s t cause word).Canonical := by
  unfold Machine.trapRecord
  exact .ite h.touchWord.toSupervisor h.touchWord.toInbox

theorem endHandler (h : s.Canonical) : (Machine.endHandler s core).Canonical := by
  unfold Machine.endHandler
  exact .ite h.setCore h.setCore.post

theorem setFinfo (h : s.Canonical) : (Machine.setFinfo s t cause word).Canonical := h.setC

theorem callCheckpoint (h : s.Canonical) {p : PairSt} {n : Word} : (Machine.callCheckpoint s p n).Canonical :=
  h.modPair

theorem sideTrap (h : s.Canonical) {p : PairSt} : (Machine.sideTrap s p t c).Canonical :=
  h.modPair.callCheckpoint

theorem leaveReqs (h : s.Canonical) : (Machine.leaveReqs s t).Canonical := h

theorem leaveAll (h : s.Canonical) : (Machine.leaveAll s t).Canonical := h.modThr.leaveReqs.runCmds.threadEnded

theorem endThread (h : s.Canonical) {record : Bool} : (Machine.endThread s t c word record).Canonical := by
  unfold Machine.endThread
  extract_lets +onlyGivenNames c7 prio s'
  have h' : s'.Canonical := .ite h.trapRecord h
  refine .ite h'.putBytes.putBytes.endHandler ?_
  exact .leaveAll (.setFinfo (.setC (.setC (.ite h'.putBytes.putBytes h'.putBytes))))

theorem cancelSide (h : s.Canonical) : (Machine.cancelSide s t c word).Canonical :=
  h.setTState.setC.setFinfo.leaveAll

theorem closePair (h : s.Canonical) {p : PairSt} : (Machine.closePair s p).Canonical :=
  h.modPair.foldl fun h => h.post

theorem losePair (h : s.Canonical) {p : PairSt} : (Machine.losePair s p word).Canonical :=
  h.trapRecord.cancelSide.cancelSide.closePair

theorem endPair (h : s.Canonical) {p : PairSt} : (Machine.endPair s p word).Canonical :=
  h.endThread.endThread.closePair

theorem consumePoison (h : s.Canonical) : (Machine.consumePoison s t word).Canonical := h.endThread

theorem ownPoison (h : s.Canonical) : (Machine.ownPoison s t word).Canonical := by
  unfold Machine.ownPoison
  split
  · exact h.sideTrap
  · exact h.consumePoison

theorem applyTrap (h : s.Canonical) {record : Bool} : (Machine.applyTrap s t c word record).Canonical := by
  unfold Machine.applyTrap
  extract_lets +onlyGivenNames s'
  have h' : s'.Canonical := h.setFinfo
  refine .ite h'.toSupervisor.endHandler ?_
  extract_lets +onlyGivenNames s2 s3
  have h2 : s2.Canonical := h'.setTState.setC
  have h3 : s3.Canonical := h2.modThr
  exact .ite h3 (.ite h3.trapRecord.ownPoison h3.trapRecord)

theorem takeTrap (h : s.Canonical) {c9 : Option Word} : (Machine.takeTrap s t c word c9).Canonical := by
  unfold Machine.takeTrap
  extract_lets +onlyGivenNames s'
  have h' : s'.Canonical := by
    unfold s'
    split
    · exact h.setC
    · exact h
  split
  · exact h'.sideTrap
  · exact h'.applyTrap

theorem trapNow (h : s.Canonical) : (Machine.trapNow s c).Canonical := h.takeTrap

theorem withRegs (h : s.Canonical) {k : State → State} (hk : ∀ {s}, s.Canonical → (k s).Canonical) :
    (Machine.withRegs s ws k).Canonical := by
  unfold Machine.withRegs
  exact .ite (h.foldl fun h => h.touchWord).ownPoison (hk (h.foldl fun h => h.touchWord))

theorem withChecked (h : s.Canonical) {f : State → Option Cause} {k : State → State}
    (hk : ∀ {s}, s.Canonical → (k s).Canonical) :
    (Machine.withChecked s ws f k).Canonical := by
  unfold Machine.withChecked
  extract_lets +onlyGivenNames s'
  have h' : s'.Canonical := h.foldl fun h => h.touchWord
  split
  · exact h'.trapNow
  · exact .ite h'.ownPoison (hk h')

theorem withWords (h : s.Canonical) {k : State → State} (hk : ∀ {s}, s.Canonical → (k s).Canonical) :
    (Machine.withWords s ws k).Canonical := by
  unfold Machine.withWords
  exact .ite (h.foldl fun h => h.touchWord).ownPoison (hk (h.foldl fun h => h.touchWord))

theorem retiring (h : s.Canonical) {w : InsnWord} {k : State → State}
    (hk : ∀ {s}, s.Canonical → (k s).Canonical) :
    (Machine.retiring s t w k).Canonical := by
  unfold Machine.retiring
  exact .ite (h.foldl fun h => h.touchWord).ownPoison (hk (h.foldl fun h => h.touchWord))

theorem countRetired (h : s.Canonical) : (Machine.countRetired s t pc v).Canonical := by
  unfold Machine.countRetired
  exact .ite h.setPc.setC.setC h.setPc.setC

theorem endStep (h : s.Canonical) : (Machine.endStep s t).Canonical := by
  unfold Machine.endStep
  exact .ite (.modThr (.ite h.setTState h)) h

theorem endInterval (h : s.Canonical) : (Machine.endInterval s t).Canonical := by
  unfold Machine.endInterval
  split
  · exact h
  · exact .ite h.callCheckpoint h

theorem retireTo (h : s.Canonical) : (Machine.retireTo s t pc v).Canonical := h.countRetired.endStep.endInterval

theorem retire (h : s.Canonical) : (Machine.retire s t v).Canonical := h.retireTo

theorem retirePlain (h : s.Canonical) : (Machine.retirePlain s t).Canonical := h.retire

theorem retireS (h : s.Canonical) : (Machine.retireS s t d x).Canonical := by
  unfold Machine.retireS
  exact .ite h.retirePlain h.setS.retire

theorem retireV (h : s.Canonical) {d : VReg} {x : Vec} : (Machine.retireV s t d x).Canonical := h.setV.retire

theorem retireP (h : s.Canonical) {d : PReg} {x : Pred} : (Machine.retireP s t d x).Canonical := by
  unfold Machine.retireP
  exact .ite h.retirePlain h.setP.retire

theorem raise (h : s.Canonical) {f : Word} : (Machine.raise s t f).Canonical := by
  unfold Machine.raise
  exact .ite h h.setC

theorem park (h : s.Canonical) {detail : Word} : (Machine.park s t kind cause detail).Canonical :=
  h.setTState.setC.modThr

theorem unpark (h : s.Canonical) : (Machine.unpark s t).Canonical := h.setTState.setC

/-! ### The operations of Machine/Rows.lean -/

theorem touchFrame (h : s.Canonical) {f : Thr} : (Machine.touchFrame s f).Canonical := by
  unfold Machine.touchFrame
  exact .ite h.touch h

theorem setFrame (h : s.Canonical) {gen use : Nat} {cache : Bool} :
    (Machine.setFrame s core row handle sub gen use cache).Canonical :=
  h.putWord.putWord

theorem noteFree (h : s.Canonical) : (Machine.noteFree s core).Canonical := by
  unfold Machine.noteFree
  exact .ite h.modCore (.update h.modCore.post)

theorem copyThread (h : s.Canonical) {a b : Thr} : (Machine.copyThread s wide a b).Canonical := by
  unfold Machine.copyThread
  exact .ite h.copyRow.copyRow h.copyRow

theorem makePair (h : s.Canonical) : (Machine.makePair s wide t).Canonical := by
  unfold Machine.makePair
  exact .noteFree (.noteFree (.update h.copyThread.setC.setThr.copyThread.copyThread))

theorem putBus (h : s.Canonical) {bulk : Bool} {bytes : Nat} :
    (Machine.putBus s core k bulk bytes).Canonical := by
  unfold Machine.putBus
  exact .ite h.modTile (.update h.modTile)

theorem raiseBus (h : s.Canonical) {bulk : Bool} {bytes : Nat} :
    (Machine.raiseBus s core k bulk bytes).Canonical := by
  unfold Machine.raiseBus
  exact .ite h h.modSub.putBus

theorem busGranted (h : s.Canonical) {a : Option BusReq} : (Machine.busGranted s a).Canonical := by
  unfold Machine.busGranted
  split
  · exact h
  · exact .ite h.modSub h

theorem busCycle (h : s.Canonical) {col : Nat} : (Machine.busCycle s tile col).Canonical := by
  unfold Machine.busCycle
  exact .ite h.modTile.busGranted.busGranted (.update h.modTile.busGranted.busGranted)

theorem spendCredits (h : s.Canonical) : (Machine.spendCredits s core n).Canonical := by
  unfold Machine.spendCredits
  exact .ite h.setCore.post h.setCore

theorem beginActivation (h : s.Canonical) {p : Purpose} : (Machine.beginActivation s core k row p).Canonical :=
  h.spendCredits.modSub.post

theorem beginClose (h : s.Canonical) {a : After} : (Machine.beginClose s core k row a).Canonical :=
  h.modSub.post

theorem grantCredits (h : s.Canonical) : (Machine.grantCredits s core).Canonical := by
  unfold Machine.grantCredits
  extract_lets +onlyGivenNames c waits start
  have hstart : ∀ {w}, (start w).Canonical := .ite h.beginActivation h
  split
  · exact hstart
  · dsimp only
    split
    · exact .ite h.post hstart
    · refine .ite h.post ?_
      split
      · exact hstart
      · exact h

theorem wantActivation (h : s.Canonical) {p : Purpose} {since : Nat} :
    (Machine.wantActivation s core k row p since).Canonical := by
  unfold Machine.wantActivation
  exact .ite h.beginActivation h.modSub.grantCredits

theorem kick (h : s.Canonical) : (Machine.kick s core k).Canonical := by
  unfold Machine.kick
  split
  · exact .ite h.post h
  · exact .ite h.post h
  · exact .ite h.modSub.post h
  · exact h

theorem joinQueue (h : s.Canonical) {a : QDo} : (Machine.joinQueue s core row a).Canonical := h.setCore.kick

theorem ingress (h : s.Canonical) {a : QDo} : (Machine.ingress s core row a).Canonical := by
  unfold Machine.ingress
  exact .ite (.ite (.update h.setCore.post) h.setCore) (.ite h.setCore h.joinQueue)

theorem useGranules (h : s.Canonical) {gs : List Nat} : (Machine.useGranules s tile gs).Canonical := h.modTile

theorem admitCached (h : s.Canonical) : (Machine.admitCached s core row a n e).Canonical :=
  h.useGranules.follow.foldl fun h => h.ingress

theorem arrive (h : s.Canonical) : (Machine.arrive s core row e).Canonical := by
  unfold Machine.arrive
  refine .ite h.modStack ?_
  split
  · exact .ite h.admitCached h.ingress
  · exact h.ingress

theorem admitHeld {l : List (Nat × QDo)} (h : s.Canonical) : (Machine.admitHeld s core l).Canonical := by
  induction l generalizing s with
  | nil => exact h.modCore
  | cons x l ih => exact .ite h.modCore (ih h.joinQueue)

theorem applyIn (h : s.Canonical) {d : Nat} {a : QDo} : (Machine.applyIn s core k d row a).Canonical := h

theorem flushRow (h : s.Canonical) {mine : QEnt → Bool} : (Machine.flushRow s core k mine).Canonical := by
  unfold Machine.flushRow
  split
  · exact h
  · refine .ite ?_ h.raiseBus
    dsimp only
    split
    · exact h.modCore.modSub.applyIn.raiseBus
    · exact h.modCore.modSub.applyIn

theorem flushOpen (h : s.Canonical) : (Machine.flushOpen s core k).Canonical := by
  unfold Machine.flushOpen
  split
  · exact .ite h.flushRow h
  · exact h

theorem flushService (h : s.Canonical) : (Machine.flushService s core).Canonical := h.flushRow

theorem serveNext (h : s.Canonical) : (Machine.serveNext s core k).Canonical := by
  unfold Machine.serveNext
  dsimp only
  split
  · split
    · exact h.setCore.modSub.raiseBus.applyIn
    · exact h.beginClose
  · exact h.beginClose
  · exact h

theorem serveGranted (h : s.Canonical) : (Machine.serveGranted s core k).Canonical := by
  unfold Machine.serveGranted
  split
  · exact h.modSub
  · exact h.modSub
  · exact h

theorem openFor (h : s.Canonical) {q : QEnt} {back : Option Nat} :
    (Machine.openFor s core k q back).Canonical :=
  h.modSub.wantActivation

theorem outsideActivation (h : s.Canonical) : (Machine.outsideActivation s core k).Canonical := by
  unfold Machine.outsideActivation
  split
  · exact h.openFor
  · exact h

theorem borrowWindow (h : s.Canonical) : (Machine.borrowWindow s core k).Canonical := by
  unfold Machine.borrowWindow
  split
  · split
    · exact .ite h.modSub.beginClose h
    · exact h
  · exact h

theorem creditEarned (h : s.Canonical) : (Machine.creditEarned s core).Canonical := by
  unfold Machine.creditEarned
  exact .ite (.grantCredits (.ite h.setCore.post h.setCore)) h

theorem refreshTick (h : s.Canonical) : (Machine.refreshTick s core).Canonical := by
  unfold Machine.refreshTick
  exact .ite h.setCore.modSub h

theorem refreshErrors (h : s.Canonical) : (Machine.refreshErrors s core k).Canonical :=
  h.foldl fun h => h.touchWord

theorem refresh (h : s.Canonical) : (Machine.refresh s core k).Canonical := by
  unfold Machine.refresh
  dsimp only
  split
  · exact .ite h h.modSub.modSub.refreshErrors.post
  · exact h.modSub.modSub.refreshErrors.post
  · exact h.modSub.modSub.refreshErrors.post
  · exact .ite h.modSub.modSub.refreshErrors.post h
  · exact h

theorem refreshNow (h : s.Canonical) : (Machine.refreshNow s core k).Canonical := by
  unfold Machine.refreshNow
  split
  · exact h.refresh
  · exact h

theorem completeYield (h : s.Canonical) : (Machine.completeYield s t).Canonical :=
  h.modThr.unpark.retiring fun h => h.retirePlain

theorem endYield (h : s.Canonical) : (Machine.endYield s t).Canonical := by
  unfold Machine.endYield
  exact .ite h.completeYield h

theorem treadleShut (h : s.Canonical) : (Machine.treadleShut s core k).Canonical := by
  unfold Machine.treadleShut
  split
  · exact .ite (.ite h.endYield.beginClose.modSub h.endYield.beginClose) h
  · exact h

theorem holdForTreadle (h : s.Canonical) : (Machine.holdForTreadle s t).Canonical := by
  unfold Machine.holdForTreadle
  exact .ite h.modSub h

theorem treadleSub (h : s.Canonical) : (Machine.treadleSub s core k).Canonical := by
  unfold Machine.treadleSub
  dsimp only
  split
  · refine .ite h ?_
    split
    · exact .post (.ite h.modSub h)
    · exact .ite h.modSub h
  · split
    · exact h.post
    · refine .ite h.post ?_
      split
      · exact .ite h.post h
      · exact h
  · split
    · exact h.post
    · exact h
  · split
    · exact h.post
    · exact h
  all_goals exact h

theorem treadle (h : s.Canonical) : (Machine.treadle s core).Canonical := by
  unfold Machine.treadle
  extract_lets +onlyGivenNames s1 s2 s3 s4 s5 s6
  have h1 : s1.Canonical := h.refreshTick
  have h2 : s2.Canonical := .ite h1 h1.admitHeld
  have h3 : s3.Canonical := .ite h2 (h2.foldl fun h => h.flushOpen).flushService
  have h4 : s4.Canonical := h3.foldl fun h => h.treadleSub
  have h5 : s5.Canonical := .ite h4 h4.grantCredits
  have h6 : s6.Canonical := .ite h5.post h5
  exact .ite h6.post h6

theorem afterClose (h : s.Canonical) {kept : Bool} : (Machine.afterClose s core k kept).Canonical := by
  unfold Machine.afterClose
  refine .ite h.refreshNow ?_
  split
  · exact h.openFor
  · split
    · exact .ite h.modSub.beginActivation h.modSub.wantActivation
    · exact h

theorem rowClose (h : s.Canonical) : (Machine.rowClose s core k).Canonical := by
  unfold Machine.rowClose
  split
  · dsimp only
    split
    · exact h.modSub.afterClose
    · exact h.modSub.afterClose
    · exact h.modSub.wantActivation
    · exact h.modSub.modSub
    · exact h.modSub.modSub
  · exact h

theorem coreGate (h : s.Canonical) : (Machine.coreGate s core).Canonical := by
  unfold Machine.coreGate
  exact .ite h.unpost.modCore h

theorem coreWake (h : s.Canonical) : (Machine.coreWake s core).Canonical := h.setCore.admitHeld

theorem wakeCore (h : s.Canonical) : (Machine.wakeCore s core).Canonical := by
  unfold Machine.wakeCore
  exact .ite h.coreWake h

theorem yieldTurn (h : s.Canonical) : (Machine.yieldTurn s core).Canonical := by
  unfold Machine.yieldTurn
  refine .ite h ?_
  split
  · exact .ite h.completeYield h
  · exact h

theorem noteIssue (h : s.Canonical) : (Machine.noteIssue s t).Canonical := h.modThr

/-! ### The operations of Machine/Operands.lean -/

theorem setVMasked (h : s.Canonical) {d : VReg} {x : Vec} {m : Pred} :
    (Machine.setVMasked s t d x m).Canonical := by
  unfold Machine.setVMasked
  exact h.foldl fun h => .ite h.putBytes (h.foldl fun h => .ite h.putBytes h)

theorem retireSF (h : s.Canonical) {f : Word} : (Machine.retireSF s t d x f).Canonical := h.raise.retireS

theorem withFlags (h : s.Canonical) {f : Word} {k : State → State} (hk : ∀ {s}, s.Canonical → (k s).Canonical) :
    (Machine.withFlags s f k).Canonical := by
  unfold Machine.withFlags
  exact .ite (hk h) (h.withWords hk)

theorem startLong (h : s.Canonical) {cycles : Nat} {w : RegWrite} {f : Word} :
    (Machine.startLong s cycles w f).Canonical :=
  h.modThr.post

theorem finishF (h : s.Canonical) {r : FRes} {long : Option Nat} : (Machine.finishF s d r long).Canonical := by
  unfold Machine.finishF
  split
  · exact h.retireSF
  · exact h.startLong

theorem finishV (h : s.Canonical) {d : VReg} {E : Nat} {g : Pred} {l : List FRes} :
    (Machine.finishV s d E g l).Canonical :=
  h.withFlags fun h => h.raise.setVMasked.retire

theorem finishVLong (h : s.Canonical) {d : VReg} {E : Nat} {g : Pred} {cycles : Nat} {l : List FRes} :
    (Machine.finishVLong s d E g cycles l).Canonical :=
  h.startLong

/-! ### The operations of Machine/Control.lean -/

theorem retireAt (h : s.Canonical) : (Machine.retireAt s t pc).Canonical := h.retireTo

theorem callTo (h : s.Canonical) : (Machine.callTo s d pc).Canonical := by
  unfold Machine.callTo
  exact .ite h.retireAt h.setS.retireTo

theorem withOwn (h : s.Canonical) {a : SReg} {o : Int} {store : Bool} {k : State → Nat → State}
    (hk : ∀ {s x}, s.Canonical → (k s x).Canonical) :
    (Machine.withOwn s a o n store k).Canonical :=
  h.withChecked fun h => hk h

theorem longDone (h : s.Canonical) : (Machine.longDone s t).Canonical := by
  unfold Machine.longDone
  split
  · exact h
  · extract_lets +onlyGivenNames s1 s2
    have h1 : s1.Canonical := h.modThr
    have h2 : s2.Canonical := .ite h1 h1.raise
    split
    · exact h2.retirePlain
    · exact h2.retireS
    · exact h2.setVMasked.retire

/-! ### The operations of Machine/Vector.lean -/

theorem finishP (h : s.Canonical) {d : PReg} {x : Pred} {f : Word} : (Machine.finishP s d x f).Canonical :=
  h.withFlags fun h => h.raise.retireP

/-! ### The operations of Machine/Records.lean -/

theorem meetRecord (h : s.Canonical) : (Machine.meetRecord s slot w).Canonical := by
  unfold Machine.meetRecord
  exact .ite h (h.foldl fun h => h.touchWord)

/-! ### The operations of Machine/Fetch.lean -/

theorem openCodeRow (h : s.Canonical) : (Machine.openCodeRow s core row).Canonical := by
  unfold Machine.openCodeRow
  exact .ite h h.modCore.post

theorem codeRowOpened (h : s.Canonical) : (Machine.codeRowOpened s core row).Canonical :=
  h.modCore.foldl fun h => .ite h h.modThr

theorem fillCodeRow (h : s.Canonical) : (Machine.fillCodeRow s core handle part).Canonical := by
  unfold Machine.fillCodeRow
  split
  · exact h
  · split
    · exact h
    · exact .update h.setCore.touch.putFull

theorem codeRowFilled (h : s.Canonical) : (Machine.codeRowFilled s core handle part).Canonical := by
  unfold Machine.codeRowFilled
  split
  · exact h.post
  · exact .ite (h.foldl fun h => .ite h.unpark.takeTrap h) (h.fillCodeRow.foldl fun h => .ite h.unpark h)

theorem wantFill (h : s.Canonical) : (Machine.wantFill s core handle part).Canonical := by
  unfold Machine.wantFill
  dsimp only
  split
  · exact h.meetRecord
  · split
    · exact h.meetRecord
    · exact h.meetRecord.send

theorem fetch (h : s.Canonical) : (Machine.fetch s t).1.Canonical := by
  unfold Machine.fetch
  dsimp only
  refine .ite_fst h.meetRecord ?_
  split
  · exact h.meetRecord.park.wantFill
  · exact .ite_fst h.meetRecord.modCore h.meetRecord.modThr.openCodeRow

theorem prelude (h : s.Canonical) : (Machine.prelude s t).1.Canonical := by
  unfold Machine.prelude
  split
  · next e => exact h.fetch.of_fst e
  · next e =>
      have h := h.fetch.of_fst e
      extract_lets +onlyGivenNames ws s'
      have h' : s'.Canonical := h.foldl fun h => h.touchWord
      exact .ite_fst h'.ownPoison (.ite_fst h'.takeTrap h'.takeTrap)
  · next e =>
      have h := h.fetch.of_fst e
      extract_lets +onlyGivenNames ws s'
      have h' : s'.Canonical := h.foldl fun h => h.touchWord
      exact .ite_fst h'.ownPoison (.ite_fst h'.takeTrap (.ite_fst h'.modCore.ownPoison h'))

theorem setLive (h : s.Canonical) : (Machine.setLive s t handle k).Canonical := by
  unfold Machine.setLive
  extract_lets +onlyGivenNames slot s1 s2
  have h1 : s1.Canonical := h.meetRecord
  have h2 : s2.Canonical := by
    unfold s2
    split
    · exact h1.meetRecord
    · exact h1
  split
  · exact h2.setC
  · exact .ite (.update h2.touchWord.setC) h2.touchWord.setC

/-! ### The operations of Machine/Beyond.lean -/

theorem takeForward (h : s.Canonical) {p : PairSt} : (Machine.takeForward s p).Canonical := by
  unfold Machine.takeForward
  split
  · exact h.modPair.send
  · exact h

theorem beyond (h : s.Canonical) {detail : Word} {start : State → Nat → State}
    (hstart : ∀ {s x}, s.Canonical → (start s x).Canonical) :
    (Machine.beyond s kind cause detail r start).Canonical := by
  unfold Machine.beyond
  dsimp only
  split
  · exact hstart h.park.addReq
  · split
    · refine .ite ?_ ?_
      · split
        · exact .ite h.park.addReq.send (hstart h.park.addReq)
        · exact hstart h.park.addReq
      · split
        · exact h.park.addReq.takeForward
        · exact h
    · refine .ite ?_ ?_
      · split
        · exact .ite h.park.addReq.send (hstart h.park.addReq)
        · exact hstart h.park.addReq
      · split
        · exact h.park.addReq.takeForward
        · exact h
    · refine .ite ?_ h.callCheckpoint
      refine .ite ?_ ?_
      · split
        · exact .ite h.modPair.park.addReq.send (hstart h.modPair.park.addReq)
        · exact hstart h.modPair.park.addReq
      · split
        · exact h.modPair.park.addReq.takeForward
        · exact h.modPair

theorem finishExit (h : s.Canonical) : (Machine.finishExit s t).Canonical := by
  unfold Machine.finishExit
  dsimp only
  split
  · exact h.modPair.retireTo
  · exact .ite h.retireTo.setTState.endHandler h.retireTo.setTState.threadEnded

theorem deliver (h : s.Canonical) {x : Vec} : (Machine.deliver s r x).Canonical := by
  unfold Machine.deliver
  dsimp only
  cases r.insn with
  | ldo | ldfe | ldff | amoAddD | amoAndD | amoOrD | amoXorD | amoSminD | amoSmaxD | amoUminD | amoUmaxD | amoSwapD
  | amoFaddD | amoFminD | amoFmaxD | amoCasD | amoAddW | amoAndW | amoOrW | amoXorW | amoSminW | amoSmaxW | amoUminW
  | amoUmaxW | amoSwapW | amoFaddW | amoFminW | amoFmaxW | amoCasW | ibpeek | rld | ramoadd | rcas | objq | commit
  | decommit | alloc | free | reloc | objsync | fillc | repart | unpair | capr | launch | cancel | mldb | mldbW | mmul
  | mmulW | mout | mzero | mtest | cpy | cpyx | cpyc | gath | scat | scatadd | jpoll | jwait | creduce | rseq | rswait
  | mstat => exact h.retireS
  | sto | stef | stff | sete | vsto | rst | hdl => exact h.retire
  | vldo | vldb => exact h.setVMasked.retire
  | fence | fenceAcq | fenceRel | msend | cntdec | cntadd | cntwait => exact h.retirePlain
  | ibrecv => exact h.setS.setS.retire
  | pair => exact .ite h.retireS.setC.setC.makePair h.retireS
  | exit => exact h.finishExit
  | _ => exact h.retirePlain

theorem forward (h : s.Canonical) {a : Ans} : (Machine.forward s t pc a).Canonical := by
  unfold Machine.forward
  split
  · exact h
  · refine .ite ?_ h
    dsimp only
    split
    · exact .ite h.modPair.takeForward h.modPair
    · exact h.modPair

theorem complete (h : s.Canonical) {a : Ans} : (Machine.complete s r a).Canonical := by
  unfold Machine.complete
  extract_lets +onlyGivenNames t pc paired s1 s2
  have h1 : s1.Canonical := h.dropReq
  have h2 : s2.Canonical := by
    unfold s2
    split
    · exact h1.unpark.retiring fun h => h.deliver
    · split
      · exact h1.endPair
      · exact h1.consumePoison
    · exact h1.unpark.takeTrap
  exact .runCmds (.ite h2.forward h2)

theorem heldDone (h : s.Canonical) : (Machine.heldDone s id).Canonical := h

theorem replyArrives (h : s.Canonical) {a : Ans} : (Machine.replyArrives s id a).Canonical := by
  unfold Machine.replyArrives
  split
  · exact h
  · extract_lets +onlyGivenNames _ s'
    have h' : s'.Canonical := h
    exact .ite h'.dropReq.heldDone (.ite h' (.ite h'.complete h'.modReq.unpark.modThr))

theorem wakePark (h : s.Canonical) : (Machine.wakePark s t).Canonical := by
  unfold Machine.wakePark
  split
  · exact h.replyArrives
  · exact h

theorem writeHeld (h : s.Canonical) : (Machine.writeHeld s t).Canonical := by
  unfold Machine.writeHeld
  split
  · exact h
  · dsimp only
    split
    · exact h.modThr
    · exact h.modThr.complete

/-! ### The operations of Machine/Heddle.lean -/

theorem divert (h : s.Canonical) : (Machine.divert s p sub).Canonical := h.diversion.answerPkt

theorem meetKey (h : s.Canonical) : (Machine.meetKey s p).Canonical := by
  unfold Machine.meetKey
  exact .ite h.touchFrame.touchWord h.touchFrame

theorem checkPoison (h : s.Canonical) : (Machine.checkPoison s p).Canonical := by
  unfold Machine.checkPoison
  exact .ite h.ownPoison h

theorem checked (h : s.Canonical) {f : RowFn} {k : State → State} (hk : ∀ {s}, s.Canonical → (k s).Canonical) :
    (Machine.checked s p f k).Canonical := by
  unfold Machine.checked
  dsimp only
  split
  · exact h.meetKey.divert.checkPoison
  · exact hk h.meetKey

theorem writeRowWord (h : s.Canonical) : (Machine.writeRowWord s core row widx x).Canonical := by
  unfold Machine.writeRowWord
  exact .ite h (.ite (.ite h (.ite h.putWord (.ite (.ite h h.putWord) h.putWord))) h.putWord)

theorem wakeRow (h : s.Canonical) : (Machine.wakeRow s core row widx).Canonical := by
  unfold Machine.wakeRow
  exact .ite h h.wakePark

theorem withdrawReq (h : s.Canonical) : (Machine.withdrawReq s r).Canonical := by
  unfold Machine.withdrawReq
  exact .update h.dropReq

theorem sendCancelWait (h : s.Canonical) : (Machine.sendCancelWait s r).Canonical := by
  unfold Machine.sendCancelWait
  exact .ite (.ite (.update h) h) h.send

theorem settle (h : s.Canonical) : (Machine.settle s t).1.Canonical := by
  unfold Machine.settle
  split
  · exact .ite_fst h.completeYield h.unpark
  · split
    · extract_lets +onlyGivenNames s'
      have h' : s'.Canonical := by
        unfold s'
        split
        · exact .ite h.sendCancelWait h
        · exact h
      exact h'.withdrawReq.unpark
    · exact .modReq (.ite h.sendCancelWait h)
    · exact h

theorem storeHeddle (h : s.Canonical) : (Machine.storeHeddle s t x).Canonical := h.setC

theorem refuse (h : s.Canonical) : (Machine.refuse s t).Canonical := h.setC

theorem redirectPc (h : s.Canonical) : (Machine.redirectPc s t x).Canonical := h.setPc

theorem cancelThread (h : s.Canonical) : (Machine.cancelThread s t).Canonical :=
  h.setFinfo.setTState.setC.modThr.threadEnded

theorem actCommand (h : s.Canonical) : (Machine.actCommand s t x cmd).Canonical := by
  unfold Machine.actCommand
  dsimp only
  split
  · exact h
  · exact .ite h.setTState h.refuse
  · exact .ite h (.ite h.setTState.modThr h.refuse)
  · exact .ite h.refuse (.ite h.redirectPc (.ite h.redirectPc.setTState.modThr h.refuse))
  · exact .ite h.setTState h.refuse
  · exact .ite h.setTState.modThr h.refuse
  · exact .ite h.cancelThread h
  · exact h.refuse

theorem cancelEcho (h : s.Canonical) : (Machine.cancelEcho s p).Canonical := by
  unfold Machine.cancelEcho
  split
  · exact h
  · split
    · exact .ite h.modReq.send h.modReq
    · exact h

theorem commandDone (h : s.Canonical) : (Machine.commandDone s p).Canonical := h.answerPkt.cancelEcho

theorem answerStep (h : s.Canonical) : (Machine.answerStep s t).Canonical := by
  unfold Machine.answerStep
  split
  · exact h.modThr.commandDone
  · exact h

theorem command (h : s.Canonical) : (Machine.command s p cmd).Canonical := by
  unfold Machine.command
  extract_lets +onlyGivenNames t s1 s2 wait settles own
  have h1 : s1.Canonical := .ite h h.storeHeddle
  have h2 : s2.Canonical := .ite h1.meetRecord h1
  have hwait : ∀ {s}, s.Canonical → (wait s).Canonical := fun h => h.modThr
  split
  · exact h2.complete.actCommand
  · refine .ite (hwait h2) ?_
    extract_lets +onlyGivenNames s3
    have h3 : s3.Canonical := .ite h2.writeHeld h2
    refine .ite ?_ (.ite h3.answerStep.actCommand.modThr h3.actCommand.commandDone)
    refine .ite h3.commandDone (.ite h3.unpark.commandDone ?_)
    refine .ite h3.refuse.commandDone (.ite ?_ h3.refuse.commandDone)
    split
    · next e => exact (h3.settle.of_fst e).actCommand.commandDone
    · next e => exact hwait (h3.settle.of_fst e)

theorem restPair (h : s.Canonical) {q : PairSt} : (Machine.restPair s q).Canonical := by
  unfold Machine.restPair
  extract_lets +onlyGivenNames l wide s1 s2 s3 s4 s5 s6
  have h1 : s1.Canonical := by
    unfold s1
    split
    · exact h.dropReq
    · exact h
  have h2 : s2.Canonical := h1.setC
  have h3 : s3.Canonical := h2.copyThread
  have h4 : s4.Canonical := h3.setC
  have h5 : s5.Canonical := h4.modThr
  have h6 : s6.Canonical := h5.copyThread.copyThread
  exact h6.modPair

theorem mirrorWord (h : s.Canonical) {q : PairSt} : (Machine.mirrorWord s q row widx).Canonical :=
  h.foldl fun h => h.putWord

theorem mirrorCommand (h : s.Canonical) {q : PairSt} : (Machine.mirrorCommand s q).Canonical := by
  unfold Machine.mirrorCommand
  exact .ite (h.foldl fun h => h.setC) h.restPair

theorem mirrorPrio (h : s.Canonical) {q : PairSt} : (Machine.mirrorPrio s q).Canonical :=
  h.foldl fun h => h.setC

theorem mirror (h : s.Canonical) {q : PairSt} {a : Event} : (Machine.mirror s q a).Canonical := by
  unfold Machine.mirror
  split
  · exact h.mirrorPrio
  · exact h.mirrorWord
  · exact h.mirrorWord
  · exact .ite h.mirrorCommand h.mirrorWord
  · exact h.mirrorCommand

theorem callOutside (h : s.Canonical) {q : PairSt} : (Machine.callOutside s q).Canonical := by
  unfold Machine.callOutside
  dsimp only
  split
  · exact h.callCheckpoint
  · split
    · refine .callCheckpoint (.unpark ?_)
      refine .withdrawReq ?_
      split
      · exact .ite h.sendCancelWait h
      · exact h
    · exact h.callCheckpoint
    · exact h.callCheckpoint

theorem deferPair (h : s.Canonical) {k : State → State} (hk : ∀ {s}, s.Canonical → (k s).Canonical) :
    (Machine.deferPair s t e k).Canonical := by
  unfold Machine.deferPair
  split
  · exact hk h
  · exact .ite (hk h).mirror h.modPair.callOutside

theorem storeWord (h : s.Canonical) : (Machine.storeWord s p).Canonical :=
  h.checked fun h => h.deferPair fun h => h.writeRowWord.answerPkt.wakeRow

theorem heddle (h : s.Canonical) : (Machine.heddle s p cmd).Canonical := by
  unfold Machine.heddle
  refine .ite (h.deferPair fun h => h.command) (.ite h.storeWord ?_)
  extract_lets +onlyGivenNames s'
  have h' : s'.Canonical := h.checked fun h => h.deferPair fun h => h.command
  exact .ite h'.cancelEcho h'

theorem outsideRead (h : s.Canonical) : (Machine.outsideRead s p).Canonical :=
  h.checked fun h => .answerPkt (.ite h h.touchWord)

theorem hostAccess (h : s.Canonical) {f : RowFn} {y : Word} :
    (Machine.hostAccess s slot f ref widx x y).Canonical := by
  unfold Machine.hostAccess
  exact .ite (.ite (.update h) h.diversion.answerPkt) (.ite h.diversion.answerPkt h.send)

theorem rowStepOf (h : s.Canonical) {k : RowPkt → State} {p : Option RowPkt} (hk : ∀ {p}, (k p).Canonical) :
    (Machine.rowStepOf s k p).Canonical := by
  unfold Machine.rowStepOf
  split
  · exact hk
  · exact h.hostAccess
  · exact h

theorem outsideWrite (h : s.Canonical) : (Machine.outsideWrite s p).Canonical := by
  unfold Machine.outsideWrite
  exact .ite h.heddle h.storeWord

theorem outsideAdd (h : s.Canonical) : (Machine.outsideAdd s p).Canonical :=
  h.checked fun h => h.deferPair fun h => .ite h.touchWord.answerPkt h.touchWord.writeRowWord.answerPkt.wakeRow

theorem writeQuant (h : s.Canonical) : (Machine.writeQuant s core x).Canonical := h.modCore

theorem outsideCas (h : s.Canonical) : (Machine.outsideCas s p).Canonical := by
  unfold Machine.outsideCas
  refine h.checked fun h => h.deferPair fun h => ?_
  extract_lets +onlyGivenNames core row a s' old
  have h' : s'.Canonical := .ite h h.touchWord
  refine .ite h'.answerPkt (.ite h'.answerPkt ?_)
  exact .ite (.answerPkt (.ite h'.writeQuant h')) (.ite h'.command h'.writeRowWord.answerPkt.wakeRow)

/-! ### The operations of Machine/Translate.lean -/

theorem cacheRecord (h : s.Canonical) {r : Rec} : (Machine.cacheRecord s tile w r).Canonical := h.modTile

theorem cacheEntry (h : s.Canonical) : (Machine.cacheEntry s tile w n w0).Canonical := h.modTile

theorem dropEntry (h : s.Canonical) : (Machine.dropEntry s tile w n).Canonical := h.modTile

theorem dropHandle (h : s.Canonical) : (Machine.dropHandle s tile w).Canonical := h.modTile

theorem useRecords (h : s.Canonical) : (Machine.useRecords s tile w).Canonical := h.foldl fun h => h.modTile

theorem useEntry (h : s.Canonical) {ph : Nat} : (Machine.useEntry s tile ph sub).Canonical := h.modTile

theorem issueWalk (h : s.Canonical) {x : WalkSt} : (Machine.issueWalk s tile x).Canonical := by
  unfold Machine.issueWalk
  dsimp only
  split
  · exact h.modTile.foldl fun h => h.post
  · exact .ite (h.modTile.foldl fun h => h.post) h.send

theorem startWalk (h : s.Canonical) {w : WalkAddr} : (Machine.startWalk s r w).Canonical := by
  unfold Machine.startWalk
  extract_lets +onlyGivenNames tile s' l
  have h' : s'.Canonical := h.modReq
  exact .ite h'.modTile (.ite (.issueWalk (.modTile (.update h'))) (.modTile (.update h')))

theorem issueNext (h : s.Canonical) : (Machine.issueNext s tile n).Canonical := by
  induction n generalizing s with
  | zero => exact h
  | succ n ih =>
    unfold Machine.issueNext
    split
    · exact h
    · exact .ite h.issueWalk (ih h.issueWalk)

theorem endWalk (h : s.Canonical) {no : Nat} : (Machine.endWalk s tile no).Canonical := h.modTile.issueNext

theorem answerWalk (h : s.Canonical) {p : WalkPkt} : (Machine.answerWalk s p).Canonical := by
  unfold Machine.answerWalk
  extract_lets +onlyGivenNames s1 s2 x extra bad
  have h1 : s1.Canonical := h.touch
  have h2 : s2.Canonical := by
    unfold s2
    split
    · exact h1.touchWord
    · exact h1
  exact h2.send

theorem walkAdmitted (h : s.Canonical) {p : WalkPkt} : (Machine.walkAdmitted s p).Canonical := by
  unfold Machine.walkAdmitted
  exact .ite h.touch.modTile h.touch.answerWalk

theorem releaseWalks (h : s.Canonical) : (Machine.releaseWalks s tile w n).Canonical :=
  h.modTile.foldl fun h => h.answerWalk

/-! ### The operations of Machine/Majority.lean -/

theorem replicaRead (h : s.Canonical) {p : MajPkt} : (Machine.replicaRead s p).1.Canonical := by
  unfold Machine.replicaRead
  exact .ite_fst h (.ite_fst (.ite h.touch.touchWord.putBytes h.touch.touchWord) h.touch.touchWord)

theorem replicaWrite (h : s.Canonical) {p : MajPkt} : (Machine.replicaWrite s p).1.Canonical := by
  unfold Machine.replicaWrite
  exact .ite_fst h (.ite_fst h.touch.touchWord.putFull.putFull h.touch.touchWord)

theorem applyReplica (h : s.Canonical) {p : MajPkt} : (Machine.applyReplica s p).Canonical := by
  unfold Machine.applyReplica
  extract_lets r
  have hr : r.1.Canonical := by
    unfold r
    split
    · exact h.replicaRead
    · exact h.replicaWrite
    · exact h.replicaWrite
  exact .ite hr hr.send

theorem replicaStep (h : s.Canonical) {p : MajPkt} : (Machine.replicaStep s p e).Canonical := by
  unfold Machine.replicaStep
  exact .ite h (.ite h.modStack h.applyReplica)

theorem sendReplica (h : s.Canonical) {op : MajOp} {tag : Word} {data : BitVec 512} {x : Nat × Thr × Nat} :
    (Machine.sendReplica s r op tag data x).Canonical := by
  unfold Machine.sendReplica
  exact .send (.update h)

theorem majReads (h : s.Canonical) : (Machine.majReads s id).Canonical := by
  unfold Machine.majReads
  split
  · exact h
  · exact h.modReq.foldl fun h => h.sendReplica

/-! ### The operations of Machine/Access.lean -/

theorem setTouch (h : s.Canonical) : (Machine.setTouch s t x).Canonical := by
  unfold Machine.setTouch
  split
  · exact h.setC.setC
  · exact h.setC

theorem withFence (h : s.Canonical) {k : State → Nat → State} (hk : ∀ {s x}, s.Canonical → (k s x).Canonical) :
    (Machine.withFence s id k).Canonical := by
  unfold Machine.withFence
  split
  · exact h
  · exact .ite (hk h) (.ite (hk h.setTouch) (.foldl (.modReq (.update h)) fun h => .ite h.send h.send))

theorem overlapCheckpoint (h : s.Canonical) {p : PairSt} : (Machine.overlapCheckpoint s p).Canonical := by
  unfold Machine.overlapCheckpoint
  extract_lets +onlyGivenNames undo
  have hundo : ∀ {s t}, s.Canonical → (undo s t).Canonical := by
    intro s t h
    dsimp only [undo]
    split
    · exact .ite h.dropReq.unpark h
    · exact h
  exact (hundo (hundo h)).callCheckpoint

theorem pairHold (h : s.Canonical) {go : State → State} (hgo : ∀ {s}, s.Canonical → (go s).Canonical) :
    (Machine.pairHold s r go).Canonical := by
  unfold Machine.pairHold
  split
  · exact hgo h
  · refine .ite (hgo h) ?_
    split
    · exact hgo h
    · split
      · exact hgo h
      · exact h.replyArrives
      · exact h.overlapCheckpoint
    · exact .ite h.modPair.replyArrives.callCheckpoint h.modPair.replyArrives

theorem sendOut (h : s.Canonical) {done : Bool} : (Machine.sendOut s r dev ref e done).Canonical := by
  unfold Machine.sendOut
  exact .ite (.ite h.leaveModule.send h.leaveModule) h.diversion.send

theorem sendAccess (h : s.Canonical) : (Machine.sendAccess s id).Canonical := by
  unfold Machine.sendAccess
  split
  · exact h
  · extract_lets +onlyGivenNames t tile f here dst
    refine .ite h.replyArrives ?_
    exact .ite (.send (.ite h.modReq.setTouch h.modReq)) (.sendOut (.ite h.modReq.setTouch h.modReq))

theorem residencyFault (h : s.Canonical) {row : Word} : (Machine.residencyFault s r sub row).Canonical := by
  unfold Machine.residencyFault
  exact .ite h.dropReq h.dropReq.setC.setFinfo.setC.toInbox.runCmds

theorem consumeData (h : s.Canonical) : (Machine.consumeData s r).Canonical := by
  unfold Machine.consumeData
  exact .ite h.dropReq h.dropReq.unpark.ownPoison

theorem resolve (h : s.Canonical) {x : Tr} : (Machine.resolve s r x).Canonical := by
  unfold Machine.resolve
  extract_lets +onlyGivenNames y ws s' done
  have h' : s'.Canonical := h.foldl fun h => h.touchWord
  have hdone : ∀ {v}, (done v).Canonical := h'.replyArrives
  refine .ite h'.consumeData ?_
  clear_value y
  cases y with
  | walk w => exact h'.startWalk
  | trap c sub => exact h'.replyArrives
  | zero => exact hdone
  | answer w => exact h'.send
  | const v sub off lanes => exact hdone
  | fault sub row => exact h'.residencyFault
  | place => exact .ite hdone (.pairHold (.modReq (.update h')) fun h => h.sendAccess)
  | maj => exact .ite hdone (.pairHold (.modReq (.update h')) fun h => h.majReads)

theorem translateReq (h : s.Canonical) {ovr : Option (Nat × Nat × List Word)} :
    (Machine.translateReq s id ovr).Canonical := by
  unfold Machine.translateReq
  split
  · exact h
  · dsimp only
    split
    · exact h.modReq.useRecords.resolve
    · refine .resolve ?_
      split
      · exact h.modReq.useRecords.useEntry
      all_goals exact h.modReq.useRecords

theorem startAccess (h : s.Canonical) {r : Order} : (Machine.startAccess r s id).Canonical := by
  unfold Machine.startAccess
  exact .ite (h.withFence fun h => h.translateReq) h.translateReq

theorem withData (h : s.Canonical) {data : List Nat} {k : State → Bool → State}
    (hk : ∀ {s x}, s.Canonical → (k s x).Canonical) :
    (Machine.withData s ws data k).Canonical :=
  h.withRegs fun h => hk (h.foldl fun h => h.touchWord)

theorem objAccess (h : s.Canonical) {p : Pair} {r : Order} {data : List Nat} {mk : State → Req → Req}
    {start : State → Nat → State} (hstart : ∀ {s x}, s.Canonical → (start s x).Canonical) :
    (Machine.objAccess i p r data kind cause mk start s).Canonical :=
  h.withData fun h => h.beyond hstart

theorem startWait (h : s.Canonical) {r : Order} : (Machine.startWait r s id).Canonical := by
  unfold Machine.startWait
  split
  · exact h
  · exact .startAccess (.ite h h.modReq.post)

theorem waitingAccess (h : s.Canonical) {p : Pair} {r : Order} {fn : Nat} {mk : State → Req → Req} :
    (Machine.waitingAccess i p r regs fn mk s).Canonical := by
  unfold Machine.waitingAccess
  exact .ite h.trapNow (h.objAccess fun h => h.startWait)

theorem amoAccess (h : s.Canonical) {a : SReg} {p : Pair} {r : Order} {cas : Bool} :
    (Machine.amoAccess i d a p r cause cas s).Canonical :=
  h.objAccess fun h => h.startAccess

theorem vecAccess (h : s.Canonical) {v : VReg} {g : PReg} {p : Pair} {r : Order} {store : Bool} :
    (Machine.vecAccess i v g p r store s).Canonical := by
  unfold Machine.vecAccess
  exact .ite h.trapNow (h.objAccess fun h => h.startAccess)

/-! ### The operations of Machine/Bar.lean -/

theorem modQueue (h : s.Canonical) {f : QueueSt → QueueSt} : (Machine.modQueue s q f).Canonical := h

theorem modCounter (h : s.Canonical) {f : CounterSt → CounterSt} : (Machine.modCounter s n f).Canonical := h

theorem modGroup (h : s.Canonical) {f : GroupSt → GroupSt} : (Machine.modGroup s g f).Canonical := h

/-! ### The operations of Machine/Pools.lean -/

theorem writeEntry (h : s.Canonical) : (Machine.writeEntry s a w0 w1).Canonical := h.putWord.putWord

theorem claimEntry (h : s.Canonical) : (Machine.claimEntry s slot w n).Canonical := h.modTile

theorem unclaim (h : s.Canonical) : (Machine.unclaim s slot w n).Canonical := h.modTile.releaseWalks

theorem setPool (h : s.Canonical) {stack : Nat} {x : PoolSt} : (Machine.setPool s stack x).Canonical :=
  h.modStack

theorem pushFrame (h : s.Canonical) {key f : Nat} : (Machine.pushFrame s key f).Canonical := h.setPool

theorem takeFrame (h : s.Canonical) {key f : Nat} : (Machine.takeFrame s key f).Canonical := h.setPool

theorem popFrame (h : s.Canonical) {stack key : Nat} : (Machine.popFrame s stack key).1.Canonical := by
  unfold Machine.popFrame
  dsimp only
  split
  · exact h
  · exact h.setPool

theorem dropGranules (h : s.Canonical) : (Machine.dropGranules s core row).Canonical := h.modTile

theorem clearWait (h : s.Canonical) {e : Nat} : (Machine.clearWait s core e).Canonical :=
  h.putWord.putWord.modCore

theorem redirectWaiters (h : s.Canonical) : (Machine.redirectWaiters s core row).Canonical := by
  unfold Machine.redirectWaiters
  dsimp only
  refine h.foldl fun h => ?_
  split
  · exact h.clearWait
  · exact h.clearWait.send

theorem startDrop (h : s.Canonical) : (Machine.startDrop s id slot w).Canonical := by
  unfold Machine.startDrop
  dsimp only
  split
  · exact h
  · exact h.modReq.foldl fun h => .ite h.send h.send

theorem finishOp (h : s.Canonical) {wrapped : Bool} :
    (Machine.finishOp s srcTile id slot w wrapped status).Canonical := by
  unfold Machine.finishOp
  exact .ite h.modReq.startDrop h.answer

theorem vacateFrame (h : s.Canonical) {gen : Nat} {f : Thr} :
    (Machine.vacateFrame s handle sub gen f).Canonical :=
  h.setFrame.dropGranules.redirectWaiters

theorem retireAdmission (h : s.Canonical) {p : ObjPkt} : (Machine.retireAdmission s p).Canonical := by
  unfold Machine.retireAdmission
  split
  · exact h
  · extract_lets +onlyGivenNames slot s1 g s2 s3 key s4 late s5 s6
    have h1 : s1.Canonical := h.vacateFrame
    have h2 : s2.Canonical := by
      unfold s2
      split
      · exact h1
      · split <;> exact h1.writeEntry
    have h3 : s3.Canonical := h2.unclaim
    have h4 : s4.Canonical := h3.pushFrame
    have h5 : s5.Canonical := h4.modCore
    have h6 : s6.Canonical := h5.foldl fun h => h.post
    exact h6.finishOp

/-! ### The operations of Machine/Admit.lean -/

theorem answerObj (h : s.Canonical) {p : ObjPkt} {a : Ans} : (Machine.answerObj s p a).Canonical := by
  unfold Machine.answerObj
  exact .ite h h.send

theorem echoes (h : s.Canonical) : (Machine.echoes s).Canonical := by
  unfold Machine.echoes
  refine .ite h ?_
  extract_lets +onlyGivenNames l m s' io
  have h' : s'.Canonical := h.foldl fun h => .ite h ((h.modTile.foldl fun h => h.post).foldl fun h => h.send)
  exact h'.foldl fun h => .post (.update h)

theorem enqueue (h : s.Canonical) {p : ObjPkt} : (Machine.enqueue s p).Canonical := by
  unfold Machine.enqueue
  exact .ite h.admitCached h.arrive

theorem useCache (h : s.Canonical) {p : ObjPkt} : (Machine.useCache s p).Canonical := by
  unfold Machine.useCache
  exact .ite h.useGranules h

theorem accept (h : s.Canonical) {p : ObjPkt} : (Machine.accept s p).1.Canonical := by
  unfold Machine.accept
  split
  · exact h
  · exact .ite_fst h.answerObj h

theorem redirect (h : s.Canonical) {p : ObjPkt} : (Machine.redirect s p).Canonical := h.send

theorem downAnswer (h : s.Canonical) {p : ObjPkt} : (Machine.downAnswer s p).Canonical := by
  unfold Machine.downAnswer
  extract_lets +onlyGivenNames s'
  have h' : s'.Canonical := by
    unfold s'
    refine .ite ?_ h
    split
    · exact h.unclaim
    · exact h
  exact h'.answerObj

theorem accessArrives (h : s.Canonical) {p : ObjPkt} : (Machine.accessArrives s p).Canonical := by
  unfold Machine.accessArrives
  extract_lets +onlyGivenNames f s'
  have h' : s'.Canonical := h.touchFrame
  refine .ite h'.accept.post ?_
  exact .ite h'.downAnswer (.ite h'.redirect (.ite h'.accept.modCore (.ite h'.modCore h'.accept.enqueue)))

theorem serveWord {fuel : Nat} {fill : Bool} (h : s.Canonical) :
    (Machine.serveWord fuel s core row a fill).Canonical := by
  induction fuel generalizing s fill with
  | zero => exact h
  | succ n ih =>
    unfold Machine.serveWord
    dsimp only
    refine .ite ?_ ?_
    · split
      · exact h
      · exact .ite (ih h.clearWait.answer.setFull) (ih h.clearWait.answer)
    · split
      · exact h
      · exact ih h.clearWait.putWord.setFull.answer

theorem touchWaits (h : s.Canonical) : (Machine.touchWaits s core).Canonical := by
  unfold Machine.touchWaits
  exact .ite h h.touch

theorem serve (h : s.Canonical) {fill : Bool} : (Machine.serve s core row a fill).Canonical :=
  h.touchWaits.serveWord

theorem waitFor (h : s.Canonical) {p : ObjPkt} {op : Nat} {value : Word} :
    (Machine.waitFor s p op value).Canonical := by
  unfold Machine.waitFor
  dsimp only
  split
  · exact h.touchWaits.send
  · exact h.touchWaits.putWord.putWord.modCore

theorem storeLanes (h : s.Canonical) {mask : Pred} {x : Vec} : (Machine.storeLanes s a mask x).Canonical := by
  unfold Machine.storeLanes
  exact h.foldl fun h => .ite h.putBytes (h.foldl fun h => .ite h.putBytes h)

theorem applyOp (h : s.Canonical) {p : ObjPkt} : (Machine.applyOp s p).Canonical := by
  unfold Machine.applyOp
  dsimp only
  split
  · exact h.useCache.touch.answerObj
  · exact h.useCache.touch.answerObj
  · exact h.useCache.touch.answerObj
  · exact h.useCache.putBytes.answerObj
  · exact h.useCache.storeLanes.answerObj
  · exact .ite h.useCache.touchWord.answerObj.setFull.serve h.useCache.touchWord.waitFor
  · exact .ite h.useCache.touchWord.answerObj h.useCache.touchWord.waitFor
  · exact .ite h.useCache.touchWord.waitFor h.useCache.touchWord.putWord.setFull.answerObj.serve
  · exact .ite h.useCache.touchWord.putWord.answerObj h.useCache.touchWord.putWord.setFull.answerObj.serve
  · exact .ite h.useCache.touchWord.setFull.answerObj.serve h.useCache.touchWord.answerObj
  · refine .ite h.useCache.touch.answerObj (.answerObj ?_)
    split
    · exact h.useCache.touch.putBytes
    · exact h.useCache.touch
  · exact h.useCache.retireAdmission

theorem applyModule (h : s.Canonical) {p : ObjPkt} : (Machine.applyModule s p).Canonical := by
  unfold Machine.applyModule
  extract_lets +onlyGivenNames elem write
  have hwrite : ∀ {s i x m}, s.Canonical → (write s i x m).Canonical := by
    intro s i x m h
    dsimp only [write]
    split
    · exact h.follow
    · exact h
  split
  · exact h.answerObj
  · exact h.answerObj
  · exact h.answerObj
  · exact .ite (hwrite h) (hwrite h).answerObj
  · exact (h.foldl fun h => .ite h (hwrite h)).answerObj
  · exact h.answerObj

theorem admitPosted (h : s.Canonical) {f : Thr} : (Machine.admitPosted s f).Canonical :=
  h.foldl fun h => .ite h.applyOp h

theorem clearReserved (h : s.Canonical) : (Machine.clearReserved s a n).Canonical :=
  h.foldl fun h => .ite (.update (Memory.wf_put h _ _)) h

theorem admitAccess (h : s.Canonical) {p : ObjPkt} : (Machine.admitAccess s p).Canonical := by
  unfold Machine.admitAccess
  extract_lets +onlyGivenNames f
  refine .ite h.applyModule (.ite h.downAnswer ?_)
  extract_lets +onlyGivenNames s'
  have h' : s'.Canonical := h.touchFrame
  exact .ite (.ite h' h'.redirect) (.ite h'.modCore (.ite h'.applyOp.clearReserved h'.applyOp))

theorem fenceProbe (h : s.Canonical) {seq : Nat} : (Machine.fenceProbe s id tile seq).Canonical := by
  unfold Machine.fenceProbe
  split
  · exact h
  · exact .ite (.update h) h.modTile

theorem probeEcho (h : s.Canonical) : (Machine.probeEcho s id tile).Canonical := by
  unfold Machine.probeEcho
  split
  · exact h
  · extract_lets +onlyGivenNames my _ s'
    have h' : s'.Canonical := by
      unfold s'
      refine .ite ?_ h.modTile
      split <;> exact h
    exact h'.send

/-! ### The operations of Machine/Inbox.lean -/

theorem putEntry (h : s.Canonical) {e : Nat} : (Machine.putEntry s core e m).Canonical := h.putFull.modCore

theorem takeEntry (h : s.Canonical) : (Machine.takeEntry s t).Canonical := by
  unfold Machine.takeEntry
  dsimp only
  split
  · exact .ite h.wakePark.touch.modCore.replyArrives h.wakePark
  · exact h.wakePark

theorem answerMessage (h : s.Canonical) : (Machine.answerMessage s m).Canonical := by
  unfold Machine.answerMessage
  exact .ite h.answer h

theorem enterEntry (h : s.Canonical) {e : Nat} : (Machine.enterEntry s core e m).Canonical :=
  h.putEntry.answerMessage

theorem refill (h : s.Canonical) : (Machine.refill n s core).Canonical := by
  induction n generalizing s with
  | zero => exact h
  | succ n ih =>
    unfold Machine.refill
    split
    · exact ih h.modCore.enterEntry.takeEntry
    · exact h

theorem refillInbox (h : s.Canonical) : (Machine.refillInbox s core).Canonical := h.refill

theorem removeEntry (h : s.Canonical) {e : Nat} : (Machine.removeEntry s core e).Canonical :=
  h.modCore.refillInbox

theorem wakeReceiver (h : s.Canonical) : (Machine.wakeReceiver s t).Canonical := h.takeEntry.refillInbox

theorem discardInbox (h : s.Canonical) : (Machine.discardInbox s core row).Canonical :=
  (h.modCore.foldl fun h => h.answerMessage).refillInbox

theorem entryRefused (h : s.Canonical) : (Machine.entryRefused s m sub).Canonical := by
  unfold Machine.entryRefused
  dsimp only
  split
  · exact h.toSupervisor
  · exact h.countLost
  · exact .ite h.diversion h.diversion.answer
  all_goals exact h.diversion

theorem holdMessage (h : s.Canonical) {m : Msg} : (Machine.holdMessage s l m).Canonical := by
  unfold Machine.holdMessage
  refine .ite h.modLaunch ?_
  split
  · exact h
  · exact h.send

theorem inboxArrives (h : s.Canonical) : (Machine.inboxArrives s m).Canonical := by
  unfold Machine.inboxArrives
  dsimp only
  split
  · split
    · exact h.meetKey.holdMessage
    · exact h.meetKey.entryRefused.checkPoison
  · split
    · exact .ite h.meetKey.enterEntry.wakeReceiver h.meetKey.modCore
    · refine .ite ?_ h.meetKey.modCore
      split
      · exact h.meetKey
      · exact h.meetKey.send

theorem touchHandler (h : s.Canonical) : (Machine.touchHandler s tile w).Canonical := by
  unfold Machine.touchHandler
  dsimp only
  split
  · exact h.meetRecord.touch
  · exact h.meetRecord

theorem startHandler (h : s.Canonical) {m : Msg} : (Machine.startHandler s core m w0 w1).Canonical :=
  h.setS.setS.setS.setS.setS.setS.setC.setC.setC.setC.unpark.setThr.modCore

theorem messageArrives (h : s.Canonical) {m : Msg} : (Machine.messageArrives s m).Canonical := by
  unfold Machine.messageArrives
  dsimp only
  split
  · split
    · exact h.meetKey.holdMessage
    · exact h.meetKey.entryRefused.checkPoison
  · split
    · exact h.meetKey.touchHandler.entryRefused
    · refine .ite h.meetKey.touchHandler.entryRefused ?_
      refine .ite (.ite h.meetKey.touchHandler.setCore h.meetKey.touchHandler.startHandler) ?_
      exact .answer (.ite h.meetKey.touchHandler.setCore h.meetKey.touchHandler.startHandler)

theorem handlerStarts (h : s.Canonical) : (Machine.handlerStarts s core).Canonical := by
  unfold Machine.handlerStarts
  dsimp only
  split
  · exact h
  · refine .ite h ?_
    split
    · exact h.setCore.touchHandler.startHandler
    · exact h.setCore.touchHandler

theorem startRecv (h : s.Canonical) : (Machine.startRecv s id).Canonical := by
  unfold Machine.startRecv
  split
  · exact h
  · split
    · exact h
    · exact h.touch.modCore.replyArrives.refillInbox

/-! ### The operations of Machine/RowSpace.lean -/

theorem settleDown (h : s.Canonical) : (Machine.settleDown s r ref).Canonical := h.diversion.send

theorem sendRow (h : s.Canonical) : (Machine.sendRow s id).Canonical := by
  unfold Machine.sendRow
  split
  · exact h
  · exact h.pairHold fun h => .ite h.modReq.sendOut (.ite h.modReq.settleDown h.modReq.send)

theorem rowAccess (h : s.Canonical) {r : SReg} {w : BitVec 9} {o : ROrder} {mk : State → Req → Req} :
    (Machine.rowAccess i r w o regs mk s).Canonical := by
  unfold Machine.rowAccess
  refine h.withRegs fun h => h.beyond fun h => ?_
  split
  · exact h.withFence fun h => h.sendRow
  · exact h.sendRow

theorem sendMsg (h : s.Canonical) : (Machine.sendMsg s id).Canonical := by
  unfold Machine.sendMsg
  split
  · exact h
  · exact h.pairHold fun h => .ite h.modReq.sendOut (.ite h.modReq.settleDown h.modReq.send)

theorem fenceInsn (h : s.Canonical) : (Machine.fenceInsn i s).Canonical :=
  h.withRegs fun h => h.withRegs fun h => h.beyond fun h => h.withFence fun h => h.replyArrives

/-! ### The operations of Machine/Objects.lean -/

theorem freeOp (h : s.Canonical) {r : Rec} {mode sa : Word} :
    (Machine.freeOp s slot w r mode sa).1.Canonical := by
  unfold Machine.freeOp
  dsimp only
  refine .ite_fst h (.ite_fst h ?_)
  split
  · exact h
  · refine .ite_fst (.ite_fst h.zeroRow.setFrame.pushFrame.noteFree h) ?_
    exact .ite_fst h (.ite_fst h.pushFrame h.zeroRow.setFrame.takeFrame.noteFree)

theorem allocatorOp (h : s.Canonical) : (Machine.allocatorOp s r).Canonical := by
  unfold Machine.allocatorOp
  dsimp only
  split
  · exact h.popFrame.answer
  · split
    · exact .replyArrives (.meetRecord (.ite h.touchFrame h))
    · exact .answer (.freeOp (.meetRecord (.ite h.touchFrame h)))

theorem opStart (h : s.Canonical) : (Machine.opStart s id).Canonical := by
  unfold Machine.opStart
  split
  · exact h
  · extract_lets +onlyGivenNames tile slot s1 x ws s2
    have h1 : s1.Canonical := h.useRecords
    have h2 : s2.Canonical := h1.foldl fun h => h.touchWord
    refine .ite h2.consumeData ?_
    clear_value x
    split
    · exact h2.modReq.allocatorOp
    · exact h2.modReq.send
    · exact h2.resolve

theorem retranslate (h : s.Canonical) {ovr : Option (Nat × Nat × List Word)} :
    (Machine.retranslate s id ovr).Canonical := by
  unfold Machine.retranslate
  split
  · exact h
  · exact .ite h.opStart h.translateReq

theorem objectOp (h : s.Canonical) {p : Pair} {fence : Bool} {mk : State → Req → Req} :
    (Machine.objectOp i p fence regs mk s).Canonical := by
  unfold Machine.objectOp
  refine h.withData fun h => ?_
  dsimp only
  refine h.beyond fun h => ?_
  split
  · exact h.withFence fun h => h.opStart
  · exact h.opStart

theorem syncDrop (h : s.Canonical) : (Machine.syncDrop s id).Canonical := by
  unfold Machine.syncDrop
  split
  · exact h
  · exact h.startDrop

theorem startSync (h : s.Canonical) : (Machine.startSync s id).Canonical := by
  unfold Machine.startSync
  split
  · exact h
  · exact .ite h.replyArrives (h.withFence fun h => h.syncDrop)

theorem objsyncDropped (h : s.Canonical) : (Machine.objsyncDropped s id tile w).Canonical := by
  unfold Machine.objsyncDropped
  exact .modTile (.update (h.dropHandle.modTile.foldl fun h => h.modCore))

theorem sendRetire (h : s.Canonical) {src : Nat} : (Machine.sendRetire s r w0 src).Canonical := by
  unfold Machine.sendRetire
  exact .ite (.downAnswer (.modReq (.update h))) (.send (.modReq (.update h)))

theorem commitAt (h : s.Canonical) {x : Rec} {f : Nat} : (Machine.commitAt s slot r x a f w0).Canonical :=
  h.zeroRow.dropGranules.setFrame.takeFrame.writeEntry.releaseWalks.finishOp.noteFree

theorem takeQueued (h : s.Canonical) {f : Thr} : (Machine.takeQueued s f).1.Canonical := by
  unfold Machine.takeQueued
  exact .setCore (.update h)

theorem holdQueued (h : s.Canonical) {f : Thr} : (Machine.holdQueued s f).Canonical := h.takeQueued.modCore

theorem relocAt (h : s.Canonical) {x : Rec} : (Machine.relocAt s slot r x a n w0 w1).Canonical := by
  unfold Machine.relocAt
  exact .update h.claimEntry.writeEntry.takeFrame.setFrame.holdQueued.modReq.post

theorem claimArrives (h : s.Canonical) : (Machine.claimArrives s id).Canonical := by
  unfold Machine.claimArrives
  split
  · exact h
  · dsimp only
    split
    · refine .ite h.touch.answer ?_
      split
      · exact .ite h.touch.answer (.ite h.touch.answer (.ite h.touch.answer h.touch.commitAt))
      · exact .ite h.touch.answer (.ite h.touch.answer h.touch.claimEntry.sendRetire)
      · exact .ite h.touch.answer (.ite h.touch.answer (.ite h.touch.answer h.touch.relocAt))
      · refine .ite h.touch.answer ?_
        refine .ite (.ite h.touch.writeEntry.releaseWalks.finishOp h.touch.answer) ?_
        exact .ite h.touch.claimEntry.sendRetire h.touch.writeEntry.releaseWalks.finishOp
      · exact h.touch.answer
    · exact h.replyArrives

theorem forwardTo (h : s.Canonical) {n : Thr} {l : List ObjPkt} : (Machine.forwardTo s n g l).Canonical :=
  h.foldl fun h => .arrive (.ite h h.modReq)

theorem forwardHeld (h : s.Canonical) {f n : Thr} : (Machine.forwardHeld s f n g).Canonical :=
  h.modCore.forwardTo

theorem copyBus (h : s.Canonical) : (Machine.copyBus s t).Canonical := h.putBus

theorem relocCopied (h : s.Canonical) : (Machine.relocCopied s id).Canonical := by
  unfold Machine.relocCopied
  split
  · exact h
  · dsimp only
    split
    · refine .ite ?_ ?_
      · refine .ite h.post ?_
        exact .post (.modReq (.copyBus (.copyBus (.ite h.spendCredits h.spendCredits.spendCredits))))
      · refine .ite h.post (.finishOp ?_)
        refine h.copyRow.setFrame.dropGranules.setFrame.holdQueued.forwardHeld.redirectWaiters.writeEntry.unclaim.pushFrame
    · exact h.replyArrives

/-! ### The operations of Machine/Answers.lean -/

theorem cacheWalk (h : s.Canonical) {p : WalkPkt} {words : List Word} :
    (Machine.cacheWalk s p w n words).1.Canonical := by
  unfold Machine.cacheWalk
  dsimp only
  split
  · exact h
  · exact .ite_fst h.dropHandle (.ite h.cacheEntry h)

theorem walkReplied (h : s.Canonical) {p : WalkPkt} {x : WalkData} : (Machine.walkReplied s p x).Canonical := by
  unfold Machine.walkReplied
  split
  · exact h
  · dsimp only
    refine .ite (h.endWalk.foldl fun h => h.retranslate) ?_
    refine .ite (h.endWalk.foldl fun h => h.replyArrives) ?_
    split
    · exact h.endWalk.cacheRecord.foldl fun h => h.retranslate
    · exact h.endWalk.cacheWalk.foldl fun h => h.translateReq

theorem redirected (h : s.Canonical) : (Machine.redirected s id).Canonical := by
  unfold Machine.redirected
  split
  · exact h
  · exact h.dropEntry.translateReq

theorem waitCancelled (h : s.Canonical) : (Machine.waitCancelled s r).Canonical := by
  unfold Machine.waitCancelled
  split
  · exact h.dropReq.unpark.runCmds
  · exact h.replyArrives
  · exact h.replyArrives

theorem retried (h : s.Canonical) : (Machine.retried s id).Canonical := by
  unfold Machine.retried
  split
  · exact h
  · exact .ite h.modReq.post h.modReq

theorem backedOff (h : s.Canonical) : (Machine.backedOff s id).Canonical := by
  unfold Machine.backedOff
  split
  · exact h
  · refine .ite h ?_
    split
    · exact h.sendMsg
    · exact h.translateReq

theorem limitExpired (h : s.Canonical) : (Machine.limitExpired s id).Canonical := by
  unfold Machine.limitExpired
  split
  · exact h
  · exact .ite h (.ite h.modReq.sendCancelWait h.waitCancelled)

theorem cancelWaitArrives (h : s.Canonical) : (Machine.cancelWaitArrives s id core).Canonical := by
  unfold Machine.cancelWaitArrives
  split
  · split
    · exact h.clearWait
    · exact h
  · dsimp only
    split
    · exact h.clearWait.send
    · exact h.send

theorem cancelWaitAnswered (h : s.Canonical) {served : Bool} :
    (Machine.cancelWaitAnswered s id served).Canonical := by
  unfold Machine.cancelWaitAnswered
  split
  · exact h
  · exact .ite h.waitCancelled (.ite h (.ite h.sendCancelWait h.waitCancelled))

theorem majPhase2 (h : s.Canonical) {seq : Nat} {g : BitVec 512} : (Machine.majPhase2 s r seq g).Canonical :=
  h.modReq.foldl fun h => h.sendReplica

theorem majLoaded (h : s.Canonical) {members : List Nat} {p : Word × BitVec 512} :
    (Machine.majLoaded s r members p).Canonical :=
  h.replyArrives.foldl fun h => h.sendReplica

theorem majDecide (h : s.Canonical) : (Machine.majDecide s r).Canonical := by
  unfold Machine.majDecide
  extract_lets +onlyGivenNames l
  refine .ite ?_ (.ite (.ite h.replyArrives h) (.ite h.majLoaded h))
  refine .ite ?_ (.ite h.replyArrives h)
  extract_lets +onlyGivenNames l p
  refine .ite (.ite h.replyArrives h.majPhase2) ?_
  exact .ite h.majLoaded (.ite (.ite h.replyArrives h.majReads) (h.modReq.foldl fun h => h.sendReplica))

theorem majAnswered (h : s.Canonical) {p : MajPkt} {a : MajAns} : (Machine.majAnswered s p a).Canonical := by
  unfold Machine.majAnswered
  split
  · exact h
  · exact .ite h (.ite h.translateReq (.ite h.modReq.majDecide (.ite h h.modReq.majDecide)))

/-! ### The operations of Machine/Activate.lean -/

theorem rowOpened (h : s.Canonical) : (Machine.rowOpened s core k row).Canonical := by
  unfold Machine.rowOpened
  exact .refreshNow (.ite h.writeHeld.runCmds h.writeHeld)

theorem refreshEnd (h : s.Canonical) : (Machine.refreshEnd s core k).Canonical := by
  unfold Machine.refreshEnd
  split
  · exact h.modSub.rowOpened
  · exact h.modSub.kick
  · exact h

theorem rowActivation (h : s.Canonical) : (Machine.rowActivation s core k).Canonical := by
  unfold Machine.rowActivation
  split
  · split
    · exact .ite h.modSub.beginActivation h
    · exact h
  · split
    · exact h.modSub.modThr.rowOpened
    · exact h.modSub.rowOpened
    · exact h.modSub.serveNext
  · exact h

/-! ### The operations of Machine/Engine.lean -/

theorem touchRecord (h : s.Canonical) : (Machine.touchRecord s slot w).Canonical := by
  unfold Machine.touchRecord
  refine .ite h ?_
  dsimp only
  split
  · exact h.meetRecord.meetRecord
  · exact h.meetRecord

theorem touchEntries (h : s.Canonical) : (Machine.touchEntries s slot o subs).Canonical := by
  unfold Machine.touchEntries
  exact .ite h (h.foldl fun h => h.foldl fun h => h.touchWord)

theorem noteGranule (h : s.Canonical) {read : Bool} : (Machine.noteGranule s read a).Canonical := by
  unfold Machine.noteGranule
  split <;> exact h

theorem noteReplica (h : s.Canonical) {read : Bool} {p : MajPkt} : (Machine.noteReplica s read p).Canonical :=
  h.noteGranule.noteGranule

theorem majPut (h : s.Canonical) {e : List Word} {tag : Word} {data : BitVec 512} :
    (Machine.majPut s o e n g tag data).Canonical :=
  h.foldl fun h => .ite h.modStack h.noteReplica.replicaWrite

theorem majAnswers (h : s.Canonical) {e : List Word} : (Machine.majAnswers s o e n g).1.Canonical :=
  h.foldl_fst fun h => h.noteReplica.replicaRead

theorem majGet (h : s.Canonical) {e : List Word} : (Machine.majGet s o e n g).1.Canonical := by
  unfold Machine.majGet
  exact .ite_fst h.majAnswers h.majAnswers

theorem majLoad (h : s.Canonical) {e : List Word} : (Machine.majLoad s o e n g).1.Canonical := by
  unfold Machine.majLoad
  split
  · next e => exact h.majGet.of_fst e
  · next e => exact (h.majGet.of_fst e).majPut

theorem majStore (h : s.Canonical) {e : List Word} {x m : BitVec 512} :
    (Machine.majStore s o e n g writer x m).1.Canonical := by
  unfold Machine.majStore
  split
  · next e => exact h.majGet.of_fst e
  · next e =>
      have h := h.majGet.of_fst e
      exact .ite_fst h h.majPut

theorem putWords (h : s.Canonical) {l : List (Nat × Word × Word)} : (Machine.putWords s full l).Canonical := by
  unfold Machine.putWords
  refine h.foldl fun h => ?_
  extract_lets +onlyGivenNames s'
  have h' : s'.Canonical := .ite h.putWord (.update (Memory.wf_put h _ _))
  exact .ite h'.fillFE h'

theorem putFar (h : s.Canonical) {l : List (Nat × ObjPkt)} : (Machine.putFar s tile thr l).Canonical :=
  h.foldl fun h => .ite (.update h.leaveModule) h.diversion

theorem putGrans {l : List (Nat × BitVec 512 × BitVec 512)} (h : s.Canonical) :
    (Machine.putGrans slot o writer l s).1.Canonical := by
  induction l generalizing s with
  | nil => exact h
  | cons p l ih =>
    unfold Machine.putGrans
    split
    · exact h
    · split
      · next e => exact ih (h.majStore.of_fst e)
      · next e => exact h.majStore.of_fst e

theorem putElems (h : s.Canonical) {l : List Put} : (Machine.putElems s slot o full l).Canonical := by
  unfold Machine.putElems
  split
  · exact h
  · extract_lets +onlyGivenNames s1 ws s2
    have h1 : s1.Canonical := h.foldl fun h => h.noteGranule
    have h2 : s2.Canonical := h1.putWords
    exact .ite (h2.foldl fun h => h.clearReserved) h2

theorem sendFeed (h : s.Canonical) : (Machine.sendFeed s f).Canonical := h

theorem flush (h : s.Canonical) {w : Writes} :
    (Machine.flush s slot o subs tile thr writer full w).1.Canonical := by
  unfold Machine.flush
  extract_lets +onlyGivenNames s1 s2
  have h1 : s1.Canonical := h.touchEntries.putElems.putFar
  have h2 : s2.Canonical := by
    unfold s2
    refine h1.foldl fun h => ?_
    split
    · exact h.follow
    · exact h
  exact h2.putGrans

theorem openBytes (h : s.Canonical) : (Machine.openBytes s n).1.Canonical := h

theorem majBytes (h : s.Canonical) {e : List Word} : (Machine.majBytes s o e n).1.Canonical := by
  unfold Machine.majBytes
  refine h.foldl_fst fun h => ?_
  split
  · next e => exact h.majLoad.of_fst e
  · next e => exact (h.majLoad.of_fst e).openBytes

theorem subtileBytes (h : s.Canonical) : (Machine.subtileBytes s slot w n).1.Canonical := by
  unfold Machine.subtileBytes
  extract_lets +onlyGivenNames s1
  have h1 : s1.Canonical := h.touchRecord
  split
  · exact h1
  · refine .ite_fst h1 ?_
    extract_lets +onlyGivenNames o s2 unread
    have h2 : s2.Canonical := h1.touchEntries
    have hunread : unread.1.Canonical := by
      dsimp only [unread]
      exact h2.openBytes
    split
    · refine .ite_fst hunread ?_
      extract_lets +onlyGivenNames a s3
      have h3 : s3.Canonical := .ite h2 h2.touch
      exact h3
    · exact h2
    · exact h2.majBytes
    all_goals exact hunread

theorem putCopy (h : s.Canonical) {bad : List Nat} : (Machine.putCopy s a bs bad).Canonical := by
  unfold Machine.putCopy
  exact .update h.putBytes

/-! ### The operations of Machine/Launch.lean -/

theorem postFree (h : s.Canonical) : (Machine.postFree s e).Canonical := by
  unfold Machine.postFree
  exact .update h.post

theorem poke (h : s.Canonical) {part : BitVec 16} : (Machine.poke s part).Canonical := by
  unfold Machine.poke
  exact .ite h h.post

theorem touchPacket (h : s.Canonical) {q : QueueSt} : (Machine.touchPacket s q x).Canonical := by
  unfold Machine.touchPacket
  exact .ite h (h.foldl fun h => h.touchWord)

theorem dropLaunch (h : s.Canonical) : (Machine.dropLaunch s id).Canonical := h

theorem enterLaunch (h : s.Canonical) {p : Packet} {thr : Option Thr} :
    (Machine.enterLaunch s q x p key thr).Canonical := by
  unfold Machine.enterLaunch
  exact .ite h (.update h)

theorem enterRange (h : s.Canonical) : (Machine.enterRange s q x n).Canonical := by
  unfold Machine.enterRange
  refine h.foldl fun h => ?_
  dsimp only
  split <;> exact h.touchPacket.enterLaunch

theorem kickQueue (h : s.Canonical) : (Machine.kickQueue s q).Canonical := by
  unfold Machine.kickQueue
  exact .ite h.postFree h

theorem advance (h : s.Canonical) : (Machine.advance s q).Canonical := h.modQueue.kickQueue

theorem freezeQueue (h : s.Canonical) : (Machine.freezeQueue s q).Canonical := h.modQueue

theorem leaveCounter (h : s.Canonical) : (Machine.leaveCounter s q).Canonical := by
  unfold Machine.leaveCounter
  exact .modQueue (.update h)

theorem visit (h : s.Canonical) : (Machine.visit s t).Canonical := h.send

theorem visitThread (h : s.Canonical) : (Machine.visitThread s wide t).Canonical := by
  unfold Machine.visitThread
  exact .ite h.visit.visit h.visit

theorem freeRow (h : s.Canonical) : (Machine.freeRow s t wide).Canonical := by
  unfold Machine.freeRow
  exact .noteFree (.discardInbox (.setThr (.ite h.answerStep.zeroRow.zeroRow h.answerStep.zeroRow)))

theorem freeThread (h : s.Canonical) : (Machine.freeThread s wide t).Canonical := by
  unfold Machine.freeThread
  extract_lets +onlyGivenNames free one mine s1 s2
  have hfree : ∀ {s t}, s.Canonical → (free s t).Canonical := fun h => h.freeRow.visitThread
  have hone : ∀ {s t}, s.Canonical → (one s t).Canonical := fun h => hfree h.leaveReqs
  have h1 : s1.Canonical := h
  have h2 : s2.Canonical := h1.foldl fun h => hfree (hfree (hone h))
  exact hone h2

theorem notifyLaunch (h : s.Canonical) {status : Nat} : (Machine.notifyLaunch s l status).Canonical := by
  unfold Machine.notifyLaunch
  split
  · exact h
  · exact h.toInbox

theorem countCompletion (h : s.Canonical) {status : Nat} : (Machine.countCompletion s q status).Canonical :=
  h.modQueue

theorem tellLaunch (h : s.Canonical) : (Machine.tellLaunch s l).Canonical := by
  unfold Machine.tellLaunch
  extract_lets +onlyGivenNames q s1 s2
  have h1 : s1.Canonical := .ite (.ite h.notifyLaunch h) (.ite h.countCompletion h)
  have h2 : s2.Canonical := .ite h1 h1.dropLaunch
  exact h2.poke.kickQueue

theorem completeLaunch (h : s.Canonical) {status : Nat} {token decrement : Bool} :
    (Machine.completeLaunch s id status token decrement).Canonical := by
  unfold Machine.completeLaunch
  split
  · exact h
  · refine .ite h ?_
    extract_lets +onlyGivenNames err s1 _ s2 s3 s4 s5 steps decs
    have h1 : s1.Canonical := .ite (h.foldl fun h => h.freeThread) h
    have h2 : s2.Canonical := .update h1
    have h3 : s3.Canonical := h2.foldl fun h => .ite h h.answer
    have h4 : s4.Canonical := .ite h3.freezeQueue h3
    have h5 : s5.Canonical := h4.modLaunch
    exact .ite h5.tellLaunch (h5.foldl fun h => h.follow)

theorem launchCompleted (h : s.Canonical) : (Machine.launchCompleted s id).Canonical := by
  unfold Machine.launchCompleted
  split
  · exact h
  · exact .ite h.tellLaunch (.ite h.completeLaunch h)

theorem cancelRow (h : s.Canonical) : (Machine.cancelRow req s t).Canonical := h.send

theorem cancelStub (h : s.Canonical) : (Machine.cancelStub s t).Canonical := h.setTState.setFinfo.visit

theorem cancelLaunch (h : s.Canonical) : (Machine.cancelLaunch req s id).Canonical := by
  unfold Machine.cancelLaunch
  split
  · exact h
  · split
    · exact h
    · exact h.completeLaunch
    · exact h.completeLaunch
    · exact h.completeLaunch
    · extract_lets +onlyGivenNames s'
      have h' : s'.Canonical := h.modLaunch
      exact .ite h' (.ite (h'.foldl fun h => h.cancelStub).completeLaunch (h'.foldl fun h => h.cancelRow))

theorem cancelNamed (h : s.Canonical) {graph : Bool} : (Machine.cancelNamed req s n graph).Canonical :=
  h.modCounter.foldl fun h => h.cancelLaunch

theorem makeReady (h : s.Canonical) : (Machine.makeReady s id).Canonical := by
  unfold Machine.makeReady
  split
  · exact h
  · exact .poke (.update h.modLaunch)

theorem releaseOne (h : s.Canonical) {c : CounterSt} {w : Waiter} : (Machine.releaseOne s c w).Canonical := by
  unfold Machine.releaseOne
  split
  · exact .ite h.completeLaunch h.makeReady
  · exact h.modQueue.kickQueue
  · split
    · exact h
    · exact h.send

theorem releaseCounter (h : s.Canonical) : (Machine.releaseCounter s n).Canonical :=
  h.modCounter.foldl fun h => h.releaseOne

theorem decrementCounter (h : s.Canonical) {err : Bool} : (Machine.decrementCounter s n err).Canonical := by
  unfold Machine.decrementCounter
  exact .ite h.modCounter.releaseCounter h.modCounter

theorem setCounter (h : s.Canonical) {v : BitVec 32} : (Machine.setCounter s n v).Canonical := by
  unfold Machine.setCounter
  exact .ite h.modCounter.releaseCounter h.modCounter

theorem divertCounter (h : s.Canonical) : (Machine.divertCounter s r n).Canonical := h.diversion

theorem counterDecremented (h : s.Canonical) {err : Bool} :
    (Machine.counterDecremented s n err req).Canonical := by
  unfold Machine.counterDecremented
  refine .ite h.decrementCounter ?_
  split
  · exact h
  · exact .send (.ite h.decrementCounter h.divertCounter)

theorem counterWritten (h : s.Canonical) : (Machine.counterWritten s n v pf).Canonical := by
  unfold Machine.counterWritten
  exact .setCounter (.ite h.setCounter.modCounter h)

theorem rejectPlain (h : s.Canonical) : (Machine.rejectPlain s q).Canonical := h.freezeQueue.advance

theorem heldPacket (h : s.Canonical) {p : Packet} {act : State → State}
    (hact : ∀ {s}, s.Canonical → (act s).Canonical) :
    (Machine.heldPacket s q p act).Canonical := by
  unfold Machine.heldPacket
  dsimp only
  split
  · exact h
  · exact h.advance
  · exact hact h
  · exact .ite h.rejectPlain (.ite (hact h) (.ite h.modCounter.modQueue (.ite h.advance (hact h))))

theorem counterPacketActs (h : s.Canonical) : (Machine.counterPacketActs s q).Canonical := by
  unfold Machine.counterPacketActs
  exact .ite (h.touchPacket.heldPacket fun h => h.setCounter.advance) h.touchPacket.kickQueue

theorem writeFence (h : s.Canonical) {q : QueueSt} {p : Packet} : (Machine.writeFence s q p x).Canonical := by
  unfold Machine.writeFence
  split
  · exact h
  · exact .ite h h.flush

theorem fencePacketActs (h : s.Canonical) : (Machine.fencePacketActs s q).Canonical := by
  unfold Machine.fencePacketActs
  extract_lets +onlyGivenNames qs s' p
  have h' : s'.Canonical := h.touchPacket
  refine .ite (h'.heldPacket fun h => .ite h.modQueue (.ite h.modQueue.post h.writeFence.modQueue.advance)) ?_
  exact h'.kickQueue

theorem doorbellRings (h : s.Canonical) : (Machine.doorbellRings s q v).Canonical := by
  unfold Machine.doorbellRings
  exact .ite h h.enterRange.modQueue.kickQueue

/-! ### The operations of Machine/Place.lean -/

theorem dispatchLaunch (h : s.Canonical) : (Machine.dispatchLaunch s q l).Canonical := by
  unfold Machine.dispatchLaunch
  extract_lets +onlyGivenNames s' p c
  have h' : s'.Canonical := h.modLaunch
  refine .ite h'.dropLaunch.advance ?_
  extract_lets +onlyGivenNames s2 gone
  have h2 : s2.Canonical := h'.modQueue
  have hgone : ∀ {status token}, (gone status token).Canonical := h2.completeLaunch.kickQueue
  refine .ite hgone (.ite hgone ?_)
  refine .ite h'.makeReady.advance ?_
  exact .ite h'.modCounter.modLaunch.poke.advance (.ite hgone h'.makeReady.advance)

theorem dispatched (h : s.Canonical) : (Machine.dispatched s q).Canonical := by
  unfold Machine.dispatched
  dsimp only
  refine .ite h ?_
  split
  · exact .dispatchLaunch (.ite h.enterRange h)
  · exact .ite (.kickQueue (.ite h.enterRange h)) (.rejectPlain (.ite h.enterRange h))

theorem loanArrives (h : s.Canonical) {prio : Nat} : (Machine.loanArrives s part t prio).Canonical := by
  unfold Machine.loanArrives
  exact .ite (h.deferPair fun h => h.setC) h

theorem givePrio (h : s.Canonical) {prio : Nat} : (Machine.givePrio s l prio).Canonical := by
  unfold Machine.givePrio
  exact .ite h (.ite (h.modLaunch.foldl fun h => h.send) h.modLaunch)

theorem meetOwners (h : s.Canonical) {p : Packet} : (Machine.meetOwners s slot p).Canonical := by
  unfold Machine.meetOwners
  dsimp only
  refine .ite h ?_
  split
  · exact h.touchRecord.touchEntries
  · exact h.touchRecord

theorem tryPlace (h : s.Canonical) {part : BitVec 16} : (Machine.tryPlace s part).Canonical := by
  unfold Machine.tryPlace
  refine .ite h ?_
  split
  · dsimp only
    split
    · exact h.meetOwners.postFree
    · exact h.meetOwners.completeLaunch
    · exact .ite h.meetOwners.post h.meetOwners
  · exact h

theorem priorityLoaned (h : s.Canonical) {part : BitVec 16} : (Machine.priorityLoaned s part).Canonical :=
  (h.foldl fun h => h.givePrio).tryPlace

theorem reserved (h : s.Canonical) {rows : List Thr} : (Machine.reserved s id rows).Canonical := by
  unfold Machine.reserved
  split
  · exact h
  · exact .ite h.poke (.ite h.post (h.foldl fun h => h.noteFree))

theorem agentReports (h : s.Canonical) : (Machine.agentReports s tile).Canonical := h.modTile.poke

theorem placeThread (h : s.Canonical) {i : Nat} : (Machine.placeThread s slot l i t).Canonical := by
  unfold Machine.placeThread
  extract_lets +onlyGivenNames p wide s1 s2 copy a s3 b s4 s5 s6 s7 s8 s9 s10 s11 s12
  have h1 : s1.Canonical := h.zeroRow
  have h2 : s2.Canonical := .ite h1.zeroRow h1
  have hcopy : ∀ {s n at_ from_ len}, s.Canonical → (copy s n at_ from_ len).Canonical := by
    intro s n at_ from_ len h
    dsimp only [copy]
    split
    · next e => exact .of_fst e (.ite_fst h h.subtileBytes)
    · next e =>
        have h : State.Canonical _ := .of_fst e (.ite_fst h h.subtileBytes)
        exact h.putCopy
  have h3 : s3.Canonical := hcopy h2
  have h4 : s4.Canonical := .ite (hcopy (hcopy h3)) h3
  have h5 : s5.Canonical := h4.setS.setS.setS
  have h6 : s6.Canonical := h5.setC
  have h7 : s7.Canonical := h6.setC
  have h8 : s8.Canonical := h7.setLive
  have h9 : s9.Canonical := h8.setC
  have h10 : s10.Canonical := h9.setC
  have h11 : s11.Canonical := h10.setC
  have h12 : s12.Canonical := h11.setC.setC
  exact h12.setThr

theorem placeCode (h : s.Canonical) : (Machine.placeCode s core handle entry).Canonical := by
  unfold Machine.placeCode
  extract_lets +onlyGivenNames part s'
  have h' : s'.Canonical := .ite h h.fillCodeRow
  split
  · exact h'
  · exact h'.modCore

theorem releaseMsg (h : s.Canonical) {m : Msg} : (Machine.releaseMsg s m).Canonical := h.post

theorem placed (h : s.Canonical) {rows : List Thr} : (Machine.placed s id rows).Canonical := by
  unfold Machine.placed
  split
  · exact h
  · refine .ite h.poke ?_
    split
    · exact h
    · refine .ite (h.foldl fun h => h.noteFree) (.ite h.post ?_)
      extract_lets +onlyGivenNames p all cores s1 s2 s3 s4 s5 s6 s7
      have h1 : s1.Canonical := h.foldl fun h => h.wakeCore
      have h2 : s2.Canonical := h1.foldl fun h => h.placeThread
      have h3 : s3.Canonical := .ite (h2.foldl fun h => h.makePair) h2
      have h4 : s4.Canonical := h3.foldl fun h => h.visit
      have h5 : s5.Canonical := h4.foldl fun h => h.placeCode.noteFree
      have h6 : s6.Canonical := h5.modLaunch
      have h7 : s7.Canonical := .update h6
      exact (h7.foldl fun h => h.releaseMsg).poke

/-! ### The operations of Machine/Pairs.lean -/

theorem checkpointed (h : s.Canonical) : (Machine.checkpointed s t).Canonical := by
  unfold Machine.checkpointed
  split
  · exact h
  · exact .ite h (.post (.send (.ite h.touchWord.sideTrap h.touchWord)))

theorem stopTimeouts (h : s.Canonical) {p : PairSt} : (Machine.stopTimeouts s p).Canonical := h.unpost.unpost

theorem decidePair (h : s.Canonical) {p : PairSt} : (Machine.decidePair s p).Canonical := by
  unfold Machine.decidePair
  extract_lets +onlyGivenNames s' copies
  have h' : s'.Canonical := h.stopTimeouts
  have hcopies : ∀ {commit}, (copies commit).Canonical := h'.modPair.post.post
  exact .ite hcopies (.ite h'.losePair hcopies)

theorem printArrives (h : s.Canonical) {fp : Word} : (Machine.printArrives s t fp).Canonical := by
  unfold Machine.printArrives
  split
  · exact h
  · dsimp only
    split
    · exact .ite h.modPair.decidePair h.modPair
    · exact h.modPair

theorem printLate (h : s.Canonical) : (Machine.printLate s t).Canonical := by
  unfold Machine.printLate
  split
  · exact h
  · exact .ite h h.stopTimeouts.losePair

theorem sendHeld (h : s.Canonical) : (Machine.sendHeld s r).Canonical := by
  unfold Machine.sendHeld
  dsimp only
  split
  · exact h.addReq.sendRow
  · exact h.addReq.sendRow
  · exact h.addReq.sendMsg
  · exact .ite h.addReq.sendAccess h.addReq.majReads

theorem dissolve (h : s.Canonical) {p : PairSt} : (Machine.dissolve s p).Canonical := by
  unfold Machine.dissolve
  exact .setC (.foldl (.update h.leaveReqs) fun h => h.freeRow)

theorem undoFollower (h : s.Canonical) {p : PairSt} : (Machine.undoFollower s p).Canonical := by
  unfold Machine.undoFollower
  split
  · exact .ite h.dropReq.unpark h
  · exact h

theorem committed (h : s.Canonical) {p : PairSt} : (Machine.committed s p).Canonical := by
  unfold Machine.committed
  extract_lets +onlyGivenNames sides s1 s2 s3 w s4 s5 s6
  have h1 : s1.Canonical := h.modPair
  have h2 : s2.Canonical := h1.foldl fun h => .ite h.setC h.setC.setC
  have h3 : s3.Canonical := h2.undoFollower
  have h4 : s4.Canonical := by
    unfold s4
    split
    · exact h3.applyTrap.applyTrap
    · exact h3
  have h5 : s5.Canonical := .ite h4.setTState.setTState.threadEnded h4
  have h6 : s6.Canonical := by
    unfold s6
    split
    · exact h5.dissolve.replyArrives
    · exact h5
  exact h6.foldl fun h => h.post

theorem sendEffects {l : List Req} (h : s.Canonical) : (Machine.sendEffects leader l s).Canonical := by
  induction l generalizing s with
  | nil => exact h.modPair
  | cons r l ih => exact .ite (ih h.sendHeld) h.sendHeld.modPair

theorem sendOn (h : s.Canonical) : (Machine.sendOn s leader).Canonical := by
  unfold Machine.sendOn
  split
  · exact h
  · refine .ite h ?_
    dsimp only
    split
    · exact .ite h.sendEffects.committed h.sendEffects
    · exact h.sendEffects

theorem rolledBack (h : s.Canonical) {p : PairSt} : (Machine.rolledBack s p).Canonical := by
  unfold Machine.rolledBack
  extract_lets +onlyGivenNames back s1 s2
  have hback : ∀ {s t}, s.Canonical → (back s t).Canonical := by
    intro s t h
    refine .modThr ?_
    split
    · exact h.withdrawReq
    · exact h
  have h1 : s1.Canonical := hback (hback h)
  have h2 : s2.Canonical := h1.modPair
  exact h2.foldl fun h => h.post

theorem touchRow (h : s.Canonical) : (Machine.touchRow s t).Canonical := by
  unfold Machine.touchRow
  exact .ite h h.touch

theorem shadowCopied (h : s.Canonical) {commit : Bool} : (Machine.shadowCopied s t commit).Canonical := by
  unfold Machine.shadowCopied
  split
  · exact h
  · refine .ite h (.ite h.post ?_)
    extract_lets +onlyGivenNames s1 wide sh second s2 bad
    have h1 : s1.Canonical := h.spendCredits
    have h2 : s2.Canonical := .ite h1 (.ite h1.touchRow.touchRow h1.touchRow)
    refine .ite h2.losePair ?_
    extract_lets +onlyGivenNames s3 s4
    have h3 : s3.Canonical := .ite h2.copyThread h2.copyThread
    have h4 : s4.Canonical := h3.modPair
    refine .ite h4 (.ite h4.modPair.sendOn ?_)
    split
    · exact h4.rolledBack
    · exact h4

theorem lookPairs (h : s.Canonical) : (Machine.lookPairs s core).Canonical := by
  unfold Machine.lookPairs
  exact h.foldl fun h => .ite (h.foldl fun h => .ite h.post h).sendOn (h.foldl fun h => .ite h.post h)

theorem answerSteps (h : s.Canonical) : (Machine.answerSteps s core).Canonical := by
  unfold Machine.answerSteps
  refine h.foldl fun h => ?_
  split
  · exact .ite h h.modThr.commandDone
  · exact h

theorem coreEnd (h : s.Canonical) : (Machine.coreEnd s core).Canonical := by
  unfold Machine.coreEnd
  exact .ite h.treadle.answerSteps h.treadle.answerSteps.lookPairs

/-! ### The operations of Machine/Swap.lean -/

theorem endSwap (h : s.Canonical) {status : Nat} : (Machine.endSwap s status).Canonical := h

theorem copySegment (h : s.Canonical) {own : Bool} : (Machine.copySegment s own src dst k).Canonical :=
  h.touch.putCopy

theorem stopForSwap (h : s.Canonical) : (Machine.stopForSwap s t).1.Canonical := by
  unfold Machine.stopForSwap
  dsimp only
  refine .ite_fst h ?_
  split
  · exact .ite_fst (.ite_fst h.writeHeld.settle h.writeHeld) h.writeHeld.callOutside
  · exact .ite_fst h.writeHeld.settle h.writeHeld

theorem saveThread (h : s.Canonical) {i : Nat} : (Machine.saveThread s slot l i t).Canonical := by
  unfold Machine.saveThread
  extract_lets +onlyGivenNames wide s1 s2 st kept ks out s3 s4 stub
  have h1 : s1.Canonical := h.touchWord
  have h2 : s2.Canonical := .ite h1.ownPoison h1
  have hout : ∀ {s own src n}, s.Canonical → (out s own src n).Canonical := by
    intro s own src n h
    dsimp only [out]
    split
    · exact (h.foldl fun h => h.copySegment).visit
    · exact h
  have h3 : s3.Canonical := hout h2
  have h4 : s4.Canonical := .ite (hout h3) h3
  have hstub : ∀ {s t}, s.Canonical → (stub s t).Canonical :=
    fun h => .visitThread (.modThr (.setC (.setC (.setC (.zeroRow (.ite h.zeroRow h))))))
  split
  · exact hstub (hstub h4)
  · exact hstub h4

theorem swapOutThreads (h : s.Canonical) : (Machine.swapOutThreads s slot l).Canonical := by
  unfold Machine.swapOutThreads
  extract_lets +onlyGivenNames s'
  have h' : s'.Canonical := by
    unfold s'
    refine h.foldl fun h => .ite h ?_
    split
    · next e => exact (h.stopForSwap.of_fst e).saveThread
    · next e => exact h.stopForSwap.of_fst e
  exact .ite (.ite h'.modLaunch.endSwap.cancelLaunch h'.modLaunch.endSwap) h'.post

theorem swapsOut (h : s.Canonical) : (Machine.swapsOut s).Canonical := by
  unfold Machine.swapsOut
  refine .ite h ?_
  split
  · exact h.endSwap
  · split
    · exact h.endSwap
    · exact .ite h.endSwap (.ite h.swapOutThreads (.ite h.endSwap h.modLaunch.swapOutThreads))

theorem restoreRow (h : s.Canonical) {ks : List Nat} : (Machine.restoreRow s src dst ks).Canonical :=
  (h.foldl fun h => .ite h.copySegment (.putBytes (.update h))).visit.visit

theorem restoreThread (h : s.Canonical) {i : Nat} : (Machine.restoreThread s slot l i t).Canonical := by
  unfold Machine.restoreThread
  dsimp only
  split
  · exact h
  · split
    · refine .restPair (.setC ?_)
      refine .setC (.ite ?_ h.restoreRow)
      split
      · exact h.restoreRow.restoreRow
      · exact h.restoreRow
    · refine .setC (.setC ?_)
      refine .ite ?_ h.restoreRow
      split
      · exact h.restoreRow.restoreRow
      · exact h.restoreRow

theorem swapsIn (h : s.Canonical) : (Machine.swapsIn s).Canonical := by
  unfold Machine.swapsIn
  refine .ite h ?_
  split
  · exact h.endSwap
  · split
    · exact h.endSwap
    · refine .ite h.endSwap ?_
      extract_lets +onlyGivenNames s1 s2 s3
      have h1 : s1.Canonical := h.foldl fun h => h.wakeCore
      have h2 : s2.Canonical := h1.foldl fun h => h.restoreThread
      have h3 : s3.Canonical := h2.modLaunch.endSwap
      exact .ite h3.cancelLaunch h3

/-! ### The operations of Machine/Jobs.lean -/

theorem modJobs (h : s.Canonical) {q : QSel} {f : List Job → List Job} :
    (Machine.modJobs s tile q f).Canonical :=
  h.modTile

theorem modJob (h : s.Canonical) {q : QSel} {f : Job → Job} : (Machine.modJob s tile q entry f).Canonical :=
  h.modJobs

theorem runEngine (h : s.Canonical) {q : QSel} : (Machine.runEngine s tile q).Canonical := by
  unfold Machine.runEngine
  split
  · exact .ite h (.update h.post)
  · exact h

theorem acceptJob (h : s.Canonical) {e : Nat} : (Machine.acceptJob s tile r e).Canonical := by
  unfold Machine.acceptJob
  extract_lets +onlyGivenNames q j s1 s2 s3
  have h1 : s1.Canonical := .modJobs (.update h)
  have h2 : s2.Canonical := h1.modReq
  have h3 : s3.Canonical := .ite (.ite h2.setC h2) (.ite h2.replyArrives h2.answer)
  exact h3.runEngine

theorem submitTo (h : s.Canonical) : (Machine.submitTo s tile id).Canonical := by
  unfold Machine.submitTo
  split
  · exact h
  · dsimp only
    split
    · exact h.acceptJob
    · exact h.modReq.modTile

theorem admitFull (h : s.Canonical) {q : QSel} : (Machine.admitFull s tile q).Canonical := by
  unfold Machine.admitFull
  dsimp only
  split
  · exact h.modTile.acceptJob
  · exact h

theorem freeEntryOf (h : s.Canonical) {q : QSel} : (Machine.freeEntryOf s tile q entry).Canonical :=
  h.modJobs.admitFull

theorem withBlock (h : s.Canonical) {rs : List SReg} {a : SReg} {k : State → Nat → State}
    (hk : ∀ {s x}, s.Canonical → (k s x).Canonical) :
    (Machine.withBlock s rs a n k).Canonical :=
  h.withChecked fun h => hk h

theorem blockCommand (h : s.Canonical) {a : SReg} {start : State → Nat → State}
    (hstart : ∀ {s x}, s.Canonical → (start s x).Canonical) :
    (Machine.blockCommand i a n kind cause start s).Canonical :=
  h.withBlock fun h => h.withRegs fun h => h.beyond hstart

theorem jobEntry (h : s.Canonical) : (Machine.jobEntry s tile thr key ref status).Canonical := h.toInbox

theorem deliverJob (h : s.Canonical) {q : QSel} : (Machine.deliverJob s tile q j status).Canonical := by
  unfold Machine.deliverJob
  refine .ite h.modJob ?_
  extract_lets +onlyGivenNames s1
  have h1 : s1.Canonical := h.modJob
  split
  next inbox ctr _ =>
    extract_lets s2 n s3 s4 s5 s6
    have h2 : s2.Canonical := .ite h1.jobEntry h1
    have h3 : s3.Canonical := .ite h2.send h2
    have h4 : s4.Canonical := by
      unfold s4
      refine .ite ?_ h3
      split
      · exact h3.replyArrives
      · exact h3
    have h5 : s5.Canonical := h4.foldl fun h => h.answer
    have h6 : s6.Canonical := .ite h5.freeEntryOf h5
    exact h6.runEngine

theorem sendGranules (h : s.Canonical) {no : Nat} {c : FeedCls} {l : List Feed} :
    (Machine.sendGranules s tile no c l).Canonical :=
  h.foldl fun h => h.send

theorem sendFeeds (h : s.Canonical) {q : QSel} {l : List Feed} : (Machine.sendFeeds s tile q j l).Canonical :=
  h.modJob.sendGranules

theorem again (h : s.Canonical) : (Machine.again s tile j).Canonical := h.post

theorem awaitFar (h : s.Canonical) {q : QSel} : (Machine.awaitFar s tile q j).Canonical := by
  unfold Machine.awaitFar
  exact .send (.modJob (.addReq (.update h)))

theorem actJob (h : s.Canonical) {q : QSel} {run : State → Job → State}
    (hrun : ∀ {s x}, s.Canonical → (run s x).Canonical) :
    (Machine.actJob s tile q j run).Canonical := by
  unfold Machine.actJob
  extract_lets +onlyGivenNames seq s1 s2 a s3 s4
  have h1 : s1.Canonical := h.modJob
  have h2 : s2.Canonical := hrun (.update h1)
  have h3 : s3.Canonical := .update h2
  have h4 : s4.Canonical := .ite h3.awaitFar h3
  refine .ite h4.sendFeeds (.ite ?_ h4)
  split
  · exact h4.again
  · exact h4

theorem runOrFeed (h : s.Canonical) {q : QSel} {run : State → Job → State}
    (hrun : ∀ {s x}, s.Canonical → (run s x).Canonical) :
    (Machine.runOrFeed s tile q j run).Canonical := by
  unfold Machine.runOrFeed
  extract_lets +onlyGivenNames s'
  have h' : s'.Canonical := h.foldl fun h => h.touchRecord
  exact .ite (h'.actJob hrun) (.ite (.update (hrun (.update h'))) (.ite (h'.actJob hrun) h'.sendFeeds))

theorem settleJob (h : s.Canonical) {q : QSel} : (Machine.settleJob s tile q j status).Canonical := by
  unfold Machine.settleJob
  exact .ite h (.ite h.again h.deliverJob)

theorem withJob (h : s.Canonical) {q : QSel} {mine : Instr → Bool} {stopped : State → Job → Word → State}
    {run : State → Job → State} (hstopped : ∀ {s x x2}, s.Canonical → (stopped s x x2).Canonical)
    (hrun : ∀ {s x}, s.Canonical → (run s x).Canonical) :
    (Machine.withJob s tile q mine stopped run).Canonical := by
  unfold Machine.withJob
  split
  · exact h
  · refine .ite h (.ite (hstopped h) ?_)
    split
    · exact h.settleJob
    · exact .ite (hstopped h) (h.runOrFeed hrun)

theorem takeJob (h : s.Canonical) {q : QSel} : (Machine.takeJob s tile q j).Canonical := by
  unfold Machine.takeJob
  exact .ite h.freeEntryOf h

theorem takeAwaited (h : s.Canonical) : (Machine.takeAwaited s id).Canonical := by
  unfold Machine.takeAwaited
  split
  · exact h.takeJob
  · exact h

theorem majPage {e : List Word} {l : List Nat} {p : Page} (h : s.Canonical) :
    (Machine.majPage s o e sub l p).1.Canonical := by
  induction l generalizing s p with
  | nil => exact h
  | cons g l ih =>
    unfold Machine.majPage
    split
    · next e => exact ih (h.majLoad.of_fst e)
    · next e => exact ih (h.majLoad.of_fst e)

theorem farPage (h : s.Canonical) {w : Doer} : (Machine.farPage s w dev core row n).1.Canonical := by
  unfold Machine.farPage
  exact .ite_fst (.update h) (h.foldl fun h => h.diversion)

theorem noteSpot (h : s.Canonical) {x : Spot} : (Machine.noteSpot s hs x).Canonical := by
  unfold Machine.noteSpot
  split
  · exact h
  · exact h
  · split
    · exact .ite h.noteGranule h
    · exact h

theorem readPage (h : s.Canonical) {w : Doer} {k : Home} {offs : List Nat} :
    (Machine.readPage s w o k sub offs).1.Canonical := by
  unfold Machine.readPage
  dsimp only
  split
  · exact h
  · exact h
  · exact h
  · exact h
  · exact h
  · exact h.majPage
  · exact .ite_fst h.farPage (.ite_fst h (.ite h (h.foldl fun h => h.touchWord)))

theorem readHomes {w : Doer} {l : List Spot} {ps : Pages} (h : s.Canonical) :
    (Machine.readHomes s w o l hs ps).1.Canonical := by
  induction hs generalizing s ps with
  | nil => exact h
  | cons x hs ih => exact ih h.readPage

theorem readPages (h : s.Canonical) {w : Doer} {l : List Spot} :
    (Machine.readPages s w o l hs).1.Canonical := by
  unfold Machine.readPages
  exact .readHomes (.ite (h.touchEntries.foldl fun h => h.noteSpot) h.touchEntries)

theorem readingPages (h : s.Canonical) {r : Reading} : (Machine.Reading.pages s r).1.Canonical := h.readPages

/-! ### The operations of Machine/Matrix.lean -/

theorem completeMat (h : s.Canonical) {nan ovf : Bool} :
    (Machine.completeMat s tile j status nan ovf).Canonical :=
  h.setTile.deliverJob

theorem readOperands {l : List (Nat × Reading)} (h : s.Canonical) : (Machine.readOperands s l).1.Canonical := by
  induction l generalizing s with
  | nil => exact h
  | cons x l ih => exact ih h.readingPages

theorem stopMat (h : s.Canonical) : (Machine.stopMat s tile j status).Canonical := h.modTile.completeMat

theorem failMat (h : s.Canonical) {st : Word} : (Machine.failMat s tile j st).Canonical := by
  unfold Machine.failMat
  exact .ite h.stopMat h.completeMat

theorem zeroBank (h : s.Canonical) {b : Nat} : (Machine.zeroBank s tile b).Canonical := h.modTile

theorem mmulRun (h : s.Canonical) : (Machine.mmulRun s tile j).Canonical := by
  unfold Machine.mmulRun
  extract_lets +onlyGivenNames bank
  split
  · exact h.completeMat
  · refine .ite h.again ?_
    split
    · exact h.failMat
    · extract_lets +onlyGivenNames x
      have hx : x.1.Canonical := h.readOperands
      refine .ite hx.completeMat (.ite hx.completeMat ?_)
      split
      · exact hx.failMat
      · exact .completeMat (.modTile (.ite hx (.update hx)))

theorem loadB (h : s.Canonical) {bf f : Nat} {live : List Bool} :
    (Machine.loadB s tile j bf f wide live).Canonical := by
  unfold Machine.loadB
  dsimp only
  split
  · exact h.completeMat
  · refine .ite h.again ?_
    split
    · exact h.failMat
    · split
      · exact h.readOperands.failMat
      · exact h.readOperands.modTile.completeMat

theorem mldbRun (h : s.Canonical) : (Machine.mldbRun s tile j).Canonical := by
  unfold Machine.mldbRun
  dsimp only
  refine .ite h.completeMat ?_
  split
  · exact h.completeMat
  · refine .ite h.completeMat (.ite (.ite h.loadB h.completeMat) ?_)
    split
    · exact h.completeMat
    · refine .ite h.again ?_
      split
      · exact h.failMat
      · split
        · exact h.readOperands.failMat
        · exact .ite h.readOperands.loadB h.readOperands.completeMat

theorem moutRun (h : s.Canonical) : (Machine.moutRun s tile j).Canonical := by
  unfold Machine.moutRun
  dsimp only
  refine .ite h.completeMat ?_
  split
  · exact h.completeMat
  · split
    · exact h.completeMat
    · exact .ite h.completeMat (.ite h.again h.flush.completeMat)

theorem mzeroRun (h : s.Canonical) : (Machine.mzeroRun s tile j).Canonical := by
  unfold Machine.mzeroRun
  exact .ite h.completeMat (.completeMat (.ite h.modTile h.zeroBank))

theorem mtestRun (h : s.Canonical) : (Machine.mtestRun s tile j).Canonical := h.setTile.deliverJob

theorem toMatrix (h : s.Canonical) : (Machine.toMatrix s id).Canonical := by
  unfold Machine.toMatrix
  split
  · exact h.submitTo
  · exact h

theorem matrixWait (h : s.Canonical) {a : SReg} : (Machine.matrixWait i a cause s).Canonical := by
  unfold Machine.matrixWait
  exact .ite h.trapNow (h.blockCommand fun h => h.toMatrix)

theorem regCommand (h : s.Canonical) {start : State → Nat → State}
    (hstart : ∀ {s x}, s.Canonical → (start s x).Canonical) :
    (Machine.regCommand i regs cause start s).Canonical :=
  h.withRegs fun h => h.beyond hstart

theorem readStat (h : s.Canonical) : (Machine.readStat s id).Canonical := by
  unfold Machine.readStat
  split
  · exact h.replyArrives
  · exact h

/-! ### The operations of Machine/Copy.lean -/

theorem endCopy (h : s.Canonical) {landed : Nat} {under : Nat} :
    (Machine.endCopy s tile j landed status under).Canonical := by
  unfold Machine.endCopy
  exact .ite h.deliverJob (.ite h.modJob h.modJob.post)

theorem runMoves (h : s.Canonical) {so do_ : Opd} {sOper dOper : Nat} {blocks : Moves} :
    (Machine.runMoves s tile j so do_ sOper dOper writer blocks).1.Canonical := by
  unfold Machine.runMoves
  dsimp only
  split <;> exact h.readPages.flush

theorem copyRun (h : s.Canonical) : (Machine.copyRun s tile j).Canonical := by
  unfold Machine.copyRun
  dsimp only
  refine .ite h.deliverJob ?_
  split
  · exact h.deliverJob
  · exact .ite h.again h.runMoves.endCopy

theorem stopCopy (h : s.Canonical) : (Machine.stopCopy s tile j status).Canonical := h.deliverJob

theorem cpyxRun (h : s.Canonical) : (Machine.cpyxRun s tile j).Canonical := by
  unfold Machine.cpyxRun
  dsimp only
  refine .ite h.deliverJob ?_
  split
  · exact h.deliverJob
  · exact .ite h.again h.runMoves.endCopy

theorem dropAll (h : s.Canonical) {wrapped : Bool} : (Machine.dropAll s slot j w wrapped).1.Canonical := by
  unfold Machine.dropAll
  exact .ite_fst h.addReq.startDrop h

theorem swapFrame (h : s.Canonical) {d : Opd} {p : Nat} {bytes : List Byte} :
    (Machine.swapFrame s slot j d sub a p bytes).1.Canonical := by
  unfold Machine.swapFrame
  extract_lets +onlyGivenNames w0 f g key t s1 s2 s3 s4 s5
  have h1 : s1.Canonical := h.foldl fun h => h.noteGranule
  have h2 : s2.Canonical := h1.zeroRow.dropGranules.putFull
  have h3 : s3.Canonical := h2.admitPosted.vacateFrame
  have h4 : s4.Canonical := h3.setFrame.takeFrame
  have h5 : s5.Canonical := h4.writeEntry
  exact h5.pushFrame.dropAll

theorem cpycRun (h : s.Canonical) : (Machine.cpycRun s tile j).Canonical := by
  unfold Machine.cpycRun
  dsimp only
  refine .ite h.deliverJob ?_
  split
  · exact h.deliverJob
  · refine .ite h.deliverJob (.ite h.deliverJob ?_)
    split
    · exact h.deliverJob
    · split
      · exact h.deliverJob
      · exact h.deliverJob
      · refine .ite h.again ?_
        split
        · exact h.touchEntries.deliverJob
        · exact h.touchEntries.deliverJob
        · split
          · exact h.touchEntries.deliverJob
          · next e =>
            have h : State.Canonical _ := .of_fst e (.ite_fst h.touchEntries.popFrame h.touchEntries)
            split
            · exact h.readPages.pushFrame.deliverJob
            · exact .ite h.readPages.pushFrame.deliverJob h.readPages.swapFrame.endCopy
        · exact h.touchEntries.deliverJob

theorem putPointer (h : s.Canonical) {v : Nat} : (Machine.putPointer s j w v).1.Canonical :=
  h.addReq.startAccess

theorem pointerStep (h : s.Canonical) : (Machine.pointerStep s tile j).Canonical := by
  unfold Machine.pointerStep
  dsimp only
  refine .ite h.again ?_
  split
  · split
    · exact h.deliverJob
    · exact h.putPointer.modJob.post
  · exact h.deliverJob
  · exact h.deliverJob

theorem toStreamer (h : s.Canonical) : (Machine.toStreamer s id).Canonical := by
  unfold Machine.toStreamer
  split
  · exact h.submitTo
  · exact h

/-! ### The operations of Machine/Gather.lean -/

theorem readList (h : s.Canonical) : (Machine.readList s tile j).1.Canonical := by
  unfold Machine.readList
  dsimp only
  split
  · exact h
  · refine .ite_fst h ?_
    split
    · exact h
    · split <;> exact h.readingPages

theorem gatherPlan (h : s.Canonical) {oCls pCls oOper pOper : Nat} {oMaj : Bool} {pOk oOk : Opd → Bool}
    {pairOk : Opd → Opd → Bool} :
    (Machine.gatherPlan s tile j oCls pCls oOper pOper oMaj pOk oOk pairOk).1.Canonical := by
  unfold Machine.gatherPlan
  dsimp only
  refine .ite_fst h ?_
  split
  · exact h
  · split
    · refine .ite_fst h (.ite_fst h ?_)
      split
      · next e => exact h.readList.of_fst e
      · next e => exact h.readList.of_fst e
      · next e =>
          have h := h.readList.of_fst e
          split
          · exact h
          · exact .ite_fst h h
    · exact h
    · exact h

theorem endGather (h : s.Canonical) {w : Option Word} : (Machine.endGather s tile j w).Canonical := by
  unfold Machine.endGather
  split
  · exact h.deliverJob
  · exact h.again

theorem gathRun (h : s.Canonical) : (Machine.gathRun s tile j).Canonical := by
  unfold Machine.gathRun
  split
  · next e => exact (h.gatherPlan.of_fst e).endGather
  · next e =>
      have h := h.gatherPlan.of_fst e
      exact .ite h.again h.runMoves.deliverJob

theorem scatRun (h : s.Canonical) : (Machine.scatRun s tile j).Canonical := by
  unfold Machine.scatRun
  split
  · next e => exact (h.gatherPlan.of_fst e).endGather
  · next e =>
      have h := h.gatherPlan.of_fst e
      exact .ite h.again h.runMoves.deliverJob

theorem addAll {g : Gathered} {oh ph : List (Nat × Home)} {pages : Pages} {l : List (Spot × Spot)} {i : Nat}
    (h : s.Canonical) :
    (Machine.addAll tile slot thr g oh ph pages l i s).1.Canonical := by
  induction l generalizing s i with
  | nil => exact h
  | cons x l ih =>
    unfold Machine.addAll
    split
    · exact h
    · dsimp only
      split
      · exact ih h
      · exact ih h
      · split
        · exact ih (.ite h.putFar h.sendFeed)
        · exact ih h

theorem scataddRun (h : s.Canonical) : (Machine.scataddRun s tile j).Canonical := by
  unfold Machine.scataddRun
  dsimp only
  split
  · next e => exact (h.gatherPlan.of_fst e).endGather
  · next e =>
      have h := h.gatherPlan.of_fst e
      exact .ite h.again h.touchEntries.readPages.addAll.deliverJob

theorem toGather (h : s.Canonical) : (Machine.toGather s id).Canonical := by
  unfold Machine.toGather
  split
  · exact h.submitTo
  · exact h

/-! ### The operations of Machine/Sequencer.lean -/

theorem applyStep (h : s.Canonical) {k : SeqSt} : (Machine.applyStep s core k).1.Canonical := by
  unfold Machine.applyStep
  extract_lets +onlyGivenNames b l roles row reads s'
  have h' : s'.Canonical := h.foldl fun h => h.touch
  split
  · exact h'
  · extract_lets +onlyGivenNames bufs out put s2 s3
    have hput : ∀ {s row x}, s.Canonical → (put s row x).Canonical := fun h => h.dropGranules.putFull
    have h2 : s2.Canonical := h'.foldl fun h => hput h
    have h3 : s3.Canonical := .ite (h2.foldl fun h => hput h) h2
    exact h3

theorem modSeq (h : s.Canonical) {f : SeqSt → SeqSt} : (Machine.modSeq s core f).Canonical := h.modCore

theorem stepIn (h : s.Canonical) {d : Nat} : (Machine.stepIn s core d).Canonical := h.unpost.post

theorem deliverSeq (h : s.Canonical) {k : SeqSt} : (Machine.deliverSeq s core k status).Canonical := by
  unfold Machine.deliverSeq
  refine .ite h.jobEntry ?_
  split
  · exact h.replyArrives
  · exact h.modCore

theorem acceptSeq (h : s.Canonical) : (Machine.acceptSeq s core r).Canonical := by
  unfold Machine.acceptSeq
  dsimp only
  split
  · exact h.replyArrives.deliverSeq
  · exact h.modCore.replyArrives.stepIn

theorem nextSeq {l : List Nat} (h : s.Canonical) : (Machine.nextSeq s core l).Canonical := by
  induction l generalizing s with
  | nil => exact h.modCore
  | cons i l ih =>
    unfold Machine.nextSeq
    split
    · exact ih h
    · exact .ite h.modCore.acceptSeq (ih h.modCore.acceptSeq)

theorem endSeq (h : s.Canonical) {k : SeqSt} : (Machine.endSeq s core k status).Canonical := by
  unfold Machine.endSeq
  extract_lets +onlyGivenNames subs s1 s2 s3
  have h1 : s1.Canonical := h.modCore
  have h2 : s2.Canonical := by
    unfold s2
    refine h1.foldl fun h => ?_
    split
    · exact h.modSub.kick
    · exact h
  have h3 : s3.Canonical := h2.deliverSeq
  exact h3.nextSeq

theorem takeSubs (h : s.Canonical) : (Machine.takeSubs s core subs).1.Canonical := by
  unfold Machine.takeSubs
  refine h.foldl_fst fun h => ?_
  dsimp only
  split
  · exact h
  · exact h.modSub
  · exact h.modSub
  · exact .ite h.endYield.beginClose h
  all_goals exact h

theorem spillRows (h : s.Canonical) {k : SeqSt} : (Machine.spillRows s core k).Canonical := by
  unfold Machine.spillRows
  exact .modSeq (.putFull (.dropGranules (.dropGranules (.update h))))

theorem beginService (h : s.Canonical) {k : SeqSt} : (Machine.beginService s core k).Canonical :=
  h.spendCredits.spillRows.modSeq.post

theorem beginStop (h : s.Canonical) {k : SeqSt} : (Machine.beginStop s core k).Canonical :=
  h.spendCredits.spillRows.modSeq.stepIn

theorem atStep (h : s.Canonical) {k : SeqSt} {looked : Bool} : (Machine.atStep s core k looked).Canonical := by
  unfold Machine.atStep
  dsimp only
  refine .ite h.endSeq (.ite h.endSeq ?_)
  refine .ite h.endSeq ?_
  split
  · exact h.refreshErrors.modSub.modSeq.stepIn
  · refine .ite h.beginService ?_
    exact .ite (.ite h.beginStop h.stepIn) (.ite h.stepIn h.spendCredits.putBus.modSeq.stepIn)

theorem rowStep (h : s.Canonical) : (Machine.rowStep s core).Canonical := by
  unfold Machine.rowStep
  split
  · exact h
  · refine .ite h ?_
    split
    · exact .ite h.endSeq (.ite h.takeSubs.modSeq.atStep h.takeSubs.stepIn)
    · exact h.atStep
    · split
      · next e => exact (h.applyStep.of_fst e).endSeq
      · next e => exact (h.applyStep.of_fst e).modSeq.atStep
    · exact h
    · exact h.modCore.endSeq

theorem serviceInterval (h : s.Canonical) : (Machine.serviceInterval s core).Canonical := by
  unfold Machine.serviceInterval
  split
  · exact h
  · split
    · refine .ite h ?_
      dsimp only
      split
      · exact .ite h.post (.post (.modSeq (.applyIn (.raiseBus (.modCore (.ite h h.spendCredits))))))
      · exact .ite h.post h.spendCredits.modSeq.stepIn
    all_goals exact h

theorem toSequencer (h : s.Canonical) : (Machine.toSequencer s id).Canonical := by
  unfold Machine.toSequencer
  split
  · exact h
  · exact .ite h.modReq.modCore h.modReq.acceptSeq

theorem waitSeq (h : s.Canonical) : (Machine.waitSeq s id).Canonical := by
  unfold Machine.waitSeq
  split
  · exact h
  · dsimp only
    split
    · exact h.setCore.replyArrives
    · exact .ite h.modReq h.replyArrives

theorem entryBack (h : s.Canonical) {own : Nat} : (Machine.entryBack s id own tile x).Canonical := by
  unfold Machine.entryBack
  exact .ite h.replyArrives h.answer

theorem pollEntry (h : s.Canonical) {own : Nat} {q : QSel} {e : Nat} :
    (Machine.pollEntry s id own tile q e t).Canonical := by
  unfold Machine.pollEntry
  split
  · exact h.entryBack
  · split
    · exact h.takeJob.entryBack
    · exact h.entryBack

theorem poll (h : s.Canonical) : (Machine.poll s id).Canonical := by
  unfold Machine.poll
  split
  · exact h
  · dsimp only
    split
    · exact h.replyArrives
    · exact h.pollEntry
    · split
      · exact h.setCore.replyArrives
      · exact h.replyArrives

theorem waitJob (h : s.Canonical) : (Machine.waitJob s id).Canonical := by
  unfold Machine.waitJob
  split
  · exact h
  · dsimp only
    split
    · exact h.replyArrives
    · exact h.waitSeq
    · split
      · exact h.pollEntry
      · split
        · exact .ite h.pollEntry h.modJob.answer
        · exact h.modJob.modReq.setC

theorem takeCommand (h : s.Canonical) {a : SReg} {start : State → Nat → State}
    (hstart : ∀ {s x}, s.Canonical → (start s x).Canonical) :
    (Machine.takeCommand i a start s).Canonical :=
  h.withRegs fun h => h.beyond hstart

/-! ### The operations of Machine/Collective.lean -/

theorem endReduce (h : s.Canonical) {b : List Word} : (Machine.endReduce s id thr b status).Canonical := by
  unfold Machine.endReduce
  exact .answer (.ite h.post h)

theorem writeResult (h : s.Canonical) {c : Contrib} {vals : List Nat} :
    (Machine.writeResult s c vals).1.Canonical := by
  unfold Machine.writeResult
  dsimp only
  split
  · exact h
  · exact h.flush

theorem admitted (h : s.Canonical) {f : State → State} (hf : ∀ {s}, s.Canonical → (f s).Canonical) :
    (Machine.admitted s f).Canonical := by
  unfold Machine.admitted
  exact .sendGranules (.update (hf (.update h)))

theorem combine (h : s.Canonical) : (Machine.combine s g).Canonical := by
  unfold Machine.combine
  dsimp only
  split
  · exact h
  · exact .ite h.post (h.modGroup.admitted fun h => h.foldl fun h => h.writeResult.endReduce)

theorem contribute (h : s.Canonical) {c : Contrib} : (Machine.contribute s g c).Canonical := by
  unfold Machine.contribute
  exact .ite h.modGroup.postFree h.modGroup

theorem spreadContribution (h : s.Canonical) {c : Contrib} : (Machine.spreadContribution s g c).Canonical :=
  h.foldl fun h => .update h

theorem contributionArrives (h : s.Canonical) {m : BitVec 46} {b : List Word} {data : List Byte} :
    (Machine.contributionArrives s g m b data).Canonical := by
  unfold Machine.contributionArrives
  exact .ite h h.contribute

theorem acceptReduce (h : s.Canonical) : (Machine.acceptReduce s id).Canonical := by
  unfold Machine.acceptReduce
  split
  · exact h
  · dsimp only
    refine .ite h.modReq.endReduce ?_
    split
    · exact h.modReq.endReduce
    · exact h.modReq.endReduce
    · split
      · exact h.modReq.endReduce
      · exact h.modReq.endReduce
      · split
        · exact h.modReq.readPages.endReduce
        · exact h.modReq.readPages.spreadContribution.contribute

theorem withdraw (h : s.Canonical) {m : BitVec 46} : (Machine.withdraw s g m).Canonical := by
  unfold Machine.withdraw
  exact .ite h (h.modGroup.foldl fun h => h.endReduce)

/-! ### The operations of Machine/Tasks.lean -/

theorem toIo (h : s.Canonical) {op : ReqOp} : (Machine.toIo op s id).Canonical := by
  unfold Machine.toIo
  split
  · exact h
  · exact h.modReq.send

theorem ioAnswer (h : s.Canonical) : (Machine.ioAnswer s id x).Canonical := h.answer

theorem writePacket (h : s.Canonical) {q : QueueSt} {p : Packet} : (Machine.writePacket s q x p).Canonical := by
  unfold Machine.writePacket
  refine h.foldl fun h => ?_
  split
  · exact h.putWord
  · exact h

theorem launchArrives (h : s.Canonical) : (Machine.launchArrives s id).Canonical := by
  unfold Machine.launchArrives
  split
  · exact h
  · split
    · exact h.ioAnswer
    · exact .kickQueue (.ioAnswer (.ite h.writePacket.modQueue.enterLaunch (.update h.writePacket.modQueue)))

theorem counterInsn (h : s.Canonical) {a : SReg} {r : Order} {detail : Word → Word} {y : State → Word}
    {start : State → Nat → State} (hstart : ∀ {s x}, s.Canonical → (start s x).Canonical) :
    (Machine.counterInsn i a r regs kind cause detail y start s).Canonical := by
  unfold Machine.counterInsn
  refine h.withRegs fun h => ?_
  dsimp only
  refine h.beyond fun h => ?_
  split
  · exact h.withFence hstart
  · exact hstart h

theorem sendDecrement (h : s.Canonical) : (Machine.sendDecrement s id).Canonical := by
  unfold Machine.sendDecrement
  split
  · exact h
  · exact h.modReq.send

theorem addArrives (h : s.Canonical) : (Machine.addArrives s id).Canonical := by
  unfold Machine.addArrives
  split
  · exact h
  · exact .ioAnswer (.ite h.modCounter h.divertCounter)

theorem waitArrives (h : s.Canonical) : (Machine.waitArrives s id).Canonical := by
  unfold Machine.waitArrives
  split
  · exact h
  · exact .ite h.divertCounter.ioAnswer (.ite h.ioAnswer h.modCounter)

theorem cancelJob (h : s.Canonical) {q : QSel} : (Machine.cancelJob s tile q j).Canonical := by
  unfold Machine.cancelJob
  dsimp only
  split
  · exact h.modJob
  · exact .ite h.modJob h.modJob.stopCopy
  · exact .ite h.modJob h.modJob.endGather

theorem cancelRef (h : s.Canonical) : (Machine.cancelRef s r).1.Canonical := by
  unfold Machine.cancelRef
  dsimp only
  refine .ite_fst h ?_
  split
  · exact h
  · split
    · exact h
    · exact .ite_fst h.cancelJob h
  · split
    · exact h
    · exact .ite_fst h.modCore h

theorem cancelTarget (h : s.Canonical) : (Machine.cancelTarget s r).1.Canonical := by
  unfold Machine.cancelTarget
  dsimp only
  split
  · refine .ite_fst h ?_
    split
    · exact h
    · exact .ite_fst h (.ite_fst h h.cancelLaunch)
  · exact .ite_fst h h.cancelRef
  · exact .ite_fst h (.ite_fst h h.cancelNamed)

theorem cancelArrives (h : s.Canonical) : (Machine.cancelArrives s id).Canonical := by
  unfold Machine.cancelArrives
  split
  · exact h
  · exact .ite h.post (.ite h.cancelTarget.ioAnswer h.cancelTarget.modReq)

/-! ### The operations of Machine/System.lean -/

theorem setMode (h : s.Canonical) : (Machine.setMode s core wide).Canonical :=
  (h.foldl fun h => h.putBytes).modCore.noteFree

theorem repartArrives (h : s.Canonical) : (Machine.repartArrives s id).Canonical := by
  unfold Machine.repartArrives
  split
  · exact h
  · exact .ite h.answer (.ite h.answer h.setMode.answer)

theorem sendRepart (h : s.Canonical) : (Machine.sendRepart s id).Canonical := by
  unfold Machine.sendRepart
  split
  · exact h
  · exact .ite h.send (.ite h.settleDown h.send)

theorem caprArrives (h : s.Canonical) : (Machine.caprArrives s id).Canonical := by
  unfold Machine.caprArrives
  split
  · exact h
  · exact h.ioAnswer

/-! ### The operations of Machine/Health.lean -/

theorem meetFeed (h : s.Canonical) : (Machine.meetFeed s f).Canonical := by
  unfold Machine.meetFeed
  refine .ite h ?_
  dsimp only
  split
  · exact h.touchFrame.touch
  · exact h.touchFrame

theorem addAt (h : s.Canonical) {f32 : Bool} {x : Nat} : (Machine.addAt s f32 a x).Canonical := h.putBytes

theorem feedFails (h : s.Canonical) {code : Nat} : (Machine.feedFails s f code).Canonical := by
  unfold Machine.feedFails
  split
  · exact h
  · exact h.modJob

theorem feedEffect (h : s.Canonical) : (Machine.feedEffect s f).Canonical := by
  unfold Machine.feedEffect
  dsimp only
  split
  · exact h
  · split
    · exact h.touch.modJob
    · exact h.touch
  · exact .ite (h.putWords.foldl fun h => h.clearReserved) h.putWords
  · exact .ite h.touch.feedFails h.touch.addAt

theorem feedCounted (h : s.Canonical) : (Machine.feedCounted s f).Canonical := by
  unfold Machine.feedCounted
  cases f.cls with
  | scrub =>
    dsimp only
    split
    · exact .ite h.modStack.post h.modStack
    · exact h
  | system => exact h
  | matrix | copy | gather =>
    dsimp only
    split
    · exact h
    · split
      · exact h.modJob.sendGranules
      · exact .ite h.modJob.post h.modJob

theorem feedLost (h : s.Canonical) : (Machine.feedLost s f).Canonical := by
  unfold Machine.feedLost
  refine .feedCounted ?_
  split
  · exact h.feedFails
  · exact h.feedFails
  · exact h
  · exact h

theorem feedElsewhere (h : s.Canonical) {a : FeedAt} : (Machine.feedElsewhere s f a).Canonical := by
  unfold Machine.feedElsewhere
  split
  · exact h
  · exact h
  · exact h.send
  · exact h.feedFails.feedCounted

theorem feedArrives (h : s.Canonical) : (Machine.feedArrives s f).Canonical := by
  unfold Machine.feedArrives
  dsimp only
  refine .ite h.meetFeed.feedLost ?_
  split
  · refine .ite (.ite h.meetFeed.useGranules.feedEffect.feedCounted h.meetFeed.useGranules.feedEffect.ingress) ?_
    exact h.meetFeed.ingress
  · exact h.meetFeed.feedElsewhere

theorem feedAdmitted (h : s.Canonical) {early : Bool} : (Machine.feedAdmitted s f early).Canonical := by
  unfold Machine.feedAdmitted
  dsimp only
  refine .ite h.meetFeed.feedCounted ?_
  split
  · exact h.meetFeed.feedEffect.feedCounted
  · exact h.meetFeed.feedElsewhere

theorem stopJobs (h : s.Canonical) {st : Word} : (Machine.stopJobs s tile st).Canonical := by
  unfold Machine.stopJobs
  refine h.foldl fun h => h.foldl fun h => ?_
  split
  · exact h.stopMat
  · exact h.stopCopy
  · exact h.endGather

theorem applyHeld (h : s.Canonical) {a : Event} : (Machine.applyHeld s a).Canonical := by
  unfold Machine.applyHeld
  split
  · exact h.applyReplica
  · exact h.applyReplica
  · exact h

theorem holdStack (h : s.Canonical) : (Machine.holdStack s k).Canonical := by
  unfold Machine.holdStack
  exact .ite h (.modStack (.foldl (.update h) fun h => h.modCore))

theorem writeHold (h : s.Canonical) : (Machine.writeHold s v req).Canonical := by
  unfold Machine.writeHold
  extract_lets +onlyGivenNames old new _ s1 s2
  have h1 : s1.Canonical := h
  have h2 : s2.Canonical := h1.foldl fun h => .ite (h.modStack.foldl fun h => h.applyHeld) (.ite h.holdStack h)
  exact .ite h2 h2.answer

theorem settleAimed (h : s.Canonical) : (Machine.settleAimed s e).Canonical := by
  unfold Machine.settleAimed
  cases e with
  | heddleCancel => exact h.diversion.answerPkt.cancelEcho
  | start | stop | redirect | resume | step | heddleNone | reservedCommand | outsideRead | outsideWrite | outsideRamoadd
  | outsideRcas | corestatWrite => exact h.diversion.answerPkt
  | objectAccessArrival | admission => exact h.downAnswer
  | inboxEntry => exact h.toInbox
  | activeMessage => exact .ite h.diversion h.diversion.answer
  | walk =>
    dsimp only
    split
    · exact h.endWalk.foldl fun h => h.answer
    · exact h
  | claim =>
    dsimp only
    split
    · exact h.answer
    · exact h
  | request kind =>
    cases kind with
    | repart =>
      dsimp only
      split
      · exact h.settleDown
      · exact h
    | _ => exact h
  | _ => exact h

theorem settleDo (h : s.Canonical) {a : QDo} : (Machine.settleDo s a).Canonical := by
  unfold Machine.settleDo
  split
  · exact h.settleAimed
  · exact .ite h.feedCounted h.feedLost
  · exact h

theorem settleAll (h : s.Canonical) : (Machine.settleAll s k).Canonical := by
  unfold Machine.settleAll
  exact .foldl (.foldl (.update h) fun h => h.modCore) fun h => h.settleDo

theorem settleWaits (h : s.Canonical) : (Machine.settleWaits s k).Canonical := by
  unfold Machine.settleWaits
  refine h.foldl fun h => h.foldl fun h => ?_
  dsimp only
  split
  · exact h.clearWait.answer
  · exact h.clearWait

theorem abortReloc (h : s.Canonical) : (Machine.abortReloc s r).Canonical := by
  unfold Machine.abortReloc
  dsimp only
  split
  · exact h
  · exact h.writeEntry.setFrame.setPool.forwardHeld.unclaim

theorem settleOps (h : s.Canonical) : (Machine.settleOps s k).Canonical := by
  unfold Machine.settleOps
  exact h.foldl fun h => .answer (.modReq (.ite h.unpost.abortReloc (.ite h.unclaim h)))

theorem settleTiles (h : s.Canonical) : (Machine.settleTiles s k).Canonical := by
  unfold Machine.settleTiles
  extract_lets +onlyGivenNames held s1 s2
  have h1 : s1.Canonical := h
  have h2 : s2.Canonical := h1.foldl fun h => h.settleAimed
  refine h2.foldl fun h => ?_
  split
  · exact h.foldl fun h => h.send
  · exact h.foldl fun h => h.send
  · exact h

theorem majLoses (h : s.Canonical) : (Machine.majLoses s k r).Canonical := by
  unfold Machine.majLoses
  exact .ite h (.ite (.ite h.modReq.answer h.modReq) (.ite h (.ite (.ite h.modReq.answer h.majReads) h)))

theorem majResend (h : s.Canonical) : (Machine.majResend s k).Canonical := by
  unfold Machine.majResend
  refine h.foldl fun h => ?_
  exact .ite h (.ite (.ite (h.foldl fun h => h.sendReplica) h) (h.modReq.foldl fun h => h.sendReplica))

theorem endDown (h : s.Canonical) : (Machine.endDown s l t).Canonical := by
  unfold Machine.endDown
  extract_lets +onlyGivenNames w tile kref w1 q s1 stop s2 s3
  have h1 : s1.Canonical := .ite h.toSupervisor h.toInbox
  have hstop : ∀ {s t}, s.Canonical → (stop s t).Canonical :=
    fun h => h.leaveReqs.setTState.setC.setFinfo.modThr.foldl fun h => h.settleAimed
  have h2 : s2.Canonical := hstop h1
  have h3 : s3.Canonical := by
    unfold s3
    split
    · exact (hstop h2).modPair.foldl fun h => h.settleAimed
    · exact h2
  exact h3.threadEnded

theorem endThreads (h : s.Canonical) : (Machine.endThreads s k).Canonical :=
  h.foldl fun h => h.foldl fun h => h.endDown

theorem withdrawWhere (h : s.Canonical) {p : BitVec 46 → Bool} : (Machine.withdrawWhere s p).Canonical :=
  h.foldl fun h => h.foldl fun h => h.withdraw

theorem settleHeld (h : s.Canonical) : (Machine.settleHeld s k).Canonical :=
  h.foldl fun h => (h.foldl fun h => h.settleAimed).foldl fun h => h.settleAimed

theorem setHealth (h : s.Canonical) : (Machine.setHealth s k n).Canonical := h

theorem pokeAll (h : s.Canonical) : (Machine.pokeAll s).Canonical := h.foldl fun h => .ite h h.poke

theorem goDown (h : s.Canonical) : (Machine.goDown s k).Canonical := by
  unfold Machine.goDown
  extract_lets +onlyGivenNames s1 s2 s3 s4 s5 s6 s7 s8 s9
  have h1 : s1.Canonical := h.setHealth
  have h2 : s2.Canonical := h1.unpost.modStack
  have h3 : s3.Canonical := h2.settleAll.settleHeld.settleWaits.settleOps.settleTiles
  have h4 : s4.Canonical := h3.foldl fun h => h.stopJobs
  have h5 : s5.Canonical := h4.foldl fun h => h.majLoses
  have h6 : s6.Canonical := h5.endThreads
  have h7 : s7.Canonical := h6.foldl fun h => .ite h.leaveReqs h
  have h8 : s8.Canonical := .update h7
  have h9 : s9.Canonical := h8.withdrawWhere
  exact h9.echoes.pokeAll

theorem startScrub (h : s.Canonical) : (Machine.startScrub s k).Canonical := by
  unfold Machine.startScrub
  exact .postFree (.modStack (.update h.unpost))

theorem goUp (h : s.Canonical) : (Machine.goUp s k).Canonical := by
  unfold Machine.goUp
  exact .pokeAll (.ite h.setHealth.majResend.startScrub h.setHealth.majResend)

theorem goRebuild (h : s.Canonical) : (Machine.goRebuild s k).Canonical := by
  unfold Machine.goRebuild
  exact .ite (.startScrub (.setHealth (.ite h.goDown h))) (.ite h.goDown h)

theorem scrubGranule (h : s.Canonical) {x : Opd × List Word × Nat × Nat × Thr × Nat} :
    (Machine.scrubGranule s k x g).Canonical := by
  unfold Machine.scrubGranule
  extract_lets +onlyGivenNames r l
  have hr : r.1.Canonical := h.majAnswers
  refine .ite hr ?_
  extract_lets +onlyGivenNames y put s'
  have hput : ∀ {s to_}, s.Canonical → (put s to_).Canonical := fun h => h.noteReplica.replicaWrite
  have h' : s'.Canonical := hr.foldl hput
  exact .ite h'.modStack (hput h')

theorem scrubAll (h : s.Canonical) {l : List (Opd × List Word × Nat × Nat × Thr × Nat)} :
    (Machine.scrubAll s k l).Canonical :=
  h.foldl fun h => h.foldl fun h => h.scrubGranule

theorem endScrub (h : s.Canonical) : (Machine.endScrub s k).Canonical := by
  unfold Machine.endScrub
  exact .ite h.modStack.setHealth.majResend.pokeAll h.modStack

theorem scrubbed (h : s.Canonical) : (Machine.scrubbed s k).Canonical := by
  unfold Machine.scrubbed
  exact .ite h (.ite h.post (.ite h.scrubAll.endScrub (.ite h.scrubAll.endScrub h.modStack.sendGranules)))

theorem pathFails (h : s.Canonical) : (Machine.pathFails s dev).Canonical := by
  unfold Machine.pathFails
  extract_lets +onlyGivenNames mine _ s1 s2
  have h1 : s1.Canonical := h
  have h2 : s2.Canonical := by
    unfold s2
    refine h1.foldl fun h => ?_
    extract_lets +onlyGivenNames s3
    have h3 : s3.Canonical := by
      unfold s3
      split
      · exact h.entryFails
      · exact h.diversion
    exact .ite h3 h3.answer
  exact h2.withdrawWhere.echoes

/-! ### The operations of Machine/Registers.lean -/

theorem writeHsem (h : s.Canonical) {port : Nat} {v : BitVec 2} : (Machine.writeHsem s port v).Canonical := by
  unfold Machine.writeHsem
  exact .ite (.ite (.update h) h) (.ite (.update h) h)

theorem clearQueue (h : s.Canonical) {part : BitVec 16} : (Machine.clearQueue s q part).Canonical :=
  (h.foldl fun h => h.dropLaunch.foldl fun h => .ite h h.answer).leaveCounter.modQueue

theorem writeQctl (h : s.Canonical) : (Machine.writeQctl s q v pf).Canonical := by
  unfold Machine.writeQctl
  extract_lets +onlyGivenNames part s1 s2
  have h1 : s1.Canonical := .ite h h.clearQueue
  have h2 : s2.Canonical := .ite h1.modQueue h
  exact .kickQueue (.ite h2.follow h2)

theorem writeQueue (h : s.Canonical) {i : Nat} : (Machine.writeQueue s q i v pf).Canonical := by
  unfold Machine.writeQueue
  split
  · exact h.modQueue
  · exact h.modQueue
  · exact h.follow
  · exact h.writeQctl
  · exact h.modQueue
  · exact h

theorem writeSwapctl (h : s.Canonical) : (Machine.writeSwapctl s v).Canonical := by
  unfold Machine.writeSwapctl
  refine .ite h ?_
  dsimp only
  split
  · exact .follow (.update h)
  · exact .follow (.update h)
  · exact h

theorem writeHealth (h : s.Canonical) : (Machine.writeHealth s v).Canonical := h.foldl fun h => .ite h h.follow

theorem writeNonce (h : s.Canonical) {i : Nat} : (Machine.writeNonce s i v).Canonical := h

theorem writeModuleReg (h : s.Canonical) {o : Nat} : (Machine.writeModuleReg s o v).Canonical := by
  unfold Machine.writeModuleReg
  split
  · exact h.writeSwapctl
  · exact h.follow
  · exact h.writeHealth
  · exact .ite h (.update h)
  · exact .ite (.update h) h
  · exact .ite (.post (.update h)) h
  · exact .ite h.writeNonce (.ite (.update h) h)

theorem writeTilepart (h : s.Canonical) : (Machine.writeTilepart s tile v).Canonical := by
  unfold Machine.writeTilepart
  exact .ite h h.modTile.postFree

theorem writePartcfg (h : s.Canonical) {i : Nat} : (Machine.writePartcfg s slot i v).Canonical := by
  unfold Machine.writePartcfg
  dsimp only
  split
  · refine .ite h ?_
    exact .ite (.postFree (.modPart (.ite h.modPart.follow h.modPart))) (.ite h.modPart.follow h.modPart)
  · exact h.modPart
  · exact .ite h h.modPart
  · exact h.modPart

theorem writeGroup (h : s.Canonical) {i : Nat} : (Machine.writeGroup s g i v).Canonical := by
  unfold Machine.writeGroup
  exact .ite h (.ite h.modGroup h.modGroup)

theorem writeReg (h : s.Canonical) {off : Nat} {port : Nat} :
    (Machine.writeReg s off v port slot).Canonical := by
  unfold Machine.writeReg
  extract_lets +onlyGivenNames pf
  refine .ite h (.ite (.ite h.follow h) ?_)
  refine .ite h (.ite h ?_)
  refine .ite (.ite h.writeQueue h) (.ite h ?_)
  refine .ite (.ite h.follow h) (.ite h ?_)
  refine .ite h.writeModuleReg (.ite (.ite h.writeTilepart h) ?_)
  exact .ite (.ite h.writePartcfg h) (.ite (.ite h.modTile h) (.ite (.ite h.writeGroup h) h))

theorem writeRecord (h : s.Canonical) {r : Rec} : (Machine.writeRecord s slot w r).Canonical := by
  unfold Machine.writeRecord
  refine h.foldl fun h => ?_
  split
  · exact h.putWord
  · exact h

theorem writeFrames (h : s.Canonical) {place : Word} {S : Nat} :
    (Machine.writeFrames s slot w place S).Canonical := by
  unfold Machine.writeFrames
  refine h.foldl fun h => ?_
  split
  · exact h.setFrame.noteFree
  · exact h

theorem partitionEnabled (h : s.Canonical) : (Machine.partitionEnabled s slot).Canonical :=
  h.modPart.writeFrames.writeFrames.writeRecord.writeRecord.writeRecord

theorem clearWords (h : s.Canonical) {p : Nat → Nat → Bool} : (Machine.clearWords s tiles p).Canonical := by
  unfold Machine.clearWords
  exact .update (Memory.wfFrom_filter _ h)

theorem cancelJobs (h : s.Canonical) : (Machine.cancelJobs s tiles).Canonical := by
  unfold Machine.cancelJobs
  exact .foldl (.update (h.foldl fun h => h.modTile)) fun h => h.foldl fun h => h.admitFull.runEngine

theorem dropWaiters (h : s.Canonical) : (Machine.dropWaiters s core).Canonical := by
  unfold Machine.dropWaiters
  refine h.foldl fun h => ?_
  dsimp only
  split
  · exact h.clearWait.send
  · exact h.clearWait

theorem dropMsgs (h : s.Canonical) : (Machine.dropMsgs s core).Canonical :=
  h.modCore.foldl fun h => .ite h h.answer

theorem dropHeld (h : s.Canonical) : (Machine.dropHeld s core).Canonical :=
  h.modCore.foldl fun h => h.answerMessage

theorem dropThreads (h : s.Canonical) : (Machine.dropThreads s tiles).Canonical := by
  unfold Machine.dropThreads
  extract_lets +onlyGivenNames cores s1 s2 s3
  have h1 : s1.Canonical := h.foldl fun h => h.dropWaiters.dropMsgs.dropHeld
  have h2 : s2.Canonical := .update h1
  have h3 : s3.Canonical := h2.foldl fun h => .ite h.leaveReqs h
  exact h3.foldl fun h => h.modCore

theorem cancelLaunches (h : s.Canonical) : (Machine.cancelLaunches s key).Canonical :=
  h.foldl fun h => h.completeLaunch.dropLaunch

theorem forgetDecrements (h : s.Canonical) : (Machine.forgetDecrements s key).Canonical := h

theorem visitRows (h : s.Canonical) {cores : List Nat} : (Machine.visitRows s cores).Canonical :=
  h.foldl fun h => h.foldl fun h => h.visit

theorem resetRow (h : s.Canonical) : (Machine.resetRow s t).Canonical := by
  unfold Machine.resetRow
  exact .ite h.leaveReqs.freeRow.visitThread h

theorem replayQueue (h : s.Canonical) : (Machine.replayQueue s q).Canonical := by
  unfold Machine.replayQueue
  exact .ite h.leaveCounter.modQueue.enterRange.kickQueue h.leaveCounter

theorem partitionResets (h : s.Canonical) : (Machine.partitionResets s slot).Canonical := by
  unfold Machine.partitionResets
  extract_lets +onlyGivenNames key
  refine .ite h ?_
  extract_lets +onlyGivenNames tiles s1 cores s2 s3 s4 clear _ s5
  have h1 : s1.Canonical := h.cancelLaunches.cancelJobs
  have h2 : s2.Canonical := h1.foldl fun h => h.foldl fun h => h.resetRow
  have h3 : s3.Canonical := h2.foldl fun h => h.dropMsgs
  have h4 : s4.Canonical := h3.forgetDecrements
  have h5 : s5.Canonical := .update h4
  exact h5.foldl fun h => h.replayQueue

theorem disableQueues (h : s.Canonical) : (Machine.disableQueues s key).Canonical := h

theorem dropQueues (h : s.Canonical) : (Machine.dropQueues s key).Canonical := by
  unfold Machine.dropQueues
  exact .update (h.foldl fun h => h.leaveCounter)

theorem vfResets (h : s.Canonical) : (Machine.vfResets s slot).Canonical := by
  unfold Machine.vfResets
  extract_lets +onlyGivenNames key tiles s1 s2 s3 s4 s5 s6 s7 s8
  have h1 : s1.Canonical := .ite h h.disableQueues.cancelLaunches
  have h2 : s2.Canonical := h1.cancelJobs.dropThreads
  have h3 : s3.Canonical := h2.clearWords
  have h4 : s4.Canonical := .update h3
  have h5 : s5.Canonical := .ite h4 h4.forgetDecrements.dropQueues
  have h6 : s6.Canonical := h5.withdrawWhere
  have h7 : s7.Canonical := .update h6
  have h8 : s8.Canonical := (h7.foldl fun h => h.noteFree).visitRows
  exact h8.modPart

theorem emptyQueues (h : s.Canonical) : (Machine.emptyQueues s tile).Canonical := by
  unfold Machine.emptyQueues
  extract_lets +onlyGivenNames st ids s1 s2 s3
  have h1 : s1.Canonical := h.modTile
  have h2 : s2.Canonical := h1.foldl fun h => h.answer
  have h3 : s3.Canonical := h2.foldl fun h => h.stopCopy
  exact (h3.foldl fun h => h.answer).modTile

theorem tileCleared (h : s.Canonical) : (Machine.tileCleared s tile v).Canonical := by
  unfold Machine.tileCleared
  extract_lets +onlyGivenNames s1 s2 out pool core s3 s4
  have h1 : s1.Canonical := h.emptyQueues.dropThreads
  have h2 : s2.Canonical := h1.clearWords
  have h3 : s3.Canonical := .update h2
  have h4 : s4.Canonical := h3.modTile
  exact (h4.foldl fun h => .ite h.noteFree h).visitRows.pokeAll

theorem tileReassigned (h : s.Canonical) : (Machine.tileReassigned s tile v).Canonical := by
  unfold Machine.tileReassigned
  exact .ite h.modTile.tileCleared (h.modTile.foldl fun h => h.cancelLaunch).post

theorem broughtUp {absent : List (Nat × BitVec 512)} {good : Bool} :
    (Machine.broughtUp s absent good).Canonical := by
  unfold Machine.broughtUp
  exact .update State.Canonical.reset

theorem bitFlips (h : s.Canonical) {double : Bool} : (Machine.bitFlips s t widx double).Canonical := by
  unfold Machine.bitFlips
  exact .ite h (.update h)

/-! ### The operations of Machine/Fences.lean -/

theorem afterFence (h : s.Canonical) : (Machine.afterFence s r).Canonical := by
  unfold Machine.afterFence
  cases r.insn with
  | rld | rst | hdl | ramoadd | rcas => exact h.sendRow
  | msend => exact h.sendMsg
  | commit | fillc => exact h.opStart
  | objsync => exact h.syncDrop
  | launch | cntadd => exact h.toIo
  | cntdec => exact h.sendDecrement
  | fence | fenceRel | exit => exact h.replyArrives
  | _ => exact h.translateReq

theorem echoArrives (h : s.Canonical) : (Machine.echoArrives s id tile).Canonical := by
  unfold Machine.echoArrives
  split
  · exact h
  · dsimp only
    split
    · exact .ite h.modReq (.ite h.modReq.afterFence h.modReq.setTouch.afterFence)
    · exact .ite h.modReq.replyArrives h.modReq
    · exact h

/-! ### The operations of Machine/RowSpace.lean -/

theorem execMsend (h : s.Canonical) {a : SReg} {p : Pair} {r : Order} :
    NextCanonical (Machine.execMsend d a p r s) := by
  unfold Machine.execMsend
  show State.Canonical _
  refine .ite h.trapNow (h.withRegs fun h => ?_)
  dsimp only
  refine h.beyond fun h => ?_
  split
  · exact h.withFence fun h => h.sendMsg
  · exact h.sendMsg

/-! ### The operations of Machine/Inbox.lean -/

theorem execIbpeek (h : s.Canonical) : NextCanonical (Machine.execIbpeek d s) := by
  unfold Machine.execIbpeek
  show State.Canonical _
  refine h.beyond fun h => ?_
  split
  · exact h
  · exact h.replyArrives

theorem execIbdrop (h : s.Canonical) : NextCanonical (Machine.execIbdrop s) := by
  unfold Machine.execIbdrop
  show State.Canonical _
  refine h.beyond fun h => ?_
  split
  · exact h
  · extract_lets +onlyGivenNames s'
    have h' : s'.Canonical := by
      unfold s'
      split
      · exact h
      · exact h.removeEntry
    exact h'.replyArrives

/-! ### The operations of Machine/Tasks.lean -/

theorem execLaunch (h : s.Canonical) {a : SReg} {p : Pair} {r : Order} :
    NextCanonical (Machine.execLaunch d a p r s) := by
  unfold Machine.execLaunch
  show State.Canonical _
  split
  · exact h.launchArrives
  · refine h.withBlock fun h => ?_
    dsimp only
    refine h.withRegs fun h => h.beyond fun h => ?_
    split
    · exact h.withFence fun h => h.toIo
    · exact h.toIo

theorem execCntadd (h : s.Canonical) {a : SReg} {p : Pair} {r : Order} :
    NextCanonical (Machine.execCntadd a p r s) := by
  unfold Machine.execCntadd
  show State.Canonical _
  split
  · exact h.addArrives
  · exact h.counterInsn fun h => h.toIo

theorem execCntwait (h : s.Canonical) {a : SReg} {r : Order} : NextCanonical (Machine.execCntwait a r s) := by
  unfold Machine.execCntwait
  show State.Canonical _
  split
  · exact h.waitArrives
  · exact .ite h.trapNow (h.counterInsn fun h => h.toIo)

theorem execCancel (h : s.Canonical) {a : SReg} {p : Pair} : NextCanonical (Machine.execCancel d a p s) := by
  unfold Machine.execCancel
  show State.Canonical _
  split
  · exact h.cancelArrives
  · exact h.withRegs fun h => h.beyond fun h => h.toIo

/-! ### The operations of Machine/System.lean -/

theorem execRepart (h : s.Canonical) {a : SReg} : NextCanonical (Machine.execRepart d a s) := by
  unfold Machine.execRepart
  show State.Canonical _
  split
  · exact h.repartArrives
  · refine .ite h.trapNow (h.withRegs fun h => ?_)
    exact .ite (h.withWords fun h => h.retireS) (h.withRegs fun h => h.beyond fun h => h.sendRepart)

/-! ### The operations of Machine/Pairs.lean -/

theorem execPair (h : s.Canonical) : NextCanonical (Machine.execPair d s) := by
  unfold Machine.execPair
  show State.Canonical _
  refine .ite h.trapNow (h.withRegs fun h => ?_)
  refine h.beyond fun h => ?_
  split
  · exact h
  · exact .replyArrives (.ite h.wakeCore h)

theorem execUnpair (h : s.Canonical) : NextCanonical (Machine.execUnpair d s) := by
  unfold Machine.execUnpair
  show State.Canonical _
  refine .ite h.trapNow ?_
  dsimp only
  split
  · exact h.withWords fun h => h.retireS
  · exact .ite h.park.addReq.callCheckpoint h.park.addReq

/-! ### The operations of Machine/System.lean -/

theorem execCapr (h : s.Canonical) {a : SReg} : NextCanonical (Machine.execCapr d a s) := by
  unfold Machine.execCapr
  show State.Canonical _
  split
  · exact h.caprArrives
  · exact h.withChecked fun h => h.withRegs fun h => h.beyond fun h => h.toIo

/-! ### The operations of Machine/Collective.lean -/

theorem execCreduce (h : s.Canonical) {a : SReg} : NextCanonical (Machine.execCreduce d a s) := by
  unfold Machine.execCreduce
  show State.Canonical _
  split
  · exact .ite h.post (h.admitted fun h => h.acceptReduce)
  · exact h.contributionArrives
  · exact .ite h.trapNow (h.blockCommand fun h => h.send)

/-! ### The operations of Machine/Beyond.lean -/

theorem execLongOpDone (h : s.Canonical) : NextCanonical (Machine.execLongOpDone s) := by
  unfold Machine.execLongOpDone
  split
  · show State.Canonical _
    split
    · exact h
    · exact (h.modThr.retiring fun h => h.modThr.longDone).runCmds.holdForTreadle
  · exact h

/-! ### The operations of Machine/Place.lean -/

theorem execPriorityLoan (h : s.Canonical) : NextCanonical (Machine.execPriorityLoan s) := by
  unfold Machine.execPriorityLoan
  split
  · exact h.priorityLoaned
  · exact h.loanArrives
  · exact h

/-! ### The operations of Machine/Registers.lean -/

theorem execRegisterWrite (h : s.Canonical) : NextCanonical (Machine.execRegisterWrite s) := by
  unfold Machine.execRegisterWrite
  split
  · exact h.writeReg
  · exact h
  · exact h

/-! ### The operations of Machine/Dispatch.lean -/

theorem exec (h : s.Canonical) : NextCanonical (Machine.exec i s) := by
  cases i with
  | add | sub | addw | subw | and | or | xor | andn | orn | shl | shr | sra | rol | ror | slt | sltu | seq | sne | min | max
  | minu | maxu | clz | ctz | popc | brev | bswap | sextb | sexth | sextw | zextw | zextb | zexth | mul | mulh | mulhu
  | mulhsz | mulw | addi | andi | ori | xori | slti | sltiu | shli | shri | srai | rori | lil | lik | fkind | fcopys | fabs
  | fneg | mfc | vlen | pcnt => exact h.withWords fun h => h.retireS
  | sadd | ssub => exact h.withWords fun h => h.withFlags fun h => h.retireSF
  | div | divu | rem | remu | divw | remw => exact h.withRegs fun h => h.startLong
  | fadd | fsub | fmul | fmin | fmax | ffmaD | ffmsD | fnmaD | fnmsD | ffmaS | ffmsS | fnmaS | fnmsS =>
    exact h.withWords fun h => h.finishF
  | fdiv | fsqrt => exact h.withRegs fun h => h.finishF
  | fcmp | fcvt => exact h.withWords fun h => h.retireSF
  | beq | bne | blt | bge | bltu | bgeu => exact h.withWords fun h => h.retireAt
  | call => exact h.withWords fun h => h.callTo
  | callr => exact h.withChecked fun h => h.withWords fun h => h.callTo
  | ldr => exact h.withOwn fun h => h.withWords fun h => h.retireS
  | str => exact h.withOwn fun h => h.withWords fun h => h.putOwn.retire
  | vldr => exact .ite h.trapNow (h.withOwn fun h => h.withWords fun h => h.retireV)
  | vstr => exact .ite h.trapNow (h.withOwn fun h => h.withWords fun h => h.putOwn.retire)
  | ldo | sto | stff | sete | objq => exact h.objAccess fun h => h.startAccess
  | ldfe | ldff | stef => exact h.waitingAccess
  | amoAddD | amoAndD | amoOrD | amoXorD | amoSminD | amoSmaxD | amoUminD | amoUmaxD | amoSwapD | amoFaddD | amoFminD
  | amoFmaxD | amoCasD | amoAddW | amoAndW | amoOrW | amoXorW | amoSminW | amoSmaxW | amoUminW | amoUmaxW | amoSwapW
  | amoFaddW | amoFminW | amoFmaxW | amoCasW => exact h.amoAccess
  | vldo | vsto | vldb => exact h.vecAccess
  | commit | decommit | alloc | reloc | fillc => exact h.objectOp
  | free => exact h.withRegs fun h => .ite h.trapNow h.objectOp
  | objsync => exact .ite h.trapNow (h.withRegs fun h => h.beyond fun h => h.startSync)
  | rld | rst | hdl | ramoadd => exact h.rowAccess
  | rcas => exact .ite h.trapNow h.rowAccess
  | fence | fenceRel => exact h.fenceInsn
  | fenceAcq => exact h.withRegs fun h => h.beyond fun h => h.replyArrives
  | msend => exact h.execMsend
  | ibrecv => exact .ite h.trapNow (.ite h.trapNow (h.beyond fun h => h.startRecv))
  | ibpeek => exact h.execIbpeek
  | ibdrop => exact h.execIbdrop
  | mtc => exact .ite h.trapNow (h.withWords fun h => .ite h.retirePlain h.setC.retire)
  | live => exact h.withWords fun h => h.setLive.retire
  | launch => exact h.execLaunch
  | cntdec => exact h.counterInsn fun h => h.sendDecrement
  | cntadd => exact h.execCntadd
  | cntwait => exact h.execCntwait
  | cancel => exact h.execCancel
  | yield => exact .ite h.trapNow h.park.modThr
  | park => exact .ite h.trapNow (h.beyond fun h => h)
  | exit => exact h.withRegs fun h => h.withRegs fun h => h.beyond fun h => h.withFence fun h => h.replyArrives
  | trap | brk => exact h.trapNow
  | repart => exact h.execRepart
  | pair => exact h.execPair
  | unpair => exact h.execUnpair
  | capr => exact h.execCapr
  | nop => exact h.withWords fun h => h.retirePlain
  | vadd | vsub | vmul | vmulh | vand | vor | vxor | vshl | vshr | vsra | vmin | vmax | vsadd | vssub | vabs | vpopc | vfadd
  | vfsub | vfmul | vfmin | vfmax | vfabs | vfneg | vfcopys | vfma | vperm | vslide | vcvt | vscan | vbcast =>
    exact .ite h.trapNow (h.withWords fun h => h.finishV)
  | vfdiv | vfsqrt | vrcp | vrsq | vexp2 | vlog2 | vsin | vcos | vtanh => exact .ite h.trapNow (h.withRegs fun h =>
    h.finishVLong)
  | vcmp => exact .ite h.trapNow (h.withWords fun h => h.finishP)
  | vsel | vcompress | vexpand => exact .ite h.trapNow (h.withWords fun h => h.retireV)
  | vred => exact .ite h.trapNow (h.withWords fun h => h.withFlags fun h => h.raise.retireV)
  | vmred => exact .ite h.trapNow (h.withWords fun h => h.withFlags fun h => h.raise.setVMasked.setP.retire)
  | vins => exact .ite h.trapNow (h.withWords fun h => .ite h.finishV h.retirePlain)
  | vext => exact .ite h.trapNow (h.withWords fun h => h.retireS)
  | vwhile | pand | por | pxor | pnot | pfirst | pset => exact h.withWords fun h => h.retireP
  | mldb | mmul => exact h.blockCommand fun h => h.toMatrix
  | mldbW | mmulW => exact h.matrixWait
  | mout | mzero | mtest => exact h.regCommand fun h => h.toMatrix
  | mstat => exact h.regCommand fun h => h.readStat
  | cpy | cpyx | cpyc => exact h.blockCommand fun h => h.toStreamer
  | gath | scat | scatadd => exact h.blockCommand fun h => h.toGather
  | jpoll => exact h.takeCommand fun h => h.poll
  | jwait => exact .ite h.trapNow (h.takeCommand fun h => h.waitJob)
  | creduce => exact h.execCreduce
  | rseq => exact h.blockCommand fun h => h.toSequencer
  | rswait => exact .ite h.trapNow (h.withRegs fun h => h.beyond fun h => h.waitSeq)
  | start => show NextCanonical (Machine.execStart s); unfold Machine.execStart; split <;> [exact h.heddle; exact h]
  | stop => show NextCanonical (Machine.execStop s); unfold Machine.execStop; split <;> [exact h.heddle; exact h]
  | redirect => show NextCanonical (Machine.execRedirect s); unfold Machine.execRedirect; split <;> [exact h.heddle; exact h]
  | resume => show NextCanonical (Machine.execResume s); unfold Machine.execResume; split <;> [exact h.heddle; exact h]
  | step => show NextCanonical (Machine.execStep s); unfold Machine.execStep; split <;> [exact h.heddle; exact h]
  | heddleCancel =>
    show NextCanonical (Machine.execHeddleCancel s); unfold Machine.execHeddleCancel
    split <;> [exact h.heddle; exact h]
  | heddleNone =>
    show NextCanonical (Machine.execHeddleNone s); unfold Machine.execHeddleNone
    split <;> [exact h.heddle; exact h]
  | reservedCommand =>
    show NextCanonical (Machine.execReservedCommand s); unfold Machine.execReservedCommand
    split <;> [exact h.heddle; exact h]
  | outsideRead => exact h.rowStepOf h.outsideRead
  | outsideWrite => exact h.rowStepOf h.outsideWrite
  | outsideRamoadd => exact h.rowStepOf h.outsideAdd
  | outsideRcas => exact h.rowStepOf h.outsideCas
  | outsideActivation =>
    show NextCanonical (Machine.execOutsideActivation s); unfold Machine.execOutsideActivation
    split <;> [exact h.outsideActivation; exact h]
  | borrowWindow =>
    show NextCanonical (Machine.execBorrowWindow s); unfold Machine.execBorrowWindow
    split <;> [exact h.borrowWindow; exact h]
  | quantumExpiry =>
    show NextCanonical (Machine.execQuantumExpiry s); unfold Machine.execQuantumExpiry
    split <;> [exact h.treadleShut; exact h]
  | memParkExpiry =>
    show NextCanonical (Machine.execMemParkExpiry s); unfold Machine.execMemParkExpiry
    split <;> [exact h.treadleShut; exact h]
  | treadleClose =>
    show NextCanonical (Machine.execTreadleClose s); unfold Machine.execTreadleClose
    split <;> [exact h.treadleShut; exact h]
  | rowClose => show NextCanonical (Machine.execRowClose s); unfold Machine.execRowClose; split <;> [exact h.rowClose; exact h]
  | rowActivation =>
    show NextCanonical (Machine.execRowActivation s); unfold Machine.execRowActivation
    split <;> [exact h.rowActivation; exact h]
  | creditEarned =>
    show NextCanonical (Machine.execCreditEarned s); unfold Machine.execCreditEarned
    split <;> [exact h.creditEarned; exact h]
  | refresh => show NextCanonical (Machine.execRefresh s); unfold Machine.execRefresh; split <;> [exact h.refresh; exact h]
  | refreshEnd =>
    show NextCanonical (Machine.execRefreshEnd s); unfold Machine.execRefreshEnd
    split <;> [exact h.refreshEnd; exact h]
  | codeRowOpen =>
    show NextCanonical (Machine.execCodeRowOpen s); unfold Machine.execCodeRowOpen
    split <;> [exact h.codeRowOpened; exact h]
  | codeRowFill =>
    show NextCanonical (Machine.execCodeRowFill s); unfold Machine.execCodeRowFill
    split <;> [exact h.codeRowFilled; exact h]
  | longOpDone => exact h.execLongOpDone
  | reply =>
    show NextCanonical (Machine.execReply s); unfold Machine.execReply
    split <;> [exact .replyArrives (.ite h.takeAwaited h); exact h]
  | retry => show NextCanonical (Machine.execRetry s); unfold Machine.execRetry; split <;> [exact h.retried; exact h]
  | retryBackoff =>
    show NextCanonical (Machine.execRetryBackoff s); unfold Machine.execRetryBackoff
    split <;> [exact h.backedOff; exact h]
  | redirectAnswer =>
    show NextCanonical (Machine.execRedirectAnswer s); unfold Machine.execRedirectAnswer
    split <;> [exact h.redirected; exact h]
  | walk => show NextCanonical (Machine.execWalk s); unfold Machine.execWalk; split <;> [exact h.walkAdmitted; exact h]
  | walkReply =>
    show NextCanonical (Machine.execWalkReply s); unfold Machine.execWalkReply
    split <;> [exact h.walkReplied; exact h]
  | waitLimitExpiry =>
    show NextCanonical (Machine.execWaitLimitExpiry s); unfold Machine.execWaitLimitExpiry
    split <;> [exact h.limitExpired; exact h]
  | cancelWait =>
    show NextCanonical (Machine.execCancelWait s); unfold Machine.execCancelWait
    split <;> [exact h.cancelWaitArrives; exact h]
  | cancelWaitAnswer =>
    show NextCanonical (Machine.execCancelWaitAnswer s); unfold Machine.execCancelWaitAnswer
    split <;> [exact h.cancelWaitAnswered; exact h]
  | objectAccessArrival =>
    show NextCanonical (Machine.execObjectAccessArrival s); unfold Machine.execObjectAccessArrival
    split <;> [exact h.accessArrives.echoes; exact h]
  | admission =>
    show NextCanonical (Machine.execAdmission s); unfold Machine.execAdmission
    split <;> [exact h.admitAccess.echoes; exact h]
  | fenceProbe =>
    show NextCanonical (Machine.execFenceProbe s); unfold Machine.execFenceProbe
    split <;> [exact h.fenceProbe.echoes; exact h]
  | probeEcho =>
    show NextCanonical (Machine.execProbeEcho s); unfold Machine.execProbeEcho
    split <;> [exact h.probeEcho; exact h]
  | fenceEcho =>
    show NextCanonical (Machine.execFenceEcho s); unfold Machine.execFenceEcho
    split <;> [exact h.echoArrives; exact h]
  | coreGate => show NextCanonical (Machine.execCoreGate s); unfold Machine.execCoreGate; split <;> [exact h.coreGate; exact h]
  | coreWake => show NextCanonical (Machine.execCoreWake s); unfold Machine.execCoreWake; split <;> [exact h.coreWake; exact h]
  | inboxEntry =>
    show NextCanonical (Machine.execInboxEntry s); unfold Machine.execInboxEntry
    split <;> [exact h.inboxArrives; exact h]
  | activeMessage =>
    show NextCanonical (Machine.execActiveMessage s); unfold Machine.execActiveMessage
    split <;> [exact h.messageArrives; exact h]
  | handlerStart =>
    show NextCanonical (Machine.execHandlerStart s); unfold Machine.execHandlerStart
    split <;> [exact h.handlerStarts; exact h]
  | doorbell =>
    show NextCanonical (Machine.execDoorbell s); unfold Machine.execDoorbell
    split <;> [exact h.doorbellRings; exact h]
  | thaw => show NextCanonical (Machine.execThaw s); unfold Machine.execThaw; split <;> [exact h.modQueue.kickQueue; exact h]
  | dispatch =>
    show NextCanonical (Machine.execDispatch s); unfold Machine.execDispatch
    split <;> [exact h.dispatched; exact h]
  | counterPacket =>
    show NextCanonical (Machine.execCounterPacket s); unfold Machine.execCounterPacket
    split <;> [exact h.counterPacketActs; exact h]
  | fencePacket =>
    show NextCanonical (Machine.execFencePacket s); unfold Machine.execFencePacket
    split <;> [exact h.fencePacketActs; exact h]
  | placement => show NextCanonical (Machine.execPlacement s); unfold Machine.execPlacement; split <;> [exact h.placed; exact h]
  | reservation =>
    show NextCanonical (Machine.execReservation s); unfold Machine.execReservation
    split <;> [exact h.reserved; exact h]
  | agentReport =>
    show NextCanonical (Machine.execAgentReport s); unfold Machine.execAgentReport
    split <;> [exact h.agentReports; exact h]
  | launchCompletion =>
    show NextCanonical (Machine.execLaunchCompletion s); unfold Machine.execLaunchCompletion
    split <;> [exact h.launchCompleted; exact h]
  | counterDecrement =>
    show NextCanonical (Machine.execCounterDecrement s); unfold Machine.execCounterDecrement
    split <;> [exact h.counterDecremented; exact h]
  | counterWrite =>
    show NextCanonical (Machine.execCounterWrite s); unfold Machine.execCounterWrite
    split <;> [exact h.counterWritten; exact h]
  | priorityLoan => exact h.execPriorityLoan
  | partitionReset =>
    show NextCanonical (Machine.execPartitionReset s); unfold Machine.execPartitionReset
    split <;> [exact h.partitionResets.echoes; exact h]
  | swapOut => show NextCanonical (Machine.execSwapOut s); unfold Machine.execSwapOut; split <;> [exact h.swapsOut; exact h]
  | swapIn => show NextCanonical (Machine.execSwapIn s); unfold Machine.execSwapIn; split <;> [exact h.swapsIn; exact h]
  | checkpoint =>
    show NextCanonical (Machine.execCheckpoint s); unfold Machine.execCheckpoint
    split <;> [exact h.checkpointed; exact h]
  | fingerprint =>
    show NextCanonical (Machine.execFingerprint s); unfold Machine.execFingerprint
    split <;> [exact h.printArrives; exact h]
  | fingerprintTimeout =>
    show NextCanonical (Machine.execFingerprintTimeout s); unfold Machine.execFingerprintTimeout
    split <;> [exact h.printLate; exact h]
  | shadowCopy =>
    show NextCanonical (Machine.execShadowCopy s); unfold Machine.execShadowCopy
    split <;> [exact h.shadowCopied; exact h]
  | claim => show NextCanonical (Machine.execClaim s); unfold Machine.execClaim; split <;> [exact h.claimArrives; exact h]
  | relocCopy =>
    show NextCanonical (Machine.execRelocCopy s); unfold Machine.execRelocCopy
    split <;> [exact h.relocCopied.echoes; exact h]
  | objsyncDrop =>
    show NextCanonical (Machine.execObjsyncDrop s); unfold Machine.execObjsyncDrop
    split <;> [exact h.objsyncDropped.echoes; exact h]
  | tagAndGranuleRead =>
    show NextCanonical (Machine.execTagAndGranuleRead s); unfold Machine.execTagAndGranuleRead
    split <;> [exact h.replicaStep; exact h]
  | phase2Write =>
    show NextCanonical (Machine.execPhase2Write s); unfold Machine.execPhase2Write
    split <;> [exact h.replicaStep; exact h]
  | majorityAnswer =>
    show NextCanonical (Machine.execMajorityAnswer s); unfold Machine.execMajorityAnswer
    split <;> [exact h.majAnswered; exact h]
  | rholdWrite =>
    show NextCanonical (Machine.execRholdWrite s); unfold Machine.execRholdWrite
    split <;> [exact h.writeHold.echoes; exact h]
  | stackFailure =>
    show NextCanonical (Machine.execStackFailure s); unfold Machine.execStackFailure
    split <;> [exact .ite h h.goDown; exact h]
  | markDown => show NextCanonical (Machine.execMarkDown s); unfold Machine.execMarkDown; split <;> [exact h.goDown; exact h]
  | markUp => show NextCanonical (Machine.execMarkUp s); unfold Machine.execMarkUp; split <;> [exact h.goUp; exact h]
  | markRebuild =>
    show NextCanonical (Machine.execMarkRebuild s); unfold Machine.execMarkRebuild
    split <;> [exact h.goRebuild; exact h]
  | scrubPass =>
    show NextCanonical (Machine.execScrubPass s); unfold Machine.execScrubPass
    split <;> [exact h.scrubbed; exact h]
  | pathFailure =>
    show NextCanonical (Machine.execPathFailure s); unfold Machine.execPathFailure
    split <;> [exact h.pathFails; exact h]
  | pathRecovery =>
    show NextCanonical (Machine.execPathRecovery s); unfold Machine.execPathRecovery
    split <;> [exact h; exact h]
  | powerSample => show NextCanonical (Machine.execPowerSample s); unfold Machine.execPowerSample; split <;> [exact h; exact h]
  | hsem => show NextCanonical (Machine.execHsem s); unfold Machine.execHsem; split <;> [exact h.writeHsem; exact h]
  | partitionEnable =>
    show NextCanonical (Machine.execPartitionEnable s); unfold Machine.execPartitionEnable
    split <;> [exact h.partitionEnabled; exact h]
  | vfReset =>
    show NextCanonical (Machine.execVfReset s); unfold Machine.execVfReset
    split <;> [exact h.vfResets.echoes; exact h]
  | tileReassign =>
    show NextCanonical (Machine.execTileReassign s); unfold Machine.execTileReassign
    split <;> [exact h.tileReassigned.echoes; exact h]
  | memberWithdrawal =>
    show NextCanonical (Machine.execMemberWithdrawal s); unfold Machine.execMemberWithdrawal
    split <;> [exact h.withdraw; exact h]
  | firmwareStage =>
    show NextCanonical (Machine.execFirmwareStage s); unfold Machine.execFirmwareStage
    split <;> [exact .ite (.update h) h; exact h]
  | attestationRequest =>
    show NextCanonical (Machine.execAttestationRequest s); unfold Machine.execAttestationRequest
    split <;> [exact h; exact h]
  | bringUp => show NextCanonical (Machine.execBringUp s); unfold Machine.execBringUp; split <;> [exact State.Canonical.broughtUp; exact h]
  | corestatWrite =>
    show NextCanonical (Machine.execCorestatWrite s)
    unfold Machine.execCorestatWrite
    split <;> [exact h.checked fun h => .answerPkt (.ite h.writeQuant h.writeRowWord); exact h]
  | registerWrite => exact h.execRegisterWrite
  | matrixJob =>
    show NextCanonical (Machine.execMatrixJob s)
    unfold Machine.execMatrixJob
    split <;> [exact h.withJob (fun h => h.stopMat) (fun h => h.mmulRun); exact h]
  | mldbJob =>
    show NextCanonical (Machine.execMldbJob s)
    unfold Machine.execMldbJob
    split <;> [exact h.withJob (fun h => h.stopMat) (fun h => h.mldbRun); exact h]
  | moutJob =>
    show NextCanonical (Machine.execMoutJob s)
    unfold Machine.execMoutJob
    split <;> [exact h.withJob (fun h => h.stopMat) (fun h => h.moutRun); exact h]
  | mzeroJob =>
    show NextCanonical (Machine.execMzeroJob s)
    unfold Machine.execMzeroJob
    split <;> [exact h.withJob (fun h => h.stopMat) (fun h => h.mzeroRun); exact h]
  | mtestJob =>
    show NextCanonical (Machine.execMtestJob s)
    unfold Machine.execMtestJob
    split <;> [exact h.withJob (fun h => h.stopMat) (fun h => h.mtestRun); exact h]
  | copyJob =>
    show NextCanonical (Machine.execCopyJob s)
    unfold Machine.execCopyJob
    split <;> [exact h.withJob (fun h => h.stopCopy) (fun h => h.copyRun); exact h]
  | cpyxJob =>
    show NextCanonical (Machine.execCpyxJob s)
    unfold Machine.execCpyxJob
    split <;> [exact h.withJob (fun h => h.stopCopy) (fun h => h.cpyxRun); exact h]
  | cpycJob =>
    show NextCanonical (Machine.execCpycJob s)
    unfold Machine.execCpycJob
    split <;> [exact h.withJob (fun h => h.stopCopy) (fun h => h.cpycRun); exact h]
  | pointerWrite =>
    show NextCanonical (Machine.execPointerWrite s)
    unfold Machine.execPointerWrite
    split <;> [exact h.withJob (fun h => h.stopCopy) (fun h => h.pointerStep); exact h]
  | gathJob =>
    show NextCanonical (Machine.execGathJob s)
    unfold Machine.execGathJob
    split <;> [exact h.withJob (fun h => h.endGather) (fun h => h.gathRun); exact h]
  | scatJob =>
    show NextCanonical (Machine.execScatJob s)
    unfold Machine.execScatJob
    split <;> [exact h.withJob (fun h => h.endGather) (fun h => h.scatRun); exact h]
  | scataddJob =>
    show NextCanonical (Machine.execScataddJob s)
    unfold Machine.execScataddJob
    split <;> [exact h.withJob (fun h => h.endGather) (fun h => h.scataddRun); exact h]
  | rowStep => show NextCanonical (Machine.execRowStep s); unfold Machine.execRowStep; split <;> [exact h.rowStep; exact h]
  | serviceInterval =>
    show NextCanonical (Machine.execServiceInterval s); unfold Machine.execServiceInterval
    split <;> [exact h.serviceInterval; exact h]
  | collectiveCombine =>
    show NextCanonical (Machine.execCollectiveCombine s); unfold Machine.execCollectiveCombine
    split <;> [exact h.combine; exact h]
  | illegalInsn =>
    show NextCanonical (Machine.execIllegalInsn s); unfold Machine.execIllegalInsn
    split <;> [exact h.takeTrap; exact h]
  | bitError => show NextCanonical (Machine.execBitError s); unfold Machine.execBitError; split <;> [exact h.bitFlips; exact h]
  | subArrayFault =>
    show NextCanonical (Machine.execSubArrayFault s); unfold Machine.execSubArrayFault
    split <;> [exact .ite h.modTile h; exact h]
  | temperatureSensor =>
    show NextCanonical (Machine.execTemperatureSensor s); unfold Machine.execTemperatureSensor
    split <;> [exact h.modStack; exact h]

/-! ### The operations of Machine/Step.lean -/

theorem perform (h : s.Canonical) : NextCanonical (Machine.perform s e) := by
  unfold Machine.perform
  split
  · exact State.Canonical.exec (.update h)
  · exact h

theorem applyAccess (h : s.Canonical) {a : QDo} : NextCanonical (Machine.applyAccess s a) := by
  unfold Machine.applyAccess
  split
  · exact h.perform
  · exact h.feedAdmitted
  · exact h

theorem act (h : s.Canonical) {a : Act} : NextCanonical (Machine.act s a) := by
  unfold Machine.act
  split
  · exact h.perform
  · split
    · exact h.arrive
    · exact h
  · split
    · exact h.feedArrives
    · exact h
  · exact h.busCycle
  · split
    · exact h.applyIn
    · exact h.serveGranted.applyAccess.andThen fun h => h.serveNext

theorem issueWord (h : s.Canonical) {w : InsnWord} : NextCanonical (Machine.issueWord s t w) := by
  unfold Machine.issueWord
  extract_lets s'
  have h' : s'.Canonical := .noteIssue (.update h)
  split
  · exact h'.exec
  · exact State.Canonical.exec (.update h')

theorem threadTurn (h : s.Canonical) : NextCanonical (Machine.threadTurn s t) := by
  unfold Machine.threadTurn
  split
  · next e => exact h.prelude.of_fst e
  · next e => exact (h.prelude.of_fst e).issueWord

theorem coreTurn (h : s.Canonical) : NextCanonical (Machine.coreTurn s core) := by
  unfold Machine.coreTurn
  dsimp only
  split
  · exact h.yieldTurn.coreEnd
  · exact (State.Canonical.threadTurn (.update h.yieldTurn)).andThen fun h => h.coreEnd

theorem step (h : s.Canonical) : NextCanonical (Machine.step s) := by
  unfold Machine.step
  split
  · split
    · exact State.Canonical.act (.update h)
    · split
      · exact State.Canonical.coreTurn (.update h)
      · exact h
  · split
    · exact State.Canonical.coreTurn (.update h)
    · exact h

end State.Canonical

end Sys2Proof.Machine

namespace Sys2Proof

/-- Settles O57: `State.Canonical.step`, by the case analysis of what a step performs. -/
theorem stepKeepsMemoryCanonical : Obligations.StepKeepsMemoryCanonical := by
  intro s t e h
  have hn : Machine.NextCanonical (Machine.step s) := h.step
  rw [e] at hn
  exact hn

end Sys2Proof
end

section
/-! PROOFS. What a read finds after an update of one core, and what the steps of the treadle leave alone outside their core. -/
namespace Sys2Proof.Machine

/-! ### Tables and the agenda -/

/-- What a table holds after an entry is set: at that key the new entry, at any other the old one. -/
theorem look_store {α : Type} (d : α) (l : List (Nat × α)) (n m : Nat) (y : α) :
    look d (store l n y) m = if n = m then y else look d l m := by
  induction l with
  | nil => rfl
  | cons e l ih =>
    obtain ⟨k, x⟩ := e
    unfold store
    split
    · next h => subst h; simp only [look]; split <;> rfl
    · split
      · rfl
      · next hne _ =>
        simp only [look, ih]
        by_cases hk : k = m
        · rw [if_pos hk, if_pos hk, if_neg fun h => hne (h.trans hk.symm)]
        · rw [if_neg hk, if_neg hk]

theorem store_store {α : Type} (l : List (Nat × α)) (n : Nat) (x y : α) : store (store l n x) n y = store l n y := by
  induction l with
  | nil => simp [store]
  | cons e l ih =>
    obtain ⟨k, z⟩ := e
    by_cases h : n = k
    · simp [store, h]
    · by_cases h' : n < k <;> simp [store, h, h', ih]

theorem mem_insertSched {x y : Sched} {l : List Sched} : y ∈ insertSched x l ↔ y = x ∨ y ∈ l := by
  induction l with
  | nil => simp [insertSched]
  | cons z l ih =>
    unfold insertSched
    split
    · simp
    · rw [List.mem_cons, ih, List.mem_cons, or_left_comm]

/-! ### A core, its subarrays and its threads -/

@[simp] theorem getCore_setCore (s : State) (c : Nat) (x : CoreSt) : getCore (setCore s c x) c = x := by
  simp [getCore, look_store]

theorem getCore_setCore_of_ne (s : State) (x : CoreSt) {c d : Nat} (h : d ≠ c) : getCore (setCore s c x) d = getCore s d := by
  simp [getCore, look_store, h.symm]

theorem setCore_setCore (s : State) (c : Nat) (x y : CoreSt) : setCore (setCore s c x) c y = setCore s c y := by
  simp [setCore, store_store]

@[simp] theorem getCore_post (s : State) (d : Nat) (e : Event) (c : Nat) : getCore (post s d e) c = getCore s c := rfl

@[simp] theorem getSub_post (s : State) (d : Nat) (e : Event) (c k : Nat) : getSub (post s d e) c k = getSub s c k := rfl

@[simp] theorem getCore_modSub (s : State) (c k : Nat) (f : SubSt → SubSt) :
    getCore (modSub s c k f) c = { getCore s c with subs := (getCore s c).subs.set k (f (getSub s c k)) } :=
  getCore_setCore ..

theorem getCore_modThr (s : State) (t : Thr) (f : ThrCtl → ThrCtl) :
    getCore (modThr s t f) t.core = { getCore s t.core with thr := store (getCore s t.core).thr t.row (f (getThr s t)) } :=
  getCore_setCore ..

/-- The subarrays of a core are there (R29). -/
def HasSub (s : State) (c k : Nat) : Prop := k < (getCore s c).subs.length

theorem State.Subarrays.hasSub {s : State} (h : s.Subarrays) (c : Nat) {k : Nat} (hk : k < 8) : HasSub s c k := by
  rwa [HasSub, h c]

theorem HasSub.modSub {s : State} {c k j : Nat} {f : SubSt → SubSt} (h : HasSub s c k) : HasSub (Machine.modSub s c j f) c k := by
  simpa [HasSub] using h

theorem getSub_modSub {s : State} {c k : Nat} (h : HasSub s c k) (f : SubSt → SubSt) :
    getSub (modSub s c k f) c k = f (getSub s c k) := by
  have hlen : k < (getCore s c).subs.length := h
  unfold getSub
  rw [getCore_modSub]
  simp [List.getD_eq_getElem?_getD, hlen, getSub]

theorem getSub_modSub_of_ne (s : State) (c : Nat) {j k : Nat} (h : j ≠ k) (f : SubSt → SubSt) :
    getSub (modSub s c k f) c j = getSub s c j := by
  unfold getSub
  rw [getCore_modSub]
  simp [List.getD_eq_getElem?_getD, List.getElem?_set_ne h.symm]

/-- A change of a subarray touches no thread. -/
@[simp] theorem getThr_modSub (s : State) (c k : Nat) (f : SubSt → SubSt) (t : Thr) : getThr (modSub s c k f) t = getThr s t := by
  unfold getThr
  by_cases h : t.core = c
  · rw [h, getCore_modSub]
  · rw [modSub, setSub, modCore, getCore_setCore_of_ne _ _ h]

@[simp] theorem getThr_modThr (s : State) (t : Thr) (f : ThrCtl → ThrCtl) : getThr (modThr s t f) t = f (getThr s t) := by
  rw [getThr, getCore_modThr]
  simp [look_store]

/-- A change of a thread's control data touches no subarray. -/
@[simp] theorem getSub_modThr (s : State) (t : Thr) (f : ThrCtl → ThrCtl) (c k : Nat) : getSub (modThr s t f) c k = getSub s c k := by
  unfold getSub
  by_cases h : c = t.core
  · rw [h, getCore_modThr]
  · rw [modThr, setThr, modCore, getCore_setCore_of_ne _ _ h]

/-! ### Refreshes that have fallen due -/

/-- Which refresh is due depends on the mode of a core and on the subarrays' own marks. -/
theorem refreshDue_congr {s t : State} {c : Nat} (hw : (getCore t c).wide = (getCore s c).wide)
    (hd : ∀ j, (getSub t c j).due = (getSub s c j).due) (k : Nat) : refreshDue t c k = refreshDue s c k := by
  simp only [refreshDue, hw, hd]

theorem due_modSub {s : State} {c k : Nat} {f : SubSt → SubSt} (hf : ∀ x, (f x).due = x.due) (j : Nat) :
    (getSub (modSub s c k f) c j).due = (getSub s c j).due := by
  by_cases hj : j = k
  · subst hj
    by_cases h : HasSub s c j
    · rw [getSub_modSub h, hf]
    · have hlen : (getCore s c).subs.length ≤ j := Nat.le_of_not_lt h
      simp [getSub, List.getD_eq_getElem?_getD, hlen]
  · rw [getSub_modSub_of_ne _ _ hj]

theorem refreshDue_modSub {s : State} {c k : Nat} {f : SubSt → SubSt} (hf : ∀ x, (f x).due = x.due) (j : Nat) :
    refreshDue (modSub s c k f) c j = refreshDue s c j :=
  refreshDue_congr (by rw [getCore_modSub]) (due_modSub hf) j

theorem refreshDue_modThr (s : State) (c row : Nat) (f : ThrCtl → ThrCtl) (k : Nat) :
    refreshDue (modThr s ⟨c, row⟩ f) c k = refreshDue s c k :=
  refreshDue_congr (congrArg CoreSt.wide (getCore_modThr s ⟨c, row⟩ f) :) (fun j => by rw [getSub_modThr]) k

theorem refreshErrors_cores (s : State) (core k : Nat) : (refreshErrors s core k).cores = s.cores :=
  List.foldlRecOn (motive := fun (t : State) => t.cores = s.cores) _ _ rfl fun _ h _ _ => by rw [touchWord_cores, h]

theorem refreshErrors_now (s : State) (core k : Nat) : (refreshErrors s core k).now = s.now :=
  List.foldlRecOn (motive := fun (t : State) => t.now = s.now) _ _ rfl fun _ h _ _ => by rw [touchWord_now, h]

theorem getCore_refreshErrors (s : State) (core k c : Nat) : getCore (refreshErrors s core k) c = getCore s c := by
  simp only [getCore, refreshErrors_cores, refreshErrors_now]

/-! ### The row's thread -/

/-- Where no reply and no command waits for the thread and no refresh has fallen due, the row stays as it was opened. -/
theorem rowOpened_quiet {s : State} {core k row : Nat} (hr : (getThr s ⟨core, row⟩).reply = none)
    (hc : (getThr s ⟨core, row⟩).cmds = []) (hd : refreshDue s core k = none) : rowOpened s core k row = s := by
  have hw : writeHeld s ⟨core, row⟩ = s := by simp [writeHeld, hr]
  have hcmds : runCmds s ⟨core, row⟩ = s := by simp [runCmds, hc]
  simp [rowOpened, hw, hcmds, refreshNow, hd]

end Sys2Proof.Machine

namespace Sys2Proof.Claims
open Machine

/-! ### What changes one core only -/

namespace CoreOnly

variable {s t : State} {core : Nat}

theorem refl (s : State) (core : Nat) : CoreOnly s s core := ⟨rfl, fun _ _ => rfl, rfl, rfl, rfl, rfl, rfl⟩

theorem setCore (h : CoreOnly s t core) {x : CoreSt} : CoreOnly s (Machine.setCore t core x) core :=
  { h with others := fun c hc => by rw [getCore_setCore_of_ne _ _ hc, h.others c hc] }

theorem modSub (h : CoreOnly s t core) {k : Nat} {f : SubSt → SubSt} : CoreOnly s (Machine.modSub t core k f) core := h.setCore

theorem modThr (h : CoreOnly s t core) {row : Nat} {f : ThrCtl → ThrCtl} : CoreOnly s (Machine.modThr t ⟨core, row⟩ f) core :=
  h.setCore

theorem post (h : CoreOnly s t core) {d : Nat} {e : Event} : CoreOnly s (Machine.post t d e) core := { h with }

theorem ite {c : Prop} [Decidable c] {u : State} (ht : CoreOnly s t core) (hu : CoreOnly s u core) :
    CoreOnly s (if c then t else u) core := by
  split
  · exact ht
  · exact hu

theorem touchWord (h : CoreOnly s t core) {a : Nat} : CoreOnly s (Machine.touchWord t a) core where
  mem := by rw [touchWord_mem, h.mem]
  others c hc := by simpa only [getCore, touchWord_cores, touchWord_now] using h.others c hc
  now := by rw [touchWord_now, h.now]
  tiles := by rw [touchWord_tiles, h.tiles]
  stackSt := by rw [touchWord_stacks, h.stackSt]
  reqs := by rw [touchWord_reqs, h.reqs]
  pairs := by rw [touchWord_pairs, h.pairs]

theorem refreshErrors (h : CoreOnly s t core) {k : Nat} : CoreOnly s (Machine.refreshErrors t core k) core :=
  List.foldlRecOn (motive := fun u => CoreOnly s u core) _ _ h fun _ hu _ _ => hu.touchWord

theorem spendCredits (h : CoreOnly s t core) {n : Nat} : CoreOnly s (Machine.spendCredits t core n) core := by
  unfold Machine.spendCredits
  exact .ite h.setCore.post h.setCore

theorem beginActivation (h : CoreOnly s t core) {k row : Nat} {p : Purpose} :
    CoreOnly s (Machine.beginActivation t core k row p) core :=
  h.spendCredits.modSub.post

theorem beginClose (h : CoreOnly s t core) {k row : Nat} {a : After} : CoreOnly s (Machine.beginClose t core k row a) core :=
  h.modSub.post

end CoreOnly

/-! ### Steps that are due -/

theorem dueIn_post {s t : State} (h : t.now = s.now) (n : Nat) (e : Event) : DueIn s (post t n e) n e :=
  mem_insertSched.2 (.inl (by rw [h]))

/-! ### The mode of a subarray -/

@[simp] theorem mode_post (s : State) (d : Nat) (e : Event) (c k : Nat) : mode (post s d e) c k = mode s c k := rfl

theorem mode_modSub {s : State} {c k : Nat} (h : HasSub s c k) (f : SubSt → SubSt) :
    mode (modSub s c k f) c k = (f (getSub s c k)).mode :=
  congrArg SubSt.mode (getSub_modSub h f)

end Sys2Proof.Claims
end

section
/-! PROOFS. Credits (R13, R36): an activation that nothing comes before begins once the credits for it are there. -/
namespace Sys2Proof.Machine
open Claims

theorem rowsOf_congr {c d : CoreSt} (hw : d.wide = c.wide) (row : Nat) : rowsOf d row = rowsOf c row := by
  simp only [rowsOf, hw]

/-! ### Credits that are promised -/

/-- Credits held for the activation that follows the close of one subarray (R36). -/
def keptFor (c : CoreSt) (x : SubSt) : Nat :=
  match x.mode with
  | .closing r .free => if x.kept then rowsOf c r else 0
  | _ => 0

theorem promised_eq (s : State) (core : Nat) :
    promised s core = ((List.range 7).map fun k => keptFor (getCore s core) (getSub s core k)).sum := rfl

theorem keptFor_congr {c d : CoreSt} (hw : d.wide = c.wide) (x : SubSt) : keptFor d x = keptFor c x := by
  simp only [keptFor, rowsOf_congr hw]

/-- A change of a subarray that keeps what is held for its close keeps what the core has promised. -/
theorem promised_modSub {s : State} {core k : Nat} {f : SubSt → SubSt} (hs : HasSub s core k)
    (hf : keptFor (getCore s core) (f (getSub s core k)) = keptFor (getCore s core) (getSub s core k)) :
    promised (modSub s core k f) core = promised s core := by
  have hw : (getCore (modSub s core k f) core).wide = (getCore s core).wide := by rw [getCore_modSub]
  rw [promised_eq, promised_eq]
  refine congrArg List.sum (List.map_congr_left fun j _ => ?_)
  rw [keptFor_congr hw]
  by_cases hj : j = k
  · rw [hj, getSub_modSub hs, hf]
  · rw [getSub_modSub_of_ne _ _ hj]

/-! ### Rows that wait for credits -/

/-- What a subarray that waits for credits adds to the core's waiting rows. -/
def waitingIn (k : Nat) : SubMode → Option Waiting
  | .waiting r p since => some (k, r, p, since)
  | _ => none

theorem creditWaits_eq (s : State) (core : Nat) :
    creditWaits s core = (List.range 7).filterMap fun k => waitingIn k (mode s core k) := rfl

theorem creditWaits_eq_nil {s : State} {core : Nat} :
    creditWaits s core = [] ↔ ∀ j < 7, waitingIn j (mode s core j) = none := by
  simp [creditWaits_eq, List.filterMap_eq_nil_iff]

theorem seqWaits_modSub (s : State) (core k : Nat) (f : SubSt → SubSt) (now : Nat) :
    seqWaits (getCore (modSub s core k f) core) now = seqWaits (getCore s core) now := by
  rw [getCore_modSub]
  rfl

/-- Nothing waits after a change of a subarray that does not make it wait. -/
theorem noneWaits_modSub {s : State} {core k : Nat} {f : SubSt → SubSt} (hs : HasSub s core k) (h : NoneWaits s core)
    (hf : waitingIn k (f (getSub s core k)).mode = none) : NoneWaits (modSub s core k f) core := by
  refine ⟨creditWaits_eq_nil.2 fun j hj => ?_, (seqWaits_modSub ..).trans h.2⟩
  by_cases hjk : j = k
  · rw [hjk, mode_modSub hs, hf]
  · rw [mode, getSub_modSub_of_ne _ _ hjk]
    exact creditWaits_eq_nil.1 h.1 j hj

/-- A row that begins to wait where nothing waits is the only one. -/
theorem creditWaits_modSub_waiting {s : State} {core k row since : Nat} {p : Purpose} (hk : k < 7) (hs : HasSub s core k)
    (h : NoneWaits s core) :
    creditWaits (modSub s core k fun x => { x with mode := .waiting row p since }) core = [(k, row, p, since)] := by
  have hone : ∀ j ∈ List.range 7, waitingIn j (mode (modSub s core k fun x => { x with mode := .waiting row p since }) core j) =
      if j = k then some (k, row, p, since) else none := fun j hj => by
    by_cases hjk : j = k
    · rw [hjk, mode_modSub hs, if_pos rfl]
      rfl
    · rw [mode, getSub_modSub_of_ne _ _ hjk, if_neg hjk]
      exact creditWaits_eq_nil.1 h.1 j (List.mem_range.1 hj)
  rw [creditWaits_eq, List.filterMap_congr hone]
  interval_cases k <;> rfl

/-! ### Granting -/

theorem grantCredits_none {s : State} {core : Nat} (h : NoneWaits s core) : grantCredits s core = s := by
  simp [grantCredits, h.1, h.2, firstWaiting]

/-- The only row that waits gets its credits where they are there, whatever its place in R36's order. -/
theorem grantCredits_one {s : State} {core : Nat} {w : Waiting} (h : creditWaits s core = [w])
    (hseq : seqWaits (getCore s core) s.now = false) :
    grantCredits s core =
      if creditsFor s core w.1 w.2.1 ≤ freeCredits s core then beginActivation s core w.1 w.2.1 w.2.2.1 else s := by
  unfold grantCredits
  by_cases h1 : creditClass s core w = 1
  · simp [h, h1, firstWaiting]
  · by_cases h2 : creditClass s core w = 2
    · simp [h, h2, hseq, firstWaiting]
    · simp [h, h1, h2, hseq, firstWaiting]

/-! ### Activations -/

theorem modSub_modSub {s : State} {core k : Nat} (hs : HasSub s core k) (f g : SubSt → SubSt) :
    modSub (modSub s core k f) core k g = modSub s core k (g ∘ f) := by
  conv_lhs => rw [modSub, setSub, modCore, getSub_modSub hs, getCore_modSub, modSub, setSub, modCore, setCore_setCore]
  simp [modSub, setSub, modCore]

theorem creditsFor_le (s : State) (core k row : Nat) : creditsFor s core k row ≤ rowsOf (getCore s core) row := by
  unfold creditsFor
  split
  · exact Nat.zero_le _
  · exact Nat.le_refl _

theorem creditsFor_modSub {s : State} {core k : Nat} {f : SubSt → SubSt} (hs : HasSub s core k)
    (hf : (f (getSub s core k)).free = (getSub s core k).free) (row : Nat) :
    creditsFor (modSub s core k f) core k row = creditsFor s core k row := by
  rw [creditsFor, creditsFor, getSub_modSub hs, hf, getCore_modSub]
  rfl

theorem modSub_post (s : State) (core k d : Nat) (e : Event) (f : SubSt → SubSt) :
    modSub (post s d e) core k f = post (modSub s core k f) d e := rfl

theorem modSub_setCore (s : State) (core k : Nat) (x : CoreSt) (f : SubSt → SubSt) :
    modSub (setCore s core x) core k f = setCore s core { x with subs := x.subs.set k (f (x.subs.getD k {})) } := by
  rw [modSub, setSub, modCore, setCore_setCore, getSub, getCore_setCore]

/-- A core that has spent n credits (R13, R31). -/
def spent (c : CoreSt) (n now : Nat) : CoreSt :=
  { c with credits := c.credits - n, actCount := c.actCount + BitVec.ofNat 64 n, lastAct := now,
           earnFrom := if c.credits = Config.maxCredits ∧ n ≠ 0 then now else c.earnFrom }

theorem spendCredits_eq (s : State) (core n : Nat) :
    spendCredits s core n =
      if (getCore s core).credits = Config.maxCredits ∧ n ≠ 0 then
        post (setCore s core (spent (getCore s core) n s.now)) Config.earnCycles (.creditEarned core)
      else setCore s core (spent (getCore s core) n s.now) := rfl

@[simp] theorem getCore_spendCredits (s : State) (core n : Nat) :
    getCore (spendCredits s core n) core = spent (getCore s core) n s.now := by
  rw [spendCredits_eq]
  split
  · rw [getCore_post, getCore_setCore]
  · rw [getCore_setCore]

theorem spendCredits_now (s : State) (core n : Nat) : (spendCredits s core n).now = s.now := by
  rw [spendCredits_eq]
  split <;> rfl

theorem HasSub.spendCredits {s : State} {core k : Nat} (h : HasSub s core k) (n : Nat) :
    HasSub (Machine.spendCredits s core n) core k := by
  rw [HasSub, getCore_spendCredits]
  exact h

/-- Spending credits and changing a subarray concern different fields of the core. -/
theorem modSub_spendCredits (s : State) (core k n : Nat) (f : SubSt → SubSt) :
    modSub (spendCredits s core n) core k f = spendCredits (modSub s core k f) core n := by
  have hset : modSub (setCore s core (spent (getCore s core) n s.now)) core k f =
      setCore (modSub s core k f) core (spent (getCore (modSub s core k f) core) n s.now) := by
    rw [modSub_setCore, getCore_modSub, modSub, setSub, modCore, setCore_setCore]
    rfl
  have hcredits : (getCore (modSub s core k f) core).credits = (getCore s core).credits := by rw [getCore_modSub]
  rw [spendCredits_eq, spendCredits_eq, hcredits]
  split
  · rw [modSub_post, hset]
    rfl
  · exact hset

/-- A row that waited is activated as one that did not. -/
theorem beginActivation_modSub_waiting {s : State} {core k row since : Nat} {p : Purpose} (hs : HasSub s core k) :
    beginActivation (modSub s core k fun x => { x with mode := .waiting row p since }) core k row p =
      beginActivation s core k row p := by
  have hcredits := creditsFor_modSub (f := fun x => { x with mode := .waiting row p since }) hs rfl row
  rw [beginActivation, hcredits, modSub_spendCredits, modSub_modSub hs, beginActivation, modSub_spendCredits]
  rfl

/-- An activation that nothing comes before waits only for want of credits (R36). Subarray 7 has no place in that order. -/
theorem wantActivation_alone {s : State} {core k row since : Nat} {p : Purpose} (hk : k < 7) (hs : HasSub s core k)
    (hw : NoneWaits s core) (hkept : keptFor (getCore s core) (getSub s core k) = 0) :
    wantActivation s core k row p since =
      if creditsFor s core k row = 0 ∨ creditsFor s core k row + promised s core ≤ (getCore s core).credits then
        beginActivation s core k row p
      else modSub s core k fun x => { x with mode := .waiting row p since } := by
  unfold wantActivation
  by_cases h0 : creditsFor s core k row = 0
  · rw [if_pos h0, if_pos (.inl h0)]
  have hwaits := creditWaits_modSub_waiting (row := row) (since := since) (p := p) hk hs hw
  have hfree : freeCredits (modSub s core k fun x => { x with mode := .waiting row p since }) core = freeCredits s core := by
    rw [freeCredits, promised_modSub hs (by rw [hkept]; rfl), getCore_modSub]
    rfl
  have hcredits := creditsFor_modSub (f := fun x => { x with mode := .waiting row p since }) hs rfl row
  rw [if_neg h0, grantCredits_one hwaits ((seqWaits_modSub ..).trans hw.2), hfree, beginActivation_modSub_waiting hs]
  refine if_congr ?_ rfl rfl
  dsimp only
  rw [hcredits, freeCredits]
  omega

theorem mode_beginActivation {s : State} {core k : Nat} (hs : HasSub s core k) (row : Nat) (p : Purpose) :
    mode (beginActivation s core k row p) core k = .activating row p := by
  rw [beginActivation, mode_post, mode_modSub (hs.spendCredits ..)]

end Sys2Proof.Machine
end

section
/-! PROOFS. Openings, credits and refresh (O26): what each step of the treadle does in the cases that the statement names. -/
namespace Sys2Proof.Machine
open Claims

/-! ### The step that is performed -/

theorem exec_rowActivation {s : State} {c k : Nat} (h : s.doing = some (.rowActivation c k)) :
    exec (Event.rowActivation c k).instr s = .next (rowActivation s c k) := by
  show execRowActivation s = _
  rw [execRowActivation, h]

theorem exec_outsideActivation {s : State} {c k : Nat} (h : s.doing = some (.outsideActivation c k)) :
    exec (Event.outsideActivation c k).instr s = .next (outsideActivation s c k) := by
  show execOutsideActivation s = _
  rw [execOutsideActivation, h]

theorem exec_borrowWindow {s : State} {c k : Nat} (h : s.doing = some (.borrowWindow c k)) :
    exec (Event.borrowWindow c k).instr s = .next (borrowWindow s c k) := by
  show execBorrowWindow s = _
  rw [execBorrowWindow, h]

theorem exec_creditEarned {s : State} {c : Nat} (h : s.doing = some (.creditEarned c)) :
    exec (Event.creditEarned c).instr s = .next (creditEarned s c) := by
  show execCreditEarned s = _
  rw [execCreditEarned, h]

theorem exec_refresh {s : State} {c k : Nat} (h : s.doing = some (.refresh c k)) :
    exec (Event.refresh c k).instr s = .next (refresh s c k) := by
  show execRefresh s = _
  rw [execRefresh, h]

theorem exec_refreshEnd {s : State} {c k : Nat} (h : s.doing = some (.refreshEnd c k)) :
    exec (Event.refreshEnd c k).instr s = .next (refreshEnd s c k) := by
  show execRefreshEnd s = _
  rw [execRefreshEnd, h]

/-! ### Beginnings -/

/-- An activation that begins is under way for 15 cycles (R12). -/
theorem beginActivation_begins {s u : State} {core k : Nat} (hu : CoreOnly s u core) (hs : HasSub u core k) (row : Nat) (p : Purpose) :
    mode (beginActivation u core k row p) core k = .activating row p ∧
      DueIn s (beginActivation u core k row p) 15 (.rowActivation core k) ∧ CoreOnly s (beginActivation u core k row p) core :=
  ⟨mode_beginActivation hs row p, dueIn_post ((spendCredits_now ..).trans hu.now) .., hu.beginActivation⟩

/-- A close that begins is under way for 15 cycles (R12). -/
theorem beginClose_begins {s u : State} {core k : Nat} (hu : CoreOnly s u core) (hs : HasSub u core k) (row : Nat) (a : After) :
    mode (beginClose u core k row a) core k = .closing row a ∧
      DueIn s (beginClose u core k row a) 15 (.rowClose core k) ∧ CoreOnly s (beginClose u core k row a) core :=
  ⟨by rw [beginClose, mode_post, mode_modSub hs], dueIn_post hu.now .., hu.beginClose⟩

/-! ### The vertical bus -/

theorem mem_agenda_applyIn (s : State) (core k d row : Nat) (a : QDo) :
    ⟨s.now + d, .local, 0, 0, .serve core k row a⟩ ∈ (applyIn s core k d row a).agenda :=
  mem_insertSched.2 (.inl rfl)

/-- Raising a request for the bus changes no more of the cores than the request of one row buffer. -/
structure RaisedBus (s t : State) (core k : Nat) : Prop where
  raised : (getSub t core k).bus = if (getSub s core k).bus = .none then .waiting else (getSub s core k).bus
  mode   : mode t core k = mode s core k
  oq     : (getCore t core).oq = (getCore s core).oq
  others : ∀ c, c ≠ core → getCore t c = getCore s c
  now    : t.now = s.now
  mem    : t.mem = s.mem
  reqs   : t.reqs = s.reqs
  agenda : ∀ x ∈ s.agenda, x ∈ t.agenda

theorem RaisedBus.of_sameCores {s t u : State} {core k : Nat} (h : RaisedBus s t core k) (hcores : u.cores = t.cores)
    (hnow : u.now = t.now) (hmem : u.mem = t.mem) (hreqs : u.reqs = t.reqs) (hagenda : ∀ x ∈ t.agenda, x ∈ u.agenda) :
    RaisedBus s u core k := by
  have hc : ∀ c, getCore u c = getCore t c := fun c => by rw [getCore, getCore, hcores, hnow]
  have hsub : getSub u core k = getSub t core k := by rw [getSub, getSub, hc]
  exact {
    raised := by rw [hsub, h.raised]
    mode := by rw [Claims.mode, hsub]; exact h.mode
    oq := by rw [hc, h.oq]
    others := fun c hne => by rw [hc, h.others c hne]
    now := hnow.trans h.now
    mem := hmem.trans h.mem
    reqs := hreqs.trans h.reqs
    agenda := fun x hx => hagenda x (h.agenda x hx) }

theorem RaisedBus.ite {c : Prop} [Decidable c] {s t u : State} {core k : Nat} (ht : RaisedBus s t core k)
    (hu : RaisedBus s u core k) : RaisedBus s (if c then t else u) core k := by
  split
  · exact ht
  · exact hu

theorem RaisedBus.putBus {s t : State} {core k : Nat} (h : RaisedBus s t core k) (bulk : Bool) (bytes : Nat) :
    RaisedBus s (Machine.putBus t core k bulk bytes) core k := by
  unfold Machine.putBus
  exact .ite (h.of_sameCores rfl rfl rfl rfl fun _ hx => hx)
    (h.of_sameCores rfl rfl rfl rfl fun _ hx => mem_insertSched.2 (.inr hx))

theorem raiseBus_raised {s : State} {core k : Nat} (hs : HasSub s core k) (bulk : Bool) (bytes : Nat) :
    RaisedBus s (raiseBus s core k bulk bytes) core k := by
  unfold raiseBus
  by_cases h : (getSub s core k).bus = .none
  · have hwaiting : RaisedBus s (modSub s core k fun x => { x with bus := .waiting }) core k := {
      raised := by rw [getSub_modSub hs, if_pos h]
      mode := by rw [mode_modSub hs]; rfl
      oq := by rw [getCore_modSub]
      others := ((CoreOnly.refl s core).modSub).others
      now := rfl, mem := rfl, reqs := rfl, agenda := fun _ h => h }
    rw [if_neg (not_not_intro h)]
    exact hwaiting.putBus bulk bytes
  · rw [if_pos h]
    exact ⟨by rw [if_neg h], rfl, rfl, fun _ _ => rfl, rfl, rfl, rfl, fun _ h => h⟩

/-! ### Activations (R11, R12, R17, R35, R79) -/

theorem rowActivation_opens {s : State} {core k row : Nat} (hs : HasSub s core k) (hm : mode s core k = .activating row .thread)
    (hq : Quiet s core row) :
    mode (rowActivation s core k) core k = .opened row ∧ (getThr (rowActivation s core k) ⟨core, row⟩).issued = 0 ∧
      CoreOnly s (rowActivation s core k) core := by
  obtain ⟨hreply, hcmds, hdue⟩ := hq
  have hopen : rowActivation s core k =
      modThr (modSub s core k fun x => { x with mode := .opened row }) ⟨core, row⟩ fun c => { c with issued := 0 } := by
    rw [mode] at hm
    simp only [rowActivation, hm]
    refine rowOpened_quiet (by simpa using hreply) (by simpa using hcmds) ?_
    rw [refreshDue_modThr]
    exact (refreshDue_modSub (f := fun x => { x with mode := .opened row }) (fun _ => rfl) k).trans (hdue k)
  rw [hopen]
  refine ⟨?_, by rw [getThr_modThr], (CoreOnly.refl s core).modSub.modThr⟩
  rw [mode, getSub_modThr, getSub_modSub hs]

theorem homeRow_congr {c d : CoreSt} (hw : d.wide = c.wide) (row : Nat) : homeRow d row = homeRow c row := by
  simp only [homeRow, hw]

/-- The first access of a queue is the one that is picked for its row. -/
theorem pick_forRow {c : CoreSt} {row : Nat} {q : QEnt} {l : List QEnt} (hoq : c.oq = q :: l) (hrow : q.row < 84)
    (hhome : homeRow c q.row = row) : pick (fun q => q.row < 84 && homeRow c q.row = row) c.oq = some (q, l) := by
  rw [hoq]
  simp [pick, hrow, hhome]

/-- The first access has been taken out of the queue for its row, which may serve n more. -/
def takenOut (s : State) (core k row : Nat) (b : Option Nat) (n : Nat) (l : List QEnt) : State :=
  modSub (setCore s core { getCore s core with oq := l }) core k fun x => { x with mode := .serving row b n }

theorem hasSub_takenOut {s : State} {core k : Nat} (hs : HasSub s core k) (row : Nat) (b : Option Nat) (n : Nat) (l : List QEnt) :
    HasSub (takenOut s core k row b n l) core k := by
  simpa [HasSub, takenOut] using hs

theorem oq_takenOut (s : State) (core k row : Nat) (b : Option Nat) (n : Nat) (l : List QEnt) :
    (getCore (takenOut s core k row b n l) core).oq = l := by
  rw [takenOut, getCore_modSub, getCore_setCore]

theorem mode_takenOut {s : State} {core k : Nat} (hs : HasSub s core k) (row : Nat) (b : Option Nat) (n : Nat) (l : List QEnt) :
    mode (takenOut s core k row b n l) core k = .serving row b n :=
  mode_modSub (by simpa [HasSub] using hs) _

theorem coreOnly_takenOut (s : State) (core k row : Nat) (b : Option Nat) (n : Nat) (l : List QEnt) :
    CoreOnly s (takenOut s core k row b n l) core :=
  (CoreOnly.refl s core).setCore.modSub

/-- The first access of the queue is under way at its row, which may serve n more: it takes 20 cycles and has asked for the bus
(R17, R79, R95). -/
structure ServesFirst (s t : State) (core k row : Nat) (b : Option Nat) (n : Nat) (q : QEnt) (l : List QEnt) : Prop where
  mode   : mode t core k = .serving row b n
  oq     : (getCore t core).oq = l
  bus    : (getSub t core k).bus ≠ .none
  due    : ⟨s.now + 20, .local, 0, 0, .serve core k q.row q.act⟩ ∈ t.agenda
  mem    : t.mem = s.mem
  reqs   : t.reqs = s.reqs
  others : ∀ c, c ≠ core → getCore t c = getCore s c

theorem serveNext_first {s : State} {core k row n : Nat} {b : Option Nat} {q : QEnt} {l : List QEnt} (hs : HasSub s core k)
    (hm : mode s core k = .serving row b (n + 1)) (hoq : (getCore s core).oq = q :: l) (hrow : q.row < 84)
    (hhome : homeRow (getCore s core) q.row = row) : ServesFirst s (serveNext s core k) core k row b n q l := by
  have hpick := pick_forRow hoq hrow hhome
  have hserve : serveNext s core k =
      applyIn (raiseBus (takenOut s core k row b n l) core k q.act.bulk q.act.bytes) core k Config.applyCycles q.row q.act := by
    rw [mode] at hm
    simp only [serveNext, hm, hpick]
    rfl
  have honly := coreOnly_takenOut s core k row b n l
  have hraised := raiseBus_raised (hasSub_takenOut hs row b n l) q.act.bulk q.act.bytes
  rw [hserve]
  exact {
    mode := hraised.mode.trans (mode_takenOut hs row b n l)
    oq := hraised.oq.trans (oq_takenOut ..)
    bus := fun h => by
      have hbus := hraised.raised.symm.trans h
      split at hbus
      · exact nomatch hbus
      · contradiction
    due := by
      rw [← honly.now, ← hraised.now]
      exact mem_agenda_applyIn ..
    mem := hraised.mem.trans honly.mem
    reqs := hraised.reqs.trans honly.reqs
    others := fun c hc => (hraised.others c hc).trans (honly.others c hc) }

theorem rowActivation_serves {s : State} {core k row : Nat} {b : Option Nat} {q : QEnt} {l : List QEnt} (hs : HasSub s core k)
    (hm : mode s core k = .activating row (.serve b)) (hoq : (getCore s core).oq = q :: l) (hrow : q.row < 84)
    (hhome : homeRow (getCore s core) q.row = row) : ServesFirst s (rowActivation s core k) core k row b 7 q l := by
  have hserve : rowActivation s core k =
      serveNext (modSub s core k fun x => { x with mode := .serving row b Config.windowAccesses }) core k := by
    rw [mode] at hm
    simp only [rowActivation, hm]
  have hfirst : ServesFirst _ _ core k row b 7 q l :=
    serveNext_first hs.modSub (mode_modSub hs fun x => { x with mode := .serving row b Config.windowAccesses })
      (by rw [getCore_modSub]; exact hoq) hrow ((homeRow_congr (by rw [getCore_modSub]) _).trans hhome)
  rw [hserve]
  exact { hfirst with others := fun c hc => (hfirst.others c hc).trans ((CoreOnly.refl s core).modSub.others c hc) }

theorem rowActivation_begins {s : State} {core k row : Nat} (hs : HasSub s core k) (hm : mode s core k = .closed)
    (ho : oldest s core k = none) (hn : nextRow s core k = some row) (hc : treadleCredit s core row = true) :
    mode (rowActivation s core k) core k = .activating row .thread ∧
      DueIn s (rowActivation s core k) 15 (.rowActivation core k) ∧ CoreOnly s (rowActivation s core k) core := by
  have hbegin : rowActivation s core k = beginActivation (modSub s core k fun x => { x with free := false }) core k row .thread := by
    rw [mode] at hm
    simp [rowActivation, hm, hn, ho, hc]
  rw [hbegin]
  exact beginActivation_begins (CoreOnly.refl s core).modSub hs.modSub row .thread

/-- Rows 0 to 83 stand in subarrays 0 to 6 (R29). -/
theorem subOf_lt_seven (c : CoreSt) {row : Nat} (h : row < 84) : subOf c row < 7 := by
  unfold subOf
  split <;> omega

theorem oldest_row {s : State} {core k : Nat} {q : QEnt} (h : oldest s core k = some q) :
    subOf (getCore s core) q.row = k ∧ q.row < 84 := by
  simpa [oldest] using List.find?_some h

theorem outsideActivation_begins {s : State} {core k : Nat} {q : QEnt} (hs : HasSub s core k) (hq : oldest s core k = some q)
    (hm : mode s core k = .closed) (hw : NoneWaits s core)
    (hc : rowsOf (getCore s core) (homeRow (getCore s core) q.row) + promised s core ≤ (getCore s core).credits) :
    mode (outsideActivation s core k) core k = .activating (homeRow (getCore s core) q.row) (.serve none) ∧
      DueIn s (outsideActivation s core k) 15 (.rowActivation core k) ∧ CoreOnly s (outsideActivation s core k) core := by
  obtain ⟨hsub, hrow⟩ := oldest_row hq
  have hk : k < 7 := hsub ▸ subOf_lt_seven _ hrow
  have hmode := hm
  rw [mode] at hmode
  have hkept : keptFor (getCore s core) (getSub s core k) = 0 := by rw [keptFor, hmode]
  have hbegin : outsideActivation s core k = beginActivation (modSub s core k fun x => { x with free := q.act.free }) core k
      (homeRow (getCore s core) q.row) (.serve none) := by
    simp only [outsideActivation, hmode, hq, openFor]
    rw [wantActivation_alone hk hs.modSub (noneWaits_modSub hs hw (by rw [hmode]; rfl)), if_pos]
    · right
      have hle := creditsFor_le (modSub s core k fun x => { x with free := q.act.free }) core k (homeRow (getCore s core) q.row)
      rw [promised_modSub hs rfl]
      rw [getCore_modSub] at hle ⊢
      exact (Nat.add_le_add_right hle _).trans hc
    · rw [getSub_modSub hs, keptFor, hmode]
  rw [hbegin]
  exact beginActivation_begins (CoreOnly.refl s core).modSub hs.modSub ..

theorem borrowWindow_closes {s : State} {core k r : Nat} {q : QEnt} (hs : HasSub s core k) (hq : oldestClosed s core k r = some q)
    (hm : mode s core k = .opened r) (hl : (getThr s ⟨core, r⟩).long = none) :
    mode (borrowWindow s core k) core k = .closing r (.activate (homeRow (getCore s core) q.row) (.serve (some r))) ∧
      DueIn s (borrowWindow s core k) 15 (.rowClose core k) ∧ CoreOnly s (borrowWindow s core k) core := by
  have hclose : borrowWindow s core k = beginClose (modSub s core k fun x => { x with free := q.act.free }) core k r
      (.activate (homeRow (getCore s core) q.row) (.serve (some r))) := by
    rw [mode] at hm
    simp [borrowWindow, hm, hq, atBoundary, hl]
  rw [hclose]
  exact beginClose_begins (CoreOnly.refl s core).modSub hs.modSub ..

/-! ### Accesses to an open row (R70, R95) -/

/-- The first access has left the queue, its row buffer has used its grant, and the access is applied. -/
def flushed (s : State) (core k : Nat) (q : QEnt) (l : List QEnt) : State :=
  applyIn (modSub (modCore s core fun c => { c with oq := l }) core k fun x => { x with bus := .none }) core k 0 q.row q.act

theorem getCore_flushed (s : State) (core k : Nat) (q : QEnt) (l : List QEnt) :
    getCore (flushed s core k q l) core =
      getCore (modSub (modCore s core fun c => { c with oq := l }) core k fun x => { x with bus := .none }) core := rfl

theorem oq_flushed (s : State) (core k : Nat) (q : QEnt) (l : List QEnt) : (getCore (flushed s core k q l) core).oq = l := by
  rw [getCore_flushed, getCore_modSub, modCore, getCore_setCore]

theorem hasSub_flushed {s : State} {core k : Nat} (hs : HasSub s core k) (q : QEnt) (l : List QEnt) :
    HasSub (flushed s core k q l) core k := by
  rw [HasSub, getCore_flushed]
  simpa [HasSub, modCore] using hs

/-- Once its request is granted, the first access is applied and its place in the queue is free. -/
theorem flushRow_granted {s : State} {core k : Nat} {mine : QEnt → Bool} {q : QEnt} {l : List QEnt} (hs : HasSub s core k)
    (hpick : pick mine (getCore s core).oq = some (q, l)) (hbus : (getSub s core k).bus = .granted) :
    (flushRow s core k mine).mem = s.mem ∧ (getCore (flushRow s core k mine) core).oq = l ∧
      ⟨s.now, .local, 0, 0, .serve core k q.row q.act⟩ ∈ (flushRow s core k mine).agenda := by
  have hflush : flushRow s core k mine = match l.find? mine with
      | some q' => raiseBus (flushed s core k q l) core k q'.act.bulk q'.act.bytes
      | none => flushed s core k q l := by
    simp only [flushRow, hpick, if_pos hbus]
    rfl
  have hdue : (⟨s.now, .local, 0, 0, .serve core k q.row q.act⟩ : Sched) ∈ (flushed s core k q l).agenda :=
    mem_agenda_applyIn (modSub (modCore s core fun c => { c with oq := l }) core k fun x => { x with bus := .none }) core k 0 q.row q.act
  rw [hflush]
  split
  · next q' _ =>
    have hraised := raiseBus_raised (hasSub_flushed hs q l) q'.act.bulk q'.act.bytes
    exact ⟨hraised.mem, hraised.oq.trans (oq_flushed ..), hraised.agenda _ hdue⟩
  · exact ⟨rfl, oq_flushed .., hdue⟩

/-- Until then it keeps its place, and its request waits. -/
theorem flushRow_waits {s : State} {core k : Nat} {mine : QEnt → Bool} {q : QEnt} {l : List QEnt} (hs : HasSub s core k)
    (hpick : pick mine (getCore s core).oq = some (q, l)) (hbus : (getSub s core k).bus ≠ .granted) :
    (flushRow s core k mine).mem = s.mem ∧ (getCore (flushRow s core k mine) core).oq = (getCore s core).oq ∧
      (getSub (flushRow s core k mine) core k).bus = .waiting := by
  have hraised := raiseBus_raised hs q.act.bulk q.act.bytes
  simp only [flushRow, hpick, if_neg hbus]
  refine ⟨hraised.mem, hraised.oq, hraised.raised.trans ?_⟩
  cases h : (getSub s core k).bus with
  | none | waiting => rfl
  | granted => exact absurd h hbus

theorem flushOpen_first {s : State} {core k r : Nat} {q : QEnt} {l : List QEnt} (hs : HasSub s core k)
    (hoq : (getCore s core).oq = q :: l) (hrow : q.row < 84) (hhome : homeRow (getCore s core) q.row = r)
    (hm : mode s core k = .opened r) (hl : (getThr s ⟨core, r⟩).long = none) :
    (flushOpen s core k).mem = s.mem ∧
      ((getSub s core k).bus = .granted → (getCore (flushOpen s core k) core).oq = l ∧
        ⟨s.now, .local, 0, 0, .serve core k q.row q.act⟩ ∈ (flushOpen s core k).agenda) ∧
      ((getSub s core k).bus ≠ .granted → (getCore (flushOpen s core k) core).oq = q :: l ∧
        (getSub (flushOpen s core k) core k).bus = .waiting) := by
  have hpick := pick_forRow hoq hrow hhome
  have hflush : flushOpen s core k = flushRow s core k fun q => q.row < 84 && homeRow (getCore s core) q.row = r := by
    rw [mode] at hm
    simp [flushOpen, hm, atBoundary, hl]
  rw [hflush, ← hoq]
  by_cases hbus : (getSub s core k).bus = .granted
  · obtain ⟨hmem, happlied⟩ := flushRow_granted hs hpick hbus
    exact ⟨hmem, fun _ => happlied, fun h => absurd hbus h⟩
  · obtain ⟨hmem, hwaits⟩ := flushRow_waits hs hpick hbus
    exact ⟨hmem, fun h => absurd h hbus, fun _ => hwaits⟩

/-! ### Credits (R13) and refresh (R15, R37) -/

/-- A core that has earned a credit. -/
def earned (s : State) (core : Nat) : State :=
  setCore s core { getCore s core with credits := (getCore s core).credits + 1, earnFrom := s.now }

theorem noneWaits_earned {s : State} {core : Nat} (hseq : (getCore s core).seq = none)
    (hw : ∀ j r p n, j < 7 → mode s core j ≠ .waiting r p n) : NoneWaits (earned s core) core := by
  have hmode : ∀ j, mode (earned s core) core j = mode s core j := fun j => by
    rw [mode, mode, getSub, earned, getCore_setCore]
    rfl
  refine ⟨creditWaits_eq_nil.2 fun j hj => ?_, ?_⟩
  · rw [hmode]
    cases h : mode s core j with
    | waiting r p n => exact absurd h (hw j r p n hj)
    | _ => rfl
  · rw [earned, getCore_setCore, seqWaits, hseq]

theorem creditEarned_earns {s : State} {core : Nat} (hc : (getCore s core).credits < 32) (hseq : (getCore s core).seq = none)
    (hw : ∀ j r p n, j < 7 → mode s core j ≠ .waiting r p n) :
    (getCore (creditEarned s core) core).credits = (getCore s core).credits + 1 ∧
      (getCore (creditEarned s core) core).earnFrom = s.now ∧ CoreOnly s (creditEarned s core) core ∧
      ((getCore s core).credits + 1 < 32 → DueIn s (creditEarned s core) 2048 (.creditEarned core)) := by
  have hearn : creditEarned s core =
      grantCredits (if (getCore s core).credits + 1 < 32 then post (earned s core) 2048 (.creditEarned core) else earned s core) core := by
    rw [creditEarned]
    exact if_pos hc
  have hwaits := noneWaits_earned hseq hw
  have honly : CoreOnly s (earned s core) core := (CoreOnly.refl s core).setCore
  have hcore : getCore (earned s core) core =
      { getCore s core with credits := (getCore s core).credits + 1, earnFrom := s.now } := getCore_setCore ..
  rw [hearn]
  by_cases h : (getCore s core).credits + 1 < 32
  · rw [if_pos h, grantCredits_none (s := post (earned s core) 2048 (.creditEarned core)) ⟨hwaits.1, hwaits.2⟩]
    exact ⟨by rw [getCore_post, hcore], by rw [getCore_post, hcore], honly.post, fun _ => dueIn_post rfl ..⟩
  · rw [if_neg h, grantCredits_none hwaits]
    exact ⟨by rw [hcore], by rw [hcore], honly, fun h' => absurd h' h⟩

/-- A subarray that a refresh has closed. -/
def inRefresh (s : State) (core k : Nat) (back : Option Nat) : State :=
  modSub (modSub s core k fun x => { x with mode := .refreshing back, hold := false }) core k fun x => { x with due := false }

theorem getSub_inRefresh {s : State} {core k : Nat} (hs : HasSub s core k) (back : Option Nat) :
    getSub (inRefresh s core k back) core k = { getSub s core k with mode := .refreshing back, hold := false, due := false } := by
  rw [inRefresh, getSub_modSub hs.modSub, getSub_modSub hs]

theorem refresh_eq {s : State} {core k : Nat} {back : Option Nat} (hh : refreshHome s core k = k)
    (h7 : k = 7 → (getThr s ⟨core, 84⟩).long = none)
    (hm : mode s core k = .closed ∧ back = none ∨
      ∃ r, mode s core k = .opened r ∧ (getThr s ⟨core, r⟩).long = none ∧ back = some r) :
    refresh s core k = post (refreshErrors (inRefresh s core k back) core k) 105 (.refreshEnd core k) := by
  obtain ⟨hm, rfl⟩ | ⟨r, hm, hl, rfl⟩ := hm
  · have hservice : (k = 7 && !atBoundary s ⟨core, 84⟩) = false := by
      by_cases hk : k = 7
      · simp [atBoundary, h7 hk]
      · simp [hk]
    rw [mode] at hm
    simp [refresh, hh, hm, hservice, inRefresh, Config.refreshCycles]
  · rw [mode] at hm
    simp [refresh, hh, hm, atBoundary, hl, inRefresh, Config.refreshCycles]

theorem refresh_begins {s : State} {core k : Nat} {back : Option Nat} (hs : HasSub s core k) (hh : refreshHome s core k = k)
    (h7 : k = 7 → (getThr s ⟨core, 84⟩).long = none)
    (hm : mode s core k = .closed ∧ back = none ∨
      ∃ r, mode s core k = .opened r ∧ (getThr s ⟨core, r⟩).long = none ∧ back = some r) :
    mode (refresh s core k) core k = .refreshing back ∧ DueIn s (refresh s core k) 105 (.refreshEnd core k) ∧
      CoreOnly s (refresh s core k) core ∧ (getCore (refresh s core k) core).credits = (getCore s core).credits ∧
      (getSub (refresh s core k) core k).due = false := by
  have hsub : getSub (refreshErrors (inRefresh s core k back) core k) core k =
      { getSub s core k with mode := .refreshing back, hold := false, due := false } := by
    rw [getSub, getCore_refreshErrors]
    exact getSub_inRefresh hs back
  have honly : CoreOnly s (refreshErrors (inRefresh s core k back) core k) core := (CoreOnly.refl s core).modSub.modSub.refreshErrors
  rw [refresh_eq hh h7 hm]
  refine ⟨by rw [mode_post, mode, hsub], dueIn_post honly.now .., honly.post, ?_, by rw [getSub_post, hsub]⟩
  rw [getCore_post, getCore_refreshErrors, inRefresh, getCore_modSub, getCore_modSub]

theorem refreshTick_due {s : State} {core k : Nat} (hs : HasSub s core k) (ha : (getCore s core).refAt ≤ s.now + 1)
    (hk : (getCore s core).refSub = k) :
    (getSub (refreshTick s core) core k).due = true ∧ (getCore (refreshTick s core) core).refSub = (k + 1) % 8 ∧
      (getCore (refreshTick s core) core).refAt =
        (getCore s core).refAt + (if (getStack s (stackOf core)).hot then 2100000 else 4200000) ∧
      CoreOnly s (refreshTick s core) core := by
  have htick : refreshTick s core = modSub (setCore s core
      { getCore s core with refAt := (getCore s core).refAt + refreshInterval s core, refSub := (k + 1) % 8 }) core k
        fun x => { x with due := true } := by
    subst hk
    exact if_pos ha
  rw [htick]
  refine ⟨?_, by rw [getCore_modSub, getCore_setCore], ?_, (CoreOnly.refl s core).setCore.modSub⟩
  · rw [getSub_modSub (by simpa [HasSub] using hs)]
  · rw [getCore_modSub, getCore_setCore]
    rfl

theorem refreshEnd_reopens {s : State} {core k r : Nat} (hs : HasSub s core k) (hm : mode s core k = .refreshing (some r))
    (hq : Quiet s core r) :
    mode (refreshEnd s core k) core k = .opened r ∧ CoreOnly s (refreshEnd s core k) core ∧
      (getCore (refreshEnd s core k) core).credits = (getCore s core).credits := by
  obtain ⟨hreply, hcmds, hdue⟩ := hq
  have hopen : refreshEnd s core k = modSub s core k fun x => { x with mode := .opened r } := by
    rw [mode] at hm
    simp only [refreshEnd, hm]
    refine rowOpened_quiet (by simpa using hreply) (by simpa using hcmds) ?_
    exact (refreshDue_modSub (f := fun x => { x with mode := .opened r }) (fun _ => rfl) k).trans (hdue k)
  rw [hopen]
  exact ⟨mode_modSub hs _, (CoreOnly.refl s core).modSub, by rw [getCore_modSub]⟩

theorem refreshEnd_closed {s : State} {core k : Nat} (hs : HasSub s core k) (hm : mode s core k = .refreshing none)
    (hoq : (getCore s core).oq = []) :
    mode (refreshEnd s core k) core k = .closed ∧ CoreOnly s (refreshEnd s core k) core ∧
      (getCore (refreshEnd s core k) core).credits = (getCore s core).credits := by
  have hclose : refreshEnd s core k = modSub s core k fun x => { x with mode := .closed } := by
    have hmode : (getSub (modSub s core k fun x => { x with mode := .closed }) core k).mode = .closed := mode_modSub hs _
    have hold : oldest (modSub s core k fun x => { x with mode := .closed }) core k = none := by
      rw [oldest, getCore_modSub]
      simp [hoq]
    rw [mode] at hm
    simp [refreshEnd, hm, kick, hmode, hold]
  rw [hclose]
  exact ⟨mode_modSub hs _, (CoreOnly.refl s core).modSub, by rw [getCore_modSub]⟩

end Sys2Proof.Machine

namespace Sys2Proof
open Machine

theorem rowActivations : Claims.RowActivations := by
  intro s core k h8 hk
  have hs := h8.hasSub core hk
  refine ⟨fun hd => ⟨fun row hm hq => ⟨_, exec_rowActivation hd, rowActivation_opens hs hm hq⟩, ?_, ?_⟩, ?_, ?_, ?_⟩
  · intro row b q l hm hoq hrow hhome
    have hserves := rowActivation_serves hs hm hoq hrow hhome
    exact ⟨_, exec_rowActivation hd, hserves.mode, hserves.oq, hserves.bus, hserves.due, hserves.mem, hserves.reqs, hserves.others⟩
  · exact fun r hm ho hn hc => ⟨_, exec_rowActivation hd, rowActivation_begins hs hm ho hn hc⟩
  · exact fun q hq hm hd hw hc => ⟨_, exec_outsideActivation hd, outsideActivation_begins hs hq hm hw hc⟩
  · exact fun q r hq hm hl hd => ⟨_, exec_borrowWindow hd, borrowWindow_closes hs hq hm hl⟩
  · exact fun q l r hoq hrow hhome hm hl => flushOpen_first hs hoq hrow hhome hm hl

theorem creditsAndRefresh : Claims.CreditsAndRefresh := by
  intro s core k h8 hk
  have hs := h8.hasSub core hk
  refine ⟨fun hd hc hseq hw => ⟨_, exec_creditEarned hd, creditEarned_earns hc hseq hw⟩,
    fun back hd hh h7 hm => ⟨_, exec_refresh hd, refresh_begins hs hh h7 hm⟩,
    fun ha hsub => refreshTick_due hs ha hsub, fun back hd hm hoq hq => ⟨_, exec_refreshEnd hd, ?_⟩⟩
  cases back with
  | none => exact refreshEnd_closed hs hm (hoq rfl)
  | some r => exact refreshEnd_reopens hs hm (hq r rfl)

/-- Settles O26: each step of the treadle has, in the case that the statement names, the effect that a lemma above gives it. -/
theorem rowOpening : Obligations.RowOpening := ⟨rowActivations, creditsAndRefresh⟩

end Sys2Proof
end

section
/-! PROOFS. Closes (O25): when a row is closed and what follows. The statement on closes takes in subarray 7, whose row buffer
serves the service row and the code rows: it has no place in R36's order of those that wait for credits, and there the statement fails. -/
namespace Sys2Proof.Machine
open Claims

/-! ### When the treadle closes a row (R35) -/

theorem exec_quantumExpiry {s : State} {c k : Nat} (h : s.doing = some (.quantumExpiry c k)) :
    exec (Event.quantumExpiry c k).instr s = .next (treadleShut s c k) := by
  show execQuantumExpiry s = _
  rw [execQuantumExpiry, h]

theorem exec_memParkExpiry {s : State} {c k : Nat} (h : s.doing = some (.memParkExpiry c k)) :
    exec (Event.memParkExpiry c k).instr s = .next (treadleShut s c k) := by
  show execMemParkExpiry s = _
  rw [execMemParkExpiry, h]

theorem exec_treadleClose {s : State} {c k : Nat} (h : s.doing = some (.treadleClose c k)) :
    exec (Event.treadleClose c k).instr s = .next (treadleShut s c k) := by
  show execTreadleClose s = _
  rw [execTreadleClose, h]

theorem exec_rowClose {s : State} {c k : Nat} (h : s.doing = some (.rowClose c k)) :
    exec (Event.rowClose c k).instr s = .next (rowClose s c k) := by
  show execRowClose s = _
  rw [execRowClose, h]

theorem treadleShut_closes {s : State} {core k r : Nat} (hs : HasSub s core k) (hm : mode s core k = .opened r)
    (hl : (getThr s ⟨core, r⟩).long = none) (hy : (getThr s ⟨core, r⟩).yielded = false) (hc : (closing s core k r).isSome) :
    mode (treadleShut s core k) core k = .closing r .free ∧ DueIn s (treadleShut s core k) 15 (.rowClose core k) ∧
      CoreOnly s (treadleShut s core k) core := by
  obtain ⟨hmode, hdue, honly⟩ := beginClose_begins (CoreOnly.refl s core) hs r .free
  have hs' : HasSub (beginClose s core k r .free) core k := by
    rw [HasSub, beginClose, getCore_post]
    exact hs.modSub
  have hshut : treadleShut s core k =
      if (nextRow s core k).isSome && treadleCredit s core r then
        modSub (beginClose s core k r .free) core k fun x => { x with kept := true }
      else beginClose s core k r .free := by
    rw [mode] at hm
    simp [treadleShut, hm, atBoundary, hl, hc, endYield, hy]
  rw [hshut]
  split
  · exact ⟨(mode_modSub hs' _).trans hmode, hdue, honly.modSub⟩
  · exact ⟨hmode, hdue, honly⟩

theorem treadleCredit_le {s : State} {core row : Nat} (h : treadleCredit s core row = true) :
    rowsOf (getCore s core) row + promised s core ≤ (getCore s core).credits := by
  have hpos : 0 < rowsOf (getCore s core) row := by
    unfold rowsOf
    split <;> decide
  rw [treadleCredit, Bool.and_eq_true] at h
  have hle : rowsOf (getCore s core) row ≤ (getCore s core).credits - promised s core := of_decide_eq_true h.1
  omega

/-- A RUN thread's row closes for a waiting row of higher PRIO, or, its quantum used, for one of equal PRIO (R35). -/
theorem closing_of_run {s : State} {core k r : Nat} (hrun : tstate s ⟨core, r⟩ = 2) (hc : (closing s core k r).isSome) :
    treadleCredit s core r = true ∧
      ((∃ x ∈ waitingRows s core k, prioOf s ⟨core, r⟩ < prioOf s ⟨core, x⟩) ∨
        (∃ x ∈ waitingRows s core k, prioOf s ⟨core, r⟩ = prioOf s ⟨core, x⟩) ∧
          quantumOf s ⟨core, r⟩ ≤ (getThr s ⟨core, r⟩).issued) := by
  by_cases hhigher : (treadleCredit s core r && (waitingRows s core k).any fun x => prioOf s ⟨core, r⟩ < prioOf s ⟨core, x⟩) = true
  · simp only [Bool.and_eq_true, List.any_eq_true, decide_eq_true_eq] at hhigher
    exact ⟨hhigher.1, .inl hhigher.2⟩
  · by_cases hequal : (treadleCredit s core r && (waitingRows s core k).any (fun x => prioOf s ⟨core, r⟩ = prioOf s ⟨core, x⟩) &&
        quantumOf s ⟨core, r⟩ ≤ (getThr s ⟨core, r⟩).issued) = true
    · simp only [Bool.and_eq_true, List.any_eq_true, decide_eq_true_eq] at hequal
      obtain ⟨⟨hcredit, hx⟩, hquantum⟩ := hequal
      exact ⟨hcredit, .inr ⟨hx, hquantum⟩⟩
    · simp [closing, hrun, hhigher, hequal, stRun, stDone, stCancelled, stFree, stAbsent] at hc

/-! ### A close in subarray 7 -/

/-- The module after reset, but that subarray 7 of core 0 closes, to be opened for row 84 afterwards, and the close ends now. -/
def seventhCloses : State :=
  modSub { State.reset with doing := some (.rowClose 0 7) } 0 7 fun x => { x with mode := .closing 84 (.activate 84 .thread) }

theorem subarrays_seventhCloses : seventhCloses.Subarrays := fun c => by
  by_cases hc : c = 0
  · rw [hc, seventhCloses, getCore_modSub]
    rfl
  · rw [seventhCloses, modSub, setSub, modCore, getCore_setCore_of_ne _ _ hc]
    rfl

theorem noneWaits_seventhCloses : NoneWaits seventhCloses 0 := ⟨rfl, rfl⟩

/-- One of the 32 credits is enough, and none is promised. -/
theorem credits_seventhCloses :
    rowsOf (getCore seventhCloses 0) 84 + promised seventhCloses 0 ≤ (getCore seventhCloses 0).credits := by decide

/-- The row waits all the same. -/
theorem mode_rowClose_seventhCloses : mode (rowClose seventhCloses 0 7) 0 7 = .waiting 84 .thread 0 := by decide

end Sys2Proof.Machine

namespace Sys2Proof
open Machine

/-- The first conjunct of O25 holds. -/
theorem treadleCloses : Claims.TreadleCloses := by
  intro s core k r h8 hk hm hl hy hc
  refine ⟨fun e he hd => ?_, fun hrun => ?_⟩
  · have hcloses := treadleShut_closes (h8.hasSub core hk) hm hl hy hc
    simp only [List.mem_cons, List.not_mem_nil, or_false] at he
    obtain rfl | rfl | rfl := he
    · exact ⟨_, exec_quantumExpiry hd, hcloses⟩
    · exact ⟨_, exec_memParkExpiry hd, hcloses⟩
    · exact ⟨_, exec_treadleClose hd, hcloses⟩
  · obtain ⟨hcredit, ⟨x, hx, hprio⟩ | ⟨⟨x, hx, hprio⟩, hquantum⟩⟩ := closing_of_run hrun hc
    · exact ⟨treadleCredit_le hcredit, x, hx, hprio.le, fun heq _ => absurd heq hprio.ne'⟩
    · exact ⟨treadleCredit_le hcredit, x, hx, hprio.le, fun _ _ => hquantum⟩

/-- Refutes O25: the statement on closes takes in subarray 7, but `creditWaits` lists subarrays 0 to 6 alone, so a row of subarray 7
that asks for a credit is given none: it waits with 32 credits there. Below subarray 7 such a row's activation begins, as
`wantActivation_alone` says, and the statement on when the treadle closes a row holds (`treadleCloses`). -/
theorem not_rowClosing : ¬ Obligations.RowClosing := by
  rintro ⟨-, hcloses⟩
  obtain ⟨-, hactivate, -⟩ := hcloses seventhCloses 0 7 84 subarrays_seventhCloses (by decide) rfl
  obtain ⟨t, ht, -, hbegins, -⟩ := hactivate 84 .thread rfl noneWaits_seventhCloses
  have hactivating := (hbegins (.inr credits_seventhCloses)).1
  obtain rfl : rowClose seventhCloses 0 7 = t := Host.Outcome.next.inj ((exec_rowClose rfl).symm.trans ht)
  rw [mode_rowClose_seventhCloses] at hactivating
  exact nomatch hactivating

end Sys2Proof
end

section
/-! PROOFS. Every step keeps the names of requests, the subarrays of cores, the places of pairs, and rest between steps (O58).

The four invariants are in six fields of the state. `Keeps s₀ s` says that s has whatever of them s₀ has, `KeepsIn` the same of the six
fields, and the lemmas on `KeepsIn` are the ways in which operations write them: requests are dropped or changed under their names
(`updateReqs`) and added under a new one (`addReq`), pairs end or change in their places (`updatePairs`), cores keep the number of
their subarrays (`setCore`, `updateCores`), and what a job is tried out with, or acts with, goes when that is over (`tried`, `acted`,
`traced`). From there on `Keeps.f` says of the operation `f`, in the model's order, that it keeps the structure: like
`State.Canonical.f` for memory, its proof follows the branches of `f` and cites the lemmas of what `f` calls. -/
set_option Elab.async false

namespace Sys2Proof.Machine

/-- Every follower stands on the core beside its leader's (R48). -/
def State.Partnered (s : State) : Prop := ∀ p ∈ s.pairs, p.follower = partnerOf p.leader

/-- A core that nothing has touched has its eight subarrays, whatever the cycle. -/
theorem look_subs_default {d e : CoreSt} (h : d.subs.length = e.subs.length) (l : List (Nat × CoreSt)) (n : Nat) :
    (look d l n).subs.length = (look e l n).subs.length := by
  induction l with
  | nil => exact h
  | cons x l ih =>
    simp only [look]
    split
    · rfl
    · exact ih

theorem State.subarrays_iff {s : State} : s.Subarrays ↔ ∀ c, (look {} s.cores c).subs.length = 8 :=
  forall_congr' fun c => by rw [getCore, look_subs_default (d := freshCore s.now) (e := {}) rfl]

/-- Whatever of the structure s₀ has, these six fields, which alone it is in, have it too. -/
def KeepsIn (s₀ : State) (nextReq : Nat) (reqs : List Req) (cores : List (Nat × CoreSt)) (pairs : List PairSt)
    (trace : Option (List (Nat × Bool))) (acting : Option Acting) : Prop :=
  (s₀.Named → 0 < nextReq ∧ ∀ r ∈ reqs, r.id < nextReq) ∧
  (s₀.Subarrays → ∀ c, (look {} cores c).subs.length = 8) ∧
  (s₀.Partnered → ∀ p ∈ pairs, p.follower = partnerOf p.leader) ∧
  (s₀.trace = none → trace = none) ∧ (s₀.acting = none → acting = none)

/-- Whatever of the structure s₀ has, s has it too. -/
def Keeps (s₀ s : State) : Prop := KeepsIn s₀ s.nextReq s.reqs s.cores s.pairs s.trace s.acting

/-- The next state of an outcome keeps the structure. -/
def NextKeeps (s₀ : State) : Out → Prop
  | .next s => Keeps s₀ s
  | .fault _ | .refused _ => True

theorem NextKeeps.andThen {s₀ : State} {o : Out} {f : State → State} (ho : NextKeeps s₀ o)
    (hf : ∀ {s}, Keeps s₀ s → Keeps s₀ (f s)) : NextKeeps s₀ (Machine.andThen o f) := by
  cases o with
  | next s => exact hf ho
  | fault | refused => trivial

theorem findReq_id {s : State} {id : Nat} {r : Req} (h : findReq s id = some r) : r.id = id := by
  simpa using List.find?_some h

theorem look_map_subs {f : Nat × CoreSt → Nat × CoreSt} (hf : ∀ x, (f x).1 = x.1 ∧ (f x).2.subs.length = x.2.subs.length)
    (l : List (Nat × CoreSt)) (n : Nat) : (look {} (l.map f) n).subs.length = (look {} l n).subs.length := by
  induction l with
  | nil => rfl
  | cons x l ih =>
    obtain ⟨k, c⟩ := x
    obtain ⟨hk, hc⟩ := hf (k, c)
    simp only [List.map_cons, look, hk]
    split
    · exact hc
    · exact ih

theorem length_subs_clearCore (c : CoreSt) : (clearCore c).subs.length = c.subs.length := List.length_map _

theorem length_subs_dropKernels (c : CoreSt) : (dropKernels c).subs.length = c.subs.length := List.length_map _

theorem length_subs_emptyCore (c : CoreSt) : (emptyCore c).subs.length = c.subs.length :=
  (length_subs_dropKernels (clearCore c)).trans (length_subs_clearCore c)

namespace Keeps

theorem refl (s : State) : Keeps s s := ⟨id, State.subarrays_iff.1, id, id, id⟩

/-- All of the structure holds after reset. -/
theorem reset (s₀ : State) : Keeps s₀ State.reset :=
  ⟨fun _ => ⟨Nat.one_pos, fun _ hr => nomatch hr⟩, fun _ _ => List.length_replicate, fun _ _ hp => (nomatch hp), fun _ => rfl,
    fun _ => rfl⟩

/-! ### The shapes that operations are made of -/

variable {s₀ : State}

theorem ite {c : Prop} [Decidable c] {s t : State} (hs : Keeps s₀ s) (ht : Keeps s₀ t) : Keeps s₀ (if c then s else t) := by
  split
  · exact hs
  · exact ht

theorem ite_fst {α : Type} {c : Prop} [Decidable c] {p q : State × α} (hp : Keeps s₀ p.1) (hq : Keeps s₀ q.1) :
    Keeps s₀ (if c then p else q).1 := by
  split
  · exact hp
  · exact hq

/-- For a result that is taken apart into a state and a value. -/
theorem of_fst {α : Type} {p : State × α} {s : State} {x : α} (e : p = (s, x)) (h : Keeps s₀ p.1) : Keeps s₀ s := by
  subst e
  exact h

theorem foldl {α : Type} {f : State → α → State} {l : List α} {s : State} (h : Keeps s₀ s)
    (hf : ∀ {s x}, Keeps s₀ s → Keeps s₀ (f s x)) : Keeps s₀ (l.foldl f s) :=
  l.foldlRecOn f h fun _ hs _ _ => hf hs

theorem foldl_fst {α β : Type} {f : State × β → α → State × β} {l : List α} {p : State × β} (h : Keeps s₀ p.1)
    (hf : ∀ {p x}, Keeps s₀ p.1 → Keeps s₀ (f p x).1) : Keeps s₀ (l.foldl f p).1 :=
  l.foldlRecOn (motive := fun p => Keeps s₀ p.1) f h fun _ hp _ _ => hf hp

/-! ### The six fields that the structure is in -/

/-- A record update keeps the structure where the fields that it writes, or keeps, do. -/
theorem update {now agenda cursor cur curWord doing delays fresh nextReq nextSeq trace acting mem empty poison bitErrs cores tiles
    stackSt reqs io pairs absent} (h : KeepsIn s₀ nextReq reqs cores pairs trace acting) :
    Keeps s₀ ⟨now, agenda, cursor, cur, curWord, doing, delays, fresh, nextReq, nextSeq, trace, acting, mem, empty, poison,
      bitErrs, cores, tiles, stackSt, reqs, io, pairs, absent⟩ :=
  h

/-- Requests may be dropped, and changed but for their names. -/
theorem updateReqs {s : State} (h : Keeps s₀ s) {l : List Req} (hl : ∀ r ∈ l, ∃ q ∈ s.reqs, r.id = q.id) :
    KeepsIn s₀ s.nextReq l s.cores s.pairs s.trace s.acting := by
  obtain ⟨hn, hrest⟩ := h
  refine ⟨fun h₀ => ?_, hrest⟩
  obtain ⟨hpos, hlt⟩ := hn h₀
  refine ⟨hpos, fun r hr => ?_⟩
  obtain ⟨q, hq, e⟩ := hl r hr
  exact e ▸ hlt q hq

/-- Pairs may end, and change but for their places. -/
theorem updatePairs {s : State} (h : Keeps s₀ s) {l : List PairSt}
    (hl : ∀ p ∈ l, p.follower = partnerOf p.leader ∨ ∃ q ∈ s.pairs, p.leader = q.leader ∧ p.follower = q.follower) :
    KeepsIn s₀ s.nextReq s.reqs s.cores l s.trace s.acting := by
  obtain ⟨hn, hs, hp, hrest⟩ := h
  refine ⟨hn, hs, fun h₀ p hp' => ?_, hrest⟩
  obtain e | ⟨q, hq, el, ef⟩ := hl p hp'
  · exact e
  · rw [el, ef]
    exact hp h₀ q hq

theorem filterPairs {s : State} (h : Keeps s₀ s) {f : PairSt → Bool} :
    KeepsIn s₀ s.nextReq s.reqs s.cores (s.pairs.filter f) s.trace s.acting :=
  h.updatePairs fun p hp => .inr ⟨p, (List.mem_filter.1 hp).1, rfl, rfl⟩

/-- A core may change, but for the number of its subarrays. -/
theorem setCore {s : State} (h : Keeps s₀ s) {c : Nat} {x : CoreSt}
    (hx : x.subs.length = (getCore s c).subs.length := by exact rfl) : Keeps s₀ (Machine.setCore s c x) := by
  obtain ⟨hn, hs, hrest⟩ := h
  refine ⟨hn, fun h₀ => (State.subarrays_iff (s := Machine.setCore s c x)).1 fun d => ?_, hrest⟩
  have hs := State.subarrays_iff.2 (hs h₀)
  by_cases hd : d = c
  · rw [hd, getCore_setCore, hx]
    exact hs c
  · rw [getCore_setCore_of_ne s x hd]
    exact hs d

theorem mapPairs {s : State} (h : Keeps s₀ s) {f : PairSt → PairSt}
    (hf : ∀ p, (f p).leader = p.leader ∧ (f p).follower = p.follower) :
    KeepsIn s₀ s.nextReq s.reqs s.cores (s.pairs.map f) s.trace s.acting :=
  h.updatePairs fun p hp => by
    obtain ⟨q, hq, rfl⟩ := List.mem_map.1 hp
    exact .inr ⟨q, hq, hf q⟩

/-- All cores may change, but for the numbers of their subarrays. -/
theorem updateCores {s : State} (h : Keeps s₀ s) {f : Nat × CoreSt → Nat × CoreSt}
    (hf : ∀ x, (f x).1 = x.1 ∧ (f x).2.subs.length = x.2.subs.length) :
    KeepsIn s₀ s.nextReq s.reqs (s.cores.map f) s.pairs s.trace s.acting := by
  obtain ⟨hn, hs, hrest⟩ := h
  exact ⟨hn, fun h₀ c => (look_map_subs hf s.cores c).trans (hs h₀ c), hrest⟩

/-- Where nothing is tried out, no trial begins. -/
theorem updateTrace {s : State} (h : Keeps s₀ s) {x : Option (List (Nat × Bool))} (hx : s.trace = none → x = none) :
    KeepsIn s₀ s.nextReq s.reqs s.cores s.pairs x s.acting := by
  obtain ⟨hn, hs, hp, ht, ha⟩ := h
  exact ⟨hn, hs, hp, hx ∘ ht, ha⟩

/-- Where no job's own step runs, none begins. -/
theorem updateActing {s : State} (h : Keeps s₀ s) {x : Option Acting} (hx : s.acting = none → x = none) :
    KeepsIn s₀ s.nextReq s.reqs s.cores s.pairs s.trace x := by
  obtain ⟨hn, hs, hp, ht, ha⟩ := h
  exact ⟨hn, hs, hp, ht, hx ∘ ha⟩

/-- What a job is tried out with goes with the trial. -/
theorem traced {s t : State} {x : Option (List (Nat × Bool))} (h : Keeps s₀ s) (ht : Keeps { s with trace := x } t) :
    Keeps s₀ { t with trace := none } := by
  obtain ⟨hn, hs, hp, -, ha⟩ := h
  obtain ⟨kn, ks, kp, -, ka⟩ := ht
  exact ⟨kn ∘ hn, ks ∘ State.subarrays_iff.2 ∘ hs, kp ∘ hp, fun _ => rfl, ka ∘ ha⟩

/-- What a job's own step works with goes with that step. -/
theorem acted {s t : State} {x : Option Acting} (h : Keeps s₀ s) (ht : Keeps { s with acting := x } t) :
    Keeps s₀ { t with acting := none } := by
  obtain ⟨hn, hs, hp, ht', -⟩ := h
  obtain ⟨kn, ks, kp, kt, -⟩ := ht
  exact ⟨kn ∘ hn, ks ∘ State.subarrays_iff.2 ∘ hs, kp ∘ hp, kt ∘ ht', fun _ => rfl⟩

theorem tried {s t : State} {x : Option (List (Nat × Bool))} {y : Option Acting} (h : Keeps s₀ s)
    (ht : Keeps { s with trace := x, acting := y } t) : Keeps s₀ { t with trace := none, acting := none } :=
  h.acted (traced (s := { s with acting := y }) (refl _) ht)

variable {s : State}
    {a cause cmd core dev entry g handle id k kind n part pc q req row slot srcTile sub tile w widx writer : Nat}
    {ref status v w0 w1 x : Word} {dst leader src t thr : Thr} {full pf wide : Bool} {subs tiles ws : List Nat}
    {key : BitVec 16} {c : Cause} {e : Event} {f : Feed} {m : InboxMsg} {word : InsnWord} {i : Instr} {j : Job} {l : LaunchSt}
    {hs : List (Nat × Home)} {bs : List Byte} {regs : List SReg} {o : Opd} {r : Req} {p : RowPkt} {d : SReg}

theorem putBytes (h : Keeps s₀ s) : Keeps s₀ (Machine.putBytes s a bs) := h

/-! ### The operations of Machine/Mem.lean -/

theorem setFull (h : Keeps s₀ s) : Keeps s₀ (Machine.setFull s a full) := h

theorem putWord (h : Keeps s₀ s) : Keeps s₀ (Machine.putWord s a x) := h.putBytes

theorem fillFE (h : Keeps s₀ s) : Keeps s₀ (Machine.fillFE s a n) := h

theorem putFull (h : Keeps s₀ s) : Keeps s₀ (Machine.putFull s a bs) := h.putBytes.fillFE

theorem zeroRow (h : Keeps s₀ s) : Keeps s₀ (Machine.zeroRow s core row) := h.putFull

theorem touchWord (h : Keeps s₀ s) : Keeps s₀ (Machine.touchWord s a) := by
  unfold Machine.touchWord
  split <;> exact h

theorem touch (h : Keeps s₀ s) : Keeps s₀ (Machine.touch s a n) := h.foldl fun h => h.touchWord

theorem copyRow (h : Keeps s₀ s) : Keeps s₀ (Machine.copyRow s src dst) := by
  unfold Machine.copyRow
  exact .update h.touch.putFull

theorem modCore (h : Keeps s₀ s) {c : Nat} {f : CoreSt → CoreSt}
    (hf : ∀ x, (f x).subs.length = x.subs.length := by exact fun _ => rfl) : Keeps s₀ (Machine.modCore s c f) :=
  h.setCore (hf _)

theorem setTile (h : Keeps s₀ s) {t : Nat} {x : TileSt} : Keeps s₀ (Machine.setTile s t x) := h

theorem modTile (h : Keeps s₀ s) {t : Nat} {f : TileSt → TileSt} : Keeps s₀ (Machine.modTile s t f) :=
  h.setTile

theorem setStack (h : Keeps s₀ s) {x : StackSt} : Keeps s₀ (Machine.setStack s k x) := h

theorem modStack (h : Keeps s₀ s) {f : StackSt → StackSt} : Keeps s₀ (Machine.modStack s k f) := h.setStack

theorem setThr (h : Keeps s₀ s) {x : ThrCtl} : Keeps s₀ (Machine.setThr s t x) := h.modCore

theorem modThr (h : Keeps s₀ s) {f : ThrCtl → ThrCtl} : Keeps s₀ (Machine.modThr s t f) := h.setThr

theorem setSub (h : Keeps s₀ s) {c : Nat} {x : SubSt} : Keeps s₀ (Machine.setSub s c k x) :=
  h.modCore fun _ => List.length_set

theorem modSub (h : Keeps s₀ s) {c : Nat} {f : SubSt → SubSt} : Keeps s₀ (Machine.modSub s c k f) := h.setSub

theorem setS (h : Keeps s₀ s) {n : SReg} : Keeps s₀ (Machine.setS s t n x) := by
  unfold Machine.setS
  exact .ite h h.putWord

theorem setV (h : Keeps s₀ s) {n : VReg} {x : Vec} : Keeps s₀ (Machine.setV s t n x) := h.putBytes

theorem setP (h : Keeps s₀ s) {n : PReg} {x : Pred} : Keeps s₀ (Machine.setP s t n x) := by
  unfold Machine.setP
  exact .ite h h.putBytes

theorem setC (h : Keeps s₀ s) : Keeps s₀ (Machine.setC s t n x) := h.putWord

theorem putOwn (h : Keeps s₀ s) : Keeps s₀ (Machine.putOwn s t a bs) := h.putBytes

/-! ### The operations of Machine/Ops.lean -/

theorem post (h : Keeps s₀ s) {d : Nat} : Keeps s₀ (Machine.post s d e) := h

theorem follow (h : Keeps s₀ s) : Keeps s₀ (Machine.follow s e) := h

theorem unpost (h : Keeps s₀ s) : Keeps s₀ (Machine.unpost s e) := h

theorem send (h : Keeps s₀ s) {cls : Cls} {src dst : Nat} {a : Act} :
    Keeps s₀ (Machine.send s cls src dst a) :=
  h

theorem setTState (h : Keeps s₀ s) : Keeps s₀ (Machine.setTState s t n) := h.setC

theorem setPc (h : Keeps s₀ s) : Keeps s₀ (Machine.setPc s t pc) := h.setC

theorem modPair (h : Keeps s₀ s) {f : PairSt → PairSt}
    (hf : ∀ p, (f p).leader = p.leader ∧ (f p).follower = p.follower := by exact fun _ => ⟨rfl, rfl⟩) :
    Keeps s₀ (Machine.modPair s leader f) := by
  refine .update (h.mapPairs fun p => ?_)
  split
  · exact hf p
  · exact ⟨rfl, rfl⟩

theorem modPart (h : Keeps s₀ s) {f : PartSt → PartSt} : Keeps s₀ (Machine.modPart s slot f) := h

theorem countLost (h : Keeps s₀ s) : Keeps s₀ (Machine.countLost s slot) := h.modPart

theorem toSupervisor (h : Keeps s₀ s) : Keeps s₀ (Machine.toSupervisor s srcTile slot w0 w1) := by
  unfold Machine.toSupervisor
  exact .ite h.countLost (.ite (.ite (.update h) h.countLost) (.ite h.countLost h.send))

theorem diversion (h : Keeps s₀ s) {tref : Word} {sender : BitVec 46} :
    Keeps s₀ (Machine.diversion s srcTile slot tref sub sender) :=
  h.toSupervisor

theorem leaveModule (h : Keeps s₀ s) {sender : BitVec 46} :
    Keeps s₀ (Machine.leaveModule s tile dev ref sender req e) :=
  h

theorem entryFails (h : Keeps s₀ s) : Keeps s₀ (Machine.entryFails s srcTile m sub) := by
  unfold Machine.entryFails
  dsimp only
  split
  · exact h.toSupervisor
  · exact h.countLost
  all_goals exact h.diversion

theorem toInbox (h : Keeps s₀ s) : Keeps s₀ (Machine.toInbox s srcTile m) := by
  unfold Machine.toInbox
  extract_lets +onlyGivenNames fail
  have hfail : ∀ {sub}, Keeps s₀ (fail sub) := .ite h.entryFails.send h.entryFails
  exact .ite (.ite h.leaveModule hfail) (.ite hfail h.send)

theorem dropReq (h : Keeps s₀ s) : Keeps s₀ (Machine.dropReq s id) :=
  .update (h.updateReqs fun r hr => ⟨r, List.mem_of_mem_filter hr, rfl⟩)

theorem modReq (h : Keeps s₀ s) {f : Req → Req} (hf : ∀ q, q.id = id → (f q).id = id := by exact fun _ e => e) :
    Keeps s₀ (Machine.modReq s id f) := by
  refine .update (h.updateReqs fun r hr => ?_)
  obtain ⟨q, hq, rfl⟩ := List.mem_map.1 hr
  refine ⟨q, hq, ?_⟩
  split
  · next e => exact (hf q e).trans e.symm
  · rfl

theorem addReq (h : Keeps s₀ s) : Keeps s₀ (Machine.addReq s r) := by
  obtain ⟨hn, hrest⟩ := h
  refine ⟨fun h₀ => ⟨Nat.succ_pos _, fun q hq => ?_⟩, hrest⟩
  obtain hq | hq := List.mem_append.1 hq
  · exact Nat.lt_succ_of_lt ((hn h₀).2 q hq)
  · rw [List.mem_singleton.1 hq]
    exact Nat.lt_succ_self _

theorem answer (h : Keeps s₀ s) {a : Ans} : Keeps s₀ (Machine.answer s srcTile id a) := by
  unfold Machine.answer
  split
  · exact h
  · exact h.send

theorem answerPkt (h : Keeps s₀ s) {a : Ans} : Keeps s₀ (Machine.answerPkt s p a) := by
  unfold Machine.answerPkt
  refine .ite ?_ h.answer
  split
  · exact .ite (.update h) h
  · exact h

theorem runCmds (h : Keeps s₀ s) : Keeps s₀ (Machine.runCmds s t) := by
  unfold Machine.runCmds
  exact .ite h (h.setThr.foldl fun h => h.post)

theorem modLaunch (h : Keeps s₀ s) {f : LaunchSt → LaunchSt} : Keeps s₀ (Machine.modLaunch s id f) := h

theorem threadEnded (h : Keeps s₀ s) {failed : Bool} : Keeps s₀ (Machine.threadEnded s t failed) := by
  unfold Machine.threadEnded
  split
  · exact h
  · exact .ite h.modLaunch.send h.modLaunch

theorem trapRecord (h : Keeps s₀ s) : Keeps s₀ (Machine.trapRecord s t cause word) := by
  unfold Machine.trapRecord
  exact .ite h.touchWord.toSupervisor h.touchWord.toInbox

theorem endHandler (h : Keeps s₀ s) : Keeps s₀ (Machine.endHandler s core) := by
  unfold Machine.endHandler
  exact .ite h.setCore h.setCore.post

theorem setFinfo (h : Keeps s₀ s) : Keeps s₀ (Machine.setFinfo s t cause word) := h.setC

theorem callCheckpoint (h : Keeps s₀ s) {p : PairSt} {n : Word} : Keeps s₀ (Machine.callCheckpoint s p n) :=
  h.modPair

theorem sideTrap (h : Keeps s₀ s) {p : PairSt} : Keeps s₀ (Machine.sideTrap s p t c) := by
  refine .callCheckpoint (h.modPair fun q => ?_)
  split <;> exact ⟨rfl, rfl⟩

theorem leaveReqs (h : Keeps s₀ s) : Keeps s₀ (Machine.leaveReqs s t) := by
  refine .update (h.updateReqs fun r hr => ?_)
  obtain ⟨q, hq, e⟩ := List.mem_filterMap.1 hr
  refine ⟨q, hq, ?_⟩
  split at e
  · split at e
    · exact Option.some.inj e ▸ rfl
    · exact nomatch e
  · exact Option.some.inj e ▸ rfl

theorem leaveAll (h : Keeps s₀ s) : Keeps s₀ (Machine.leaveAll s t) := h.modThr.leaveReqs.runCmds.threadEnded

theorem endThread (h : Keeps s₀ s) {record : Bool} : Keeps s₀ (Machine.endThread s t c word record) := by
  unfold Machine.endThread
  extract_lets +onlyGivenNames c7 prio s'
  have h' : Keeps s₀ s' := .ite h.trapRecord h
  refine .ite h'.putBytes.putBytes.endHandler ?_
  exact .leaveAll (.setFinfo (.setC (.setC (.ite h'.putBytes.putBytes h'.putBytes))))

theorem cancelSide (h : Keeps s₀ s) : Keeps s₀ (Machine.cancelSide s t c word) :=
  h.setTState.setC.setFinfo.leaveAll

theorem closePair (h : Keeps s₀ s) {p : PairSt} : Keeps s₀ (Machine.closePair s p) :=
  h.modPair.foldl fun h => h.post

theorem losePair (h : Keeps s₀ s) {p : PairSt} : Keeps s₀ (Machine.losePair s p word) :=
  h.trapRecord.cancelSide.cancelSide.closePair

theorem endPair (h : Keeps s₀ s) {p : PairSt} : Keeps s₀ (Machine.endPair s p word) :=
  h.endThread.endThread.closePair

theorem consumePoison (h : Keeps s₀ s) : Keeps s₀ (Machine.consumePoison s t word) := h.endThread

theorem ownPoison (h : Keeps s₀ s) : Keeps s₀ (Machine.ownPoison s t word) := by
  unfold Machine.ownPoison
  split
  · exact h.sideTrap
  · exact h.consumePoison

theorem applyTrap (h : Keeps s₀ s) {record : Bool} : Keeps s₀ (Machine.applyTrap s t c word record) := by
  unfold Machine.applyTrap
  extract_lets +onlyGivenNames s'
  have h' : Keeps s₀ s' := h.setFinfo
  refine .ite h'.toSupervisor.endHandler ?_
  extract_lets +onlyGivenNames s2 s3
  have h2 : Keeps s₀ s2 := h'.setTState.setC
  have h3 : Keeps s₀ s3 := h2.modThr
  exact .ite h3 (.ite h3.trapRecord.ownPoison h3.trapRecord)

theorem takeTrap (h : Keeps s₀ s) {c9 : Option Word} : Keeps s₀ (Machine.takeTrap s t c word c9) := by
  unfold Machine.takeTrap
  extract_lets +onlyGivenNames s'
  have h' : Keeps s₀ s' := by
    unfold s'
    split
    · exact h.setC
    · exact h
  split
  · exact h'.sideTrap
  · exact h'.applyTrap

theorem trapNow (h : Keeps s₀ s) : Keeps s₀ (Machine.trapNow s c) := h.takeTrap

theorem withRegs (h : Keeps s₀ s) {k : State → State} (hk : ∀ {s}, Keeps s₀ s → Keeps s₀ (k s)) :
    Keeps s₀ (Machine.withRegs s ws k) := by
  unfold Machine.withRegs
  exact .ite (h.foldl fun h => h.touchWord).ownPoison (hk (h.foldl fun h => h.touchWord))

theorem withChecked (h : Keeps s₀ s) {f : State → Option Cause} {k : State → State}
    (hk : ∀ {s}, Keeps s₀ s → Keeps s₀ (k s)) :
    Keeps s₀ (Machine.withChecked s ws f k) := by
  unfold Machine.withChecked
  extract_lets +onlyGivenNames s'
  have h' : Keeps s₀ s' := h.foldl fun h => h.touchWord
  split
  · exact h'.trapNow
  · exact .ite h'.ownPoison (hk h')

theorem withWords (h : Keeps s₀ s) {k : State → State} (hk : ∀ {s}, Keeps s₀ s → Keeps s₀ (k s)) :
    Keeps s₀ (Machine.withWords s ws k) := by
  unfold Machine.withWords
  exact .ite (h.foldl fun h => h.touchWord).ownPoison (hk (h.foldl fun h => h.touchWord))

theorem retiring (h : Keeps s₀ s) {w : InsnWord} {k : State → State}
    (hk : ∀ {s}, Keeps s₀ s → Keeps s₀ (k s)) :
    Keeps s₀ (Machine.retiring s t w k) := by
  unfold Machine.retiring
  exact .ite (h.foldl fun h => h.touchWord).ownPoison (hk (h.foldl fun h => h.touchWord))

theorem countRetired (h : Keeps s₀ s) : Keeps s₀ (Machine.countRetired s t pc v) := by
  unfold Machine.countRetired
  exact .ite h.setPc.setC.setC h.setPc.setC

theorem endStep (h : Keeps s₀ s) : Keeps s₀ (Machine.endStep s t) := by
  unfold Machine.endStep
  exact .ite (.modThr (.ite h.setTState h)) h

theorem endInterval (h : Keeps s₀ s) : Keeps s₀ (Machine.endInterval s t) := by
  unfold Machine.endInterval
  split
  · exact h
  · exact .ite h.callCheckpoint h

theorem retireTo (h : Keeps s₀ s) : Keeps s₀ (Machine.retireTo s t pc v) := h.countRetired.endStep.endInterval

theorem retire (h : Keeps s₀ s) : Keeps s₀ (Machine.retire s t v) := h.retireTo

theorem retirePlain (h : Keeps s₀ s) : Keeps s₀ (Machine.retirePlain s t) := h.retire

theorem retireS (h : Keeps s₀ s) : Keeps s₀ (Machine.retireS s t d x) := by
  unfold Machine.retireS
  exact .ite h.retirePlain h.setS.retire

theorem retireV (h : Keeps s₀ s) {d : VReg} {x : Vec} : Keeps s₀ (Machine.retireV s t d x) := h.setV.retire

theorem retireP (h : Keeps s₀ s) {d : PReg} {x : Pred} : Keeps s₀ (Machine.retireP s t d x) := by
  unfold Machine.retireP
  exact .ite h.retirePlain h.setP.retire

theorem raise (h : Keeps s₀ s) {f : Word} : Keeps s₀ (Machine.raise s t f) := by
  unfold Machine.raise
  exact .ite h h.setC

theorem park (h : Keeps s₀ s) {detail : Word} : Keeps s₀ (Machine.park s t kind cause detail) :=
  h.setTState.setC.modThr

theorem unpark (h : Keeps s₀ s) : Keeps s₀ (Machine.unpark s t) := h.setTState.setC

/-! ### The operations of Machine/Rows.lean -/

theorem touchFrame (h : Keeps s₀ s) {f : Thr} : Keeps s₀ (Machine.touchFrame s f) := by
  unfold Machine.touchFrame
  exact .ite h.touch h

theorem setFrame (h : Keeps s₀ s) {gen use : Nat} {cache : Bool} :
    Keeps s₀ (Machine.setFrame s core row handle sub gen use cache) :=
  h.putWord.putWord

theorem noteFree (h : Keeps s₀ s) : Keeps s₀ (Machine.noteFree s core) := by
  unfold Machine.noteFree
  exact .ite h.modCore (.update h.modCore.post)

theorem copyThread (h : Keeps s₀ s) {a b : Thr} : Keeps s₀ (Machine.copyThread s wide a b) := by
  unfold Machine.copyThread
  exact .ite h.copyRow.copyRow h.copyRow

theorem makePair (h : Keeps s₀ s) : Keeps s₀ (Machine.makePair s wide t) := by
  unfold Machine.makePair
  extract_lets +onlyGivenNames f s1 s2 s3 s4
  have h4 : Keeps s₀ s4 := h.copyThread.setC.setThr.copyThread.copyThread
  refine .noteFree (.noteFree (.update (h4.updatePairs fun p hp => ?_)))
  obtain hp | hp := List.mem_append.1 hp
  · exact .inr ⟨p, hp, rfl, rfl⟩
  · rw [List.mem_singleton.1 hp]
    exact .inl rfl

theorem putBus (h : Keeps s₀ s) {bulk : Bool} {bytes : Nat} :
    Keeps s₀ (Machine.putBus s core k bulk bytes) := by
  unfold Machine.putBus
  exact .ite h.modTile (.update h.modTile)

theorem raiseBus (h : Keeps s₀ s) {bulk : Bool} {bytes : Nat} :
    Keeps s₀ (Machine.raiseBus s core k bulk bytes) := by
  unfold Machine.raiseBus
  exact .ite h h.modSub.putBus

theorem busGranted (h : Keeps s₀ s) {a : Option BusReq} : Keeps s₀ (Machine.busGranted s a) := by
  unfold Machine.busGranted
  split
  · exact h
  · exact .ite h.modSub h

theorem busCycle (h : Keeps s₀ s) {col : Nat} : Keeps s₀ (Machine.busCycle s tile col) := by
  unfold Machine.busCycle
  exact .ite h.modTile.busGranted.busGranted (.update h.modTile.busGranted.busGranted)

theorem spendCredits (h : Keeps s₀ s) : Keeps s₀ (Machine.spendCredits s core n) := by
  unfold Machine.spendCredits
  exact .ite h.setCore.post h.setCore

theorem beginActivation (h : Keeps s₀ s) {p : Purpose} : Keeps s₀ (Machine.beginActivation s core k row p) :=
  h.spendCredits.modSub.post

theorem beginClose (h : Keeps s₀ s) {a : After} : Keeps s₀ (Machine.beginClose s core k row a) :=
  h.modSub.post

theorem grantCredits (h : Keeps s₀ s) : Keeps s₀ (Machine.grantCredits s core) := by
  unfold Machine.grantCredits
  extract_lets +onlyGivenNames c waits start
  have hstart : ∀ {w}, Keeps s₀ (start w) := .ite h.beginActivation h
  split
  · exact hstart
  · dsimp only
    split
    · exact .ite h.post hstart
    · refine .ite h.post ?_
      split
      · exact hstart
      · exact h

theorem wantActivation (h : Keeps s₀ s) {p : Purpose} {since : Nat} :
    Keeps s₀ (Machine.wantActivation s core k row p since) := by
  unfold Machine.wantActivation
  exact .ite h.beginActivation h.modSub.grantCredits

theorem kick (h : Keeps s₀ s) : Keeps s₀ (Machine.kick s core k) := by
  unfold Machine.kick
  split
  · exact .ite h.post h
  · exact .ite h.post h
  · exact .ite h.modSub.post h
  · exact h

theorem joinQueue (h : Keeps s₀ s) {a : QDo} : Keeps s₀ (Machine.joinQueue s core row a) := h.setCore.kick

theorem ingress (h : Keeps s₀ s) {a : QDo} : Keeps s₀ (Machine.ingress s core row a) := by
  unfold Machine.ingress
  exact .ite (.ite (.update h.setCore.post) h.setCore) (.ite h.setCore h.joinQueue)

theorem useGranules (h : Keeps s₀ s) {gs : List Nat} : Keeps s₀ (Machine.useGranules s tile gs) := h.modTile

theorem admitCached (h : Keeps s₀ s) : Keeps s₀ (Machine.admitCached s core row a n e) :=
  h.useGranules.follow.foldl fun h => h.ingress

theorem arrive (h : Keeps s₀ s) : Keeps s₀ (Machine.arrive s core row e) := by
  unfold Machine.arrive
  refine .ite h.modStack ?_
  split
  · exact .ite h.admitCached h.ingress
  · exact h.ingress

theorem admitHeld {l : List (Nat × QDo)} (h : Keeps s₀ s) : Keeps s₀ (Machine.admitHeld s core l) := by
  induction l generalizing s with
  | nil => exact h.modCore
  | cons x l ih => exact .ite h.modCore (ih h.joinQueue)

theorem applyIn (h : Keeps s₀ s) {d : Nat} {a : QDo} : Keeps s₀ (Machine.applyIn s core k d row a) := h

theorem flushRow (h : Keeps s₀ s) {mine : QEnt → Bool} : Keeps s₀ (Machine.flushRow s core k mine) := by
  unfold Machine.flushRow
  split
  · exact h
  · refine .ite ?_ h.raiseBus
    dsimp only
    split
    · exact h.modCore.modSub.applyIn.raiseBus
    · exact h.modCore.modSub.applyIn

theorem flushOpen (h : Keeps s₀ s) : Keeps s₀ (Machine.flushOpen s core k) := by
  unfold Machine.flushOpen
  split
  · exact .ite h.flushRow h
  · exact h

theorem flushService (h : Keeps s₀ s) : Keeps s₀ (Machine.flushService s core) := h.flushRow

theorem serveNext (h : Keeps s₀ s) : Keeps s₀ (Machine.serveNext s core k) := by
  unfold Machine.serveNext
  dsimp only
  split
  · split
    · exact h.setCore.modSub.raiseBus.applyIn
    · exact h.beginClose
  · exact h.beginClose
  · exact h

theorem serveGranted (h : Keeps s₀ s) : Keeps s₀ (Machine.serveGranted s core k) := by
  unfold Machine.serveGranted
  split
  · exact h.modSub
  · exact h.modSub
  · exact h

theorem openFor (h : Keeps s₀ s) {q : QEnt} {back : Option Nat} :
    Keeps s₀ (Machine.openFor s core k q back) :=
  h.modSub.wantActivation

theorem outsideActivation (h : Keeps s₀ s) : Keeps s₀ (Machine.outsideActivation s core k) := by
  unfold Machine.outsideActivation
  split
  · exact h.openFor
  · exact h

theorem borrowWindow (h : Keeps s₀ s) : Keeps s₀ (Machine.borrowWindow s core k) := by
  unfold Machine.borrowWindow
  split
  · split
    · exact .ite h.modSub.beginClose h
    · exact h
  · exact h

theorem creditEarned (h : Keeps s₀ s) : Keeps s₀ (Machine.creditEarned s core) := by
  unfold Machine.creditEarned
  exact .ite (.grantCredits (.ite h.setCore.post h.setCore)) h

theorem refreshTick (h : Keeps s₀ s) : Keeps s₀ (Machine.refreshTick s core) := by
  unfold Machine.refreshTick
  exact .ite h.setCore.modSub h

theorem refreshErrors (h : Keeps s₀ s) : Keeps s₀ (Machine.refreshErrors s core k) :=
  h.foldl fun h => h.touchWord

theorem refresh (h : Keeps s₀ s) : Keeps s₀ (Machine.refresh s core k) := by
  unfold Machine.refresh
  dsimp only
  split
  · exact .ite h h.modSub.modSub.refreshErrors.post
  · exact h.modSub.modSub.refreshErrors.post
  · exact h.modSub.modSub.refreshErrors.post
  · exact .ite h.modSub.modSub.refreshErrors.post h
  · exact h

theorem refreshNow (h : Keeps s₀ s) : Keeps s₀ (Machine.refreshNow s core k) := by
  unfold Machine.refreshNow
  split
  · exact h.refresh
  · exact h

theorem completeYield (h : Keeps s₀ s) : Keeps s₀ (Machine.completeYield s t) :=
  h.modThr.unpark.retiring fun h => h.retirePlain

theorem endYield (h : Keeps s₀ s) : Keeps s₀ (Machine.endYield s t) := by
  unfold Machine.endYield
  exact .ite h.completeYield h

theorem treadleShut (h : Keeps s₀ s) : Keeps s₀ (Machine.treadleShut s core k) := by
  unfold Machine.treadleShut
  split
  · exact .ite (.ite h.endYield.beginClose.modSub h.endYield.beginClose) h
  · exact h

theorem holdForTreadle (h : Keeps s₀ s) : Keeps s₀ (Machine.holdForTreadle s t) := by
  unfold Machine.holdForTreadle
  exact .ite h.modSub h

theorem treadleSub (h : Keeps s₀ s) : Keeps s₀ (Machine.treadleSub s core k) := by
  unfold Machine.treadleSub
  dsimp only
  split
  · refine .ite h ?_
    split
    · exact .post (.ite h.modSub h)
    · exact .ite h.modSub h
  · split
    · exact h.post
    · refine .ite h.post ?_
      split
      · exact .ite h.post h
      · exact h
  · split
    · exact h.post
    · exact h
  · split
    · exact h.post
    · exact h
  all_goals exact h

theorem treadle (h : Keeps s₀ s) : Keeps s₀ (Machine.treadle s core) := by
  unfold Machine.treadle
  extract_lets +onlyGivenNames s1 s2 s3 s4 s5 s6
  have h1 : Keeps s₀ s1 := h.refreshTick
  have h2 : Keeps s₀ s2 := .ite h1 h1.admitHeld
  have h3 : Keeps s₀ s3 := .ite h2 (h2.foldl fun h => h.flushOpen).flushService
  have h4 : Keeps s₀ s4 := h3.foldl fun h => h.treadleSub
  have h5 : Keeps s₀ s5 := .ite h4 h4.grantCredits
  have h6 : Keeps s₀ s6 := .ite h5.post h5
  exact .ite h6.post h6

theorem afterClose (h : Keeps s₀ s) {kept : Bool} : Keeps s₀ (Machine.afterClose s core k kept) := by
  unfold Machine.afterClose
  refine .ite h.refreshNow ?_
  split
  · exact h.openFor
  · split
    · exact .ite h.modSub.beginActivation h.modSub.wantActivation
    · exact h

theorem rowClose (h : Keeps s₀ s) : Keeps s₀ (Machine.rowClose s core k) := by
  unfold Machine.rowClose
  split
  · dsimp only
    split
    · exact h.modSub.afterClose
    · exact h.modSub.afterClose
    · exact h.modSub.wantActivation
    · exact h.modSub.modSub
    · exact h.modSub.modSub
  · exact h

theorem coreGate (h : Keeps s₀ s) : Keeps s₀ (Machine.coreGate s core) := by
  unfold Machine.coreGate
  exact .ite h.unpost.modCore h

theorem coreWake (h : Keeps s₀ s) : Keeps s₀ (Machine.coreWake s core) := h.setCore.admitHeld

theorem wakeCore (h : Keeps s₀ s) : Keeps s₀ (Machine.wakeCore s core) := by
  unfold Machine.wakeCore
  exact .ite h.coreWake h

theorem yieldTurn (h : Keeps s₀ s) : Keeps s₀ (Machine.yieldTurn s core) := by
  unfold Machine.yieldTurn
  refine .ite h ?_
  split
  · exact .ite h.completeYield h
  · exact h

theorem noteIssue (h : Keeps s₀ s) : Keeps s₀ (Machine.noteIssue s t) := h.modThr

/-! ### The operations of Machine/Operands.lean -/

theorem setVMasked (h : Keeps s₀ s) {d : VReg} {x : Vec} {m : Pred} :
    Keeps s₀ (Machine.setVMasked s t d x m) := by
  unfold Machine.setVMasked
  exact h.foldl fun h => .ite h.putBytes (h.foldl fun h => .ite h.putBytes h)

theorem retireSF (h : Keeps s₀ s) {f : Word} : Keeps s₀ (Machine.retireSF s t d x f) := h.raise.retireS

theorem withFlags (h : Keeps s₀ s) {f : Word} {k : State → State} (hk : ∀ {s}, Keeps s₀ s → Keeps s₀ (k s)) :
    Keeps s₀ (Machine.withFlags s f k) := by
  unfold Machine.withFlags
  exact .ite (hk h) (h.withWords hk)

theorem startLong (h : Keeps s₀ s) {cycles : Nat} {w : RegWrite} {f : Word} :
    Keeps s₀ (Machine.startLong s cycles w f) :=
  h.modThr.post

theorem finishF (h : Keeps s₀ s) {r : FRes} {long : Option Nat} : Keeps s₀ (Machine.finishF s d r long) := by
  unfold Machine.finishF
  split
  · exact h.retireSF
  · exact h.startLong

theorem finishV (h : Keeps s₀ s) {d : VReg} {E : Nat} {g : Pred} {l : List FRes} :
    Keeps s₀ (Machine.finishV s d E g l) :=
  h.withFlags fun h => h.raise.setVMasked.retire

theorem finishVLong (h : Keeps s₀ s) {d : VReg} {E : Nat} {g : Pred} {cycles : Nat} {l : List FRes} :
    Keeps s₀ (Machine.finishVLong s d E g cycles l) :=
  h.startLong

/-! ### The operations of Machine/Control.lean -/

theorem retireAt (h : Keeps s₀ s) : Keeps s₀ (Machine.retireAt s t pc) := h.retireTo

theorem callTo (h : Keeps s₀ s) : Keeps s₀ (Machine.callTo s d pc) := by
  unfold Machine.callTo
  exact .ite h.retireAt h.setS.retireTo

theorem withOwn (h : Keeps s₀ s) {a : SReg} {o : Int} {store : Bool} {k : State → Nat → State}
    (hk : ∀ {s x}, Keeps s₀ s → Keeps s₀ (k s x)) :
    Keeps s₀ (Machine.withOwn s a o n store k) :=
  h.withChecked fun h => hk h

theorem longDone (h : Keeps s₀ s) : Keeps s₀ (Machine.longDone s t) := by
  unfold Machine.longDone
  split
  · exact h
  · extract_lets +onlyGivenNames s1 s2
    have h1 : Keeps s₀ s1 := h.modThr
    have h2 : Keeps s₀ s2 := .ite h1 h1.raise
    split
    · exact h2.retirePlain
    · exact h2.retireS
    · exact h2.setVMasked.retire

/-! ### The operations of Machine/Vector.lean -/

theorem finishP (h : Keeps s₀ s) {d : PReg} {x : Pred} {f : Word} : Keeps s₀ (Machine.finishP s d x f) :=
  h.withFlags fun h => h.raise.retireP

/-! ### The operations of Machine/Records.lean -/

theorem meetRecord (h : Keeps s₀ s) : Keeps s₀ (Machine.meetRecord s slot w) := by
  unfold Machine.meetRecord
  exact .ite h (h.foldl fun h => h.touchWord)

/-! ### The operations of Machine/Fetch.lean -/

theorem openCodeRow (h : Keeps s₀ s) : Keeps s₀ (Machine.openCodeRow s core row) := by
  unfold Machine.openCodeRow
  exact .ite h h.modCore.post

theorem codeRowOpened (h : Keeps s₀ s) : Keeps s₀ (Machine.codeRowOpened s core row) := by
  unfold Machine.codeRowOpened
  exact (h.modCore fun c => by split <;> rfl).foldl fun h => .ite h h.modThr

theorem fillCodeRow (h : Keeps s₀ s) : Keeps s₀ (Machine.fillCodeRow s core handle part) := by
  unfold Machine.fillCodeRow
  split
  · exact h
  · split
    · exact h
    · exact .update h.setCore.touch.putFull

theorem codeRowFilled (h : Keeps s₀ s) : Keeps s₀ (Machine.codeRowFilled s core handle part) := by
  unfold Machine.codeRowFilled
  split
  · exact h.post
  · exact .ite (h.foldl fun h => .ite h.unpark.takeTrap h) (h.fillCodeRow.foldl fun h => .ite h.unpark h)

theorem wantFill (h : Keeps s₀ s) : Keeps s₀ (Machine.wantFill s core handle part) := by
  unfold Machine.wantFill
  dsimp only
  split
  · exact h.meetRecord
  · split
    · exact h.meetRecord
    · exact h.meetRecord.send

theorem fetch (h : Keeps s₀ s) : Keeps s₀ (Machine.fetch s t).1 := by
  unfold Machine.fetch
  dsimp only
  refine .ite_fst h.meetRecord ?_
  split
  · exact h.meetRecord.park.wantFill
  · exact .ite_fst h.meetRecord.modCore h.meetRecord.modThr.openCodeRow

theorem prelude (h : Keeps s₀ s) : Keeps s₀ (Machine.prelude s t).1 := by
  unfold Machine.prelude
  split
  · next e => exact h.fetch.of_fst e
  · next e =>
      have h := h.fetch.of_fst e
      extract_lets +onlyGivenNames ws s'
      have h' : Keeps s₀ s' := h.foldl fun h => h.touchWord
      exact .ite_fst h'.ownPoison (.ite_fst h'.takeTrap h'.takeTrap)
  · next e =>
      have h := h.fetch.of_fst e
      extract_lets +onlyGivenNames ws s'
      have h' : Keeps s₀ s' := h.foldl fun h => h.touchWord
      exact .ite_fst h'.ownPoison (.ite_fst h'.takeTrap (.ite_fst h'.modCore.ownPoison h'))

theorem setLive (h : Keeps s₀ s) : Keeps s₀ (Machine.setLive s t handle k) := by
  unfold Machine.setLive
  extract_lets +onlyGivenNames slot s1 s2
  have h1 : Keeps s₀ s1 := h.meetRecord
  have h2 : Keeps s₀ s2 := by
    unfold s2
    split
    · exact h1.meetRecord
    · exact h1
  split
  · exact h2.setC
  · exact .ite (.update h2.touchWord.setC) h2.touchWord.setC

/-! ### The operations of Machine/Beyond.lean -/

theorem takeForward (h : Keeps s₀ s) {p : PairSt} : Keeps s₀ (Machine.takeForward s p) := by
  unfold Machine.takeForward
  split
  · exact h.modPair.send
  · exact h

theorem beyond (h : Keeps s₀ s) {detail : Word} {start : State → Nat → State}
    (hstart : ∀ {s x}, Keeps s₀ s → Keeps s₀ (start s x)) :
    Keeps s₀ (Machine.beyond s kind cause detail r start) := by
  unfold Machine.beyond
  dsimp only
  split
  · exact hstart h.park.addReq
  · split
    · refine .ite ?_ ?_
      · split
        · exact .ite h.park.addReq.send (hstart h.park.addReq)
        · exact hstart h.park.addReq
      · split
        · exact h.park.addReq.takeForward
        · exact h
    · refine .ite ?_ ?_
      · split
        · exact .ite h.park.addReq.send (hstart h.park.addReq)
        · exact hstart h.park.addReq
      · split
        · exact h.park.addReq.takeForward
        · exact h
    · refine .ite ?_ h.callCheckpoint
      refine .ite ?_ ?_
      · split
        · exact .ite h.modPair.park.addReq.send (hstart h.modPair.park.addReq)
        · exact hstart h.modPair.park.addReq
      · split
        · exact h.modPair.park.addReq.takeForward
        · exact h.modPair

theorem finishExit (h : Keeps s₀ s) : Keeps s₀ (Machine.finishExit s t) := by
  unfold Machine.finishExit
  dsimp only
  split
  · exact h.modPair.retireTo
  · exact .ite h.retireTo.setTState.endHandler h.retireTo.setTState.threadEnded

theorem deliver (h : Keeps s₀ s) {x : Vec} : Keeps s₀ (Machine.deliver s r x) := by
  unfold Machine.deliver
  dsimp only
  cases r.insn with
  | ldo | ldfe | ldff | amoAddD | amoAndD | amoOrD | amoXorD | amoSminD | amoSmaxD | amoUminD | amoUmaxD | amoSwapD
  | amoFaddD | amoFminD | amoFmaxD | amoCasD | amoAddW | amoAndW | amoOrW | amoXorW | amoSminW | amoSmaxW | amoUminW
  | amoUmaxW | amoSwapW | amoFaddW | amoFminW | amoFmaxW | amoCasW | ibpeek | rld | ramoadd | rcas | objq | commit
  | decommit | alloc | free | reloc | objsync | fillc | repart | unpair | capr | launch | cancel | mldb | mldbW | mmul
  | mmulW | mout | mzero | mtest | cpy | cpyx | cpyc | gath | scat | scatadd | jpoll | jwait | creduce | rseq | rswait
  | mstat => exact h.retireS
  | sto | stef | stff | sete | vsto | rst | hdl => exact h.retire
  | vldo | vldb => exact h.setVMasked.retire
  | fence | fenceAcq | fenceRel | msend | cntdec | cntadd | cntwait => exact h.retirePlain
  | ibrecv => exact h.setS.setS.retire
  | pair => exact .ite h.retireS.setC.setC.makePair h.retireS
  | exit => exact h.finishExit
  | _ => exact h.retirePlain

theorem forward (h : Keeps s₀ s) {a : Ans} : Keeps s₀ (Machine.forward s t pc a) := by
  unfold Machine.forward
  split
  · exact h
  · refine .ite ?_ h
    dsimp only
    split
    · exact .ite h.modPair.takeForward h.modPair
    · exact h.modPair

theorem complete (h : Keeps s₀ s) {a : Ans} : Keeps s₀ (Machine.complete s r a) := by
  unfold Machine.complete
  extract_lets +onlyGivenNames t pc paired s1 s2
  have h1 : Keeps s₀ s1 := h.dropReq
  have h2 : Keeps s₀ s2 := by
    unfold s2
    split
    · exact h1.unpark.retiring fun h => h.deliver
    · split
      · exact h1.endPair
      · exact h1.consumePoison
    · exact h1.unpark.takeTrap
  exact .runCmds (.ite h2.forward h2)

theorem heldDone (h : Keeps s₀ s) : Keeps s₀ (Machine.heldDone s id) := by
  refine .update (h.mapPairs fun p => ?_)
  split <;> exact ⟨rfl, rfl⟩

theorem replyArrives (h : Keeps s₀ s) {a : Ans} : Keeps s₀ (Machine.replyArrives s id a) := by
  unfold Machine.replyArrives
  split
  · exact h
  · extract_lets +onlyGivenNames _ s'
    have h' : Keeps s₀ s' := h
    exact .ite h'.dropReq.heldDone (.ite h' (.ite h'.complete h'.modReq.unpark.modThr))

theorem wakePark (h : Keeps s₀ s) : Keeps s₀ (Machine.wakePark s t) := by
  unfold Machine.wakePark
  split
  · exact h.replyArrives
  · exact h

theorem writeHeld (h : Keeps s₀ s) : Keeps s₀ (Machine.writeHeld s t) := by
  unfold Machine.writeHeld
  split
  · exact h
  · dsimp only
    split
    · exact h.modThr
    · exact h.modThr.complete

/-! ### The operations of Machine/Heddle.lean -/

theorem divert (h : Keeps s₀ s) : Keeps s₀ (Machine.divert s p sub) := h.diversion.answerPkt

theorem meetKey (h : Keeps s₀ s) : Keeps s₀ (Machine.meetKey s p) := by
  unfold Machine.meetKey
  exact .ite h.touchFrame.touchWord h.touchFrame

theorem checkPoison (h : Keeps s₀ s) : Keeps s₀ (Machine.checkPoison s p) := by
  unfold Machine.checkPoison
  exact .ite h.ownPoison h

theorem checked (h : Keeps s₀ s) {f : RowFn} {k : State → State} (hk : ∀ {s}, Keeps s₀ s → Keeps s₀ (k s)) :
    Keeps s₀ (Machine.checked s p f k) := by
  unfold Machine.checked
  dsimp only
  split
  · exact h.meetKey.divert.checkPoison
  · exact hk h.meetKey

theorem writeRowWord (h : Keeps s₀ s) : Keeps s₀ (Machine.writeRowWord s core row widx x) := by
  unfold Machine.writeRowWord
  exact .ite h (.ite (.ite h (.ite h.putWord (.ite (.ite h h.putWord) h.putWord))) h.putWord)

theorem wakeRow (h : Keeps s₀ s) : Keeps s₀ (Machine.wakeRow s core row widx) := by
  unfold Machine.wakeRow
  exact .ite h h.wakePark

theorem withdrawReq (h : Keeps s₀ s) : Keeps s₀ (Machine.withdrawReq s r) := by
  unfold Machine.withdrawReq
  exact .update h.dropReq

theorem sendCancelWait (h : Keeps s₀ s) : Keeps s₀ (Machine.sendCancelWait s r) := by
  unfold Machine.sendCancelWait
  exact .ite (.ite (.update h) h) h.send

theorem settle (h : Keeps s₀ s) : Keeps s₀ (Machine.settle s t).1 := by
  unfold Machine.settle
  split
  · exact .ite_fst h.completeYield h.unpark
  · split
    · extract_lets +onlyGivenNames s'
      have h' : Keeps s₀ s' := by
        unfold s'
        split
        · exact .ite h.sendCancelWait h
        · exact h
      exact h'.withdrawReq.unpark
    · exact .modReq (.ite h.sendCancelWait h)
    · exact h

theorem storeHeddle (h : Keeps s₀ s) : Keeps s₀ (Machine.storeHeddle s t x) := h.setC

theorem refuse (h : Keeps s₀ s) : Keeps s₀ (Machine.refuse s t) := h.setC

theorem redirectPc (h : Keeps s₀ s) : Keeps s₀ (Machine.redirectPc s t x) := h.setPc

theorem cancelThread (h : Keeps s₀ s) : Keeps s₀ (Machine.cancelThread s t) :=
  h.setFinfo.setTState.setC.modThr.threadEnded

theorem actCommand (h : Keeps s₀ s) : Keeps s₀ (Machine.actCommand s t x cmd) := by
  unfold Machine.actCommand
  dsimp only
  split
  · exact h
  · exact .ite h.setTState h.refuse
  · exact .ite h (.ite h.setTState.modThr h.refuse)
  · exact .ite h.refuse (.ite h.redirectPc (.ite h.redirectPc.setTState.modThr h.refuse))
  · exact .ite h.setTState h.refuse
  · exact .ite h.setTState.modThr h.refuse
  · exact .ite h.cancelThread h
  · exact h.refuse

theorem cancelEcho (h : Keeps s₀ s) : Keeps s₀ (Machine.cancelEcho s p) := by
  unfold Machine.cancelEcho
  split
  · exact h
  · split
    · exact .ite h.modReq.send h.modReq
    · exact h

theorem commandDone (h : Keeps s₀ s) : Keeps s₀ (Machine.commandDone s p) := h.answerPkt.cancelEcho

theorem answerStep (h : Keeps s₀ s) : Keeps s₀ (Machine.answerStep s t) := by
  unfold Machine.answerStep
  split
  · exact h.modThr.commandDone
  · exact h

theorem command (h : Keeps s₀ s) : Keeps s₀ (Machine.command s p cmd) := by
  unfold Machine.command
  extract_lets +onlyGivenNames t s1 s2 wait settles own
  have h1 : Keeps s₀ s1 := .ite h h.storeHeddle
  have h2 : Keeps s₀ s2 := .ite h1.meetRecord h1
  have hwait : ∀ {s}, Keeps s₀ s → Keeps s₀ (wait s) := fun h => h.modThr
  split
  · exact h2.complete.actCommand
  · refine .ite (hwait h2) ?_
    extract_lets +onlyGivenNames s3
    have h3 : Keeps s₀ s3 := .ite h2.writeHeld h2
    refine .ite ?_ (.ite h3.answerStep.actCommand.modThr h3.actCommand.commandDone)
    refine .ite h3.commandDone (.ite h3.unpark.commandDone ?_)
    refine .ite h3.refuse.commandDone (.ite ?_ h3.refuse.commandDone)
    split
    · next e => exact (h3.settle.of_fst e).actCommand.commandDone
    · next e => exact hwait (h3.settle.of_fst e)

theorem restPair (h : Keeps s₀ s) {q : PairSt} : Keeps s₀ (Machine.restPair s q) := by
  unfold Machine.restPair
  extract_lets +onlyGivenNames l wide s1 s2 s3 s4 s5 s6
  have h1 : Keeps s₀ s1 := by
    unfold s1
    split
    · exact h.dropReq
    · exact h
  have h2 : Keeps s₀ s2 := h1.setC
  have h3 : Keeps s₀ s3 := h2.copyThread
  have h4 : Keeps s₀ s4 := h3.setC
  have h5 : Keeps s₀ s5 := h4.modThr
  have h6 : Keeps s₀ s6 := h5.copyThread.copyThread
  exact h6.modPair

theorem mirrorWord (h : Keeps s₀ s) {q : PairSt} : Keeps s₀ (Machine.mirrorWord s q row widx) :=
  h.foldl fun h => h.putWord

theorem mirrorCommand (h : Keeps s₀ s) {q : PairSt} : Keeps s₀ (Machine.mirrorCommand s q) := by
  unfold Machine.mirrorCommand
  exact .ite (h.foldl fun h => h.setC) h.restPair

theorem mirrorPrio (h : Keeps s₀ s) {q : PairSt} : Keeps s₀ (Machine.mirrorPrio s q) :=
  h.foldl fun h => h.setC

theorem mirror (h : Keeps s₀ s) {q : PairSt} {a : Event} : Keeps s₀ (Machine.mirror s q a) := by
  unfold Machine.mirror
  split
  · exact h.mirrorPrio
  · exact h.mirrorWord
  · exact h.mirrorWord
  · exact .ite h.mirrorCommand h.mirrorWord
  · exact h.mirrorCommand

theorem callOutside (h : Keeps s₀ s) {q : PairSt} : Keeps s₀ (Machine.callOutside s q) := by
  unfold Machine.callOutside
  dsimp only
  split
  · exact h.callCheckpoint
  · split
    · refine .callCheckpoint (.unpark ?_)
      refine .withdrawReq ?_
      split
      · exact .ite h.sendCancelWait h
      · exact h
    · exact h.callCheckpoint
    · exact h.callCheckpoint

theorem deferPair (h : Keeps s₀ s) {k : State → State} (hk : ∀ {s}, Keeps s₀ s → Keeps s₀ (k s)) :
    Keeps s₀ (Machine.deferPair s t e k) := by
  unfold Machine.deferPair
  split
  · exact hk h
  · exact .ite (hk h).mirror h.modPair.callOutside

theorem storeWord (h : Keeps s₀ s) : Keeps s₀ (Machine.storeWord s p) :=
  h.checked fun h => h.deferPair fun h => h.writeRowWord.answerPkt.wakeRow

theorem heddle (h : Keeps s₀ s) : Keeps s₀ (Machine.heddle s p cmd) := by
  unfold Machine.heddle
  refine .ite (h.deferPair fun h => h.command) (.ite h.storeWord ?_)
  extract_lets +onlyGivenNames s'
  have h' : Keeps s₀ s' := h.checked fun h => h.deferPair fun h => h.command
  exact .ite h'.cancelEcho h'

theorem outsideRead (h : Keeps s₀ s) : Keeps s₀ (Machine.outsideRead s p) :=
  h.checked fun h => .answerPkt (.ite h h.touchWord)

theorem hostAccess (h : Keeps s₀ s) {f : RowFn} {y : Word} :
    Keeps s₀ (Machine.hostAccess s slot f ref widx x y) := by
  unfold Machine.hostAccess
  exact .ite (.ite (.update h) h.diversion.answerPkt) (.ite h.diversion.answerPkt h.send)

theorem rowStepOf (h : Keeps s₀ s) {k : RowPkt → State} {p : Option RowPkt} (hk : ∀ {p}, Keeps s₀ (k p)) :
    Keeps s₀ (Machine.rowStepOf s k p) := by
  unfold Machine.rowStepOf
  split
  · exact hk
  · exact h.hostAccess
  · exact h

theorem outsideWrite (h : Keeps s₀ s) : Keeps s₀ (Machine.outsideWrite s p) := by
  unfold Machine.outsideWrite
  exact .ite h.heddle h.storeWord

theorem outsideAdd (h : Keeps s₀ s) : Keeps s₀ (Machine.outsideAdd s p) :=
  h.checked fun h => h.deferPair fun h => .ite h.touchWord.answerPkt h.touchWord.writeRowWord.answerPkt.wakeRow

theorem writeQuant (h : Keeps s₀ s) : Keeps s₀ (Machine.writeQuant s core x) := h.modCore

theorem outsideCas (h : Keeps s₀ s) : Keeps s₀ (Machine.outsideCas s p) := by
  unfold Machine.outsideCas
  refine h.checked fun h => h.deferPair fun h => ?_
  extract_lets +onlyGivenNames core row a s' old
  have h' : Keeps s₀ s' := .ite h h.touchWord
  refine .ite h'.answerPkt (.ite h'.answerPkt ?_)
  exact .ite (.answerPkt (.ite h'.writeQuant h')) (.ite h'.command h'.writeRowWord.answerPkt.wakeRow)

/-! ### The operations of Machine/Translate.lean -/

theorem cacheRecord (h : Keeps s₀ s) {r : Rec} : Keeps s₀ (Machine.cacheRecord s tile w r) := h.modTile

theorem cacheEntry (h : Keeps s₀ s) : Keeps s₀ (Machine.cacheEntry s tile w n w0) := h.modTile

theorem dropEntry (h : Keeps s₀ s) : Keeps s₀ (Machine.dropEntry s tile w n) := h.modTile

theorem dropHandle (h : Keeps s₀ s) : Keeps s₀ (Machine.dropHandle s tile w) := h.modTile

theorem useRecords (h : Keeps s₀ s) : Keeps s₀ (Machine.useRecords s tile w) := h.foldl fun h => h.modTile

theorem useEntry (h : Keeps s₀ s) {ph : Nat} : Keeps s₀ (Machine.useEntry s tile ph sub) := h.modTile

theorem issueWalk (h : Keeps s₀ s) {x : WalkSt} : Keeps s₀ (Machine.issueWalk s tile x) := by
  unfold Machine.issueWalk
  dsimp only
  split
  · exact h.modTile.foldl fun h => h.post
  · exact .ite (h.modTile.foldl fun h => h.post) h.send

theorem startWalk (h : Keeps s₀ s) {w : WalkAddr} : Keeps s₀ (Machine.startWalk s r w) := by
  unfold Machine.startWalk
  extract_lets +onlyGivenNames tile s' l
  have h' : Keeps s₀ s' := h.modReq
  exact .ite h'.modTile (.ite (.issueWalk (.modTile (.update h'))) (.modTile (.update h')))

theorem issueNext (h : Keeps s₀ s) : Keeps s₀ (Machine.issueNext s tile n) := by
  induction n generalizing s with
  | zero => exact h
  | succ n ih =>
    unfold Machine.issueNext
    split
    · exact h
    · exact .ite h.issueWalk (ih h.issueWalk)

theorem endWalk (h : Keeps s₀ s) {no : Nat} : Keeps s₀ (Machine.endWalk s tile no) := h.modTile.issueNext

theorem answerWalk (h : Keeps s₀ s) {p : WalkPkt} : Keeps s₀ (Machine.answerWalk s p) := by
  unfold Machine.answerWalk
  extract_lets +onlyGivenNames s1 s2 x extra bad
  have h1 : Keeps s₀ s1 := h.touch
  have h2 : Keeps s₀ s2 := by
    unfold s2
    split
    · exact h1.touchWord
    · exact h1
  exact h2.send

theorem walkAdmitted (h : Keeps s₀ s) {p : WalkPkt} : Keeps s₀ (Machine.walkAdmitted s p) := by
  unfold Machine.walkAdmitted
  exact .ite h.touch.modTile h.touch.answerWalk

theorem releaseWalks (h : Keeps s₀ s) : Keeps s₀ (Machine.releaseWalks s tile w n) :=
  h.modTile.foldl fun h => h.answerWalk

/-! ### The operations of Machine/Majority.lean -/

theorem replicaRead (h : Keeps s₀ s) {p : MajPkt} : Keeps s₀ (Machine.replicaRead s p).1 := by
  unfold Machine.replicaRead
  exact .ite_fst h (.ite_fst (.ite h.touch.touchWord.putBytes h.touch.touchWord) h.touch.touchWord)

theorem replicaWrite (h : Keeps s₀ s) {p : MajPkt} : Keeps s₀ (Machine.replicaWrite s p).1 := by
  unfold Machine.replicaWrite
  exact .ite_fst h (.ite_fst h.touch.touchWord.putFull.putFull h.touch.touchWord)

theorem applyReplica (h : Keeps s₀ s) {p : MajPkt} : Keeps s₀ (Machine.applyReplica s p) := by
  unfold Machine.applyReplica
  extract_lets r
  have hr : Keeps s₀ r.1 := by
    unfold r
    split
    · exact h.replicaRead
    · exact h.replicaWrite
    · exact h.replicaWrite
  exact .ite hr hr.send

theorem replicaStep (h : Keeps s₀ s) {p : MajPkt} : Keeps s₀ (Machine.replicaStep s p e) := by
  unfold Machine.replicaStep
  exact .ite h (.ite h.modStack h.applyReplica)

theorem sendReplica (h : Keeps s₀ s) {op : MajOp} {tag : Word} {data : BitVec 512} {x : Nat × Thr × Nat} :
    Keeps s₀ (Machine.sendReplica s r op tag data x) := by
  unfold Machine.sendReplica
  exact .send (.update h)

theorem majReads (h : Keeps s₀ s) : Keeps s₀ (Machine.majReads s id) := by
  unfold Machine.majReads
  split
  · exact h
  · next e => exact .foldl (h.modReq fun _ _ => (findReq_id e :)) fun h => h.sendReplica

/-! ### The operations of Machine/Access.lean -/

theorem setTouch (h : Keeps s₀ s) : Keeps s₀ (Machine.setTouch s t x) := by
  unfold Machine.setTouch
  split
  · exact h.setC.setC
  · exact h.setC

theorem withFence (h : Keeps s₀ s) {k : State → Nat → State} (hk : ∀ {s x}, Keeps s₀ s → Keeps s₀ (k s x)) :
    Keeps s₀ (Machine.withFence s id k) := by
  unfold Machine.withFence
  split
  · exact h
  · exact .ite (hk h) (.ite (hk h.setTouch) (.foldl (.modReq (.update h)) fun h => .ite h.send h.send))

theorem overlapCheckpoint (h : Keeps s₀ s) {p : PairSt} : Keeps s₀ (Machine.overlapCheckpoint s p) := by
  unfold Machine.overlapCheckpoint
  extract_lets +onlyGivenNames undo
  have hundo : ∀ {s t}, Keeps s₀ s → Keeps s₀ (undo s t) := by
    intro s t h
    dsimp only [undo]
    split
    · exact .ite h.dropReq.unpark h
    · exact h
  exact (hundo (hundo h)).callCheckpoint

theorem pairHold (h : Keeps s₀ s) {go : State → State} (hgo : ∀ {s}, Keeps s₀ s → Keeps s₀ (go s)) :
    Keeps s₀ (Machine.pairHold s r go) := by
  unfold Machine.pairHold
  split
  · exact hgo h
  · refine .ite (hgo h) ?_
    split
    · exact hgo h
    · split
      · exact hgo h
      · exact h.replyArrives
      · exact h.overlapCheckpoint
    · exact .ite h.modPair.replyArrives.callCheckpoint h.modPair.replyArrives

theorem sendOut (h : Keeps s₀ s) {done : Bool} : Keeps s₀ (Machine.sendOut s r dev ref e done) := by
  unfold Machine.sendOut
  exact .ite (.ite h.leaveModule.send h.leaveModule) h.diversion.send

theorem sendAccess (h : Keeps s₀ s) : Keeps s₀ (Machine.sendAccess s id) := by
  unfold Machine.sendAccess
  split
  · exact h
  · extract_lets +onlyGivenNames t tile f here dst
    refine .ite h.replyArrives ?_
    exact .ite (.send (.ite h.modReq.setTouch h.modReq)) (.sendOut (.ite h.modReq.setTouch h.modReq))

theorem residencyFault (h : Keeps s₀ s) {row : Word} : Keeps s₀ (Machine.residencyFault s r sub row) := by
  unfold Machine.residencyFault
  exact .ite h.dropReq h.dropReq.setC.setFinfo.setC.toInbox.runCmds

theorem consumeData (h : Keeps s₀ s) : Keeps s₀ (Machine.consumeData s r) := by
  unfold Machine.consumeData
  exact .ite h.dropReq h.dropReq.unpark.ownPoison

theorem resolve (h : Keeps s₀ s) {x : Tr} : Keeps s₀ (Machine.resolve s r x) := by
  unfold Machine.resolve
  extract_lets +onlyGivenNames y ws s' done
  have h' : Keeps s₀ s' := h.foldl fun h => h.touchWord
  have hdone : ∀ {v}, Keeps s₀ (done v) := h'.replyArrives
  refine .ite h'.consumeData ?_
  clear_value y
  cases y with
  | walk w => exact h'.startWalk
  | trap c sub => exact h'.replyArrives
  | zero => exact hdone
  | answer w => exact h'.send
  | const v sub off lanes => exact hdone
  | fault sub row => exact h'.residencyFault
  | place => exact .ite hdone (.pairHold (.modReq (.update h') fun _ _ => rfl) fun h => h.sendAccess)
  | maj => exact .ite hdone (.pairHold (.modReq (.update h') fun _ _ => rfl) fun h => h.majReads)

theorem translateReq (h : Keeps s₀ s) {ovr : Option (Nat × Nat × List Word)} :
    Keeps s₀ (Machine.translateReq s id ovr) := by
  unfold Machine.translateReq
  split
  · exact h
  · dsimp only
    split
    · exact h.modReq.useRecords.resolve
    · refine .resolve ?_
      split
      · exact h.modReq.useRecords.useEntry
      all_goals exact h.modReq.useRecords

theorem startAccess (h : Keeps s₀ s) {r : Order} : Keeps s₀ (Machine.startAccess r s id) := by
  unfold Machine.startAccess
  exact .ite (h.withFence fun h => h.translateReq) h.translateReq

theorem withData (h : Keeps s₀ s) {data : List Nat} {k : State → Bool → State}
    (hk : ∀ {s x}, Keeps s₀ s → Keeps s₀ (k s x)) :
    Keeps s₀ (Machine.withData s ws data k) :=
  h.withRegs fun h => hk (h.foldl fun h => h.touchWord)

theorem objAccess (h : Keeps s₀ s) {p : Pair} {r : Order} {data : List Nat} {mk : State → Req → Req}
    {start : State → Nat → State} (hstart : ∀ {s x}, Keeps s₀ s → Keeps s₀ (start s x)) :
    Keeps s₀ (Machine.objAccess i p r data kind cause mk start s) :=
  h.withData fun h => h.beyond hstart

theorem startWait (h : Keeps s₀ s) {r : Order} : Keeps s₀ (Machine.startWait r s id) := by
  unfold Machine.startWait
  split
  · exact h
  · exact .startAccess (.ite h h.modReq.post)

theorem waitingAccess (h : Keeps s₀ s) {p : Pair} {r : Order} {fn : Nat} {mk : State → Req → Req} :
    Keeps s₀ (Machine.waitingAccess i p r regs fn mk s) := by
  unfold Machine.waitingAccess
  exact .ite h.trapNow (h.objAccess fun h => h.startWait)

theorem amoAccess (h : Keeps s₀ s) {a : SReg} {p : Pair} {r : Order} {cas : Bool} :
    Keeps s₀ (Machine.amoAccess i d a p r cause cas s) :=
  h.objAccess fun h => h.startAccess

theorem vecAccess (h : Keeps s₀ s) {v : VReg} {g : PReg} {p : Pair} {r : Order} {store : Bool} :
    Keeps s₀ (Machine.vecAccess i v g p r store s) := by
  unfold Machine.vecAccess
  exact .ite h.trapNow (h.objAccess fun h => h.startAccess)

/-! ### The operations of Machine/Bar.lean -/

theorem modQueue (h : Keeps s₀ s) {f : QueueSt → QueueSt} : Keeps s₀ (Machine.modQueue s q f) := h

theorem modCounter (h : Keeps s₀ s) {f : CounterSt → CounterSt} : Keeps s₀ (Machine.modCounter s n f) := h

theorem modGroup (h : Keeps s₀ s) {f : GroupSt → GroupSt} : Keeps s₀ (Machine.modGroup s g f) := h

/-! ### The operations of Machine/Pools.lean -/

theorem writeEntry (h : Keeps s₀ s) : Keeps s₀ (Machine.writeEntry s a w0 w1) := h.putWord.putWord

theorem claimEntry (h : Keeps s₀ s) : Keeps s₀ (Machine.claimEntry s slot w n) := h.modTile

theorem unclaim (h : Keeps s₀ s) : Keeps s₀ (Machine.unclaim s slot w n) := h.modTile.releaseWalks

theorem setPool (h : Keeps s₀ s) {stack : Nat} {x : PoolSt} : Keeps s₀ (Machine.setPool s stack x) :=
  h.modStack

theorem pushFrame (h : Keeps s₀ s) {key f : Nat} : Keeps s₀ (Machine.pushFrame s key f) := h.setPool

theorem takeFrame (h : Keeps s₀ s) {key f : Nat} : Keeps s₀ (Machine.takeFrame s key f) := h.setPool

theorem popFrame (h : Keeps s₀ s) {stack key : Nat} : Keeps s₀ (Machine.popFrame s stack key).1 := by
  unfold Machine.popFrame
  dsimp only
  split
  · exact h
  · exact h.setPool

theorem dropGranules (h : Keeps s₀ s) : Keeps s₀ (Machine.dropGranules s core row) := h.modTile

theorem clearWait (h : Keeps s₀ s) {e : Nat} : Keeps s₀ (Machine.clearWait s core e) :=
  h.putWord.putWord.modCore

theorem redirectWaiters (h : Keeps s₀ s) : Keeps s₀ (Machine.redirectWaiters s core row) := by
  unfold Machine.redirectWaiters
  dsimp only
  refine h.foldl fun h => ?_
  split
  · exact h.clearWait
  · exact h.clearWait.send

theorem startDrop (h : Keeps s₀ s) : Keeps s₀ (Machine.startDrop s id slot w) := by
  unfold Machine.startDrop
  dsimp only
  split
  · exact h
  · exact h.modReq.foldl fun h => .ite h.send h.send

theorem finishOp (h : Keeps s₀ s) {wrapped : Bool} :
    Keeps s₀ (Machine.finishOp s srcTile id slot w wrapped status) := by
  unfold Machine.finishOp
  exact .ite h.modReq.startDrop h.answer

theorem vacateFrame (h : Keeps s₀ s) {gen : Nat} {f : Thr} :
    Keeps s₀ (Machine.vacateFrame s handle sub gen f) :=
  h.setFrame.dropGranules.redirectWaiters

theorem retireAdmission (h : Keeps s₀ s) {p : ObjPkt} : Keeps s₀ (Machine.retireAdmission s p) := by
  unfold Machine.retireAdmission
  split
  · exact h
  · extract_lets +onlyGivenNames slot s1 g s2 s3 key s4 late s5 s6
    have h1 : Keeps s₀ s1 := h.vacateFrame
    have h2 : Keeps s₀ s2 := by
      unfold s2
      split
      · exact h1
      · split <;> exact h1.writeEntry
    have h3 : Keeps s₀ s3 := h2.unclaim
    have h4 : Keeps s₀ s4 := h3.pushFrame
    have h5 : Keeps s₀ s5 := h4.modCore
    have h6 : Keeps s₀ s6 := h5.foldl fun h => h.post
    exact h6.finishOp

/-! ### The operations of Machine/Admit.lean -/

theorem answerObj (h : Keeps s₀ s) {p : ObjPkt} {a : Ans} : Keeps s₀ (Machine.answerObj s p a) := by
  unfold Machine.answerObj
  exact .ite h h.send

theorem echoes (h : Keeps s₀ s) : Keeps s₀ (Machine.echoes s) := by
  unfold Machine.echoes
  refine .ite h ?_
  extract_lets +onlyGivenNames l m s' io
  have h' : Keeps s₀ s' := h.foldl fun h => .ite h ((h.modTile.foldl fun h => h.post).foldl fun h => h.send)
  exact h'.foldl fun h => .post (.update h)

theorem enqueue (h : Keeps s₀ s) {p : ObjPkt} : Keeps s₀ (Machine.enqueue s p) := by
  unfold Machine.enqueue
  exact .ite h.admitCached h.arrive

theorem useCache (h : Keeps s₀ s) {p : ObjPkt} : Keeps s₀ (Machine.useCache s p) := by
  unfold Machine.useCache
  exact .ite h.useGranules h

theorem accept (h : Keeps s₀ s) {p : ObjPkt} : Keeps s₀ (Machine.accept s p).1 := by
  unfold Machine.accept
  split
  · exact h
  · exact .ite_fst h.answerObj h

theorem redirect (h : Keeps s₀ s) {p : ObjPkt} : Keeps s₀ (Machine.redirect s p) := h.send

theorem downAnswer (h : Keeps s₀ s) {p : ObjPkt} : Keeps s₀ (Machine.downAnswer s p) := by
  unfold Machine.downAnswer
  extract_lets +onlyGivenNames s'
  have h' : Keeps s₀ s' := by
    unfold s'
    refine .ite ?_ h
    split
    · exact h.unclaim
    · exact h
  exact h'.answerObj

theorem accessArrives (h : Keeps s₀ s) {p : ObjPkt} : Keeps s₀ (Machine.accessArrives s p) := by
  unfold Machine.accessArrives
  extract_lets +onlyGivenNames f s'
  have h' : Keeps s₀ s' := h.touchFrame
  refine .ite h'.accept.post ?_
  exact .ite h'.downAnswer (.ite h'.redirect (.ite h'.accept.modCore (.ite h'.modCore h'.accept.enqueue)))

theorem serveWord {fuel : Nat} {fill : Bool} (h : Keeps s₀ s) :
    Keeps s₀ (Machine.serveWord fuel s core row a fill) := by
  induction fuel generalizing s fill with
  | zero => exact h
  | succ n ih =>
    unfold Machine.serveWord
    dsimp only
    refine .ite ?_ ?_
    · split
      · exact h
      · exact .ite (ih h.clearWait.answer.setFull) (ih h.clearWait.answer)
    · split
      · exact h
      · exact ih h.clearWait.putWord.setFull.answer

theorem touchWaits (h : Keeps s₀ s) : Keeps s₀ (Machine.touchWaits s core) := by
  unfold Machine.touchWaits
  exact .ite h h.touch

theorem serve (h : Keeps s₀ s) {fill : Bool} : Keeps s₀ (Machine.serve s core row a fill) :=
  h.touchWaits.serveWord

theorem waitFor (h : Keeps s₀ s) {p : ObjPkt} {op : Nat} {value : Word} :
    Keeps s₀ (Machine.waitFor s p op value) := by
  unfold Machine.waitFor
  dsimp only
  split
  · exact h.touchWaits.send
  · exact h.touchWaits.putWord.putWord.modCore

theorem storeLanes (h : Keeps s₀ s) {mask : Pred} {x : Vec} : Keeps s₀ (Machine.storeLanes s a mask x) := by
  unfold Machine.storeLanes
  exact h.foldl fun h => .ite h.putBytes (h.foldl fun h => .ite h.putBytes h)

theorem applyOp (h : Keeps s₀ s) {p : ObjPkt} : Keeps s₀ (Machine.applyOp s p) := by
  unfold Machine.applyOp
  dsimp only
  split
  · exact h.useCache.touch.answerObj
  · exact h.useCache.touch.answerObj
  · exact h.useCache.touch.answerObj
  · exact h.useCache.putBytes.answerObj
  · exact h.useCache.storeLanes.answerObj
  · exact .ite h.useCache.touchWord.answerObj.setFull.serve h.useCache.touchWord.waitFor
  · exact .ite h.useCache.touchWord.answerObj h.useCache.touchWord.waitFor
  · exact .ite h.useCache.touchWord.waitFor h.useCache.touchWord.putWord.setFull.answerObj.serve
  · exact .ite h.useCache.touchWord.putWord.answerObj h.useCache.touchWord.putWord.setFull.answerObj.serve
  · exact .ite h.useCache.touchWord.setFull.answerObj.serve h.useCache.touchWord.answerObj
  · refine .ite h.useCache.touch.answerObj (.answerObj ?_)
    split
    · exact h.useCache.touch.putBytes
    · exact h.useCache.touch
  · exact h.useCache.retireAdmission

theorem applyModule (h : Keeps s₀ s) {p : ObjPkt} : Keeps s₀ (Machine.applyModule s p) := by
  unfold Machine.applyModule
  extract_lets +onlyGivenNames elem write
  have hwrite : ∀ {s i x m}, Keeps s₀ s → Keeps s₀ (write s i x m) := by
    intro s i x m h
    dsimp only [write]
    split
    · exact h.follow
    · exact h
  split
  · exact h.answerObj
  · exact h.answerObj
  · exact h.answerObj
  · exact .ite (hwrite h) (hwrite h).answerObj
  · exact (h.foldl fun h => .ite h (hwrite h)).answerObj
  · exact h.answerObj

theorem admitPosted (h : Keeps s₀ s) {f : Thr} : Keeps s₀ (Machine.admitPosted s f) :=
  h.foldl fun h => .ite h.applyOp h

theorem clearReserved (h : Keeps s₀ s) : Keeps s₀ (Machine.clearReserved s a n) :=
  h.foldl fun h => .ite (.update h) h

theorem admitAccess (h : Keeps s₀ s) {p : ObjPkt} : Keeps s₀ (Machine.admitAccess s p) := by
  unfold Machine.admitAccess
  extract_lets +onlyGivenNames f
  refine .ite h.applyModule (.ite h.downAnswer ?_)
  extract_lets +onlyGivenNames s'
  have h' : Keeps s₀ s' := h.touchFrame
  exact .ite (.ite h' h'.redirect) (.ite h'.modCore (.ite h'.applyOp.clearReserved h'.applyOp))

theorem fenceProbe (h : Keeps s₀ s) {seq : Nat} : Keeps s₀ (Machine.fenceProbe s id tile seq) := by
  unfold Machine.fenceProbe
  split
  · exact h
  · exact .ite (.update h) h.modTile

theorem probeEcho (h : Keeps s₀ s) : Keeps s₀ (Machine.probeEcho s id tile) := by
  unfold Machine.probeEcho
  split
  · exact h
  · extract_lets +onlyGivenNames my _ s'
    have h' : Keeps s₀ s' := by
      unfold s'
      refine .ite ?_ h.modTile
      split <;> exact h
    exact h'.send

/-! ### The operations of Machine/Inbox.lean -/

theorem putEntry (h : Keeps s₀ s) {e : Nat} : Keeps s₀ (Machine.putEntry s core e m) := h.putFull.modCore

theorem takeEntry (h : Keeps s₀ s) : Keeps s₀ (Machine.takeEntry s t) := by
  unfold Machine.takeEntry
  dsimp only
  split
  · exact .ite h.wakePark.touch.modCore.replyArrives h.wakePark
  · exact h.wakePark

theorem answerMessage (h : Keeps s₀ s) : Keeps s₀ (Machine.answerMessage s m) := by
  unfold Machine.answerMessage
  exact .ite h.answer h

theorem enterEntry (h : Keeps s₀ s) {e : Nat} : Keeps s₀ (Machine.enterEntry s core e m) :=
  h.putEntry.answerMessage

theorem refill (h : Keeps s₀ s) : Keeps s₀ (Machine.refill n s core) := by
  induction n generalizing s with
  | zero => exact h
  | succ n ih =>
    unfold Machine.refill
    split
    · exact ih h.modCore.enterEntry.takeEntry
    · exact h

theorem refillInbox (h : Keeps s₀ s) : Keeps s₀ (Machine.refillInbox s core) := h.refill

theorem removeEntry (h : Keeps s₀ s) {e : Nat} : Keeps s₀ (Machine.removeEntry s core e) :=
  h.modCore.refillInbox

theorem wakeReceiver (h : Keeps s₀ s) : Keeps s₀ (Machine.wakeReceiver s t) := h.takeEntry.refillInbox

theorem discardInbox (h : Keeps s₀ s) : Keeps s₀ (Machine.discardInbox s core row) :=
  (h.modCore.foldl fun h => h.answerMessage).refillInbox

theorem entryRefused (h : Keeps s₀ s) : Keeps s₀ (Machine.entryRefused s m sub) := by
  unfold Machine.entryRefused
  dsimp only
  split
  · exact h.toSupervisor
  · exact h.countLost
  · exact .ite h.diversion h.diversion.answer
  all_goals exact h.diversion

theorem holdMessage (h : Keeps s₀ s) {m : Msg} : Keeps s₀ (Machine.holdMessage s l m) := by
  unfold Machine.holdMessage
  refine .ite h.modLaunch ?_
  split
  · exact h
  · exact h.send

theorem inboxArrives (h : Keeps s₀ s) : Keeps s₀ (Machine.inboxArrives s m) := by
  unfold Machine.inboxArrives
  dsimp only
  split
  · split
    · exact h.meetKey.holdMessage
    · exact h.meetKey.entryRefused.checkPoison
  · split
    · exact .ite h.meetKey.enterEntry.wakeReceiver h.meetKey.modCore
    · refine .ite ?_ h.meetKey.modCore
      split
      · exact h.meetKey
      · exact h.meetKey.send

theorem touchHandler (h : Keeps s₀ s) : Keeps s₀ (Machine.touchHandler s tile w) := by
  unfold Machine.touchHandler
  dsimp only
  split
  · exact h.meetRecord.touch
  · exact h.meetRecord

theorem startHandler (h : Keeps s₀ s) {m : Msg} : Keeps s₀ (Machine.startHandler s core m w0 w1) :=
  h.setS.setS.setS.setS.setS.setS.setC.setC.setC.setC.unpark.setThr.modCore

theorem messageArrives (h : Keeps s₀ s) {m : Msg} : Keeps s₀ (Machine.messageArrives s m) := by
  unfold Machine.messageArrives
  dsimp only
  split
  · split
    · exact h.meetKey.holdMessage
    · exact h.meetKey.entryRefused.checkPoison
  · split
    · exact h.meetKey.touchHandler.entryRefused
    · refine .ite h.meetKey.touchHandler.entryRefused ?_
      refine .ite (.ite h.meetKey.touchHandler.setCore h.meetKey.touchHandler.startHandler) ?_
      exact .answer (.ite h.meetKey.touchHandler.setCore h.meetKey.touchHandler.startHandler)

theorem handlerStarts (h : Keeps s₀ s) : Keeps s₀ (Machine.handlerStarts s core) := by
  unfold Machine.handlerStarts
  dsimp only
  split
  · exact h
  · refine .ite h ?_
    split
    · exact h.setCore.touchHandler.startHandler
    · exact h.setCore.touchHandler

theorem startRecv (h : Keeps s₀ s) : Keeps s₀ (Machine.startRecv s id) := by
  unfold Machine.startRecv
  split
  · exact h
  · split
    · exact h
    · exact h.touch.modCore.replyArrives.refillInbox

/-! ### The operations of Machine/RowSpace.lean -/

theorem settleDown (h : Keeps s₀ s) : Keeps s₀ (Machine.settleDown s r ref) := h.diversion.send

theorem sendRow (h : Keeps s₀ s) : Keeps s₀ (Machine.sendRow s id) := by
  unfold Machine.sendRow
  split
  · exact h
  · exact h.pairHold fun h => .ite h.modReq.sendOut (.ite h.modReq.settleDown h.modReq.send)

theorem rowAccess (h : Keeps s₀ s) {r : SReg} {w : BitVec 9} {o : ROrder} {mk : State → Req → Req} :
    Keeps s₀ (Machine.rowAccess i r w o regs mk s) := by
  unfold Machine.rowAccess
  refine h.withRegs fun h => h.beyond fun h => ?_
  split
  · exact h.withFence fun h => h.sendRow
  · exact h.sendRow

theorem sendMsg (h : Keeps s₀ s) : Keeps s₀ (Machine.sendMsg s id) := by
  unfold Machine.sendMsg
  split
  · exact h
  · exact h.pairHold fun h => .ite h.modReq.sendOut (.ite h.modReq.settleDown h.modReq.send)

theorem fenceInsn (h : Keeps s₀ s) : Keeps s₀ (Machine.fenceInsn i s) :=
  h.withRegs fun h => h.withRegs fun h => h.beyond fun h => h.withFence fun h => h.replyArrives

/-! ### The operations of Machine/Objects.lean -/

theorem freeOp (h : Keeps s₀ s) {r : Rec} {mode sa : Word} :
    Keeps s₀ (Machine.freeOp s slot w r mode sa).1 := by
  unfold Machine.freeOp
  dsimp only
  refine .ite_fst h (.ite_fst h ?_)
  split
  · exact h
  · refine .ite_fst (.ite_fst h.zeroRow.setFrame.pushFrame.noteFree h) ?_
    exact .ite_fst h (.ite_fst h.pushFrame h.zeroRow.setFrame.takeFrame.noteFree)

theorem allocatorOp (h : Keeps s₀ s) : Keeps s₀ (Machine.allocatorOp s r) := by
  unfold Machine.allocatorOp
  dsimp only
  split
  · exact h.popFrame.answer
  · split
    · exact .replyArrives (.meetRecord (.ite h.touchFrame h))
    · exact .answer (.freeOp (.meetRecord (.ite h.touchFrame h)))

theorem opStart (h : Keeps s₀ s) : Keeps s₀ (Machine.opStart s id) := by
  unfold Machine.opStart
  split
  · exact h
  · extract_lets +onlyGivenNames tile slot s1 x ws s2
    have h1 : Keeps s₀ s1 := h.useRecords
    have h2 : Keeps s₀ s2 := h1.foldl fun h => h.touchWord
    refine .ite h2.consumeData ?_
    clear_value x
    split
    · exact h2.modReq.allocatorOp
    · exact h2.modReq.send
    · exact h2.resolve

theorem retranslate (h : Keeps s₀ s) {ovr : Option (Nat × Nat × List Word)} :
    Keeps s₀ (Machine.retranslate s id ovr) := by
  unfold Machine.retranslate
  split
  · exact h
  · exact .ite h.opStart h.translateReq

theorem objectOp (h : Keeps s₀ s) {p : Pair} {fence : Bool} {mk : State → Req → Req} :
    Keeps s₀ (Machine.objectOp i p fence regs mk s) := by
  unfold Machine.objectOp
  refine h.withData fun h => ?_
  dsimp only
  refine h.beyond fun h => ?_
  split
  · exact h.withFence fun h => h.opStart
  · exact h.opStart

theorem syncDrop (h : Keeps s₀ s) : Keeps s₀ (Machine.syncDrop s id) := by
  unfold Machine.syncDrop
  split
  · exact h
  · exact h.startDrop

theorem startSync (h : Keeps s₀ s) : Keeps s₀ (Machine.startSync s id) := by
  unfold Machine.startSync
  split
  · exact h
  · exact .ite h.replyArrives (h.withFence fun h => h.syncDrop)

theorem objsyncDropped (h : Keeps s₀ s) : Keeps s₀ (Machine.objsyncDropped s id tile w) := by
  unfold Machine.objsyncDropped
  exact .modTile (.update (h.dropHandle.modTile.foldl fun h => h.modCore))

theorem sendRetire (h : Keeps s₀ s) {src : Nat} : Keeps s₀ (Machine.sendRetire s r w0 src) := by
  unfold Machine.sendRetire
  exact .ite (.downAnswer (.modReq (.update h))) (.send (.modReq (.update h)))

theorem commitAt (h : Keeps s₀ s) {x : Rec} {f : Nat} : Keeps s₀ (Machine.commitAt s slot r x a f w0) :=
  h.zeroRow.dropGranules.setFrame.takeFrame.writeEntry.releaseWalks.finishOp.noteFree

theorem takeQueued (h : Keeps s₀ s) {f : Thr} : Keeps s₀ (Machine.takeQueued s f).1 := by
  unfold Machine.takeQueued
  exact .setCore (.update h)

theorem holdQueued (h : Keeps s₀ s) {f : Thr} : Keeps s₀ (Machine.holdQueued s f) := h.takeQueued.modCore

theorem relocAt (h : Keeps s₀ s) {x : Rec} : Keeps s₀ (Machine.relocAt s slot r x a n w0 w1) := by
  unfold Machine.relocAt
  exact .update h.claimEntry.writeEntry.takeFrame.setFrame.holdQueued.modReq.post

theorem claimArrives (h : Keeps s₀ s) : Keeps s₀ (Machine.claimArrives s id) := by
  unfold Machine.claimArrives
  split
  · exact h
  · dsimp only
    split
    · refine .ite h.touch.answer ?_
      split
      · exact .ite h.touch.answer (.ite h.touch.answer (.ite h.touch.answer h.touch.commitAt))
      · exact .ite h.touch.answer (.ite h.touch.answer h.touch.claimEntry.sendRetire)
      · exact .ite h.touch.answer (.ite h.touch.answer (.ite h.touch.answer h.touch.relocAt))
      · refine .ite h.touch.answer ?_
        refine .ite (.ite h.touch.writeEntry.releaseWalks.finishOp h.touch.answer) ?_
        exact .ite h.touch.claimEntry.sendRetire h.touch.writeEntry.releaseWalks.finishOp
      · exact h.touch.answer
    · exact h.replyArrives

theorem forwardTo (h : Keeps s₀ s) {n : Thr} {l : List ObjPkt} : Keeps s₀ (Machine.forwardTo s n g l) :=
  h.foldl fun h => .arrive (.ite h h.modReq)

theorem forwardHeld (h : Keeps s₀ s) {f n : Thr} : Keeps s₀ (Machine.forwardHeld s f n g) :=
  h.modCore.forwardTo

theorem copyBus (h : Keeps s₀ s) : Keeps s₀ (Machine.copyBus s t) := h.putBus

theorem relocCopied (h : Keeps s₀ s) : Keeps s₀ (Machine.relocCopied s id) := by
  unfold Machine.relocCopied
  split
  · exact h
  · dsimp only
    split
    · refine .ite ?_ ?_
      · refine .ite h.post ?_
        exact .post (.modReq (.copyBus (.copyBus (.ite h.spendCredits h.spendCredits.spendCredits))))
      · refine .ite h.post (.finishOp ?_)
        refine h.copyRow.setFrame.dropGranules.setFrame.holdQueued.forwardHeld.redirectWaiters.writeEntry.unclaim.pushFrame
    · exact h.replyArrives

/-! ### The operations of Machine/Answers.lean -/

theorem cacheWalk (h : Keeps s₀ s) {p : WalkPkt} {words : List Word} :
    Keeps s₀ (Machine.cacheWalk s p w n words).1 := by
  unfold Machine.cacheWalk
  dsimp only
  split
  · exact h
  · exact .ite_fst h.dropHandle (.ite h.cacheEntry h)

theorem walkReplied (h : Keeps s₀ s) {p : WalkPkt} {x : WalkData} : Keeps s₀ (Machine.walkReplied s p x) := by
  unfold Machine.walkReplied
  split
  · exact h
  · dsimp only
    refine .ite (h.endWalk.foldl fun h => h.retranslate) ?_
    refine .ite (h.endWalk.foldl fun h => h.replyArrives) ?_
    split
    · exact h.endWalk.cacheRecord.foldl fun h => h.retranslate
    · exact h.endWalk.cacheWalk.foldl fun h => h.translateReq

theorem redirected (h : Keeps s₀ s) : Keeps s₀ (Machine.redirected s id) := by
  unfold Machine.redirected
  split
  · exact h
  · exact h.dropEntry.translateReq

theorem waitCancelled (h : Keeps s₀ s) : Keeps s₀ (Machine.waitCancelled s r) := by
  unfold Machine.waitCancelled
  split
  · exact h.dropReq.unpark.runCmds
  · exact h.replyArrives
  · exact h.replyArrives

theorem retried (h : Keeps s₀ s) : Keeps s₀ (Machine.retried s id) := by
  unfold Machine.retried
  split
  · exact h
  · exact .ite h.modReq.post h.modReq

theorem backedOff (h : Keeps s₀ s) : Keeps s₀ (Machine.backedOff s id) := by
  unfold Machine.backedOff
  split
  · exact h
  · refine .ite h ?_
    split
    · exact h.sendMsg
    · exact h.translateReq

theorem limitExpired (h : Keeps s₀ s) : Keeps s₀ (Machine.limitExpired s id) := by
  unfold Machine.limitExpired
  split
  · exact h
  · exact .ite h (.ite h.modReq.sendCancelWait h.waitCancelled)

theorem cancelWaitArrives (h : Keeps s₀ s) : Keeps s₀ (Machine.cancelWaitArrives s id core) := by
  unfold Machine.cancelWaitArrives
  split
  · split
    · exact h.clearWait
    · exact h
  · dsimp only
    split
    · exact h.clearWait.send
    · exact h.send

theorem cancelWaitAnswered (h : Keeps s₀ s) {served : Bool} :
    Keeps s₀ (Machine.cancelWaitAnswered s id served) := by
  unfold Machine.cancelWaitAnswered
  split
  · exact h
  · exact .ite h.waitCancelled (.ite h (.ite h.sendCancelWait h.waitCancelled))

theorem majPhase2 (h : Keeps s₀ s) {seq : Nat} {g : BitVec 512} : Keeps s₀ (Machine.majPhase2 s r seq g) :=
  (h.modReq fun _ _ => rfl).foldl fun h => h.sendReplica

theorem majLoaded (h : Keeps s₀ s) {members : List Nat} {p : Word × BitVec 512} :
    Keeps s₀ (Machine.majLoaded s r members p) :=
  h.replyArrives.foldl fun h => h.sendReplica

theorem majDecide (h : Keeps s₀ s) : Keeps s₀ (Machine.majDecide s r) := by
  unfold Machine.majDecide
  extract_lets +onlyGivenNames l
  refine .ite ?_ (.ite (.ite h.replyArrives h) (.ite h.majLoaded h))
  refine .ite ?_ (.ite h.replyArrives h)
  extract_lets +onlyGivenNames l p
  refine .ite (.ite h.replyArrives h.majPhase2) ?_
  exact .ite h.majLoaded (.ite (.ite h.replyArrives h.majReads) (.foldl (h.modReq fun _ _ => rfl) fun h => h.sendReplica))

theorem majAnswered (h : Keeps s₀ s) {p : MajPkt} {a : MajAns} : Keeps s₀ (Machine.majAnswered s p a) := by
  unfold Machine.majAnswered
  split
  · exact h
  · exact .ite h (.ite h.translateReq (.ite (h.modReq fun _ _ => rfl).majDecide (.ite h (h.modReq fun _ _ => rfl).majDecide)))

/-! ### The operations of Machine/Activate.lean -/

theorem rowOpened (h : Keeps s₀ s) : Keeps s₀ (Machine.rowOpened s core k row) := by
  unfold Machine.rowOpened
  exact .refreshNow (.ite h.writeHeld.runCmds h.writeHeld)

theorem refreshEnd (h : Keeps s₀ s) : Keeps s₀ (Machine.refreshEnd s core k) := by
  unfold Machine.refreshEnd
  split
  · exact h.modSub.rowOpened
  · exact h.modSub.kick
  · exact h

theorem rowActivation (h : Keeps s₀ s) : Keeps s₀ (Machine.rowActivation s core k) := by
  unfold Machine.rowActivation
  split
  · split
    · exact .ite h.modSub.beginActivation h
    · exact h
  · split
    · exact h.modSub.modThr.rowOpened
    · exact h.modSub.rowOpened
    · exact h.modSub.serveNext
  · exact h

/-! ### The operations of Machine/Engine.lean -/

theorem touchRecord (h : Keeps s₀ s) : Keeps s₀ (Machine.touchRecord s slot w) := by
  unfold Machine.touchRecord
  refine .ite h ?_
  dsimp only
  split
  · exact h.meetRecord.meetRecord
  · exact h.meetRecord

theorem touchEntries (h : Keeps s₀ s) : Keeps s₀ (Machine.touchEntries s slot o subs) := by
  unfold Machine.touchEntries
  exact .ite h (h.foldl fun h => h.foldl fun h => h.touchWord)

theorem noteGranule (h : Keeps s₀ s) {read : Bool} : Keeps s₀ (Machine.noteGranule s read a) := by
  unfold Machine.noteGranule
  split
  · exact h
  · next e => exact .update (h.updateTrace fun e' => nomatch e.symm.trans e')

theorem noteReplica (h : Keeps s₀ s) {read : Bool} {p : MajPkt} : Keeps s₀ (Machine.noteReplica s read p) :=
  h.noteGranule.noteGranule

theorem majPut (h : Keeps s₀ s) {e : List Word} {tag : Word} {data : BitVec 512} :
    Keeps s₀ (Machine.majPut s o e n g tag data) :=
  h.foldl fun h => .ite h.modStack h.noteReplica.replicaWrite

theorem majAnswers (h : Keeps s₀ s) {e : List Word} : Keeps s₀ (Machine.majAnswers s o e n g).1 :=
  h.foldl_fst fun h => h.noteReplica.replicaRead

theorem majGet (h : Keeps s₀ s) {e : List Word} : Keeps s₀ (Machine.majGet s o e n g).1 := by
  unfold Machine.majGet
  exact .ite_fst h.majAnswers h.majAnswers

theorem majLoad (h : Keeps s₀ s) {e : List Word} : Keeps s₀ (Machine.majLoad s o e n g).1 := by
  unfold Machine.majLoad
  split
  · next e => exact h.majGet.of_fst e
  · next e => exact (h.majGet.of_fst e).majPut

theorem majStore (h : Keeps s₀ s) {e : List Word} {x m : BitVec 512} :
    Keeps s₀ (Machine.majStore s o e n g writer x m).1 := by
  unfold Machine.majStore
  split
  · next e => exact h.majGet.of_fst e
  · next e =>
      have h := h.majGet.of_fst e
      exact .ite_fst h h.majPut

theorem putWords (h : Keeps s₀ s) {l : List (Nat × Word × Word)} : Keeps s₀ (Machine.putWords s full l) := by
  unfold Machine.putWords
  refine h.foldl fun h => ?_
  extract_lets +onlyGivenNames s'
  have h' : Keeps s₀ s' := .ite h.putWord (.update h)
  exact .ite h'.fillFE h'

theorem putFar (h : Keeps s₀ s) {l : List (Nat × ObjPkt)} : Keeps s₀ (Machine.putFar s tile thr l) :=
  h.foldl fun h => .ite (.update (h.leaveModule.updateActing Option.map_eq_none_iff.2)) h.diversion

theorem putGrans {l : List (Nat × BitVec 512 × BitVec 512)} (h : Keeps s₀ s) :
    Keeps s₀ (Machine.putGrans slot o writer l s).1 := by
  induction l generalizing s with
  | nil => exact h
  | cons p l ih =>
    unfold Machine.putGrans
    split
    · exact h
    · split
      · next e => exact ih (h.majStore.of_fst e)
      · next e => exact h.majStore.of_fst e

theorem putElems (h : Keeps s₀ s) {l : List Put} : Keeps s₀ (Machine.putElems s slot o full l) := by
  unfold Machine.putElems
  split
  · next e => exact .update (h.updateActing fun e' => nomatch e.symm.trans e')
  · extract_lets +onlyGivenNames s1 ws s2
    have h1 : Keeps s₀ s1 := h.foldl fun h => h.noteGranule
    have h2 : Keeps s₀ s2 := h1.putWords
    exact .ite (h2.foldl fun h => h.clearReserved) h2

theorem sendFeed (h : Keeps s₀ s) : Keeps s₀ (Machine.sendFeed s f) :=
  .update (h.updateActing Option.map_eq_none_iff.2)

theorem flush (h : Keeps s₀ s) {w : Writes} :
    Keeps s₀ (Machine.flush s slot o subs tile thr writer full w).1 := by
  unfold Machine.flush
  extract_lets +onlyGivenNames s1 s2
  have h1 : Keeps s₀ s1 := h.touchEntries.putElems.putFar
  have h2 : Keeps s₀ s2 := by
    unfold s2
    refine h1.foldl fun h => ?_
    split
    · exact h.follow
    · exact h
  exact h2.putGrans

theorem openBytes (h : Keeps s₀ s) : Keeps s₀ (Machine.openBytes s n).1 := h

theorem majBytes (h : Keeps s₀ s) {e : List Word} : Keeps s₀ (Machine.majBytes s o e n).1 := by
  unfold Machine.majBytes
  refine h.foldl_fst fun h => ?_
  split
  · next e => exact h.majLoad.of_fst e
  · next e => exact (h.majLoad.of_fst e).openBytes

theorem subtileBytes (h : Keeps s₀ s) : Keeps s₀ (Machine.subtileBytes s slot w n).1 := by
  unfold Machine.subtileBytes
  extract_lets +onlyGivenNames s1
  have h1 : Keeps s₀ s1 := h.touchRecord
  split
  · exact h1
  · refine .ite_fst h1 ?_
    extract_lets +onlyGivenNames o s2 unread
    have h2 : Keeps s₀ s2 := h1.touchEntries
    have hunread : Keeps s₀ unread.1 := by
      dsimp only [unread]
      exact h2.openBytes
    split
    · refine .ite_fst hunread ?_
      extract_lets +onlyGivenNames a s3
      have h3 : Keeps s₀ s3 := .ite h2 h2.touch
      exact h3
    · exact h2
    · exact h2.majBytes
    all_goals exact hunread

theorem putCopy (h : Keeps s₀ s) {bad : List Nat} : Keeps s₀ (Machine.putCopy s a bs bad) := by
  unfold Machine.putCopy
  exact .update h.putBytes

/-! ### The operations of Machine/Launch.lean -/

theorem postFree (h : Keeps s₀ s) : Keeps s₀ (Machine.postFree s e) := by
  unfold Machine.postFree
  exact .update h.post

theorem poke (h : Keeps s₀ s) {part : BitVec 16} : Keeps s₀ (Machine.poke s part) := by
  unfold Machine.poke
  exact .ite h h.post

theorem touchPacket (h : Keeps s₀ s) {q : QueueSt} : Keeps s₀ (Machine.touchPacket s q x) := by
  unfold Machine.touchPacket
  exact .ite h (h.foldl fun h => h.touchWord)

theorem dropLaunch (h : Keeps s₀ s) : Keeps s₀ (Machine.dropLaunch s id) := h

theorem enterLaunch (h : Keeps s₀ s) {p : Packet} {thr : Option Thr} :
    Keeps s₀ (Machine.enterLaunch s q x p key thr) := by
  unfold Machine.enterLaunch
  exact .ite h (.update h)

theorem enterRange (h : Keeps s₀ s) : Keeps s₀ (Machine.enterRange s q x n) := by
  unfold Machine.enterRange
  refine h.foldl fun h => ?_
  dsimp only
  split <;> exact h.touchPacket.enterLaunch

theorem kickQueue (h : Keeps s₀ s) : Keeps s₀ (Machine.kickQueue s q) := by
  unfold Machine.kickQueue
  exact .ite h.postFree h

theorem advance (h : Keeps s₀ s) : Keeps s₀ (Machine.advance s q) := h.modQueue.kickQueue

theorem freezeQueue (h : Keeps s₀ s) : Keeps s₀ (Machine.freezeQueue s q) := h.modQueue

theorem leaveCounter (h : Keeps s₀ s) : Keeps s₀ (Machine.leaveCounter s q) := by
  unfold Machine.leaveCounter
  exact .modQueue (.update h)

theorem visit (h : Keeps s₀ s) : Keeps s₀ (Machine.visit s t) := h.send

theorem visitThread (h : Keeps s₀ s) : Keeps s₀ (Machine.visitThread s wide t) := by
  unfold Machine.visitThread
  exact .ite h.visit.visit h.visit

theorem freeRow (h : Keeps s₀ s) : Keeps s₀ (Machine.freeRow s t wide) := by
  unfold Machine.freeRow
  exact .noteFree (.discardInbox (.setThr (.ite h.answerStep.zeroRow.zeroRow h.answerStep.zeroRow)))

theorem freeThread (h : Keeps s₀ s) : Keeps s₀ (Machine.freeThread s wide t) := by
  unfold Machine.freeThread
  extract_lets +onlyGivenNames free one mine s1 s2
  have hfree : ∀ {s t}, Keeps s₀ s → Keeps s₀ (free s t) := fun h => h.freeRow.visitThread
  have hone : ∀ {s t}, Keeps s₀ s → Keeps s₀ (one s t) := fun h => hfree h.leaveReqs
  have h1 : Keeps s₀ s1 := .update h.filterPairs
  have h2 : Keeps s₀ s2 := h1.foldl fun h => hfree (hfree (hone h))
  exact hone h2

theorem notifyLaunch (h : Keeps s₀ s) {status : Nat} : Keeps s₀ (Machine.notifyLaunch s l status) := by
  unfold Machine.notifyLaunch
  split
  · exact h
  · exact h.toInbox

theorem countCompletion (h : Keeps s₀ s) {status : Nat} : Keeps s₀ (Machine.countCompletion s q status) :=
  h.modQueue

theorem tellLaunch (h : Keeps s₀ s) : Keeps s₀ (Machine.tellLaunch s l) := by
  unfold Machine.tellLaunch
  extract_lets +onlyGivenNames q s1 s2
  have h1 : Keeps s₀ s1 := .ite (.ite h.notifyLaunch h) (.ite h.countCompletion h)
  have h2 : Keeps s₀ s2 := .ite h1 h1.dropLaunch
  exact h2.poke.kickQueue

theorem completeLaunch (h : Keeps s₀ s) {status : Nat} {token decrement : Bool} :
    Keeps s₀ (Machine.completeLaunch s id status token decrement) := by
  unfold Machine.completeLaunch
  split
  · exact h
  · refine .ite h ?_
    extract_lets +onlyGivenNames err s1 _ s2 s3 s4 s5 steps decs
    have h1 : Keeps s₀ s1 := .ite (h.foldl fun h => h.freeThread) h
    have h2 : Keeps s₀ s2 := .update h1
    have h3 : Keeps s₀ s3 := h2.foldl fun h => .ite h h.answer
    have h4 : Keeps s₀ s4 := .ite h3.freezeQueue h3
    have h5 : Keeps s₀ s5 := h4.modLaunch
    exact .ite h5.tellLaunch (h5.foldl fun h => h.follow)

theorem launchCompleted (h : Keeps s₀ s) : Keeps s₀ (Machine.launchCompleted s id) := by
  unfold Machine.launchCompleted
  split
  · exact h
  · exact .ite h.tellLaunch (.ite h.completeLaunch h)

theorem cancelRow (h : Keeps s₀ s) : Keeps s₀ (Machine.cancelRow req s t) := h.send

theorem cancelStub (h : Keeps s₀ s) : Keeps s₀ (Machine.cancelStub s t) := h.setTState.setFinfo.visit

theorem cancelLaunch (h : Keeps s₀ s) : Keeps s₀ (Machine.cancelLaunch req s id) := by
  unfold Machine.cancelLaunch
  split
  · exact h
  · split
    · exact h
    · exact h.completeLaunch
    · exact h.completeLaunch
    · exact h.completeLaunch
    · extract_lets +onlyGivenNames s'
      have h' : Keeps s₀ s' := h.modLaunch
      exact .ite h' (.ite (h'.foldl fun h => h.cancelStub).completeLaunch (h'.foldl fun h => h.cancelRow))

theorem cancelNamed (h : Keeps s₀ s) {graph : Bool} : Keeps s₀ (Machine.cancelNamed req s n graph) :=
  h.modCounter.foldl fun h => h.cancelLaunch

theorem makeReady (h : Keeps s₀ s) : Keeps s₀ (Machine.makeReady s id) := by
  unfold Machine.makeReady
  split
  · exact h
  · exact .poke (.update h.modLaunch)

theorem releaseOne (h : Keeps s₀ s) {c : CounterSt} {w : Waiter} : Keeps s₀ (Machine.releaseOne s c w) := by
  unfold Machine.releaseOne
  split
  · exact .ite h.completeLaunch h.makeReady
  · exact h.modQueue.kickQueue
  · split
    · exact h
    · exact h.send

theorem releaseCounter (h : Keeps s₀ s) : Keeps s₀ (Machine.releaseCounter s n) :=
  h.modCounter.foldl fun h => h.releaseOne

theorem decrementCounter (h : Keeps s₀ s) {err : Bool} : Keeps s₀ (Machine.decrementCounter s n err) := by
  unfold Machine.decrementCounter
  exact .ite h.modCounter.releaseCounter h.modCounter

theorem setCounter (h : Keeps s₀ s) {v : BitVec 32} : Keeps s₀ (Machine.setCounter s n v) := by
  unfold Machine.setCounter
  exact .ite h.modCounter.releaseCounter h.modCounter

theorem divertCounter (h : Keeps s₀ s) : Keeps s₀ (Machine.divertCounter s r n) := h.diversion

theorem counterDecremented (h : Keeps s₀ s) {err : Bool} :
    Keeps s₀ (Machine.counterDecremented s n err req) := by
  unfold Machine.counterDecremented
  refine .ite h.decrementCounter ?_
  split
  · exact h
  · exact .send (.ite h.decrementCounter h.divertCounter)

theorem counterWritten (h : Keeps s₀ s) : Keeps s₀ (Machine.counterWritten s n v pf) := by
  unfold Machine.counterWritten
  exact .setCounter (.ite h.setCounter.modCounter h)

theorem rejectPlain (h : Keeps s₀ s) : Keeps s₀ (Machine.rejectPlain s q) := h.freezeQueue.advance

theorem heldPacket (h : Keeps s₀ s) {p : Packet} {act : State → State}
    (hact : ∀ {s}, Keeps s₀ s → Keeps s₀ (act s)) :
    Keeps s₀ (Machine.heldPacket s q p act) := by
  unfold Machine.heldPacket
  dsimp only
  split
  · exact h
  · exact h.advance
  · exact hact h
  · exact .ite h.rejectPlain (.ite (hact h) (.ite h.modCounter.modQueue (.ite h.advance (hact h))))

theorem counterPacketActs (h : Keeps s₀ s) : Keeps s₀ (Machine.counterPacketActs s q) := by
  unfold Machine.counterPacketActs
  exact .ite (h.touchPacket.heldPacket fun h => h.setCounter.advance) h.touchPacket.kickQueue

theorem writeFence (h : Keeps s₀ s) {q : QueueSt} {p : Packet} : Keeps s₀ (Machine.writeFence s q p x) := by
  unfold Machine.writeFence
  split
  · exact h
  · exact .ite h h.flush

theorem fencePacketActs (h : Keeps s₀ s) : Keeps s₀ (Machine.fencePacketActs s q) := by
  unfold Machine.fencePacketActs
  extract_lets +onlyGivenNames qs s' p
  have h' : Keeps s₀ s' := h.touchPacket
  refine .ite (h'.heldPacket fun h => .ite h.modQueue (.ite h.modQueue.post h.writeFence.modQueue.advance)) ?_
  exact h'.kickQueue

theorem doorbellRings (h : Keeps s₀ s) : Keeps s₀ (Machine.doorbellRings s q v) := by
  unfold Machine.doorbellRings
  exact .ite h h.enterRange.modQueue.kickQueue

/-! ### The operations of Machine/Place.lean -/

theorem dispatchLaunch (h : Keeps s₀ s) : Keeps s₀ (Machine.dispatchLaunch s q l) := by
  unfold Machine.dispatchLaunch
  extract_lets +onlyGivenNames s' p c
  have h' : Keeps s₀ s' := h.modLaunch
  refine .ite h'.dropLaunch.advance ?_
  extract_lets +onlyGivenNames s2 gone
  have h2 : Keeps s₀ s2 := h'.modQueue
  have hgone : ∀ {status token}, Keeps s₀ (gone status token) := h2.completeLaunch.kickQueue
  refine .ite hgone (.ite hgone ?_)
  refine .ite h'.makeReady.advance ?_
  exact .ite h'.modCounter.modLaunch.poke.advance (.ite hgone h'.makeReady.advance)

theorem dispatched (h : Keeps s₀ s) : Keeps s₀ (Machine.dispatched s q) := by
  unfold Machine.dispatched
  dsimp only
  refine .ite h ?_
  split
  · exact .dispatchLaunch (.ite h.enterRange h)
  · exact .ite (.kickQueue (.ite h.enterRange h)) (.rejectPlain (.ite h.enterRange h))

theorem loanArrives (h : Keeps s₀ s) {prio : Nat} : Keeps s₀ (Machine.loanArrives s part t prio) := by
  unfold Machine.loanArrives
  exact .ite (h.deferPair fun h => h.setC) h

theorem givePrio (h : Keeps s₀ s) {prio : Nat} : Keeps s₀ (Machine.givePrio s l prio) := by
  unfold Machine.givePrio
  exact .ite h (.ite (h.modLaunch.foldl fun h => h.send) h.modLaunch)

theorem meetOwners (h : Keeps s₀ s) {p : Packet} : Keeps s₀ (Machine.meetOwners s slot p) := by
  unfold Machine.meetOwners
  dsimp only
  refine .ite h ?_
  split
  · exact h.touchRecord.touchEntries
  · exact h.touchRecord

theorem tryPlace (h : Keeps s₀ s) {part : BitVec 16} : Keeps s₀ (Machine.tryPlace s part) := by
  unfold Machine.tryPlace
  refine .ite h ?_
  split
  · dsimp only
    split
    · exact h.meetOwners.postFree
    · exact h.meetOwners.completeLaunch
    · exact .ite h.meetOwners.post h.meetOwners
  · exact h

theorem priorityLoaned (h : Keeps s₀ s) {part : BitVec 16} : Keeps s₀ (Machine.priorityLoaned s part) :=
  (h.foldl fun h => h.givePrio).tryPlace

theorem reserved (h : Keeps s₀ s) {rows : List Thr} : Keeps s₀ (Machine.reserved s id rows) := by
  unfold Machine.reserved
  split
  · exact h
  · exact .ite h.poke (.ite h.post (h.foldl fun h => h.noteFree))

theorem agentReports (h : Keeps s₀ s) : Keeps s₀ (Machine.agentReports s tile) := h.modTile.poke

theorem placeThread (h : Keeps s₀ s) {i : Nat} : Keeps s₀ (Machine.placeThread s slot l i t) := by
  unfold Machine.placeThread
  extract_lets +onlyGivenNames p wide s1 s2 copy a s3 b s4 s5 s6 s7 s8 s9 s10 s11 s12
  have h1 : Keeps s₀ s1 := h.zeroRow
  have h2 : Keeps s₀ s2 := .ite h1.zeroRow h1
  have hcopy : ∀ {s n at_ from_ len}, Keeps s₀ s → Keeps s₀ (copy s n at_ from_ len) := by
    intro s n at_ from_ len h
    dsimp only [copy]
    split
    · next e => exact .of_fst e (.ite_fst h h.subtileBytes)
    · next e =>
        have h : Keeps s₀ _ := .of_fst e (.ite_fst h h.subtileBytes)
        exact h.putCopy
  have h3 : Keeps s₀ s3 := hcopy h2
  have h4 : Keeps s₀ s4 := .ite (hcopy (hcopy h3)) h3
  have h5 : Keeps s₀ s5 := h4.setS.setS.setS
  have h6 : Keeps s₀ s6 := h5.setC
  have h7 : Keeps s₀ s7 := h6.setC
  have h8 : Keeps s₀ s8 := h7.setLive
  have h9 : Keeps s₀ s9 := h8.setC
  have h10 : Keeps s₀ s10 := h9.setC
  have h11 : Keeps s₀ s11 := h10.setC
  have h12 : Keeps s₀ s12 := h11.setC.setC
  exact h12.setThr

theorem placeCode (h : Keeps s₀ s) : Keeps s₀ (Machine.placeCode s core handle entry) := by
  unfold Machine.placeCode
  extract_lets +onlyGivenNames part s'
  have h' : Keeps s₀ s' := .ite h h.fillCodeRow
  split
  · exact h'
  · exact h'.modCore

theorem releaseMsg (h : Keeps s₀ s) {m : Msg} : Keeps s₀ (Machine.releaseMsg s m) := h.post

theorem placed (h : Keeps s₀ s) {rows : List Thr} : Keeps s₀ (Machine.placed s id rows) := by
  unfold Machine.placed
  split
  · exact h
  · refine .ite h.poke ?_
    split
    · exact h
    · refine .ite (h.foldl fun h => h.noteFree) (.ite h.post ?_)
      extract_lets +onlyGivenNames p all cores s1 s2 s3 s4 s5 s6 s7
      have h1 : Keeps s₀ s1 := h.foldl fun h => h.wakeCore
      have h2 : Keeps s₀ s2 := h1.foldl fun h => h.placeThread
      have h3 : Keeps s₀ s3 := .ite (h2.foldl fun h => h.makePair) h2
      have h4 : Keeps s₀ s4 := h3.foldl fun h => h.visit
      have h5 : Keeps s₀ s5 := h4.foldl fun h => h.placeCode.noteFree
      have h6 : Keeps s₀ s6 := h5.modLaunch
      have h7 : Keeps s₀ s7 := .update h6
      exact (h7.foldl fun h => h.releaseMsg).poke

/-! ### The operations of Machine/Pairs.lean -/

theorem checkpointed (h : Keeps s₀ s) : Keeps s₀ (Machine.checkpointed s t) := by
  unfold Machine.checkpointed
  split
  · exact h
  · exact .ite h (.post (.send (.ite h.touchWord.sideTrap h.touchWord)))

theorem stopTimeouts (h : Keeps s₀ s) {p : PairSt} : Keeps s₀ (Machine.stopTimeouts s p) := h.unpost.unpost

theorem decidePair (h : Keeps s₀ s) {p : PairSt} : Keeps s₀ (Machine.decidePair s p) := by
  unfold Machine.decidePair
  extract_lets +onlyGivenNames s' copies
  have h' : Keeps s₀ s' := h.stopTimeouts
  have hcopies : ∀ {commit}, Keeps s₀ (copies commit) := h'.modPair.post.post
  exact .ite hcopies (.ite h'.losePair hcopies)

theorem printArrives (h : Keeps s₀ s) {fp : Word} : Keeps s₀ (Machine.printArrives s t fp) := by
  unfold Machine.printArrives
  split
  · exact h
  · extract_lets +onlyGivenNames s'
    have h' : Keeps s₀ s' := h.modPair fun p => by split <;> exact ⟨rfl, rfl⟩
    split
    · exact .ite h'.decidePair h'
    · exact h'

theorem printLate (h : Keeps s₀ s) : Keeps s₀ (Machine.printLate s t) := by
  unfold Machine.printLate
  split
  · exact h
  · exact .ite h h.stopTimeouts.losePair

theorem sendHeld (h : Keeps s₀ s) : Keeps s₀ (Machine.sendHeld s r) := by
  unfold Machine.sendHeld
  dsimp only
  split
  · exact h.addReq.sendRow
  · exact h.addReq.sendRow
  · exact h.addReq.sendMsg
  · exact .ite h.addReq.sendAccess h.addReq.majReads

theorem dissolve (h : Keeps s₀ s) {p : PairSt} : Keeps s₀ (Machine.dissolve s p) := by
  unfold Machine.dissolve
  exact .setC (.foldl (.update h.leaveReqs.filterPairs) fun h => h.freeRow)

theorem undoFollower (h : Keeps s₀ s) {p : PairSt} : Keeps s₀ (Machine.undoFollower s p) := by
  unfold Machine.undoFollower
  split
  · exact .ite h.dropReq.unpark h
  · exact h

theorem committed (h : Keeps s₀ s) {p : PairSt} : Keeps s₀ (Machine.committed s p) := by
  unfold Machine.committed
  extract_lets +onlyGivenNames sides s1 s2 s3 w s4 s5 s6
  have h1 : Keeps s₀ s1 := h.modPair
  have h2 : Keeps s₀ s2 := h1.foldl fun h => .ite h.setC h.setC.setC
  have h3 : Keeps s₀ s3 := h2.undoFollower
  have h4 : Keeps s₀ s4 := by
    unfold s4
    split
    · exact h3.applyTrap.applyTrap
    · exact h3
  have h5 : Keeps s₀ s5 := .ite h4.setTState.setTState.threadEnded h4
  have h6 : Keeps s₀ s6 := by
    unfold s6
    split
    · exact h5.dissolve.replyArrives
    · exact h5
  exact h6.foldl fun h => h.post

theorem sendEffects {l : List Req} (h : Keeps s₀ s) : Keeps s₀ (Machine.sendEffects leader l s) := by
  induction l generalizing s with
  | nil => exact h.modPair
  | cons r l ih => exact .ite (ih h.sendHeld) h.sendHeld.modPair

theorem sendOn (h : Keeps s₀ s) : Keeps s₀ (Machine.sendOn s leader) := by
  unfold Machine.sendOn
  split
  · exact h
  · refine .ite h ?_
    dsimp only
    split
    · exact .ite h.sendEffects.committed h.sendEffects
    · exact h.sendEffects

theorem rolledBack (h : Keeps s₀ s) {p : PairSt} : Keeps s₀ (Machine.rolledBack s p) := by
  unfold Machine.rolledBack
  extract_lets +onlyGivenNames back s1 s2
  have hback : ∀ {s t}, Keeps s₀ s → Keeps s₀ (back s t) := by
    intro s t h
    refine .modThr ?_
    split
    · exact h.withdrawReq
    · exact h
  have h1 : Keeps s₀ s1 := hback (hback h)
  have h2 : Keeps s₀ s2 := h1.modPair
  exact h2.foldl fun h => h.post

theorem touchRow (h : Keeps s₀ s) : Keeps s₀ (Machine.touchRow s t) := by
  unfold Machine.touchRow
  exact .ite h h.touch

theorem shadowCopied (h : Keeps s₀ s) {commit : Bool} : Keeps s₀ (Machine.shadowCopied s t commit) := by
  unfold Machine.shadowCopied
  split
  · exact h
  · refine .ite h (.ite h.post ?_)
    extract_lets +onlyGivenNames s1 wide sh second s2 bad
    have h1 : Keeps s₀ s1 := h.spendCredits
    have h2 : Keeps s₀ s2 := .ite h1 (.ite h1.touchRow.touchRow h1.touchRow)
    refine .ite h2.losePair ?_
    extract_lets +onlyGivenNames s3 s4
    have h3 : Keeps s₀ s3 := .ite h2.copyThread h2.copyThread
    have h4 : Keeps s₀ s4 := h3.modPair
    refine .ite h4 (.ite h4.modPair.sendOn ?_)
    split
    · exact h4.rolledBack
    · exact h4

theorem lookPairs (h : Keeps s₀ s) : Keeps s₀ (Machine.lookPairs s core) := by
  unfold Machine.lookPairs
  exact h.foldl fun h => .ite (h.foldl fun h => .ite h.post h).sendOn (h.foldl fun h => .ite h.post h)

theorem answerSteps (h : Keeps s₀ s) : Keeps s₀ (Machine.answerSteps s core) := by
  unfold Machine.answerSteps
  refine h.foldl fun h => ?_
  split
  · exact .ite h h.modThr.commandDone
  · exact h

theorem coreEnd (h : Keeps s₀ s) : Keeps s₀ (Machine.coreEnd s core) := by
  unfold Machine.coreEnd
  exact .ite h.treadle.answerSteps h.treadle.answerSteps.lookPairs

/-! ### The operations of Machine/Swap.lean -/

theorem endSwap (h : Keeps s₀ s) {status : Nat} : Keeps s₀ (Machine.endSwap s status) := h

theorem copySegment (h : Keeps s₀ s) {own : Bool} : Keeps s₀ (Machine.copySegment s own src dst k) :=
  h.touch.putCopy

theorem stopForSwap (h : Keeps s₀ s) : Keeps s₀ (Machine.stopForSwap s t).1 := by
  unfold Machine.stopForSwap
  dsimp only
  refine .ite_fst h ?_
  split
  · exact .ite_fst (.ite_fst h.writeHeld.settle h.writeHeld) h.writeHeld.callOutside
  · exact .ite_fst h.writeHeld.settle h.writeHeld

theorem saveThread (h : Keeps s₀ s) {i : Nat} : Keeps s₀ (Machine.saveThread s slot l i t) := by
  unfold Machine.saveThread
  extract_lets +onlyGivenNames wide s1 s2 st kept ks out s3 s4 stub
  have h1 : Keeps s₀ s1 := h.touchWord
  have h2 : Keeps s₀ s2 := .ite h1.ownPoison h1
  have hout : ∀ {s own src n}, Keeps s₀ s → Keeps s₀ (out s own src n) := by
    intro s own src n h
    dsimp only [out]
    split
    · exact (h.foldl fun h => h.copySegment).visit
    · exact h
  have h3 : Keeps s₀ s3 := hout h2
  have h4 : Keeps s₀ s4 := .ite (hout h3) h3
  have hstub : ∀ {s t}, Keeps s₀ s → Keeps s₀ (stub s t) :=
    fun h => .visitThread (.modThr (.setC (.setC (.setC (.zeroRow (.ite h.zeroRow h))))))
  split
  · exact hstub (hstub h4)
  · exact hstub h4

theorem swapOutThreads (h : Keeps s₀ s) : Keeps s₀ (Machine.swapOutThreads s slot l) := by
  unfold Machine.swapOutThreads
  extract_lets +onlyGivenNames s'
  have h' : Keeps s₀ s' := by
    unfold s'
    refine h.foldl fun h => .ite h ?_
    split
    · next e => exact (h.stopForSwap.of_fst e).saveThread
    · next e => exact h.stopForSwap.of_fst e
  exact .ite (.ite h'.modLaunch.endSwap.cancelLaunch h'.modLaunch.endSwap) h'.post

theorem swapsOut (h : Keeps s₀ s) : Keeps s₀ (Machine.swapsOut s) := by
  unfold Machine.swapsOut
  refine .ite h ?_
  split
  · exact h.endSwap
  · split
    · exact h.endSwap
    · exact .ite h.endSwap (.ite h.swapOutThreads (.ite h.endSwap h.modLaunch.swapOutThreads))

theorem restoreRow (h : Keeps s₀ s) {ks : List Nat} : Keeps s₀ (Machine.restoreRow s src dst ks) :=
  (h.foldl fun h => .ite h.copySegment (.putBytes (.update h))).visit.visit

theorem restoreThread (h : Keeps s₀ s) {i : Nat} : Keeps s₀ (Machine.restoreThread s slot l i t) := by
  unfold Machine.restoreThread
  dsimp only
  split
  · exact h
  · split
    · refine .restPair (.setC ?_)
      refine .setC (.ite ?_ h.restoreRow)
      split
      · exact h.restoreRow.restoreRow
      · exact h.restoreRow
    · refine .setC (.setC ?_)
      refine .ite ?_ h.restoreRow
      split
      · exact h.restoreRow.restoreRow
      · exact h.restoreRow

theorem swapsIn (h : Keeps s₀ s) : Keeps s₀ (Machine.swapsIn s) := by
  unfold Machine.swapsIn
  refine .ite h ?_
  split
  · exact h.endSwap
  · split
    · exact h.endSwap
    · refine .ite h.endSwap ?_
      extract_lets +onlyGivenNames s1 s2 s3
      have h1 : Keeps s₀ s1 := h.foldl fun h => h.wakeCore
      have h2 : Keeps s₀ s2 := h1.foldl fun h => h.restoreThread
      have h3 : Keeps s₀ s3 := h2.modLaunch.endSwap
      exact .ite h3.cancelLaunch h3

/-! ### The operations of Machine/Jobs.lean -/

theorem modJobs (h : Keeps s₀ s) {q : QSel} {f : List Job → List Job} :
    Keeps s₀ (Machine.modJobs s tile q f) :=
  h.modTile

theorem modJob (h : Keeps s₀ s) {q : QSel} {f : Job → Job} : Keeps s₀ (Machine.modJob s tile q entry f) :=
  h.modJobs

theorem runEngine (h : Keeps s₀ s) {q : QSel} : Keeps s₀ (Machine.runEngine s tile q) := by
  unfold Machine.runEngine
  split
  · exact .ite h (.update h.post)
  · exact h

theorem acceptJob (h : Keeps s₀ s) {e : Nat} : Keeps s₀ (Machine.acceptJob s tile r e) := by
  unfold Machine.acceptJob
  extract_lets +onlyGivenNames q j s1 s2 s3
  have h1 : Keeps s₀ s1 := .modJobs (.update h)
  have h2 : Keeps s₀ s2 := h1.modReq
  have h3 : Keeps s₀ s3 := .ite (.ite h2.setC h2) (.ite h2.replyArrives h2.answer)
  exact h3.runEngine

theorem submitTo (h : Keeps s₀ s) : Keeps s₀ (Machine.submitTo s tile id) := by
  unfold Machine.submitTo
  split
  · exact h
  · dsimp only
    split
    · exact h.acceptJob
    · exact h.modReq.modTile

theorem admitFull (h : Keeps s₀ s) {q : QSel} : Keeps s₀ (Machine.admitFull s tile q) := by
  unfold Machine.admitFull
  dsimp only
  split
  · exact h.modTile.acceptJob
  · exact h

theorem freeEntryOf (h : Keeps s₀ s) {q : QSel} : Keeps s₀ (Machine.freeEntryOf s tile q entry) :=
  h.modJobs.admitFull

theorem withBlock (h : Keeps s₀ s) {rs : List SReg} {a : SReg} {k : State → Nat → State}
    (hk : ∀ {s x}, Keeps s₀ s → Keeps s₀ (k s x)) :
    Keeps s₀ (Machine.withBlock s rs a n k) :=
  h.withChecked fun h => hk h

theorem blockCommand (h : Keeps s₀ s) {a : SReg} {start : State → Nat → State}
    (hstart : ∀ {s x}, Keeps s₀ s → Keeps s₀ (start s x)) :
    Keeps s₀ (Machine.blockCommand i a n kind cause start s) :=
  h.withBlock fun h => h.withRegs fun h => h.beyond hstart

theorem jobEntry (h : Keeps s₀ s) : Keeps s₀ (Machine.jobEntry s tile thr key ref status) := h.toInbox

theorem deliverJob (h : Keeps s₀ s) {q : QSel} : Keeps s₀ (Machine.deliverJob s tile q j status) := by
  unfold Machine.deliverJob
  refine .ite h.modJob ?_
  extract_lets +onlyGivenNames s1
  have h1 : Keeps s₀ s1 := h.modJob
  split
  next inbox ctr _ =>
    extract_lets s2 n s3 s4 s5 s6
    have h2 : Keeps s₀ s2 := .ite h1.jobEntry h1
    have h3 : Keeps s₀ s3 := .ite h2.send h2
    have h4 : Keeps s₀ s4 := by
      unfold s4
      refine .ite ?_ h3
      split
      · exact h3.replyArrives
      · exact h3
    have h5 : Keeps s₀ s5 := h4.foldl fun h => h.answer
    have h6 : Keeps s₀ s6 := .ite h5.freeEntryOf h5
    exact h6.runEngine

theorem sendGranules (h : Keeps s₀ s) {no : Nat} {c : FeedCls} {l : List Feed} :
    Keeps s₀ (Machine.sendGranules s tile no c l) :=
  h.foldl fun h => h.send

theorem sendFeeds (h : Keeps s₀ s) {q : QSel} {l : List Feed} : Keeps s₀ (Machine.sendFeeds s tile q j l) :=
  h.modJob.sendGranules

theorem again (h : Keeps s₀ s) : Keeps s₀ (Machine.again s tile j) := h.post

theorem awaitFar (h : Keeps s₀ s) {q : QSel} : Keeps s₀ (Machine.awaitFar s tile q j) := by
  unfold Machine.awaitFar
  exact .send (.modJob (.addReq (.update h)))

theorem actJob (h : Keeps s₀ s) {q : QSel} {run : State → Job → State}
    (hrun : ∀ {s₀ s x}, Keeps s₀ s → Keeps s₀ (run s x)) :
    Keeps s₀ (Machine.actJob s tile q j run) := by
  unfold Machine.actJob
  extract_lets +onlyGivenNames seq s1 s2 a s3 s4
  have h1 : Keeps s₀ s1 := h.modJob
  have h3 : Keeps s₀ s3 := .acted (.update h1) (hrun (refl _))
  have h4 : Keeps s₀ s4 := .ite h3.awaitFar h3
  refine .ite h4.sendFeeds (.ite ?_ h4)
  split
  · exact h4.again
  · exact h4

theorem runOrFeed (h : Keeps s₀ s) {q : QSel} {run : State → Job → State}
    (hrun : ∀ {s₀ s x}, Keeps s₀ s → Keeps s₀ (run s x)) :
    Keeps s₀ (Machine.runOrFeed s tile q j run) := by
  unfold Machine.runOrFeed
  extract_lets +onlyGivenNames s'
  have h' : Keeps s₀ s' := h.foldl fun h => h.touchRecord
  exact .ite (h'.actJob hrun) (.ite (h'.tried (hrun (refl _))) (.ite (h'.actJob hrun) h'.sendFeeds))

theorem settleJob (h : Keeps s₀ s) {q : QSel} : Keeps s₀ (Machine.settleJob s tile q j status) := by
  unfold Machine.settleJob
  exact .ite h (.ite h.again h.deliverJob)

theorem withJob (h : Keeps s₀ s) {q : QSel} {mine : Instr → Bool} {stopped : State → Job → Word → State}
    {run : State → Job → State} (hstopped : ∀ {s x x2}, Keeps s₀ s → Keeps s₀ (stopped s x x2))
    (hrun : ∀ {s₀ s x}, Keeps s₀ s → Keeps s₀ (run s x)) :
    Keeps s₀ (Machine.withJob s tile q mine stopped run) := by
  unfold Machine.withJob
  split
  · exact h
  · refine .ite h (.ite (hstopped h) ?_)
    split
    · exact h.settleJob
    · exact .ite (hstopped h) (h.runOrFeed hrun)

theorem takeJob (h : Keeps s₀ s) {q : QSel} : Keeps s₀ (Machine.takeJob s tile q j) := by
  unfold Machine.takeJob
  exact .ite h.freeEntryOf h

theorem takeAwaited (h : Keeps s₀ s) : Keeps s₀ (Machine.takeAwaited s id) := by
  unfold Machine.takeAwaited
  split
  · exact h.takeJob
  · exact h

theorem majPage {e : List Word} {l : List Nat} {p : Page} (h : Keeps s₀ s) :
    Keeps s₀ (Machine.majPage s o e sub l p).1 := by
  induction l generalizing s p with
  | nil => exact h
  | cons g l ih =>
    unfold Machine.majPage
    split
    · next e => exact ih (h.majLoad.of_fst e)
    · next e => exact ih (h.majLoad.of_fst e)

theorem farPage (h : Keeps s₀ s) {w : Doer} : Keeps s₀ (Machine.farPage s w dev core row n).1 := by
  unfold Machine.farPage
  exact .ite_fst (.update h) (h.foldl fun h => h.diversion)

theorem noteSpot (h : Keeps s₀ s) {x : Spot} : Keeps s₀ (Machine.noteSpot s hs x) := by
  unfold Machine.noteSpot
  split
  · exact h
  · exact h
  · split
    · exact .ite h.noteGranule h
    · exact h

theorem readPage (h : Keeps s₀ s) {w : Doer} {k : Home} {offs : List Nat} :
    Keeps s₀ (Machine.readPage s w o k sub offs).1 := by
  unfold Machine.readPage
  dsimp only
  split
  · exact h
  · exact h
  · exact h
  · exact h
  · exact h
  · exact h.majPage
  · exact .ite_fst h.farPage (.ite_fst h (.ite h (h.foldl fun h => h.touchWord)))

theorem readHomes {w : Doer} {l : List Spot} {ps : Pages} (h : Keeps s₀ s) :
    Keeps s₀ (Machine.readHomes s w o l hs ps).1 := by
  induction hs generalizing s ps with
  | nil => exact h
  | cons x hs ih => exact ih h.readPage

theorem readPages (h : Keeps s₀ s) {w : Doer} {l : List Spot} :
    Keeps s₀ (Machine.readPages s w o l hs).1 := by
  unfold Machine.readPages
  exact .readHomes (.ite (h.touchEntries.foldl fun h => h.noteSpot) h.touchEntries)

theorem readingPages (h : Keeps s₀ s) {r : Reading} : Keeps s₀ (Machine.Reading.pages s r).1 := h.readPages

/-! ### The operations of Machine/Matrix.lean -/

theorem completeMat (h : Keeps s₀ s) {nan ovf : Bool} :
    Keeps s₀ (Machine.completeMat s tile j status nan ovf) :=
  h.setTile.deliverJob

theorem readOperands {l : List (Nat × Reading)} (h : Keeps s₀ s) : Keeps s₀ (Machine.readOperands s l).1 := by
  induction l generalizing s with
  | nil => exact h
  | cons x l ih => exact ih h.readingPages

theorem stopMat (h : Keeps s₀ s) : Keeps s₀ (Machine.stopMat s tile j status) := h.modTile.completeMat

theorem failMat (h : Keeps s₀ s) {st : Word} : Keeps s₀ (Machine.failMat s tile j st) := by
  unfold Machine.failMat
  exact .ite h.stopMat h.completeMat

theorem zeroBank (h : Keeps s₀ s) {b : Nat} : Keeps s₀ (Machine.zeroBank s tile b) := h.modTile

theorem mmulRun (h : Keeps s₀ s) : Keeps s₀ (Machine.mmulRun s tile j) := by
  unfold Machine.mmulRun
  extract_lets +onlyGivenNames bank
  split
  · exact h.completeMat
  · refine .ite h.again ?_
    split
    · exact h.failMat
    · extract_lets +onlyGivenNames x
      have hx : Keeps s₀ x.1 := h.readOperands
      refine .ite hx.completeMat (.ite hx.completeMat ?_)
      split
      · exact hx.failMat
      · exact .completeMat (.modTile (.ite hx (.update hx)))

theorem loadB (h : Keeps s₀ s) {bf f : Nat} {live : List Bool} :
    Keeps s₀ (Machine.loadB s tile j bf f wide live) := by
  unfold Machine.loadB
  dsimp only
  split
  · exact h.completeMat
  · refine .ite h.again ?_
    split
    · exact h.failMat
    · split
      · exact h.readOperands.failMat
      · exact h.readOperands.modTile.completeMat

theorem mldbRun (h : Keeps s₀ s) : Keeps s₀ (Machine.mldbRun s tile j) := by
  unfold Machine.mldbRun
  dsimp only
  refine .ite h.completeMat ?_
  split
  · exact h.completeMat
  · refine .ite h.completeMat (.ite (.ite h.loadB h.completeMat) ?_)
    split
    · exact h.completeMat
    · refine .ite h.again ?_
      split
      · exact h.failMat
      · split
        · exact h.readOperands.failMat
        · exact .ite h.readOperands.loadB h.readOperands.completeMat

theorem moutRun (h : Keeps s₀ s) : Keeps s₀ (Machine.moutRun s tile j) := by
  unfold Machine.moutRun
  dsimp only
  refine .ite h.completeMat ?_
  split
  · exact h.completeMat
  · split
    · exact h.completeMat
    · exact .ite h.completeMat (.ite h.again h.flush.completeMat)

theorem mzeroRun (h : Keeps s₀ s) : Keeps s₀ (Machine.mzeroRun s tile j) := by
  unfold Machine.mzeroRun
  exact .ite h.completeMat (.completeMat (.ite h.modTile h.zeroBank))

theorem mtestRun (h : Keeps s₀ s) : Keeps s₀ (Machine.mtestRun s tile j) := h.setTile.deliverJob

theorem toMatrix (h : Keeps s₀ s) : Keeps s₀ (Machine.toMatrix s id) := by
  unfold Machine.toMatrix
  split
  · exact h.submitTo
  · exact h

theorem matrixWait (h : Keeps s₀ s) {a : SReg} : Keeps s₀ (Machine.matrixWait i a cause s) := by
  unfold Machine.matrixWait
  exact .ite h.trapNow (h.blockCommand fun h => h.toMatrix)

theorem regCommand (h : Keeps s₀ s) {start : State → Nat → State}
    (hstart : ∀ {s x}, Keeps s₀ s → Keeps s₀ (start s x)) :
    Keeps s₀ (Machine.regCommand i regs cause start s) :=
  h.withRegs fun h => h.beyond hstart

theorem readStat (h : Keeps s₀ s) : Keeps s₀ (Machine.readStat s id) := by
  unfold Machine.readStat
  split
  · exact h.replyArrives
  · exact h

/-! ### The operations of Machine/Copy.lean -/

theorem endCopy (h : Keeps s₀ s) {landed : Nat} {under : Nat} :
    Keeps s₀ (Machine.endCopy s tile j landed status under) := by
  unfold Machine.endCopy
  exact .ite h.deliverJob (.ite h.modJob h.modJob.post)

theorem runMoves (h : Keeps s₀ s) {so do_ : Opd} {sOper dOper : Nat} {blocks : Moves} :
    Keeps s₀ (Machine.runMoves s tile j so do_ sOper dOper writer blocks).1 := by
  unfold Machine.runMoves
  dsimp only
  split <;> exact h.readPages.flush

theorem copyRun (h : Keeps s₀ s) : Keeps s₀ (Machine.copyRun s tile j) := by
  unfold Machine.copyRun
  dsimp only
  refine .ite h.deliverJob ?_
  split
  · exact h.deliverJob
  · exact .ite h.again h.runMoves.endCopy

theorem stopCopy (h : Keeps s₀ s) : Keeps s₀ (Machine.stopCopy s tile j status) := h.deliverJob

theorem cpyxRun (h : Keeps s₀ s) : Keeps s₀ (Machine.cpyxRun s tile j) := by
  unfold Machine.cpyxRun
  dsimp only
  refine .ite h.deliverJob ?_
  split
  · exact h.deliverJob
  · exact .ite h.again h.runMoves.endCopy

theorem dropAll (h : Keeps s₀ s) {wrapped : Bool} : Keeps s₀ (Machine.dropAll s slot j w wrapped).1 := by
  unfold Machine.dropAll
  exact .ite_fst h.addReq.startDrop h

theorem swapFrame (h : Keeps s₀ s) {d : Opd} {p : Nat} {bytes : List Byte} :
    Keeps s₀ (Machine.swapFrame s slot j d sub a p bytes).1 := by
  unfold Machine.swapFrame
  extract_lets +onlyGivenNames w0 f g key t s1 s2 s3 s4 s5
  have h1 : Keeps s₀ s1 := h.foldl fun h => h.noteGranule
  have h2 : Keeps s₀ s2 := h1.zeroRow.dropGranules.putFull
  have h3 : Keeps s₀ s3 := h2.admitPosted.vacateFrame
  have h4 : Keeps s₀ s4 := h3.setFrame.takeFrame
  have h5 : Keeps s₀ s5 := h4.writeEntry
  exact h5.pushFrame.dropAll

theorem cpycRun (h : Keeps s₀ s) : Keeps s₀ (Machine.cpycRun s tile j) := by
  unfold Machine.cpycRun
  dsimp only
  refine .ite h.deliverJob ?_
  split
  · exact h.deliverJob
  · refine .ite h.deliverJob (.ite h.deliverJob ?_)
    split
    · exact h.deliverJob
    · split
      · exact h.deliverJob
      · exact h.deliverJob
      · refine .ite h.again ?_
        split
        · exact h.touchEntries.deliverJob
        · exact h.touchEntries.deliverJob
        · split
          · exact h.touchEntries.deliverJob
          · next e =>
            have h : Keeps s₀ _ := .of_fst e (.ite_fst h.touchEntries.popFrame h.touchEntries)
            split
            · exact h.readPages.pushFrame.deliverJob
            · exact .ite h.readPages.pushFrame.deliverJob h.readPages.swapFrame.endCopy
        · exact h.touchEntries.deliverJob

theorem putPointer (h : Keeps s₀ s) {v : Nat} : Keeps s₀ (Machine.putPointer s j w v).1 :=
  h.addReq.startAccess

theorem pointerStep (h : Keeps s₀ s) : Keeps s₀ (Machine.pointerStep s tile j) := by
  unfold Machine.pointerStep
  dsimp only
  refine .ite h.again ?_
  split
  · split
    · exact h.deliverJob
    · exact h.putPointer.modJob.post
  · exact h.deliverJob
  · exact h.deliverJob

theorem toStreamer (h : Keeps s₀ s) : Keeps s₀ (Machine.toStreamer s id) := by
  unfold Machine.toStreamer
  split
  · exact h.submitTo
  · exact h

/-! ### The operations of Machine/Gather.lean -/

theorem readList (h : Keeps s₀ s) : Keeps s₀ (Machine.readList s tile j).1 := by
  unfold Machine.readList
  dsimp only
  split
  · exact h
  · refine .ite_fst h ?_
    split
    · exact h
    · split <;> exact h.readingPages

theorem gatherPlan (h : Keeps s₀ s) {oCls pCls oOper pOper : Nat} {oMaj : Bool} {pOk oOk : Opd → Bool}
    {pairOk : Opd → Opd → Bool} :
    Keeps s₀ (Machine.gatherPlan s tile j oCls pCls oOper pOper oMaj pOk oOk pairOk).1 := by
  unfold Machine.gatherPlan
  dsimp only
  refine .ite_fst h ?_
  split
  · exact h
  · split
    · refine .ite_fst h (.ite_fst h ?_)
      split
      · next e => exact h.readList.of_fst e
      · next e => exact h.readList.of_fst e
      · next e =>
          have h := h.readList.of_fst e
          split
          · exact h
          · exact .ite_fst h h
    · exact h
    · exact h

theorem endGather (h : Keeps s₀ s) {w : Option Word} : Keeps s₀ (Machine.endGather s tile j w) := by
  unfold Machine.endGather
  split
  · exact h.deliverJob
  · exact h.again

theorem gathRun (h : Keeps s₀ s) : Keeps s₀ (Machine.gathRun s tile j) := by
  unfold Machine.gathRun
  split
  · next e => exact (h.gatherPlan.of_fst e).endGather
  · next e =>
      have h := h.gatherPlan.of_fst e
      exact .ite h.again h.runMoves.deliverJob

theorem scatRun (h : Keeps s₀ s) : Keeps s₀ (Machine.scatRun s tile j) := by
  unfold Machine.scatRun
  split
  · next e => exact (h.gatherPlan.of_fst e).endGather
  · next e =>
      have h := h.gatherPlan.of_fst e
      exact .ite h.again h.runMoves.deliverJob

theorem addAll {g : Gathered} {oh ph : List (Nat × Home)} {pages : Pages} {l : List (Spot × Spot)} {i : Nat}
    (h : Keeps s₀ s) :
    Keeps s₀ (Machine.addAll tile slot thr g oh ph pages l i s).1 := by
  induction l generalizing s i with
  | nil => exact h
  | cons x l ih =>
    unfold Machine.addAll
    split
    · exact h
    · dsimp only
      split
      · exact ih h
      · exact ih h
      · split
        · exact ih (.ite h.putFar h.sendFeed)
        · exact ih h

theorem scataddRun (h : Keeps s₀ s) : Keeps s₀ (Machine.scataddRun s tile j) := by
  unfold Machine.scataddRun
  dsimp only
  split
  · next e => exact (h.gatherPlan.of_fst e).endGather
  · next e =>
      have h := h.gatherPlan.of_fst e
      exact .ite h.again h.touchEntries.readPages.addAll.deliverJob

theorem toGather (h : Keeps s₀ s) : Keeps s₀ (Machine.toGather s id) := by
  unfold Machine.toGather
  split
  · exact h.submitTo
  · exact h

/-! ### The operations of Machine/Sequencer.lean -/

theorem applyStep (h : Keeps s₀ s) {k : SeqSt} : Keeps s₀ (Machine.applyStep s core k).1 := by
  unfold Machine.applyStep
  extract_lets +onlyGivenNames b l roles row reads s'
  have h' : Keeps s₀ s' := h.foldl fun h => h.touch
  split
  · exact h'
  · extract_lets +onlyGivenNames bufs out put s2 s3
    have hput : ∀ {s row x}, Keeps s₀ s → Keeps s₀ (put s row x) := fun h => h.dropGranules.putFull
    have h2 : Keeps s₀ s2 := h'.foldl fun h => hput h
    have h3 : Keeps s₀ s3 := .ite (h2.foldl fun h => hput h) h2
    exact h3

theorem modSeq (h : Keeps s₀ s) {f : SeqSt → SeqSt} : Keeps s₀ (Machine.modSeq s core f) := h.modCore

theorem stepIn (h : Keeps s₀ s) {d : Nat} : Keeps s₀ (Machine.stepIn s core d) := h.unpost.post

theorem deliverSeq (h : Keeps s₀ s) {k : SeqSt} : Keeps s₀ (Machine.deliverSeq s core k status) := by
  unfold Machine.deliverSeq
  refine .ite h.jobEntry ?_
  split
  · exact h.replyArrives
  · exact h.modCore

theorem acceptSeq (h : Keeps s₀ s) : Keeps s₀ (Machine.acceptSeq s core r) := by
  unfold Machine.acceptSeq
  dsimp only
  split
  · exact h.replyArrives.deliverSeq
  · exact h.modCore.replyArrives.stepIn

theorem nextSeq {l : List Nat} (h : Keeps s₀ s) : Keeps s₀ (Machine.nextSeq s core l) := by
  induction l generalizing s with
  | nil => exact h.modCore
  | cons i l ih =>
    unfold Machine.nextSeq
    split
    · exact ih h
    · exact .ite h.modCore.acceptSeq (ih h.modCore.acceptSeq)

theorem endSeq (h : Keeps s₀ s) {k : SeqSt} : Keeps s₀ (Machine.endSeq s core k status) := by
  unfold Machine.endSeq
  extract_lets +onlyGivenNames subs s1 s2 s3
  have h1 : Keeps s₀ s1 := h.modCore
  have h2 : Keeps s₀ s2 := by
    unfold s2
    refine h1.foldl fun h => ?_
    split
    · exact h.modSub.kick
    · exact h
  have h3 : Keeps s₀ s3 := h2.deliverSeq
  exact h3.nextSeq

theorem takeSubs (h : Keeps s₀ s) : Keeps s₀ (Machine.takeSubs s core subs).1 := by
  unfold Machine.takeSubs
  refine h.foldl_fst fun h => ?_
  dsimp only
  split
  · exact h
  · exact h.modSub
  · exact h.modSub
  · exact .ite h.endYield.beginClose h
  all_goals exact h

theorem spillRows (h : Keeps s₀ s) {k : SeqSt} : Keeps s₀ (Machine.spillRows s core k) := by
  unfold Machine.spillRows
  exact .modSeq (.putFull (.dropGranules (.dropGranules (.update h))))

theorem beginService (h : Keeps s₀ s) {k : SeqSt} : Keeps s₀ (Machine.beginService s core k) :=
  h.spendCredits.spillRows.modSeq.post

theorem beginStop (h : Keeps s₀ s) {k : SeqSt} : Keeps s₀ (Machine.beginStop s core k) :=
  h.spendCredits.spillRows.modSeq.stepIn

theorem atStep (h : Keeps s₀ s) {k : SeqSt} {looked : Bool} : Keeps s₀ (Machine.atStep s core k looked) := by
  unfold Machine.atStep
  dsimp only
  refine .ite h.endSeq (.ite h.endSeq ?_)
  refine .ite h.endSeq ?_
  split
  · exact h.refreshErrors.modSub.modSeq.stepIn
  · refine .ite h.beginService ?_
    exact .ite (.ite h.beginStop h.stepIn) (.ite h.stepIn h.spendCredits.putBus.modSeq.stepIn)

theorem rowStep (h : Keeps s₀ s) : Keeps s₀ (Machine.rowStep s core) := by
  unfold Machine.rowStep
  split
  · exact h
  · refine .ite h ?_
    split
    · exact .ite h.endSeq (.ite h.takeSubs.modSeq.atStep h.takeSubs.stepIn)
    · exact h.atStep
    · split
      · next e => exact (h.applyStep.of_fst e).endSeq
      · next e => exact (h.applyStep.of_fst e).modSeq.atStep
    · exact h
    · exact h.modCore.endSeq

theorem serviceInterval (h : Keeps s₀ s) : Keeps s₀ (Machine.serviceInterval s core) := by
  unfold Machine.serviceInterval
  split
  · exact h
  · split
    · refine .ite h ?_
      dsimp only
      split
      · exact .ite h.post (.post (.modSeq (.applyIn (.raiseBus (.modCore (.ite h h.spendCredits))))))
      · exact .ite h.post h.spendCredits.modSeq.stepIn
    all_goals exact h

theorem toSequencer (h : Keeps s₀ s) : Keeps s₀ (Machine.toSequencer s id) := by
  unfold Machine.toSequencer
  split
  · exact h
  · next e =>
      extract_lets +onlyGivenNames core r s'
      have h' : Keeps s₀ s' := h.modReq fun _ _ => (findReq_id e :)
      exact .ite h'.modCore h'.acceptSeq

theorem waitSeq (h : Keeps s₀ s) : Keeps s₀ (Machine.waitSeq s id) := by
  unfold Machine.waitSeq
  split
  · exact h
  · dsimp only
    split
    · exact h.setCore.replyArrives
    · exact .ite h.modReq h.replyArrives

theorem entryBack (h : Keeps s₀ s) {own : Nat} : Keeps s₀ (Machine.entryBack s id own tile x) := by
  unfold Machine.entryBack
  exact .ite h.replyArrives h.answer

theorem pollEntry (h : Keeps s₀ s) {own : Nat} {q : QSel} {e : Nat} :
    Keeps s₀ (Machine.pollEntry s id own tile q e t) := by
  unfold Machine.pollEntry
  split
  · exact h.entryBack
  · split
    · exact h.takeJob.entryBack
    · exact h.entryBack

theorem poll (h : Keeps s₀ s) : Keeps s₀ (Machine.poll s id) := by
  unfold Machine.poll
  split
  · exact h
  · dsimp only
    split
    · exact h.replyArrives
    · exact h.pollEntry
    · split
      · exact h.setCore.replyArrives
      · exact h.replyArrives

theorem waitJob (h : Keeps s₀ s) : Keeps s₀ (Machine.waitJob s id) := by
  unfold Machine.waitJob
  split
  · exact h
  · dsimp only
    split
    · exact h.replyArrives
    · exact h.waitSeq
    · split
      · exact h.pollEntry
      · split
        · exact .ite h.pollEntry h.modJob.answer
        · exact h.modJob.modReq.setC

theorem takeCommand (h : Keeps s₀ s) {a : SReg} {start : State → Nat → State}
    (hstart : ∀ {s x}, Keeps s₀ s → Keeps s₀ (start s x)) :
    Keeps s₀ (Machine.takeCommand i a start s) :=
  h.withRegs fun h => h.beyond hstart

/-! ### The operations of Machine/Collective.lean -/

theorem endReduce (h : Keeps s₀ s) {b : List Word} : Keeps s₀ (Machine.endReduce s id thr b status) := by
  unfold Machine.endReduce
  exact .answer (.ite h.post h)

theorem writeResult (h : Keeps s₀ s) {c : Contrib} {vals : List Nat} :
    Keeps s₀ (Machine.writeResult s c vals).1 := by
  unfold Machine.writeResult
  dsimp only
  split
  · exact h
  · exact h.flush

theorem admitted (h : Keeps s₀ s) {f : State → State} (hf : ∀ {s₀ s}, Keeps s₀ s → Keeps s₀ (f s)) :
    Keeps s₀ (Machine.admitted s f) := by
  unfold Machine.admitted
  exact .sendGranules (h.traced (hf (refl _)))

theorem combine (h : Keeps s₀ s) : Keeps s₀ (Machine.combine s g) := by
  unfold Machine.combine
  dsimp only
  split
  · exact h
  · exact .ite h.post (h.modGroup.admitted fun h => h.foldl fun h => h.writeResult.endReduce)

theorem contribute (h : Keeps s₀ s) {c : Contrib} : Keeps s₀ (Machine.contribute s g c) := by
  unfold Machine.contribute
  exact .ite h.modGroup.postFree h.modGroup

theorem spreadContribution (h : Keeps s₀ s) {c : Contrib} : Keeps s₀ (Machine.spreadContribution s g c) :=
  h.foldl fun h => .update h

theorem contributionArrives (h : Keeps s₀ s) {m : BitVec 46} {b : List Word} {data : List Byte} :
    Keeps s₀ (Machine.contributionArrives s g m b data) := by
  unfold Machine.contributionArrives
  exact .ite h h.contribute

theorem acceptReduce (h : Keeps s₀ s) : Keeps s₀ (Machine.acceptReduce s id) := by
  unfold Machine.acceptReduce
  split
  · exact h
  · dsimp only
    refine .ite h.modReq.endReduce ?_
    split
    · exact h.modReq.endReduce
    · exact h.modReq.endReduce
    · split
      · exact h.modReq.endReduce
      · exact h.modReq.endReduce
      · split
        · exact h.modReq.readPages.endReduce
        · exact h.modReq.readPages.spreadContribution.contribute

theorem withdraw (h : Keeps s₀ s) {m : BitVec 46} : Keeps s₀ (Machine.withdraw s g m) := by
  unfold Machine.withdraw
  exact .ite h (h.modGroup.foldl fun h => h.endReduce)

/-! ### The operations of Machine/Tasks.lean -/

theorem toIo (h : Keeps s₀ s) {op : ReqOp} : Keeps s₀ (Machine.toIo op s id) := by
  unfold Machine.toIo
  split
  · exact h
  · exact h.modReq.send

theorem ioAnswer (h : Keeps s₀ s) : Keeps s₀ (Machine.ioAnswer s id x) := h.answer

theorem writePacket (h : Keeps s₀ s) {q : QueueSt} {p : Packet} : Keeps s₀ (Machine.writePacket s q x p) := by
  unfold Machine.writePacket
  refine h.foldl fun h => ?_
  split
  · exact h.putWord
  · exact h

theorem launchArrives (h : Keeps s₀ s) : Keeps s₀ (Machine.launchArrives s id) := by
  unfold Machine.launchArrives
  split
  · exact h
  · split
    · exact h.ioAnswer
    · exact .kickQueue (.ioAnswer (.ite h.writePacket.modQueue.enterLaunch (.update h.writePacket.modQueue)))

theorem counterInsn (h : Keeps s₀ s) {a : SReg} {r : Order} {detail : Word → Word} {y : State → Word}
    {start : State → Nat → State} (hstart : ∀ {s x}, Keeps s₀ s → Keeps s₀ (start s x)) :
    Keeps s₀ (Machine.counterInsn i a r regs kind cause detail y start s) := by
  unfold Machine.counterInsn
  refine h.withRegs fun h => ?_
  dsimp only
  refine h.beyond fun h => ?_
  split
  · exact h.withFence hstart
  · exact hstart h

theorem sendDecrement (h : Keeps s₀ s) : Keeps s₀ (Machine.sendDecrement s id) := by
  unfold Machine.sendDecrement
  split
  · exact h
  · exact h.modReq.send

theorem addArrives (h : Keeps s₀ s) : Keeps s₀ (Machine.addArrives s id) := by
  unfold Machine.addArrives
  split
  · exact h
  · exact .ioAnswer (.ite h.modCounter h.divertCounter)

theorem waitArrives (h : Keeps s₀ s) : Keeps s₀ (Machine.waitArrives s id) := by
  unfold Machine.waitArrives
  split
  · exact h
  · exact .ite h.divertCounter.ioAnswer (.ite h.ioAnswer h.modCounter)

theorem cancelJob (h : Keeps s₀ s) {q : QSel} : Keeps s₀ (Machine.cancelJob s tile q j) := by
  unfold Machine.cancelJob
  dsimp only
  split
  · exact h.modJob
  · exact .ite h.modJob h.modJob.stopCopy
  · exact .ite h.modJob h.modJob.endGather

theorem cancelRef (h : Keeps s₀ s) : Keeps s₀ (Machine.cancelRef s r).1 := by
  unfold Machine.cancelRef
  dsimp only
  refine .ite_fst h ?_
  split
  · exact h
  · split
    · exact h
    · exact .ite_fst h.cancelJob h
  · split
    · exact h
    · exact .ite_fst h.modCore h

theorem cancelTarget (h : Keeps s₀ s) : Keeps s₀ (Machine.cancelTarget s r).1 := by
  unfold Machine.cancelTarget
  dsimp only
  split
  · refine .ite_fst h ?_
    split
    · exact h
    · exact .ite_fst h (.ite_fst h h.cancelLaunch)
  · exact .ite_fst h h.cancelRef
  · exact .ite_fst h (.ite_fst h h.cancelNamed)

theorem cancelArrives (h : Keeps s₀ s) : Keeps s₀ (Machine.cancelArrives s id) := by
  unfold Machine.cancelArrives
  split
  · exact h
  · exact .ite h.post (.ite h.cancelTarget.ioAnswer h.cancelTarget.modReq)

/-! ### The operations of Machine/System.lean -/

theorem setMode (h : Keeps s₀ s) : Keeps s₀ (Machine.setMode s core wide) :=
  ((h.foldl fun h => h.putBytes).modCore fun _ => List.length_map _).noteFree

theorem repartArrives (h : Keeps s₀ s) : Keeps s₀ (Machine.repartArrives s id) := by
  unfold Machine.repartArrives
  split
  · exact h
  · exact .ite h.answer (.ite h.answer h.setMode.answer)

theorem sendRepart (h : Keeps s₀ s) : Keeps s₀ (Machine.sendRepart s id) := by
  unfold Machine.sendRepart
  split
  · exact h
  · exact .ite h.send (.ite h.settleDown h.send)

theorem caprArrives (h : Keeps s₀ s) : Keeps s₀ (Machine.caprArrives s id) := by
  unfold Machine.caprArrives
  split
  · exact h
  · exact h.ioAnswer

/-! ### The operations of Machine/Health.lean -/

theorem meetFeed (h : Keeps s₀ s) : Keeps s₀ (Machine.meetFeed s f) := by
  unfold Machine.meetFeed
  refine .ite h ?_
  dsimp only
  split
  · exact h.touchFrame.touch
  · exact h.touchFrame

theorem addAt (h : Keeps s₀ s) {f32 : Bool} {x : Nat} : Keeps s₀ (Machine.addAt s f32 a x) := h.putBytes

theorem feedFails (h : Keeps s₀ s) {code : Nat} : Keeps s₀ (Machine.feedFails s f code) := by
  unfold Machine.feedFails
  split
  · exact h
  · exact h.modJob

theorem feedEffect (h : Keeps s₀ s) : Keeps s₀ (Machine.feedEffect s f) := by
  unfold Machine.feedEffect
  dsimp only
  split
  · exact h
  · split
    · exact h.touch.modJob
    · exact h.touch
  · exact .ite (h.putWords.foldl fun h => h.clearReserved) h.putWords
  · exact .ite h.touch.feedFails h.touch.addAt

theorem feedCounted (h : Keeps s₀ s) : Keeps s₀ (Machine.feedCounted s f) := by
  unfold Machine.feedCounted
  cases f.cls with
  | scrub =>
    dsimp only
    split
    · exact .ite h.modStack.post h.modStack
    · exact h
  | system => exact h
  | matrix | copy | gather =>
    dsimp only
    split
    · exact h
    · split
      · exact h.modJob.sendGranules
      · exact .ite h.modJob.post h.modJob

theorem feedLost (h : Keeps s₀ s) : Keeps s₀ (Machine.feedLost s f) := by
  unfold Machine.feedLost
  refine .feedCounted ?_
  split
  · exact h.feedFails
  · exact h.feedFails
  · exact h
  · exact h

theorem feedElsewhere (h : Keeps s₀ s) {a : FeedAt} : Keeps s₀ (Machine.feedElsewhere s f a) := by
  unfold Machine.feedElsewhere
  split
  · exact h
  · exact h
  · exact h.send
  · exact h.feedFails.feedCounted

theorem feedArrives (h : Keeps s₀ s) : Keeps s₀ (Machine.feedArrives s f) := by
  unfold Machine.feedArrives
  dsimp only
  refine .ite h.meetFeed.feedLost ?_
  split
  · refine .ite (.ite h.meetFeed.useGranules.feedEffect.feedCounted h.meetFeed.useGranules.feedEffect.ingress) ?_
    exact h.meetFeed.ingress
  · exact h.meetFeed.feedElsewhere

theorem feedAdmitted (h : Keeps s₀ s) {early : Bool} : Keeps s₀ (Machine.feedAdmitted s f early) := by
  unfold Machine.feedAdmitted
  dsimp only
  refine .ite h.meetFeed.feedCounted ?_
  split
  · exact h.meetFeed.feedEffect.feedCounted
  · exact h.meetFeed.feedElsewhere

theorem stopJobs (h : Keeps s₀ s) {st : Word} : Keeps s₀ (Machine.stopJobs s tile st) := by
  unfold Machine.stopJobs
  refine h.foldl fun h => h.foldl fun h => ?_
  split
  · exact h.stopMat
  · exact h.stopCopy
  · exact h.endGather

theorem applyHeld (h : Keeps s₀ s) {a : Event} : Keeps s₀ (Machine.applyHeld s a) := by
  unfold Machine.applyHeld
  split
  · exact h.applyReplica
  · exact h.applyReplica
  · exact h

theorem holdStack (h : Keeps s₀ s) : Keeps s₀ (Machine.holdStack s k) := by
  unfold Machine.holdStack
  exact .ite h (.modStack (.foldl (.update h) fun h => h.modCore))

theorem writeHold (h : Keeps s₀ s) : Keeps s₀ (Machine.writeHold s v req) := by
  unfold Machine.writeHold
  extract_lets +onlyGivenNames old new _ s1 s2
  have h1 : Keeps s₀ s1 := h
  have h2 : Keeps s₀ s2 := h1.foldl fun h => .ite (h.modStack.foldl fun h => h.applyHeld) (.ite h.holdStack h)
  exact .ite h2 h2.answer

theorem settleAimed (h : Keeps s₀ s) : Keeps s₀ (Machine.settleAimed s e) := by
  unfold Machine.settleAimed
  cases e with
  | heddleCancel => exact h.diversion.answerPkt.cancelEcho
  | start | stop | redirect | resume | step | heddleNone | reservedCommand | outsideRead | outsideWrite | outsideRamoadd
  | outsideRcas | corestatWrite => exact h.diversion.answerPkt
  | objectAccessArrival | admission => exact h.downAnswer
  | inboxEntry => exact h.toInbox
  | activeMessage => exact .ite h.diversion h.diversion.answer
  | walk =>
    dsimp only
    split
    · exact h.endWalk.foldl fun h => h.answer
    · exact h
  | claim =>
    dsimp only
    split
    · exact h.answer
    · exact h
  | request kind =>
    cases kind with
    | repart =>
      dsimp only
      split
      · exact h.settleDown
      · exact h
    | _ => exact h
  | _ => exact h

theorem settleDo (h : Keeps s₀ s) {a : QDo} : Keeps s₀ (Machine.settleDo s a) := by
  unfold Machine.settleDo
  split
  · exact h.settleAimed
  · exact .ite h.feedCounted h.feedLost
  · exact h

theorem settleAll (h : Keeps s₀ s) : Keeps s₀ (Machine.settleAll s k) := by
  unfold Machine.settleAll
  exact .foldl (.foldl (.update h) fun h => h.modCore) fun h => h.settleDo

theorem settleWaits (h : Keeps s₀ s) : Keeps s₀ (Machine.settleWaits s k) := by
  unfold Machine.settleWaits
  refine h.foldl fun h => h.foldl fun h => ?_
  dsimp only
  split
  · exact h.clearWait.answer
  · exact h.clearWait

theorem abortReloc (h : Keeps s₀ s) : Keeps s₀ (Machine.abortReloc s r) := by
  unfold Machine.abortReloc
  dsimp only
  split
  · exact h
  · exact h.writeEntry.setFrame.setPool.forwardHeld.unclaim

theorem settleOps (h : Keeps s₀ s) : Keeps s₀ (Machine.settleOps s k) := by
  unfold Machine.settleOps
  exact h.foldl fun h => .answer (.modReq (.ite h.unpost.abortReloc (.ite h.unclaim h)))

theorem settleTiles (h : Keeps s₀ s) : Keeps s₀ (Machine.settleTiles s k) := by
  unfold Machine.settleTiles
  extract_lets +onlyGivenNames held s1 s2
  have h1 : Keeps s₀ s1 := h
  have h2 : Keeps s₀ s2 := h1.foldl fun h => h.settleAimed
  refine h2.foldl fun h => ?_
  split
  · exact h.foldl fun h => h.send
  · exact h.foldl fun h => h.send
  · exact h

theorem majLoses (h : Keeps s₀ s) : Keeps s₀ (Machine.majLoses s k r) := by
  unfold Machine.majLoses
  exact .ite h (.ite (.ite h.modReq.answer h.modReq) (.ite h (.ite (.ite h.modReq.answer h.majReads) h)))

theorem majResend (h : Keeps s₀ s) : Keeps s₀ (Machine.majResend s k) := by
  unfold Machine.majResend
  refine h.foldl fun h => ?_
  exact .ite h (.ite (.ite (h.foldl fun h => h.sendReplica) h) (.foldl (h.modReq fun _ _ => rfl) fun h => h.sendReplica))

theorem endDown (h : Keeps s₀ s) : Keeps s₀ (Machine.endDown s l t) := by
  unfold Machine.endDown
  extract_lets +onlyGivenNames w tile kref w1 q s1 stop s2 s3
  have h1 : Keeps s₀ s1 := .ite h.toSupervisor h.toInbox
  have hstop : ∀ {s t}, Keeps s₀ s → Keeps s₀ (stop s t) :=
    fun h => h.leaveReqs.setTState.setC.setFinfo.modThr.foldl fun h => h.settleAimed
  have h2 : Keeps s₀ s2 := hstop h1
  have h3 : Keeps s₀ s3 := by
    unfold s3
    split
    · exact (hstop h2).modPair.foldl fun h => h.settleAimed
    · exact h2
  exact h3.threadEnded

theorem endThreads (h : Keeps s₀ s) : Keeps s₀ (Machine.endThreads s k) :=
  h.foldl fun h => h.foldl fun h => h.endDown

theorem withdrawWhere (h : Keeps s₀ s) {p : BitVec 46 → Bool} : Keeps s₀ (Machine.withdrawWhere s p) :=
  h.foldl fun h => h.foldl fun h => h.withdraw

theorem settleHeld (h : Keeps s₀ s) : Keeps s₀ (Machine.settleHeld s k) :=
  h.foldl fun h => (h.foldl fun h => h.settleAimed).foldl fun h => h.settleAimed

theorem setHealth (h : Keeps s₀ s) : Keeps s₀ (Machine.setHealth s k n) := h

theorem pokeAll (h : Keeps s₀ s) : Keeps s₀ (Machine.pokeAll s) := h.foldl fun h => .ite h h.poke

theorem goDown (h : Keeps s₀ s) : Keeps s₀ (Machine.goDown s k) := by
  unfold Machine.goDown
  extract_lets +onlyGivenNames s1 s2 s3 s4 s5 s6 s7 s8 s9
  have h1 : Keeps s₀ s1 := h.setHealth
  have h2 : Keeps s₀ s2 := h1.unpost.modStack
  have h3 : Keeps s₀ s3 := h2.settleAll.settleHeld.settleWaits.settleOps.settleTiles
  have h4 : Keeps s₀ s4 := h3.foldl fun h => h.stopJobs
  have h5 : Keeps s₀ s5 := h4.foldl fun h => h.majLoses
  have h6 : Keeps s₀ s6 := h5.endThreads
  have h7 : Keeps s₀ s7 := h6.foldl fun h => .ite h.leaveReqs h
  have h8 : Keeps s₀ s8 := .update (h7.updateCores fun c => by
    split
    · exact ⟨rfl, length_subs_clearCore c.2⟩
    · exact ⟨rfl, rfl⟩)
  have h9 : Keeps s₀ s9 := h8.withdrawWhere
  exact h9.echoes.pokeAll

theorem startScrub (h : Keeps s₀ s) : Keeps s₀ (Machine.startScrub s k) := by
  unfold Machine.startScrub
  exact .postFree (.modStack (.update h.unpost))

theorem goUp (h : Keeps s₀ s) : Keeps s₀ (Machine.goUp s k) := by
  unfold Machine.goUp
  exact .pokeAll (.ite h.setHealth.majResend.startScrub h.setHealth.majResend)

theorem goRebuild (h : Keeps s₀ s) : Keeps s₀ (Machine.goRebuild s k) := by
  unfold Machine.goRebuild
  exact .ite (.startScrub (.setHealth (.ite h.goDown h))) (.ite h.goDown h)

theorem scrubGranule (h : Keeps s₀ s) {x : Opd × List Word × Nat × Nat × Thr × Nat} :
    Keeps s₀ (Machine.scrubGranule s k x g) := by
  unfold Machine.scrubGranule
  extract_lets +onlyGivenNames r l
  have hr : Keeps s₀ r.1 := h.majAnswers
  refine .ite hr ?_
  extract_lets +onlyGivenNames y put s'
  have hput : ∀ {s to_}, Keeps s₀ s → Keeps s₀ (put s to_) := fun h => h.noteReplica.replicaWrite
  have h' : Keeps s₀ s' := hr.foldl hput
  exact .ite h'.modStack (hput h')

theorem scrubAll (h : Keeps s₀ s) {l : List (Opd × List Word × Nat × Nat × Thr × Nat)} :
    Keeps s₀ (Machine.scrubAll s k l) :=
  h.foldl fun h => h.foldl fun h => h.scrubGranule

theorem endScrub (h : Keeps s₀ s) : Keeps s₀ (Machine.endScrub s k) := by
  unfold Machine.endScrub
  exact .ite h.modStack.setHealth.majResend.pokeAll h.modStack

theorem scrubbed (h : Keeps s₀ s) : Keeps s₀ (Machine.scrubbed s k) := by
  unfold Machine.scrubbed
  exact .ite h (.ite h.post (.ite h.scrubAll.endScrub (.ite h.scrubAll.endScrub h.modStack.sendGranules)))

theorem pathFails (h : Keeps s₀ s) : Keeps s₀ (Machine.pathFails s dev) := by
  unfold Machine.pathFails
  extract_lets +onlyGivenNames mine _ s1 s2
  have h1 : Keeps s₀ s1 := h
  have h2 : Keeps s₀ s2 := by
    unfold s2
    refine h1.foldl fun h => ?_
    extract_lets +onlyGivenNames s3
    have h3 : Keeps s₀ s3 := by
      unfold s3
      split
      · exact h.entryFails
      · exact h.diversion
    exact .ite h3 h3.answer
  exact h2.withdrawWhere.echoes

/-! ### The operations of Machine/Registers.lean -/

theorem writeHsem (h : Keeps s₀ s) {port : Nat} {v : BitVec 2} : Keeps s₀ (Machine.writeHsem s port v) := by
  unfold Machine.writeHsem
  exact .ite (.ite (.update h) h) (.ite (.update h) h)

theorem clearQueue (h : Keeps s₀ s) {part : BitVec 16} : Keeps s₀ (Machine.clearQueue s q part) :=
  (h.foldl fun h => h.dropLaunch.foldl fun h => .ite h h.answer).leaveCounter.modQueue

theorem writeQctl (h : Keeps s₀ s) : Keeps s₀ (Machine.writeQctl s q v pf) := by
  unfold Machine.writeQctl
  extract_lets +onlyGivenNames part s1 s2
  have h1 : Keeps s₀ s1 := .ite h h.clearQueue
  have h2 : Keeps s₀ s2 := .ite h1.modQueue h
  exact .kickQueue (.ite h2.follow h2)

theorem writeQueue (h : Keeps s₀ s) {i : Nat} : Keeps s₀ (Machine.writeQueue s q i v pf) := by
  unfold Machine.writeQueue
  split
  · exact h.modQueue
  · exact h.modQueue
  · exact h.follow
  · exact h.writeQctl
  · exact h.modQueue
  · exact h

theorem writeSwapctl (h : Keeps s₀ s) : Keeps s₀ (Machine.writeSwapctl s v) := by
  unfold Machine.writeSwapctl
  refine .ite h ?_
  dsimp only
  split
  · exact .follow (.update h)
  · exact .follow (.update h)
  · exact h

theorem writeHealth (h : Keeps s₀ s) : Keeps s₀ (Machine.writeHealth s v) := h.foldl fun h => .ite h h.follow

theorem writeNonce (h : Keeps s₀ s) {i : Nat} : Keeps s₀ (Machine.writeNonce s i v) := h

theorem writeModuleReg (h : Keeps s₀ s) {o : Nat} : Keeps s₀ (Machine.writeModuleReg s o v) := by
  unfold Machine.writeModuleReg
  split
  · exact h.writeSwapctl
  · exact h.follow
  · exact h.writeHealth
  · exact .ite h (.update h)
  · exact .ite (.update h) h
  · exact .ite (.post (.update h)) h
  · exact .ite h.writeNonce (.ite (.update h) h)

theorem writeTilepart (h : Keeps s₀ s) : Keeps s₀ (Machine.writeTilepart s tile v) := by
  unfold Machine.writeTilepart
  exact .ite h h.modTile.postFree

theorem writePartcfg (h : Keeps s₀ s) {i : Nat} : Keeps s₀ (Machine.writePartcfg s slot i v) := by
  unfold Machine.writePartcfg
  dsimp only
  split
  · refine .ite h ?_
    exact .ite (.postFree (.modPart (.ite h.modPart.follow h.modPart))) (.ite h.modPart.follow h.modPart)
  · exact h.modPart
  · exact .ite h h.modPart
  · exact h.modPart

theorem writeGroup (h : Keeps s₀ s) {i : Nat} : Keeps s₀ (Machine.writeGroup s g i v) := by
  unfold Machine.writeGroup
  exact .ite h (.ite h.modGroup h.modGroup)

theorem writeReg (h : Keeps s₀ s) {off : Nat} {port : Nat} :
    Keeps s₀ (Machine.writeReg s off v port slot) := by
  unfold Machine.writeReg
  extract_lets +onlyGivenNames pf
  refine .ite h (.ite (.ite h.follow h) ?_)
  refine .ite h (.ite h ?_)
  refine .ite (.ite h.writeQueue h) (.ite h ?_)
  refine .ite (.ite h.follow h) (.ite h ?_)
  refine .ite h.writeModuleReg (.ite (.ite h.writeTilepart h) ?_)
  exact .ite (.ite h.writePartcfg h) (.ite (.ite h.modTile h) (.ite (.ite h.writeGroup h) h))

theorem writeRecord (h : Keeps s₀ s) {r : Rec} : Keeps s₀ (Machine.writeRecord s slot w r) := by
  unfold Machine.writeRecord
  refine h.foldl fun h => ?_
  split
  · exact h.putWord
  · exact h

theorem writeFrames (h : Keeps s₀ s) {place : Word} {S : Nat} :
    Keeps s₀ (Machine.writeFrames s slot w place S) := by
  unfold Machine.writeFrames
  refine h.foldl fun h => ?_
  split
  · exact h.setFrame.noteFree
  · exact h

theorem partitionEnabled (h : Keeps s₀ s) : Keeps s₀ (Machine.partitionEnabled s slot) :=
  h.modPart.writeFrames.writeFrames.writeRecord.writeRecord.writeRecord

theorem clearWords (h : Keeps s₀ s) {p : Nat → Nat → Bool} : Keeps s₀ (Machine.clearWords s tiles p) := by
  unfold Machine.clearWords
  exact .update h

theorem cancelJobs (h : Keeps s₀ s) : Keeps s₀ (Machine.cancelJobs s tiles) := by
  unfold Machine.cancelJobs
  extract_lets +onlyGivenNames mine full touched s1 s2
  have h1 : Keeps s₀ s1 := h.foldl fun h => h.modTile
  have h2 : Keeps s₀ s2 := .update (h1.updateCores fun c => by
    split
    · exact ⟨rfl, length_subs_dropKernels c.2⟩
    · exact ⟨rfl, rfl⟩)
  exact h2.foldl fun h => h.foldl fun h => h.admitFull.runEngine

theorem dropWaiters (h : Keeps s₀ s) : Keeps s₀ (Machine.dropWaiters s core) := by
  unfold Machine.dropWaiters
  refine h.foldl fun h => ?_
  dsimp only
  split
  · exact h.clearWait.send
  · exact h.clearWait

theorem dropMsgs (h : Keeps s₀ s) : Keeps s₀ (Machine.dropMsgs s core) :=
  h.modCore.foldl fun h => .ite h h.answer

theorem dropHeld (h : Keeps s₀ s) : Keeps s₀ (Machine.dropHeld s core) :=
  h.modCore.foldl fun h => h.answerMessage

theorem dropThreads (h : Keeps s₀ s) : Keeps s₀ (Machine.dropThreads s tiles) := by
  unfold Machine.dropThreads
  extract_lets +onlyGivenNames cores s1 s2 s3
  have h1 : Keeps s₀ s1 := h.foldl fun h => h.dropWaiters.dropMsgs.dropHeld
  have h2 : Keeps s₀ s2 := .update h1.filterPairs
  have h3 : Keeps s₀ s3 := h2.foldl fun h => .ite h.leaveReqs h
  exact h3.foldl fun h => h.modCore length_subs_emptyCore

theorem cancelLaunches (h : Keeps s₀ s) : Keeps s₀ (Machine.cancelLaunches s key) :=
  h.foldl fun h => h.completeLaunch.dropLaunch

theorem forgetDecrements (h : Keeps s₀ s) : Keeps s₀ (Machine.forgetDecrements s key) := h

theorem visitRows (h : Keeps s₀ s) {cores : List Nat} : Keeps s₀ (Machine.visitRows s cores) :=
  h.foldl fun h => h.foldl fun h => h.visit

theorem resetRow (h : Keeps s₀ s) : Keeps s₀ (Machine.resetRow s t) := by
  unfold Machine.resetRow
  exact .ite h.leaveReqs.freeRow.visitThread h

theorem replayQueue (h : Keeps s₀ s) : Keeps s₀ (Machine.replayQueue s q) := by
  unfold Machine.replayQueue
  exact .ite h.leaveCounter.modQueue.enterRange.kickQueue h.leaveCounter

theorem partitionResets (h : Keeps s₀ s) : Keeps s₀ (Machine.partitionResets s slot) := by
  unfold Machine.partitionResets
  extract_lets +onlyGivenNames key
  refine .ite h ?_
  extract_lets +onlyGivenNames tiles s1 cores s2 s3 s4 clear _ s5
  have h1 : Keeps s₀ s1 := h.cancelLaunches.cancelJobs
  have h2 : Keeps s₀ s2 := h1.foldl fun h => h.foldl fun h => h.resetRow
  have h3 : Keeps s₀ s3 := h2.foldl fun h => h.dropMsgs
  have h4 : Keeps s₀ s4 := h3.forgetDecrements
  have h5 : Keeps s₀ s5 := .update h4
  exact h5.foldl fun h => h.replayQueue

theorem disableQueues (h : Keeps s₀ s) : Keeps s₀ (Machine.disableQueues s key) := h

theorem dropQueues (h : Keeps s₀ s) : Keeps s₀ (Machine.dropQueues s key) := by
  unfold Machine.dropQueues
  exact .update (h.foldl fun h => h.leaveCounter)

theorem vfResets (h : Keeps s₀ s) : Keeps s₀ (Machine.vfResets s slot) := by
  unfold Machine.vfResets
  extract_lets +onlyGivenNames key tiles s1 s2 s3 s4 s5 s6 s7 s8
  have h1 : Keeps s₀ s1 := .ite h h.disableQueues.cancelLaunches
  have h2 : Keeps s₀ s2 := h1.cancelJobs.dropThreads
  have h3 : Keeps s₀ s3 := h2.clearWords
  have h4 : Keeps s₀ s4 := .update h3
  have h5 : Keeps s₀ s5 := .ite h4 h4.forgetDecrements.dropQueues
  have h6 : Keeps s₀ s6 := h5.withdrawWhere
  have h7 : Keeps s₀ s7 := .update h6
  have h8 : Keeps s₀ s8 := (h7.foldl fun h => h.noteFree).visitRows
  exact h8.modPart

theorem emptyQueues (h : Keeps s₀ s) : Keeps s₀ (Machine.emptyQueues s tile) := by
  unfold Machine.emptyQueues
  extract_lets +onlyGivenNames st ids s1 s2 s3
  have h1 : Keeps s₀ s1 := h.modTile
  have h2 : Keeps s₀ s2 := h1.foldl fun h => h.answer
  have h3 : Keeps s₀ s3 := h2.foldl fun h => h.stopCopy
  exact (h3.foldl fun h => h.answer).modTile

theorem tileCleared (h : Keeps s₀ s) : Keeps s₀ (Machine.tileCleared s tile v) := by
  unfold Machine.tileCleared
  extract_lets +onlyGivenNames s1 s2 out pool core s3 s4
  have h1 : Keeps s₀ s1 := h.emptyQueues.dropThreads
  have h2 : Keeps s₀ s2 := h1.clearWords
  have h3 : Keeps s₀ s3 := .update (h2.updateCores fun c => by
    dsimp only [core]
    split <;> exact ⟨rfl, rfl⟩)
  have h4 : Keeps s₀ s4 := h3.modTile
  exact (h4.foldl fun h => .ite h.noteFree h).visitRows.pokeAll

theorem tileReassigned (h : Keeps s₀ s) : Keeps s₀ (Machine.tileReassigned s tile v) := by
  unfold Machine.tileReassigned
  exact .ite h.modTile.tileCleared (h.modTile.foldl fun h => h.cancelLaunch).post

theorem broughtUp {absent : List (Nat × BitVec 512)} {good : Bool} :
    Keeps s₀ (Machine.broughtUp s absent good) := by
  unfold Machine.broughtUp
  exact .update (reset s₀)

theorem bitFlips (h : Keeps s₀ s) {double : Bool} : Keeps s₀ (Machine.bitFlips s t widx double) := by
  unfold Machine.bitFlips
  exact .ite h (.update h)

/-! ### The operations of Machine/Fences.lean -/

theorem afterFence (h : Keeps s₀ s) : Keeps s₀ (Machine.afterFence s r) := by
  unfold Machine.afterFence
  cases r.insn with
  | rld | rst | hdl | ramoadd | rcas => exact h.sendRow
  | msend => exact h.sendMsg
  | commit | fillc => exact h.opStart
  | objsync => exact h.syncDrop
  | launch | cntadd => exact h.toIo
  | cntdec => exact h.sendDecrement
  | fence | fenceRel | exit => exact h.replyArrives
  | _ => exact h.translateReq

theorem echoArrives (h : Keeps s₀ s) : Keeps s₀ (Machine.echoArrives s id tile) := by
  unfold Machine.echoArrives
  split
  · exact h
  · dsimp only
    split
    · exact .ite h.modReq (.ite h.modReq.afterFence h.modReq.setTouch.afterFence)
    · exact .ite h.modReq.replyArrives h.modReq
    · exact h

/-! ### The operations of Machine/RowSpace.lean -/

theorem execMsend (h : Keeps s₀ s) {a : SReg} {p : Pair} {r : Order} :
    NextKeeps s₀ (Machine.execMsend d a p r s) := by
  unfold Machine.execMsend
  show Keeps s₀ _
  refine .ite h.trapNow (h.withRegs fun h => ?_)
  dsimp only
  refine h.beyond fun h => ?_
  split
  · exact h.withFence fun h => h.sendMsg
  · exact h.sendMsg

/-! ### The operations of Machine/Inbox.lean -/

theorem execIbpeek (h : Keeps s₀ s) : NextKeeps s₀ (Machine.execIbpeek d s) := by
  unfold Machine.execIbpeek
  show Keeps s₀ _
  refine h.beyond fun h => ?_
  split
  · exact h
  · exact h.replyArrives

theorem execIbdrop (h : Keeps s₀ s) : NextKeeps s₀ (Machine.execIbdrop s) := by
  unfold Machine.execIbdrop
  show Keeps s₀ _
  refine h.beyond fun h => ?_
  split
  · exact h
  · extract_lets +onlyGivenNames s'
    have h' : Keeps s₀ s' := by
      unfold s'
      split
      · exact h
      · exact h.removeEntry
    exact h'.replyArrives

/-! ### The operations of Machine/Tasks.lean -/

theorem execLaunch (h : Keeps s₀ s) {a : SReg} {p : Pair} {r : Order} :
    NextKeeps s₀ (Machine.execLaunch d a p r s) := by
  unfold Machine.execLaunch
  show Keeps s₀ _
  split
  · exact h.launchArrives
  · refine h.withBlock fun h => ?_
    dsimp only
    refine h.withRegs fun h => h.beyond fun h => ?_
    split
    · exact h.withFence fun h => h.toIo
    · exact h.toIo

theorem execCntadd (h : Keeps s₀ s) {a : SReg} {p : Pair} {r : Order} :
    NextKeeps s₀ (Machine.execCntadd a p r s) := by
  unfold Machine.execCntadd
  show Keeps s₀ _
  split
  · exact h.addArrives
  · exact h.counterInsn fun h => h.toIo

theorem execCntwait (h : Keeps s₀ s) {a : SReg} {r : Order} : NextKeeps s₀ (Machine.execCntwait a r s) := by
  unfold Machine.execCntwait
  show Keeps s₀ _
  split
  · exact h.waitArrives
  · exact .ite h.trapNow (h.counterInsn fun h => h.toIo)

theorem execCancel (h : Keeps s₀ s) {a : SReg} {p : Pair} : NextKeeps s₀ (Machine.execCancel d a p s) := by
  unfold Machine.execCancel
  show Keeps s₀ _
  split
  · exact h.cancelArrives
  · exact h.withRegs fun h => h.beyond fun h => h.toIo

/-! ### The operations of Machine/System.lean -/

theorem execRepart (h : Keeps s₀ s) {a : SReg} : NextKeeps s₀ (Machine.execRepart d a s) := by
  unfold Machine.execRepart
  show Keeps s₀ _
  split
  · exact h.repartArrives
  · refine .ite h.trapNow (h.withRegs fun h => ?_)
    exact .ite (h.withWords fun h => h.retireS) (h.withRegs fun h => h.beyond fun h => h.sendRepart)

/-! ### The operations of Machine/Pairs.lean -/

theorem execPair (h : Keeps s₀ s) : NextKeeps s₀ (Machine.execPair d s) := by
  unfold Machine.execPair
  show Keeps s₀ _
  refine .ite h.trapNow (h.withRegs fun h => ?_)
  refine h.beyond fun h => ?_
  split
  · exact h
  · exact .replyArrives (.ite h.wakeCore h)

theorem execUnpair (h : Keeps s₀ s) : NextKeeps s₀ (Machine.execUnpair d s) := by
  unfold Machine.execUnpair
  show Keeps s₀ _
  refine .ite h.trapNow ?_
  dsimp only
  split
  · exact h.withWords fun h => h.retireS
  · exact .ite h.park.addReq.callCheckpoint h.park.addReq

/-! ### The operations of Machine/System.lean -/

theorem execCapr (h : Keeps s₀ s) {a : SReg} : NextKeeps s₀ (Machine.execCapr d a s) := by
  unfold Machine.execCapr
  show Keeps s₀ _
  split
  · exact h.caprArrives
  · exact h.withChecked fun h => h.withRegs fun h => h.beyond fun h => h.toIo

/-! ### The operations of Machine/Collective.lean -/

theorem execCreduce (h : Keeps s₀ s) {a : SReg} : NextKeeps s₀ (Machine.execCreduce d a s) := by
  unfold Machine.execCreduce
  show Keeps s₀ _
  split
  · exact .ite h.post (h.admitted fun h => h.acceptReduce)
  · exact h.contributionArrives
  · exact .ite h.trapNow (h.blockCommand fun h => h.send)

/-! ### The operations of Machine/Beyond.lean -/

theorem execLongOpDone (h : Keeps s₀ s) : NextKeeps s₀ (Machine.execLongOpDone s) := by
  unfold Machine.execLongOpDone
  split
  · show Keeps s₀ _
    split
    · exact h
    · exact (h.modThr.retiring fun h => h.modThr.longDone).runCmds.holdForTreadle
  · exact h

/-! ### The operations of Machine/Place.lean -/

theorem execPriorityLoan (h : Keeps s₀ s) : NextKeeps s₀ (Machine.execPriorityLoan s) := by
  unfold Machine.execPriorityLoan
  split
  · exact h.priorityLoaned
  · exact h.loanArrives
  · exact h

/-! ### The operations of Machine/Registers.lean -/

theorem execRegisterWrite (h : Keeps s₀ s) : NextKeeps s₀ (Machine.execRegisterWrite s) := by
  unfold Machine.execRegisterWrite
  split
  · exact h.writeReg
  · exact h
  · exact h

/-! ### The operations of Machine/Dispatch.lean -/

theorem exec (h : Keeps s₀ s) : NextKeeps s₀ (Machine.exec i s) := by
  cases i with
  | add | sub | addw | subw | and | or | xor | andn | orn | shl | shr | sra | rol | ror | slt | sltu | seq | sne | min | max
  | minu | maxu | clz | ctz | popc | brev | bswap | sextb | sexth | sextw | zextw | zextb | zexth | mul | mulh | mulhu
  | mulhsz | mulw | addi | andi | ori | xori | slti | sltiu | shli | shri | srai | rori | lil | lik | fkind | fcopys | fabs
  | fneg | mfc | vlen | pcnt => exact h.withWords fun h => h.retireS
  | sadd | ssub => exact h.withWords fun h => h.withFlags fun h => h.retireSF
  | div | divu | rem | remu | divw | remw => exact h.withRegs fun h => h.startLong
  | fadd | fsub | fmul | fmin | fmax | ffmaD | ffmsD | fnmaD | fnmsD | ffmaS | ffmsS | fnmaS | fnmsS =>
    exact h.withWords fun h => h.finishF
  | fdiv | fsqrt => exact h.withRegs fun h => h.finishF
  | fcmp | fcvt => exact h.withWords fun h => h.retireSF
  | beq | bne | blt | bge | bltu | bgeu => exact h.withWords fun h => h.retireAt
  | call => exact h.withWords fun h => h.callTo
  | callr => exact h.withChecked fun h => h.withWords fun h => h.callTo
  | ldr => exact h.withOwn fun h => h.withWords fun h => h.retireS
  | str => exact h.withOwn fun h => h.withWords fun h => h.putOwn.retire
  | vldr => exact .ite h.trapNow (h.withOwn fun h => h.withWords fun h => h.retireV)
  | vstr => exact .ite h.trapNow (h.withOwn fun h => h.withWords fun h => h.putOwn.retire)
  | ldo | sto | stff | sete | objq => exact h.objAccess fun h => h.startAccess
  | ldfe | ldff | stef => exact h.waitingAccess
  | amoAddD | amoAndD | amoOrD | amoXorD | amoSminD | amoSmaxD | amoUminD | amoUmaxD | amoSwapD | amoFaddD | amoFminD
  | amoFmaxD | amoCasD | amoAddW | amoAndW | amoOrW | amoXorW | amoSminW | amoSmaxW | amoUminW | amoUmaxW | amoSwapW
  | amoFaddW | amoFminW | amoFmaxW | amoCasW => exact h.amoAccess
  | vldo | vsto | vldb => exact h.vecAccess
  | commit | decommit | alloc | reloc | fillc => exact h.objectOp
  | free => exact h.withRegs fun h => .ite h.trapNow h.objectOp
  | objsync => exact .ite h.trapNow (h.withRegs fun h => h.beyond fun h => h.startSync)
  | rld | rst | hdl | ramoadd => exact h.rowAccess
  | rcas => exact .ite h.trapNow h.rowAccess
  | fence | fenceRel => exact h.fenceInsn
  | fenceAcq => exact h.withRegs fun h => h.beyond fun h => h.replyArrives
  | msend => exact h.execMsend
  | ibrecv => exact .ite h.trapNow (.ite h.trapNow (h.beyond fun h => h.startRecv))
  | ibpeek => exact h.execIbpeek
  | ibdrop => exact h.execIbdrop
  | mtc => exact .ite h.trapNow (h.withWords fun h => .ite h.retirePlain h.setC.retire)
  | live => exact h.withWords fun h => h.setLive.retire
  | launch => exact h.execLaunch
  | cntdec => exact h.counterInsn fun h => h.sendDecrement
  | cntadd => exact h.execCntadd
  | cntwait => exact h.execCntwait
  | cancel => exact h.execCancel
  | yield => exact .ite h.trapNow h.park.modThr
  | park => exact .ite h.trapNow (h.beyond fun h => h)
  | exit => exact h.withRegs fun h => h.withRegs fun h => h.beyond fun h => h.withFence fun h => h.replyArrives
  | trap | brk => exact h.trapNow
  | repart => exact h.execRepart
  | pair => exact h.execPair
  | unpair => exact h.execUnpair
  | capr => exact h.execCapr
  | nop => exact h.withWords fun h => h.retirePlain
  | vadd | vsub | vmul | vmulh | vand | vor | vxor | vshl | vshr | vsra | vmin | vmax | vsadd | vssub | vabs | vpopc | vfadd
  | vfsub | vfmul | vfmin | vfmax | vfabs | vfneg | vfcopys | vfma | vperm | vslide | vcvt | vscan | vbcast =>
    exact .ite h.trapNow (h.withWords fun h => h.finishV)
  | vfdiv | vfsqrt | vrcp | vrsq | vexp2 | vlog2 | vsin | vcos | vtanh => exact .ite h.trapNow (h.withRegs fun h =>
    h.finishVLong)
  | vcmp => exact .ite h.trapNow (h.withWords fun h => h.finishP)
  | vsel | vcompress | vexpand => exact .ite h.trapNow (h.withWords fun h => h.retireV)
  | vred => exact .ite h.trapNow (h.withWords fun h => h.withFlags fun h => h.raise.retireV)
  | vmred => exact .ite h.trapNow (h.withWords fun h => h.withFlags fun h => h.raise.setVMasked.setP.retire)
  | vins => exact .ite h.trapNow (h.withWords fun h => .ite h.finishV h.retirePlain)
  | vext => exact .ite h.trapNow (h.withWords fun h => h.retireS)
  | vwhile | pand | por | pxor | pnot | pfirst | pset => exact h.withWords fun h => h.retireP
  | mldb | mmul => exact h.blockCommand fun h => h.toMatrix
  | mldbW | mmulW => exact h.matrixWait
  | mout | mzero | mtest => exact h.regCommand fun h => h.toMatrix
  | mstat => exact h.regCommand fun h => h.readStat
  | cpy | cpyx | cpyc => exact h.blockCommand fun h => h.toStreamer
  | gath | scat | scatadd => exact h.blockCommand fun h => h.toGather
  | jpoll => exact h.takeCommand fun h => h.poll
  | jwait => exact .ite h.trapNow (h.takeCommand fun h => h.waitJob)
  | creduce => exact h.execCreduce
  | rseq => exact h.blockCommand fun h => h.toSequencer
  | rswait => exact .ite h.trapNow (h.withRegs fun h => h.beyond fun h => h.waitSeq)
  | start => show NextKeeps s₀ (Machine.execStart s); unfold Machine.execStart; split <;> [exact h.heddle; exact h]
  | stop => show NextKeeps s₀ (Machine.execStop s); unfold Machine.execStop; split <;> [exact h.heddle; exact h]
  | redirect => show NextKeeps s₀ (Machine.execRedirect s); unfold Machine.execRedirect; split <;> [exact h.heddle; exact h]
  | resume => show NextKeeps s₀ (Machine.execResume s); unfold Machine.execResume; split <;> [exact h.heddle; exact h]
  | step => show NextKeeps s₀ (Machine.execStep s); unfold Machine.execStep; split <;> [exact h.heddle; exact h]
  | heddleCancel =>
    show NextKeeps s₀ (Machine.execHeddleCancel s); unfold Machine.execHeddleCancel
    split <;> [exact h.heddle; exact h]
  | heddleNone =>
    show NextKeeps s₀ (Machine.execHeddleNone s); unfold Machine.execHeddleNone
    split <;> [exact h.heddle; exact h]
  | reservedCommand =>
    show NextKeeps s₀ (Machine.execReservedCommand s); unfold Machine.execReservedCommand
    split <;> [exact h.heddle; exact h]
  | outsideRead => exact h.rowStepOf h.outsideRead
  | outsideWrite => exact h.rowStepOf h.outsideWrite
  | outsideRamoadd => exact h.rowStepOf h.outsideAdd
  | outsideRcas => exact h.rowStepOf h.outsideCas
  | outsideActivation =>
    show NextKeeps s₀ (Machine.execOutsideActivation s); unfold Machine.execOutsideActivation
    split <;> [exact h.outsideActivation; exact h]
  | borrowWindow =>
    show NextKeeps s₀ (Machine.execBorrowWindow s); unfold Machine.execBorrowWindow
    split <;> [exact h.borrowWindow; exact h]
  | quantumExpiry =>
    show NextKeeps s₀ (Machine.execQuantumExpiry s); unfold Machine.execQuantumExpiry
    split <;> [exact h.treadleShut; exact h]
  | memParkExpiry =>
    show NextKeeps s₀ (Machine.execMemParkExpiry s); unfold Machine.execMemParkExpiry
    split <;> [exact h.treadleShut; exact h]
  | treadleClose =>
    show NextKeeps s₀ (Machine.execTreadleClose s); unfold Machine.execTreadleClose
    split <;> [exact h.treadleShut; exact h]
  | rowClose => show NextKeeps s₀ (Machine.execRowClose s); unfold Machine.execRowClose; split <;> [exact h.rowClose; exact h]
  | rowActivation =>
    show NextKeeps s₀ (Machine.execRowActivation s); unfold Machine.execRowActivation
    split <;> [exact h.rowActivation; exact h]
  | creditEarned =>
    show NextKeeps s₀ (Machine.execCreditEarned s); unfold Machine.execCreditEarned
    split <;> [exact h.creditEarned; exact h]
  | refresh => show NextKeeps s₀ (Machine.execRefresh s); unfold Machine.execRefresh; split <;> [exact h.refresh; exact h]
  | refreshEnd =>
    show NextKeeps s₀ (Machine.execRefreshEnd s); unfold Machine.execRefreshEnd
    split <;> [exact h.refreshEnd; exact h]
  | codeRowOpen =>
    show NextKeeps s₀ (Machine.execCodeRowOpen s); unfold Machine.execCodeRowOpen
    split <;> [exact h.codeRowOpened; exact h]
  | codeRowFill =>
    show NextKeeps s₀ (Machine.execCodeRowFill s); unfold Machine.execCodeRowFill
    split <;> [exact h.codeRowFilled; exact h]
  | longOpDone => exact h.execLongOpDone
  | reply =>
    show NextKeeps s₀ (Machine.execReply s); unfold Machine.execReply
    split <;> [exact .replyArrives (.ite h.takeAwaited h); exact h]
  | retry => show NextKeeps s₀ (Machine.execRetry s); unfold Machine.execRetry; split <;> [exact h.retried; exact h]
  | retryBackoff =>
    show NextKeeps s₀ (Machine.execRetryBackoff s); unfold Machine.execRetryBackoff
    split <;> [exact h.backedOff; exact h]
  | redirectAnswer =>
    show NextKeeps s₀ (Machine.execRedirectAnswer s); unfold Machine.execRedirectAnswer
    split <;> [exact h.redirected; exact h]
  | walk => show NextKeeps s₀ (Machine.execWalk s); unfold Machine.execWalk; split <;> [exact h.walkAdmitted; exact h]
  | walkReply =>
    show NextKeeps s₀ (Machine.execWalkReply s); unfold Machine.execWalkReply
    split <;> [exact h.walkReplied; exact h]
  | waitLimitExpiry =>
    show NextKeeps s₀ (Machine.execWaitLimitExpiry s); unfold Machine.execWaitLimitExpiry
    split <;> [exact h.limitExpired; exact h]
  | cancelWait =>
    show NextKeeps s₀ (Machine.execCancelWait s); unfold Machine.execCancelWait
    split <;> [exact h.cancelWaitArrives; exact h]
  | cancelWaitAnswer =>
    show NextKeeps s₀ (Machine.execCancelWaitAnswer s); unfold Machine.execCancelWaitAnswer
    split <;> [exact h.cancelWaitAnswered; exact h]
  | objectAccessArrival =>
    show NextKeeps s₀ (Machine.execObjectAccessArrival s); unfold Machine.execObjectAccessArrival
    split <;> [exact h.accessArrives.echoes; exact h]
  | admission =>
    show NextKeeps s₀ (Machine.execAdmission s); unfold Machine.execAdmission
    split <;> [exact h.admitAccess.echoes; exact h]
  | fenceProbe =>
    show NextKeeps s₀ (Machine.execFenceProbe s); unfold Machine.execFenceProbe
    split <;> [exact h.fenceProbe.echoes; exact h]
  | probeEcho =>
    show NextKeeps s₀ (Machine.execProbeEcho s); unfold Machine.execProbeEcho
    split <;> [exact h.probeEcho; exact h]
  | fenceEcho =>
    show NextKeeps s₀ (Machine.execFenceEcho s); unfold Machine.execFenceEcho
    split <;> [exact h.echoArrives; exact h]
  | coreGate => show NextKeeps s₀ (Machine.execCoreGate s); unfold Machine.execCoreGate; split <;> [exact h.coreGate; exact h]
  | coreWake => show NextKeeps s₀ (Machine.execCoreWake s); unfold Machine.execCoreWake; split <;> [exact h.coreWake; exact h]
  | inboxEntry =>
    show NextKeeps s₀ (Machine.execInboxEntry s); unfold Machine.execInboxEntry
    split <;> [exact h.inboxArrives; exact h]
  | activeMessage =>
    show NextKeeps s₀ (Machine.execActiveMessage s); unfold Machine.execActiveMessage
    split <;> [exact h.messageArrives; exact h]
  | handlerStart =>
    show NextKeeps s₀ (Machine.execHandlerStart s); unfold Machine.execHandlerStart
    split <;> [exact h.handlerStarts; exact h]
  | doorbell =>
    show NextKeeps s₀ (Machine.execDoorbell s); unfold Machine.execDoorbell
    split <;> [exact h.doorbellRings; exact h]
  | thaw => show NextKeeps s₀ (Machine.execThaw s); unfold Machine.execThaw; split <;> [exact h.modQueue.kickQueue; exact h]
  | dispatch =>
    show NextKeeps s₀ (Machine.execDispatch s); unfold Machine.execDispatch
    split <;> [exact h.dispatched; exact h]
  | counterPacket =>
    show NextKeeps s₀ (Machine.execCounterPacket s); unfold Machine.execCounterPacket
    split <;> [exact h.counterPacketActs; exact h]
  | fencePacket =>
    show NextKeeps s₀ (Machine.execFencePacket s); unfold Machine.execFencePacket
    split <;> [exact h.fencePacketActs; exact h]
  | placement => show NextKeeps s₀ (Machine.execPlacement s); unfold Machine.execPlacement; split <;> [exact h.placed; exact h]
  | reservation =>
    show NextKeeps s₀ (Machine.execReservation s); unfold Machine.execReservation
    split <;> [exact h.reserved; exact h]
  | agentReport =>
    show NextKeeps s₀ (Machine.execAgentReport s); unfold Machine.execAgentReport
    split <;> [exact h.agentReports; exact h]
  | launchCompletion =>
    show NextKeeps s₀ (Machine.execLaunchCompletion s); unfold Machine.execLaunchCompletion
    split <;> [exact h.launchCompleted; exact h]
  | counterDecrement =>
    show NextKeeps s₀ (Machine.execCounterDecrement s); unfold Machine.execCounterDecrement
    split <;> [exact h.counterDecremented; exact h]
  | counterWrite =>
    show NextKeeps s₀ (Machine.execCounterWrite s); unfold Machine.execCounterWrite
    split <;> [exact h.counterWritten; exact h]
  | priorityLoan => exact h.execPriorityLoan
  | partitionReset =>
    show NextKeeps s₀ (Machine.execPartitionReset s); unfold Machine.execPartitionReset
    split <;> [exact h.partitionResets.echoes; exact h]
  | swapOut => show NextKeeps s₀ (Machine.execSwapOut s); unfold Machine.execSwapOut; split <;> [exact h.swapsOut; exact h]
  | swapIn => show NextKeeps s₀ (Machine.execSwapIn s); unfold Machine.execSwapIn; split <;> [exact h.swapsIn; exact h]
  | checkpoint =>
    show NextKeeps s₀ (Machine.execCheckpoint s); unfold Machine.execCheckpoint
    split <;> [exact h.checkpointed; exact h]
  | fingerprint =>
    show NextKeeps s₀ (Machine.execFingerprint s); unfold Machine.execFingerprint
    split <;> [exact h.printArrives; exact h]
  | fingerprintTimeout =>
    show NextKeeps s₀ (Machine.execFingerprintTimeout s); unfold Machine.execFingerprintTimeout
    split <;> [exact h.printLate; exact h]
  | shadowCopy =>
    show NextKeeps s₀ (Machine.execShadowCopy s); unfold Machine.execShadowCopy
    split <;> [exact h.shadowCopied; exact h]
  | claim => show NextKeeps s₀ (Machine.execClaim s); unfold Machine.execClaim; split <;> [exact h.claimArrives; exact h]
  | relocCopy =>
    show NextKeeps s₀ (Machine.execRelocCopy s); unfold Machine.execRelocCopy
    split <;> [exact h.relocCopied.echoes; exact h]
  | objsyncDrop =>
    show NextKeeps s₀ (Machine.execObjsyncDrop s); unfold Machine.execObjsyncDrop
    split <;> [exact h.objsyncDropped.echoes; exact h]
  | tagAndGranuleRead =>
    show NextKeeps s₀ (Machine.execTagAndGranuleRead s); unfold Machine.execTagAndGranuleRead
    split <;> [exact h.replicaStep; exact h]
  | phase2Write =>
    show NextKeeps s₀ (Machine.execPhase2Write s); unfold Machine.execPhase2Write
    split <;> [exact h.replicaStep; exact h]
  | majorityAnswer =>
    show NextKeeps s₀ (Machine.execMajorityAnswer s); unfold Machine.execMajorityAnswer
    split <;> [exact h.majAnswered; exact h]
  | rholdWrite =>
    show NextKeeps s₀ (Machine.execRholdWrite s); unfold Machine.execRholdWrite
    split <;> [exact h.writeHold.echoes; exact h]
  | stackFailure =>
    show NextKeeps s₀ (Machine.execStackFailure s); unfold Machine.execStackFailure
    split <;> [exact .ite h h.goDown; exact h]
  | markDown => show NextKeeps s₀ (Machine.execMarkDown s); unfold Machine.execMarkDown; split <;> [exact h.goDown; exact h]
  | markUp => show NextKeeps s₀ (Machine.execMarkUp s); unfold Machine.execMarkUp; split <;> [exact h.goUp; exact h]
  | markRebuild =>
    show NextKeeps s₀ (Machine.execMarkRebuild s); unfold Machine.execMarkRebuild
    split <;> [exact h.goRebuild; exact h]
  | scrubPass =>
    show NextKeeps s₀ (Machine.execScrubPass s); unfold Machine.execScrubPass
    split <;> [exact h.scrubbed; exact h]
  | pathFailure =>
    show NextKeeps s₀ (Machine.execPathFailure s); unfold Machine.execPathFailure
    split <;> [exact h.pathFails; exact h]
  | pathRecovery =>
    show NextKeeps s₀ (Machine.execPathRecovery s); unfold Machine.execPathRecovery
    split <;> [exact h; exact h]
  | powerSample => show NextKeeps s₀ (Machine.execPowerSample s); unfold Machine.execPowerSample; split <;> [exact h; exact h]
  | hsem => show NextKeeps s₀ (Machine.execHsem s); unfold Machine.execHsem; split <;> [exact h.writeHsem; exact h]
  | partitionEnable =>
    show NextKeeps s₀ (Machine.execPartitionEnable s); unfold Machine.execPartitionEnable
    split <;> [exact h.partitionEnabled; exact h]
  | vfReset =>
    show NextKeeps s₀ (Machine.execVfReset s); unfold Machine.execVfReset
    split <;> [exact h.vfResets.echoes; exact h]
  | tileReassign =>
    show NextKeeps s₀ (Machine.execTileReassign s); unfold Machine.execTileReassign
    split <;> [exact h.tileReassigned.echoes; exact h]
  | memberWithdrawal =>
    show NextKeeps s₀ (Machine.execMemberWithdrawal s); unfold Machine.execMemberWithdrawal
    split <;> [exact h.withdraw; exact h]
  | firmwareStage =>
    show NextKeeps s₀ (Machine.execFirmwareStage s); unfold Machine.execFirmwareStage
    split <;> [exact .ite (.update h) h; exact h]
  | attestationRequest =>
    show NextKeeps s₀ (Machine.execAttestationRequest s); unfold Machine.execAttestationRequest
    split <;> [exact h; exact h]
  | bringUp => show NextKeeps s₀ (Machine.execBringUp s); unfold Machine.execBringUp; split <;> [exact Keeps.broughtUp; exact h]
  | corestatWrite =>
    show NextKeeps s₀ (Machine.execCorestatWrite s)
    unfold Machine.execCorestatWrite
    split <;> [exact h.checked fun h => .answerPkt (.ite h.writeQuant h.writeRowWord); exact h]
  | registerWrite => exact h.execRegisterWrite
  | matrixJob =>
    show NextKeeps s₀ (Machine.execMatrixJob s)
    unfold Machine.execMatrixJob
    split <;> [exact h.withJob (fun h => h.stopMat) (fun h => h.mmulRun); exact h]
  | mldbJob =>
    show NextKeeps s₀ (Machine.execMldbJob s)
    unfold Machine.execMldbJob
    split <;> [exact h.withJob (fun h => h.stopMat) (fun h => h.mldbRun); exact h]
  | moutJob =>
    show NextKeeps s₀ (Machine.execMoutJob s)
    unfold Machine.execMoutJob
    split <;> [exact h.withJob (fun h => h.stopMat) (fun h => h.moutRun); exact h]
  | mzeroJob =>
    show NextKeeps s₀ (Machine.execMzeroJob s)
    unfold Machine.execMzeroJob
    split <;> [exact h.withJob (fun h => h.stopMat) (fun h => h.mzeroRun); exact h]
  | mtestJob =>
    show NextKeeps s₀ (Machine.execMtestJob s)
    unfold Machine.execMtestJob
    split <;> [exact h.withJob (fun h => h.stopMat) (fun h => h.mtestRun); exact h]
  | copyJob =>
    show NextKeeps s₀ (Machine.execCopyJob s)
    unfold Machine.execCopyJob
    split <;> [exact h.withJob (fun h => h.stopCopy) (fun h => h.copyRun); exact h]
  | cpyxJob =>
    show NextKeeps s₀ (Machine.execCpyxJob s)
    unfold Machine.execCpyxJob
    split <;> [exact h.withJob (fun h => h.stopCopy) (fun h => h.cpyxRun); exact h]
  | cpycJob =>
    show NextKeeps s₀ (Machine.execCpycJob s)
    unfold Machine.execCpycJob
    split <;> [exact h.withJob (fun h => h.stopCopy) (fun h => h.cpycRun); exact h]
  | pointerWrite =>
    show NextKeeps s₀ (Machine.execPointerWrite s)
    unfold Machine.execPointerWrite
    split <;> [exact h.withJob (fun h => h.stopCopy) (fun h => h.pointerStep); exact h]
  | gathJob =>
    show NextKeeps s₀ (Machine.execGathJob s)
    unfold Machine.execGathJob
    split <;> [exact h.withJob (fun h => h.endGather) (fun h => h.gathRun); exact h]
  | scatJob =>
    show NextKeeps s₀ (Machine.execScatJob s)
    unfold Machine.execScatJob
    split <;> [exact h.withJob (fun h => h.endGather) (fun h => h.scatRun); exact h]
  | scataddJob =>
    show NextKeeps s₀ (Machine.execScataddJob s)
    unfold Machine.execScataddJob
    split <;> [exact h.withJob (fun h => h.endGather) (fun h => h.scataddRun); exact h]
  | rowStep => show NextKeeps s₀ (Machine.execRowStep s); unfold Machine.execRowStep; split <;> [exact h.rowStep; exact h]
  | serviceInterval =>
    show NextKeeps s₀ (Machine.execServiceInterval s); unfold Machine.execServiceInterval
    split <;> [exact h.serviceInterval; exact h]
  | collectiveCombine =>
    show NextKeeps s₀ (Machine.execCollectiveCombine s); unfold Machine.execCollectiveCombine
    split <;> [exact h.combine; exact h]
  | illegalInsn =>
    show NextKeeps s₀ (Machine.execIllegalInsn s); unfold Machine.execIllegalInsn
    split <;> [exact h.takeTrap; exact h]
  | bitError => show NextKeeps s₀ (Machine.execBitError s); unfold Machine.execBitError; split <;> [exact h.bitFlips; exact h]
  | subArrayFault =>
    show NextKeeps s₀ (Machine.execSubArrayFault s); unfold Machine.execSubArrayFault
    split <;> [exact .ite h.modTile h; exact h]
  | temperatureSensor =>
    show NextKeeps s₀ (Machine.execTemperatureSensor s); unfold Machine.execTemperatureSensor
    split <;> [exact h.modStack; exact h]

/-! ### The operations of Machine/Step.lean -/

theorem perform (h : Keeps s₀ s) : NextKeeps s₀ (Machine.perform s e) := by
  unfold Machine.perform
  split
  · exact Keeps.exec (.update h)
  · exact h

theorem applyAccess (h : Keeps s₀ s) {a : QDo} : NextKeeps s₀ (Machine.applyAccess s a) := by
  unfold Machine.applyAccess
  split
  · exact h.perform
  · exact h.feedAdmitted
  · exact h

theorem act (h : Keeps s₀ s) {a : Act} : NextKeeps s₀ (Machine.act s a) := by
  unfold Machine.act
  split
  · exact h.perform
  · split
    · exact h.arrive
    · exact h
  · split
    · exact h.feedArrives
    · exact h
  · exact h.busCycle
  · split
    · exact h.applyIn
    · exact h.serveGranted.applyAccess.andThen fun h => h.serveNext

theorem issueWord (h : Keeps s₀ s) {w : InsnWord} : NextKeeps s₀ (Machine.issueWord s t w) := by
  unfold Machine.issueWord
  extract_lets s'
  have h' : Keeps s₀ s' := .noteIssue (.update h)
  split
  · exact h'.exec
  · exact Keeps.exec (.update h')

theorem threadTurn (h : Keeps s₀ s) : NextKeeps s₀ (Machine.threadTurn s t) := by
  unfold Machine.threadTurn
  split
  · next e => exact h.prelude.of_fst e
  · next e => exact (h.prelude.of_fst e).issueWord

theorem coreTurn (h : Keeps s₀ s) : NextKeeps s₀ (Machine.coreTurn s core) := by
  unfold Machine.coreTurn
  dsimp only
  split
  · exact h.yieldTurn.coreEnd
  · exact (Keeps.threadTurn (.update h.yieldTurn)).andThen fun h => h.coreEnd

theorem step (h : Keeps s₀ s) : NextKeeps s₀ (Machine.step s) := by
  unfold Machine.step
  split
  · split
    · exact Keeps.act (.update h)
    · split
      · exact Keeps.coreTurn (.update h)
      · exact h
  · split
    · exact Keeps.coreTurn (.update h)
    · exact h

end Keeps

end Sys2Proof.Machine

namespace Sys2Proof
open Machine

/-- Settles O58: every step `Keeps` the structure of the state that it starts from. -/
theorem stepKeepsStructure : Obligations.StepKeepsStructure := by
  intro s t e
  have h : NextKeeps s (step s) := (Keeps.refl s).step
  rw [e] at h
  obtain ⟨hnamed, hsubs, hpairs, htrace, hacting⟩ := h
  exact ⟨hnamed, State.subarrays_iff.2 ∘ hsubs, fun ⟨ht, ha⟩ => ⟨htrace ht, hacting ha⟩, hpairs⟩

end Sys2Proof
end

section
/-! PROOFS. Reads that meet stored errors (R99): they take errors off the list, poison words that held two, and change nothing else. -/
namespace Sys2Proof.Machine

theorem pick_some {α : Type} {p : α → Bool} {l rest : List α} {x : α} (h : pick p l = some (x, rest)) :
    x ∈ l ∧ p x = true ∧ ∀ y ∈ rest, y ∈ l := by
  induction l generalizing rest with
  | nil => simp [pick] at h
  | cons y l ih =>
    unfold pick at h
    split at h
    · next hy =>
      simp only [Option.some.injEq, Prod.mk.injEq] at h
      obtain ⟨rfl, rfl⟩ := h
      exact ⟨List.mem_cons_self, hy, fun z hz => List.mem_cons_of_mem _ hz⟩
    · obtain ⟨⟨z, rest'⟩, hz, e⟩ := Option.map_eq_some_iff.1 h
      obtain ⟨rfl, rfl⟩ := Prod.mk.inj e
      obtain ⟨hmem, hp, hrest⟩ := ih hz
      refine ⟨List.mem_cons_of_mem _ hmem, hp, fun u hu => ?_⟩
      obtain rfl | hu := List.mem_cons.1 hu
      · exact List.mem_cons_self
      · exact List.mem_cons_of_mem _ (hrest u hu)

theorem mem_insertNat {n m : Nat} {l : List Nat} : m ∈ insertNat n l ↔ m = n ∨ m ∈ l := by
  induction l with
  | nil => simp [insertNat]
  | cons k l ih =>
    unfold insertNat
    split_ifs with h1 h2
    · subst h1; simp
    · simp
    · rw [List.mem_cons, ih, List.mem_cons]; tauto

/-- No error is stored in the word, so that a read of it meets none. -/
def Unerring (s : State) (w : Nat) : Prop := ∀ e ∈ s.bitErrs, e.1 ≠ w

/-- Only reads are between the two states. -/
structure ReadOnly (s t : State) : Prop where
  now     : t.now = s.now
  agenda  : t.agenda = s.agenda
  cur     : t.cur = s.cur
  mem     : t.mem = s.mem
  empty   : t.empty = s.empty
  cores   : t.cores = s.cores
  tiles   : t.tiles = s.tiles
  stackSt : t.stackSt = s.stackSt
  reqs    : t.reqs = s.reqs
  pairs   : t.pairs = s.pairs
  absent  : t.absent = s.absent
  io      : ∃ a b, t.io = { s.io with errSingle := a, errPoison := b }
  errs    : ∀ e ∈ t.bitErrs, e ∈ s.bitErrs
  poison  : ∀ w, Unerring s w → isPoisoned t w = isPoisoned s w

namespace ReadOnly
variable {s t u : State}

theorem refl (s : State) : ReadOnly s s :=
  ⟨rfl, rfl, rfl, rfl, rfl, rfl, rfl, rfl, rfl, rfl, rfl, ⟨_, _, rfl⟩, fun _ h => h, fun _ _ => rfl⟩

theorem unerring (h : ReadOnly s t) {w : Nat} (hw : Unerring s w) : Unerring t w := fun e he => hw e (h.errs e he)

theorem trans (h : ReadOnly s t) (k : ReadOnly t u) : ReadOnly s u where
  now     := k.now.trans h.now
  agenda  := k.agenda.trans h.agenda
  cur     := k.cur.trans h.cur
  mem     := k.mem.trans h.mem
  empty   := k.empty.trans h.empty
  cores   := k.cores.trans h.cores
  tiles   := k.tiles.trans h.tiles
  stackSt := k.stackSt.trans h.stackSt
  reqs    := k.reqs.trans h.reqs
  pairs   := k.pairs.trans h.pairs
  absent  := k.absent.trans h.absent
  io      := by
    obtain ⟨a, b, ha⟩ := h.io
    obtain ⟨c, d, hc⟩ := k.io
    exact ⟨c, d, by rw [hc, ha]⟩
  errs    := fun e he => h.errs e (k.errs e he)
  poison  := fun w hw => (k.poison w (h.unerring hw)).trans (h.poison w hw)

theorem ofTouchWord (s : State) (a : Nat) : ReadOnly s (touchWord s a) := by
  unfold touchWord
  split
  · exact refl s
  · next rest e =>
    obtain ⟨-, -, hrest⟩ := pick_some e
    exact ⟨rfl, rfl, rfl, rfl, rfl, rfl, rfl, rfl, rfl, rfl, rfl, ⟨_, _, rfl⟩, hrest, fun _ _ => rfl⟩
  · next k rest e =>
    obtain ⟨hmem, hk, hrest⟩ := pick_some e
    refine ⟨rfl, rfl, rfl, rfl, rfl, rfl, rfl, rfl, rfl, rfl, rfl, ⟨_, _, rfl⟩, hrest, fun w hw => ?_⟩
    have hne : w ≠ a := fun h => hw _ hmem ((beq_iff_eq.1 hk).trans h.symm)
    simp [isPoisoned, mem_insertNat, hne]

theorem touchWord (h : ReadOnly s t) (a : Nat) : ReadOnly s (Machine.touchWord t a) := h.trans (ofTouchWord t a)

theorem touchWords (h : ReadOnly s t) (ws : List Nat) : ReadOnly s (ws.foldl Machine.touchWord t) :=
  ws.foldlRecOn _ h fun _ h a _ => h.touchWord a

theorem touch (h : ReadOnly s t) (a n : Nat) : ReadOnly s (Machine.touch t a n) := h.touchWords _

theorem touchFrame (h : ReadOnly s t) (f : Thr) : ReadOnly s (Machine.touchFrame t f) := by
  unfold Machine.touchFrame
  split
  · exact h.touch ..
  · exact h

theorem ofMeetRecord (s : State) (slot handle : Nat) : ReadOnly s (meetRecord s slot handle) := by
  unfold meetRecord
  split
  · exact refl s
  · exact (refl s).touchWords _

/-! ### What reads as before -/

theorem getNat (h : ReadOnly s t) (a n : Nat) : getNat t a n = getNat s a n := by
  rw [Machine.getNat, Machine.getNat, getBytes, getBytes, h.mem]

theorem getWord (h : ReadOnly s t) (a : Nat) : getWord t a = getWord s a := by rw [Machine.getWord, Machine.getWord, h.getNat]

theorem getC (h : ReadOnly s t) (th : Thr) (n : Nat) : getC t th n = getC s th n := by
  simp only [Machine.getC, h.getWord]

theorem getCore (h : ReadOnly s t) (c : Nat) : getCore t c = getCore s c := by
  rw [Machine.getCore, Machine.getCore, h.cores, h.now]

theorem getTile (h : ReadOnly s t) (k : Nat) : getTile t k = getTile s k := by rw [Machine.getTile, Machine.getTile, h.tiles]

theorem getPart (h : ReadOnly s t) (slot : Nat) : getPart t slot = getPart s slot := by
  obtain ⟨a, b, e⟩ := h.io
  rw [Machine.getPart, Machine.getPart, e]

theorem hostAnswers (h : ReadOnly s t) : t.io.hostAnswers = s.io.hostAnswers := by
  obtain ⟨a, b, e⟩ := h.io
  rw [e]

theorem unchangedBut (h : ReadOnly s t) (w : Nat → Prop) : UnchangedBut s t w := fun a _ => by rw [h.mem]

end ReadOnly
end Sys2Proof.Machine
end

section
/-! PROOFS. What reset leaves, and that the invariants hold there (O59). -/
namespace Sys2Proof.Machine

theorem ofBytes_replicate_zero (n : Nat) : ofBytes (List.replicate n 0) = 0 := by
  induction n with
  | zero => rfl
  | succ n ih => rw [List.replicate_succ, ofBytes, ih]; rfl

theorem getNat_reset (a n : Nat) : getNat State.reset a n = 0 := by
  rw [getNat, getBytes, Memory.slice_eq]
  have hzero : (List.range n).map (fun i => Memory.get State.reset.mem (a + i)) = List.replicate n 0 := by
    simp [State.reset, Memory.get, Memory.unlisted]
  rw [hzero, ofBytes_replicate_zero]

theorem tstate_reset (t : Thr) : tstate State.reset t = 0 := by
  simp [tstate, getC, getWord, getNat_reset, bits]

theorem canonical_reset : State.reset.Canonical := State.Canonical.reset

theorem named_reset : State.reset.Named := ⟨Nat.one_pos, fun _ hr => nomatch hr⟩

theorem subarrays_reset : State.reset.Subarrays := fun _ => List.length_replicate

theorem rests_reset : State.reset.Rests := ⟨rfl, rfl⟩

end Sys2Proof.Machine

namespace Sys2Proof
open Machine

/-- Settles O59: every field that the statement reads is empty or at its default after reset. -/
theorem resetLeaves : Obligations.ResetLeaves :=
  ⟨fun _ => ⟨rfl, rfl, rfl⟩, tstate_reset, fun _ => ⟨rfl, rfl, rfl⟩, fun _ => ⟨rfl, rfl⟩, fun k => by simp [stackDown, healthOf, State.reset],
    canonical_reset, named_reset, subarrays_reset, rests_reset, fun _ hp => nomatch hp⟩

end Sys2Proof
end

section
/-! PROOFS. What a step performs (O55): the part that is due, or the issue of a core's turn. -/
namespace Sys2Proof.Machine

/-! ### The word that a thread issues -/

/-- w is the word at PC, in the code row that holds it. -/
def FetchedFrom (s : State) (t : Thr) (w : InsnWord) : Prop :=
  ∃ r, codeRowOf s t.core (codeOf s t) (pcOf s t / 4096) = some r ∧
    w = BitVec.ofNat 32 (getNat s (rowAddr t.core r.row + pcOf s t % 4096) 4)

theorem fetch_word {s u : State} {t : Thr} {w : InsnWord} {a : Nat} (h : fetch s t = (u, .word w a)) : FetchedFrom s t w := by
  have hread := ReadOnly.ofMeetRecord s (slotOf s (tileOf t.core)) (codeOf s t)
  have hpc : pcOf (meetRecord s (slotOf s (tileOf t.core)) (codeOf s t)) t = pcOf s t := by rw [pcOf, pcOf, hread.getC]
  unfold fetch at h
  simp only [hpc] at h
  split at h
  · simp at h
  · split at h
    · simp at h
    · next r hr =>
      split at h
      · simp only [Prod.mk.injEq, Fetched.word.injEq] at h
        obtain ⟨-, hw, -⟩ := h
        refine ⟨r, ?_, ?_⟩
        · rw [← hr, codeRowOf, codeRowOf, hread.getCore]
        · rw [← hw, ← hread.getNat]
          rfl
      · simp at h

theorem prelude_word {s u : State} {t : Thr} {w : InsnWord} (h : prelude s t = (u, some w)) : FetchedFrom s t w := by
  unfold prelude at h
  split at h
  · simp at h
  · dsimp only at h
    split_ifs at h <;> simp at h
  · next hf =>
    dsimp only at h
    split_ifs at h <;> simp only [Prod.mk.injEq, Option.some.injEq, reduceCtorEq, and_false] at h
    exact h.2 ▸ fetch_word hf

/-! ### The step -/

theorem step_of_turn {s : State} {c : Nat} {cs : List Nat} (hdue : ∀ x ∈ s.agenda, s.now < x.due) (hc : s.cursor = c :: cs) :
    step s = coreTurn { s with cursor := cs } c := by
  unfold step
  split
  · next x l hl =>
    rw [if_neg (Nat.not_le.2 (hdue x (hl ▸ List.mem_cons_self))), hc]
  · rw [hc]

theorem step_of_due {s : State} {x : Sched} {l : List Sched} (hl : s.agenda = x :: l) (hdue : x.due ≤ s.now) :
    step s = act { s with agenda := l } x.act := by
  unfold step
  rw [hl]
  exact if_pos hdue

theorem coreTurn_issues {s u : State} {c : Nat} {t : Thr} {w : InsnWord} (ht : choose (yieldTurn s c) c = some t)
    (hw : prelude { yieldTurn s c with cur := t } t = (u, some w)) :
    coreTurn s c = andThen (issueWord u t w) fun s => coreEnd s c := by
  simp only [coreTurn, ht, threadTurn, hw]

theorem issueWord_of_decode {s : State} {t : Thr} {w : InsnWord} {i : Instr} (h : decode w = .ok i) :
    issueWord s t w = exec i (noteIssue { s with cur := t, curWord := w, doing := none } t) := by
  simp only [issueWord, h]

theorem issueWord_of_illegal {s : State} {t : Thr} {w : InsnWord} {e : Reject} (h : decode w = .error e) :
    issueWord s t w =
      exec .illegalInsn { noteIssue { s with cur := t, curWord := w, doing := none } t with doing := some (.illegalInsn w) } := by
  simp only [issueWord, h]

end Sys2Proof.Machine

namespace Sys2Proof
open Machine

/-- Settles O55: by the branches of `step`, and `prelude_word` for where the word comes from. -/
theorem stepRunsDecodedInstruction : Obligations.StepRunsDecodedInstruction := by
  refine ⟨fun s u c cs t w hdue hc ht hw => ?_, fun s x l e hl hdue hx he => ?_⟩
  · have hstep := (step_of_turn hdue hc).trans (coreTurn_issues ht hw)
    have hfetched : FetchedFrom { yieldTurn { s with cursor := cs } c with cur := t } t w := prelude_word hw
    exact ⟨hfetched, fun i hi => by rw [hstep, issueWord_of_decode hi], fun e he => by rw [hstep, issueWord_of_illegal he]⟩
  · rw [step_of_due hl hdue, hx]
    exact if_pos he

end Sys2Proof
end

section
/-! PROOFS. Accesses of the own row (O9): the bytes that loads read and stores write, and where they trap. -/
namespace Sys2Proof.Machine

/-! ### Bytes of numbers and words -/

theorem ofBytes_byte {l : List Byte} {i : Nat} (h : i < l.length) : ofBytes l / 256 ^ i % 256 = l[i].toNat := by
  induction l generalizing i with
  | nil => simp at h
  | cons b l ih =>
    have hb := b.isLt
    cases i with
    | zero => simp only [ofBytes, pow_zero, Nat.div_one, List.getElem_cons_zero]; omega
    | succ i =>
      have hdiv : (b.toNat + 256 * ofBytes l) / 256 ^ (i + 1) = ofBytes l / 256 ^ i := by
        rw [Nat.pow_succ', ← Nat.div_div_eq_div_mul]
        congr 1
        omega
      rw [ofBytes, hdiv, List.getElem_cons_succ]
      exact ih (Nat.lt_of_succ_lt_succ h)

theorem getElem_toBytes {n x i : Nat} (h : i < n) : (toBytes n x)[i]'(by simpa using h) = BitVec.ofNat 8 (x / 256 ^ i) := by
  induction n generalizing x i with
  | zero => omega
  | succ n ih =>
    cases i with
    | zero => simp [toBytes]
    | succ i => simp [toBytes, ih (Nat.lt_of_succ_lt_succ h), Nat.pow_succ', Nat.div_div_eq_div_mul]

theorem getNat_lt (s : State) (a n : Nat) : getNat s a n < 256 ^ n := by
  have h := ofBytes_lt (getBytes s a n)
  rwa [getBytes, Memory.length_slice] at h

theorem getNat_byte (s : State) {a n i : Nat} (h : i < n) : getNat s a n / 256 ^ i % 256 = (Memory.get s.mem (a + i)).toNat := by
  rw [getNat, ofBytes_byte (by rwa [getBytes, Memory.length_slice])]
  simp [getBytes, Memory.slice_eq]

theorem getWord_byte (s : State) {a i : Nat} (h : i < 8) : (getWord s a).extractLsb' (8 * i) 8 = Memory.get s.mem (a + i) := by
  apply BitVec.eq_of_toNat_eq
  have hlt : getNat s a 8 < 2 ^ 64 := getNat_lt s a 8
  rw [BitVec.extractLsb'_toNat, getWord, BitVec.toNat_ofNat, Nat.mod_eq_of_lt hlt, ← getNat_byte s h, Nat.shiftRight_eq_div_pow,
    Nat.pow_mul]

/-! ### The bytes of an own-row read -/

theorem getElem_ownBytes {s : State} {t : Thr} {a n i : Nat} (h : i < (ownBytes s t a n).length) :
    (ownBytes s t a n)[i] = Claims.ownByte s t (a + i) := by
  simp only [ownBytes, List.getElem_map, List.getElem_range, Claims.ownByte, serviceByte]
  grind

theorem length_ownBytes (s : State) (t : Thr) (a n : Nat) : (ownBytes s t a n).length = n := by simp [ownBytes]

/-- The bytes that an own-row read combines. -/
theorem ownNat_eq_ofBytes (s : State) (t : Thr) (a n : Nat) :
    ∃ l : List Byte, ∃ hl : l.length = n, ownNat s t a n = ofBytes l ∧ ∀ i (h : i < n), l[i] = Claims.pairByte s t (a + i) := by
  unfold ownNat Claims.pairByte
  cases hp : pairOf s t with
  | none => exact ⟨_, length_ownBytes s t a n, rfl, fun i h => getElem_ownBytes _⟩
  | some p =>
    dsimp only
    split
    · refine ⟨_, by rw [List.length_mapIdx, length_ownBytes], rfl, fun i h => ?_⟩
      rw [List.getElem_mapIdx, getElem_ownBytes]
      split
      · have hc : getC s p.leader 7 = getWord s (cAddr p.leader 7) := rfl
        rw [hc, getWord_byte s (by omega)]
      · rfl
    · refine ⟨_, length_ownBytes s t a n, rfl, fun i h => ?_⟩
      rw [getElem_ownBytes, if_neg (by omega)]

theorem spells_ownNat (s : State) (t : Thr) (a n : Nat) : Claims.Spells s t a n (ownNat s t a n) := by
  obtain ⟨l, hl, hx, hbyte⟩ := ownNat_eq_ofBytes s t a n
  refine ⟨hx ▸ hl ▸ ofBytes_lt l, fun i hi => ?_⟩
  rw [hx, ofBytes_byte (hl ▸ hi), hbyte i hi]

theorem ownNat_lt (s : State) (t : Thr) (a n : Nat) : ownNat s t a n < 256 ^ n := (spells_ownNat s t a n).1

/-! ### Sign and zero extension -/

theorem extend_eq {n x : Nat} (hn : 0 < n ∧ n ≤ 8) (hx : x < 256 ^ n) (sx : Bool) :
    extend n sx x = if sx then Claims.sextOf (8 * n) (BitVec.ofNat 64 x) else BitVec.ofNat 64 x := by
  have hx' : x < 2 ^ (8 * n) := by rwa [Nat.pow_mul]
  have hpow : 2 ^ (8 * n) ≤ 2 ^ 64 := Nat.pow_le_pow_right (by decide) (by omega)
  have hto : ((BitVec.ofNat 64 x).setWidth (8 * n)).toNat = x := by
    rw [BitVec.toNat_setWidth, BitVec.toNat_ofNat, Nat.mod_eq_of_lt (hx'.trans_le hpow), Nat.mod_eq_of_lt hx']
  have hs : sval (8 * n) x = ((BitVec.ofNat 64 x).setWidth (8 * n)).toInt := by
    rw [sval, Nat.mod_eq_of_lt hx', BitVec.toInt_eq_toNat_cond, hto]
    have hhalf : 2 * 2 ^ (8 * n - 1) = 2 ^ (8 * n) := mul_pow_sub_one (by omega) 2
    split_ifs with h1 h2 h2
    · rfl
    · omega
    · omega
    · rfl
  unfold extend Claims.sextOf
  rw [hs]

/-! ### Where own-row accesses trap -/

theorem ownTrap_eq_ownFault (s : State) (a : Int) (n : Nat) (store : Bool) : ownTrap s s.cur a n store = Claims.ownFault s a n store := by
  unfold ownTrap Claims.ownFault rowSize isHandler
  grind

/-- Where it does not trap, an own-row access lies in the row or row pair, is aligned, and as a store keeps off the control block. -/
theorem ownFault_eq_none {s : State} {a : Int} {n : Nat} {store : Bool} (h : Claims.ownFault s a n store = none) :
    0 ≤ a ∧ a % n = 0 ∧ (store = true → a < 3968 ∨ 4096 ≤ a) := by
  unfold Claims.ownFault at h
  grind

/-- An aligned access of a power of two of bytes is within one row. -/
theorem ownAddr_add {t : Thr} {a n : Nat} (hn : n ∣ 4096) (ha : n ∣ a) {k : Nat} (hk : k < n) : ownAddr t (a + k) = ownAddr t a + k := by
  obtain ⟨m, hm⟩ := hn
  obtain ⟨q, rfl⟩ := ha
  have hrow : n * q < 4096 → n * q + k < 4096 := fun h => by
    have hq : q < m := Nat.lt_of_mul_lt_mul_left (hm ▸ h)
    have := Nat.mul_le_mul_left n (Nat.succ_le_of_lt hq)
    rw [Nat.mul_succ, ← hm] at this
    omega
  unfold ownAddr
  split_ifs <;> omega

theorem withOwn_goes {s : State} {a : SReg} {o : Int} {n : Nat} {store : Bool} (h : Readable s (sWords s.cur [a]))
    (hf : Claims.ownFault s (Claims.ownSum s a o) n store = none) (k : State → Nat → State) :
    withOwn s a o n store k = k s (Claims.ownSum s a o).toNat := by
  rw [← ownTrap_eq_ownFault] at hf
  unfold withOwn withChecked
  rw [touchWords_id s _ h]
  dsimp only
  rw [show ownTrap s s.cur ((getS s s.cur a).toInt + o) n store = none from hf]
  simp only [any_poisoned_false s _ h, Bool.false_eq_true, if_false]
  rfl

theorem withOwn_traps {s : State} {a : SReg} {o : Int} {n : Nat} {store : Bool} {c : Cause} (h : Readable s (sWords s.cur [a]))
    (hf : Claims.ownFault s (Claims.ownSum s a o) n store = some c) (k : State → Nat → State) :
    withOwn s a o n store k = takeTrap s s.cur c s.curWord none := by
  rw [← ownTrap_eq_ownFault] at hf
  unfold withOwn withChecked
  rw [touchWords_id s _ h]
  dsimp only
  rw [show ownTrap s s.cur ((getS s s.cur a).toInt + o) n store = some c from hf]
  rfl

/-! ### Results in vector registers -/

theorem vAddr_toNat (th : Thr) (d : VReg) :
    (∃ k, k + 32 ≤ 512 ∧ vAddr th d.toNat = rowAddr th.core th.row + 512 + k) ∨
    ∃ k, k + 32 ≤ 512 ∧ vAddr th d.toNat = rowAddr th.core (th.row + 12) + 512 + k := by
  have := d.isLt
  unfold vAddr
  split
  · exact .inl ⟨32 * d.toNat, by omega, rfl⟩
  · exact .inr ⟨32 * (d.toNat - 16), by omega, rfl⟩

theorem vAddr_cAddr (th : Thr) (d : VReg) (n : Nat) (hn : n < 16) (i : Nat) (_ : i < 8) : ¬ within (vAddr th d.toNat) 32 (cAddr th n + i) := by
  unfold within cAddr
  obtain ⟨k, hk, e⟩ | ⟨k, hk, e⟩ := vAddr_toNat th d <;> rw [e] <;> unfold rowAddr <;> omega

theorem setV_unchanged (s : State) (th : Thr) (d : VReg) (x : Vec) : UnchangedBut s (setV s th d x) (within (vAddr th d.toNat) 32) := by
  have h := putBytes_unchanged s (vAddr th d.toNat) (toBytes 32 x.toNat)
  rwa [length_toBytes] at h

theorem setV_same (s : State) (th : Thr) (d : VReg) (x : Vec) : SameModule s (setV s th d x) :=
  ⟨rfl, rfl, rfl, rfl, rfl, rfl, rfl, rfl⟩

theorem getV_setV_self (s : State) (th : Thr) (d : VReg) (x : Vec) : getV (setV s th d x) th d = x := by
  have h := getNat_putBytes_self s (vAddr th d.toNat) (toBytes 32 x.toNat)
  rw [length_toBytes, ofBytes_toBytes] at h
  rw [getV, setV, h]
  apply BitVec.eq_of_toNat_eq
  have := x.isLt
  rw [BitVec.toNat_ofNat]
  omega

/-- A write of bytes that are no control words, and then retiring: the instruction counts as in the state before. -/
theorem retire_after {s u : State} {th : Thr} {w : Nat → Prop} (hu : UnchangedBut s u w)
    (hw : ∀ n, n < 16 → ∀ i, i < 8 → ¬ w (cAddr th n + i)) (hc : getThr u th = getThr s th) (v : Word) :
    Retired s (retire u th v) th (nextPc s th) v ∧
      UnchangedBut u (retire u th v) (retireBytes s th) ∧ SameModule u (retire u th v) := by
  have h1 : getC u th 1 = getC s th 1 := hu.getC (hw 1 (by decide))
  have h7 : getC u th 7 = getC s th 7 := hu.getC (hw 7 (by decide))
  have hpc : nextPc u th = nextPc s th := by rw [nextPc, nextPc, pcOf, pcOf, h1]
  obtain ⟨hret, hframe, hrest⟩ := retireTo_plain u th (nextPc u th) v (nextPc_lt u th)
  have e : retire u th v = retireTo u th (nextPc u th) v := rfl
  rw [e]
  refine ⟨?_, hframe.mono fun a ha => by rwa [← retireBytes_congr h7 hc a], hrest⟩
  rw [hpc] at hret ⊢
  exact hret.of_unchanged hu fun n hn => hw n (by omega)

/-- Retiring counts in c1, c14, c13 and c0 and in no other control word. -/
theorem not_retireBytes_cAddr {s : State} {th : Thr} {n i : Nat} (hn : n ∉ [0, 1, 13, 14]) (hi : i < 8) :
    ¬ retireBytes s th (cAddr th n + i) := by
  simp only [List.mem_cons, List.not_mem_nil, or_false, not_or] at hn
  obtain ⟨h0, h1, h13, h14⟩ := hn
  rintro (h | h | ⟨-, h⟩ | ⟨-, h⟩)
  · exact cAddr_apart th (Ne.symm h1) hi h
  · exact cAddr_apart th (Ne.symm h14) hi h
  · exact cAddr_apart th (Ne.symm h13) hi h
  · exact cAddr_apart th (Ne.symm h0) hi h

theorem exists_cAddr_of_retireBytes {s : State} {th : Thr} {b : Nat} (h : retireBytes s th b) :
    ∃ n, n < 16 ∧ ∃ i, i < 8 ∧ b = cAddr th n + i := by
  have hword : ∀ n, n < 16 → within (cAddr th n) 8 b → ∃ n, n < 16 ∧ ∃ i, i < 8 ∧ b = cAddr th n + i := fun n hn hb =>
    ⟨n, hn, b - cAddr th n, by unfold within at hb; omega, by unfold within at hb; omega⟩
  obtain h | h | ⟨-, h⟩ | ⟨-, h⟩ := h
  · exact hword 1 (by decide) h
  · exact hword 14 (by decide) h
  · exact hword 13 (by decide) h
  · exact hword 0 (by decide) h

theorem not_retireBytes_vAddr {s : State} {th : Thr} {d : VReg} {i : Nat} (hi : i < 32) :
    ¬ retireBytes s th (vAddr th d.toNat + i) := by
  refine not_retireBytes ?_
  obtain ⟨k, hk, e⟩ | ⟨k, hk, e⟩ := vAddr_toNat th d <;> rw [e] <;> unfold rowAddr <;> omega

theorem retireV_result (s : State) (th : Thr) (d : VReg) (x : Vec) : VecResult s (retireV s th d x) th d x 0 := by
  have hu := setV_unchanged s th d x
  obtain ⟨hret, hframe, hrest⟩ := retire_after hu (vAddr_cAddr th d) (getThr_congr (setV_cores ..) (setV_now ..) th) (foldVec x)
  refine ⟨hret, ?_, ?_, ?_, (setV_same s th d x).trans hrest⟩
  · rw [retireV, getV, getNat_congr fun i hi => hframe _ (not_retireBytes_vAddr hi)]
    exact getV_setV_self s th d x
  · rw [retireV, hframe.getC fun i hi => not_retireBytes_cAddr (by decide) hi, hu.getC (vAddr_cAddr th d 3 (by decide))]
    simp
  · exact (hu.mono fun a ha => .inr (.inl ha)).trans (hframe.mono fun a ha => .inl ha)

/-! ### Stores -/

/-- The bytes of s0 and p0 are discarded (R20), the others are stored. -/
theorem get_putOwn {s : State} {t : Thr} {a n : Nat} {x : Nat} (hn : n ∣ 4096) (ha : n ∣ a) {k : Nat} (hk : k < n) :
    Memory.get (putOwn s t a (toBytes n x)).mem (ownAddr t (a + k)) =
      if a + k < 8 ∨ (1024 ≤ a + k ∧ a + k < 1028) then Memory.get s.mem (ownAddr t (a + k)) else BitVec.ofNat 8 (x / 256 ^ k) := by
  rw [putOwn, putBytes_mem, Memory.get_put, List.length_mapIdx, length_toBytes, ownAddr_add hn ha hk,
    if_pos ⟨Nat.le_add_right _ _, by omega⟩, Nat.add_sub_cancel_left, List.getD_eq_getElem _ _ (by simpa using hk), List.getElem_mapIdx,
    getElem_toBytes hk, ownAddr_add hn ha hk]
  simp only [protectedByte, Bool.or_eq_true, Bool.and_eq_true, decide_eq_true_eq]

theorem putOwn_unchanged (s : State) (t : Thr) (a n x : Nat) :
    UnchangedBut s (putOwn s t a (toBytes n x)) (within (ownAddr t a) n) := by
  have h := putBytes_unchanged s (ownAddr t a) ((toBytes n x).mapIdx fun i b =>
    if protectedByte (a + i) then Memory.get s.mem (ownAddr t (a + i)) else b)
  rwa [List.length_mapIdx, length_toBytes] at h

theorem putOwn_same (s : State) (t : Thr) (a : Nat) (bs : List Byte) : SameModule s (putOwn s t a bs) :=
  ⟨rfl, rfl, rfl, rfl, rfl, rfl, rfl, rfl⟩

/-- An aligned store that starts below the control block, or in the second row, leaves the control block alone. -/
theorem ownAddr_cAddr {t : Thr} {a n : Nat} (hn : n ∣ 128) (ha : n ∣ a) (h : a < 3968 ∨ 4096 ≤ a) (m : Nat) (hm : m < 16) (i : Nat)
    (hi : i < 8) : ¬ within (ownAddr t a) n (cAddr t m + i) := by
  obtain ⟨q, hq⟩ := hn
  obtain ⟨r, rfl⟩ := ha
  have hbelow : n * r < 3968 → n * r + n ≤ 3968 := fun h => by
    have hr : r < 31 * q := Nat.lt_of_mul_lt_mul_left (a := n) (by rw [Nat.mul_left_comm, ← hq]; omega)
    have := Nat.mul_le_mul_left n (Nat.succ_le_of_lt hr)
    rw [Nat.mul_succ, Nat.mul_left_comm, ← hq] at this
    omega
  unfold within ownAddr cAddr rowAddr
  split_ifs <;> omega

theorem storeOwn_gives {s : State} {a n x : Nat} (v : Word) (hn : n ∣ 128) (ha : n ∣ a) (h : a < 3968 ∨ 4096 ≤ a) :
    let t := retire (putOwn s s.cur a (toBytes n x)) s.cur v
    Retired s t s.cur (nextPc s s.cur) v ∧
    (∀ k, k < n → Memory.get t.mem (ownAddr s.cur (a + k)) =
      if a + k < 8 ∨ (1024 ≤ a + k ∧ a + k < 1028) then Memory.get s.mem (ownAddr s.cur (a + k)) else BitVec.ofNat 8 (x / 256 ^ k)) ∧
    UnchangedBut s t (fun b => retireBytes s s.cur b ∨ within (ownAddr s.cur a) n b) ∧ SameModule s t := by
  have hn' : n ∣ 4096 := hn.trans (by decide)
  have hu := putOwn_unchanged s s.cur a n x
  have hctl := ownAddr_cAddr (t := s.cur) hn ha h
  obtain ⟨hret, hframe, hrest⟩ := retire_after hu hctl rfl v
  refine ⟨hret, fun k hk => ?_, ?_, (putOwn_same s s.cur a _).trans hrest⟩
  · rw [hframe, get_putOwn hn' ha hk]
    intro hr
    obtain ⟨m, hm, i, hi, e⟩ := exists_cAddr_of_retireBytes hr
    refine hctl m hm i hi (e ▸ ?_)
    rw [ownAddr_add hn' ha hk]
    exact ⟨Nat.le_add_right _ _, by omega⟩
  · exact (hu.mono fun b hb => .inr hb).trans (hframe.mono fun b hb => .inl hb)

/-! ### The instructions -/

theorem size_bytes (z : Size) : 0 < z.bytes ∧ z.bytes ≤ 8 ∧ z.bytes ∣ 128 := by cases z <;> decide

theorem toNat_dvd {a : Int} {n : Nat} (h0 : 0 ≤ a) (h : a % n = 0) : n ∣ a.toNat := by
  have hd := Int.dvd_of_emod_eq_zero h
  rw [← Int.toNat_of_nonneg h0] at hd
  exact_mod_cast hd

theorem vLegal_cond {s : State} {v : VReg} (h : Claims.VLegal s [v]) : ¬ ((decide (16#5 ≤ v) && !isWide s s.cur) = true) := by
  obtain h | h := h
  · simp [h]
  · have := h v List.mem_cons_self
    simp only [Bool.and_eq_true, decide_eq_true_eq, BitVec.le_def, not_and]
    intro h'
    exact absurd this (Nat.not_lt.2 h')

theorem exec_ldr {s : State} {d a : SReg} {z : Size} {sx : Bool} {o : BitVec 11} (hr : SReadable s s.cur [a])
    (hf : Claims.ownFault s (Claims.ownSum s a o.toInt) z.bytes false = none)
    (hw : Readable s (wordsOf (ownAddr s.cur (Claims.ownSum s a o.toInt).toNat) z.bytes)) :
    exec (.ldr d a z sx o) s =
      .next (retireS s s.cur d (extend z.bytes sx (ownNat s s.cur (Claims.ownSum s a o.toInt).toNat z.bytes))) := by
  show execLdr d a z sx o s = _
  rw [execLdr, withOwn_goes hr.2 hf, ownWords, withWords_readable hr.1 hw]

theorem exec_vldr {s : State} {v : VReg} {a : SReg} {o : BitVec 9} (hr : SReadable s s.cur [a]) (hv : Claims.VLegal s [v])
    (hf : Claims.ownFault s (Claims.ownSum s a (32 * o.toInt)) 32 false = none)
    (hw : Readable s (wordsOf (ownAddr s.cur (Claims.ownSum s a (32 * o.toInt)).toNat) 32)) :
    exec (.vldr v a o) s =
      .next (retireV s s.cur v (BitVec.ofNat 256 (ownNat s s.cur (Claims.ownSum s a (32 * o.toInt)).toNat 32))) := by
  show execVldr v a o s = _
  rw [execVldr, if_neg (vLegal_cond hv), Int.mul_comm, withOwn_goes hr.2 hf, ownWords, withWords_readable hr.1 hw]

theorem exec_str {s : State} {d a : SReg} {z : Size} {o : BitVec 11} (hr : SReadable s s.cur [a, d])
    (hf : Claims.ownFault s (Claims.ownSum s a o.toInt) z.bytes true = none) :
    exec (.str d a z o) s =
      (let n := (Claims.ownSum s a o.toInt).toNat
       let y := (getS s s.cur d).toNat % 2 ^ (8 * z.bytes)
       .next (retire (putOwn s s.cur n (toBytes z.bytes y)) s.cur (BitVec.ofNat 64 n ^^^ BitVec.ofNat 64 y))) := by
  have ha : Readable s (sWords s.cur [a]) := fun w hw => hr.2 w (by simp [sWords] at hw ⊢; grind)
  have hd : Readable s (sWords s.cur [d]) := fun w hw => hr.2 w (by simp [sWords] at hw ⊢; grind)
  show execStr d a z o s = _
  rw [execStr, withOwn_goes ha hf, withWords_readable hr.1 hd]

theorem vecFold_eq_foldVec (x : Vec) : Claims.vecFold x = foldVec x := by
  unfold Claims.vecFold foldVec
  ac_rfl

theorem exec_vstr {s : State} {v : VReg} {a : SReg} {o : BitVec 9} (hr : SReadable s s.cur [a])
    (hw : Readable s (wordsOf (vAddr s.cur v.toNat) 32)) (hv : Claims.VLegal s [v])
    (hf : Claims.ownFault s (Claims.ownSum s a (32 * o.toInt)) 32 true = none) :
    exec (.vstr v a o) s =
      (let n := (Claims.ownSum s a (32 * o.toInt)).toNat
       let y := getV s s.cur v
       .next (retire (putOwn s s.cur n (toBytes 32 y.toNat)) s.cur (BitVec.ofNat 64 n ^^^ Claims.vecFold y))) := by
  show execVstr v a o s = _
  rw [execVstr, if_neg (vLegal_cond hv), Int.mul_comm, withOwn_goes hr.2 hf,
    withWords_readable hr.1 (by simpa [vWords] using hw)]
  simp only [vecFold_eq_foldVec]

end Sys2Proof.Machine

namespace Sys2Proof
open Machine

theorem ownRowLoads : Claims.OwnRowLoads := by
  intro s a hr
  refine ⟨fun d z sx o hf hw => ?_, fun v o hv hf hw => ?_⟩
  · obtain ⟨hpos, hle, -⟩ := size_bytes z
    refine ⟨_, spells_ownNat s s.cur (Claims.ownSum s a o.toInt).toNat z.bytes, _, exec_ldr hr hf hw, ?_⟩
    rw [← extend_eq ⟨hpos, hle⟩ (ownNat_lt s s.cur _ z.bytes)]
    exact retireS_result s s.cur d _
  · exact ⟨_, spells_ownNat s s.cur _ 32, _, exec_vldr hr hv hf hw, retireV_result s s.cur v _⟩

theorem ownRowStores : Claims.OwnRowStores := by
  intro s a
  refine ⟨fun d z o hr hf => ?_, fun v o hr hvr hv hf => ?_⟩
  · obtain ⟨h0, hal, hoff⟩ := ownFault_eq_none hf
    have hgives := storeOwn_gives (s := s) (x := (getS s s.cur d).toNat % 256 ^ z.bytes)
      (BitVec.ofNat 64 (Claims.ownSum s a o.toInt).toNat ^^^ BitVec.ofNat 64 ((getS s s.cur d).toNat % 256 ^ z.bytes))
      (size_bytes z).2.2 (toNat_dvd h0 hal) (by have := hoff rfl; omega)
    have hexec := exec_str hr hf
    rw [Nat.pow_mul] at hexec
    exact ⟨_, hexec, hgives⟩
  · obtain ⟨h0, hal, hoff⟩ := ownFault_eq_none hf
    exact ⟨_, exec_vstr hr hvr hv hf, storeOwn_gives _ (by decide) (toNat_dvd h0 hal) (by have := hoff rfl; omega)⟩

theorem ownRowTraps : Claims.OwnRowTraps := by
  intro s a d v c hr
  refine ⟨fun z o => ⟨fun sx hf => ?_, fun hf => ?_⟩, fun o hv => ⟨fun hf => ?_, fun hf => ?_⟩⟩
  · exact congrArg Host.Outcome.next (withOwn_traps hr hf _)
  · exact congrArg Host.Outcome.next (withOwn_traps hr hf _)
  · exact congrArg Host.Outcome.next ((if_neg (vLegal_cond hv)).trans (withOwn_traps hr (Int.mul_comm _ _ ▸ hf) _))
  · exact congrArg Host.Outcome.next ((if_neg (vLegal_cond hv)).trans (withOwn_traps hr (Int.mul_comm _ _ ▸ hf) _))

/-- Settles O9: `ownRowLoads`, `ownRowStores` and `ownRowTraps`. -/
theorem ownRowAccesses : Obligations.OwnRowAccesses := ⟨ownRowLoads, ownRowStores, ownRowTraps⟩

end Sys2Proof
end

section
/-! PROOFS. Row-space packets at their target: the words that they read and write (O22, and O24 where they are those of s0 and p0). -/
namespace Sys2Proof.Claims
open Machine

/-! ### Only some bytes change -/

namespace OnlyBytes
variable {s t u : State} {w : Nat → Prop}

theorem trans (h : OnlyBytes s t w) (k : OnlyBytes t u w) : OnlyBytes s u w where
  frame   := h.frame.trans k.frame
  now     := k.now.trans h.now
  cores   := k.cores.trans h.cores
  tiles   := k.tiles.trans h.tiles
  stackSt := k.stackSt.trans h.stackSt
  reqs    := k.reqs.trans h.reqs
  pairs   := k.pairs.trans h.pairs

theorem mono {w' : Nat → Prop} (h : OnlyBytes s t w) (hw : ∀ a, w a → w' a) : OnlyBytes s t w' := { h with frame := h.frame.mono hw }

theorem ofReadOnly (h : ReadOnly s t) (w : Nat → Prop) : OnlyBytes s t w :=
  ⟨h.unchangedBut w, h.now, h.cores, h.tiles, h.stackSt, h.reqs, h.pairs⟩

theorem refl (s : State) (w : Nat → Prop) : OnlyBytes s s w := ofReadOnly (.refl s) w

theorem ofPutWord (s : State) (a : Nat) (x : Word) : OnlyBytes s (putWord s a x) (within a 8) :=
  ⟨putWord_unchanged s a x, rfl, rfl, rfl, rfl, rfl, rfl⟩

theorem getCore (h : OnlyBytes s t w) (c : Nat) : getCore t c = getCore s c := by
  rw [Machine.getCore, Machine.getCore, h.cores, h.now]

end OnlyBytes

end Sys2Proof.Claims

namespace Sys2Proof.Machine
open Claims

/-! ### Answers -/

theorem mem_agenda_send (s : State) (cls : Cls) (src dst : Nat) (a : Act) : ∃ x ∈ (send s cls src dst a).agenda, x.act = a :=
  ⟨_, mem_insertSched.2 (.inl rfl), rfl⟩

/-- Only packets, records and answers leave between the two states: memory and the cores are as before, and what was due still is. -/
structure SendsOnly (s t : State) : Prop where
  mem     : t.mem = s.mem
  poison  : t.poison = s.poison
  now     : t.now = s.now
  cores   : t.cores = s.cores
  tiles   : t.tiles = s.tiles
  stackSt : t.stackSt = s.stackSt
  reqs    : t.reqs = s.reqs
  pairs   : t.pairs = s.pairs
  agenda  : ∀ x ∈ s.agenda, x ∈ t.agenda

namespace SendsOnly
variable {s t u : State}

theorem refl (s : State) : SendsOnly s s := ⟨rfl, rfl, rfl, rfl, rfl, rfl, rfl, rfl, fun _ h => h⟩

theorem trans (h : SendsOnly s t) (k : SendsOnly t u) : SendsOnly s u :=
  ⟨k.mem.trans h.mem, k.poison.trans h.poison, k.now.trans h.now, k.cores.trans h.cores, k.tiles.trans h.tiles,
    k.stackSt.trans h.stackSt, k.reqs.trans h.reqs, k.pairs.trans h.pairs, fun x hx => k.agenda x (h.agenda x hx)⟩

theorem ofSend (s : State) (cls : Cls) (src dst : Nat) (a : Act) : SendsOnly s (send s cls src dst a) :=
  ⟨rfl, rfl, rfl, rfl, rfl, rfl, rfl, rfl, fun _ h => mem_insertSched.2 (.inr h)⟩

theorem ofCountLost (s : State) (slot : Nat) : SendsOnly s (countLost s slot) :=
  ⟨rfl, rfl, rfl, rfl, rfl, rfl, rfl, rfl, fun _ h => h⟩

theorem ofAnswer (s : State) (tile id : Nat) (a : Ans) : SendsOnly s (answer s tile id a) := by
  unfold answer
  split
  · exact refl s
  · exact ofSend ..

theorem ofAnswerPkt (s : State) (p : RowPkt) (a : Ans) : SendsOnly s (answerPkt s p a) := by
  unfold answerPkt
  split
  · split
    · split
      · exact ⟨rfl, rfl, rfl, rfl, rfl, rfl, rfl, rfl, fun _ h => h⟩
      · exact refl s
    · exact refl s
  · exact ofAnswer ..

theorem ofToSupervisor (s : State) (tile slot : Nat) (w0 w1 : Word) : SendsOnly s (toSupervisor s tile slot w0 w1) := by
  unfold toSupervisor
  dsimp only
  split_ifs
  · exact ofCountLost ..
  · exact ⟨rfl, rfl, rfl, rfl, rfl, rfl, rfl, rfl, fun _ h => h⟩
  · exact ofCountLost ..
  · exact ofCountLost ..
  · exact ofSend ..

theorem getCore (h : SendsOnly s t) (c : Nat) : getCore t c = getCore s c := by
  rw [Machine.getCore, Machine.getCore, h.cores, h.now]

theorem onlyBytes (h : SendsOnly s t) : OnlyBytes s t fun _ => False :=
  ⟨fun a _ => by rw [h.mem], h.now, h.cores, h.tiles, h.stackSt, h.reqs, h.pairs⟩

theorem coming (h : SendsOnly s t) {a : Act} (hc : Coming s a) : Coming t a := by
  obtain ⟨x, hx, e⟩ := hc
  exact ⟨x, h.agenda x hx, e⟩

end SendsOnly

theorem answerPkt_parts (s : State) (p : RowPkt) (a : Ans) : (answerPkt s p a).io.parts = s.io.parts := by
  unfold answerPkt answer
  split
  · split
    · split <;> rfl
    · rfl
  · split <;> rfl

/-- The packet's sender gets the word, in any state that has its request and the host's answers as they were. -/
theorem answered_answerPkt {s u : State} (hr : u.reqs = s.reqs) (ha : u.io.hostAnswers = s.io.hostAnswers) (p : RowPkt) (x : Word)
    (b : Bool) : Answered s (answerPkt u p (.value (x.setWidth 256) b)) p x b := by
  refine ⟨fun hreq hsome => ?_, fun hreq hhost => ?_⟩
  · obtain ⟨r, hfound⟩ := Option.isSome_iff_exists.1 hsome
    have hu : findReq u p.req = some r := by rw [findReq, hr]; exact hfound
    simp only [answerPkt, if_neg hreq, answer, hu]
    exact mem_agenda_send ..
  · simp only [answerPkt, if_pos hreq, if_pos hhost, ha]
    congr 2
    apply BitVec.eq_of_getLsbD_eq
    intro i hi
    simp [BitVec.getLsbD_setWidth, hi]
    omega

/-! ### The key check -/

theorem meetKey_readOnly (s : State) (p : RowPkt) : ReadOnly s (meetKey s p) := by
  unfold meetKey
  dsimp only
  split
  · exact ((ReadOnly.refl s).touchFrame _).touchWord _
  · exact (ReadOnly.refl s).touchFrame _

theorem pktHome_readOnly {s t : State} (h : ReadOnly s t) (p : RowPkt) : pktHome t p = pktHome s p := by
  rw [pktHome, pktHome, h.getCore]

/-- What the key check finds is the same after reads, where no error is stored in c7. -/
theorem rowCheck_readOnly {s t : State} (h : ReadOnly s t) {p : RowPkt} (hc : Unerring s (cAddr (pktHome s p) 7)) (f : RowFn) :
    rowCheck t p f = rowCheck s p f := by
  have hpart : ∀ tile, partKey t tile = partKey s tile := fun tile => by
    rw [partKey, partKey, h.getTile, h.getPart]
  have hpresent : ∀ core, corePresent t core = corePresent s core := fun core => by simp only [corePresent, h.absent]
  have hframe : ∀ core row, frameUse t core row = frameUse s core row := fun core row => by simp only [frameUse, h.getWord]
  simp only [rowCheck, pktHome_readOnly h, hpart, hpresent, hframe, isControl, h.getCore, isShadow, isFollowerRow, h.pairs,
    h.poison _ hc, tstate, keyOf, h.getC]
  rfl

theorem checked_passes {s : State} {p : RowPkt} {f : RowFn} (hc : Unerring s (cAddr (pktHome s p) 7)) (h : rowCheck s p f = none)
    (k : State → State) : checked s p f k = k (meetKey s p) := by
  simp only [checked, rowCheck_readOnly (meetKey_readOnly s p) hc, h]

theorem deferPair_alone {s : State} {t : Thr} (h : pairOf s t = none) (e : Event) (k : State → State) : deferPair s t e k = k s := by
  simp only [deferPair, h]

/-- Nobody is in PARK in the packet's row, so that a write wakes nobody. -/
theorem wakeRow_awake {s u : State} {p : RowPkt} {f : RowFn} (h : Free s p f) (hu : u.reqs = s.reqs)
    (hc : getCore u (refCore p.ref) = getCore s (refCore p.ref)) (widx : Nat) : wakeRow u (refCore p.ref) (refRow p.ref) widx = u := by
  have hnone : (u.reqs.find? fun r => r.thr = pktHome s p && !r.held && r.insn == .park) = none := by
    rw [hu, List.find?_eq_none]
    intro r hr
    simp only [Bool.and_eq_true, decide_eq_true_eq, beq_iff_eq, not_and]
    exact fun ht => h.awake r hr ht.1
  unfold wakeRow
  split
  · rfl
  · rw [hc]
    show wakePark u (pktHome s p) = u
    simp only [wakePark, hnone]

/-! ### The packet's word -/

theorem rowWord_eq_wordRead {s : State} {core row widx : Nat} : rowWord s core row widx = wordRead s core row widx := by
  unfold rowWord wordRead
  grind

theorem wordRead_readOnly {s t : State} (h : ReadOnly s t) (core row widx : Nat) : wordRead t core row widx = wordRead s core row widx := by
  simp only [wordRead, corestat, earnOf, h.getCore, h.now, h.getWord, h.getC]

theorem wordRead_rowData {s : State} {core row widx : Nat} (h : rowData s core row widx) :
    wordRead s core row widx = getWord s (rowAddr core row + 8 * widx) := by
  obtain ⟨hrow, hdata⟩ := h
  unfold wordRead
  grind

theorem writeRowWord_onlyBytes (s : State) (core row widx : Nat) (x : Word) :
    OnlyBytes s (writeRowWord s core row widx x) (within (rowAddr core row + 8 * widx) 8) := by
  unfold writeRowWord
  dsimp only
  split_ifs
  iterate 2 exact .refl s _
  · exact .ofPutWord s _ _
  · exact .refl s _
  iterate 3 exact .ofPutWord s _ _

theorem writeRowWord_rowData {s : State} {core row widx : Nat} (h : rowData s core row widx) (x : Word) :
    writeRowWord s core row widx x = putWord s (rowAddr core row + 8 * widx) x := by
  obtain ⟨hrow, hdata⟩ := h
  unfold writeRowWord
  grind

theorem rowData_readOnly {s t : State} (h : ReadOnly s t) {core row widx : Nat} (hd : rowData s core row widx) :
    rowData t core row widx := by
  unfold rowData
  rw [h.getCore]
  exact hd

theorem isControl_rowData {s : State} {core row widx : Nat} (h : rowData s core row widx) : isControl s core row widx = false := by
  obtain ⟨-, hdata⟩ := h
  unfold isControl
  grind

/-- A word written whole loses POISON (R99). -/
theorem isPoisoned_putWord_self (s : State) (a : Nat) (x : Word) : isPoisoned (putWord s a x) a = false := by
  simp [isPoisoned, putWord, putBytes, length_toBytes]

end Sys2Proof.Machine

namespace Sys2Proof.Claims
open Machine

/-! ### A packet whose access passes -/

/-- The place of a packet's word. -/
abbrev wordPlace (p : RowPkt) : Nat := rowAddr (refCore p.ref) (refRow p.ref) + 8 * p.widx

namespace Free
variable {s u : State} {p : RowPkt} {f : RowFn}

theorem checked (h : Free s p f) (k : State → State) : checked s p f k = k (meetKey s p) :=
  checked_passes (fun e he => (h.clean e he).2) h.check k

theorem poison (h : Free s p f) (hu : ReadOnly s u) : isPoisoned u (wordPlace p) = isPoisoned s (wordPlace p) :=
  hu.poison _ fun e he => (h.clean e he).1

theorem deferPair (h : Free s p f) (hu : ReadOnly s u) (e : Event) (k : State → State) : deferPair u (pktHome u p) e k = k u := by
  refine deferPair_alone ?_ e k
  rw [pktHome_readOnly hu, pairOf, hu.pairs]
  exact h.alone

/-- An answer, and the wake that a write is, leave the bytes of the state that they begin in. -/
theorem finish (h : Free s p f) {w : Nat → Prop} (hu : OnlyBytes s u w) (a : Ans) :
    wakeRow (answerPkt u p a) (refCore p.ref) (refRow p.ref) p.widx = answerPkt u p a := by
  have ha := hu.trans ((SendsOnly.ofAnswerPkt u p a).onlyBytes.mono fun _ hf => hf.elim)
  exact wakeRow_awake h ha.reqs (ha.getCore _) p.widx

end Free

/-- A state that differs in bytes only, and in which the packet is answered. -/
theorem answered_of_onlyBytes {s u : State} {w : Nat → Prop} {p : RowPkt} (hu : OnlyBytes s u w)
    (hh : u.io.hostAnswers = s.io.hostAnswers) (x : Word) (b : Bool) :
    let t := answerPkt u p (.value (x.setWidth 256) b)
    OnlyBytes s t w ∧ Answered s t p x b ∧ getWord t (wordPlace p) = getWord u (wordPlace p) ∧
      isPoisoned t (wordPlace p) = isPoisoned u (wordPlace p) := by
  have ha := SendsOnly.ofAnswerPkt u p (.value (x.setWidth 256) b)
  refine ⟨hu.trans (ha.onlyBytes.mono fun _ hf => hf.elim), answered_answerPkt hu.reqs hh p x b, ?_, ?_⟩
  · exact ha.onlyBytes.frame.getWord fun _ _ => id
  · rw [isPoisoned, isPoisoned, ha.poison]

/-- What writing a word of row data leaves after reads. -/
theorem writeRowWord_gives {s m : State} {p : RowPkt} (hm : ReadOnly s m) (hd : rowData s (refCore p.ref) (refRow p.ref) p.widx) (x : Word) :
    let u := writeRowWord m (refCore p.ref) (refRow p.ref) p.widx x
    OnlyBytes s u (within (wordPlace p) 8) ∧ u.io.hostAnswers = s.io.hostAnswers ∧ getWord u (wordPlace p) = x ∧
      isPoisoned u (wordPlace p) = false := by
  refine ⟨(OnlyBytes.ofReadOnly hm _).trans (writeRowWord_onlyBytes ..), ?_, ?_, ?_⟩ <;>
    rw [writeRowWord_rowData (rowData_readOnly hm hd)]
  · exact hm.hostAnswers
  · exact getWord_putWord_self ..
  · exact isPoisoned_putWord_self ..

theorem rowWord_readOnly {s m : State} (hm : ReadOnly s m) (core row widx : Nat) : rowWord m core row widx = wordRead s core row widx :=
  rowWord_eq_wordRead.trans (wordRead_readOnly hm ..)

end Sys2Proof.Claims

namespace Sys2Proof.Machine
open Claims

/-! ### The steps -/

section
variable {s : State} {p : RowPkt}

theorem outsideRead_eq (h : Free s p .read) :
    ∃ m, ReadOnly s m ∧ outsideRead s p =
      answerPkt m p (.value ((wordRead s (refCore p.ref) (refRow p.ref) p.widx).setWidth 256)
        (refRow p.ref ≠ 84 && isPoisoned s (wordPlace p))) := by
  refine ⟨if refRow p.ref = 84 then meetKey s p else touchWord (meetKey s p) (wordPlace p), ?_, ?_⟩
  · split
    · exact meetKey_readOnly s p
    · exact (meetKey_readOnly s p).touchWord _
  · have hm := meetKey_readOnly s p
    rw [outsideRead, h.checked]
    dsimp only
    split
    · next hrow => simp [hrow, rowWord_readOnly hm]
    · rw [rowWord_readOnly (hm.touchWord _), h.poison (hm.touchWord _)]

theorem storeWord_eq (h : Free s p .write) :
    ∃ m, ReadOnly s m ∧
      storeWord s p = answerPkt (writeRowWord m (refCore p.ref) (refRow p.ref) p.widx p.x) p (ansWord 0) := by
  have hm := meetKey_readOnly s p
  refine ⟨meetKey s p, hm, ?_⟩
  rw [storeWord, h.checked, h.deferPair hm]
  exact h.finish ((OnlyBytes.ofReadOnly hm _).trans (writeRowWord_onlyBytes ..)) _

theorem outsideAdd_eq (h : Free s p .add) (hp : isPoisoned s (wordPlace p) = false) :
    ∃ m, ReadOnly s m ∧
      outsideAdd s p = answerPkt (writeRowWord m (refCore p.ref) (refRow p.ref) p.widx
        (wordRead s (refCore p.ref) (refRow p.ref) p.widx + p.x)) p (ansWord (wordRead s (refCore p.ref) (refRow p.ref) p.widx)) := by
  have hk := meetKey_readOnly s p
  have hm := hk.touchWord (wordPlace p)
  refine ⟨_, hm, ?_⟩
  have hp' := (h.poison hm).trans hp
  rw [outsideAdd, h.checked, h.deferPair hk]
  dsimp only
  rw [hp', rowWord_readOnly hm, if_neg (by decide)]
  exact h.finish ((OnlyBytes.ofReadOnly hm _).trans (writeRowWord_onlyBytes ..)) _

/-- A poisoned word is answered and keeps its value (R333). -/
theorem outsideAdd_eq_of_poisoned (h : Free s p .add) (hp : isPoisoned s (wordPlace p) = true) :
    ∃ m a, ReadOnly s m ∧ outsideAdd s p = answerPkt m p a := by
  have hk := meetKey_readOnly s p
  have hm := hk.touchWord (wordPlace p)
  refine ⟨touchWord (meetKey s p) (wordPlace p), .value ((wordRead s (refCore p.ref) (refRow p.ref) p.widx).setWidth 256) true, hm, ?_⟩
  have hp' := (h.poison hm).trans hp
  rw [outsideAdd, h.checked, h.deferPair hk]
  dsimp only
  rw [hp', rowWord_readOnly hm, if_pos rfl]

theorem outsideCas_eq_of_poisoned (h : Free s p .cas) (hp : isPoisoned s (wordPlace p) = true) (hrow : refRow p.ref < 84) :
    ∃ m a, ReadOnly s m ∧ outsideCas s p = answerPkt m p a := by
  have hk := meetKey_readOnly s p
  have hm := hk.touchWord (wordPlace p)
  refine ⟨touchWord (meetKey s p) (wordPlace p), .value ((wordRead s (refCore p.ref) (refRow p.ref) p.widx).setWidth 256) true, hm, ?_⟩
  have hp' := (h.poison hm).trans hp
  have hr : ¬ refRow p.ref = 84 := by omega
  rw [outsideCas, h.checked, h.deferPair hk]
  dsimp only
  rw [if_neg hr, hp', rowWord_readOnly hm, if_pos (by simp [hr])]

theorem outsideCas_eq (h : Free s p .cas) (hp : isPoisoned s (wordPlace p) = false) (hrow : refRow p.ref < 84)
    (hw : p.widx ≠ 496 ∨ isControl s (refCore p.ref) (refRow p.ref) p.widx = false) :
    let old := wordRead s (refCore p.ref) (refRow p.ref) p.widx
    ∃ m, ReadOnly s m ∧
      outsideCas s p =
        answerPkt (if old = p.x then writeRowWord m (refCore p.ref) (refRow p.ref) p.widx p.y else m) p (ansWord old) := by
  have hk := meetKey_readOnly s p
  have hm := hk.touchWord (wordPlace p)
  refine ⟨_, hm, ?_⟩
  have hp' := (h.poison hm).trans hp
  have hr : ¬ refRow p.ref = 84 := by omega
  have hc : ¬ ((isControl (touchWord (meetKey s p) (wordPlace p)) (refCore p.ref) (refRow p.ref) p.widx && decide (p.widx = 496)) = true) := by
    rw [isControl, hm.getCore, ← isControl]
    obtain hw | hw := hw <;> simp [hw]
  rw [outsideCas, h.checked, h.deferPair hk]
  dsimp only
  rw [if_neg hr, hp', rowWord_readOnly hm, if_neg (by simp)]
  by_cases he : wordRead s (refCore p.ref) (refRow p.ref) p.widx = p.x
  · rw [if_neg (not_not.2 he), if_neg hr, if_neg hc, if_pos he]
    exact h.finish ((OnlyBytes.ofReadOnly hm _).trans (writeRowWord_onlyBytes ..)) _
  · rw [if_pos he, if_neg he]

end

/-! ### Records for the supervisor -/

theorem getPart_countLost (s : State) (slot : Nat) :
    (getPart (countLost s slot) slot).lost =
      if (getPart s slot).lost = 0xFFFFFFFF#32 then (getPart s slot).lost else (getPart s slot).lost + 1 := by
  rw [countLost, modPart, getPart, look_store, if_pos rfl]

theorem toSupervisor_hostAnswers (s : State) (tile slot : Nat) (w0 w1 : Word) :
    (toSupervisor s tile slot w0 w1).io.hostAnswers = s.io.hostAnswers := by
  unfold toSupervisor
  dsimp only
  split_ifs <;> rfl

theorem toSupervisor_sends (s : State) (tile slot : Nat) (w0 w1 : Word) : ToSupervisor s (toSupervisor s tile slot w0 w1) slot w0 w1 := by
  refine ⟨fun hlost => ?_, fun hr hhere hup hpresent => ?_⟩
  · rw [← getPart_countLost]
    unfold toSupervisor
    obtain h | ⟨hhere, hdown⟩ | ⟨haway, hreach⟩ := hlost
    · simp only [if_pos h]
    · simp only [if_neg (not_not.2 hhere), hdown, if_true, ite_self]
    · simp only [if_pos haway, hreach, Bool.false_eq_true, if_false, ite_self]
  · simp only [toSupervisor, if_neg hr, if_neg (not_not.2 hhere), hup, Bool.false_eq_true, if_false, inboxAct, hpresent, if_true]
    exact mem_agenda_send ..

/-- What goes to the supervisor goes there in a state that differs by reads, and stays under way as more leaves. -/
theorem toSupervisor_of_readOnly {s m u t : State} {slot : Nat} {w0 w1 : Word} (hm : ReadOnly s m) (h : ToSupervisor m u slot w0 w1)
    (hu : SendsOnly u t) (hp : t.io.parts = u.io.parts) : ToSupervisor s t slot w0 w1 := by
  have hpart : getPart t slot = getPart u slot := by rw [getPart, getPart, hp]
  have hpresent : ∀ c, corePresent m c = corePresent s c := fun c => by simp only [corePresent, hm.absent]
  obtain ⟨hlost, hsent⟩ := h
  obtain ⟨a, b, e⟩ := hm.io
  unfold ToSupervisor
  simp only [hm.getPart, hpresent, stackDown, healthOf, reachable, e] at hlost hsent ⊢
  exact ⟨fun hc => by rw [hpart]; exact hlost hc, fun hr hh hd hc => hu.coming (hsent hr hh hd hc)⟩

/-- A diverted packet leaves its record and is answered 0, and changes nothing else. -/
theorem divert_gives {s m : State} (hm : ReadOnly s m) (p : RowPkt) (sub : Nat) :
    Diverted s (divert m p sub) p sub ∧ SendsOnly m (divert m p sub) ∧ Answered s (divert m p sub) p 0 false := by
  have hslot : slotOf m (tileOf (refCore p.ref)) = slotOf s (tileOf (refCore p.ref)) := by rw [slotOf, slotOf, hm.getTile]
  have e : divert m p sub = answerPkt (toSupervisor m (tileOf (refCore p.ref)) (slotOf s (tileOf (refCore p.ref))) p.ref
      (0x20#8 ++ BitVec.ofNat 8 sub ++ 0#2 ++ p.sender)) p (ansWord 0) := by rw [divert, diversion, hslot]
  have hout := SendsOnly.ofToSupervisor m (tileOf (refCore p.ref)) (slotOf s (tileOf (refCore p.ref))) p.ref
    (0x20#8 ++ BitVec.ofNat 8 sub ++ 0#2 ++ p.sender)
  have hans := SendsOnly.ofAnswerPkt (toSupervisor m (tileOf (refCore p.ref)) (slotOf s (tileOf (refCore p.ref))) p.ref
    (0x20#8 ++ BitVec.ofNat 8 sub ++ 0#2 ++ p.sender)) p (ansWord 0)
  rw [e]
  exact ⟨toSupervisor_of_readOnly hm (toSupervisor_sends ..) hans (answerPkt_parts ..), hout.trans hans,
    answered_answerPkt (hout.reqs.trans hm.reqs) ((toSupervisor_hostAnswers ..).trans hm.hostAnswers) p 0 false⟩

end Sys2Proof.Machine

namespace Sys2Proof
open Machine

theorem outsideAccesses : Claims.OutsideAccesses := by
  intro s p
  refine ⟨fun hd h => ?_, fun hd h hdata => ?_, fun hd h hdata hp => ?_, fun hd h hdata hp => ?_⟩
  · obtain ⟨m, hm, e⟩ := outsideRead_eq h
    refine ⟨outsideRead s p, ?_, ?_⟩
    · show execOutsideRead s = _
      simp only [execOutsideRead, hd, rowStepOf]
    · obtain ⟨hbytes, hans, -⟩ := Claims.answered_of_onlyBytes (p := p) (Claims.OnlyBytes.ofReadOnly hm fun _ => False) hm.hostAnswers
        (Claims.wordRead s (refCore p.ref) (refRow p.ref) p.widx) (refRow p.ref ≠ 84 && isPoisoned s (Claims.wordPlace p))
      rw [e]
      exact ⟨hbytes, hans⟩
  · obtain ⟨m, hm, e⟩ := storeWord_eq h
    refine ⟨storeWord s p, ?_, ?_⟩
    · show execOutsideWrite s = _
      simp only [execOutsideWrite, hd, rowStepOf, outsideWrite]
      rw [if_neg]
      grind [isControl_rowData hdata]
    · obtain ⟨hbytes, hhost, hword, hclean⟩ := Claims.writeRowWord_gives hm hdata p.x
      obtain ⟨h1, h2, h3, h4⟩ := Claims.answered_of_onlyBytes (p := p) hbytes hhost 0 false
      rw [e]
      exact ⟨h1, h3.trans hword, h4.trans hclean, h2⟩
  · obtain ⟨m, hm, e⟩ := outsideAdd_eq h hp
    refine ⟨outsideAdd s p, ?_, ?_⟩
    · show execOutsideRamoadd s = _
      simp only [execOutsideRamoadd, hd, rowStepOf]
    · obtain ⟨hbytes, hhost, hword, -⟩ :=
        Claims.writeRowWord_gives hm hdata (Claims.wordRead s (refCore p.ref) (refRow p.ref) p.widx + p.x)
      obtain ⟨h1, h2, h3, -⟩ := Claims.answered_of_onlyBytes (p := p) hbytes hhost
        (Claims.wordRead s (refCore p.ref) (refRow p.ref) p.widx) false
      rw [e]
      exact ⟨h1, h3.trans hword, h2⟩
  · obtain ⟨m, hm, e⟩ := outsideCas_eq h hp hdata.1 (.inr (isControl_rowData hdata))
    refine ⟨outsideCas s p, ?_, ?_⟩
    · show execOutsideRcas s = _
      simp only [execOutsideRcas, hd, rowStepOf]
    · rw [e]
      dsimp only
      split_ifs with hx
      · obtain ⟨hbytes, hhost, hword, -⟩ := Claims.writeRowWord_gives hm hdata p.y
        obtain ⟨h1, h2, h3, -⟩ := Claims.answered_of_onlyBytes (p := p) hbytes hhost
          (Claims.wordRead s (refCore p.ref) (refRow p.ref) p.widx) false
        exact ⟨h1, h3.trans hword, h2⟩
      · obtain ⟨h1, h2, h3, -⟩ := Claims.answered_of_onlyBytes (p := p)
          (Claims.OnlyBytes.ofReadOnly hm (within (Claims.wordPlace p) 8)) hm.hostAnswers
          (Claims.wordRead s (refCore p.ref) (refRow p.ref) p.widx) false
        exact ⟨h1, h3.trans ((hm.getWord _).trans (wordRead_rowData hdata).symm), h2⟩

/-- The key check of a write of CORESTAT that names its tile's partition asks for PRIV (R68). -/
theorem rowCheck_corestat {s : State} {p : RowPkt} (hrow : refRow p.ref = 84) (hw : p.widx = 492) (hkey : refKey p.ref ≠ 0)
    (hb : bits p.ref 46 2 = 0) (hc : corePresent s (refCore p.ref) = true) (hk : refKey p.ref = partKey s (tileOf (refCore p.ref))) :
    rowCheck s p .write = if p.priv then none else some 3 := by
  have hk' : ¬ partKey s (tileOf (refCore p.ref)) = 0#16 := hk ▸ hkey
  cases hp : p.priv <;> simp [rowCheck, hrow, hw, hb, hc, hk, hk', hp]

theorem corestatWrites : Claims.CorestatWrites := by
  intro s p hd hrow hw hkey hb hc hk
  have hm := meetKey_readOnly s p
  have hcheck : rowCheck (meetKey s p) p .write = if p.priv then none else some 3 := by
    refine rowCheck_corestat hrow hw hkey hb ?_ ?_
    · simpa only [corePresent, hm.absent] using hc
    · rw [hk, partKey, partKey, hm.getTile, hm.getPart]
  refine ⟨_, by show execCorestatWrite s = _; simp only [execCorestatWrite, hd, checked, hcheck]; rfl, ?_⟩
  cases hp : p.priv
  · have hnokey : readsKey (divert (meetKey s p) p 3) p = false := by simp [readsKey, hrow]
    simp only [Bool.false_eq_true, if_false, checkPoison, readsKey, hrow, Nat.lt_irrefl, decide_false, Bool.false_and]
    obtain ⟨hrec, hout, hans⟩ := divert_gives hm p 3
    exact ⟨hout.mem.trans hm.mem, hans, (hout.getCore _).trans (hm.getCore _), fun _ => hrec,
      fun c _ => (hout.getCore c).trans (hm.getCore c)⟩
  · simp only [if_true, hrow, hw, decide_true, Bool.and_self]
    have hans := SendsOnly.ofAnswerPkt (writeQuant (meetKey s p) (refCore p.ref) p.x) p (ansWord 0)
    refine ⟨hans.mem.trans hm.mem, answered_answerPkt (u := writeQuant (meetKey s p) (refCore p.ref) p.x) hm.reqs hm.hostAnswers p 0 false, ?_, nofun, fun c hne => ?_⟩
    · rw [hans.getCore, writeQuant, modCore, getCore_setCore, hm.getCore]
    · rw [hans.getCore, writeQuant, modCore, getCore_setCore_of_ne _ _ hne, hm.getCore]

/-- Settles O22: `outsideAccesses` and `corestatWrites`. -/
theorem rowSpaceAccesses : Obligations.RowSpaceAccesses := ⟨outsideAccesses, corestatWrites⟩

end Sys2Proof
end

section
/-! PROOFS. The constant registers s0 and p0 (O24): as registers, as bytes of the own row, and from outside. -/
namespace Sys2Proof.Machine
open Claims

/-! ### The own row -/

theorem getP_zero (s : State) (th : Thr) : getP s th 0 = 0xFFFFFFFF#32 := if_pos rfl

theorem setP_zero (s : State) (th : Thr) (x : Pred) : setP s th 0 x = s := if_pos rfl

/-- An own-row read of equal bytes. -/
theorem ownNat_replicate {s : State} {t : Thr} {a n : Nat} {b : Byte} (h : ∀ i, i < n → pairByte s t (a + i) = b) :
    ownNat s t a n = ofBytes (List.replicate n b) := by
  obtain ⟨l, hl, hx, hbyte⟩ := ownNat_eq_ofBytes s t a n
  rw [hx, List.eq_replicate_of_mem (a := b) (l := l), hl]
  intro c hc
  obtain ⟨i, hi, rfl⟩ := List.getElem_of_mem hc
  exact (hbyte i (hl ▸ hi)).trans (h i (hl ▸ hi))

theorem pairByte_s0 (s : State) (t : Thr) {b : Nat} (h : b < 8) : pairByte s t b = 0 := by
  unfold pairByte ownByte
  grind

theorem pairByte_p0 (s : State) (t : Thr) {b : Nat} (h : 1024 ≤ b) (h' : b < 1028) : pairByte s t b = 0xFF := by
  unfold pairByte ownByte
  grind

/-- An aligned access below the tables of a service row and the control block does not trap. -/
theorem ownFault_low {s : State} {a : Int} {n : Nat} (h0 : 0 ≤ a) (h : a + n ≤ 1056) (hn : 0 < n) (hal : a % n = 0) (store : Bool) :
    ownFault s a n store = none := by
  unfold ownFault
  rw [if_neg, if_neg (not_not.2 hal)]
  split_ifs <;> omega

theorem extend_zeros (z : Size) (sx : Bool) : extend z.bytes sx (ofBytes (List.replicate z.bytes 0)) = 0 := by
  cases z <;> cases sx <;> decide

theorem extend_ones (z : Size) : extend z.bytes true (ofBytes (List.replicate z.bytes 0xFF)) = BitVec.allOnes 64 := by
  cases z <;> decide

/-- An aligned access within a word of the first row reads that word. -/
theorem wordsOf_ownAddr (t : Thr) {w a n : Nat} (hw : w % 8 = 0) (hn : 0 < n) (ha : w ≤ a) (hb : a + n ≤ w + 8) (hrow : a < 4096) :
    wordsOf (ownAddr t a) n = [ownAddr t w] := by
  have h1 : (ownAddr t a + n + 7) / 8 - ownAddr t a / 8 = 1 := by
    unfold ownAddr rowAddr
    rw [if_pos hrow]
    omega
  have h2 : ownAddr t a / 8 * 8 = ownAddr t w := by
    unfold ownAddr rowAddr
    rw [if_pos hrow, if_pos (by omega)]
    omega
  simp [wordsOf, h1, h2]

/-- A store of which every byte is discarded changes no byte. -/
theorem storeOwn_discarded {s : State} {a n x : Nat} (v : Word) (hn : n ∣ 128) (ha : n ∣ a)
    (h : ∀ k, k < n → a + k < 8 ∨ (1024 ≤ a + k ∧ a + k < 1028)) (hlow : a < 3968) :
    let t := retire (putOwn s s.cur a (toBytes n x)) s.cur v
    UnchangedBut s t (retireBytes s s.cur) ∧ pcOf t s.cur = nextPc s s.cur := by
  obtain ⟨hret, hbytes, hframe, -⟩ := storeOwn_gives (s := s) (x := x) v hn ha (.inl hlow)
  refine ⟨fun b hb => ?_, hret.pc⟩
  by_cases hin : within (ownAddr s.cur a) n b
  · obtain ⟨k, rfl⟩ := Nat.exists_eq_add_of_le hin.1
    have hk : k < n := by have := hin.2; omega
    rw [← ownAddr_add (hn.trans (by decide)) ha hk, hbytes k hk, if_pos (h k hk)]
  · exact hframe b (by rintro (h | h) <;> contradiction)

/-! ### From outside -/

theorem writeRowWord_s0 {s : State} {core row : Nat} (hhome : homeRow (getCore s core) row = row) (x : Word) :
    writeRowWord s core row 0 x = s := by
  simp [writeRowWord, hhome]

theorem writeRowWord_p0 {s : State} {core row : Nat} (hrow : row < 84) (hhome : homeRow (getCore s core) row = row) (x : Word) :
    writeRowWord s core row 128 x =
      putWord s (rowAddr core row + 8 * 128) (setBits x 0 32 (bits (getWord s (rowAddr core row + 8 * 128)) 0 32)) := by
  have hne : row ≠ 84 := by omega
  simp [writeRowWord, hhome, hne]

theorem setBits_low_byte (x y : Word) {i : Nat} (hi : i < 4) :
    (setBits x 0 32 (bits y 0 32)).extractLsb' (8 * i) 8 = y.extractLsb' (8 * i) 8 := by
  have h : (setBits x 0 32 (bits y 0 32)).extractLsb' 0 32 = y.extractLsb' 0 32 :=
    BitVec.eq_of_toNat_eq ((bits_setBits_self x 0 32 _ (by decide)).trans (Nat.mod_eq_of_lt (y.extractLsb' 0 32).isLt))
  apply BitVec.eq_of_getLsbD_eq
  intro j hj
  have hb := congrArg (·.getLsbD (8 * i + j)) h
  simpa [BitVec.getLsbD_extractLsb', hj, show 8 * i + j < 32 by omega] using hb

/-- A word written with its low half as it stands changes the bytes of its high half only. -/
theorem putWord_high (s : State) (a : Nat) (x : Word) :
    UnchangedBut s (putWord s a (setBits x 0 32 (bits (getWord s a) 0 32))) (within (a + 4) 4) := by
  intro b hb
  by_cases hin : within a 8 b
  · obtain ⟨i, rfl⟩ := Nat.exists_eq_add_of_le hin.1
    have hi : i < 4 := by unfold within at hb hin; omega
    rw [← getWord_byte _ (by omega), getWord_putWord_self, setBits_low_byte _ _ hi, getWord_byte _ (by omega)]
  · exact putWord_unchanged s a _ b hin

/-- What a packet may change of a word of s0 or p0: nothing of s0, and of p0 the half beside it. -/
def besideConstant (p : RowPkt) (b : Nat) : Prop := p.widx = 128 ∧ within (wordPlace p + 4) 4 b

theorem writeRowWord_constant {s m : State} {p : RowPkt} (hm : ReadOnly s m) (hrow : refRow p.ref < 84)
    (hhome : homeRow (getCore s (refCore p.ref)) (refRow p.ref) = refRow p.ref) (hw : p.widx = 0 ∨ p.widx = 128) (x : Word) :
    OnlyBytes s (writeRowWord m (refCore p.ref) (refRow p.ref) p.widx x) (besideConstant p) := by
  have hhome' : homeRow (getCore m (refCore p.ref)) (refRow p.ref) = refRow p.ref := by rwa [hm.getCore]
  refine (OnlyBytes.ofReadOnly hm _).trans ?_
  obtain hw | hw := hw
  · rw [hw, writeRowWord_s0 hhome']
    exact .refl m _
  · have hhigh := putWord_high m (rowAddr (refCore p.ref) (refRow p.ref) + 8 * 128) x
    rw [hw, writeRowWord_p0 hrow hhome']
    refine ⟨hhigh.mono fun b hb => ⟨hw, ?_⟩, rfl, rfl, rfl, rfl, rfl, rfl⟩
    rwa [wordPlace, hw]

/-- The outcome of a packet at a word of s0 or p0. -/
theorem constant_kept {s t : State} {p : RowPkt} (h : OnlyBytes s t (besideConstant p)) :
    (p.widx = 0 → OnlyBytes s t fun _ => False) ∧ (p.widx = 128 → OnlyBytes s t (within (wordPlace p + 4) 4)) :=
  ⟨fun hw => h.mono fun b hb => by have := hb.1; omega, fun _ => h.mono fun b hb => hb.2⟩

end Sys2Proof.Machine

namespace Sys2Proof
open Machine

theorem constants_read (s : State) (th : Thr) (x : Word) (y : Pred) :
    getS s th 0 = 0 ∧ getP s th 0 = 0xFFFFFFFF#32 ∧ (setS s th 0 x).mem = s.mem ∧ (setP s th 0 y).mem = s.mem ∧
    ∀ i, i < 4 → ownBytes s th i 1 = [0#8] ∧ ownBytes s th (4 + i) 1 = [0#8] ∧ ownBytes s th (1024 + i) 1 = [0xFF#8] := by
  refine ⟨getS_zero s th, getP_zero s th, by rw [setS_zero], by rw [setP_zero], fun i hi => ⟨?_, ?_, ?_⟩⟩
  · simp [ownBytes, show i < 8 by omega]
  · simp [ownBytes, show 4 + i < 8 by omega]
  · simp [ownBytes, show ¬ 1024 + i < 8 by omega, show 1024 + i < 1028 by omega]

section
variable {s : State} {d a : SReg} {z : Size} {o : BitVec 11}

/-- A load of equal bytes of one readable word of the own row's registers. -/
theorem load_constant {w : Nat} {b : Byte} (hr : SReadable s s.cur [a, d]) (hw : w % 8 = 0) (hlo : w ≤ Claims.ownSum s a o.toInt)
    (hhi : Claims.ownSum s a o.toInt + z.bytes ≤ w + 8) (hlow : w + 8 ≤ 1056) (hal : Claims.ownSum s a o.toInt % z.bytes = 0)
    (hword : Readable s [ownAddr s.cur w])
    (hb : ∀ i, i < z.bytes → Claims.pairByte s s.cur ((Claims.ownSum s a o.toInt).toNat + i) = b) (sx : Bool) :
    Claims.Gives (.ldr d a z sx o) s fun t =>
      ScalarResult s t s.cur d (extend z.bytes sx (ofBytes (List.replicate z.bytes b))) (nextPc s s.cur) := by
  obtain ⟨hpos, -, -⟩ := size_bytes z
  have ha : SReadable s s.cur [a] := ⟨hr.1, fun w hw => hr.2 w (by simp [sWords] at hw ⊢; grind)⟩
  refine ⟨_, exec_ldr ha (ownFault_low (by omega) (by omega) hpos hal false) ?_, ?_⟩
  · rwa [wordsOf_ownAddr s.cur hw hpos (by omega) (by omega) (by omega)]
  · rw [ownNat_replicate hb]
    exact retireS_result s s.cur d _

theorem store_constant (hr : SReadable s s.cur [a, d]) (h0 : 0 ≤ Claims.ownSum s a o.toInt)
    (hhi : Claims.ownSum s a o.toInt + z.bytes ≤ 1028) (hal : Claims.ownSum s a o.toInt % z.bytes = 0)
    (hk : ∀ k, k < z.bytes → (Claims.ownSum s a o.toInt).toNat + k < 8 ∨ 1024 ≤ (Claims.ownSum s a o.toInt).toNat + k) :
    Claims.Gives (.str d a z o) s fun t => UnchangedBut s t (retireBytes s s.cur) ∧ pcOf t s.cur = nextPc s s.cur := by
  obtain ⟨hpos, -, hdvd⟩ := size_bytes z
  refine ⟨_, exec_str hr (ownFault_low h0 (by omega) hpos hal true), ?_⟩
  exact storeOwn_discarded _ hdvd (toNat_dvd h0 hal) (fun k hlt => (hk k hlt).imp_right fun h => ⟨h, by omega⟩) (by omega)

theorem constants_own (hr : SReadable s s.cur [a, d]) (hal : Claims.ownSum s a o.toInt % z.bytes = 0) :
    (0 ≤ Claims.ownSum s a o.toInt ∧ Claims.ownSum s a o.toInt < 8 →
      (Readable s [ownAddr s.cur 0] → ∀ sx, Claims.Gives (.ldr d a z sx o) s fun t =>
        getS t s.cur d = 0 ∧ pcOf t s.cur = nextPc s s.cur) ∧
      Claims.Gives (.str d a z o) s fun t => UnchangedBut s t (retireBytes s s.cur) ∧ pcOf t s.cur = nextPc s s.cur) ∧
    (1024 ≤ Claims.ownSum s a o.toInt ∧ Claims.ownSum s a o.toInt + z.bytes ≤ 1028 →
      (Readable s [ownAddr s.cur 1024] → d ≠ 0 → Claims.Gives (.ldr d a z true o) s fun t =>
        getS t s.cur d = BitVec.allOnes 64) ∧
      Claims.Gives (.str d a z o) s fun t => UnchangedBut s t (retireBytes s s.cur) ∧ pcOf t s.cur = nextPc s s.cur) := by
  refine ⟨fun ⟨h0, h8⟩ => ?_, fun ⟨h0, h8⟩ => ?_⟩
  · have hend : Claims.ownSum s a o.toInt + z.bytes ≤ 8 := by cases z <;> simp only [Size.bytes] at hal ⊢ <;> omega
    refine ⟨fun hw sx => ?_, store_constant hr h0 (by omega) hal fun k hk => .inl (by omega)⟩
    obtain ⟨t, ht, hres⟩ := load_constant (w := 0) hr rfl (by simpa using h0) (by simpa using hend) (by decide) hal hw
      (fun i hi => pairByte_s0 s s.cur (by omega)) sx
    rw [extend_zeros] at hres
    exact ⟨t, ht, hres.value.trans (ite_self _), hres.retired.pc⟩
  · refine ⟨fun hw hd => ?_, store_constant hr (by omega) h8 hal fun k hk => .inr (by omega)⟩
    obtain ⟨t, ht, hres⟩ := load_constant (w := 1024) hr rfl (by simpa using h0) (by push_cast; omega) (by decide) hal hw
      (fun i hi => pairByte_p0 s s.cur (by omega) (by omega)) true
    rw [extend_ones] at hres
    exact ⟨t, ht, hres.value.trans (if_neg hd)⟩

end

theorem constants_outside {s : State} {p : RowPkt} (hrow : refRow p.ref < 84)
    (hhome : homeRow (getCore s (refCore p.ref)) (refRow p.ref) = refRow p.ref) (hw : p.widx = 0 ∨ p.widx = 128) :
    (Claims.Free s p .write → Claims.OnlyBytes s (storeWord s p) (besideConstant p)) ∧
    (Claims.Free s p .add → Claims.OnlyBytes s (outsideAdd s p) (besideConstant p)) ∧
    (Claims.Free s p .cas → Claims.OnlyBytes s (outsideCas s p) (besideConstant p)) := by
  have hkeep : ∀ {m : State} (x : Word) (a : Ans), ReadOnly s m →
      Claims.OnlyBytes s (answerPkt (writeRowWord m (refCore p.ref) (refRow p.ref) p.widx x) p a) (besideConstant p) := fun x a hm =>
    (writeRowWord_constant hm hrow hhome hw x).trans ((SendsOnly.ofAnswerPkt ..).onlyBytes.mono fun _ hf => hf.elim)
  have hread : ∀ {m : State} (a : Ans), ReadOnly s m → Claims.OnlyBytes s (answerPkt m p a) (besideConstant p) := fun a hm =>
    (Claims.OnlyBytes.ofReadOnly hm _).trans ((SendsOnly.ofAnswerPkt ..).onlyBytes.mono fun _ hf => hf.elim)
  refine ⟨fun h => ?_, fun h => ?_, fun h => ?_⟩
  · obtain ⟨m, hm, e⟩ := storeWord_eq h
    exact e ▸ hkeep _ _ hm
  · cases hp : isPoisoned s (Claims.wordPlace p)
    · obtain ⟨m, hm, e⟩ := outsideAdd_eq h hp
      exact e ▸ hkeep _ _ hm
    · obtain ⟨m, b, hm, e⟩ := outsideAdd_eq_of_poisoned h hp
      exact e ▸ hread _ hm
  · cases hp : isPoisoned s (Claims.wordPlace p)
    · obtain ⟨m, hm, e⟩ := outsideCas_eq h hp hrow (.inl (by omega))
      rw [e]
      split_ifs
      · exact hkeep _ _ hm
      · exact hread _ hm
    · obtain ⟨m, b, hm, e⟩ := outsideCas_eq_of_poisoned h hp hrow
      exact e ▸ hread _ hm

/-- Settles O24: `constants_read`, `constants_own`, and `constants_outside` with the answer of a read of s0. -/
theorem constantRegisters : Obligations.ConstantRegisters := by
  refine ⟨constants_read, fun s d a z o hr hal => constants_own hr hal, fun s p hrow hhome => ⟨fun hw hd h hp => ?_, fun hw => ?_⟩⟩
  · obtain ⟨t, ht, -, hans⟩ := (outsideAccesses s p).1 hd h
    have hne : refRow p.ref ≠ 84 := by omega
    have hold : Claims.wordRead s (refCore p.ref) (refRow p.ref) p.widx = 0 := by simp [Claims.wordRead, hne, hhome, hw]
    rw [hold, hp, Bool.and_false] at hans
    exact ⟨t, ht, hans⟩
  · obtain ⟨hwrite, hadd, hcas⟩ := constants_outside hrow hhome hw
    refine ⟨fun hd h => ⟨_, ?_, constant_kept (hwrite h)⟩, fun hd h => ⟨_, ?_, constant_kept (hadd h)⟩,
      fun hd h => ⟨_, ?_, constant_kept (hcas h)⟩⟩
    · show execOutsideWrite s = _
      have h496 : p.widx ≠ 496 := by omega
      simp [execOutsideWrite, hd, rowStepOf, outsideWrite, h496]
    · show execOutsideRamoadd s = _
      simp only [execOutsideRamoadd, hd, rowStepOf]
    · show execOutsideRcas s = _
      simp only [execOutsideRcas, hd, rowStepOf]

end Sys2Proof
end

section
/-! PROOFS. Lanes of vectors and masked writes: bytes of the active elements, and the lanes that a masked write leaves (R21, R287). -/
namespace Sys2Proof.Machine
open Claims

/-! ### Numbers of lanes and of predicate groups -/

/-- Bits of a number of lanes of E bytes are those of the lane they lie in. -/
theorem testBit_ofLanes {E : Nat} (l : List Nat) {i j : Nat} (hj : j < 8 * E) :
    (l.foldr (fun x acc => x % 2 ^ (8 * E) + 2 ^ (8 * E) * acc) 0).testBit (8 * E * i + j) = (l.getD i 0).testBit j := by
  induction l generalizing i with
  | nil => simp
  | cons x l ih =>
    rw [List.foldr_cons, Nat.add_comm (x % _), Nat.testBit_two_pow_mul_add _ (Nat.mod_lt _ (Nat.two_pow_pos _))]
    cases i with
    | zero => simp [hj]
    | succ i =>
      rw [if_neg (by rw [Nat.mul_succ]; omega), Nat.mul_succ, show 8 * E * i + 8 * E + j - 8 * E = 8 * E * i + j by omega, ih]
      simp

theorem lane_ofLanes {E : Nat} (l : List Nat) {i : Nat} (hi : 8 * E * i + 8 * E ≤ 256) : lane E (ofLanes E l) i = l.getD i 0 % 2 ^ (8 * E) := by
  apply Nat.eq_of_testBit_eq
  intro j
  rw [lane, BitVec.testBit_toNat, BitVec.getLsbD_extractLsb', Nat.testBit_mod_two_pow]
  by_cases hj : j < 8 * E
  · rw [ofLanes, BitVec.getLsbD_ofNat, testBit_ofLanes l hj]
    simp [hj, show 8 * E * i + j < 256 by omega]
  · simp [hj]

theorem testBit_groups {E : Nat} (l : List Bool) {i j : Nat} (hj : j < E) :
    (l.foldr (fun (b : Bool) acc => (if b then 2 ^ E - 1 else 0) + 2 ^ E * acc) 0).testBit (E * i + j) = l.getD i false := by
  induction l generalizing i with
  | nil => simp
  | cons b l ih =>
    have hb : (if b then 2 ^ E - 1 else 0) < 2 ^ E := by have := Nat.two_pow_pos E; split <;> omega
    rw [List.foldr_cons, Nat.add_comm (if b then 2 ^ E - 1 else 0), Nat.testBit_two_pow_mul_add _ hb]
    cases i with
    | zero => cases b <;> simp [hj]
    | succ i =>
      rw [if_neg (by rw [Nat.mul_succ]; omega), Nat.mul_succ, show E * i + E + j - E = E * i + j by omega, ih]
      simp

/-- All byte lanes of an element are active with it (R21). -/
theorem getLsbD_activeBytes {g : Pred} {E i j : Nat} (hi : i < 32 / E) (hj : j < E) :
    (activeBytes g E).getLsbD (E * i + j) = g.getLsbD (i * E) := by
  have hlt : E * i + j < 32 := by
    have := Nat.mul_le_mul_left E (Nat.succ_le_of_lt hi)
    have := Nat.mul_div_le 32 E
    rw [Nat.mul_succ] at *
    omega
  rw [activeBytes, groups, BitVec.getLsbD_ofNat, testBit_groups _ hj]
  simp [active, hlt, hi]

/-! ### Masked writes -/

/-- A fold of writes of which a byte gets one value, if any step writes it; every step keeps what the next one needs. -/
theorem get_foldl_writes_of_inv {ι : Type} (b : Nat) (x : Byte) (I : State → Prop) (P : ι → Prop) [DecidablePred P] (f : State → ι → State)
    (l : List ι) (hI : ∀ s, I s → ∀ i ∈ l, I (f s i))
    (hf : ∀ s, I s → ∀ i ∈ l, Memory.get (f s i).mem b = if P i then x else Memory.get s.mem b) {s : State} (hs : I s) :
    Memory.get (l.foldl f s).mem b = if ∃ i ∈ l, P i then x else Memory.get s.mem b := by
  induction l generalizing s with
  | nil => simp
  | cons i l ih =>
    rw [List.foldl_cons, ih (fun s h j hj => hI s h j (List.mem_cons_of_mem _ hj)) (fun s h j hj => hf s h j (List.mem_cons_of_mem _ hj))
      (hI s hs i List.mem_cons_self), hf s hs i List.mem_cons_self]
    simp only [List.exists_mem_cons_iff]
    by_cases h1 : P i <;> by_cases h2 : ∃ j ∈ l, P j <;> simp [h1, h2]

theorem get_foldl_writes {ι : Type} (b : Nat) (x : Byte) (P : ι → Prop) [DecidablePred P] (f : State → ι → State) (l : List ι)
    (hf : ∀ s, ∀ i ∈ l, Memory.get (f s i).mem b = if P i then x else Memory.get s.mem b) (s : State) :
    Memory.get (l.foldl f s).mem b = if ∃ i ∈ l, P i then x else Memory.get s.mem b :=
  get_foldl_writes_of_inv b x (fun _ => True) P f l (fun _ _ _ _ => trivial) (fun s _ => hf s) trivial

/-- The bytes of a register after a masked write: those of the mask are written. -/
theorem get_setVMasked (s : State) (t : Thr) (d : VReg) (x : Vec) (m : Pred) {b : Nat} (hb : b < 32) :
    Memory.get (setVMasked s t d x m).mem (vAddr t d.toNat + b) =
      if m.getLsbD b then x.extractLsb' (8 * b) 8 else Memory.get s.mem (vAddr t d.toNat + b) := by
  unfold setVMasked
  rw [get_foldl_writes (vAddr t d.toNat + b) (x.extractLsb' (8 * b) 8) (fun w => w = b / 8 ∧ m.getLsbD b = true)]
  · refine if_congr ⟨fun ⟨_, _, _, h⟩ => h, fun h => ⟨b / 8, List.mem_range.2 (by omega), rfl, h⟩⟩ rfl rfl
  · intro s w hw
    have hw4 := List.mem_range.1 hw
    dsimp only
    split
    · next hfull =>
      have hbit : w = b / 8 → m.getLsbD b = true := by
        rintro rfl
        have h := congrArg (·.getLsbD (b % 8)) hfull
        have hlt : b % 8 < 8 := Nat.mod_lt _ (by decide)
        have hones : ∀ k, k < 8 → (0xFF#8).getLsbD k = true := by decide
        rw [hones _ hlt] at h
        simpa [BitVec.getLsbD_extractLsb', hlt, Nat.div_add_mod] using h
      rw [putBytes_mem, Memory.get_put, List.length_map, List.length_map, List.length_range]
      by_cases hwb : w = b / 8
      · rw [if_pos (by omega), if_pos ⟨hwb, hbit hwb⟩, List.getD_eq_getElem _ _ (by simp; omega)]
        simp only [List.getElem_map, List.getElem_range]
        congr 1
        omega
      · rw [if_neg (by omega), if_neg (by tauto)]
    · rw [get_foldl_writes (vAddr t d.toNat + b) (x.extractLsb' (8 * b) 8) (fun p => 8 * w + p.1 = b ∧ m.getLsbD b = true)]
      · refine if_congr ⟨?_, ?_⟩ rfl rfl
        · rintro ⟨p, hp, h1, h2⟩
          obtain ⟨i, hi, rfl⟩ := List.mem_map.1 hp
          have := List.mem_range.1 hi
          exact ⟨by omega, h2⟩
        · rintro ⟨rfl, h2⟩
          exact ⟨_, List.mem_map.2 ⟨b % 8, List.mem_range.2 (Nat.mod_lt _ (by decide)), rfl⟩, by dsimp only; omega, h2⟩
      · intro s p hp
        obtain ⟨i, hi, rfl⟩ := List.mem_map.1 hp
        dsimp only
        split
        · next hm =>
          rw [putBytes_mem, Memory.get_put]
          by_cases hib : 8 * w + i = b
          · subst hib
            rw [if_pos ⟨by omega, by simp; omega⟩, if_pos ⟨rfl, hm⟩]
            simp [show vAddr t d.toNat + (8 * w + i) - (vAddr t d.toNat + 8 * w + i) = 0 by omega, Nat.mul_add, ← Nat.mul_assoc]
          · rw [if_neg (by simp; omega), if_neg (by tauto)]
        · next hm => rw [if_neg]; rintro ⟨rfl, h⟩; exact hm h

/-- What every write of a masked write keeps, the masked write keeps. -/
theorem setVMasked_keeps (P : State → Prop) (s : State) (t : Thr) (d : VReg) (x : Vec) (m : Pred)
    (h : ∀ s a bs, vAddr t d.toNat ≤ a → a + List.length bs ≤ vAddr t d.toNat + 32 → P s → P (putBytes s a bs)) (hs : P s) :
    P (setVMasked s t d x m) := by
  refine List.foldlRecOn _ _ hs fun s hs w hw => ?_
  have hw4 := List.mem_range.1 hw
  dsimp only
  split
  · exact h _ _ _ (by omega) (by simp; omega) hs
  · refine List.foldlRecOn _ _ hs fun s hs p hp => ?_
    obtain ⟨i, hi, rfl⟩ := List.mem_map.1 hp
    have hi8 := List.mem_range.1 hi
    split
    · exact h _ _ _ (by omega) (by simp; omega) hs
    · exact hs

theorem setVMasked_unchanged (s : State) (t : Thr) (d : VReg) (x : Vec) (m : Pred) :
    UnchangedBut s (setVMasked s t d x m) (within (vAddr t d.toNat) 32) := by
  refine setVMasked_keeps (UnchangedBut s · _) s t d x m (fun u a bs h1 h2 hu => hu.trans ?_) (.refl s _)
  exact (putBytes_unchanged u a bs).mono fun b hb => by unfold within at *; omega

theorem setVMasked_same (s : State) (t : Thr) (d : VReg) (x : Vec) (m : Pred) : SameModule s (setVMasked s t d x m) :=
  setVMasked_keeps (SameModule s) s t d x m (fun _ _ _ _ _ hu => hu.trans ⟨rfl, rfl, rfl, rfl, rfl, rfl, rfl, rfl⟩) (.refl s)

theorem setVMasked_cores (s : State) (t : Thr) (d : VReg) (x : Vec) (m : Pred) : (setVMasked s t d x m).cores = s.cores :=
  setVMasked_keeps (·.cores = s.cores) s t d x m (fun _ _ _ _ _ hu => hu) rfl

theorem getV_byte (s : State) (t : Thr) (d : VReg) {b : Nat} (hb : b < 32) :
    (getV s t d).extractLsb' (8 * b) 8 = Memory.get s.mem (vAddr t d.toNat + b) := by
  apply BitVec.eq_of_toNat_eq
  have hlt : getNat s (vAddr t d.toNat) 32 < 2 ^ 256 := getNat_lt s (vAddr t d.toNat) 32
  rw [BitVec.extractLsb'_toNat, getV, BitVec.toNat_ofNat, Nat.mod_eq_of_lt hlt, ← getNat_byte s hb, Nat.shiftRight_eq_div_pow, Nat.pow_mul]

/-- A lane is the number that its bytes spell. -/
theorem lane_congr {x y : Vec} {E i k : Nat} (h : ∀ b, b < E → y.extractLsb' (8 * (E * i + b)) 8 = x.extractLsb' (8 * (E * k + b)) 8) :
    lane E y i = lane E x k := by
  apply Nat.eq_of_testBit_eq
  intro j
  rw [lane, lane, BitVec.testBit_toNat, BitVec.testBit_toNat, BitVec.getLsbD_extractLsb', BitVec.getLsbD_extractLsb']
  by_cases hj : j < 8 * E
  · have hb := congrArg (·.getLsbD (j % 8)) (h (j / 8) (by omega))
    have hlt : j % 8 < 8 := Nat.mod_lt _ (by decide)
    have hpos : ∀ n, 8 * (E * n + j / 8) + j % 8 = 8 * E * n + j := fun n => by rw [Nat.mul_add, ← Nat.mul_assoc]; omega
    simpa [BitVec.getLsbD_extractLsb', hlt, hpos, hj] using hb
  · simp [hj]

/-- The lanes of a register after a masked write of the active elements. -/
theorem lane_setVMasked (s : State) (t : Thr) (d : VReg) (x : Vec) (g : Pred) {E i : Nat} (hi : i < 32 / E) :
    lane E (getV (setVMasked s t d x (activeBytes g E)) t d) i = if g.getLsbD (i * E) then lane E x i else lane E (getV s t d) i := by
  have hlt : ∀ b, b < E → E * i + b < 32 := fun b hb => by
    have h1 := Nat.mul_le_mul_left E (Nat.succ_le_of_lt hi)
    have h2 := Nat.mul_div_le 32 E
    rw [Nat.mul_succ] at h1
    omega
  have hbyte : ∀ b, b < E → (getV (setVMasked s t d x (activeBytes g E)) t d).extractLsb' (8 * (E * i + b)) 8 =
      if g.getLsbD (i * E) then x.extractLsb' (8 * (E * i + b)) 8 else (getV s t d).extractLsb' (8 * (E * i + b)) 8 := fun b hb => by
    rw [getV_byte _ _ _ (hlt b hb), get_setVMasked _ _ _ _ _ (hlt b hb), getLsbD_activeBytes hi hb, getV_byte _ _ _ (hlt b hb)]
  split_ifs at hbyte ⊢
  · exact lane_congr hbyte
  · exact lane_congr hbyte

end Sys2Proof.Machine
end

section
/-! PROOFS. Replies (O28): the parked instruction completes, traps, is ended by poison, or keeps its reply for its row. -/
namespace Sys2Proof.Machine
open Claims

/-! ### Records -/

namespace SendsOnly

theorem ofLeaveModule (s : State) (tile dev : Nat) (ref : Word) (sender : BitVec 46) (req : Nat) (e : Event) :
    SendsOnly s (leaveModule s tile dev ref sender req e) :=
  ⟨rfl, rfl, rfl, rfl, rfl, rfl, rfl, rfl, fun _ h => h⟩

theorem ofEntryFails (s : State) (tile : Nat) (m : InboxMsg) (sub : Nat) : SendsOnly s (entryFails s tile m sub) := by
  unfold entryFails
  dsimp only
  split
  · exact ofToSupervisor ..
  · exact ofCountLost ..
  all_goals exact ofToSupervisor ..

theorem ofToInbox (s : State) (tile : Nat) (m : InboxMsg) : SendsOnly s (toInbox s tile m) := by
  have hfail : ∀ sub, SendsOnly s (if (decide (m.kind = .message) && decide (m.req ≠ 0)) = true then
      send (entryFails s tile m sub) .rsp ioDie tile (.run (.reply m.req (.value 0 false))) else entryFails s tile m sub) := fun sub => by
    split
    · exact (ofEntryFails ..).trans (ofSend ..)
    · exact ofEntryFails ..
  unfold toInbox
  dsimp only
  split
  · split
    · exact ofLeaveModule ..
    · exact hfail 0x06
  · split
    · exact hfail 0x07
    · exact ofSend ..

end SendsOnly

/-- A trap record reads c12 and leaves (R116). -/
theorem trapRecord_sends (s : State) (t : Thr) (cause : Nat) (w : InsnWord) :
    ∃ m, ReadOnly s m ∧ SendsOnly m (trapRecord s t cause w) := by
  refine ⟨_, .ofTouchWord s (cAddr t 12), ?_⟩
  unfold trapRecord
  dsimp only
  split
  · exact .ofToSupervisor ..
  · exact .ofToInbox ..

/-! ### Leaving PARKED -/

theorem tstate_setTState (s : State) (t : Thr) {n : Nat} (h : n < 16) : tstate (setTState s t n) t = n := by
  rw [tstate, setTState, getC_setC_self _ _ _ _ (by decide), bits_setBits_self _ _ _ _ (by decide)]
  exact Nat.mod_eq_of_lt h

theorem tstate_congr {s u : State} {t : Thr} (h : getC u t 0 = getC s t 0) : tstate u t = tstate s t := by rw [tstate, tstate, h]

theorem unpark_unchanged (s : State) (t : Thr) : UnchangedBut s (unpark s t) (parkBytes t) :=
  ((setC_unchanged s t 0 _).mono fun _ => .inl).trans ((setC_unchanged _ t 2 _).mono fun _ => .inr)

theorem not_parkBytes_cAddr {t : Thr} {n i : Nat} (h0 : n ≠ 0) (h2 : n ≠ 2) (hi : i < 8) : ¬ parkBytes t (cAddr t n + i) := by
  rintro (h | h)
  · exact cAddr_apart t (Ne.symm h0) hi h
  · exact cAddr_apart t (Ne.symm h2) hi h

theorem nextPc_unpark (s : State) (t : Thr) : nextPc (unpark s t) t = nextPc s t := by
  rw [nextPc, nextPc, pcOf, pcOf, (unpark_unchanged s t).getC fun i hi => not_parkBytes_cAddr (by decide) (by decide) hi]

theorem getV_unpark (s : State) (t : Thr) (d : VReg) : getV (unpark s t) t d = getV s t d := by
  have hctl : ∀ n, n < 16 → ∀ j, j < 32 → ¬ within (cAddr t n) 8 (vAddr t d.toNat + j) := fun n hn j hj hw => by
    refine vAddr_cAddr t d n hn (vAddr t d.toNat + j - cAddr t n) (by unfold within at hw; omega) ?_
    unfold within at hw ⊢
    omega
  rw [getV, getV, getNat_congr fun j hj => unpark_unchanged s t _ (not_or.2 ⟨hctl 0 (by decide) j hj, hctl 2 (by decide) j hj⟩)]

theorem tstate_unpark (s : State) (t : Thr) : tstate (unpark s t) t = stRun :=
  (tstate_congr (getC_setC_other _ _ _ (by decide))).trans (tstate_setTState s t (by decide))

theorem getC_unpark_park (s : State) (t : Thr) : getC (unpark s t) t 2 = 0 := getC_setC_self _ _ _ _ (by decide)

/-- Writing bytes clears POISON and bit errors of whole words and brings none (R99). -/
theorem isPoisoned_putBytes {s : State} {a : Nat} {bs : List Byte} {w : Nat} (h : isPoisoned (putBytes s a bs) w = true) :
    isPoisoned s w = true := by
  simp only [isPoisoned, putBytes, List.contains_iff_mem, List.mem_filter] at h ⊢
  exact h.1

theorem isPoisoned_unpark {s : State} {t : Thr} {w : Nat} (h : isPoisoned (unpark s t) w = true) : isPoisoned s w = true :=
  isPoisoned_putBytes (isPoisoned_putBytes h)

theorem readable_putBytes {s : State} {ws : List Nat} (h : Readable s ws) (a : Nat) (bs : List Byte) : Readable (putBytes s a bs) ws := by
  refine fun w hw => ⟨Bool.eq_false_iff.2 fun hp => ?_, fun e he => (h w hw).2 e (List.mem_filter.1 he).1⟩
  exact absurd (isPoisoned_putBytes hp) (by simp [(h w hw).1])

theorem readable_congr {s u : State} {ws : List Nat} (hp : u.poison = s.poison) (hb : u.bitErrs = s.bitErrs) (h : Readable s ws) :
    Readable u ws := fun w hw => by
  rw [isPoisoned, hp, hb]
  exact h w hw

theorem readable_modThr {s : State} {ws : List Nat} (h : Readable s ws) (t : Thr) (f : ThrCtl → ThrCtl) : Readable (modThr s t f) ws :=
  readable_congr rfl rfl h

theorem readable_setC {s : State} {ws : List Nat} (h : Readable s ws) (t : Thr) (n : Nat) (x : Word) : Readable (setC s t n x) ws :=
  readable_putBytes h _ _

theorem readable_unpark {s : State} {ws : List Nat} (h : Readable s ws) (t : Thr) : Readable (unpark s t) ws :=
  readable_putBytes (readable_putBytes h _ _) _ _

theorem runCmds_none {s : State} {t : Thr} (h : (getThr s t).cmds = []) : runCmds s t = s := by
  simp only [runCmds, h, List.isEmpty_nil, if_true]

/-- Nobody awaits an acknowledgement for request id any more. -/
def heard (s : State) (id : Nat) : State := { s with io := { s.io with outbound := s.io.outbound.filter fun o => o.req ≠ id } }

theorem tstate_heard (s : State) (id : Nat) (t : Thr) : tstate (heard s id) t = tstate s t := rfl
theorem rowOpen_heard (s : State) (id : Nat) (t : Thr) : rowOpen (heard s id) t = rowOpen s t := rfl
theorem pairOf_heard (s : State) (id : Nat) (t : Thr) : pairOf (heard s id) t = pairOf s t := rfl

/-- The state in which the answer of request id is written: the request is done. -/
def settled (s : State) (id : Nat) : State := dropReq (heard s id) id

theorem getThr_settled (s : State) (id : Nat) (t : Thr) : getThr (unpark (settled s id) t) t = getThr s t := getThr_congr rfl rfl t

theorem getC_settled (s : State) (id : Nat) (t : Thr) {n : Nat} (h0 : n ≠ 0) (h2 : n ≠ 2) : getC (unpark (settled s id) t) t n = getC s t n :=
  (unpark_unchanged (settled s id) t).getC fun _ hi => not_parkBytes_cAddr h0 h2 hi

theorem unparked_settled (s : State) (t : Thr) (id : Nat) : Unparked s (unpark (settled s id) t) t id where
  state  := tstate_unpark ..
  park   := getC_unpark_park ..
  reqs   := unpark_reqs (settled s id) t
  frame  := fun a ha => unpark_unchanged (settled s id) t a ha
  now    := unpark_now (settled s id) t
  agenda := unpark_agenda (settled s id) t
  tiles  := unpark_tiles (settled s id) t
  stackSt := unpark_stacks (settled s id) t
  pairs  := unpark_pairs (settled s id) t
  io     := ⟨_, unpark_io (settled s id) t⟩
  sides  := ⟨unpark_empty (settled s id) t, fun _ h => isPoisoned_unpark (s := settled s id) h⟩

theorem findReq_eq_none {s : State} {id : Nat} : findReq s id = none ↔ ∀ r ∈ s.reqs, r.id ≠ id := by
  simp [findReq]

theorem findReq_settled (s : State) (id : Nat) {u : State} (h : ∀ r ∈ u.reqs, ∃ q ∈ (settled s id).reqs, q.id = r.id) :
    findReq u id = none := by
  refine findReq_eq_none.2 fun r hr => ?_
  obtain ⟨q, hq, e⟩ := h r hr
  exact e ▸ of_decide_eq_true (List.mem_filter.1 hq).2

theorem retireTo_cmds (s : State) (t : Thr) (pc : Nat) (v : Word) : (getThr (retireTo s t pc v) t).cmds = (getThr s t).cmds := by
  have hcount : getThr (countRetired s t pc v) t = getThr s t := by
    refine getThr_congr ?_ (countRetired_same s t pc v).now t
    dsimp only [countRetired]
    split <;> rfl
  have hinterval : ∀ u, getThr (endInterval u t) t = getThr u t := fun u => by
    refine getThr_congr ?_ (endInterval_same u t).now t
    unfold endInterval
    split
    · rfl
    · split <;> rfl
  have hidle : ∀ u : State, getThr (if tstate u t = stRun then setTState u t stIdle else u) t = getThr u t := fun u => by
    split
    · exact getThr_congr rfl rfl t
    · rfl
  rw [retireTo, hinterval, endStep]
  split
  · rw [getThr_modThr, hidle, hcount]
  · rw [hcount]

/-- A thread whose words can be read retires. -/
theorem retiring_readable {s : State} {t : Thr} (h : RetireReadable s t) (w : InsnWord) (k : State → State) : retiring s t w k = k s := by
  simp only [retiring, retireWords, touchWords_id s _ h, any_poisoned_false s _ h, Bool.false_eq_true, if_false]

/-! ### Which way a reply goes -/

section
variable {s : State} {id : Nat} {r : Req}

/-- A request that is outstanding is completed in an open row, and else its reply is kept. -/
theorem replyArrives_eq (hf : findReq s id = some r) (hh : r.held = false) (hp : tstate s r.thr = 3) (hn : r.phase ≠ .answered) (a : Ans) :
    replyArrives s id a =
      if rowOpen s r.thr then complete (heard s id) r a
      else modThr (unpark (modReq (heard s id) id fun r => { r with phase := .answered }) r.thr) r.thr
        fun c => { c with reply := some (id, a) } := by
  unfold replyArrives
  rw [hf]
  dsimp only
  rw [if_neg (by simp [hh])]
  change (if (decide (tstate (heard s id) r.thr ≠ stParked) || decide (r.phase = .answered)) = true then heard s id
    else if rowOpen (heard s id) r.thr = true then _ else _) = _
  rw [tstate_heard, rowOpen_heard, hp, if_neg (by simp [stParked, hn])]
  rfl

theorem complete_value (h : Awaits s id r) (x : Vec) {w : State} {pc : Nat} {v : Word}
    (hd : deliver (unpark (settled s id) r.thr) r x = retireTo w r.thr pc v) (hc : w.cores = s.cores) (hn : w.now = s.now) :
    complete (heard s id) r (.value x false) = retireTo w r.thr pc v := by
  have hread : RetireReadable (unpark (settled s id) r.thr) r.thr := by
    have h7 : getC (unpark (settled s id) r.thr) r.thr 7 = getC s r.thr 7 :=
      (unpark_unchanged (settled s id) r.thr).getC fun i hi => not_parkBytes_cAddr (by decide) (by decide) hi
    rw [RetireReadable, isPaired_congr h7]
    exact readable_unpark (s := settled s id) h.reads r.thr
  have hcmds : (getThr (retireTo w r.thr pc v) r.thr).cmds = [] := by
    rw [retireTo_cmds, getThr_congr hc hn]
    exact h.cmds
  unfold complete
  dsimp only
  rw [pairOf_heard, h.alone, Option.isSome_none, if_neg (by decide), findReq_id h.found]
  rw [← settled, retiring_readable hread, hd, runCmds_none hcmds]

theorem complete_trap (h : Awaits s id r) (c : Cause) (sub : Nat) :
    complete (heard s id) r (.trap c sub) =
      runCmds (takeTrap (unpark (settled s id) r.thr) r.thr c r.word
        (if Cause.writesC9 c then some (withSubtile r.handle sub) else none)) r.thr := by
  unfold complete
  dsimp only
  rw [pairOf_heard, h.alone, Option.isSome_none, if_neg (by decide), findReq_id h.found, ← settled]

theorem complete_poison (h : Awaits s id r) (x : Vec) :
    complete (heard s id) r (.value x true) = runCmds (endThread (settled s id) r.thr .poisonConsumed r.word true) r.thr := by
  have halone : pairOf (settled s id) r.thr = none := h.alone
  unfold complete
  dsimp only
  rw [pairOf_heard, h.alone, Option.isSome_none, if_neg (by decide), findReq_id h.found, ← settled, halone]
  rfl

/-- The reply to an awaited request completes it. -/
theorem replyArrives_awaited (h : Awaits s id r) (a : Ans) : replyArrives s id a = complete (heard s id) r a := by
  rw [replyArrives_eq h.found h.held h.parked h.fresh, if_pos h.opened]

end

/-! ### The answers of instructions (R326 to R376) -/

theorem retireS_eq (s : State) (t : Thr) (d : SReg) (x : Word) :
    retireS s t d x = retireTo (setS s t d x) t (nextPc s t) (if d = 0 then BitVec.ofNat 64 (nextPc s t) else x) := by
  unfold retireS retirePlain retire
  split
  · next h => rw [h, setS_zero]; rfl
  · have hpc : pcOf (setS s t d x) t = pcOf s t := by
      rw [pcOf, pcOf, (setS_unchanged s t d x).getC fun i hi hw => sAddr_cAddr t d 1 i hi hw.2]
    rw [hpc]
    rfl

theorem deliver_word {s : State} {r : Req} {x : Vec} {d : SReg} (h : wordAnswer r.insn = some d) :
    deliver s r x = retireS s r.thr d (x.extractLsb' 0 64) := by
  unfold wordAnswer at h
  split at h <;> simp_all [deliver]

theorem deliver_half {s : State} {r : Req} {x : Vec} {d : SReg} (h : halfAnswer r.insn = some d) :
    deliver s r x = retireS s r.thr d (sextOf 32 (x.extractLsb' 0 64)) := by
  have hx : sext32 (x.extractLsb' 0 32) = sextOf 32 (x.extractLsb' 0 64) := by
    have hw : (x.extractLsb' 0 64).setWidth 32 = x.extractLsb' 0 32 := by
      apply BitVec.eq_of_getLsbD_eq
      intro i hi
      simp [hi, show i < 64 by omega]
    rw [sextOf, hw]
    rfl
  unfold halfAnswer at h
  split at h <;> simp_all [deliver]

theorem extend_answer {n : Nat} (hn : 0 < n ∧ n ≤ 8) (x : Vec) : extend n true x.toNat = sextOf (8 * n) (x.extractLsb' 0 64) := by
  have hpow : 256 ^ n = 2 ^ (8 * n) := by rw [Nat.pow_mul]
  have hlow : extend n true x.toNat = extend n true (x.toNat % 256 ^ n) := by simp only [extend, sval, if_true, hpow, Nat.mod_mod]
  have hw : (BitVec.ofNat 64 (x.toNat % 256 ^ n)).setWidth (8 * n) = (x.extractLsb' 0 64).setWidth (8 * n) := by
    have hdvd : 2 ^ (8 * n) ∣ 2 ^ 64 := Nat.pow_dvd_pow 2 (by omega)
    apply BitVec.eq_of_toNat_eq
    simp only [BitVec.toNat_setWidth, BitVec.toNat_ofNat, BitVec.extractLsb'_toNat, Nat.shiftRight_zero]
    rw [Nat.mod_mod_of_dvd _ hdvd, Nat.mod_mod_of_dvd _ hdvd, hpow, Nat.mod_mod]
  rw [hlow, extend_eq hn (Nat.mod_lt _ (by positivity)), if_pos rfl, sextOf, sextOf, hw]

theorem deliver_ldo {s : State} {r : Req} {x : Vec} {d : SReg} {p : Pair} {o : Order} {z : Size} (h : r.insn = .ldo d p o z) :
    deliver s r x = retireS s r.thr d (sextOf (8 * z.bytes) (x.extractLsb' 0 64)) := by
  obtain ⟨hpos, hle, -⟩ := size_bytes z
  rw [← extend_answer ⟨hpos, hle⟩]
  simp only [deliver, h]

theorem deliver_vldo {s : State} {r : Req} {x : Vec} {b : VReg} {g : PReg} {p : Pair} {o : Order} {ty : VType} (h : r.insn = .vldo b g p o ty) :
    deliver s r x =
      (let u := setVMasked s r.thr b x (activeBytes (r.y.setWidth 32) ty.size)
       retire u r.thr (foldVec (getV u r.thr b))) := by simp only [deliver, h]

theorem deliver_vldb {s : State} {r : Req} {x : Vec} {b : VReg} {g : PReg} {p : Pair} {o : Order} {ty : VType} (h : r.insn = .vldb b g p o ty) :
    deliver s r x =
      (let u := setVMasked s r.thr b (ofLanes ty.size (List.replicate (32 / ty.size) (x.toNat % 2 ^ (8 * ty.size))))
        (activeBytes (r.y.setWidth 32) ty.size)
       retire u r.thr (foldVec (getV u r.thr b))) := by simp only [deliver, h]

theorem deliver_ibrecv {s : State} {r : Req} {x : Vec} {d : SReg} (h : r.insn = .ibrecv d) :
    deliver s r x = retire (setS (setS s r.thr d (x.extractLsb' 0 64)) r.thr (d + 1) (x.extractLsb' 64 64)) r.thr
      (x.extractLsb' 0 64 ^^^ x.extractLsb' 64 64) := by simp only [deliver, h, nextReg]

/-- Every lane of a broadcast is lane 0 of the answer. -/
theorem lane_broadcast (x : Vec) {E i : Nat} (hi : i < 32 / E) :
    lane E (ofLanes E (List.replicate (32 / E) (x.toNat % 2 ^ (8 * E)))) i = lane E x 0 := by
  have hlt : 8 * E * i + 8 * E ≤ 256 := by
    have h1 := Nat.mul_le_mul_left E (Nat.succ_le_of_lt hi)
    have h2 := Nat.mul_div_le 32 E
    rw [Nat.mul_succ] at h1
    rw [Nat.mul_assoc]
    omega
  rw [lane_ofLanes _ hlt]
  simp [lane, hi, BitVec.extractLsb'_toNat]

theorem deliver_none {s : State} {r : Req} (x : Vec) (h : noAnswer r.insn = true) : ∃ v, deliver s r x = retire s r.thr v := by
  unfold noAnswer at h
  split at h <;> simp_all [deliver, retirePlain]

/-- A masked write of a vector register, and then retiring with its words. -/
theorem retire_masked (s : State) (t : Thr) (d : VReg) (x : Vec) (m : Pred) :
    let u := setVMasked s t d x m
    VecResult s (retire u t (foldVec (getV u t d))) t d (getV u t d) 0 := by
  have hu := setVMasked_unchanged s t d x m
  have hsame := setVMasked_same s t d x m
  obtain ⟨hret, hframe, hrest⟩ := retire_after hu (vAddr_cAddr t d) (getThr_congr (setVMasked_cores s t d x m) hsame.now t)
    (foldVec (getV (setVMasked s t d x m) t d))
  refine ⟨hret, ?_, ?_, ?_, hsame.trans hrest⟩
  · rw [getV, getNat_congr fun i hi => hframe _ (not_retireBytes_vAddr hi)]
    rfl
  · rw [hframe.getC fun i hi => not_retireBytes_cAddr (by decide) hi, hu.getC (vAddr_cAddr t d 3 (by decide))]
    simp
  · exact (hu.mono fun a ha => .inr (.inl ha)).trans (hframe.mono fun a ha => .inl ha)

/-- Two registers of a pair of registers, and then retiring. -/
theorem retire_two (s : State) (t : Thr) {d : SReg} (x y v : Word) (h2 : d.toNat % 2 = 0) (h0 : d ≠ 0) :
    let w := retire (setS (setS s t d x) t (d + 1) y) t v
    getS w t d = x ∧ getS w t (d + 1) = y ∧ pcOf w t = nextPc s t ∧ getC w t 14 = getC s t 14 + 1 := by
  have hd : (d + 1).toNat = d.toNat + 1 := by
    have := d.isLt
    rw [BitVec.toNat_add]
    simp
    omega
  have h1 : d + 1 ≠ 0 := fun h => by rw [h] at hd; simp at hd
  have hu1 := setS_unchanged s t d x
  have hu2 := setS_unchanged (setS s t d x) t (d + 1) y
  have hu := (hu1.mono fun a ha => Or.inl ha).trans (hu2.mono fun a ha => Or.inr ha)
  have hctl : ∀ n, n < 16 → ∀ i, i < 8 → ¬ ((d ≠ 0 ∧ within (sAddr t d.toNat) 8 (cAddr t n + i)) ∨
      (d + 1 ≠ 0 ∧ within (sAddr t (d + 1).toNat) 8 (cAddr t n + i))) := fun n _ i hi h =>
    h.elim (fun h => sAddr_cAddr t d n i hi h.2) fun h => sAddr_cAddr t (d + 1) n i hi h.2
  obtain ⟨hret, hframe, -⟩ := retire_after hu hctl (getThr_congr (by simp) (by simp) t) v
  have hreg : ∀ e : SReg, ∀ i, i < 8 → ¬ retireBytes s t (sAddr t e.toNat + i) := fun e i hi => by
    have := sAddr_toNat_lt t e
    exact not_retireBytes (by omega)
  refine ⟨?_, ?_, hret.pc, hret.count⟩
  · rw [getS_unchanged hframe (hreg d), getS_unchanged hu2, getS_setS_self, if_neg h0]
    rintro i hi ⟨-, hw⟩
    rw [hd] at hw
    unfold within sAddr at hw
    omega
  · rw [getS_unchanged hframe (hreg (d + 1)), getS_setS_self, if_neg h1]

/-! ### Traps -/

theorem getC_of_mem {s t : State} (h : t.mem = s.mem) (th : Thr) (n : Nat) : getC t th n = getC s th n := by
  simp only [getC, getWord, getNat, getBytes, h]

/-- The row of a thread that a trap with its cause and word has stopped (R115). -/
def trappedRow (s : State) (t : Thr) (c : Cause) (w : InsnWord) : State :=
  modThr (setC (setTState (setFinfo s t c.code w) t stTrapped) t 2 0) t fun c => { c with stepping := false }

theorem getC_trappedRow (s : State) (t : Thr) (c : Cause) (w : InsnWord) :
    tstate (trappedRow s t c w) t = stTrapped ∧ getC (trappedRow s t c w) t 2 = 0 ∧
    getC (trappedRow s t c w) t 10 = BitVec.ofNat 64 (c.code * 4294967296 + w.toNat) ∧
    ∀ n, n ≠ 0 → n ≠ 2 → n ≠ 10 → getC (trappedRow s t c w) t n = getC s t n := by
  have hc : ∀ n, getC (trappedRow s t c w) t n = getC (setC (setTState (setFinfo s t c.code w) t stTrapped) t 2 0) t n :=
    getC_of_mem (modThr_mem ..) t
  refine ⟨(tstate_congr ?_).trans (tstate_setTState (setFinfo s t c.code w) t (by decide)), ?_, ?_, fun n h0 h2 h10 => ?_⟩
  · rw [hc, getC_setC_other _ _ _ (by decide)]
  · rw [hc, getC_setC_self _ _ _ _ (by decide)]
  · rw [hc, getC_setC_other _ _ _ (by decide), setTState, getC_setC_other _ _ _ (by decide), setFinfo, getC_setC_self _ _ _ _ (by decide)]
  · rw [hc, getC_setC_other _ _ _ (Ne.symm h2), setTState, getC_setC_other _ _ _ (Ne.symm h0), setFinfo,
      getC_setC_other _ _ _ (Ne.symm h10)]

theorem readable_trappedRow {s : State} {ws : List Nat} (h : Readable s ws) (t : Thr) (c : Cause) (w : InsnWord) :
    Readable (trappedRow s t c w) ws := by
  have h3 : Readable (setC (setTState (setFinfo s t c.code w) t stTrapped) t 2 0) ws :=
    readable_setC (readable_setC (readable_setC h t 10 _) t 0 _) t 2 0
  exact readable_modThr h3 t _

/-- A trap of a thread outside a pair and outside a handler stops its row and sends a record (R115, R116). -/
theorem applyTrap_gives {s : State} {t : Thr} (c : Cause) (w : InsnWord) (hrow : t.row ≠ 84) (hr : Readable s [cAddr t 12]) :
    ∃ m, ReadOnly (trappedRow s t c w) m ∧ SendsOnly m (applyTrap s t c w true) := by
  obtain ⟨m, hm, hs⟩ := trapRecord_sends (trappedRow s t c w) t c.code w
  obtain ⟨hclean, hbits⟩ := readable_trappedRow hr t c w (cAddr t 12) List.mem_cons_self
  have hp : isPoisoned (trapRecord (trappedRow s t c w) t c.code w) (cAddr t 12) = false := by
    rw [isPoisoned, hs.poison, ← isPoisoned, hm.poison _ hbits, hclean]
  have e : applyTrap s t c w true = trapRecord (trappedRow s t c w) t c.code w := by
    unfold applyTrap
    dsimp only
    rw [if_neg (by simp [isHandler, hrow]), if_neg (by decide)]
    show (if isPoisoned (trapRecord (trappedRow s t c w) t c.code w) (cAddr t 12) = true then _ else _) = _
    rw [hp, if_neg (by decide)]
    rfl
  exact ⟨m, hm, e ▸ hs⟩

theorem takeTrap_gives {s : State} {t : Thr} (c : Cause) (w : InsnWord) (c9 : Option Word) (halone : pairOf s t = none) (hrow : t.row ≠ 84)
    (hr : Readable s [cAddr t 12]) :
    let u := takeTrap s t c w c9
    Trapped s u t c w ∧ u.reqs = s.reqs ∧ (getThr u t).cmds = (getThr s t).cmds ∧ ∀ x, c9 = some x → getC u t 9 = x := by
  have hfrom : ∀ v : State, pairOf v t = none → Readable v [cAddr t 12] →
      let u := applyTrap v t c w true
      Trapped v u t c w ∧ u.reqs = v.reqs ∧ (getThr u t).cmds = (getThr v t).cmds ∧ getC u t 9 = getC v t 9 := fun v _ hv => by
    obtain ⟨m, hm, hs⟩ := applyTrap_gives c w hrow hv
    obtain ⟨hst, h2, h10, hrest⟩ := getC_trappedRow v t c w
    have hc : ∀ n, getC (applyTrap v t c w true) t n = getC (trappedRow v t c w) t n := getC_of_mem (hs.mem.trans hm.mem) t
    refine ⟨⟨(tstate_congr (hc 0)).trans hst, ?_, ?_, (hc 2).trans h2, (hc 10).trans h10⟩, hs.reqs.trans hm.reqs, ?_, ?_⟩
    · exact (hc 1).trans (hrest 1 (by decide) (by decide) (by decide))
    · exact (hc 14).trans (hrest 14 (by decide) (by decide) (by decide))
    · rw [getThr_congr (hs.cores.trans hm.cores) (hs.now.trans hm.now), trappedRow, getThr_modThr]
      rfl
    · exact (hc 9).trans (hrest 9 (by decide) (by decide) (by decide))
  cases c9 with
  | none =>
    have e : takeTrap s t c w none = applyTrap s t c w true := by rw [takeTrap]; simp only [halone]
    obtain ⟨htrap, hreqs, hcmds, -⟩ := hfrom s halone hr
    rw [e]
    exact ⟨htrap, hreqs, hcmds, nofun⟩
  | some x =>
    have halone' : pairOf (setC s t 9 x) t = none := halone
    have e : takeTrap s t c w (some x) = applyTrap (setC s t 9 x) t c w true := by rw [takeTrap]; simp only [halone']
    obtain ⟨⟨hst, hpc, hcount, hpark, hfinfo⟩, hreqs, hcmds, h9⟩ := hfrom (setC s t 9 x) halone (readable_putBytes hr _ _)
    rw [e]
    refine ⟨⟨hst, hpc.trans (getC_setC_other _ _ _ (by decide)), hcount.trans (getC_setC_other _ _ _ (by decide)), hpark, hfinfo⟩,
      hreqs, hcmds, fun y hy => ?_⟩
    rw [h9, getC_setC_self _ _ _ _ (by decide)]
    exact Option.some.inj hy

/-! ### Poison ends a thread (R130) -/

theorem get_zeroed (s : State) (a n b : Nat) :
    Memory.get (putBytes s a (List.replicate n 0)).mem b = if a ≤ b ∧ b < a + n then 0 else Memory.get s.mem b := by
  rw [putBytes_mem, Memory.get_put, List.length_replicate]
  split
  · rw [List.getD_eq_getElem _ _ (by simp; omega), List.getElem_replicate]
  · rfl

/-- The row of a thread is cleared, and a wide thread's second row with it. -/
def clearRow (s : State) (t : Thr) (c7 : Word) : State :=
  let u := putBytes s (rowAddr t.core t.row) (List.replicate 4096 0)
  if bits c7 17 1 = 1 then putBytes u (rowAddr t.core (t.row + 12)) (List.replicate 4096 0) else u

theorem get_clearRow (s : State) (t : Thr) (c7 : Word) {i : Nat} (hi : i < 4096) :
    Memory.get (clearRow s t c7).mem (rowAddr t.core t.row + i) = 0 := by
  have hrow := get_zeroed s (rowAddr t.core t.row) 4096 (rowAddr t.core t.row + i)
  rw [if_pos (by omega)] at hrow
  unfold clearRow
  dsimp only
  split
  · rw [get_zeroed, hrow, ite_self]
  · exact hrow

/-- An ended thread's row holds its c7, its state with its PRIO, and the cause and word. -/
def cancelledRow (s : State) (t : Thr) (c7 : Word) (prio : Nat) (c : Cause) (w : InsnWord) : State :=
  setFinfo (setC (setC s t 7 c7) t 0 (BitVec.ofNat 64 (stCancelled * 16 + prio * 512))) t c.code w

theorem cancelledRow_gives (s : State) (t : Thr) (c7 : Word) (prio : Nat) (c : Cause) (w : InsnWord) :
    let u := cancelledRow s t c7 prio c w
    tstate u t = 5 ∧ getC u t 7 = c7 ∧ getC u t 10 = BitVec.ofNat 64 (c.code * 4294967296 + w.toNat) ∧
    ∀ i, i < 3968 → Memory.get u.mem (rowAddr t.core t.row + i) = Memory.get s.mem (rowAddr t.core t.row + i) := by
  unfold cancelledRow
  refine ⟨?_, ?_, getC_setC_self _ _ _ _ (by decide), fun i hi => ?_⟩
  · rw [tstate, setFinfo, getC_setC_other _ _ _ (by decide), getC_setC_self _ _ _ _ (by decide), bits, BitVec.extractLsb'_toNat,
      BitVec.toNat_ofNat, Nat.shiftRight_eq_div_pow]
    unfold stCancelled
    omega
  · rw [setFinfo, getC_setC_other _ _ _ (by decide), getC_setC_other _ _ _ (by decide), getC_setC_self _ _ _ _ (by decide)]
  · have hctl : ∀ n, ¬ within (cAddr t n) 8 (rowAddr t.core t.row + i) := fun n => by unfold within cAddr; omega
    rw [setFinfo, setC_unchanged _ _ _ _ _ (hctl 10), setC_unchanged _ _ _ _ _ (hctl 0), setC_unchanged _ _ _ _ _ (hctl 7)]

theorem threadEnded_mem (s : State) (t : Thr) (b : Bool) : (threadEnded s t b).mem = s.mem := by
  unfold threadEnded
  split
  · rfl
  · dsimp only
    split <;> rfl

theorem threadEnded_reqs (s : State) (t : Thr) (b : Bool) : (threadEnded s t b).reqs = s.reqs := by
  unfold threadEnded
  split
  · rfl
  · dsimp only
    split <;> rfl

theorem threadEnded_getThr (s : State) (t u : Thr) (b : Bool) : getThr (threadEnded s t b) u = getThr s u := by
  unfold threadEnded
  split
  · rfl
  · dsimp only
    split <;> exact getThr_congr rfl rfl u

/-- Nothing is under way for an ended thread. -/
def endedCtl (c : ThrCtl) : ThrCtl := { c with stepping := false, long := none, reply := none, yielded := false, codeWait := false }

theorem cancelledRow_rest (s : State) (t : Thr) (c7 : Word) (prio : Nat) (c : Cause) (w : InsnWord) :
    (cancelledRow s t c7 prio c w).reqs = s.reqs ∧ (cancelledRow s t c7 prio c w).cores = s.cores ∧
      (cancelledRow s t c7 prio c w).now = s.now := ⟨rfl, rfl, rfl⟩

theorem leaveAll_gives {s : State} {t : Thr} (hc : (getThr s t).cmds = []) :
    let u := leaveAll s t
    u.mem = s.mem ∧ (∀ q ∈ u.reqs, ∃ p ∈ s.reqs, p.id = q.id) ∧ (getThr u t).cmds = [] := by
  have hcmds : (getThr (leaveReqs (modThr s t endedCtl) t) t).cmds = [] := by
    have h : getThr (leaveReqs (modThr s t endedCtl) t) t = getThr (modThr s t endedCtl) t := getThr_congr rfl rfl t
    rw [h, getThr_modThr]
    exact hc
  have e : leaveAll s t = threadEnded (runCmds (leaveReqs (modThr s t endedCtl) t) t) t true := rfl
  rw [e, runCmds_none hcmds]
  refine ⟨threadEnded_mem .., fun q hq => ?_, ?_⟩
  · rw [threadEnded_reqs] at hq
    obtain ⟨p, hp, e⟩ := List.mem_filterMap.1 hq
    refine ⟨p, hp, ?_⟩
    split at e
    · split at e
      · cases e; rfl
      · cases e
    · cases e; rfl
  · rw [threadEnded_getThr]
    exact hcmds

theorem clearRow_rest (s : State) (t : Thr) (c7 : Word) :
    (clearRow s t c7).reqs = s.reqs ∧ (clearRow s t c7).cores = s.cores ∧ (clearRow s t c7).now = s.now := by
  unfold clearRow
  dsimp only
  split <;> exact ⟨rfl, rfl, rfl⟩

theorem endThread_eq {s : State} {t : Thr} (c : Cause) (w : InsnWord) (hrow : t.row < 84) :
    endThread s t c w true =
      leaveAll (cancelledRow (clearRow (trapRecord s t c.code w) t (getC s t 7)) t (getC s t 7) (prioOf s t) c w) t := by
  unfold endThread
  dsimp only
  rw [if_pos rfl, if_neg (by unfold isHandler; simp; omega)]
  rfl

theorem endThread_gives {s : State} {t : Thr} (c : Cause) (w : InsnWord) (hrow : t.row < 84) (hc : (getThr s t).cmds = []) :
    let u := endThread s t c w true
    tstate u t = 5 ∧ getC u t 7 = getC s t 7 ∧ getC u t 10 = BitVec.ofNat 64 (c.code * 4294967296 + w.toNat) ∧
    (∀ q ∈ u.reqs, ∃ p ∈ s.reqs, p.id = q.id) ∧ (getThr u t).cmds = [] ∧
    ∀ i, i < 3968 → Memory.get u.mem (rowAddr t.core t.row + i) = 0 := by
  obtain ⟨m, hm, hs⟩ := trapRecord_sends s t c.code w
  rw [endThread_eq c w hrow]
  generalize trapRecord s t c.code w = v at hs
  obtain ⟨hreqs, hcores, hnow⟩ := clearRow_rest v t (getC s t 7)
  obtain ⟨hst, h7, h10, hmem⟩ := cancelledRow_gives (clearRow v t (getC s t 7)) t (getC s t 7) (prioOf s t) c w
  obtain ⟨hr', hc', hn'⟩ := cancelledRow_rest (clearRow v t (getC s t 7)) t (getC s t 7) (prioOf s t) c w
  have hthr : getThr (cancelledRow (clearRow v t (getC s t 7)) t (getC s t 7) (prioOf s t) c w) t = getThr s t :=
    getThr_congr (hc'.trans (hcores.trans (hs.cores.trans hm.cores))) (hn'.trans (hnow.trans (hs.now.trans hm.now))) t
  obtain ⟨hl, hq, hcmds⟩ := leaveAll_gives ((congrArg ThrCtl.cmds hthr).trans hc)
  refine ⟨(tstate_congr (getC_of_mem hl t 0)).trans hst, (getC_of_mem hl t 7).trans h7, (getC_of_mem hl t 10).trans h10, fun q h => ?_,
    hcmds, fun i hi => ?_⟩
  · obtain ⟨p, hp, e⟩ := hq q h
    exact ⟨p, (hr'.trans (hreqs.trans (hs.reqs.trans hm.reqs))) ▸ hp, e⟩
  · rw [hl, hmem i hi]
    exact get_clearRow v t _ (by omega)

end Sys2Proof.Machine

namespace Sys2Proof
open Machine

section
variable {s v : State} {id : Nat} {r : Req} {x : Vec}

/-- A reply to an awaited request performs what the request's answer does. -/
theorem performs_deliver (hd : s.doing = some (.reply id (.value x false))) (hsome : (findReq s id).isSome) (hv : takeAwaited s id = v)
    (h : Claims.Awaits v id r) {R : State → Prop}
    (hw : ∃ w pc y, deliver (unpark (settled v id) r.thr) r x = retireTo w r.thr pc y ∧ w.cores = v.cores ∧ w.now = v.now)
    (hR : R (deliver (unpark (settled v id) r.thr) r x)) : Claims.Performs s (.reply id (.value x false)) R := by
  obtain ⟨w, pc, y, e, hc, hn⟩ := hw
  refine ⟨_, ?_, hR⟩
  show execReply s = _
  simp only [execReply, hd, if_pos hsome, hv]
  rw [replyArrives_awaited h, complete_value h x e hc hn, e]

theorem performs_retire (hd : s.doing = some (.reply id (.value x false))) (hsome : (findReq s id).isSome) (hv : takeAwaited s id = v)
    (h : Claims.Awaits v id r) {R : State → Prop} {w : State} {y : Word}
    (e : deliver (unpark (settled v id) r.thr) r x = retire w r.thr y) (hc : w.cores = (unpark (settled v id) r.thr).cores)
    (hn : w.now = (unpark (settled v id) r.thr).now) (hR : R (retire w r.thr y)) :
    Claims.Performs s (.reply id (.value x false)) R :=
  performs_deliver hd hsome hv h ⟨w, _, y, e, hc, hn⟩ (e ▸ hR)

theorem performs_retireS (hd : s.doing = some (.reply id (.value x false))) (hsome : (findReq s id).isSome) (hv : takeAwaited s id = v)
    (h : Claims.Awaits v id r) {d : SReg} {y : Word} (e : ∀ u, deliver u r x = retireS u r.thr d y) :
    Claims.Performs s (.reply id (.value x false)) fun t =>
      ScalarResult (unpark (settled v id) r.thr) t r.thr d y (nextPc v r.thr) := by
  refine performs_deliver hd hsome hv h ⟨_, _, _, (e _).trans (retireS_eq ..), ?_, ?_⟩ ?_
  · rw [setS_cores]; rfl
  · rw [setS_now]; rfl
  · rw [e, ← nextPc_unpark]
    exact retireS_result ..

end

/-- The lanes that an answer to the elements of a mask leaves: the register is as it was before the reply in the others. -/
theorem lane_answered (v : State) (id : Nat) (t : Thr) (b : VReg) (x : Vec) (y : Word) {E i : Nat} (hi : i < 32 / E) :
    Claims.lane E (getV (setVMasked (unpark (settled v id) t) t b x (activeBytes (y.setWidth 32) E)) t b) i =
      if y.getLsbD (i * E) then Claims.lane E x i else Claims.lane E (getV v t b) i := by
  have hlt : i * E < 32 := by
    have h1 := Nat.mul_le_mul_right E (Nat.succ_le_of_lt hi)
    have h2 := Nat.div_mul_le_self 32 E
    have h3 : 0 < E := Nat.pos_of_ne_zero fun h => by simp [h] at hi
    rw [Nat.succ_mul] at h1
    omega
  have hold : getV (unpark (settled v id) t) t b = getV v t b := getV_unpark (settled v id) t b
  rw [lane_setVMasked _ _ _ _ _ hi, hold, BitVec.getLsbD_setWidth]
  simp [hlt]

/-- O28's first part: one case for each form of answer. -/
theorem repliesComplete : Claims.RepliesComplete := by
  intro s id r x hd hsome v h
  have hv : takeAwaited s id = v := rfl
  have hpc := nextPc_unpark (settled v id) r.thr
  refine ⟨unpark (settled v id) r.thr, unparked_settled v r.thr id, fun d hi => ?_, fun d hi => ?_, fun d p o z hi => ?_, fun hi => ?_,
    fun b g p o ty hi => ?_, fun b g p o ty hi => ?_, fun d hi h2 h0 => ?_⟩
  · exact performs_retireS hd hsome hv h fun u => deliver_word hi
  · exact performs_retireS hd hsome hv h fun u => deliver_half hi
  · exact performs_retireS hd hsome hv h fun u => deliver_ldo hi
  · obtain ⟨y, e⟩ := deliver_none (s := unpark (settled v id) r.thr) x hi
    have hres := retireTo_plain (unpark (settled v id) r.thr) r.thr _ y (nextPc_lt (unpark (settled v id) r.thr) r.thr)
    rw [hpc] at hres
    refine performs_retire hd hsome hv h e rfl rfl ⟨y, ?_⟩
    rwa [retire, ← nextPc, hpc]
  · exact ⟨_, fun i hlt => lane_answered v id r.thr b x r.y hlt,
      performs_retire hd hsome hv h (deliver_vldo hi) (setVMasked_cores ..) (setVMasked_same ..).now (retire_masked ..)⟩
  · refine ⟨_, fun i hlt => ?_,
      performs_retire hd hsome hv h (deliver_vldb hi) (setVMasked_cores ..) (setVMasked_same ..).now (retire_masked ..)⟩
    rw [lane_answered v id r.thr b _ r.y hlt, lane_broadcast x hlt]
  · refine performs_retire hd hsome hv h (deliver_ibrecv hi) (by simp) (by simp) ?_
    obtain ⟨h1, h2, h3, h4⟩ := retire_two (unpark (settled v id) r.thr) r.thr (x.extractLsb' 0 64) (x.extractLsb' 64 64)
      (x.extractLsb' 0 64 ^^^ x.extractLsb' 64 64) h2 h0
    exact ⟨h1, h2, h3.trans hpc, h4.trans (congrArg (· + 1) (getC_settled v id r.thr (by decide) (by decide)))⟩

section
variable {s : State} {id : Nat} {r : Req}

/-- A reply to a request that no job's completion answers. -/
theorem exec_reply {a : Ans} (hd : s.doing = some (.reply id a)) (hj : awaitedJob s id = none) :
    exec (Event.reply id a).instr s = .next (replyArrives s id a) := by
  have ht : takeAwaited s id = s := by simp only [takeAwaited, hj]
  show execReply s = _
  simp only [execReply, hd, ht, ite_self]

theorem reply_traps {c : Cause} {sub : Nat} (hd : s.doing = some (.reply id (.trap c sub))) (hj : awaitedJob s id = none)
    (h : Claims.Awaits s id r) (hrow : r.thr.row ≠ 84) (hr : Readable s [cAddr r.thr 12]) :
    Claims.Performs s (.reply id (.trap c sub)) fun t =>
      Trapped s t r.thr c r.word ∧ findReq t id = none ∧
      (c = .stackDown ∨ c = .notResident ∨ c = .objNull ∨ c = .objPerm ∨ c = .outOfShape →
        getC t r.thr 9 = BitVec.ofNat 32 sub ++ r.handle.extractLsb' 0 32) := by
  have hr' : Readable (unpark (settled s id) r.thr) [cAddr r.thr 12] := readable_unpark (s := settled s id) hr r.thr
  have halone : pairOf (unpark (settled s id) r.thr) r.thr = none := h.alone
  obtain ⟨⟨hst, hpc, hcount, hpark, hfinfo⟩, hreqs, hcmds, h9⟩ :=
    takeTrap_gives c r.word (if Cause.writesC9 c then some (withSubtile r.handle sub) else none) halone hrow hr'
  refine ⟨_, exec_reply hd hj, ?_⟩
  rw [replyArrives_awaited h, complete_trap h, runCmds_none (hcmds.trans ((congrArg _ (getThr_settled s id r.thr)).trans h.cmds))]
  refine ⟨⟨hst, hpc.trans (getC_settled s id r.thr (by decide) (by decide)),
    hcount.trans (getC_settled s id r.thr (by decide) (by decide)), hpark, hfinfo⟩,
    findReq_settled s id fun q hq => ⟨q, hreqs ▸ hq, rfl⟩, fun hcause => h9 _ (if_pos ?_)⟩
  obtain rfl | rfl | rfl | rfl | rfl := hcause <;> rfl

theorem reply_poisons {x : Vec} (hd : s.doing = some (.reply id (.value x true))) (hj : awaitedJob s id = none)
    (h : Claims.Awaits s id r) (hrow : r.thr.row < 84) :
    Claims.Performs s (.reply id (.value x true)) fun t =>
      tstate t r.thr = 5 ∧ getC t r.thr 7 = getC s r.thr 7 ∧
      getC t r.thr 10 = BitVec.ofNat 64 (0x21 * 4294967296 + r.word.toNat) ∧ findReq t id = none ∧
      ∀ i, i < 3968 → Memory.get t.mem (rowAddr r.thr.core r.thr.row + i) = 0 := by
  have hc : (getThr (settled s id) r.thr).cmds = [] := (congrArg _ (getThr_congr rfl rfl r.thr)).trans h.cmds
  obtain ⟨hst, h7, h10, hreqs, hcmds, hzero⟩ := endThread_gives .poisonConsumed r.word hrow hc
  refine ⟨_, exec_reply hd hj, ?_⟩
  rw [replyArrives_awaited h, complete_poison h, runCmds_none hcmds]
  exact ⟨hst, h7, h10, findReq_settled s id hreqs, hzero⟩

theorem reply_kept {a : Ans} (hd : s.doing = some (.reply id a)) (hj : awaitedJob s id = none) (hf : findReq s id = some r)
    (hh : r.held = false) (hp : tstate s r.thr = 3) (ho : rowOpen s r.thr = false) (hn : r.phase ≠ .answered) :
    Claims.Performs s (.reply id a) fun t =>
      tstate t r.thr = 2 ∧ getC t r.thr 2 = 0 ∧ (getThr t r.thr).reply = some (id, a) ∧
      t.reqs = s.reqs.map (fun q => if q.id = id then { q with phase := .answered } else q) ∧
      UnchangedBut s t (parkBytes r.thr) := by
  refine ⟨_, exec_reply hd hj, ?_⟩
  rw [replyArrives_eq hf hh hp hn, ho, if_neg (by decide)]
  have hmem := modThr_mem (unpark (modReq (heard s id) id fun r => { r with phase := .answered }) r.thr) r.thr
    fun c => { c with reply := some (id, a) }
  refine ⟨(tstate_congr (getC_of_mem hmem r.thr 0)).trans (tstate_unpark ..), (getC_of_mem hmem r.thr 2).trans (getC_unpark_park ..),
    ?_, rfl, fun b hb => ?_⟩
  · rw [getThr_modThr]
  · rw [hmem]
    exact unpark_unchanged (modReq (heard s id) id fun r => { r with phase := .answered }) r.thr b hb

end

/-- Settles O28: `repliesComplete`, `reply_traps`, `reply_poisons` and `reply_kept`. -/
theorem replies : Obligations.Replies :=
  ⟨repliesComplete, fun _ _ _ => ⟨fun _ _ hd hj h hrow hr => reply_traps hd hj h hrow hr, fun _ hd hj h hrow => reply_poisons hd hj h hrow,
    fun _ hd hj hf hh hp ho hn => reply_kept hd hj hf hh hp ho hn⟩⟩

end Sys2Proof
end

section
/-! PROOFS. Code rows and gating (O27). -/
namespace Sys2Proof.Machine
open Claims

/-! ### Threads of a core -/

theorem getThr_modThr_of_ne (s : State) {t u : Thr} (h : u ≠ t) (f : ThrCtl → ThrCtl) : getThr (modThr s t f) u = getThr s u := by
  unfold getThr
  by_cases hc : u.core = t.core
  · have hr : t.row ≠ u.row := fun hr => h (by cases t; cases u; simp_all)
    rw [hc, getCore_modThr, look_store, if_neg hr]
  · rw [modThr, setThr, modCore, getCore_setCore_of_ne _ _ hc]

theorem core_of_mem_ctlThreads {s : State} {core : Nat} {t : Thr} (h : t ∈ ctlThreads s core) : t.core = core := by
  obtain ⟨p, -, rfl⟩ := List.mem_map.1 h
  rfl

/-! ### A code row that is open (R32) -/

/-- The two fetch buffers, the row being the one used last. -/
def openedBuffers (c : CoreSt) (row : Nat) : List Nat := (moveBack c.buffers row).drop ((moveBack c.buffers row).length - 2)

theorem openedBuffers_spec (c : CoreSt) (row : Nat) : row ∈ openedBuffers c row ∧ (openedBuffers c row).length ≤ 2 := by
  unfold openedBuffers moveBack
  refine ⟨?_, by simp; omega⟩
  rw [List.drop_append_of_le_length (by simp)]
  simp

/-- The core after a code row opened, before the stalled threads go on. -/
def buffersOpened (s : State) (core row : Nat) : State := modCore s core fun c => { c with buffers := openedBuffers c row }

/-- What decides whether a thread waits for an opening is the core's cached code, the agenda and memory. -/
theorem awaitsOpening_congr {s u : State} (t : Thr) (hm : u.mem = s.mem) (ha : u.agenda = s.agenda)
    (hc : (getCore u t.core).code = (getCore s t.core).code) : awaitsOpening u t = awaitsOpening s t := by
  have h1 := getC_of_mem hm t 1
  simp only [awaitsOpening, codeRowOf, codeOf, pcOf, opening, h1, ha, hc]
  rfl

/-- A stalled thread goes on. -/
def goOn (s : State) (t : Thr) : State := if awaitsOpening s t then s else modThr s t fun c => { c with codeWait := false }

/-- What letting a thread go on keeps: everything but the control data of the threads of its core. -/
structure SameButStalls (s u : State) (core : Nat) : Prop where
  only   : CoreOnly s u core
  agenda : u.agenda = s.agenda
  code   : (getCore u core).code = (getCore s core).code
  bufs   : (getCore u core).buffers = (getCore s core).buffers

theorem SameButStalls.awaits {s u : State} {core : Nat} (h : SameButStalls s u core) {t : Thr} (ht : t.core = core) :
    awaitsOpening u t = awaitsOpening s t := awaitsOpening_congr t h.only.mem h.agenda (ht ▸ h.code)

theorem SameButStalls.goOn {s u : State} {core : Nat} (h : SameButStalls s u core) {t : Thr} (ht : t.core = core) :
    SameButStalls s (goOn u t) core := by
  unfold Machine.goOn
  split
  · exact h
  · subst ht
    have hc := getCore_modThr u t fun c => { c with codeWait := false }
    exact ⟨h.only.modThr, h.agenda, (congrArg CoreSt.code hc).trans h.code, (congrArg CoreSt.buffers hc).trans h.bufs⟩

/-- The threads of a list go on whose code row is not being opened, and the others do not. -/
theorem foldl_goOn {s : State} {core : Nat} (l : List Thr) (hl : ∀ t ∈ l, t.core = core) {u : State} (h : SameButStalls s u core) :
    SameButStalls s (l.foldl goOn u) core ∧
    ∀ t, t.core = core →
      (awaitsOpening s t = true → (getThr (l.foldl goOn u) t).codeWait = (getThr u t).codeWait) ∧
      (awaitsOpening s t = false → t ∈ l ∨ (getThr u t).codeWait = false → (getThr (l.foldl goOn u) t).codeWait = false) := by
  induction l generalizing u with
  | nil => exact ⟨h, fun t _ => ⟨fun _ => rfl, fun _ hm => hm.resolve_left (by simp)⟩⟩
  | cons x l ih =>
    have hx : x.core = core := hl x List.mem_cons_self
    obtain ⟨hsame, hthr⟩ := ih (fun t ht => hl t (List.mem_cons_of_mem _ ht)) (h.goOn hx)
    have hstep : ∀ t, (getThr (goOn u x) t).codeWait =
        if t = x ∧ awaitsOpening s x = false then false else (getThr u t).codeWait := fun t => by
      rw [goOn, h.awaits hx]
      by_cases ha : awaitsOpening s x = true
      · simp [ha]
      · rw [if_neg ha]
        by_cases ht : t = x
        · subst ht
          rw [getThr_modThr, if_pos ⟨rfl, by simpa using ha⟩]
        · rw [getThr_modThr_of_ne _ ht, if_neg (by tauto)]
    refine ⟨hsame, fun t ht => ?_⟩
    obtain ⟨hkeep, hgo⟩ := hthr t ht
    refine ⟨fun ha => ?_, fun ha hm => ?_⟩
    · rw [List.foldl_cons, hkeep ha, hstep, if_neg]
      rintro ⟨rfl, hf⟩
      simp [ha] at hf
    · refine hgo ha ?_
      rw [hstep]
      obtain hm | hm := hm
      · obtain rfl | hm := List.mem_cons.1 hm
        · exact .inr (if_pos ⟨rfl, ha⟩)
        · exact .inl hm
      · exact .inr (by rw [hm, ite_self])

theorem codeRowOpened_eq {s : State} {core row : Nat} {x : CodeRow} (h : (getCore s core).code.find? (fun y => y.row = row) = some x) :
    codeRowOpened s core row = (ctlThreads s core).foldl goOn (buffersOpened s core row) := by
  have hany : (getCore s core).code.any (fun y => y.row = row) = true := by
    have hx := List.find?_some h
    exact List.any_eq_true.2 ⟨x, List.mem_of_find?_eq_some h, hx⟩
  have hmod : (modCore s core fun c => if c.code.any (fun y => y.row = row) then
      { c with buffers := (moveBack c.buffers row).drop ((moveBack c.buffers row).length - 2) } else c) = buffersOpened s core row := by
    simp only [modCore, hany, if_true]
    rfl
  have hthr : ctlThreads (buffersOpened s core row) core = ctlThreads s core := by
    simp only [ctlThreads, buffersOpened, modCore, getCore_setCore]
  unfold codeRowOpened
  rw [hmod]
  dsimp only
  rw [hthr]
  rfl

/-! ### Filling a code row (R32, R149) -/

theorem getBytes_length (s : State) (a n : Nat) : (getBytes s a n).length = n := by rw [getBytes, Memory.length_slice]

theorem getD_getBytes (s : State) {a n i : Nat} (h : i < n) : (getBytes s a n).getD i 0 = Memory.get s.mem (a + i) := by
  rw [List.getD_eq_getElem _ _ (by rwa [getBytes_length])]
  simp [getBytes, Memory.slice_eq]

/-- The code row that a fill goes to: the one that holds the part already, else a free one or the least recently used. -/
def fillRow (s : State) (core handle part : Nat) : Nat :=
  match codeRowOf s core handle part with
  | some x => x.row
  | none => codeVictim (getCore s core)

/-- The core after a fill: the part is cached last, and its row, when it is another part's, leaves the fetch buffers. -/
def filledCore (s : State) (core handle part : Nat) : CoreSt :=
  let c := getCore s core
  { c with code := c.code.filter (fun x => x.row ≠ fillRow s core handle part) ++ [⟨fillRow s core handle part, handle, part⟩],
           buffers := if (codeRowOf s core handle part).isSome then c.buffers else c.buffers.filter (· ≠ fillRow s core handle part) }

theorem fillCodeRow_eq {s : State} {core handle part oc orow : Nat} {r : Rec} (hr : codeRecord s core handle = some r)
    (hp : computedPlace s (slotOf s (tileOf core)) r part = some (oc, orow)) :
    ∃ m, ReadOnly (setCore s core (filledCore s core handle part)) m ∧ ∃ l, fillCodeRow s core handle part =
      { putFull m (rowAddr core (fillRow s core handle part)) (getBytes m (rowAddr oc orow) 4096) with poison := l } := by
  refine ⟨_, (ReadOnly.refl _).touch (rowAddr oc orow) 4096, ?_⟩
  unfold fillCodeRow
  simp only [hr, hp]
  exact ⟨_, rfl⟩

theorem fillCodeRow_gives {s : State} {core handle part oc orow : Nat} {r : Rec} (hr : codeRecord s core handle = some r)
    (hp : computedPlace s (slotOf s (tileOf core)) r part = some (oc, orow)) :
    let u := fillCodeRow s core handle part
    u.mem = Memory.put s.mem (rowAddr core (fillRow s core handle part)) (getBytes s (rowAddr oc orow) 4096) ∧
    ⟨fillRow s core handle part, handle, part⟩ ∈ (getCore u core).code ∧ (getCore u core).thr = (getCore s core).thr := by
  obtain ⟨m, hm, l, e⟩ := fillCodeRow_eq hr hp
  have hcore : getCore (fillCodeRow s core handle part) core = filledCore s core handle part := by
    rw [e]
    exact (hm.getCore core).trans (getCore_setCore ..)
  have hbytes : getBytes m (rowAddr oc orow) 4096 = getBytes s (rowAddr oc orow) 4096 := by rw [getBytes, getBytes, hm.mem]; rfl
  refine ⟨?_, ?_, by rw [hcore]; rfl⟩
  · rw [e, hbytes]
    show Memory.put m.mem _ _ = _
    rw [hm.mem]
    rfl
  · rw [hcore]
    exact List.mem_append_right _ List.mem_cons_self

/-- A thread that parked for a part's fill is RUN. -/
def runFilled (handle part : Nat) (s : State) (t : Thr) : State :=
  if waitsForFill s t && fetchesFrom s t handle part then unpark s t else s

theorem codeRowFilled_eq {s : State} {core handle part : Nat} (hm : ∀ b, mode s core 7 ≠ .refreshing b)
    (hd : codeOwnerDown s core handle part = false) :
    codeRowFilled s core handle part =
      (ctlThreads (fillCodeRow s core handle part) core).foldl (runFilled handle part) (fillCodeRow s core handle part) := by
  unfold codeRowFilled
  split
  · next b h => exact absurd h (hm b)
  · rw [hd, if_neg (by decide)]
    rfl

/-- Another thread of the core keeps its control words when a thread leaves PARKED. -/
theorem getC_unpark_of_ne (s : State) {t u : Thr} (hc : u.core = t.core) (h : u ≠ t) {n : Nat} (hn : n < 16) :
    getC (unpark s t) u n = getC s u n := by
  have hr : u.row ≠ t.row := fun hr => h (by cases t; cases u; simp_all)
  refine (unpark_unchanged s t).getC fun i hi => ?_
  unfold parkBytes within cAddr rowAddr
  rw [hc]
  omega

theorem foldl_runFilled_unchanged (handle part : Nat) (l : List Thr) (s : State) :
    UnchangedBut s (l.foldl (runFilled handle part) s) fun a => ∃ t ∈ l, parkBytes t a := by
  refine l.foldlRecOn (motive := fun u => UnchangedBut s u fun a => ∃ t ∈ l, parkBytes t a) _ (.refl s _) fun u hu t ht => hu.trans ?_
  unfold runFilled
  split
  · exact (unpark_unchanged u t).mono fun a ha => ⟨t, ht, ha⟩
  · exact .refl u _

/-- The thread parked for the fill, or runs. -/
def Filled (handle part : Nat) (l : List Thr) (s : State) (t : Thr) : Prop :=
  (t ∈ l ∧ waitsForFill s t = true ∧ fetchesFrom s t handle part = true) ∨ (tstate s t = 2 ∧ getC s t 2 = 0)

theorem filled_runFilled {handle part : Nat} {l : List Thr} {s : State} {x t : Thr} (hc : t.core = x.core)
    (h : Filled handle part (x :: l) s t) : Filled handle part l (runFilled handle part s x) t := by
  unfold runFilled
  by_cases ht : t = x
  · subst ht
    obtain ⟨-, hw, hf⟩ | ⟨hst, h2⟩ := h
    · rw [hw, hf, Bool.and_self, if_pos rfl]
      exact .inr ⟨tstate_unpark s t, getC_unpark_park s t⟩
    · have hw : waitsForFill s t = false := by simp [waitsForFill, hst, stParked]
      rw [hw, Bool.false_and, if_neg (by decide)]
      exact .inr ⟨hst, h2⟩
  · have hkeep : Filled handle part l s t := h.imp_left fun h => ⟨(List.mem_cons.1 h.1).resolve_left ht, h.2⟩
    split
    · have hctl : ∀ n, n < 16 → getC (unpark s x) t n = getC s t n := fun n hn => getC_unpark_of_ne s hc ht hn
      have hst : tstate (unpark s x) t = tstate s t := tstate_congr (hctl 0 (by decide))
      have hw : waitsForFill (unpark s x) t = waitsForFill s t := by rw [waitsForFill, waitsForFill, hst, hctl 2 (by decide)]
      have hf : fetchesFrom (unpark s x) t handle part = fetchesFrom s t handle part := by
        rw [fetchesFrom, fetchesFrom, codeOf, codeOf, pcOf, pcOf, hctl 1 (by decide)]
      rwa [Filled, hst, hw, hf, hctl 2 (by decide)]
    · exact hkeep

theorem foldl_runFilled_runs {handle part core : Nat} (l : List Thr) (hl : ∀ t ∈ l, t.core = core) {s : State} {t : Thr} (hc : t.core = core)
    (h : Filled handle part l s t) :
    tstate (l.foldl (runFilled handle part) s) t = 2 ∧ getC (l.foldl (runFilled handle part) s) t 2 = 0 := by
  induction l generalizing s with
  | nil => exact h.resolve_left (by simp)
  | cons x l ih => exact ih (fun y hy => hl y (List.mem_cons_of_mem _ hy)) (filled_runFilled (hc.trans (hl x List.mem_cons_self).symm) h)

end Sys2Proof.Machine

namespace Sys2Proof.Claims
open Machine

theorem CoreOnly.trans {s t u : State} {core : Nat} (h : CoreOnly s t core) (k : CoreOnly t u core) : CoreOnly s u core :=
  ⟨k.mem.trans h.mem, fun c hc => (k.others c hc).trans (h.others c hc), k.now.trans h.now, k.tiles.trans h.tiles,
    k.stackSt.trans h.stackSt, k.reqs.trans h.reqs, k.pairs.trans h.pairs⟩

end Sys2Proof.Claims

namespace Sys2Proof
open Machine

theorem codeRow_opens {s : State} {core row : Nat} {x : CodeRow} (hd : s.doing = some (.codeRowOpen core row))
    (h : (getCore s core).code.find? (fun y => y.row = row) = some x) :
    Claims.Performs s (.codeRowOpen core row) fun t =>
      row ∈ (getCore t core).buffers ∧ (getCore t core).buffers.length ≤ 2 ∧ Claims.CoreOnly s t core ∧
      (∀ th ∈ ctlThreads s core, fetchesFrom s th x.handle x.part = true → awaitsOpening s th = false → (getThr t th).codeWait = false) ∧
      ∀ th ∈ ctlThreads s core, awaitsOpening s th = true → (getThr t th).codeWait = (getThr s th).codeWait := by
  have hcore : getCore (buffersOpened s core row) core = { getCore s core with buffers := openedBuffers (getCore s core) row } :=
    getCore_setCore ..
  obtain ⟨hsame, hthr⟩ := foldl_goOn (s := buffersOpened s core row) (ctlThreads s core) (fun t ht => core_of_mem_ctlThreads ht)
    ⟨.refl _ core, rfl, rfl, rfl⟩
  have hawait : ∀ th ∈ ctlThreads s core, awaitsOpening (buffersOpened s core row) th = awaitsOpening s th := fun th ht =>
    awaitsOpening_congr th rfl rfl (by rw [core_of_mem_ctlThreads ht, hcore])
  have hctl : ∀ th ∈ ctlThreads s core, getThr (buffersOpened s core row) th = getThr s th := fun th ht => by
    rw [getThr, getThr, core_of_mem_ctlThreads ht, hcore]
  obtain ⟨hmem, hlen⟩ := openedBuffers_spec (getCore s core) row
  have hbufs : (getCore ((ctlThreads s core).foldl goOn (buffersOpened s core row)) core).buffers = openedBuffers (getCore s core) row :=
    hsame.bufs.trans (congrArg CoreSt.buffers hcore)
  refine ⟨(ctlThreads s core).foldl goOn (buffersOpened s core row), ?_, ?_⟩
  · show execCodeRowOpen s = .next ((ctlThreads s core).foldl goOn (buffersOpened s core row))
    rw [← codeRowOpened_eq h]
    simp only [execCodeRowOpen, hd]
  · refine ⟨hbufs ▸ hmem, hbufs ▸ hlen, ?_, fun th ht _ ha => ?_, fun th ht ha => ?_⟩
    · exact .trans (.setCore (.refl s core)) hsame.only
    · exact (hthr th (core_of_mem_ctlThreads ht)).2 ((hawait th ht).trans ha) (.inl ht)
    · exact ((hthr th (core_of_mem_ctlThreads ht)).1 ((hawait th ht).trans ha)).trans (congrArg _ (hctl th ht))

theorem codeRow_fills {s : State} {core h part oc orow : Nat} {r : Rec} (hd : s.doing = some (.codeRowFill core h part))
    (hm : ∀ b, Claims.mode s core 7 ≠ .refreshing b) (hr : codeRecord s core h = some r)
    (hp : computedPlace s (slotOf s (tileOf core)) r part = some (oc, orow)) (hup : stackDown s (stackOf oc) = false) :
    ∃ u c, c ∈ (getCore u core).code ∧ c.handle = h ∧ c.part = part ∧
      (∀ i, i < 4096 → Memory.get u.mem (rowAddr core c.row + i) = Memory.get s.mem (rowAddr oc orow + i)) ∧
      UnchangedBut s u (within (rowAddr core c.row) 4096) ∧
      Claims.Performs s (.codeRowFill core h part) fun t =>
        UnchangedBut u t (fun a => ∃ th ∈ ctlThreads s core, parkBytes th a) ∧
        ∀ th ∈ ctlThreads s core, waitsForFill u th = true → fetchesFrom u th h part = true → tstate t th = 2 ∧ getC t th 2 = 0 := by
  obtain ⟨hmem, hcode, hthr⟩ := fillCodeRow_gives hr hp
  have hdown : codeOwnerDown s core h part = false := by simp only [codeOwnerDown, hr, hp, hup]
  have hctl : ctlThreads (fillCodeRow s core h part) core = ctlThreads s core := by rw [ctlThreads, ctlThreads, hthr]
  refine ⟨fillCodeRow s core h part, _, hcode, rfl, rfl, fun i hi => ?_, fun a ha => ?_, codeRowFilled s core h part, ?_, ?_⟩
  · dsimp only
    rw [hmem, Memory.get_put, getBytes_length, if_pos (by omega), Nat.add_sub_cancel_left, getD_getBytes s hi]
  · rw [hmem, Memory.get_put, getBytes_length]
    exact if_neg ha
  · show execCodeRowFill s = _
    simp only [execCodeRowFill, hd]
  · rw [codeRowFilled_eq hm hdown, hctl]
    exact ⟨foldl_runFilled_unchanged h part _ _, fun th ht hw hf => foldl_runFilled_runs _ (fun t ht => core_of_mem_ctlThreads ht)
      (core_of_mem_ctlThreads ht) (.inl ⟨ht, hw, hf⟩)⟩

theorem codeRows : Claims.CodeRows := fun _ _ =>
  ⟨fun _ _ hd h => codeRow_opens hd h, fun _ _ _ _ _ hd hm hr hp hup => codeRow_fills hd hm hr hp hup⟩

/-- Nothing of the core but its queue changes when an access joins one whose subarray is closed. -/
theorem joinQueue_closed {s : State} {core row : Nat} (a : QDo) (hm : Claims.mode s core (subOf (getCore s core) row) = .closed) :
    let u := joinQueue s core row a
    Claims.CoreOnly s u core ∧ getCore u core = { getCore s core with oq := (getCore s core).oq ++ [⟨s.now, row, a⟩] } := by
  have hset := Claims.CoreOnly.setCore (.refl s core) (x := { getCore s core with oq := (getCore s core).oq ++ [⟨s.now, row, a⟩] })
  have hmode : (getSub (setCore s core { getCore s core with oq := (getCore s core).oq ++ [⟨s.now, row, a⟩] }) core
      (subOf (getCore s core) row)).mode = .closed := by rw [getSub, getCore_setCore]; exact hm
  unfold joinQueue kick
  dsimp only
  rw [hmode]
  dsimp only
  split
  · exact ⟨hset.post, (getCore_post ..).trans (getCore_setCore ..)⟩
  · exact ⟨hset, getCore_setCore ..⟩

theorem core_gates {s : State} {core : Nat} (hd : s.doing = some (.coreGate core)) (hg : gateDue s core = true) :
    Claims.Performs s (.coreGate core) fun t =>
      (getCore t core).gated = true ∧ (getCore t core).credits = 32 ∧ Claims.CoreOnly s t core ∧
        ¬ Claims.Coming t (.run (.creditEarned core)) := by
  refine ⟨coreGate s core, ?_, ?_⟩
  · show execCoreGate s = _
    simp only [execCoreGate, hd]
  · rw [coreGate, if_pos hg, modCore]
    beta_reduce
    rw [getCore_setCore]
    refine ⟨rfl, rfl, .trans (t := unpost s (.creditEarned core)) ⟨rfl, fun _ _ => rfl, rfl, rfl, rfl, rfl, rfl⟩ (.setCore (.refl _ core)), ?_⟩
    rintro ⟨x, hx, e⟩
    have := (List.mem_filter.1 hx).2
    simp [e] at this

/-- A core that wakes. -/
def woken (s : State) (core : Nat) : State := setCore s core { getCore s core with gated := false, held := [], lastAct := s.now }

theorem exec_coreWake {s : State} {core : Nat} (hd : s.doing = some (.coreWake core)) :
    exec (Event.coreWake core).instr s = .next (admitHeld (woken s core) core (getCore s core).held) := by
  show execCoreWake s = _
  simp only [execCoreWake, hd]
  rfl

theorem core_wakes {s : State} {core : Nat} (hd : s.doing = some (.coreWake core)) (hh : (getCore s core).held = []) :
    Claims.Performs s (.coreWake core) fun t => (getCore t core).gated = false ∧ Claims.CoreOnly s t core := by
  refine ⟨_, exec_coreWake hd, ?_⟩
  rw [hh, admitHeld, modCore]
  beta_reduce
  rw [getCore_setCore, woken, getCore_setCore]
  exact ⟨rfl, .setCore (.setCore (.refl s core))⟩

theorem core_wakes_held {s : State} {core row : Nat} {e : QDo} (hd : s.doing = some (.coreWake core)) (hh : (getCore s core).held = [(row, e)])
    (hq : queueFull (getCore s core) = false) (hm : Claims.mode s core (subOf (getCore s core) row) = .closed) :
    Claims.Performs s (.coreWake core) fun t =>
      (getCore t core).gated = false ∧ (getCore t core).held = [] ∧ Claims.CoreOnly s t core ∧
        (getCore t core).oq = (getCore s core).oq ++ [⟨s.now, row, e⟩] := by
  have hcore : getCore (woken s core) core = { getCore s core with gated := false, held := [], lastAct := s.now } := getCore_setCore ..
  have hq' : queueFull (getCore (woken s core) core) = false := by rw [hcore]; exact hq
  have hm' : Claims.mode (woken s core) core (subOf (getCore (woken s core) core) row) = .closed := by
    rw [Claims.mode, getSub, hcore]
    exact hm
  obtain ⟨hcoreOnly, hjoin⟩ := joinQueue_closed e hm'
  refine ⟨_, exec_coreWake hd, ?_⟩
  rw [hh, admitHeld, hq', if_neg (by decide), admitHeld, modCore]
  beta_reduce
  rw [getCore_setCore, hjoin, hcore]
  exact ⟨rfl, rfl, (Claims.CoreOnly.setCore (.refl s core)).trans hcoreOnly.setCore, rfl⟩

theorem gating : Claims.Gating := fun _ _ =>
  ⟨fun hd hg => core_gates hd hg, fun hd hh => core_wakes hd hh, fun _ _ hd hh hq _ hm => core_wakes_held hd hh hq hm⟩

/-- Settles O27: `codeRows` and `gating`. -/
theorem codeRowsAndGating : Obligations.CodeRowsAndGating := ⟨codeRows, gating⟩

end Sys2Proof
end

section
/-! PROOFS. Firmware, attestation, bring-up and physical events (O43). -/
namespace Sys2Proof.Machine

/-! ### The digest and the report (R207) -/

theorem length_hashRound (a : List Word) (rc : Word) : (hashRound a rc).length = 25 := by simp [hashRound]

theorem length_foldl_hashRound (l : List Word) (a : List Word) (h : l ≠ []) : (l.foldl hashRound a).length = 25 := by
  obtain ⟨l, rc, rfl⟩ := List.eq_nil_or_concat' l |>.resolve_left h
  rw [List.foldl_append]
  exact length_hashRound ..

theorem length_hashBlocks (n : Nat) {st : List Word} (l : List Word) (h : st.length = 25) : (hashBlocks n st l).length = 25 := by
  induction n generalizing st l with
  | zero => exact h
  | succ n ih => exact ih _ (length_foldl_hashRound _ _ (List.cons_ne_nil _ _))

theorem length_sha3 (l : List Word) : (sha3 l).length = 4 := by
  rw [sha3, List.length_take, length_hashBlocks _ _ List.length_replicate]
  rfl

/-- Four parts of four words, and a last word. -/
theorem parts_of_report {a b c d : List Word} {x : Word} (ha : a.length = 4) (hb : b.length = 4) (hc : c.length = 4) (hd : d.length = 4) :
    let l := a ++ b ++ c ++ d ++ [x]
    (∀ i, i < 4 → l.getD i 0 = a.getD i 0) ∧ (l.drop 4).take 4 = b ∧ (l.drop 8).take 4 = c ∧ (l.drop 12).take 4 = d ∧
      l.getD 16 0 = x ∧ l.length = 17 := by
  refine ⟨fun i hi => ?_, ?_, ?_, ?_, ?_, ?_⟩
  · simp [List.getD_eq_getElem?_getD, List.append_assoc, List.getElem?_append, ha, hi]
  · simp [List.append_assoc, ha, hb]
  · simp [List.append_assoc, List.drop_append, List.take_append, ha, hb, hc]
  · rw [List.append_assoc (a ++ b ++ c) d [x], List.drop_left' (by simp [ha, hb, hc]), List.take_left' hd]
  · simp [List.getD_eq_getElem?_getD, List.append_assoc, ha, hb, hc, hd]
  · simp [ha, hb, hc, hd]

end Sys2Proof.Machine

namespace Sys2Proof
open Machine

section
variable {s : State}

theorem firmware_staged {port : Nat} {image : List Word} {good : Bool} (hd : s.doing = some (.firmwareStage port image good)) :
    Claims.Performs s (.firmwareStage port image good) fun t =>
      (port < 2 ∧ s.io.hsem.toNat = port + 1 ∧ good = true → t = { s with io := { s.io with image := image, staged := true, firmwareOk := true } }) ∧
      (¬ (port < 2 ∧ s.io.hsem.toNat = port + 1 ∧ good = true) → t = s) := by
  have hcond : (holdsHsem s port && good) = true ↔ port < 2 ∧ s.io.hsem.toNat = port + 1 ∧ good = true := by
    simp [holdsHsem, and_assoc]
  refine ⟨if holdsHsem s port && good then { s with io := { s.io with image := image, staged := true, firmwareOk := true } } else s, ?_,
    fun h => if_pos (hcond.2 h), fun h => if_neg (mt hcond.1 h)⟩
  show execFirmwareStage s = _
  simp only [execFirmwareStage, hd]

theorem attestation_reported {sig : List Byte} (hd : s.doing = some (.attestationRequest sig)) (hl : sig.length = 2420) :
    Claims.Performs s (.attestationRequest sig) fun t =>
      t = { s with io := { s.io with reports := s.io.reports + 1, report := t.io.report, signature := sig } } ∧
      (∀ i, i < 4 → t.io.report.getD i 0 = BitVec.ofNat 64 (ofBytes ((s.io.nonce.drop (8 * i)).take 8))) ∧
      (t.io.report.drop 4).take 4 = sha3 s.io.running ∧
      (t.io.report.drop 8).take 4 = sha3 ((List.range (8 * 2048)).map fun i => (look 0#512 s.absent (i / 8)).extractLsb' (64 * (i % 8)) 64) ∧
      (t.io.report.drop 12).take 4 = sha3 (partitionWords s) ∧
      t.io.report.getD 16 0 = s.io.reports + 1 ∧ t.io.report.length = 17 := by
  obtain ⟨h0, h4, h8, h12, h16, hlen⟩ := parts_of_report (x := s.io.reports + 1)
    (a := (List.range 4).map (fun i => BitVec.ofNat 64 (ofBytes ((s.io.nonce.drop (8 * i)).take 8)))) (by simp)
    (length_sha3 s.io.running) (length_sha3 ((List.range (8 * Config.tiles)).map (carvingWord s))) (length_sha3 (partitionWords s))
  refine ⟨{ s with io := { s.io with reports := s.io.reports + 1, report := reportWords s (s.io.reports + 1), signature := sig } }, ?_,
    rfl, fun i hi => (h0 i hi).trans ?_, h4, h8, h12, h16, hlen⟩
  · show execAttestationRequest s = _
    simp only [execAttestationRequest, hd, List.take_of_length_le (Nat.le_of_eq hl)]
  · simp [List.getD_eq_getElem?_getD, hi]

theorem brought_up {ab : List (Nat × BitVec 512)} {good : Bool} (hd : s.doing = some (.bringUp ab good)) :
    Claims.Performs s (.bringUp ab good) fun t =>
      (∀ a, Memory.get t.mem a = 0) ∧ (∀ a, isFull t a = true) ∧ t.io.published = good ∧ t.absent = ab ∧
      (∀ c, (getCore t c).credits = 32) ∧ t.io.launches = [] ∧ t.io.parts = [] ∧ t.io.running = s.io.image := by
  refine ⟨broughtUp s ab good, ?_, fun _ => rfl, fun _ => rfl, rfl, rfl, fun _ => rfl, rfl, rfl, rfl⟩
  show execBringUp s = _
  simp only [execBringUp, hd]

theorem power_sampled {w : BitVec 13} {i : BitVec 32} (hd : s.doing = some (.powerSample w i)) :
    Claims.Performs s (.powerSample w i) fun t => t = { s with io := { s.io with pwrWatts := w, pwrIssue := i } } := by
  refine ⟨_, ?_, rfl⟩
  show execPowerSample s = _
  simp only [execPowerSample, hd]

theorem bit_error_stored {th : Thr} {wi : Nat} {dbl : Bool} (hd : s.doing = some (.bitError th wi dbl)) (hc : corePresent s th.core = true)
    (hrow : th.row < 96) :
    Claims.Performs s (.bitError th wi dbl) fun t =>
      let a := rowAddr th.core th.row + 8 * wi
      (a, dbl || s.bitErrs.any fun e => e.1 == a) ∈ t.bitErrs ∧ t.mem = s.mem ∧ t.poison = s.poison ∧
      ∀ e ∈ t.bitErrs, e.1 ≠ a → e ∈ s.bitErrs := by
  have e : bitFlips s th wi dbl =
      { s with bitErrs := s.bitErrs.filter (fun e => e.1 ≠ rowAddr th.core th.row + 8 * wi) ++
        [(rowAddr th.core th.row + 8 * wi, dbl || s.bitErrs.any fun e => e.1 = rowAddr th.core th.row + 8 * wi)] } := by
    rw [bitFlips]
    exact if_neg (by simp [hc]; omega)
  refine ⟨bitFlips s th wi dbl, ?_, ?_⟩
  · show execBitError s = _
    simp only [execBitError, hd]
  · rw [e]
    refine ⟨List.mem_append_right _ List.mem_cons_self, rfl, rfl, fun x hx hne => ?_⟩
    obtain hx | hx := List.mem_append.1 hx
    · exact (List.mem_filter.1 hx).1
    · exact absurd (congrArg Prod.fst (List.mem_singleton.1 hx)) hne

theorem sub_array_fault_noted {tile k : Nat} (hd : s.doing = some (.subArrayFault tile k)) (hk : k < 66) (hf : k ∉ (getTile s tile).fenced) :
    Claims.Performs s (.subArrayFault tile k) fun t =>
      k ∈ (getTile t tile).faulty ∧ (getTile t tile).fenced = (getTile s tile).fenced ∧ t.mem = s.mem := by
  refine ⟨modTile s tile fun t => { t with faulty := insertNat k t.faulty }, ?_, ?_, ?_, rfl⟩
  · show execSubArrayFault s = _
    simp [execSubArrayFault, hd, hk, hf]
  · rw [modTile, setTile, getTile, look_store, if_pos rfl]
    exact mem_insertNat.2 (.inl rfl)
  · rw [modTile, setTile, getTile, look_store, if_pos rfl]

theorem temperature_noted {k : Nat} {hot : Bool} (hd : s.doing = some (.temperatureSensor k hot)) :
    Claims.Performs s (.temperatureSensor k hot) fun t =>
      (getStack t k).hot = hot ∧ t = { s with stackSt := t.stackSt } ∧ ∀ j, j ≠ k → getStack t j = getStack s j := by
  refine ⟨modStack s k fun x => { x with hot := hot }, ?_, ?_, rfl, fun j hj => ?_⟩
  · show execTemperatureSensor s = _
    simp only [execTemperatureSensor, hd]
  · rw [modStack, setStack, getStack, look_store, if_pos rfl]
  · rw [modStack, setStack, getStack, look_store, if_neg (Ne.symm hj), getStack]

end

/-- Settles O43: one lemma for each step. -/
theorem firmwareAndPhysicalEvents : Obligations.FirmwareAndPhysicalEvents := fun _ =>
  ⟨fun _ _ _ hd => firmware_staged hd, fun _ hd hl => attestation_reported hd hl, fun _ _ hd => brought_up hd,
    fun _ _ hd => power_sampled hd, fun _ _ _ hd hc hrow => bit_error_stored hd hc hrow,
    fun _ _ hd hk hf => sub_array_fault_noted hd hk hf, fun _ _ hd => temperature_noted hd⟩

end Sys2Proof
end

section
/-! PROOFS. Swapping (O37): a launch of one narrow thread is saved to its swap object, and comes back. -/
namespace Sys2Proof.Machine
open Claims

/-! ### Where the rows of a swap object are -/

/-- What translations to an object's place read is the same: memory, the tiles, and what the I/O die says of partitions and stacks. -/
structure SameTables (s t : State) : Prop where
  mem    : t.mem = s.mem
  poison : t.poison = s.poison
  errs   : t.bitErrs = s.bitErrs
  tiles  : t.tiles = s.tiles
  absent : t.absent = s.absent
  parts  : t.io.parts = s.io.parts
  devid  : t.io.devid = s.io.devid
  health : t.io.health = s.io.health

namespace SameTables
variable {s t : State}

theorem getTile (h : SameTables s t) (k : Nat) : getTile t k = getTile s k := by rw [Machine.getTile, Machine.getTile, h.tiles]

theorem getPart (h : SameTables s t) (k : Nat) : getPart t k = getPart s k := by rw [Machine.getPart, Machine.getPart, h.parts]

theorem getWord (h : SameTables s t) (a : Nat) : getWord t a = getWord s a := by
  rw [Machine.getWord, Machine.getWord, getNat, getNat, getBytes, getBytes, h.mem]

theorem stackDown (h : SameTables s t) (k : Nat) : stackDown t k = stackDown s k := by
  rw [Machine.stackDown, Machine.stackDown, healthOf, healthOf, h.health]

theorem inSlot (h : SameTables s t) (slot k : Nat) : inSlot t slot k = inSlot s slot k := by rw [Machine.inSlot, Machine.inSlot, h.getTile]

theorem presentIn (h : SameTables s t) (k : Nat) : presentIn t k = presentIn s k := by rw [Machine.presentIn, Machine.presentIn, h.absent]

theorem kthFrom (h : SameTables s t) (slot n tile i k : Nat) : kthFrom t slot n tile i k = kthFrom s slot n tile i k := by
  induction n generalizing tile i k with
  | zero => rfl
  | succ n ih => simp only [Machine.kthFrom, h.inSlot, h.presentIn, ih]

theorem placeSub (h : SameTables s t) (slot : Nat) (w : Word) (S n : Nat) : placeSub t slot w S n = placeSub s slot w S n := by
  simp only [Machine.placeSub, kthCore, h.kthFrom]

theorem placeOk (h : SameTables s t) (slot : Nat) (w : Word) (S : Nat) : placeOk t slot w S = placeOk s slot w S := by
  simp only [Machine.placeOk, kthCore, h.kthFrom]

theorem elemAddr (h : SameTables s t) (slot : Nat) (w : Word) (ext e : Nat) : elemAddr t slot w ext e = elemAddr s slot w ext e := by
  simp only [Machine.elemAddr, h.placeSub]

theorem handleOk (h : SameTables s t) (slot handle : Nat) : handleOk t slot handle = handleOk s slot handle := by
  rw [Machine.handleOk, Machine.handleOk, h.getPart]

theorem recordNow (h : SameTables s t) (slot handle : Nat) : recordNow t slot handle = recordNow s slot handle := by
  simp only [Machine.recordNow, h.handleOk, recordPlace, readWords, h.getPart, h.elemAddr, h.getWord]

theorem placeFits (h : SameTables s t) (slot : Nat) (r : Rec) : placeFits t slot r = placeFits s slot r := by
  simp only [Machine.placeFits, h.placeOk]

theorem handleRecOk (h : SameTables s t) (slot handle : Nat) (r : Rec) : handleRecOk t slot handle r = handleRecOk s slot handle r := by
  rw [Machine.handleRecOk, Machine.handleRecOk, h.placeFits]

theorem tableOk (h : SameTables s t) (slot : Nat) (r x : Rec) : tableOk t slot r x = tableOk s slot r x := by
  rw [Machine.tableOk, Machine.tableOk, recOk, recOk, h.placeFits]

theorem validNow (h : SameTables s t) (slot handle : Nat) : validNow t slot handle = validNow s slot handle := by
  simp only [Machine.validNow, h.recordNow, h.handleRecOk, h.tableOk]

theorem entryAddr (h : SameTables s t) (slot handle n : Nat) : entryAddr t slot handle n = entryAddr s slot handle n := by
  simp only [Machine.entryAddr, entryPlace, h.recordNow, h.elemAddr]

theorem homeOf (h : SameTables s t) (slot : Nat) (o : Opd) (n : Nat) (w : Bool) : homeOf t slot o n w = homeOf s slot o n w := by
  have hspoiled : ∀ a, spoiled t a = spoiled s a := fun a => by rw [spoiled, spoiled, isPoisoned, isPoisoned, h.poison, h.errs]
  have hwords : entryWords t slot o n = entryWords s slot o n := by simp only [entryWords, h.entryAddr]
  have hany : (entryWords s slot o n).any (spoiled t) = (entryWords s slot o n).any (spoiled s) := by rw [funext hspoiled]
  simp only [Machine.homeOf, h.entryAddr, h.stackDown, hwords, hany, readWords, h.getWord, computedPlace, h.placeSub, h.devid]

theorem swapRow (h : SameTables s t) (slot handle n : Nat) : swapRow t slot handle n = swapRow s slot handle n := by
  simp only [Machine.swapRow, h.validNow, h.homeOf, h.devid, h.stackDown]

end SameTables


/-! ### What the steps of a swap leave unchanged -/

/-- Bytes outside of w, the pairs and the launches are as before. -/
structure RowsMoved (s t : State) (w : Nat → Prop) : Prop where
  frame    : UnchangedBut s t w
  pairs    : t.pairs = s.pairs
  launches : t.io.launches = s.io.launches

namespace RowsMoved
variable {s t u : State} {w : Nat → Prop}

theorem refl (s : State) (w : Nat → Prop) : RowsMoved s s w := ⟨.refl s w, rfl, rfl⟩

theorem trans (h : RowsMoved s t w) (k : RowsMoved t u w) : RowsMoved s u w :=
  ⟨h.frame.trans k.frame, k.pairs.trans h.pairs, k.launches.trans h.launches⟩

theorem mono {w' : Nat → Prop} (h : RowsMoved s t w) (hw : ∀ a, w a → w' a) : RowsMoved s t w' := { h with frame := h.frame.mono hw }

theorem ofReadOnly (h : ReadOnly s t) (w : Nat → Prop) : RowsMoved s t w := by
  obtain ⟨a, b, e⟩ := h.io
  exact ⟨h.unchangedBut w, h.pairs, by rw [e]⟩

theorem ofVisit (s : State) (th : Thr) (w : Nat → Prop) : RowsMoved s (visit s th) w := ⟨fun _ _ => rfl, rfl, rfl⟩

theorem ofSetC (s : State) (th : Thr) (n : Nat) (x : Word) : RowsMoved s (setC s th n x) (within (cAddr th n) 8) :=
  ⟨setC_unchanged s th n x, rfl, rfl⟩

theorem ofFold {ι : Type} {f : State → ι → State} {l : List ι} (h : ∀ s, ∀ i ∈ l, RowsMoved s (f s i) w) (s : State) :
    RowsMoved s (l.foldl f s) w :=
  l.foldlRecOn f (motive := fun u => RowsMoved s u w) (refl s w) fun u hu i hi => hu.trans (h u i hi)

theorem pairOf (h : RowsMoved s t w) (th : Thr) : pairOf t th = pairOf s th := by rw [Machine.pairOf, Machine.pairOf, h.pairs]

end RowsMoved

/-! ### Segments -/

/-- The bytes of segment k of a row. -/
def segment (th : Thr) (k : Nat) : Nat → Prop := within (rowAddr th.core th.row + 64 * k) 64

/-- The bytes of a row. -/
def wholeRow (th : Thr) : Nat → Prop := within (rowAddr th.core th.row) 4096

theorem wholeRow_of_segment {th : Thr} {k a : Nat} (hk : k < 64) (h : segment th k a) : wholeRow th a := by
  unfold segment wholeRow within at *
  omega

theorem wholeRow_of_cAddr {th : Thr} {n a : Nat} (hn : n < 16) (h : within (cAddr th n) 8 a) : wholeRow th a := by
  unfold wholeRow within cAddr at *
  omega

theorem not_wholeRow_of_ne {x y : Thr} (h : x ≠ y) (hx : x.row < 84) (hy : y.row < 84) {j : Nat} (hj : j < 4096) :
    ¬ wholeRow y (rowAddr x.core x.row + j) := by
  obtain ⟨xc, xr⟩ := x
  obtain ⟨yc, yr⟩ := y
  simp only [ne_eq, Thr.mk.injEq] at h
  unfold wholeRow within rowAddr
  dsimp only at *
  omega

theorem mem_segments {c5 : Word} {k : Nat} (hk : k < 64) (h : c5.getLsbD k = true) : k ∈ segments c5 :=
  List.mem_filter.2 ⟨List.mem_range.2 hk, by rw [BitVec.getLsbD_or, h, Bool.true_or]⟩

theorem lt_of_mem_segments {c5 : Word} {k : Nat} (h : k ∈ segments c5) : k < 64 := List.mem_range.1 (List.mem_filter.1 h).1

/-- The byte that a copy of a row takes at j: as the thread reads it, or as it is stored. -/
def copiedByte (s : State) (own : Bool) (src : Thr) (j : Nat) : Byte :=
  if own then ownByte s src j else Memory.get s.mem (rowAddr src.core src.row + j)

theorem copiedByte_congr {s u : State} {own : Bool} {src : Thr} {j : Nat} (hr : src.row < 84) (hj : j < 4096)
    (h : Memory.get u.mem (rowAddr src.core src.row + j) = Memory.get s.mem (rowAddr src.core src.row + j)) :
    copiedByte u own src j = copiedByte s own src j := by
  have hown : ownAddr src j = rowAddr src.core src.row + j := if_pos hj
  have hne : src.row ≠ 84 := by omega
  simp [copiedByte, ownByte, hown, hne, h]

theorem copySegment_moves (s : State) (own : Bool) (src dst : Thr) (k : Nat) : RowsMoved s (copySegment s own src dst k) (segment dst k) := by
  unfold copySegment
  dsimp only
  refine (RowsMoved.ofReadOnly ((ReadOnly.refl s).touch ..) _).trans ⟨?_, rfl, rfl⟩
  refine (putBytes_unchanged _ _ _).mono fun a ha => ?_
  have hlen : ∀ u, (if own then ownBytes u src (64 * k) 64 else getBytes u (rowAddr src.core src.row + 64 * k) 64).length = 64 := by
    intro u
    cases own
    · exact getBytes_length ..
    · exact length_ownBytes ..
  rwa [hlen] at ha

theorem get_copySegment (s : State) (own : Bool) {src : Thr} (dst : Thr) {k i : Nat} (hr : src.row < 84) (hk : k < 64) (hi : i < 64) :
    Memory.get (copySegment s own src dst k).mem (rowAddr dst.core dst.row + 64 * k + i) = copiedByte s own src (64 * k + i) := by
  have hread := (ReadOnly.refl s).touch (rowAddr src.core src.row + 64 * k) 64
  rw [← copiedByte_congr (own := own) hr (by omega) (congrArg (Memory.get · _) hread.mem)]
  unfold copySegment putCopy copiedByte
  dsimp only
  rw [putBytes_mem, Memory.get_put]
  cases own
  · simp only [Bool.false_eq_true, if_false, getBytes_length]
    rw [if_pos (by omega), Nat.add_sub_cancel_left, getD_getBytes _ hi, Nat.add_assoc]
  · simp only [if_true, length_ownBytes]
    rw [if_pos (by omega), Nat.add_sub_cancel_left, List.getD_eq_getElem _ _ (by rwa [length_ownBytes]), getElem_ownBytes]

/-- A byte of a segment after the segments of a row were written, each once. -/
theorem get_foldl_segments {f : State → Nat → State} {dst : Thr} {l : List Nat} (hl : ∀ k ∈ l, k < 64)
    (hf : ∀ u k, k ∈ l → RowsMoved u (f u k) (segment dst k)) (s : State) {k i : Nat} {x : Byte} (hk : k ∈ l) (hi : i < 64)
    (hx : ∀ u, UnchangedBut s u (wholeRow dst) → Memory.get (f u k).mem (rowAddr dst.core dst.row + 64 * k + i) = x) :
    Memory.get (l.foldl f s).mem (rowAddr dst.core dst.row + 64 * k + i) = x := by
  rw [get_foldl_writes_of_inv (rowAddr dst.core dst.row + 64 * k + i) x (UnchangedBut s · (wholeRow dst)) (· = k) f l _ _ (.refl s _),
    if_pos ⟨k, hk, rfl⟩]
  · exact fun u hu j hj => hu.trans ((hf u j hj).frame.mono fun a => wholeRow_of_segment (hl j hj))
  · intro u hu j hj
    split_ifs with h
    · subst h
      exact hx u hu
    · refine (hf u j hj).frame _ ?_
      unfold segment within
      omega

/-! ### A thread saved -/

/-- The row of a thread after its stub is written: ABSENT, with PRIO, c7 and the state to restore. -/
def stubbed (s : State) (t : Thr) (kept : Nat) : State :=
  setC (setC (setC (zeroRow s t.core t.row) t 0 (BitVec.ofNat 64 (prioOf s t * 512 + stAbsent * 16))) t 7 (getC s t 7)) t 2 (BitVec.ofNat 64 kept)

/-- A thread's segments copied to a row of the swap object. -/
def segmentsSaved (s : State) (t d : Thr) : State :=
  visit ((segments (getC s t 5)).foldl (fun s k => copySegment s true t d k) s) d

/-- What the treadle keeps of a thread that is swapped out. -/
def absentCtl (c : ThrCtl) : ThrCtl := { c with lastIssue := none, long := none, reply := none, yielded := false, codeWait := false }

/-- The machine when a thread was saved to row d of the swap object. -/
def savedThread (s : State) (t d : Thr) : State := visit (modThr (stubbed (segmentsSaved s t d) t (tstate s t)) t absentCtl) t

theorem savedThread_mem (s : State) (t d : Thr) : (savedThread s t d).mem = (stubbed (segmentsSaved s t d) t (tstate s t)).mem := rfl

theorem segmentsSaved_moves (s : State) (t d : Thr) : RowsMoved s (segmentsSaved s t d) (wholeRow d) :=
  .trans (.ofFold (fun u k hk => (copySegment_moves u true t d k).mono fun _ => wholeRow_of_segment (lt_of_mem_segments hk)) s) (.ofVisit ..)

theorem get_segmentsSaved (s : State) {t d : Thr} (hne : d ≠ t) (hd : d.row < 84) (ht : t.row < 84) {k i : Nat} (hk : k < 64)
    (hb : (getC s t 5).getLsbD k = true) (hi : i < 64) :
    Memory.get (segmentsSaved s t d).mem (rowAddr d.core d.row + 64 * k + i) = ownByte s t (64 * k + i) := by
  refine get_foldl_segments (fun j hj => lt_of_mem_segments hj) (fun u j _ => copySegment_moves u true t d j) s (mem_segments hk hb) hi fun u hu => ?_
  rw [get_copySegment u true d ht hk hi, copiedByte_congr ht (by omega) (hu _ (not_wholeRow_of_ne hne.symm ht hd (by omega)))]
  exact if_pos rfl

theorem zeroRow_moves (s : State) (t : Thr) : RowsMoved s (zeroRow s t.core t.row) (wholeRow t) := by
  refine ⟨fun a ha => ?_, rfl, rfl⟩
  have h := putBytes_unchanged s (rowAddr t.core t.row) (List.replicate 4096 0) a
  rw [List.length_replicate] at h
  exact h ha

theorem stubbed_moves (s : State) (t : Thr) (kept : Nat) : RowsMoved s (stubbed s t kept) (wholeRow t) := by
  have hset : ∀ u n x, n < 16 → RowsMoved u (setC u t n x) (wholeRow t) := fun u n x hn => (RowsMoved.ofSetC u t n x).mono fun _ => wholeRow_of_cAddr hn
  exact (((zeroRow_moves s t).trans (hset _ 0 _ (by decide))).trans (hset _ 7 _ (by decide))).trans (hset _ 2 _ (by decide))

theorem prioOf_lt (s : State) (t : Thr) : prioOf s t < 128 := BitVec.isLt _

/-- The control words of a stub. -/
theorem stubbed_words (s : State) (t : Thr) {kept : Nat} (hk : kept < 16) :
    tstate (stubbed s t kept) t = 7 ∧ prioOf (stubbed s t kept) t = prioOf s t ∧ getC (stubbed s t kept) t 7 = getC s t 7 ∧
      bits (getC (stubbed s t kept) t 2) 0 4 = kept := by
  have hp := prioOf_lt s t
  have h0 : getC (stubbed s t kept) t 0 = BitVec.ofNat 64 (prioOf s t * 512 + stAbsent * 16) := by
    rw [stubbed, getC_setC_other _ _ _ (by decide), getC_setC_other _ _ _ (by decide), getC_setC_self _ _ _ _ (by decide)]
  have hbits : ∀ n lo len, bits (BitVec.ofNat 64 n) lo len = n % 2 ^ 64 / 2 ^ lo % 2 ^ len := fun n lo len => by
    rw [bits, BitVec.extractLsb'_toNat, BitVec.toNat_ofNat, Nat.shiftRight_eq_div_pow]
  refine ⟨?_, ?_, ?_, ?_⟩
  · rw [tstate, h0, hbits]; unfold stAbsent; omega
  · rw [prioOf, h0, hbits]; unfold stAbsent; omega
  · rw [stubbed, getC_setC_other _ _ _ (by decide), getC_setC_self _ _ _ _ (by decide)]
  · rw [stubbed, getC_setC_self _ _ _ _ (by decide), hbits]; omega

theorem stopForSwap_ready {s : State} {t : Thr} (hlong : (getThr s t).long = none) (hreply : (getThr s t).reply = none)
    (hcmds : (getThr s t).cmds = []) (hrow : rowAwaited s t.core t.row = false) (hpaired : isPaired s t = false)
    (hwide : isWide s t = false) (hpair : pairOf s t = none) (hst : tstate s t ≠ 3) : stopForSwap s t = (s, true) := by
  have hst' : ¬ tstate s t = stParked := hst
  simp [stopForSwap, writeHeld, rowsNeeded, rowPair, hlong, hreply, hcmds, hrow, hpaired, hwide, hpair, hst']

/-- A narrow thread without a pair is saved: its segments are copied, and its stub is left. -/
theorem saveThread_eq {s : State} {slot i : Nat} {l : LaunchSt} {t d : Thr} (hwide : pWide l.packet = false)
    (hread : Readable s [cAddr t 5]) (hrow : swapRow s slot l.swapObj i = some d) (hpair : pairOf s t = none) (hst : tstate s t ≠ 3) :
    saveThread s slot l i t = savedThread s t d := by
  have hst' : ¬ tstate s t = stParked := hst
  obtain ⟨hclean, hnone⟩ := hread _ (List.mem_singleton.2 rfl)
  have hpair' : pairOf (segmentsSaved s t d) t = none := ((segmentsSaved_moves s t d).pairOf t).trans hpair
  unfold segmentsSaved at hpair'
  unfold saveThread
  simp only [touchWord_id s _ hnone, hclean, hwide, hst', hrow, hpair', Bool.false_eq_true, if_false, visitThread]
  rfl

theorem savedThread_launches (s : State) (th d : Thr) :
    (savedThread s th d).io.launches = s.io.launches :=
  (stubbed_moves (segmentsSaved s th d) th (tstate s th)).launches.trans (segmentsSaved_moves s th d).launches

/-- What memory holds after the thread is saved: the copied segments, and the stub. -/
theorem saved_gives {s t : State} {th d : Thr} (hne : d ≠ th) (hd : d.row < 84) (hth : th.row < 84)
    (hmem : t.mem = (savedThread s th d).mem) :
    tstate t th = 7 ∧ prioOf t th = prioOf s th ∧ getC t th 7 = getC s th 7 ∧ bits (getC t th 2) 0 4 = tstate s th ∧
      ∀ k, k < 64 → (getC s th 5).getLsbD k = true → ∀ i, i < 64 →
        Memory.get t.mem (rowAddr d.core d.row + 64 * k + i) = ownByte s th (64 * k + i) := by
  rw [savedThread_mem] at hmem
  have hsaved := segmentsSaved_moves s th d
  have hstub := stubbed_moves (segmentsSaved s th d) th (tstate s th)
  have hctl : ∀ n, n < 16 → getC (segmentsSaved s th d) th n = getC s th n := fun n hn => hsaved.frame.getC fun i hi => by
    have := not_wholeRow_of_ne hne.symm hth hd (j := 3968 + 8 * n + i) (by omega)
    rwa [← Nat.add_assoc, ← Nat.add_assoc] at this
  obtain ⟨h0, hprio, h7, h2⟩ := stubbed_words (segmentsSaved s th d) th (kept := tstate s th) (BitVec.isLt _)
  refine ⟨(tstate_congr (getC_of_mem hmem th 0)).trans h0, ?_, ?_, ?_, fun k hk hb i hi => ?_⟩
  · rw [prioOf, getC_of_mem hmem, ← prioOf, hprio, prioOf, hctl 0 (by decide), ← prioOf]
  · rw [getC_of_mem hmem, h7, hctl 7 (by decide)]
  · rw [getC_of_mem hmem, h2]
  · rw [hmem, hstub.frame _ ?_, get_segmentsSaved s hne hd hth hk hb hi]
    rw [Nat.add_assoc]
    exact not_wholeRow_of_ne hne hd hth (by omega)

/-! ### A thread restored -/

theorem visit_mem (s : State) (t : Thr) : (visit s t).mem = s.mem := rfl

/-- A row of the swap object copied back; of what was not saved the values are free. -/
def restoreSegment (src dst : Thr) (ks : List Nat) (s : State) (k : Nat) : State :=
  if ks.contains k then copySegment s false src dst k
  else putBytes { s with fresh := s.fresh + 64 } (rowAddr dst.core dst.row + 64 * k) ((List.range 64).map fun i => Config.freeByte (s.fresh + i))

theorem restoreRow_eq (s : State) (src dst : Thr) (ks : List Nat) :
    restoreRow s src dst ks = visit (visit ((List.range 64).foldl (restoreSegment src dst ks) s) src) dst := rfl

theorem restoreSegment_moves (src dst : Thr) (ks : List Nat) (s : State) (k : Nat) :
    RowsMoved s (restoreSegment src dst ks s k) (segment dst k) := by
  unfold restoreSegment
  split
  · exact copySegment_moves s false src dst k
  · have h := putBytes_unchanged { s with fresh := s.fresh + 64 } (rowAddr dst.core dst.row + 64 * k)
      ((List.range 64).map fun i => Config.freeByte (s.fresh + i))
    rw [List.length_map, List.length_range] at h
    exact ⟨h, rfl, rfl⟩

theorem restoreRow_moves (s : State) (src dst : Thr) (ks : List Nat) : RowsMoved s (restoreRow s src dst ks) (wholeRow dst) := by
  rw [restoreRow_eq]
  refine (RowsMoved.ofFold (fun u k hk => ?_) s).trans ((RowsMoved.ofVisit ..).trans (.ofVisit ..))
  exact (restoreSegment_moves src dst ks u k).mono fun _ => wholeRow_of_segment (List.mem_range.1 hk)

theorem get_restoreRow (s : State) {src dst : Thr} {ks : List Nat} (hne : src ≠ dst) (hs : src.row < 84) (hd : dst.row < 84) {k i : Nat}
    (hk : k < 64) (hmem : k ∈ ks) (hi : i < 64) :
    Memory.get (restoreRow s src dst ks).mem (rowAddr dst.core dst.row + 64 * k + i) =
      Memory.get s.mem (rowAddr src.core src.row + 64 * k + i) := by
  rw [restoreRow_eq, visit_mem, visit_mem]
  refine get_foldl_segments (f := restoreSegment src dst ks) (fun j hj => List.mem_range.1 hj)
    (fun u j _ => restoreSegment_moves src dst ks u j) s (List.mem_range.2 hk) hi fun u hu => ?_
  have hsrc := hu _ (not_wholeRow_of_ne hne hs hd (j := 64 * k + i) (by omega))
  rw [restoreSegment, if_pos (List.contains_iff_mem.2 hmem), get_copySegment u false dst hs hk hi, copiedByte, if_neg Bool.false_ne_true, hsrc,
    Nat.add_assoc]

/-- The control words of a thread that is back: its state and PRIO, and no operands of a park. -/
def controlsRestored (s : State) (t : Thr) (kept prio : Nat) : State :=
  setC (setC s t 0 (setBits (setBits (getC s t 0) 4 4 kept) 9 7 prio)) t 2 0

theorem controlsRestored_gives (s : State) (t : Thr) {kept prio : Nat} (hk : kept < 16) (hp : prio < 128) :
    tstate (controlsRestored s t kept prio) t = kept ∧ prioOf (controlsRestored s t kept prio) t = prio ∧
      getC (controlsRestored s t kept prio) t 2 = 0 := by
  have h0 : getC (controlsRestored s t kept prio) t 0 = setBits (setBits (getC s t 0) 4 4 kept) 9 7 prio := by
    rw [controlsRestored, getC_setC_other _ _ _ (by decide), getC_setC_self _ _ _ _ (by decide)]
  refine ⟨?_, ?_, getC_setC_self _ _ _ _ (by decide)⟩
  · rw [tstate, h0, bits_setBits_other _ _ _ _ _ _ (by decide), bits_setBits_self _ _ _ _ (by decide), Nat.mod_eq_of_lt (by omega)]
  · rw [prioOf, h0, bits_setBits_self _ _ _ _ (by decide), Nat.mod_eq_of_lt (by omega)]

theorem controlsRestored_frame (s : State) (t : Thr) (kept prio : Nat) {b : Nat} (hb : b < rowAddr t.core t.row + 3968) :
    Memory.get (controlsRestored s t kept prio).mem b = Memory.get s.mem b := by
  have hout : ∀ n, ¬ within (cAddr t n) 8 b := fun n => by unfold within cAddr; omega
  exact (setC_unchanged _ t 2 _ b (hout 2)).trans (setC_unchanged s t 0 _ b (hout 0))

/-- The machine when a thread was restored from row d of the swap object. -/
def restoredThread (s : State) (t d : Thr) : State :=
  controlsRestored (restoreRow s d t (segments (getC s d 5))) t (bits (getC s t 2) 0 4) (prioOf s t)

/-- A narrow thread without a pair is restored: its row is copied back, and then its state and PRIO. -/
theorem restoreThread_eq {s : State} {slot i : Nat} {l : LaunchSt} {t d : Thr} (hwide : pWide l.packet = false)
    (hrow : swapRow s slot l.swapObj i = some d) (hpair : pairOf s t = none) :
    restoreThread s slot l i t = restoredThread s t d := by
  have hpair' : pairOf (restoredThread s t d) t = none := ((restoreRow_moves s d t (segments (getC s d 5))).pairOf t).trans hpair
  unfold restoredThread controlsRestored at *
  unfold restoreThread
  simp only [hrow, hwide, hpair', Bool.false_eq_true, if_false]

theorem restoredThread_launches (s : State) (t d : Thr) : (restoredThread s t d).io.launches = s.io.launches :=
  (restoreRow_moves s d t _).launches

theorem restored_gives {s t : State} {th d : Thr} (hne : d ≠ th) (hd : d.row < 84) (hth : th.row < 84)
    (hmem : t.mem = (restoredThread s th d).mem) :
    tstate t th = bits (getC s th 2) 0 4 ∧ prioOf t th = prioOf s th ∧ getC t th 2 = 0 ∧
      ∀ k, k < 62 → (getC s d 5).getLsbD k = true → ∀ i, i < 64 →
        Memory.get t.mem (rowAddr th.core th.row + 64 * k + i) = Memory.get s.mem (rowAddr d.core d.row + 64 * k + i) := by
  unfold restoredThread at hmem
  obtain ⟨hstate, hprio, hpark⟩ := controlsRestored_gives (restoreRow s d th (segments (getC s d 5))) th
    (kept := bits (getC s th 2) 0 4) (BitVec.isLt _) (prioOf_lt s th)
  rw [prioOf, getC_of_mem hmem, ← prioOf, getC_of_mem hmem]
  refine ⟨(tstate_congr (getC_of_mem hmem th 0)).trans hstate, hprio, hpark, fun k hk hb i hi => ?_⟩
  rw [hmem, controlsRestored_frame _ _ _ _ (by omega), get_restoreRow s hne hd hth (by omega) (mem_segments (by omega) hb) hi]

/-! ### Cores that wake -/

/-- Only cores and the agenda differ. -/
def ButCores (s t : State) : Prop := ∃ cores agenda, t = { s with cores := cores, agenda := agenda }

namespace ButCores
variable {s t : State}

theorem refl (s : State) : ButCores s s := ⟨_, _, rfl⟩

theorem setCore (h : ButCores s t) (c : Nat) (x : CoreSt) : ButCores s (setCore t c x) := by
  obtain ⟨_, _, rfl⟩ := h
  exact ⟨_, _, rfl⟩

theorem post (h : ButCores s t) (n : Nat) (e : Event) : ButCores s (post t n e) := by
  obtain ⟨_, _, rfl⟩ := h
  exact ⟨_, _, rfl⟩

theorem kick (h : ButCores s t) (core k : Nat) : ButCores s (kick t core k) := by
  unfold Machine.kick
  split
  · split
    · exact h.post ..
    · exact h
  · split
    · exact h.post ..
    · exact h
  · split
    · exact (h.setCore ..).post ..
    · exact h
  · exact h

theorem admitHeld (h : ButCores s t) (core : Nat) (l : List (Nat × QDo)) : ButCores s (admitHeld t core l) := by
  induction l generalizing t with
  | nil => exact h.setCore ..
  | cons x l ih =>
    unfold Machine.admitHeld
    split
    · exact h.setCore ..
    · exact ih ((h.setCore ..).kick ..)

theorem wakeCore (h : ButCores s t) (core : Nat) : ButCores s (wakeCore t core) := by
  unfold Machine.wakeCore
  split
  · exact (h.setCore ..).admitHeld ..
  · exact h

theorem sameTables (h : ButCores s t) : SameTables s t := by
  obtain ⟨_, _, rfl⟩ := h
  exact ⟨rfl, rfl, rfl, rfl, rfl, rfl, rfl, rfl⟩

theorem pairOf (h : ButCores s t) (th : Thr) : pairOf t th = pairOf s th := by
  obtain ⟨_, _, rfl⟩ := h
  rfl

theorem launches (h : ButCores s t) : t.io.launches = s.io.launches := by
  obtain ⟨_, _, rfl⟩ := h
  rfl

end ButCores

/-! ### The launch in the table -/

theorem findLaunch_id {s : State} {id : Nat} {l : LaunchSt} (h : findLaunch s id = some l) : l.id = id := by
  simpa using List.find?_some h

/-- A change of a launch that keeps its name is found under the name. -/
theorem findLaunch_modLaunch {s : State} {id : Nat} {l : LaunchSt} (h : findLaunch s id = some l) {f : LaunchSt → LaunchSt}
    (hf : ∀ x, (f x).id = x.id) : findLaunch (modLaunch s id f) id = some (f l) := by
  have hid : (fun x : LaunchSt => decide (x.id = id)) ∘ (fun x => if x.id = id then f x else x) = fun x => decide (x.id = id) := by
    funext x
    dsimp only [Function.comp]
    split
    · rw [hf]
    · rfl
  unfold findLaunch modLaunch at *
  rw [List.find?_map, hid, h, Option.map_some, if_pos (by simpa using List.find?_some h)]

theorem findLaunch_endSwap (s : State) (status id : Nat) : findLaunch (endSwap s status) id = findLaunch s id := rfl

theorem endSwap_modLaunch_mem (s : State) (id : Nat) (f : LaunchSt → LaunchSt) (status : Nat) :
    (endSwap (modLaunch s id f) status).mem = s.mem := rfl

theorem findLaunch_congr {s t : State} (h : t.io.launches = s.io.launches) (id : Nat) : findLaunch t id = findLaunch s id := by
  rw [findLaunch, findLaunch, h]

end Sys2Proof.Machine

namespace Sys2Proof
open Machine

section
variable {s : State} {l : LaunchSt} {th d : Thr} {slot : Nat}

theorem exec_swapOut (h : s.doing = some .swapOut) : exec Event.swapOut.instr s = .next (swapsOut s) := by
  show execSwapOut s = _
  rw [execSwapOut, h]

theorem exec_swapIn (h : s.doing = some .swapIn) : exec Event.swapIn.instr s = .next (swapsIn s) := by
  show execSwapIn s = _
  rw [execSwapIn, h]

theorem swapsOut_of_no_launch (hstatus : s.io.swapStatus = 1) (hl : findLaunch s s.io.swapLaunch.toNat = none) : swapsOut s = endSwap s 3 := by
  simp [swapsOut, hstatus, hl]

theorem swapsIn_of_no_launch (hstatus : s.io.swapStatus = 1) (hl : findLaunch s s.io.swapLaunch.toNat = none) : swapsIn s = endSwap s 3 := by
  simp [swapsIn, hstatus, hl]

theorem swapOutThreads_one {v : State} (hrows : l.rows = [th]) (hcancel : l.cancel = false) (hhere : tstate s th ≠ 7)
    (hstop : stopForSwap s th = (s, true)) (hsave : saveThread s slot l 0 th = v) (hv : tstate v th = 7) :
    swapOutThreads s slot l = endSwap (modLaunch v l.id fun l => { l with swapped := true }) 2 := by
  have hhere' : ¬ tstate s th = stAbsent := hhere
  have hv' : tstate v th = stAbsent := hv
  unfold swapOutThreads
  simp [hrows, hcancel, hhere', hstop, hsave, hv']

theorem swapsOut_eq (hstatus : s.io.swapStatus = 1) (hl : findLaunch s s.io.swapLaunch.toNat = some l)
    (hslot : keySlot s l.part = some slot) (hplaced : l.state = .placed) (hin : l.swapped = false) (hobj : l.swapObj = 0)
    (hfits : swapFits s slot l s.io.swapHandle.toNat = true) :
    swapsOut s = swapOutThreads (modLaunch s l.id fun l => { l with swapObj := s.io.swapHandle.toNat }) slot
      { l with swapObj := s.io.swapHandle.toNat } := by
  unfold swapsOut
  simp [hstatus, hl, hslot, hplaced, hin, hobj, hfits]

theorem swapsIn_eq (hstatus : s.io.swapStatus = 1) (hl : findLaunch s s.io.swapLaunch.toNat = some l)
    (hslot : keySlot s l.part = some slot) (hplaced : l.state = .placed) (hout : l.swapped = true)
    (hobj : l.swapObj = s.io.swapHandle.toNat) (hcancel : l.cancel = false) (hrows : l.rows = [th]) (hwide : pWide l.packet = false)
    (hrow : swapRow s slot l.swapObj 0 = some d) :
    swapsIn s = endSwap (modLaunch (restoreThread (wakeCore s th.core) slot l 0 th) l.id
      fun l => { l with swapped := false, swapObj := 0 }) 2 := by
  have hrow' : swapRow s slot s.io.swapHandle.toNat 0 = some d := hobj ▸ hrow
  have hone : [th.core].eraseDups = [th.core] := rfl
  unfold swapsIn
  simp [hstatus, hl, hslot, hplaced, hout, hobj, hrows, hcancel, hwide, swapCount, hrow', hone]

end

/-- Settles O37: the thread is saved by `saved_gives` and restored by `restored_gives`; what a swap changes of the launch does not
move the rows of the object (`SameTables.swapRow`). -/
theorem swapping : Obligations.Swapping := by
  intro s hstatus
  refine ⟨?_, ?_, ?_⟩
  · intro l th d slot hdoing hl hslot hplaced hin hobj hcancel hrows hwide hfits hrow hne hd hth hpair hlong hreply hcmds hawaited hpaired
      hnarrow hst hhere hread
    let m := modLaunch s l.id fun l => { l with swapObj := s.io.swapHandle.toNat }
    have hrow' : swapRow m slot s.io.swapHandle.toNat 0 = some d :=
      (SameTables.swapRow (s := s) (t := m) ⟨rfl, rfl, rfl, rfl, rfl, rfl, rfl, rfl⟩ ..).trans hrow
    have hsave := saveThread_eq (s := m) (l := { l with swapObj := s.io.swapHandle.toNat }) hwide hread hrow' hpair hst
    have hout := swapOutThreads_one (s := m) (l := { l with swapObj := s.io.swapHandle.toNat }) hrows hcancel hhere
      (stopForSwap_ready hlong hreply hcmds hawaited hpaired hnarrow hpair hst) hsave
      (saved_gives (s := m) (t := savedThread m th d) hne hd hth rfl).1
    refine ⟨_, (exec_swapOut hdoing).trans (congrArg Host.Outcome.next ((swapsOut_eq hstatus hl hslot hplaced hin hobj hfits).trans hout)),
      rfl, ?_, saved_gives (s := m) hne hd hth (endSwap_modLaunch_mem ..)⟩
    have hl' : findLaunch s l.id = some l := by rwa [findLaunch_id hl]
    have hm : findLaunch m l.id = some { l with swapObj := s.io.swapHandle.toNat } :=
      findLaunch_modLaunch (f := fun l => { l with swapObj := s.io.swapHandle.toNat }) hl' fun _ => rfl
    rw [findLaunch_endSwap, findLaunch_modLaunch ((findLaunch_congr (savedThread_launches m th d) l.id).trans hm)]
    · rfl
    · exact fun _ => rfl
  · intro l th d slot hdoing hl hslot hplaced hout hobj hcancel hrows hwide hrow hne hd hth hpair
    have hwake := (ButCores.refl s).wakeCore th.core
    have hmem := hwake.sameTables.mem
    have hback := restoreThread_eq (l := l) hwide ((hwake.sameTables.swapRow ..).trans hrow) ((hwake.pairOf th).trans hpair)
    have hin := swapsIn_eq hstatus hl hslot hplaced hout hobj hcancel hrows hwide hrow
    rw [hback] at hin
    refine ⟨_, (exec_swapIn hdoing).trans (congrArg Host.Outcome.next hin), rfl, ?_, ?_⟩
    · have hl' : findLaunch s l.id = some l := by rwa [findLaunch_id hl]
      rw [findLaunch_endSwap,
        findLaunch_modLaunch ((findLaunch_congr ((restoredThread_launches ..).trans hwake.launches) l.id).trans hl')]
      · rfl
      · exact fun _ => rfl
    · obtain ⟨hstate, hprio, hpark, hbytes⟩ := restored_gives (s := wakeCore s th.core) hne hd hth (endSwap_modLaunch_mem _ l.id
        (fun l => { l with swapped := false, swapObj := 0 }) 2)
      simp only [prioOf, getC_of_mem hmem, hmem] at hstate hprio hpark hbytes ⊢
      exact ⟨hstate, hprio, hpark, hbytes⟩
  · intro e he hdoing hl
    simp only [List.mem_cons, List.not_mem_nil, or_false] at he
    obtain rfl | rfl := he
    · exact ⟨_, (exec_swapOut hdoing).trans (congrArg Host.Outcome.next (swapsOut_of_no_launch hstatus hl)), rfl, rfl⟩
    · exact ⟨_, (exec_swapIn hdoing).trans (congrArg Host.Outcome.next (swapsIn_of_no_launch hstatus hl)), rfl, rfl⟩

end Sys2Proof
end

section
/-! PROOFS. What the operations of the distributor on queues, counters and launches write and leave alone (R51 to R57). -/
namespace Sys2Proof.Machine
open Claims

/-! ### Steps that are put on the agenda -/

@[simp] theorem poke_io (s : State) (part : BitVec 16) : (poke s part).io = s.io := by unfold poke; split <;> rfl
@[simp] theorem poke_mem (s : State) (part : BitVec 16) : (poke s part).mem = s.mem := by unfold poke; split <;> rfl

@[simp] theorem kickQueue_io (s : State) (q : Nat) : (kickQueue s q).io = s.io := by unfold kickQueue; dsimp only; split <;> rfl
@[simp] theorem kickQueue_mem (s : State) (q : Nat) : (kickQueue s q).mem = s.mem := by unfold kickQueue; dsimp only; split <;> rfl

/-! ### The tables of the I/O die -/

theorem getQueue_congr {s t : State} (h : t.io.queues = s.io.queues) (q : Nat) : getQueue t q = getQueue s q := by
  rw [getQueue, getQueue, h]

theorem getCounter_congr {s t : State} (h : t.io.counters = s.io.counters) (n : Nat) : getCounter t n = getCounter s n := by
  rw [getCounter, getCounter, h]

@[simp] theorem getQueue_poke (s : State) (part : BitVec 16) (q : Nat) : getQueue (poke s part) q = getQueue s q :=
  getQueue_congr (by rw [poke_io]) q
@[simp] theorem getQueue_kickQueue (s : State) (r q : Nat) : getQueue (kickQueue s r) q = getQueue s q :=
  getQueue_congr (by rw [kickQueue_io]) q
@[simp] theorem getCounter_poke (s : State) (part : BitVec 16) (n : Nat) : getCounter (poke s part) n = getCounter s n :=
  getCounter_congr (by rw [poke_io]) n
@[simp] theorem getCounter_kickQueue (s : State) (q n : Nat) : getCounter (kickQueue s q) n = getCounter s n :=
  getCounter_congr (by rw [kickQueue_io]) n
@[simp] theorem findLaunch_poke (s : State) (part : BitVec 16) (id : Nat) : findLaunch (poke s part) id = findLaunch s id :=
  findLaunch_congr (by rw [poke_io]) id
@[simp] theorem findLaunch_kickQueue (s : State) (q id : Nat) : findLaunch (kickQueue s q) id = findLaunch s id :=
  findLaunch_congr (by rw [kickQueue_io]) id

@[simp] theorem getQueue_modQueue (s : State) (q : Nat) (f : QueueSt → QueueSt) : getQueue (modQueue s q f) q = f (getQueue s q) := by
  rw [getQueue, modQueue, look_store, if_pos rfl]
@[simp] theorem getCounter_modCounter (s : State) (n : Nat) (f : CounterSt → CounterSt) :
    getCounter (modCounter s n f) n = f (getCounter s n) := by
  rw [getCounter, modCounter, look_store, if_pos rfl]

@[simp] theorem modQueue_mem (s : State) (q : Nat) (f : QueueSt → QueueSt) : (modQueue s q f).mem = s.mem := rfl
@[simp] theorem modCounter_mem (s : State) (n : Nat) (f : CounterSt → CounterSt) : (modCounter s n f).mem = s.mem := rfl
@[simp] theorem getCounter_modQueue (s : State) (q : Nat) (f : QueueSt → QueueSt) (n : Nat) : getCounter (modQueue s q f) n = getCounter s n := rfl
@[simp] theorem getQueue_modCounter (s : State) (n : Nat) (f : CounterSt → CounterSt) (q : Nat) : getQueue (modCounter s n f) q = getQueue s q := rfl
@[simp] theorem getQueue_modLaunch (s : State) (id : Nat) (f : LaunchSt → LaunchSt) (q : Nat) : getQueue (modLaunch s id f) q = getQueue s q := rfl
@[simp] theorem getCounter_modLaunch (s : State) (id : Nat) (f : LaunchSt → LaunchSt) (n : Nat) :
    getCounter (modLaunch s id f) n = getCounter s n := rfl
@[simp] theorem findLaunch_modQueue (s : State) (q : Nat) (f : QueueSt → QueueSt) (id : Nat) : findLaunch (modQueue s q f) id = findLaunch s id := rfl
@[simp] theorem findLaunch_modCounter (s : State) (n : Nat) (f : CounterSt → CounterSt) (id : Nat) :
    findLaunch (modCounter s n f) id = findLaunch s id := rfl

/-! ### A launch becomes READY (R53, R59) -/

theorem makeReady_mem (s : State) (id : Nat) : (makeReady s id).mem = s.mem := by
  unfold makeReady
  split
  · rfl
  · rw [poke_mem]; rfl

theorem getCounter_makeReady (s : State) (id n : Nat) : getCounter (makeReady s id) n = getCounter s n := by
  unfold makeReady
  split
  · rfl
  · rw [getCounter_poke]; rfl

theorem getQueue_makeReady (s : State) (id q : Nat) : getQueue (makeReady s id) q = getQueue s q := by
  unfold makeReady
  split
  · rfl
  · rw [getQueue_poke]; rfl

theorem findLaunch_makeReady {s : State} {id : Nat} {l : LaunchSt} (h : findLaunch s id = some l) :
    findLaunch (makeReady s id) id = some { l with state := .ready, readyAt := s.io.nextReady } := by
  simp only [makeReady, h, findLaunch_poke]
  exact findLaunch_modLaunch h fun _ => rfl

end Sys2Proof.Machine
end

section
/-! PROOFS. Counters (O34): decrements, releases and writes (R55 to R57, R374). -/
namespace Sys2Proof.Machine
open Claims

/-- A counter after a decrement (R55). -/
def CounterSt.decremented (c : CounterSt) (err : Bool) : CounterSt :=
  { c with value := (if c.value = 0 then 0 else c.value - 1), overrun := c.overrun || c.value == 0, errtok := c.errtok || err }

theorem decrementCounter_eq (s : State) (n : Nat) (err : Bool) :
    decrementCounter s n err =
      let s' := modCounter s n (·.decremented err)
      if (getCounter s n).value = 1 then releaseCounter s' n else s' := rfl

theorem releaseCounter_eq (s : State) (n : Nat) :
    releaseCounter s n =
      (getCounter s n).waiters.foldl (fun t w => releaseOne t (getCounter s n) w) (modCounter s n fun c => { c with waiters := [] }) := rfl

/-- Nobody waits, so that the release of a counter only empties the list of those who do. -/
theorem releaseCounter_none {s : State} {n : Nat} (h : (getCounter s n).waiters = []) :
    getCounter (releaseCounter s n) n = getCounter s n ∧ (releaseCounter s n).mem = s.mem ∧ (releaseCounter s n).reqs = s.reqs := by
  rw [releaseCounter_eq, h]
  refine ⟨?_, rfl, rfl⟩
  rw [List.foldl_nil, getCounter_modCounter, ← h]

/-- A decrement that releases nobody. -/
theorem decrementCounter_alone {s : State} {n : Nat} (err : Bool) (h : (getCounter s n).value ≠ 1 ∨ (getCounter s n).waiters = []) :
    getCounter (decrementCounter s n err) n = (getCounter s n).decremented err ∧ (decrementCounter s n err).mem = s.mem ∧
      (decrementCounter s n err).reqs = s.reqs := by
  rw [decrementCounter_eq]
  dsimp only
  split
  · next h1 =>
    have hnone : (getCounter (modCounter s n (·.decremented err)) n).waiters = [] := by
      rw [getCounter_modCounter]
      exact h.resolve_left (not_not.2 h1)
    obtain ⟨hc, hm, hr⟩ := releaseCounter_none hnone
    exact ⟨hc.trans (getCounter_modCounter ..), hm, hr⟩
  · exact ⟨getCounter_modCounter .., rfl, rfl⟩

/-- A decrement to 0 with one that waits. -/
theorem decrementCounter_releases {s : State} {n : Nat} {w : Waiter} (err : Bool) (h1 : (getCounter s n).value = 1)
    (hw : (getCounter s n).waiters = [w]) :
    decrementCounter s n err =
      releaseOne (modCounter (modCounter s n (·.decremented err)) n fun c => { c with waiters := [] }) ((getCounter s n).decremented err) w := by
  have hc : getCounter (modCounter s n (·.decremented err)) n = (getCounter s n).decremented err := getCounter_modCounter ..
  rw [decrementCounter_eq]
  dsimp only
  rw [if_pos h1, releaseCounter_eq, hc, show ((getCounter s n).decremented err).waiters = [w] from hw]
  rfl

theorem setCounter_eq (s : State) (n : Nat) (v : BitVec 32) :
    setCounter s n v =
      let s' := modCounter s n fun c => { c with overrun := false, cancel := false, errtok := false, value := v }
      if (getCounter s n).value ≠ 0 && v = 0 then releaseCounter s' n else s' := rfl

/-- A write of a counter for which nobody waits. -/
theorem setCounter_alone {s : State} {n : Nat} (h : (getCounter s n).waiters = []) (v : BitVec 32) :
    getCounter (setCounter s n v) n = { owner := (getCounter s n).owner, value := v } ∧ (setCounter s n v).mem = s.mem := by
  have hc : getCounter (modCounter s n fun c => { c with overrun := false, cancel := false, errtok := false, value := v }) n =
      { owner := (getCounter s n).owner, value := v } := by
    rw [getCounter_modCounter, h]
  rw [setCounter_eq]
  dsimp only
  split
  · obtain ⟨hr, hm, -⟩ := releaseCounter_none (s := modCounter s n _) (n := n) (by rw [hc])
    exact ⟨hr.trans hc, hm⟩
  · exact ⟨hc, rfl⟩

/-- A host's write of a counter for which nobody waits. -/
theorem counterWritten_alone {s : State} {n : Nat} (h : (getCounter s n).waiters = []) (v : Word) (pf : Bool) :
    getCounter (counterWritten s n v pf) n =
      { owner := if pf then v.extractLsb' 48 16 else (getCounter s n).owner, value := v.extractLsb' 0 32 } ∧
      (counterWritten s n v pf).mem = s.mem := by
  obtain ⟨hc, hm⟩ := setCounter_alone h 0
  unfold counterWritten
  dsimp only
  split
  · next hnew =>
    simp only [Bool.and_eq_true, decide_eq_true_eq] at hnew
    have hc' : getCounter (modCounter (setCounter s n 0) n fun c => { c with owner := v.extractLsb' 48 16 }) n =
        { owner := v.extractLsb' 48 16, value := 0 } := by rw [getCounter_modCounter, hc]
    obtain ⟨hset, hmem⟩ := setCounter_alone (by rw [hc']) (v.extractLsb' 0 32)
    exact ⟨by rw [hset, hc', hnew.1, if_pos rfl], hmem.trans hm⟩
  · next hold =>
    obtain ⟨hset, hmem⟩ := setCounter_alone h (v.extractLsb' 0 32)
    refine ⟨hset.trans ?_, hmem⟩
    cases pf with
    | false => rfl
    | true =>
      simp only [Bool.true_and, decide_eq_true_eq, not_not] at hold
      rw [if_pos rfl, hold]

theorem exec_counterDecrement {s : State} {n req : Nat} {err : Bool} (h : s.doing = some (.counterDecrement n err req)) :
    exec (Event.counterDecrement n err req).instr s = .next (counterDecremented s n err req) := by
  show execCounterDecrement s = _
  rw [execCounterDecrement, h]

theorem exec_counterWrite {s : State} {n : Nat} {v : Word} {pf : Bool} (h : s.doing = some (.counterWrite n v pf)) :
    exec (Event.counterWrite n v pf).instr s = .next (counterWritten s n v pf) := by
  show execCounterWrite s = _
  rw [execCounterWrite, h]

/-- The counter when one that waited for it has been released. -/
theorem getCounter_emptied {s : State} {n : Nat} (err : Bool) (h1 : (getCounter s n).value = 1) :
    let c := getCounter (modCounter (modCounter s n (·.decremented err)) n fun c => { c with waiters := [] }) n
    c.value = 0 ∧ c.waiters = [] := by
  simp [CounterSt.decremented, h1]

/-- The launch that waited is READY. -/
theorem decrementCounter_readies {s : State} {n : Nat} {l : LaunchSt} (h1 : (getCounter s n).value = 1)
    (hw : (getCounter s n).waiters = [.launch l.id]) (hl : findLaunch s l.id = some l) (hcancel : (getCounter s n).cancel = false)
    (herr : (getCounter s n).errtok = false) :
    let t := decrementCounter s n false
    findLaunch t l.id = some { l with state := .ready, readyAt := s.io.nextReady } ∧
      (getCounter t n).value = 0 ∧ (getCounter t n).waiters = [] := by
  have hrelease : decrementCounter s n false =
      makeReady (modCounter (modCounter s n (·.decremented false)) n fun c => { c with waiters := [] }) l.id := by
    rw [decrementCounter_releases false h1 hw]
    simp [releaseOne, CounterSt.decremented, hcancel, herr]
  simp only [hrelease, getCounter_makeReady]
  exact ⟨findLaunch_makeReady hl, getCounter_emptied false h1⟩

/-- The CNTWAIT that waited is answered. -/
theorem decrementCounter_answers {s : State} {n : Nat} {r : Req} (err : Bool) (h1 : (getCounter s n).value = 1)
    (hw : (getCounter s n).waiters = [.request r.id]) (hr : findReq s r.id = some r) :
    let t := decrementCounter s n err
    Coming t (.run (.reply r.id (ansWord 0))) ∧ (getCounter t n).value = 0 ∧ (getCounter t n).waiters = [] := by
  have hr' : findReq (modCounter (modCounter s n (·.decremented err)) n fun c => { c with waiters := [] }) r.id = some r := hr
  rw [decrementCounter_releases err h1 hw, releaseOne]
  simp only [hr']
  exact ⟨mem_agenda_send .., getCounter_emptied err h1⟩

/-- A CNTDEC is answered, whosever the counter is. -/
theorem counterDecremented_of_req {s : State} {n : Nat} {err : Bool} {r : Req} (h0 : r.id ≠ 0) (hf : findReq s r.id = some r) :
    counterDecremented s n err r.id =
      send (if (getCounter s n).owner = partKey s (tileOf r.thr.core) then decrementCounter s n err else divertCounter s r n) .rsp ioDie
        (tileOf r.thr.core) (.run (.reply r.id (ansWord 0))) := by
  simp only [counterDecremented, if_neg h0, hf, ownsCounter, decide_eq_true_eq]

/-- A record for the supervisor leaves the counters as they are. -/
theorem getCounter_toSupervisor (s : State) (tile slot : Nat) (w0 w1 : Word) (n : Nat) :
    getCounter (toSupervisor s tile slot w0 w1) n = getCounter s n := by
  refine getCounter_congr ?_ n
  unfold toSupervisor
  dsimp only
  split_ifs <;> rfl

end Sys2Proof.Machine

namespace Sys2Proof
open Machine

/-- Settles O34: by whether the decrement releases anyone, and whose counter it is. -/
theorem counters : Obligations.Counters := by
  intro s n
  refine ⟨fun err hdoing => ⟨fun h1 => ?_, fun l h1 hw hl hcancel herr hnew => ?_, fun r h1 hw hr => ?_⟩,
    fun r hdoing h0 hf => ⟨fun hown halone => ?_, fun hown => ?_⟩, fun v pf hdoing hnone => ?_⟩
  · obtain ⟨hc, hm, -⟩ := decrementCounter_alone err (.inl h1)
    exact ⟨_, exec_counterDecrement hdoing, hc, hm⟩
  · subst hnew
    exact ⟨_, exec_counterDecrement hdoing, decrementCounter_readies h1 hw hl hcancel herr⟩
  · exact ⟨_, exec_counterDecrement hdoing, decrementCounter_answers err h1 hw hr⟩
  · obtain ⟨hc, hm, -⟩ := decrementCounter_alone false halone
    refine ⟨_, exec_counterDecrement hdoing, ?_⟩
    rw [counterDecremented_of_req h0 hf, if_pos hown]
    exact ⟨hc.trans (by rw [CounterSt.decremented, Bool.or_false]), hm, mem_agenda_send ..⟩
  · refine ⟨_, exec_counterDecrement hdoing, ?_⟩
    rw [counterDecremented_of_req h0 hf, if_neg hown]
    exact ⟨getCounter_toSupervisor .., (SendsOnly.ofToSupervisor ..).mem, mem_agenda_send ..,
      toSupervisor_of_readOnly (.refl s) (toSupervisor_sends ..) (.ofSend ..) rfl⟩
  · obtain ⟨hc, hm⟩ := counterWritten_alone hnone v pf
    exact ⟨_, exec_counterWrite hdoing, hc, hm⟩

end Sys2Proof
end

section
/-! PROOFS. Pairs (O36): UNPAIR in a pair that has ended. -/
namespace Sys2Proof.Machine

/-- The module after reset, but that a thread is parked in UNPAIR, and the last copy of a commit is due for its pair, which has ended
(R127): it waits for the launch's end. -/
def endedPairCopies : State :=
  { State.reset with
    mem := [(cAddr ⟨0, 0⟩ 0, 0x30#8)]
    cores := [(0, { subs := [{ mode := .opened 0 }] })]
    reqs := [{ id := 1, thr := ⟨0, 0⟩, insn := .unpair 1, word := 0, phase := .sent }]
    pairs := [{ leader := ⟨0, 0⟩, follower := ⟨1, 0⟩, copying := some true, copied := 1, dead := true }]
    doing := some (.shadowCopy 0 0 true) }

theorem ibHeld_endedPairCopies (c : Nat) : (getCore endedPairCopies c).ibHeld = [] := by
  simp only [endedPairCopies, getCore, look]
  split <;> rfl

/-- A pair that has ended is found under neither of its sides, so that the copy does nothing. -/
theorem exec_endedPairCopies : exec (Event.shadowCopy 0 0 true).instr endedPairCopies = .next endedPairCopies := rfl

end Sys2Proof.Machine

namespace Sys2Proof
open Machine

/-- Refutes O36: its clause on UNPAIR does not say that the pair is alive. A pair that has ended (R127, R130) meets every premise of the
clause, but a shadow copy passes it over (`exec_endedPairCopies`), so that the pair is still there afterwards. -/
theorem not_pairIntervals : ¬ Obligations.PairIntervals := by
  rintro ⟨-, -, -, hunpair⟩
  obtain ⟨t, ht, hpairs, -⟩ := hunpair endedPairCopies _ _ 1 rfl rfl (by decide) (by decide) (by decide) (by decide) rfl rfl
    ⟨rfl, rfl, rfl⟩ rfl rfl (by decide) rfl rfl rfl rfl (by decide) (by decide) (by decide) rfl rfl rfl ibHeld_endedPairCopies rfl
  obtain rfl : endedPairCopies = t := Host.Outcome.next.inj (exec_endedPairCopies.symm.trans ht)
  exact nomatch hpairs

end Sys2Proof
end

section
/-! PROOFS. Placement and the end of launches (O35): a partition's reset and a row that a request names from another core. -/
namespace Sys2Proof.Machine
open Claims

/-! ### What a reset does after its rows -/

theorem foldl_mem {ι : Type} {f : State → ι → State} (hf : ∀ s i, (f s i).mem = s.mem) (l : List ι) (s : State) : (l.foldl f s).mem = s.mem :=
  l.foldlRecOn (motive := fun t => t.mem = s.mem) f rfl fun _ h i _ => (hf _ i).trans h

theorem answer_mem (s : State) (tile id : Nat) (a : Ans) : (answer s tile id a).mem = s.mem := (SendsOnly.ofAnswer ..).mem

theorem dropMsgs_mem (s : State) (core : Nat) : (dropMsgs s core).mem = s.mem := by
  refine (foldl_mem (fun t m => ?_) ..).trans rfl
  split
  · rfl
  · exact answer_mem ..

theorem touchPacket_mem (s : State) (q : QueueSt) (x : Word) : (touchPacket s q x).mem = s.mem := by
  unfold touchPacket
  split
  · rfl
  · exact foldl_mem (fun t a => touchWord_mem t a) ..

theorem enterLaunch_mem (s : State) (q : Nat) (x : Word) (p : Packet) (key : BitVec 16) (thr : Option Thr) :
    (enterLaunch s q x p key thr).mem = s.mem := by
  unfold enterLaunch
  split <;> rfl

theorem enterRange_mem (s : State) (q : Nat) (x : Word) (n : Nat) : (enterRange s q x n).mem = s.mem := by
  refine foldl_mem (fun t k => ?_) ..
  dsimp only
  split <;> exact (enterLaunch_mem ..).trans (touchPacket_mem ..)

theorem replayQueue_mem (s : State) (q : Nat) : (replayQueue s q).mem = s.mem := by
  unfold replayQueue
  dsimp only
  split
  · exact (kickQueue_mem ..).trans (enterRange_mem ..)
  · rfl

theorem echoes_mem (s : State) : (echoes s).mem = s.mem := by
  unfold echoes
  split
  · rfl
  · refine (foldl_mem ?_ _ _).trans (foldl_mem ?_ _ _)
    · exact fun _ _ => rfl
    · intro t x
      dsimp only
      split
      · rfl
      · refine (foldl_mem ?_ _ _).trans ((foldl_mem ?_ _ _).trans rfl)
        · exact fun _ _ => rfl
        · exact fun _ _ => rfl

/-- The rows of a partition's cores are made FREE. -/
def rowsReset (s : State) (cores : List Nat) : State :=
  cores.foldl (fun s c => (List.range 84).foldl (fun s r => resetRow s ⟨c, r⟩) s) s

/-- What follows the rows' reset writes no memory. -/
theorem partitionResets_mem {s : State} {slot : Nat} (h : (getPart s slot).key ≠ 0) :
    let t := cancelJobs (cancelLaunches s (getPart s slot).key) (tilesOfSlot s slot)
    (partitionResets s slot).mem = (rowsReset t (coresOf t (tilesOfSlot s slot))).mem := by
  intro t
  unfold partitionResets
  rw [if_neg h]
  refine (foldl_mem ?_ _ _).trans ?_
  · exact fun u q => replayQueue_mem u q.1
  · exact foldl_mem dropMsgs_mem (coresOf t (tilesOfSlot s slot)) (rowsReset t (coresOf t (tilesOfSlot s slot)))

/-- A row that is no thread's, or FREE, is passed over. -/
theorem resetRow_skips {s : State} {t : Thr} (h : frameUse s t.core t.row ≠ 0 ∨ tstate s t = 0) : resetRow s t = s := by
  unfold resetRow isThreadRow
  refine if_neg ?_
  obtain h | h := h
  · simp [h]
  · simp [h, stFree]

theorem foldl_eq_self {ι : Type} {f : State → ι → State} {l : List ι} {s : State} (h : ∀ i ∈ l, f s i = s) : l.foldl f s = s := by
  induction l with
  | nil => rfl
  | cons i l ih => rw [List.foldl_cons, h i List.mem_cons_self, ih fun j hj => h j (List.mem_cons_of_mem i hj)]

theorem rowsReset_skips {s : State} {cores : List Nat} (h : ∀ c ∈ cores, ∀ r, r < 84 → frameUse s c r ≠ 0 ∨ tstate s ⟨c, r⟩ = 0) :
    rowsReset s cores = s :=
  foldl_eq_self fun c hc => foldl_eq_self fun r hr => resetRow_skips (h c hc r (List.mem_range.1 hr))

/-! ### Copies of rows (R98, R126) -/

theorem copyRow_mem (s : State) (a b : Thr) :
    (copyRow s a b).mem = Memory.put s.mem (rowAddr b.core b.row) (getBytes s (rowAddr a.core a.row) 4096) := by
  have hread := (ReadOnly.refl s).touch (rowAddr a.core a.row) 4096
  show Memory.put (touch s (rowAddr a.core a.row) 4096).mem _ (getBytes (touch s (rowAddr a.core a.row) 4096) _ 4096) = _
  rw [getBytes, hread.mem, getBytes]

theorem copyRow_unchanged (s : State) (a b : Thr) : UnchangedBut s (copyRow s a b) (wholeRow b) := fun x hx => by
  rw [copyRow_mem]
  refine Memory.get_put_other ?_
  rw [getBytes_length]
  unfold wholeRow within at hx
  omega

theorem get_copyRow (s : State) (a b : Thr) {i : Nat} (hi : i < 4096) :
    Memory.get (copyRow s a b).mem (rowAddr b.core b.row + i) = Memory.get s.mem (rowAddr a.core a.row + i) := by
  rw [copyRow_mem, Memory.get_put, if_pos (by rw [getBytes_length]; omega), Nat.add_sub_cancel_left, getD_getBytes s hi]


theorem copyRow_tiles (s : State) (a b : Thr) : (copyRow s a b).tiles = s.tiles := ((ReadOnly.refl s).touch ..).tiles

theorem noteFree_mem (s : State) (core : Nat) : (noteFree s core).mem = s.mem := by
  unfold noteFree
  dsimp only
  split <;> rfl

theorem noteFree_tiles (s : State) (core : Nat) : (noteFree s core).tiles = s.tiles := by
  unfold noteFree
  dsimp only
  split <;> rfl

/-- A word reads as another does whose bytes are the same. -/
theorem getWord_moved {s t : State} {a b : Nat} (h : ∀ i, i < 8 → Memory.get t.mem (b + i) = Memory.get s.mem (a + i)) :
    getWord t b = getWord s a := by
  unfold getWord getNat getBytes
  rw [Memory.slice_eq, Memory.slice_eq]
  congr 2
  exact List.map_congr_left fun i hi => h i (List.mem_range.1 hi)

theorem getWord_of_zeros {s : State} {a : Nat} (h : ∀ i, i < 8 → Memory.get s.mem (a + i) = 0) : getWord s a = 0 :=
  (getWord_moved (s := State.reset) (a := 0) fun i hi => (h i hi).trans rfl).trans (by decide +kernel)

/-! ### Making a pair (R48) -/

/-- The rows that making a pair of narrow threads writes: the follower's and both shadow rows. -/
def pairRows (t : Thr) (a : Nat) : Prop := wholeRow (partnerOf t) a ∨ wholeRow (shadowOf t) a ∨ wholeRow (shadowOf (partnerOf t)) a

/-- The state in which both sides of a pair stand before their shadow rows are written. -/
def followerMade (s : State) (t : Thr) : State :=
  let f := partnerOf t
  let s := copyRow s t f
  setThr (setC s f 7 (setBits (getC s f 7) 18 2 2)) f
    { quantum := (getThr (setC s f 7 (setBits (getC s f 7) 18 2 2)) t).quantum
      index := (getThr (setC s f 7 (setBits (getC s f 7) 18 2 2)) t).index }

theorem followerMade_unchanged (s : State) (t : Thr) : UnchangedBut s (followerMade s t) (wholeRow (partnerOf t)) :=
  (copyRow_unchanged s t (partnerOf t)).trans
    ((setC_unchanged (copyRow s t (partnerOf t)) (partnerOf t) 7 _).mono fun _ h => wholeRow_of_cAddr (by decide) h)

/-- Making a pair copies its rows in this order; what follows is neither in memory nor in a tile. -/
def pairCopied (s : State) (t : Thr) : State := copyRow (copyRow (followerMade s t) t (shadowOf t)) (partnerOf t) (shadowOf (partnerOf t))

theorem makePair_mem (s : State) (t : Thr) : (makePair s false t).mem = (pairCopied s t).mem :=
  (noteFree_mem ..).trans (noteFree_mem ..)

theorem makePair_tiles (s : State) (t : Thr) : (makePair s false t).tiles = s.tiles := by
  have hcopies : (pairCopied s t).tiles = s.tiles :=
    (copyRow_tiles ..).trans ((copyRow_tiles (followerMade s t) t (shadowOf t)).trans (copyRow_tiles s t (partnerOf t)))
  exact (noteFree_tiles ..).trans ((noteFree_tiles ..).trans hcopies)

theorem makePair_unchanged (s : State) (t : Thr) : UnchangedBut s (makePair s false t) (pairRows t) := fun a ha => by
  rw [makePair_mem, pairCopied, copyRow_unchanged _ _ _ a fun h => ha (.inr (.inr h)), copyRow_unchanged _ _ _ a fun h => ha (.inr (.inl h)),
    followerMade_unchanged s t a fun h => ha (.inl h)]

/-- The leader's shadow row is a copy of its row. -/
theorem get_makePair_shadow (s : State) (t : Thr) {i : Nat} (hi : i < 4096)
    (hf : ¬ wholeRow (partnerOf t) (rowAddr t.core t.row + i))
    (hs : ¬ wholeRow (shadowOf (partnerOf t)) (rowAddr (shadowOf t).core (shadowOf t).row + i)) :
    Memory.get (makePair s false t).mem (rowAddr (shadowOf t).core (shadowOf t).row + i) = Memory.get s.mem (rowAddr t.core t.row + i) := by
  rw [makePair_mem, pairCopied, copyRow_unchanged _ _ _ _ hs, get_copyRow _ _ _ hi, followerMade_unchanged s t _ hf]

/-- The state in which a PAIR that has been answered with 0 makes the pair: its thread runs, s[d] is 0 and c7 PAIRED. -/
def pairedLeader (s : State) (r : Req) (d : SReg) : State :=
  let u := retireS (unpark (settled s r.id) r.thr) r.thr d 0
  setC (setC u r.thr 7 (setBits (getC u r.thr 7) 18 2 1)) r.thr 13 0

theorem runCmds_mem (s : State) (t : Thr) : (runCmds s t).mem = s.mem := by
  unfold runCmds
  dsimp only
  split
  · rfl
  · exact foldl_mem (f := fun s p => post s 0 (heddleEvent p)) (fun _ _ => rfl) ..

theorem runCmds_tiles (s : State) (t : Thr) : (runCmds s t).tiles = s.tiles := by
  unfold runCmds
  dsimp only
  split
  · rfl
  · exact List.foldlRecOn (motive := fun u : State => u.tiles = s.tiles) _ _ rfl fun _ h _ _ => h

theorem replyArrives_pair {s : State} {id : Nat} {r : Req} {d : SReg} (h : Awaits s id r) (hi : r.insn = .pair d) :
    replyArrives s id (.value 0 false) = runCmds (makePair (pairedLeader s r d) false r.thr) r.thr := by
  have hread : RetireReadable (unpark (settled s id) r.thr) r.thr := by
    rw [RetireReadable, isPaired_congr (getC_settled s id r.thr (by decide) (by decide))]
    exact readable_unpark (s := settled s id) h.reads r.thr
  rw [replyArrives_awaited h]
  unfold complete
  dsimp only
  rw [pairOf_heard, h.alone, Option.isSome_none, if_neg (by decide), findReq_id h.found, ← settled, retiring_readable hread, pairedLeader,
    findReq_id h.found]
  congr 1
  unfold deliver
  rw [hi]
  rfl

/-! ### Engines (R210) -/

theorem runEngine_mem (s : State) (tile : Nat) (q : QSel) : (runEngine s tile q).mem = s.mem := by
  unfold runEngine
  split
  · split <;> rfl
  · rfl

theorem runEngine_tiles (s : State) (tile : Nat) (q : QSel) : (runEngine s tile q).tiles = s.tiles := by
  unfold runEngine
  split
  · split <;> rfl
  · rfl

theorem admitFull_none {s : State} {tile : Nat} (h : (getTile s tile).full = []) (q : QSel) : admitFull s tile q = s := by
  unfold admitFull
  dsimp only
  rw [h]
  rfl

/-! ### A PAIR whose thread is named by a row number beyond its core -/

/-- The thread ⟨511, 211⟩: its row is row 83 of core 512, and its shadow row the service row of that core. -/
def outsider : Thr := ⟨511, 211⟩

/-- A PAIR of the outsider stands at a full queue of tile 0, and its row, a running thread's, belongs to a tile of the partition. -/
def aliasedPair : State :=
  { State.reset with
    mem := [(rowAddr 512 83 + 3922, 1#8), (cAddr ⟨512, 83⟩ 0, 0x30#8)]
    cores := [(512, {})]
    tiles := [(0, { full := [2, 1] }), (1, { assigned := true })]
    reqs := [{ id := 1, thr := outsider, insn := .pair 0, word := 0, phase := .sent }]
    io := { State.reset.io with parts := [(0, { key := 1 })] }
    doing := some (.partitionReset 0) }

/-- The PAIR as its queue takes it in. -/
def takenPair : Req := { id := 1, thr := outsider, insn := .pair 0, word := 0, phase := .engine }

/-- The job that tile 0 makes of the PAIR. -/
def pairJob : Job := { entry := 0, cmd := .pair 0, thr := outsider, block := [], fmt := 0, key := 0, priv := false, req := 0, no := State.reset.nextSeq }

/-- The state in which the queue answers the PAIR. -/
def pairTaken : State :=
  { aliasedPair with
    cores := [(512, dropKernels {})]
    tiles := [(0, { jobs := [pairJob] }), (1, { assigned := true })]
    nextSeq := State.reset.nextSeq + 1
    reqs := [takenPair] }

theorem awaits_pairTaken : Awaits pairTaken 1 takenPair :=
  ⟨rfl, rfl, by decide +kernel, rfl, rfl, rfl, by decide, fun _ _ => ⟨rfl, fun _ h => nomatch h⟩⟩

theorem tilesOfSlot_aliasedPair : tilesOfSlot aliasedPair 0 = [1] := by decide +kernel

/-- The partition's requests and jobs are gone from the queues of tile 0, and the PAIR stands at them still. -/
def othersLost : State :=
  { aliasedPair with
    cores := [(512, dropKernels {})]
    tiles := [(0, { full := [1] }), (1, { assigned := true })] }

theorem cancelJobs_aliasedPair :
    cancelJobs aliasedPair [1] =
      [QSel.mat, .cpy, .gat].foldl (fun s q => runEngine (admitFull s 0 q) 0 q) othersLost := by
  have htouched : (aliasedPair.tiles.filter fun t => (t.2.jobs ++ t.2.copies ++ t.2.gathers).any (fun j => [1].contains (tileOf j.thr.core)) ||
      t.2.full.any fun id => match findReq aliasedPair id with | some r => [1].contains (tileOf r.thr.core) | none => true) =
      [(0, { full := [2, 1] })] := by decide
  unfold cancelJobs
  dsimp only
  erw [htouched]
  rw [List.foldl_cons, List.foldl_nil]
  congr 1

theorem admitFull_othersLost :
    admitFull othersLost 0 .mat = runEngine (replyArrives pairTaken 1 (.value 0 false)) 0 .mat := by
  show acceptJob (modTile othersLost 0 fun t => { t with full := t.full.filter (· ≠ 1) }) 0 { takenPair with phase := .sent } 0 = _
  unfold acceptJob
  dsimp only
  rw [if_neg (by decide), if_pos (by decide)]
  rfl

/-- The outsider as the leader of its pair, before it is copied. -/
def outsiderLeads : State := pairedLeader pairTaken takenPair 0

theorem cancelJobs_aliasedPair_mem : (cancelJobs aliasedPair [1]).mem = (makePair outsiderLeads false outsider).mem := by
  have hfull : (getTile (runEngine (admitFull othersLost 0 .mat) 0 .mat) 0).full = [] := by
    rw [getTile, runEngine_tiles, admitFull_othersLost, runEngine_tiles, replyArrives_pair awaits_pairTaken rfl, runCmds_tiles, makePair_tiles]
    rfl
  have hcpy : (getTile (runEngine (runEngine (admitFull othersLost 0 .mat) 0 .mat) 0 .cpy) 0).full = [] := by
    rw [getTile, runEngine_tiles]
    exact hfull
  rw [cancelJobs_aliasedPair, List.foldl_cons, List.foldl_cons, List.foldl_cons, List.foldl_nil, admitFull_none hfull, admitFull_none hcpy,
    runEngine_mem, runEngine_mem, runEngine_mem, admitFull_othersLost, runEngine_mem, replyArrives_pair awaits_pairTaken rfl, runCmds_mem]
  rfl

/-- Only the row that the outsider's name stands for holds anything. -/
theorem outsiderLeads_mem : ∀ p ∈ outsiderLeads.mem, p.1 / 4096 = 512 * 128 + 83 := by decide +kernel

theorem running_outsiderLeads : tstate outsiderLeads ⟨512, 83⟩ = 2 := by decide +kernel

/-- The bytes that its shadow row takes are those of a frame-state entry whose USE is 1. -/
theorem shadow_outsiderLeads : bits (getWord outsiderLeads (rowAddr 512 83 + 3920)) 16 2 = 1 := by decide +kernel

/-- The state in which the partition's rows are reset: the outsider's pair is made. -/
def pairMade : State := cancelJobs (cancelLaunches aliasedPair 1) [1]

theorem cancelLaunches_aliasedPair : cancelLaunches aliasedPair 1 = aliasedPair := rfl

theorem pairMade_mem : pairMade.mem = (makePair outsiderLeads false outsider).mem := by
  rw [pairMade, cancelLaunches_aliasedPair, cancelJobs_aliasedPair_mem]

theorem get_pairMade {c r i : Nat} (hc : 512 ≤ c) (hr : r < 84) (hi : i < 4096) :
    Memory.get pairMade.mem (rowAddr c r + i) = Memory.get outsiderLeads.mem (rowAddr c r + i) := by
  rw [pairMade_mem]
  refine makePair_unchanged _ _ _ ?_
  simp only [pairRows, wholeRow, within, partnerOf, shadowOf, outsider, rowAddr, Nat.reduceXor]
  omega

theorem tstate_pairMade {c r : Nat} (hc : 512 ≤ c) (hr : r < 84) : tstate pairMade ⟨c, r⟩ = tstate outsiderLeads ⟨c, r⟩ := by
  refine tstate_congr (getWord_congr fun i hi => ?_)
  simp only [cAddr, Nat.add_assoc]
  exact get_pairMade hc hr (by omega)

theorem tstate_outsiderLeads {c r : Nat} (hr : r < 84) (h : ⟨c, r⟩ ≠ (⟨512, 83⟩ : Thr)) : tstate outsiderLeads ⟨c, r⟩ = 0 := by
  have h0 : getC outsiderLeads ⟨c, r⟩ 0 = 0 := getWord_of_zeros fun i hi => by
    refine Memory.get_of_not_any (List.any_eq_false.2 fun p hp he => ?_)
    have hrow := outsiderLeads_mem p hp
    simp only [ne_eq, Thr.mk.injEq] at h
    simp only [cAddr, rowAddr, beq_iff_eq] at he
    omega
  rw [tstate, h0]
  rfl

/-- The frame-state entry of row 83, which the service row holds, is the shadow row's copy. -/
theorem frameUse_pairMade : frameUse pairMade 512 83 = 1 := by
  have hword : getWord pairMade (frameAddr 512 83) = getWord outsiderLeads (rowAddr 512 83 + 3920) := getWord_moved fun i hi => by
    have hentry : frameAddr 512 83 + i = rowAddr (shadowOf outsider).core (shadowOf outsider).row + (3920 + i) := by
      simp only [frameAddr, shadowOf, outsider, rowAddr]
      omega
    have hname : rowAddr 512 83 + 3920 + i = rowAddr outsider.core outsider.row + (3920 + i) := by
      simp only [outsider, rowAddr]
      omega
    rw [pairMade_mem, hentry, hname]
    refine get_makePair_shadow outsiderLeads outsider (i := 3920 + i) (by omega) ?_ ?_
    all_goals
      simp only [wholeRow, within, partnerOf, shadowOf, outsider, rowAddr, Nat.reduceXor]
      omega
  rw [frameUse, if_pos (by decide), hword, shadow_outsiderLeads]

/-- The rows' reset finds a frame in row 83 of core 512, and no thread in any other row. -/
theorem rowsReset_pairMade : rowsReset pairMade (coresOf pairMade [1]) = pairMade := rowsReset_skips fun c hc r hr => by
  have htile : tileOf c = 1 := by simpa using (List.mem_filter.1 hc).2
  have h512 : 512 ≤ c := by unfold tileOf at htile; omega
  by_cases h : (⟨c, r⟩ : Thr) = ⟨512, 83⟩
  · obtain ⟨rfl, rfl⟩ := Thr.mk.injEq .. ▸ h
    exact .inl (by rw [frameUse_pairMade]; decide)
  · exact .inr ((tstate_pairMade h512 hr).trans (tstate_outsiderLeads hr h))

/-- The reset leaves the thread in row 83 of core 512 running. -/
theorem running_after_reset : tstate (echoes (partitionResets aliasedPair 0)) ⟨512, 83⟩ = 2 := by
  have hmem : (echoes (partitionResets aliasedPair 0)).mem = pairMade.mem := by
    rw [echoes_mem, partitionResets_mem (by decide), tilesOfSlot_aliasedPair]
    exact congrArg State.mem rowsReset_pairMade
  rw [tstate_congr (s := pairMade) (getWord_congr fun i _ => by rw [hmem]), tstate_pairMade (by decide) (by decide), running_outsiderLeads]

theorem exec_aliasedPair : exec (Event.partitionReset 0).instr aliasedPair = .next (echoes (partitionResets aliasedPair 0)) := rfl

theorem ibHeld_aliasedPair (c : Nat) : (getCore aliasedPair c).ibHeld = [] := by
  simp only [aliasedPair, getCore, look]
  split <;> rfl

end Sys2Proof.Machine

namespace Sys2Proof
open Machine

/-- Refutes O35: its clause on a partition's reset does not ask that the rows that requests name are rows of their cores. In `aliasedPair` a
PAIR waits at a full queue, of a thread whose row number runs into the next core. The reset of the queues lets the PAIR in, the pair's shadow row
is that core's service row, and the frame-state entry that is copied there makes the reset pass over a row with a running thread. -/
theorem not_launchesPlacedAndEnded : ¬ Obligations.LaunchesPlacedAndEnded := by
  rintro ⟨-, hends⟩
  obtain ⟨-, -, -, -, hreset⟩ := hends aliasedPair
  obtain ⟨t, ht, -, -, hrows⟩ := hreset 0 rfl (by decide) (fun _ h => nomatch h) ibHeld_aliasedPair
  obtain ⟨-, -, hfree⟩ := hrows (512, {}) List.mem_cons_self (by rw [tilesOfSlot_aliasedPair]; decide)
  have hzero := hfree 83 (by decide) (by decide +kernel)
  obtain rfl : echoes (partitionResets aliasedPair 0) = t := Host.Outcome.next.inj (exec_aliasedPair.symm.trans ht)
  exact absurd (running_after_reset.symm.trans hzero) (by decide)

end Sys2Proof
end

section
/-! PROOFS. What keeps the tables of the distributor: reads, packets, and the writes of an engine (R46, R51, R54). -/
namespace Sys2Proof.Machine

/-- The queues and launches of the I/O die are the same. -/
structure SameLedger (s t : State) : Prop where
  queues   : t.io.queues = s.io.queues
  launches : t.io.launches = s.io.launches

namespace SameLedger
variable {s t u : State}

theorem refl (s : State) : SameLedger s s := ⟨rfl, rfl⟩

theorem trans (h : SameLedger s t) (k : SameLedger t u) : SameLedger s u :=
  ⟨k.queues.trans h.queues, k.launches.trans h.launches⟩

theorem ofIo (h : t.io = s.io) : SameLedger s t := ⟨by rw [h], by rw [h]⟩

theorem ofReadOnly (h : ReadOnly s t) : SameLedger s t := by
  obtain ⟨a, b, e⟩ := h.io
  exact ⟨by rw [e], by rw [e]⟩

theorem ofFold {ι : Type} {f : State → ι → State} (hf : ∀ s i, SameLedger s (f s i)) (l : List ι) (s : State) : SameLedger s (l.foldl f s) :=
  l.foldlRecOn (motive := SameLedger s) f (refl s) fun u h i _ => h.trans (hf u i)

theorem getQueue (h : SameLedger s t) (q : Nat) : getQueue t q = getQueue s q := getQueue_congr h.queues q

theorem findLaunch (h : SameLedger s t) (id : Nat) : findLaunch t id = findLaunch s id := findLaunch_congr h.launches id

/-! ### Packets -/

theorem ofSend (s : State) (cls : Cls) (src dst : Nat) (a : Act) : SameLedger s (send s cls src dst a) := ofIo rfl

theorem ofAnswer (s : State) (tile id : Nat) (a : Ans) : SameLedger s (answer s tile id a) := by
  unfold answer
  split
  · exact refl s
  · exact ofSend ..

theorem ofToSupervisor (s : State) (tile slot : Nat) (w0 w1 : Word) : SameLedger s (toSupervisor s tile slot w0 w1) := by
  unfold toSupervisor
  dsimp only
  split_ifs <;> exact ⟨rfl, rfl⟩

theorem ofEntryFails (s : State) (tile : Nat) (m : InboxMsg) (sub : Nat) : SameLedger s (entryFails s tile m sub) := by
  unfold entryFails
  split
  · exact ofToSupervisor ..
  · exact ⟨rfl, rfl⟩
  all_goals exact ofToSupervisor ..

theorem ofToInbox (s : State) (tile : Nat) (m : InboxMsg) : SameLedger s (toInbox s tile m) := by
  have hfail (sub : Nat) : SameLedger s (if m.kind = .message && m.req ≠ 0 then
      send (entryFails s tile m sub) .rsp ioDie tile (.run (.reply m.req (.value 0 false))) else entryFails s tile m sub) := by
    split
    · exact (ofEntryFails ..).trans (ofSend ..)
    · exact ofEntryFails ..
  unfold toInbox
  dsimp only
  split
  · split
    · exact ⟨rfl, rfl⟩
    · exact hfail _
  · split
    · exact hfail _
    · exact ofSend ..

/-! ### What an engine writes -/

theorem ofPutBytes (s : State) (a : Nat) (bs : List Byte) : SameLedger s (putBytes s a bs) := ofIo rfl

theorem ofPutFull (s : State) (a : Nat) (bs : List Byte) : SameLedger s (putFull s a bs) := ofIo rfl

theorem ofNoteGranule (s : State) (read : Bool) (a : Nat) : SameLedger s (noteGranule s read a) := by
  unfold noteGranule
  split <;> exact ofIo rfl

theorem ofNoteReplica (s : State) (read : Bool) (p : MajPkt) : SameLedger s (noteReplica s read p) :=
  (ofNoteGranule ..).trans (ofNoteGranule ..)

theorem ofMeetPair (s : State) (p : MajPkt) : SameLedger s (touchWord (touch s (granuleAddr p) 64) (tagAddr p)) :=
  ofReadOnly (((ReadOnly.refl s).touch ..).touchWord _)

theorem ofReplicaRead (s : State) (p : MajPkt) : SameLedger s (replicaRead s p).1 := by
  unfold replicaRead
  split
  · exact refl s
  · refine (ofMeetPair s p).trans ?_
    dsimp only
    split
    · split
      · exact ofPutBytes ..
      · exact refl _
    · exact refl _

theorem ofReplicaWrite (s : State) (p : MajPkt) : SameLedger s (replicaWrite s p).1 := by
  unfold replicaWrite
  split
  · exact refl s
  · refine (ofMeetPair s p).trans ?_
    dsimp only
    split
    · exact (ofPutFull ..).trans (ofPutFull ..)
    · exact refl _

theorem ofMajAnswers (s : State) (o : Opd) (e : List Word) (n g : Nat) : SameLedger s (majAnswers s o e n g).1 := by
  unfold majAnswers
  refine (answering s o e).foldlRecOn (motive := fun a : State × List (Nat × MajAns) => SameLedger s a.1) _ (refl s) fun a h x _ => ?_
  exact h.trans ((ofNoteReplica ..).trans (ofReplicaRead ..))

theorem ofMajGet (s : State) (o : Opd) (e : List Word) (n g : Nat) : SameLedger s (majGet s o e n g).1 := by
  unfold majGet
  dsimp only
  split <;> exact ofMajAnswers ..

theorem ofMajPut (s : State) (o : Opd) (e : List Word) (n g : Nat) (tag : Word) (data : BitVec 512) :
    SameLedger s (majPut s o e n g tag data) := by
  refine ofFold (fun u x => ?_) _ s
  dsimp only
  split
  · exact ofIo rfl
  · exact (ofNoteReplica ..).trans (ofReplicaWrite ..)

theorem ofMajStore (s : State) (o : Opd) (e : List Word) (n g writer : Nat) (x m : BitVec 512) :
    SameLedger s (majStore s o e n g writer x m).1 := by
  have hget := ofMajGet s o e n g
  unfold majStore
  split
  · next he =>
    rw [he] at hget
    exact hget
  · next he =>
    rw [he] at hget
    split
    · exact hget
    · exact hget.trans (ofMajPut ..)

theorem ofPutGrans (slot : Nat) (o : Opd) (writer : Nat) (l : List (Nat × BitVec 512 × BitVec 512)) (s : State) :
    SameLedger s (putGrans slot o writer l s).1 := by
  induction l generalizing s with
  | nil => exact refl s
  | cons p l ih =>
    unfold putGrans
    split
    · exact refl s
    · next e _ =>
      have hstore := ofMajStore s o e (p.1 / 64) (p.1 % 64) writer p.2.1 p.2.2
      split
      · next he =>
        rw [he] at hstore
        exact hstore.trans (ih _)
      · next he =>
        rw [he] at hstore
        exact hstore

theorem ofTouchEntries (s : State) (slot : Nat) (o : Opd) (subs : List Nat) : SameLedger s (touchEntries s slot o subs) := by
  unfold touchEntries
  split
  · exact refl s
  · exact ofFold (fun u _ => ofReadOnly ((ReadOnly.refl u).touchWords _)) ..

theorem ofPutWords (s : State) (full : Bool) (l : List (Nat × Word × Word)) : SameLedger s (putWords s full l) := by
  refine ofFold (fun u p => ?_) _ s
  dsimp only
  split_ifs <;> exact ofIo rfl

theorem ofClearReserved (s : State) (a n : Nat) : SameLedger s (clearReserved s a n) := by
  refine ofFold (fun u w => ?_) _ s
  split <;> exact ofIo rfl

theorem ofPutElems (s : State) (slot : Nat) (o : Opd) (full : Bool) (l : List Put) : SameLedger s (putElems s slot o full l) := by
  unfold putElems
  split
  · exact ofIo rfl
  · have hwords := (ofFold (f := fun s (p : Put) => noteGranule s false p.a) (fun u p => ofNoteGranule u false p.a) l s).trans
      (ofPutWords _ full (l.foldl (fun ws p => addWord ws p.a p.x p.m) []))
    dsimp only
    split
    · exact hwords.trans (ofFold (fun u w => ofClearReserved ..) ..)
    · exact hwords

theorem ofPutFar (s : State) (tile : Nat) (thr : Thr) (l : List (Nat × ObjPkt)) : SameLedger s (putFar s tile thr l) := by
  refine ofFold (fun u p => ?_) _ s
  dsimp only
  split
  · exact ⟨rfl, rfl⟩
  · exact ofToSupervisor ..

theorem ofFlush (s : State) (slot : Nat) (o : Opd) (subs : List Nat) (tile : Nat) (thr : Thr) (writer : Nat) (full : Bool) (w : Writes) :
    SameLedger s (flush s slot o subs tile thr writer full w).1 := by
  have helems := (ofTouchEntries s slot o subs).trans (ofPutElems (touchEntries s slot o subs) slot o full w.puts.reverse)
  refine ((helems.trans (ofPutFar _ tile thr w.far)).trans (ofFold (fun u p => ?_) ..)).trans (ofPutGrans ..)
  split
  · exact ofIo rfl
  · exact refl _

end SameLedger
end Sys2Proof.Machine
end

section
/-! PROOFS. What the checks on a THREADS packet look at (R45 to R49): not the launches. -/
namespace Sys2Proof.Machine

/-- What placement looks at is the same: the tables, the rows and their cores, the pairs, and the counters. -/
structure SamePlaces (s t : State) : Prop extends SameTables s t where
  now      : t.now = s.now
  cores    : t.cores = s.cores
  pairs    : t.pairs = s.pairs
  counters : t.io.counters = s.io.counters

namespace SamePlaces
variable {s t : State}

theorem ofModLaunch (s : State) (id : Nat) (f : LaunchSt → LaunchSt) : SamePlaces s (modLaunch s id f) :=
  ⟨⟨rfl, rfl, rfl, rfl, rfl, rfl, rfl, rfl⟩, rfl, rfl, rfl, rfl⟩

/-! ### Rows and their cores -/

theorem getCore (h : SamePlaces s t) (c : Nat) : getCore t c = getCore s c := by rw [Machine.getCore, Machine.getCore, h.cores, h.now]

theorem tstate (h : SamePlaces s t) (th : Thr) : tstate t th = tstate s th := by
  simp only [Machine.tstate, getC, h.getWord]

theorem frameUse (h : SamePlaces s t) (c r : Nat) : frameUse t c r = frameUse s c r := by
  rw [Machine.frameUse, Machine.frameUse, h.getWord]

theorem isShadow (h : SamePlaces s t) (c r : Nat) : isShadow t c r = isShadow s c r := by
  rw [Machine.isShadow, Machine.isShadow, h.getCore, h.pairs]

theorem isFreeRow (h : SamePlaces s t) (c : Nat) : isFreeRow t c = isFreeRow s c := by
  funext r
  simp only [Machine.isFreeRow, h.frameUse, h.isShadow, h.tstate, h.getCore]

theorem threadRows (h : SamePlaces s t) (l : List Thr) (c k : Nat) : threadRows t l c k = threadRows s l c k := by
  simp only [Machine.threadRows, holdsThread, h.frameUse, h.isShadow, h.tstate, h.getCore]

theorem reportOf (h : SamePlaces s t) (c : Nat) : reportOf t c = reportOf s c := by
  rw [Machine.reportOf, Machine.reportOf, h.getTile, h.isFreeRow]

theorem viewOf (h : SamePlaces s t) (l : List Nat) : viewOf t l = viewOf s l := by
  simp only [Machine.viewOf, h.reportOf]

theorem corePresent (h : SamePlaces s t) (c : Nat) : corePresent t c = corePresent s c := by
  rw [Machine.corePresent, Machine.corePresent, h.absent]

theorem homeFits (h : SamePlaces s t) (wide paired : Bool) (th : Thr) : homeFits t wide paired th = homeFits s wide paired th := by
  simp only [Machine.homeFits, modeFits, h.getCore, h.corePresent, h.stackDown]

theorem homeFree (h : SamePlaces s t) (v : View) (wide paired : Bool) : homeFree t v wide paired = homeFree s v wide paired := by
  funext th
  rw [Machine.homeFree, Machine.homeFree, h.homeFits]

theorem pickRow (h : SamePlaces s t) (v : View) (l : List Thr) (wide paired : Bool) (c : Nat) :
    pickRow t v l wide paired c = pickRow s v l wide paired c := by
  simp only [Machine.pickRow, h.homeFree, h.threadRows]

/-! ### Where a launch goes -/

theorem chooseOn (h : SamePlaces s t) (wide paired : Bool) (v : View) (l : List Thr) (cs : List Nat) :
    chooseOn t wide paired v l cs = chooseOn s wide paired v l cs := by
  induction cs generalizing v l with
  | nil => rfl
  | cons c cs ih => simp only [Machine.chooseOn, h.pickRow, ih]

theorem spread (h : SamePlaces s t) (wide paired : Bool) (cs : List Nat) (n : Nat) (v : View) (l : List Thr) :
    spread t wide paired cs n v l = spread s wide paired cs n v l := by
  induction n generalizing v l with
  | zero => rfl
  | succ n ih => simp only [Machine.spread, spreadCore, h.pickRow, ih]

theorem tilesOfSlot (h : SamePlaces s t) (slot : Nat) : tilesOfSlot t slot = tilesOfSlot s slot := by
  rw [Machine.tilesOfSlot, Machine.tilesOfSlot, funext (h.inSlot slot)]

theorem capacity (h : SamePlaces s t) (tiles : List Nat) : capacity t tiles = capacity s tiles := by
  simp only [Machine.capacity, h.presentIn]

theorem kthAnyFrom (h : SamePlaces s t) (n tile i k : Nat) : kthAnyFrom t n tile i k = kthAnyFrom s n tile i k := by
  induction n generalizing tile i k with
  | zero => rfl
  | succ n ih => simp only [Machine.kthAnyFrom, h.presentIn, ih]

theorem kthPresent (h : SamePlaces s t) (first : Nat) : kthPresent t first = kthPresent s first := by
  funext k
  rw [Machine.kthPresent, Machine.kthPresent, h.kthAnyFrom]

theorem pinnedRows (h : SamePlaces s t) (slot : Nat) (p : Packet) : pinnedRows t slot p = pinnedRows s slot p := by
  simp only [Machine.pinnedRows, h.tilesOfSlot, h.corePresent, h.capacity, h.kthPresent, h.presentIn, h.stackDown]

theorem entryNow (h : SamePlaces s t) (slot handle n : Nat) : entryNow t slot handle n = entryNow s slot handle n := by
  simp only [Machine.entryNow, h.recordNow, entryPlace, h.elemAddr, readWords, h.getWord]

theorem ownerCore (h : SamePlaces s t) (slot handle n : Nat) : ownerCore t slot handle n = ownerCore s slot handle n := by
  have haway : awayCore t = awayCore s := by
    funext x
    rw [awayCore, awayCore, h.devid]
  have hhealth : healthOf t = healthOf s := by
    funext k
    rw [healthOf, healthOf, h.health]
  have hup : upReplicas t = upReplicas s := by
    funext l
    rw [upReplicas, upReplicas, hhealth]
  simp only [Machine.ownerCore, h.validNow, computedPlace, h.placeSub, h.entryNow, haway, hup]

theorem fitSpread (h : SamePlaces s t) (slot : Nat) (p : Packet) : fitSpread t slot p = fitSpread s slot p := by
  simp only [Machine.fitSpread, h.tilesOfSlot, h.capacity, h.stackDown, h.presentIn, h.reportOf, h.spread]

theorem fitNear (h : SamePlaces s t) (slot : Nat) (p : Packet) (final : Bool) : fitNear t slot p final = fitNear s slot p final := by
  simp only [Machine.fitNear, h.tilesOfSlot, h.capacity, h.ownerCore, h.validNow, h.stackDown, h.inSlot, h.viewOf, h.chooseOn]

theorem fitOf (h : SamePlaces s t) (slot : Nat) (p : Packet) (final : Bool) : fitOf t slot p final = fitOf s slot p final := by
  simp only [Machine.fitOf, h.fitSpread, h.fitNear, h.pinnedRows, h.viewOf, h.homeFree]

/-! ### The checks -/

theorem threadsPacketOk (h : SamePlaces s t) (q : QueueSt) (l : LaunchSt) : threadsPacketOk t q l = threadsPacketOk s q l := by
  simp only [Machine.threadsPacketOk, ringRec, keySlot, h.parts, h.validNow, ownsCounter, getCounter_congr h.counters, h.fitOf]

end SamePlaces
end Sys2Proof.Machine
end

section
/-! PROOFS. Queues (O33): doorbells, THAW and the dispatch of packets (R51 to R53, R55, R57). -/
namespace Sys2Proof.Machine
open Claims

/-! ### Packets at a queue's head -/

theorem touchPacket_clean {s : State} (h : s.bitErrs = []) (q : QueueSt) (x : Word) : touchPacket s q x = s := by
  rw [touchPacket, h]
  rfl

theorem touchPacket_queues (s : State) (q : QueueSt) (x : Word) : (touchPacket s q x).io.queues = s.io.queues := by
  unfold touchPacket
  split
  · rfl
  · exact (SameLedger.ofReadOnly ((ReadOnly.refl s).touchWords _)).queues

theorem enterLaunch_queues (s : State) (q : Nat) (x : Word) (p : Packet) (key : BitVec 16) (thr : Option Thr) :
    (enterLaunch s q x p key thr).io.queues = s.io.queues := by
  unfold enterLaunch
  split <;> rfl

theorem enterRange_queues (s : State) (q : Nat) (x : Word) (n : Nat) : (enterRange s q x n).io.queues = s.io.queues :=
  List.foldlRecOn (motive := fun u : State => u.io.queues = s.io.queues) _ _ rfl fun u h k _ => by
    dsimp only
    split <;> exact (enterLaunch_queues ..).trans ((touchPacket_queues ..).trans h)

/-- The launch that a packet of a host-fed queue becomes. -/
def enteredLaunch (s : State) (q : Nat) (x : Word) (p : Packet) (key : BitVec 16) : LaunchSt :=
  { id := freshLaunch s, queue := q, index := x, packet := p, part := (getQueue s q).part
    key := if pKey p = 0 then key else pKey p, state := .queued, prio := pPrio p, launcher := none, lkey := key }

theorem enterLaunch_launches {s : State} {p : Packet} (h : pKind p = 1) (q : Nat) (x : Word) (key : BitVec 16) :
    (enterLaunch s q x p key none).io.launches = s.io.launches ++ [enteredLaunch s q x p key] := by
  rw [enterLaunch, if_neg (not_not.2 h)]
  rfl

theorem pKey_eq_zero {p : Packet} : pKey p = 0 ↔ bits (pw p 0) 16 16 = 0 := (BitVec.toNat_eq (x := pKey p) (y := 0))

/-- One packet of a host-fed ring is entered. -/
theorem enterRange_one {s : State} {q : Nat} (x : Word) (hi : (getQueue s q).issuers = []) (hb : s.bitErrs = []) :
    enterRange s q x 1 = enterLaunch s q x (ringPacket s (getQueue s q) x) (getQueue s q).key none := by
  have h0 : x + BitVec.ofNat 64 0 = x := BitVec.add_zero x
  rw [enterRange, List.range_one, List.foldl_cons, List.foldl_nil]
  simp only [h0, touchPacket_clean hb, hi, List.find?_nil]

/-! ### Doorbell and THAW (R51) -/

theorem exec_doorbell {s : State} {q : Nat} {v : Word} (h : s.doing = some (.doorbell q v)) :
    exec (Event.doorbell q v).instr s = .next (doorbellRings s q v) := by
  show execDoorbell s = _
  rw [execDoorbell, h]

theorem exec_thaw {s : State} {q : Nat} (h : s.doing = some (.thaw q)) :
    exec (Event.thaw q).instr s = .next (kickQueue (modQueue s q fun x => { x with frozen := false }) q) := by
  show execThaw s = _
  rw [execThaw, h]

theorem doorbellRings_moves {s : State} {q : Nat} {v : Word} (hfed : (getQueue s q).devfed = false)
    (hahead : (v - (getQueue s q).tail).toNat < 2 ^ 63) (hfits : (v - (getQueue s q).fence).toNat ≤ 2 ^ (getQueue s q).size.toNat) :
    doorbellRings s q v =
      kickQueue (modQueue (enterRange s q (getQueue s q).tail (v - (getQueue s q).tail).toNat) q fun x => { x with tail := v }) q := by
  unfold doorbellRings
  dsimp only
  rw [if_neg (by simp only [hfed, Bool.false_or, Bool.or_eq_true, decide_eq_true_eq]; omega)]

theorem doorbellRings_ignored {s : State} {q : Nat} {v : Word}
    (h : 2 ^ 63 ≤ (v - (getQueue s q).tail).toNat ∨ 2 ^ (getQueue s q).size.toNat < (v - (getQueue s q).fence).toNat) :
    doorbellRings s q v = s := by
  unfold doorbellRings
  dsimp only
  rw [if_pos (by simp only [Bool.or_eq_true, decide_eq_true_eq]; tauto)]

theorem doorbells : Doorbells := by
  intro s q v
  refine ⟨fun hdoing hfed => ⟨fun hahead hfits => ⟨_, exec_doorbell hdoing, ?_⟩, fun h => ?_⟩, fun hdoing => ⟨_, exec_thaw hdoing, ?_⟩⟩
  · have hqueue : getQueue (enterRange s q (getQueue s q).tail (v - (getQueue s q).tail).toNat) q = getQueue s q :=
      getQueue_congr (enterRange_queues ..) q
    rw [doorbellRings_moves hfed hahead hfits]
    refine ⟨?_, ?_, ?_, fun hv hkind hi hb => ?_⟩
    · rw [getQueue_kickQueue, getQueue_modQueue]
    · rw [getQueue_kickQueue, getQueue_modQueue, hqueue]
    · rw [kickQueue_mem, modQueue_mem, enterRange_mem]
    · have hone : (v - (getQueue s q).tail).toNat = 1 := by rw [hv, BitVec.add_comm, BitVec.add_sub_cancel]; rfl
      have hnew : enteredLaunch s q (getQueue s q).tail (ringPacket s (getQueue s q) (getQueue s q).tail) (getQueue s q).key ∈
          (enterRange s q (getQueue s q).tail 1).io.launches := by
        rw [enterRange_one _ hi hb, enterLaunch_launches hkind]
        exact List.mem_append_right _ List.mem_cons_self
      rw [hone, kickQueue_io]
      exact ⟨_, hnew, rfl, rfl, rfl, rfl, rfl, if_congr pKey_eq_zero rfl rfl⟩
  · exact (exec_doorbell hdoing).trans (congrArg _ (doorbellRings_ignored h))
  · simp only [getQueue_kickQueue, getQueue_modQueue, kickQueue_mem, modQueue_mem, and_self]

/-! ### COUNTER and FENCE packets (R52, R55) -/

theorem getQueue_advance (s : State) (q : Nat) :
    getQueue (advance s q) q = { getQueue s q with head := (getQueue s q).head + 1, hold := .none } := by
  rw [advance, getQueue_kickQueue, getQueue_modQueue]

theorem advance_mem (s : State) (q : Nat) : (advance s q).mem = s.mem := by rw [advance, kickQueue_mem, modQueue_mem]

theorem getCounter_advance (s : State) (q n : Nat) : getCounter (advance s q) n = getCounter s n := by
  rw [advance, getCounter_kickQueue, getCounter_modQueue]

theorem findLaunch_advance (s : State) (q id : Nat) : findLaunch (advance s q) id = findLaunch s id := by
  rw [advance, findLaunch_kickQueue, findLaunch_modQueue]

theorem getQueue_post (s : State) (d : Nat) (e : Event) (q : Nat) : getQueue (post s d e) q = getQueue s q := rfl

/-- A sound packet that waits for no counter acts. -/
theorem heldPacket_acts {s : State} {q : Nat} {p : Packet} (hhold : (getQueue s q).hold = .none)
    (hok : plainPacketOk s (getQueue s q) p = true) (hwait : pWaitEn p = false) (act : State → State) : heldPacket s q p act = act s := by
  simp [heldPacket, hhold, hok, hwait]

theorem exec_counterPacket {s : State} {q : Nat} (h : s.doing = some (.counterPacket q)) :
    exec (Event.counterPacket q).instr s = .next (counterPacketActs s q) := by
  show execCounterPacket s = _
  rw [execCounterPacket, h]

theorem exec_fencePacket {s : State} {q : Nat} (h : s.doing = some (.fencePacket q)) :
    exec (Event.fencePacket q).instr s = .next (fencePacketActs s q) := by
  show execFencePacket s = _
  rw [execFencePacket, h]

theorem writeFence_ledger (s : State) (q : QueueSt) (p : Packet) (x : Word) : SameLedger s (writeFence s q p x) := by
  unfold writeFence
  split
  · exact .refl s
  · dsimp only
    split
    · exact .refl s
    · exact .ofFlush ..

section
variable {s : State} {q : Nat} (hcan : canDispatch (getQueue s q) = true) (hhold : (getQueue s q).hold = .none) (hb : s.bitErrs = [])
  (hok : plainPacketOk s (getQueue s q) (ringPacket s (getQueue s q) (getQueue s q).head) = true)
  (hwait : pWaitEn (ringPacket s (getQueue s q) (getQueue s q).head) = false)
include hcan hhold hb hok hwait

theorem counterPacketActs_sets (hkind : headKind s q = 3) :
    let p := ringPacket s (getQueue s q) (getQueue s q).head
    counterPacketActs s q = advance (setCounter s (pDoneCtr p) ((pw p 3).extractLsb' 0 32)) q := by
  unfold counterPacketActs
  dsimp only
  rw [touchPacket_clean hb, hcan, hkind, if_pos (by decide), heldPacket_acts hhold hok hwait]

theorem fencePacketActs_eq (hkind : headKind s q = 2) :
    let qs := getQueue s q
    let p := ringPacket s qs qs.head
    fencePacketActs s q =
      if queueBusy s q then modQueue s q fun x => { x with hold := .released false }
      else if fenceWaits s qs p then post (modQueue s q fun x => { x with hold := .released false }) 1 (.fencePacket q)
      else advance (modQueue (writeFence s qs p (BitVec.ofNat 64 (q * 4294967296 + qs.head.toNat % 4294967296))) q fun y =>
        { y with fence := qs.head + 1, issuers := y.issuers.filter fun i => (i.1 - (qs.head + 1)).toNat < 2 ^ 63 }) q := by
  unfold fencePacketActs
  dsimp only
  rw [touchPacket_clean hb, hcan, hkind, if_pos (by decide), heldPacket_acts hhold hok hwait]

end

/-- A write of a counter for which nobody waits leaves the queues alone. -/
theorem getQueue_setCounter_alone {s : State} {n : Nat} (h : (getCounter s n).waiters = []) (v : BitVec 32) (q : Nat) :
    getQueue (setCounter s n v) q = getQueue s q := by
  rw [setCounter_eq]
  dsimp only
  split
  · rw [releaseCounter_eq, getCounter_modCounter, h]
    rfl
  · rfl

/-! ### The end of a launch that has no rows (R54, R57) -/

/-- A field of queues that an update keeps is the same in every queue. -/
theorem modQueue_keeps {α : Type} {g : QueueSt → α} {f : QueueSt → QueueSt} (h : ∀ x, g (f x) = g x) (s : State) (r q : Nat) :
    g (getQueue (modQueue s r f) q) = g (getQueue s q) := by
  rw [getQueue, modQueue, look_store]
  split
  · next e => rw [h, e]
  · rfl

/-- What telling a completion keeps: the heads and FROZEN of all queues, and that a launch is what it was or is gone. -/
structure Tells (s t : State) (id : Nat) : Prop where
  head   : ∀ q, (getQueue t q).head = (getQueue s q).head
  frozen : ∀ q, (getQueue t q).frozen = (getQueue s q).frozen
  launch : ∀ x, findLaunch t id = some x → findLaunch s id = some x

theorem Tells.ofLedger {s t : State} {id : Nat} (h : SameLedger s t) : Tells s t id :=
  ⟨fun q => by rw [h.getQueue], fun q => by rw [h.getQueue], fun x hx => by rw [← h.findLaunch, hx]⟩

theorem Tells.trans {s t u : State} {id : Nat} (h : Tells s t id) (k : Tells t u id) : Tells s u id :=
  ⟨fun q => (k.head q).trans (h.head q), fun q => (k.frozen q).trans (h.frozen q), fun x hx => h.launch x (k.launch x hx)⟩

theorem Tells.ite {s t u : State} {id : Nat} {p : Prop} [Decidable p] (h : Tells s t id) (k : Tells s u id) : Tells s (if p then t else u) id := by
  split
  · exact h
  · exact k

theorem notifyLaunch_ledger (s : State) (l : LaunchSt) (status : Nat) : SameLedger s (notifyLaunch s l status) := by
  unfold notifyLaunch
  split
  · exact .refl s
  · exact .ofToInbox ..

theorem findLaunch_dropLaunch (s : State) (id : Nat) : findLaunch (dropLaunch s id) id = none := by
  simp [findLaunch, dropLaunch]

theorem tellLaunch_tells (s : State) (l : LaunchSt) : Tells s (tellLaunch s l) l.id := by
  have hcount (u : State) (r st : Nat) : Tells u (countCompletion u r st) l.id :=
    ⟨fun q => modQueue_keeps (g := (·.head)) (by intro; rfl) u r q, fun q => modQueue_keeps (g := (·.frozen)) (by intro; rfl) u r q, fun _ h => h⟩
  have hdrop (u : State) : Tells u (if l.inRing then u else dropLaunch u l.id) l.id := by
    exact .ite (.ofLedger (.refl u)) ⟨fun _ => rfl, fun _ => rfl, fun x hx => nomatch (findLaunch_dropLaunch u l.id).symm.trans hx⟩
  have hkick (u : State) : Tells u (kickQueue (poke u l.part) l.queue) l.id := .ofLedger (.ofIo ((kickQueue_io ..).trans (poke_io ..)))
  unfold tellLaunch
  dsimp only
  refine (Tells.trans ?_ (hdrop _)).trans (hkick _)
  have hkeep : Tells s s l.id := .ofLedger (.refl s)
  exact .ite (.ite (.ofLedger (notifyLaunch_ledger ..)) hkeep) (.ite (hcount ..) hkeep)

/-- A launch that waits for its end in no row: nothing waits on a counter for it, and those who sent to it have their answer. -/
def unawaited (s : State) (l : LaunchSt) : State :=
  l.msgs.foldl (fun s m => if m.req = 0 then s else answer s ioDie m.req (ansWord 0))
    { s with io := { s.io with counters := s.io.counters.map fun c =>
      (c.1, { c.2 with waiters := c.2.waiters.filter (· ≠ .launch l.id) }) } }

theorem unawaited_ledger (s : State) (l : LaunchSt) : SameLedger s (unawaited s l) := by
  refine l.msgs.foldlRecOn (motive := SameLedger s) _ ⟨rfl, rfl⟩ fun u h m _ => ?_
  split
  · exact h
  · exact h.trans (.ofAnswer ..)

/-- A launch that has no rows becomes COMPLETE: its queue is frozen if it failed, and then its completion is told. -/
theorem completeLaunch_tells {s : State} {l : LaunchSt} (hl : findLaunch s l.id = some l) (hc : l.state ≠ .complete) (hp : l.state ≠ .placed)
    (status : Nat) (token decrement : Bool) :
    let u := unawaited s l
    let v := if (status = 2 || status = 3) && (getQueue u l.queue).part = l.part then freezeQueue u l.queue else u
    Tells (modLaunch v l.id fun l => { l with state := .complete, status := status, msgs := [] })
      (completeLaunch s l.id status token decrement) l.id := by
  intro u v
  unfold completeLaunch
  rw [hl]
  dsimp only
  rw [if_neg hc, if_neg hp]
  exact .ite (tellLaunch_tells _ { l with status := status }) (.ofLedger (.ofFold (f := follow) (fun _ _ => .ofIo rfl) ..))

theorem completeLaunch_head {s : State} {l : LaunchSt} (hl : findLaunch s l.id = some l) (hc : l.state ≠ .complete) (hp : l.state ≠ .placed)
    (status : Nat) (token decrement : Bool) (q : Nat) :
    (getQueue (completeLaunch s l.id status token decrement) q).head = (getQueue s q).head := by
  rw [(completeLaunch_tells hl hc hp status token decrement).head q, getQueue_modLaunch]
  split
  · exact (modQueue_keeps (g := (·.head)) (by intro; rfl) ..).trans (by rw [(unawaited_ledger s l).getQueue])
  · rw [(unawaited_ledger s l).getQueue]

/-- A launch that is REJECTED freezes its queue. -/
theorem completeLaunch_rejected {s : State} {l : LaunchSt} (hl : findLaunch s l.id = some l) (hc : l.state ≠ .complete) (hp : l.state ≠ .placed)
    (hpart : (getQueue s l.queue).part = l.part) (token decrement : Bool) :
    let t := completeLaunch s l.id 3 token decrement
    (∀ x, findLaunch t l.id = some x → x.state = .complete ∧ x.status = 3) ∧ (getQueue t l.queue).frozen = true := by
  have htells := completeLaunch_tells hl hc hp 3 token decrement
  have hq := (unawaited_ledger s l).getQueue l.queue
  dsimp only at htells
  rw [if_pos (by simp [hq, hpart])] at htells
  have hfind : findLaunch (freezeQueue (unawaited s l) l.queue) l.id = some l :=
    ((unawaited_ledger s l).findLaunch l.id).trans hl
  refine ⟨fun x hx => ?_, ?_⟩
  · have hdone := (findLaunch_modLaunch hfind (by intro; rfl)).symm.trans (htells.launch x hx)
    cases hdone
    exact ⟨rfl, rfl⟩
  · rw [htells.frozen, getQueue_modLaunch, freezeQueue, getQueue_modQueue]

/-! ### DISPATCH (R53, R55) -/

theorem exec_dispatch {s : State} {q : Nat} (h : s.doing = some (.dispatch q)) :
    exec (Event.dispatch q).instr s = .next (dispatched s q) := by
  show execDispatch s = _
  rw [execDispatch, h]

theorem launchAt_queue {s : State} {q : Nat} {x : Word} {l : LaunchSt} (h : launchAt s q x = some l) : l.queue = q := by
  have := List.find?_some h
  simp only [decide_eq_true_eq] at this
  exact this.1

/-- The packet of a QUEUED launch at QHEAD is taken from the ring. -/
def unringed (s : State) (l : LaunchSt) : State := modLaunch s l.id fun l => { l with inRing := false }

/-- QHEAD moves on past it. -/
def headPassed (s : State) (q : Nat) (l : LaunchSt) : State := modQueue (unringed s l) q fun x => { x with head := x.head + 1, hold := .none }

/-- A launch of the ring that ends with its dispatch: QHEAD moves on, and the launch is COMPLETE with this status. -/
def dispatchEnds (s : State) (q : Nat) (l : LaunchSt) (status : Nat) (token : Bool) : State :=
  kickQueue (completeLaunch (headPassed s q l) l.id status token true) q

/-- What becomes of a QUEUED launch whose packet is dispatched (R53, R55). -/
theorem dispatchLaunch_queued (s : State) (q : Nat) {l : LaunchSt} (hl : l.state = .queued) :
    dispatchLaunch s q l =
      let c := getCounter s (pWaitCtr l.packet)
      if !threadsPacketOk s (getQueue s q) l then dispatchEnds s q l 3 false
      else if cancelledCounter s l.packet then dispatchEnds s q l 1 false
      else if !pWaitEn l.packet then advance (makeReady (unringed s l) l.id) q
      else if c.value ≠ 0 then
        advance (poke (modLaunch (modCounter (unringed s l) (pWaitCtr l.packet) fun c => { c with waiters := c.waiters ++ [.launch l.id] })
          l.id fun l => { l with state := .waiting }) l.part) q
      else if c.errtok || c.cancel then dispatchEnds s q l 1 c.errtok
      else advance (makeReady (unringed s l) l.id) q := by
  unfold dispatchLaunch
  dsimp only
  rw [if_neg (by rw [hl]; decide), getQueue_modLaunch, (SamePlaces.ofModLaunch s l.id _).threadsPacketOk]
  rfl

theorem dispatched_launch {s : State} {q : Nat} {l : LaunchSt} (hcan : canDispatch (getQueue s q) = true)
    (hl : launchAt s q (getQueue s q).head = some l) : dispatched s q = dispatchLaunch s q l := by
  simp [dispatched, hcan, hl]

theorem findLaunch_unringed {s : State} {l : LaunchSt} (hl : findLaunch s l.id = some l) :
    findLaunch (unringed s l) l.id = some { l with inRing := false } := findLaunch_modLaunch hl fun _ => rfl

theorem findLaunch_headPassed {s : State} {l : LaunchSt} (hl : findLaunch s l.id = some l) (q : Nat) :
    findLaunch (headPassed s q l) l.id = some { l with inRing := false } := findLaunch_unringed hl

section
variable {s : State} {q : Nat} {l : LaunchSt} (hl : findLaunch s l.id = some l)
include hl

theorem dispatch_readies :
    let t := advance (makeReady (unringed s l) l.id) q
    findLaunch t l.id = some { l with state := .ready, readyAt := s.io.nextReady, inRing := false } ∧ t.mem = s.mem := by
  have hready := findLaunch_makeReady (l := { l with inRing := false }) (findLaunch_unringed hl)
  exact ⟨(findLaunch_advance ..).trans hready, (advance_mem ..).trans (makeReady_mem ..)⟩

theorem dispatch_waits :
    let t := advance (poke (modLaunch (modCounter (unringed s l) (pWaitCtr l.packet) fun c => { c with waiters := c.waiters ++ [.launch l.id] })
      l.id fun l => { l with state := .waiting }) l.part) q
    findLaunch t l.id = some { l with state := .waiting, inRing := false } ∧ t.mem = s.mem ∧
      Waiter.launch l.id ∈ (getCounter t (pWaitCtr l.packet)).waiters := by
  refine ⟨?_, ?_, ?_⟩
  · rw [findLaunch_advance, findLaunch_poke]
    exact findLaunch_modLaunch (l := { l with inRing := false }) (findLaunch_unringed hl) (by intro; rfl)
  · rw [advance_mem, poke_mem]
    rfl
  · rw [getCounter_advance, getCounter_poke, getCounter_modLaunch, getCounter_modCounter]
    exact List.mem_append_right _ List.mem_cons_self

variable (hq : l.state = .queued)
include hq

theorem dispatchEnds_head (status : Nat) (token : Bool) : (getQueue (dispatchEnds s q l status token) q).head = (getQueue s q).head + 1 := by
  have hpassed : (getQueue (headPassed s q l) q).head = (getQueue s q).head + 1 := by
    rw [headPassed, getQueue_modQueue]
    rfl
  rw [dispatchEnds, getQueue_kickQueue, ← hpassed]
  exact completeLaunch_head (s := headPassed s q l) (l := { l with inRing := false }) (findLaunch_headPassed hl q) (by simp [hq]) (by simp [hq]) ..

theorem dispatchEnds_rejected (hqueue : l.queue = q) (hpart : l.part = (getQueue s q).part) (token : Bool) :
    let t := dispatchEnds s q l 3 token
    (∀ x, findLaunch t l.id = some x → x.state = .complete ∧ x.status = 3) ∧ (getQueue t q).frozen = true := by
  subst hqueue
  have hpassed : (getQueue (headPassed s l.queue l) l.queue).part = l.part := by
    rw [headPassed, getQueue_modQueue, hpart]
    rfl
  obtain ⟨hdone, hfrozen⟩ := completeLaunch_rejected (s := headPassed s l.queue l) (l := { l with inRing := false })
    (findLaunch_headPassed hl _) (by simp [hq]) (by simp [hq]) hpassed token true
  exact ⟨fun x hx => hdone x ((findLaunch_kickQueue ..).symm.trans hx), (congrArg _ (getQueue_kickQueue ..)).trans hfrozen⟩

theorem head_dispatchLaunch : (getQueue (dispatchLaunch s q l) q).head = (getQueue s q).head + 1 := by
  have hready : (getQueue (advance (makeReady (unringed s l) l.id) q) q).head = (getQueue s q).head + 1 := by
    rw [getQueue_advance, getQueue_makeReady]
    rfl
  rw [dispatchLaunch_queued s q hq]
  dsimp only
  split_ifs
  · exact dispatchEnds_head hl hq ..
  · exact dispatchEnds_head hl hq ..
  · exact hready
  · rw [getQueue_advance, getQueue_poke]
    rfl
  · exact dispatchEnds_head hl hq ..
  · exact hready

end

theorem dispatching : Dispatching := by
  intro s q hcan hhold
  refine ⟨fun l hdoing hl hq hfind hpart => ⟨_, exec_dispatch hdoing, ?_⟩, fun hdoing hb hkind hok hwait hnone => ⟨_, exec_counterPacket hdoing, ?_⟩,
    fun hdoing hb hkind hok hwait => ?_⟩
  · rw [dispatched_launch hcan hl]
    refine ⟨head_dispatchLaunch hfind hq, fun hsound hcancel => ⟨fun hgo => ?_, fun hwait hvalue => ?_⟩, fun hunsound => ?_⟩
    · have hready : dispatchLaunch s q l = advance (makeReady (unringed s l) l.id) q := by
        rw [dispatchLaunch_queued s q hq]
        obtain hwait | ⟨hvalue, herr, hno⟩ := hgo
        · simp [hsound, hcancel, hwait]
        · simp [hsound, hcancel, hvalue, herr, hno]
      rw [hready]
      exact dispatch_readies hfind
    · rw [dispatchLaunch_queued s q hq]
      simp only [hsound, hcancel, hwait, hvalue, Bool.not_true, Bool.false_eq_true, if_false, ne_eq, not_false_eq_true, if_true]
      exact dispatch_waits hfind
    · rw [dispatchLaunch_queued s q hq]
      simp only [hunsound, Bool.not_false, if_true]
      exact dispatchEnds_rejected hfind hq (launchAt_queue hl) hpart false
  · rw [counterPacketActs_sets hcan hhold hb hok hwait hkind]
    obtain ⟨hset, hmem⟩ := setCounter_alone hnone ((pw (ringPacket s (getQueue s q) (getQueue s q).head) 3).extractLsb' 0 32)
    exact ⟨(getCounter_advance ..).trans hset, by rw [getQueue_advance, getQueue_setCounter_alone hnone], (advance_mem ..).trans hmem⟩
  · have hacts := fencePacketActs_eq hcan hhold hb hok hwait hkind
    dsimp only at hacts
    refine ⟨fun hbusy hspot => ⟨_, exec_fencePacket hdoing, ?_⟩, fun hbusy hspot => ⟨_, exec_fencePacket hdoing, ?_⟩,
      fun hbusy => ⟨_, exec_fencePacket hdoing, ?_⟩⟩
    · rw [hacts, hbusy, hspot, if_neg (by decide), if_neg (by decide)]
      beta_reduce
      rw [getQueue_advance, getQueue_modQueue, (writeFence_ledger ..).getQueue]
      exact ⟨rfl, rfl⟩
    · rw [hacts, hbusy, hspot, if_neg (by decide), if_pos rfl]
      have hkeep : getQueue (post (modQueue s q fun x => { x with hold := .released false }) 1 (.fencePacket q)) q =
          { getQueue s q with hold := .released false } := by
        rw [getQueue_post, getQueue_modQueue]
      exact ⟨by rw [hkeep], by rw [hkeep], rfl, dueIn_post rfl ..⟩
    · rw [hacts, hbusy, if_pos rfl]
      beta_reduce
      rw [getQueue_modQueue]
      exact ⟨rfl, rfl, rfl⟩

end Sys2Proof.Machine

namespace Sys2Proof
open Machine

/-- Settles O33: doorbells and THAW by the branch that each takes, and a packet at QHEAD by its kind. -/
theorem queues : Obligations.Queues := ⟨doorbells, dispatching⟩

end Sys2Proof
end

section
/-! PROOFS. Every instruction and every step answers a next state (O56). -/
namespace Sys2Proof.Machine

/-- Every instruction answers a next state: a step of the part that reads its payload from `doing` by a case on it, all others outright. -/
theorem exec_next (i : Instr) (s : State) : ∃ t, exec i s = .next t := by
  cases i with
  | longOpDone | start | stop | redirect | resume | step | heddleCancel | heddleNone | reservedCommand | corestatWrite | walk |
  tagAndGranuleRead | phase2Write | objectAccessArrival | admission | fenceProbe | probeEcho | inboxEntry | activeMessage |
  handlerStart | objsyncDrop | claim | relocCopy | walkReply | redirectAnswer | retry | retryBackoff | waitLimitExpiry | cancelWait
  | cancelWaitAnswer | majorityAnswer | rowActivation | rowClose | treadleClose | quantumExpiry | memParkExpiry | outsideActivation
  | borrowWindow | creditEarned | refresh | refreshEnd | codeRowOpen | codeRowFill | coreGate | coreWake | launchCompletion |
  counterDecrement | counterWrite | counterPacket | fencePacket | doorbell | thaw | dispatch | priorityLoan | reservation |
  agentReport | placement | checkpoint | fingerprint | fingerprintTimeout | shadowCopy | swapOut | swapIn | reply | matrixJob |
  mldbJob | moutJob | mzeroJob | mtestJob | copyJob | cpyxJob | cpycJob | pointerWrite | gathJob | scatJob | scataddJob | rowStep |
  serviceInterval | collectiveCombine | memberWithdrawal | illegalInsn | rholdWrite | markDown | stackFailure | markUp | markRebuild
  | scrubPass | pathFailure | pathRecovery | hsem | registerWrite | partitionEnable | partitionReset | vfReset | tileReassign |
  firmwareStage | attestationRequest | bringUp | powerSample | bitError | subArrayFault | temperatureSensor | fenceEcho =>
    dsimp only [exec,
      execLongOpDone, execStart, execStop, execRedirect, execResume, execStep, execHeddleCancel, execHeddleNone,
      execReservedCommand, execCorestatWrite, execWalk, execTagAndGranuleRead, execPhase2Write, execObjectAccessArrival,
      execAdmission, execFenceProbe, execProbeEcho, execInboxEntry, execActiveMessage, execHandlerStart, execObjsyncDrop, execClaim,
      execRelocCopy, execWalkReply, execRedirectAnswer, execRetry, execRetryBackoff, execWaitLimitExpiry, execCancelWait,
      execCancelWaitAnswer, execMajorityAnswer, execRowActivation, execRowClose, execTreadleClose, execQuantumExpiry,
      execMemParkExpiry, execOutsideActivation, execBorrowWindow, execCreditEarned, execRefresh, execRefreshEnd, execCodeRowOpen,
      execCodeRowFill, execCoreGate, execCoreWake, execLaunchCompletion, execCounterDecrement, execCounterWrite, execCounterPacket,
      execFencePacket, execDoorbell, execThaw, execDispatch, execPriorityLoan, execReservation, execAgentReport, execPlacement,
      execCheckpoint, execFingerprint, execFingerprintTimeout, execShadowCopy, execSwapOut, execSwapIn, execReply, execMatrixJob,
      execMldbJob, execMoutJob, execMzeroJob, execMtestJob, execCopyJob, execCpyxJob, execCpycJob, execPointerWrite, execGathJob,
      execScatJob, execScataddJob, execRowStep, execServiceInterval, execCollectiveCombine, execMemberWithdrawal, execIllegalInsn,
      execRholdWrite, execMarkDown, execStackFailure, execMarkUp, execMarkRebuild, execScrubPass, execPathFailure, execPathRecovery,
      execHsem, execRegisterWrite, execPartitionEnable, execPartitionReset, execVfReset, execTileReassign, execFirmwareStage,
      execAttestationRequest, execBringUp, execPowerSample, execBitError, execSubArrayFault, execTemperatureSensor, execFenceEcho]
    split <;> exact ⟨_, rfl⟩
  | _ => exact ⟨_, rfl⟩

/-- What goes on after a next state answers one. -/
theorem andThen_next {o : Out} {f : State → State} (h : ∃ t, o = .next t) : ∃ t, andThen o f = .next t := by
  obtain ⟨t, rfl⟩ := h
  exact ⟨f t, rfl⟩

theorem perform_next (s : State) (e : Event) : ∃ t, perform s e = .next t := by
  unfold perform
  split
  · exact exec_next ..
  · exact ⟨s, rfl⟩

theorem applyAccess_next (s : State) (q : QDo) : ∃ t, applyAccess s q = .next t := by
  cases q with
  | step e => exact perform_next s e
  | feed | fill => exact ⟨_, rfl⟩

theorem act_next (s : State) (a : Act) : ∃ t, act s a = .next t := by
  cases a with
  | run e => exact perform_next s e
  | bus => exact ⟨_, rfl⟩
  | arrive | feed =>
    dsimp only [act]
    split <;> exact ⟨_, rfl⟩
  | serve core k row q =>
    dsimp only [act]
    split
    · exact ⟨_, rfl⟩
    · exact andThen_next (applyAccess_next ..)

theorem issueWord_next (s : State) (t : Thr) (w : InsnWord) : ∃ u, issueWord s t w = .next u := by
  unfold issueWord
  dsimp only
  split <;> exact exec_next ..

theorem threadTurn_next (s : State) (t : Thr) : ∃ u, threadTurn s t = .next u := by
  unfold threadTurn
  split
  · exact ⟨_, rfl⟩
  · exact issueWord_next ..

theorem coreTurn_next (s : State) (core : Nat) : ∃ t, coreTurn s core = .next t := by
  unfold coreTurn
  dsimp only
  split
  · exact ⟨_, rfl⟩
  · exact andThen_next (threadTurn_next ..)

/-- With nothing due, a step is the turn of the next core, or the next cycle. -/
theorem step_next (s : State) : ∃ t, step s = .next t := by
  unfold step
  split
  · split
    · exact act_next ..
    · split
      · exact coreTurn_next ..
      · exact ⟨_, rfl⟩
  · split
    · exact coreTurn_next ..
    · exact ⟨_, rfl⟩

end Sys2Proof.Machine

namespace Sys2Proof

/-- Settles O56: by the cases of `exec`, and of what a step performs. -/
theorem everyInstructionAnswers : Obligations.EveryInstructionAnswers := ⟨Machine.exec_next, Machine.step_next⟩

end Sys2Proof
end

section
/-! PROOFS. Heddle commands (O21).

A packet that `Reaches` its thread goes through `heddle` unhindered: what is left is the rest of `command` in the state `taken`, in which
the store to c0 is done (`command_reaches`). `Obeys` is what `Steered` says before the sender is answered: `obeys_taken` gives it for
`taken`, a lemma for each update keeps it, and `Obeys.done` adds the answer. -/
namespace Sys2Proof.Machine
open Claims

/-! ### Code objects after reads -/

namespace ReadOnly
variable {s t : State}

theorem kthFrom (h : ReadOnly s t) (slot n tile i k : Nat) : kthFrom t slot n tile i k = kthFrom s slot n tile i k := by
  induction n generalizing tile i k with
  | zero => rfl
  | succ n ih => simp only [Machine.kthFrom, inSlot, presentIn, h.getTile, h.absent, ih]; rfl

theorem placeSub (h : ReadOnly s t) (slot : Nat) (w : Word) (S n : Nat) : placeSub t slot w S n = placeSub s slot w S n := by
  simp only [Machine.placeSub, kthCore, h.kthFrom]

theorem placeFits (h : ReadOnly s t) (slot : Nat) (r : Rec) : placeFits t slot r = placeFits s slot r := by
  simp only [Machine.placeFits, placeOk, kthCore, h.kthFrom]

theorem recordNow (h : ReadOnly s t) (slot handle : Nat) : recordNow t slot handle = recordNow s slot handle := by
  simp only [Machine.recordNow, handleOk, recordPlace, elemAddr, readWords, h.getPart, h.placeSub, h.getWord]
  rfl

theorem validNow (h : ReadOnly s t) (slot handle : Nat) : validNow t slot handle = validNow s slot handle := by
  simp only [Machine.validNow, h.recordNow, handleRecOk, tableOk, recOk, h.placeFits]
  rfl

theorem slotOf (h : ReadOnly s t) (tile : Nat) : slotOf t tile = slotOf s tile := by rw [Machine.slotOf, Machine.slotOf, h.getTile]

theorem codeRecord (h : ReadOnly s t) (core handle : Nat) : codeRecord t core handle = codeRecord s core handle := by
  simp only [Machine.codeRecord, h.validNow, h.slotOf]

theorem codeBytes (h : ReadOnly s t) (core handle : Nat) : codeBytes t core handle = codeBytes s core handle := by
  simp only [Machine.codeBytes, h.codeRecord]

theorem wordAtPc (h : ReadOnly s t) (th : Thr) : wordAtPc t th = wordAtPc s th := by
  simp only [Machine.wordAtPc, wordAt, codeOf, pcOf, codeRowOf, computedPlace, h.getC, h.codeBytes, h.getCore, h.getNat, h.codeRecord,
    h.placeSub, h.slotOf]
  rfl

theorem getThr (h : ReadOnly s t) (th : Thr) : getThr t th = getThr s th := by rw [Machine.getThr, Machine.getThr, h.getCore]

/-- Reads before a word is written are reads before it. -/
theorem putWord (h : ReadOnly s t) (a : Nat) (x : Word) : ReadOnly (putWord s a x) (putWord t a x) where
  now     := h.now
  agenda  := h.agenda
  cur     := h.cur
  mem     := by rw [putWord_mem, putWord_mem, h.mem]
  empty   := h.empty
  cores   := h.cores
  tiles   := h.tiles
  stackSt := h.stackSt
  reqs    := h.reqs
  pairs   := h.pairs
  absent  := h.absent
  io      := h.io
  errs    := fun e he => by
    obtain ⟨hmem, hkept⟩ := List.mem_filter.1 he
    exact List.mem_filter.2 ⟨h.errs e hmem, hkept⟩
  poison  := fun w hw => by
    by_cases ha : w = a
    · rw [ha, isPoisoned_putWord_self, isPoisoned_putWord_self]
    · have hne : ∀ u, isPoisoned (Machine.putWord u a x) w = isPoisoned u w := fun u => by
        simp only [isPoisoned, Machine.putWord, putBytes, length_toBytes, List.contains_eq_mem, List.mem_filter]
        simp; omega
      rw [hne, hne]
      refine h.poison w fun e he hew => hw e (List.mem_filter.2 ⟨he, ?_⟩) hew
      simp [hew]; omega

end ReadOnly

/-- Reads before a heddle store are reads after it. -/
theorem storeHeddle_readOnly {s t : State} (h : ReadOnly s t) (th : Thr) (x : Word) :
    ReadOnly (storeHeddle s th x) (storeHeddle t th x) := by
  unfold storeHeddle
  rw [h.getC]
  exact h.putWord ..

/-! ### A command that reaches its thread -/

/-- The events that carry heddle commands, with the command of each. -/
def heddleEvents (p : RowPkt) : List (Event × Nat) := plainCommands p ++ [(.redirect p, 3), (.heddleCancel p, 6)]

theorem performs_heddle {s : State} {p : RowPkt} {ec : Event × Nat} (he : ec ∈ heddleEvents p) (hd : s.doing = some ec.1)
    {R : State → Prop} (h : R (heddle s p ec.2)) : Performs s ec.1 R := by
  refine ⟨_, ?_, h⟩
  simp only [heddleEvents, plainCommands, List.cons_append, List.nil_append, List.mem_cons, List.not_mem_nil, or_false] at he
  rcases he with rfl | rfl | rfl | rfl | rfl | rfl | rfl | rfl <;>
    simp only [exec, Event.instr, execHeddleNone, execStart, execStop, execResume, execStep, execReservedCommand, execRedirect,
      execHeddleCancel, hd]

/-- A packet of no CANCEL instruction answers none. -/
theorem cancelEcho_of_none {p : RowPkt} (h : p.y = 0) (s : State) : cancelEcho s p = s := by
  simp [cancelEcho, h]

section
variable {s : State} {p : RowPkt}

theorem heddle_reaches (h : Reaches s p) (cmd : Nat) : heddle s p cmd = command (meetKey s p) p cmd := by
  have hm := meetKey_readOnly s p
  have hrow : homeRow (getCore s (refCore p.ref)) (refRow p.ref) = refRow p.ref := congrArg Thr.row h.home
  have hctl : isControl s (refCore p.ref) (refRow p.ref) p.widx = true := by simp [isControl, h.word, hrow]
  have halone : pairOf (meetKey s p) (pktHome (meetKey s p) p) = none := by
    rw [pktHome_readOnly hm, h.home, pairOf, hm.pairs]
    exact h.alone
  have hkey : Unerring s (cAddr (pktHome s p) 7) := fun e he => h.home ▸ h.key e he
  obtain ⟨hstored, -, hy⟩ := h.first
  unfold heddle
  rw [if_neg (by simp [hstored]), if_neg (by simp [hctl])]
  simp only [checked_passes hkey h.check, deferPair_alone halone, cancelEcho_of_none hy, ite_self]

/-- The state in which a command that reaches its thread acts: the store is done, and a REDIRECT has read the record of its code. -/
def taken (s : State) (p : RowPkt) (cmd : Nat) : State :=
  let u := storeHeddle (meetKey s p) (refThr p.ref) p.x
  if cmd = 3 then meetRecord u (slotOf u (tileOf (refThr p.ref).core)) (codeOf u (refThr p.ref)) else u

theorem taken_readOnly (s : State) (p : RowPkt) (cmd : Nat) : ReadOnly (storeHeddle s (refThr p.ref) p.x) (taken s p cmd) := by
  have h := storeHeddle_readOnly (meetKey_readOnly s p) (refThr p.ref) p.x
  unfold taken
  dsimp only
  split
  · exact h.trans (.ofMeetRecord ..)
  · exact h

theorem taken_reqs (s : State) (p : RowPkt) (cmd : Nat) : (taken s p cmd).reqs = s.reqs := (taken_readOnly s p cmd).reqs

theorem taken_getThr (s : State) (p : RowPkt) (cmd : Nat) (t : Thr) : getThr (taken s p cmd) t = getThr s t :=
  ((taken_readOnly s p cmd).getThr t).trans (getThr_congr rfl rfl t)

theorem taken_getC (s : State) (p : RowPkt) (cmd : Nat) {n : Nat} (h : n ≠ 0) :
    getC (taken s p cmd) (refThr p.ref) n = getC s (refThr p.ref) n :=
  ((taken_readOnly s p cmd).getC ..).trans (getC_setC_other _ _ _ h.symm)

theorem taken_codeOf (s : State) (p : RowPkt) (cmd : Nat) : codeOf (taken s p cmd) (refThr p.ref) = codeOf s (refThr p.ref) := by
  rw [codeOf, codeOf, taken_getC s p cmd (by decide)]

/-- Nothing that the command would wait for is under way, so that it acts on its thread's state. -/
theorem command_reaches (h : Reaches s p) (cmd : Nat) :
    heddle s p cmd =
      let t := refThr p.ref
      let u := taken s p cmd
      let inside := 4 * bits p.x 16 32 < codeBytes u t.core (codeOf u t)
      if tstate u t = 3 then
        if cmd = 0 then commandDone u p
        else if cmd = 4 ∧ bits (getC u t 2) 0 4 = 8 then commandDone (unpark u t) p
        else if cmd = 3 ∧ ¬ inside then commandDone (refuse u t) p
        else if cmd = 2 ∨ cmd = 3 ∨ cmd = 6 then
          if (settle u t).2 then commandDone (actCommand (settle u t).1 t p.x cmd) p
          else modThr (settle u t).1 t fun c => { c with cmds := c.cmds ++ [{ p with stored := true }] }
        else commandDone (refuse u t) p
      else if cmd = 5 ∧ (tstate u t = 1 ∨ tstate u t = 4) then
        modThr (actCommand (answerStep u t) t p.x cmd) t fun c => { c with stepPkt := some p }
      else commandDone (actCommand u t p.x cmd) p := by
  have hstored := h.first.1
  rw [heddle_reaches h]
  unfold command
  extract_lets +onlyGivenNames t stored u wait settles own
  have hu : u = taken s p cmd := by simp [u, stored, t, taken, hstored]
  have hthr : getThr u t = getThr s t := hu ▸ taken_getThr s p cmd t
  have hown : own = none := by
    have hid : ∀ r, reqOf u t = some r → r.id ≠ p.req := fun r hr => h.other r (by rwa [reqOf, hu, taken_reqs] at hr)
    unfold own
    split
    · next r hr => simp [hid r hr]
    · rfl
  have hwrite : writeHeld u t = u := by simp only [writeHeld, hthr, t, h.reply]
  clear_value own u
  subst hown hu
  rcases hsettle : settle (taken s p cmd) (refThr p.ref) with ⟨v, settled⟩
  cases settled <;>
    simp only [ite_self, hthr, t, hsettle, h.long, h.cmds, hwrite, settles, wait, Option.isSome_none, List.isEmpty_nil, Bool.not_true,
      Bool.or_self, Bool.false_eq_true, Bool.and_eq_true, Bool.or_eq_true, decide_eq_true_eq, not_lt, or_assoc, stParked, stIdle, stTrapped,
      if_true, if_false]

end

/-! ### What a command leaves -/

/-- PRIO and TARGET of a store to c0 are taken, and STATE stays (R64). -/
theorem bits_stored (old x : Word) :
    let y := (old &&& ~~~mtcMask 0) ||| (x &&& mtcMask 0)
    bits y 4 4 = bits old 4 4 ∧ bits y 9 7 = bits x 9 7 ∧ bits y 16 32 = bits x 16 32 := by
  have hstate : (~~~mtcMask 0).extractLsb' 4 4 = BitVec.allOnes 4 ∧ (mtcMask 0).extractLsb' 4 4 = 0#4 := by decide
  have hprio : (~~~mtcMask 0).extractLsb' 9 7 = 0#7 ∧ (mtcMask 0).extractLsb' 9 7 = BitVec.allOnes 7 := by decide
  have htarget : (~~~mtcMask 0).extractLsb' 16 32 = 0#32 ∧ (mtcMask 0).extractLsb' 16 32 = BitVec.allOnes 32 := by decide
  simp only [bits, BitVec.extractLsb'_or, BitVec.extractLsb'_and, hstate, hprio, htarget, BitVec.and_allOnes, BitVec.and_zero,
    BitVec.or_zero, BitVec.zero_or, and_self]

theorem steered_storeHeddle (s : State) (th : Thr) (x : Word) :
    Steered s (storeHeddle s th x) th x (tstate s th) (herrOf s th x) fun _ => False := by
  obtain ⟨hstate, hprio, htarget⟩ := bits_stored (getC s th 0) x
  unfold storeHeddle
  refine ⟨?_, ?_, ?_, ?_, ?_, (setC_unchanged s th 0 _).mono fun _ => .inl, rfl, rfl, rfl, rfl⟩
  · rw [getC_setC_self _ _ _ _ (by decide), bits_setBits_other _ _ _ _ _ _ (by decide), bits_setBits_self _ _ _ _ (by decide), Nat.zero_mod]
  · rw [tstate, getC_setC_self _ _ _ _ (by decide), bits_setBits_other _ _ _ _ _ _ (by decide),
      bits_setBits_other _ _ _ _ _ _ (by decide), hstate, tstate]
  · rw [getC_setC_self _ _ _ _ (by decide), bits_setBits_self _ _ _ _ (by decide), herrOf]
    have := (getC s th 0).extractLsb' 8 1 |>.isLt
    split
    · rfl
    · exact Nat.mod_eq_of_lt this
  · rw [prioOf, getC_setC_self _ _ _ _ (by decide), bits_setBits_other _ _ _ _ _ _ (by decide),
      bits_setBits_other _ _ _ _ _ _ (by decide), hprio]
  · rw [getC_setC_self _ _ _ _ (by decide), bits_setBits_other _ _ _ _ _ _ (by decide), bits_setBits_other _ _ _ _ _ _ (by decide),
      htarget]

end Sys2Proof.Machine

namespace Sys2Proof.Claims
open Machine

namespace Steered
variable {s u v : State} {th : Thr} {x : Word} {st herr : Nat} {w : Nat → Prop}

/-- c0 and what else `Steered` speaks of stay. -/
theorem aside (h : Steered s u th x st herr w) (hc : getC v th 0 = getC u th 0)
    (hw : UnchangedBut u v fun a => within (cAddr th 0) 8 a ∨ w a)
    (hrest : v.now = u.now ∧ v.tiles = u.tiles ∧ v.stackSt = u.stackSt ∧ v.pairs = u.pairs) : Steered s v th x st herr w := by
  obtain ⟨hnow, htiles, hstack, hpairs⟩ := hrest
  have hbits : ∀ lo len, bits (getC v th 0) lo len = bits (getC u th 0) lo len := fun lo len => congrArg (bits · lo len) hc
  exact ⟨(hbits 0 4).trans h.cmd, (hbits 4 4).trans h.state, (hbits 8 1).trans h.herr, (hbits 9 7).trans h.prio,
    (hbits 16 32).trans h.target, h.frame.trans hw, hnow.trans h.now, htiles.trans h.tiles, hstack.trans h.stackSt,
    hpairs.trans h.pairs⟩

/-- STATE or HERR of c0 is written. -/
theorem setFlag (h : Steered s u th x st herr w) {lo len : Nat} (n : Nat) (hlo : 4 ≤ lo) (hlen : lo + len ≤ 9) :
    let y := setBits (getC u th 0) lo len n
    Steered s (setC u th 0 y) th x (bits y 4 4) (bits y 8 1) w := by
  have hword := getC_setC_self u th 0 (setBits (getC u th 0) lo len n) (by decide)
  have hkept : ∀ k m, k + m ≤ 4 ∨ 9 ≤ k → bits (getC (setC u th 0 (setBits (getC u th 0) lo len n)) th 0) k m = bits (getC u th 0) k m :=
    fun k m hk => (congrArg (bits · k m) hword).trans (bits_setBits_other _ _ _ _ _ _ (by omega))
  exact ⟨(hkept 0 4 (by decide)).trans h.cmd, congrArg (bits · 4 4) hword, congrArg (bits · 8 1) hword,
    (hkept 9 7 (by decide)).trans h.prio, (hkept 16 32 (by decide)).trans h.target,
    h.frame.trans ((setC_unchanged u th 0 _).mono fun _ => .inl), h.now, h.tiles, h.stackSt, h.pairs⟩

theorem mono {w' : Nat → Prop} (h : Steered s u th x st herr w) (hw : ∀ a, w a → w' a) : Steered s u th x st herr w' :=
  { h with frame := h.frame.mono fun a => Or.imp_right (hw a) }

end Steered

end Sys2Proof.Claims

namespace Sys2Proof.Machine
open Claims

/-- A heddle store is done and its command has acted: c0 and the module are as `Steered` says, and nobody has been answered yet. -/
structure Obeys (s u : State) (th : Thr) (x : Word) (st herr : Nat) (w : Nat → Prop) : Prop where
  steered : Steered s u th x st herr w
  reqs    : u.reqs = s.reqs
  answers : u.io.hostAnswers = s.io.hostAnswers

namespace Obeys
variable {s u v : State} {th : Thr} {x : Word} {st herr : Nat} {w : Nat → Prop}

/-- What does not touch c0, nor anything that nobody but an answer changes. -/
theorem aside (h : Obeys s u th x st herr w) (hc : getC v th 0 = getC u th 0)
    (hw : UnchangedBut u v fun a => within (cAddr th 0) 8 a ∨ w a)
    (hrest : v.now = u.now ∧ v.tiles = u.tiles ∧ v.stackSt = u.stackSt ∧ v.pairs = u.pairs) (hreqs : v.reqs = u.reqs)
    (hans : v.io.hostAnswers = u.io.hostAnswers) : Obeys s v th x st herr w :=
  ⟨h.steered.aside hc hw hrest, hreqs.trans h.reqs, hans.trans h.answers⟩

theorem mono {w' : Nat → Prop} (h : Obeys s u th x st herr w) (hw : ∀ a, w a → w' a) : Obeys s u th x st herr w' :=
  { h with steered := h.steered.mono hw }

theorem readOnly (h : Obeys s u th x st herr w) (hr : ReadOnly u v) : Obeys s v th x st herr w :=
  h.aside (hr.getC ..) (hr.unchangedBut _) ⟨hr.now, hr.tiles, hr.stackSt, hr.pairs⟩ hr.reqs hr.hostAnswers

theorem modThr (h : Obeys s u th x st herr w) (t : Thr) (f : ThrCtl → ThrCtl) : Obeys s (modThr u t f) th x st herr w :=
  h.aside rfl (.refl u _) ⟨rfl, rfl, rfl, rfl⟩ rfl rfl

/-- Another control word is written. -/
theorem setC (h : Obeys s u th x st herr w) {n : Nat} (hn : n ≠ 0) (y : Word) :
    Obeys s (setC u th n y) th x st herr fun a => w a ∨ within (cAddr th n) 8 a :=
  (h.mono fun _ => .inl).aside (getC_setC_other u th y hn) ((setC_unchanged u th n y).mono fun _ ha => .inr (.inr ha))
    ⟨rfl, rfl, rfl, rfl⟩ rfl rfl

theorem threadEnded (h : Obeys s u th x st herr w) (t : Thr) (b : Bool) : Obeys s (threadEnded u t b) th x st herr w := by
  have hmem := threadEnded_mem u t b
  refine h.aside (getC_of_mem hmem ..) (fun a _ => congrArg (Memory.get · a) hmem) ?_ (threadEnded_reqs ..) ?_
  · unfold Machine.threadEnded
    split
    · exact ⟨rfl, rfl, rfl, rfl⟩
    · dsimp only
      split <;> exact ⟨rfl, rfl, rfl, rfl⟩
  · unfold Machine.threadEnded
    split
    · rfl
    · dsimp only
      split <;> rfl

theorem setState (h : Obeys s u th x st herr w) {n : Nat} (hn : n < 16) : Obeys s (setTState u th n) th x n herr w := by
  have hs := h.steered.setFlag (lo := 4) (len := 4) n (by decide) (by decide)
  dsimp only at hs
  rw [bits_setBits_self _ _ _ _ (by decide), (Nat.mod_eq_of_lt hn : n % 2 ^ 4 = n), bits_setBits_other _ _ _ _ _ _ (by decide), h.steered.herr] at hs
  exact ⟨hs, h.reqs, h.answers⟩

theorem refuse (h : Obeys s u th x st herr w) : Obeys s (refuse u th) th x st 1 w := by
  have hs := h.steered.setFlag (lo := 8) (len := 1) 1 (by decide) (by decide)
  dsimp only at hs
  rw [bits_setBits_self _ _ _ _ (by decide), bits_setBits_other _ _ _ _ _ _ (by decide), ← tstate, h.steered.state] at hs
  exact ⟨hs, h.reqs, h.answers⟩

end Obeys

/-! ### The answer -/

section
variable {s : State} {p : RowPkt}

theorem commandDone_eq (h : Reaches s p) (u : State) : commandDone u p = answerPkt u p (ansWord 0) := by
  obtain ⟨-, hold, hy⟩ := h.first
  rw [commandDone, cancelEcho_of_none hy, hold]

theorem commandDone_sends (h : Reaches s p) (u : State) : SendsOnly u (commandDone u p) :=
  commandDone_eq h u ▸ SendsOnly.ofAnswerPkt ..

theorem getC_commandDone (h : Reaches s p) (u : State) (th : Thr) (n : Nat) : getC (commandDone u p) th n = getC u th n :=
  getC_of_mem (commandDone_sends h u).mem th n

theorem getThr_commandDone (h : Reaches s p) (u : State) (th : Thr) : getThr (commandDone u p) th = getThr u th :=
  getThr_congr (commandDone_sends h u).cores (commandDone_sends h u).now th

theorem Obeys.done {u : State} {st herr : Nat} {w : Nat → Prop} (h : Reaches s p) (hu : Obeys s u (refThr p.ref) p.x st herr w) :
    Steered s (commandDone u p) (refThr p.ref) p.x st herr w ∧ (commandDone u p).reqs = s.reqs ∧ Answered s (commandDone u p) p 0 false := by
  have hs := commandDone_sends h u
  have hans : Answered s (commandDone u p) p 0 false := by
    rw [commandDone_eq h]
    exact answered_answerPkt hu.reqs hu.answers p 0 false
  exact ⟨hu.steered.aside (getC_commandDone h u ..) (fun a _ => congrArg (Memory.get · a) hs.mem)
    ⟨hs.now, hs.tiles, hs.stackSt, hs.pairs⟩, hs.reqs.trans hu.reqs, hans⟩

theorem obeys_taken (s : State) (p : RowPkt) (cmd : Nat) :
    Obeys s (taken s p cmd) (refThr p.ref) p.x (tstate s (refThr p.ref)) (herrOf s (refThr p.ref) p.x) fun _ => False :=
  Obeys.readOnly ⟨steered_storeHeddle .., rfl, rfl⟩ (taken_readOnly s p cmd)

theorem tstate_taken (s : State) (p : RowPkt) (cmd : Nat) : tstate (taken s p cmd) (refThr p.ref) = tstate s (refThr p.ref) :=
  (obeys_taken s p cmd).steered.state

end

/-! ### Commands on a thread that is not PARKED -/

theorem afterCommand_start (st : Nat) : afterCommand 1 st = if st = 1 then some 2 else none := by
  rcases st with _ | _ | st <;> simp [afterCommand]

theorem afterCommand_stop (st : Nat) : afterCommand 2 st = if st = 1 ∨ st = 2 ∨ st = 4 then some 1 else none := by
  rcases st with _ | _ | _ | _ | _ | st <;> simp [afterCommand]

theorem afterCommand_resume (st : Nat) : afterCommand 4 st = if st = 1 ∨ st = 4 then some 2 else none := by
  rcases st with _ | _ | _ | _ | _ | st <;> simp [afterCommand]

theorem afterCommand_step (st : Nat) : afterCommand 5 st = if st = 1 ∨ st = 4 then some 2 else none := by
  rcases st with _ | _ | _ | _ | _ | st <;> simp [afterCommand]

/-! Each command by its branches (R75). -/

/-- A thread stops and is IDLE. -/
def idled (s : State) (t : Thr) : State := modThr (setTState s t 1) t fun c => { c with stepping := false }

theorem actCommand_start (s : State) (t : Thr) (x : Word) :
    actCommand s t x 1 = if tstate s t = 1 then setTState s t 2 else refuse s t := rfl

theorem actCommand_stop (s : State) (t : Thr) (x : Word) :
    actCommand s t x 2 = if tstate s t = 1 then s else if tstate s t = 2 ∨ tstate s t = 4 then idled s t else refuse s t := rfl

theorem actCommand_redirect (s : State) (t : Thr) (x : Word) :
    actCommand s t x 3 =
      if codeBytes s t.core (codeOf s t) ≤ 4 * bits x 16 32 then refuse s t
      else if tstate s t = 1 ∨ tstate s t = 2 then redirectPc s t x
      else if tstate s t = 4 then idled (redirectPc s t x) t
      else refuse s t := rfl

theorem actCommand_resume (s : State) (t : Thr) (x : Word) :
    actCommand s t x 4 = if tstate s t = 1 ∨ tstate s t = 4 then setTState s t 2 else refuse s t := rfl

theorem actCommand_step (s : State) (t : Thr) (x : Word) :
    actCommand s t x 5 =
      if tstate s t = 1 ∨ tstate s t = 4 then modThr (setTState s t 2) t fun c => { c with stepping := true } else refuse s t := rfl

theorem actCommand_cancel (s : State) (t : Thr) (x : Word) :
    actCommand s t x 6 = if tstate s t = 1 ∨ tstate s t = 2 ∨ tstate s t = 4 then cancelThread s t else s := rfl

section
variable {s u : State} {th : Thr} {x : Word} {st herr : Nat} {w : Nat → Prop}

/-- What a command that the table of R75 gives leaves. -/
def Tabled (s t : State) (th : Thr) (x : Word) (cmd st herr : Nat) (w : Nat → Prop) : Prop :=
  Obeys s t th x ((afterCommand cmd st).getD st) (if (afterCommand cmd st).isSome then herr else 1) w

theorem Tabled.accepted {t : State} {cmd n : Nat} (e : afterCommand cmd st = some n) (h : Obeys s t th x n herr w) :
    Tabled s t th x cmd st herr w := by
  rw [Tabled, e]
  exact h

theorem Tabled.refused {t : State} {cmd : Nat} (e : afterCommand cmd st = none) (h : Obeys s t th x st herr w) :
    Tabled s (refuse t th) th x cmd st herr w := by
  rw [Tabled, e]
  exact h.refuse

theorem tabled_start (h : Obeys s u th x st herr w) : Tabled s (actCommand u th x 1) th x 1 st herr w := by
  have he := afterCommand_start st
  rw [actCommand_start, h.steered.state]
  split
  · next hst => exact .accepted (he.trans (if_pos hst)) (h.setState (by decide))
  · next hst => exact .refused (he.trans (if_neg hst)) h

theorem tabled_stop (h : Obeys s u th x st herr w) : Tabled s (actCommand u th x 2) th x 2 st herr w := by
  have he := afterCommand_stop st
  rw [actCommand_stop, h.steered.state]
  split
  · next hst => exact .accepted (he.trans (if_pos (.inl hst))) (hst ▸ h)
  · next h1 =>
    split
    · next hst => exact .accepted (he.trans (if_pos (.inr hst))) ((h.setState (by decide)).modThr ..)
    · next hst => exact .refused (he.trans (if_neg (not_or.2 ⟨h1, hst⟩))) h

theorem tabled_resume (h : Obeys s u th x st herr w) : Tabled s (actCommand u th x 4) th x 4 st herr w := by
  have he := afterCommand_resume st
  rw [actCommand_resume, h.steered.state]
  split
  · next hst => exact .accepted (he.trans (if_pos hst)) (h.setState (by decide))
  · next hst => exact .refused (he.trans (if_neg hst)) h

theorem tabled_step (h : Obeys s u th x st herr w) : Tabled s (actCommand u th x 5) th x 5 st herr w := by
  have he := afterCommand_step st
  rw [actCommand_step, h.steered.state]
  split
  · next hst => exact .accepted (he.trans (if_pos hst)) ((h.setState (by decide)).modThr ..)
  · next hst => exact .refused (he.trans (if_neg hst)) h

theorem tabled_actCommand (h : Obeys s u th x st herr w) {cmd : Nat} (hcmd : cmd ∈ [0, 1, 2, 4, 5, 7]) :
    Tabled s (actCommand u th x cmd) th x cmd st herr w := by
  simp only [List.mem_cons, List.not_mem_nil, or_false] at hcmd
  rcases hcmd with rfl | rfl | rfl | rfl | rfl | rfl
  · exact .accepted rfl h
  · exact tabled_start h
  · exact tabled_stop h
  · exact tabled_resume h
  · exact tabled_step h
  · exact .refused rfl h

end

section
variable {s : State} {p : RowPkt}

/-- A command on a thread that is not PARKED acts at once, and all but a STEP that is accepted are answered. -/
theorem heddle_of_not_parked (h : Reaches s p) (hst : tstate s (refThr p.ref) ≠ 3) {cmd : Nat}
    (hcmd : ¬ (cmd = 5 ∧ (tstate s (refThr p.ref) = 1 ∨ tstate s (refThr p.ref) = 4))) :
    heddle s p cmd = commandDone (actCommand (taken s p cmd) (refThr p.ref) p.x cmd) p := by
  rw [command_reaches h]
  dsimp only
  rw [tstate_taken, if_neg hst, if_neg hcmd]

/-- A STEP that is accepted is answered when its instruction has ended (R65). -/
theorem heddle_step (h : Reaches s p) (hst : tstate s (refThr p.ref) = 1 ∨ tstate s (refThr p.ref) = 4)
    (hnone : (getThr s (refThr p.ref)).stepPkt = none) :
    heddle s p 5 = modThr (actCommand (taken s p 5) (refThr p.ref) p.x 5) (refThr p.ref) fun c => { c with stepPkt := some p } := by
  have hanswer : answerStep (taken s p 5) (refThr p.ref) = taken s p 5 := by simp only [answerStep, taken_getThr, hnone]
  rw [command_reaches h]
  dsimp only
  rw [tstate_taken, if_neg (by omega), if_pos ⟨rfl, hst⟩, hanswer]

theorem stepping_actCommand_step {u : State} {t : Thr} (h : tstate u t = 1 ∨ tstate u t = 4) (x : Word) :
    (getThr (actCommand u t x 5) t).stepping = true := by
  rw [actCommand_step, if_pos h, getThr_modThr]

theorem stepping_actCommand_stop {u : State} {t : Thr} (h : tstate u t = 2 ∨ tstate u t = 4) (x : Word) :
    (getThr (actCommand u t x 2) t).stepping = false := by
  rw [actCommand_stop, if_neg (by omega), if_pos h, idled, getThr_modThr]

theorem isSome_afterCommand_step {st : Nat} : (afterCommand 5 st).isSome ↔ st = 1 ∨ st = 4 := by
  rw [afterCommand_step]
  split <;> simp_all

theorem isSome_afterCommand_stop {st : Nat} : (afterCommand 2 st).isSome ↔ st = 1 ∨ st = 2 ∨ st = 4 := by
  rw [afterCommand_stop]
  split <;> simp_all

theorem heddleCommands : HeddleCommands := by
  intro s p h hst ec hec hd hstep
  refine performs_heddle (List.mem_append_left _ hec) hd ?_
  have hcmd : ec.2 ∈ [0, 1, 2, 4, 5, 7] := List.mem_map_of_mem (f := Prod.snd) hec
  have hact := tabled_actCommand (obeys_taken s p ec.2) hcmd
  dsimp only
  by_cases hrun : ec.2 = 5 ∧ (tstate s (refThr p.ref) = 1 ∨ tstate s (refThr p.ref) = 4)
  · obtain ⟨hfive, hgo⟩ := hrun
    rw [hfive] at hact ⊢
    rw [heddle_step h hgo (hstep hfive)]
    have hdone := hact.modThr (refThr p.ref) fun c => { c with stepPkt := some p }
    refine ⟨hdone.steered, fun _ _ => ?_, fun h2 => absurd h2 (by decide), hdone.reqs,
      fun hno => absurd ⟨rfl, isSome_afterCommand_step.2 hgo⟩ hno⟩
    rw [getThr_modThr]
    exact ⟨stepping_actCommand_step ((tstate_taken s p 5).symm ▸ hgo) p.x, rfl⟩
  · rw [heddle_of_not_parked h hst hrun]
    obtain ⟨hsteered, hreqs, hans⟩ := hact.done h
    refine ⟨hsteered, fun h5 hsome => absurd ⟨h5, isSome_afterCommand_step.1 hsome⟩ hrun, fun h2 h1 hsome => ?_, hreqs, fun _ => hans⟩
    rw [getThr_commandDone h, h2]
    exact stepping_actCommand_stop ((tstate_taken s p 2).symm ▸ (isSome_afterCommand_stop.1 hsome).resolve_left h1) p.x

end

/-! ### REDIRECT and CANCEL on a thread that is not PARKED -/

section
variable {s u : State} {th : Thr} {x : Word} {st herr : Nat} {w : Nat → Prop}

/-- A REDIRECT within the code of an IDLE, RUN or TRAPPED thread writes PC, and a TRAPPED thread becomes IDLE. -/
theorem actCommand_redirect_inside (hin : 4 * bits x 16 32 < codeBytes u th.core (codeOf u th))
    (hst : tstate u th = 1 ∨ tstate u th = 2 ∨ tstate u th = 4) :
    actCommand u th x 3 = if tstate u th = 4 then idled (redirectPc u th x) th else redirectPc u th x := by
  rw [actCommand_redirect, if_neg (Nat.not_le.2 hin)]
  by_cases h4 : tstate u th = 4
  · rw [if_neg (by omega), if_pos h4, if_pos h4]
  · rw [if_pos (by omega), if_neg h4]

theorem actCommand_redirect_refused
    (h : ¬ (4 * bits x 16 32 < codeBytes u th.core (codeOf u th) ∧ (tstate u th = 1 ∨ tstate u th = 2 ∨ tstate u th = 4))) :
    actCommand u th x 3 = refuse u th := by
  rw [actCommand_redirect]
  by_cases hin : codeBytes u th.core (codeOf u th) ≤ 4 * bits x 16 32
  · rw [if_pos hin]
  · rw [if_neg hin, if_neg (by omega), if_neg (by omega)]

theorem getC_redirectPc (u : State) (th : Thr) (x : Word) :
    getC (redirectPc u th x) th 1 = setBits (getC u th 1) 0 32 (4 * bits x 16 32) := getC_setC_self _ _ _ _ (by decide)

theorem getC_idled (s : State) (t : Thr) {n : Nat} (h : n ≠ 0) : getC (idled s t) t n = getC s t n :=
  (getC_of_mem (modThr_mem ..) t n).trans (getC_setC_other _ _ _ h.symm)

/-- The PC that a REDIRECT leaves (R75). -/
theorem redirected_at (hin : 4 * bits x 16 32 < codeBytes u th.core (codeOf u th))
    (hst : tstate u th = 1 ∨ tstate u th = 2 ∨ tstate u th = 4) :
    pcOf (actCommand u th x 3) th = 4 * bits x 16 32 % 4294967296 ∧ codeOf (actCommand u th x 3) th = codeOf u th := by
  have hword : getC (actCommand u th x 3) th 1 = setBits (getC u th 1) 0 32 (4 * bits x 16 32) := by
    rw [actCommand_redirect_inside hin hst]
    split
    · exact (getC_idled _ _ (by decide)).trans (getC_redirectPc u th x)
    · exact getC_redirectPc u th x
  rw [pcOf, codeOf, hword, bits_setBits_self _ _ _ _ (by decide), bits_setBits_other _ _ _ _ _ _ (by decide)]
  exact ⟨rfl, rfl⟩

theorem Obeys.redirect (h : Obeys s u th x st herr w) (hin : 4 * bits x 16 32 < codeBytes u th.core (codeOf u th))
    (hst : st = 1 ∨ st = 2 ∨ st = 4) :
    Obeys s (actCommand u th x 3) th x (if st = 4 then 1 else st) herr fun a => w a ∨ within (cAddr th 1) 8 a := by
  have hpc : Obeys s (redirectPc u th x) th x st herr fun a => w a ∨ within (cAddr th 1) 8 a := h.setC (by decide) _
  rw [actCommand_redirect_inside hin (h.steered.state.symm ▸ hst), h.steered.state]
  split
  · exact (hpc.setState (by decide)).modThr ..
  · exact hpc

/-- The row of a thread that a command has cancelled. -/
def cancelledByCommand (u : State) (th : Thr) : State :=
  setC (setTState (setFinfo u th 0x3F (wordAtPc u th)) th 5) th 2 0

theorem cancelThread_eq (u : State) (th : Thr) :
    cancelThread u th = threadEnded (modThr (cancelledByCommand u th) th fun c =>
      { c with stepping := false, yielded := false, codeWait := false }) th false := rfl

theorem Obeys.cancel (h : Obeys s u th x st herr w) :
    Obeys s (cancelThread u th) th x 5 herr fun a => (w a ∨ within (cAddr th 10) 8 a) ∨ within (cAddr th 2) 8 a := by
  have hinfo : Obeys s (setFinfo u th 0x3F (wordAtPc u th)) th x st herr fun a => w a ∨ within (cAddr th 10) 8 a := h.setC (by decide) _
  exact (((hinfo.setState (by decide)).setC (by decide) 0).modThr ..).threadEnded ..

theorem getC_cancelThread (u : State) (th : Thr) (n : Nat) : getC (cancelThread u th) th n = getC (cancelledByCommand u th) th n := by
  rw [cancelThread_eq]
  exact getC_of_mem ((threadEnded_mem ..).trans (modThr_mem ..)) th n

theorem getC_cancelThread_park (u : State) (th : Thr) : getC (cancelThread u th) th 2 = 0 :=
  (getC_cancelThread ..).trans (getC_setC_self _ _ _ _ (by decide))

theorem getC_cancelThread_finfo (u : State) (th : Thr) :
    getC (cancelThread u th) th 10 = BitVec.ofNat 64 (0x3F * 4294967296 + (wordAtPc u th).toNat) := by
  rw [getC_cancelThread, cancelledByCommand, getC_setC_other _ _ _ (by decide), setTState, getC_setC_other _ _ _ (by decide), setFinfo,
    getC_setC_self _ _ _ _ (by decide)]

/-- Cause and word of c10 (R115). -/
theorem bits_finfo {cause : Nat} (h : cause < 256) (y : InsnWord) :
    bits (BitVec.ofNat 64 (cause * 4294967296 + y.toNat)) 32 8 = cause ∧ bits (BitVec.ofNat 64 (cause * 4294967296 + y.toNat)) 0 32 = y.toNat := by
  have hy : y.toNat < 4294967296 := y.isLt
  have hfit : (cause * 4294967296 + y.toNat) % 2 ^ 64 = cause * 4294967296 + y.toNat := Nat.mod_eq_of_lt (by omega)
  have hcause : (cause * 4294967296 + y.toNat) / 2 ^ 32 % 2 ^ 8 = cause := by omega
  have hword : (cause * 4294967296 + y.toNat) / 2 ^ 0 % 2 ^ 32 = y.toNat := by omega
  rw [bits, bits, BitVec.extractLsb'_toNat, BitVec.extractLsb'_toNat, BitVec.toNat_ofNat, hfit, Nat.shiftRight_eq_div_pow,
    Nat.shiftRight_eq_div_pow]
  exact ⟨hcause, hword⟩

theorem stepping_cancelThread (u : State) (th : Thr) : (getThr (cancelThread u th) th).stepping = false := by
  rw [cancelThread_eq, threadEnded_getThr, getThr_modThr]

end

section
variable {s : State} {p : RowPkt}

/-- The code that a REDIRECT meets is that of the state after its store. -/
theorem codeBytes_taken (s : State) (p : RowPkt) (cmd : Nat) :
    codeBytes (taken s p cmd) (refThr p.ref).core (codeOf (taken s p cmd) (refThr p.ref)) =
      codeBytes (storeHeddle s (refThr p.ref) p.x) (refThr p.ref).core (codeOf s (refThr p.ref)) := by
  rw [taken_codeOf, (taken_readOnly s p cmd).codeBytes]

theorem redirectAndCancel : RedirectAndCancel := by
  intro s p h hst th st ok
  have hstate : ∀ cmd, tstate (taken s p cmd) th = st := tstate_taken s p
  refine ⟨fun hd => performs_heddle (p := p) (ec := (.redirect p, 3)) (List.mem_append_right _ (.head _)) hd ?_,
    fun hd => performs_heddle (p := p) (ec := (.heddleCancel p, 6)) (List.mem_append_right _ (.tail _ (.head _))) hd ?_⟩
  · rw [heddle_of_not_parked h hst (by omega)]
    have htaken := obeys_taken s p 3
    by_cases hok : ok
    · obtain ⟨hin, hgo⟩ := id hok
      rw [← codeBytes_taken s p 3] at hin
      obtain ⟨hpc, hcode⟩ := redirected_at hin ((hstate 3).symm ▸ hgo)
      obtain ⟨hsteered, hreqs, hans⟩ := ((htaken.redirect hin hgo).mono fun _ hw => hw.resolve_left id).done h
      refine ⟨fun _ => ⟨hsteered, ?_, ?_⟩, fun hno => absurd hok hno, hreqs, hans⟩
      · rw [pcOf, getC_commandDone h]
        exact hpc
      · rw [codeOf, getC_commandDone h]
        exact hcode.trans (taken_codeOf s p 3)
    · have hrefused := actCommand_redirect_refused (u := taken s p 3) (th := th) (x := p.x) (by rwa [codeBytes_taken, hstate])
      rw [hrefused]
      obtain ⟨hsteered, hreqs, hans⟩ := htaken.refuse.done h
      exact ⟨fun hyes => absurd hyes hok, fun _ => hsteered, hreqs, hans⟩
  · rw [heddle_of_not_parked h hst (by omega)]
    have htaken := obeys_taken s p 6
    rw [actCommand_cancel, hstate]
    split
    · next hgo =>
      obtain ⟨hsteered, hreqs, hans⟩ := (htaken.cancel.mono (w' := fun a => within (cAddr th 2) 8 a ∨ within (cAddr th 10) 8 a) fun _ hw =>
        hw.elim (fun hw => .inr (hw.resolve_left id)) .inl).done h
      obtain ⟨hcause, hword⟩ := bits_finfo (cause := 0x3F) (by decide) (wordAtPc (storeHeddle s th p.x) th)
      have hinfo := getC_cancelThread_finfo (taken s p 6) th
      rw [(taken_readOnly s p 6).wordAtPc] at hinfo
      refine ⟨fun _ => ⟨hsteered, ?_, ?_, ?_, ?_⟩, fun hend => ?_, hreqs, hans⟩
      · rw [getC_commandDone h, getC_cancelThread_park]
      · rw [getC_commandDone h, hinfo, hcause]
      · rw [getC_commandDone h, hinfo, hword]
      · rw [getThr_commandDone h, stepping_cancelThread]
      · omega
    · next hno =>
      obtain ⟨hsteered, hreqs, hans⟩ := htaken.done h
      exact ⟨fun hgo => absurd hgo hno, fun _ => hsteered, hreqs, hans⟩

end

/-! ### Commands on a PARKED thread (R75, R77) -/

section
variable {s : State} {p : RowPkt} {cmd : Nat} {r : Req}

/-- START, STEP, the reserved commands and RESUME of another KIND than 8 are refused, and so is a REDIRECT beyond the code. -/
theorem heddle_parked_refused (h : Reaches s p) (hst : tstate s (refThr p.ref) = 3)
    (hcmd : cmd ∈ [1, 5, 7] ∨ (cmd = 4 ∧ bits (getC s (refThr p.ref) 2) 0 4 ≠ 8) ∨
      (cmd = 3 ∧ codeBytes (storeHeddle s (refThr p.ref) p.x) (refThr p.ref).core (codeOf s (refThr p.ref)) ≤ 4 * bits p.x 16 32)) :
    heddle s p cmd = commandDone (refuse (taken s p cmd) (refThr p.ref)) p := by
  rw [command_reaches h]
  dsimp only
  rw [tstate_taken, if_pos hst, taken_getC s p cmd (by decide), codeBytes_taken]
  simp only [List.mem_cons, List.not_mem_nil, or_false] at hcmd
  obtain (rfl | rfl | rfl) | ⟨rfl, hkind⟩ | ⟨rfl, hout⟩ := hcmd
  · simp
  · simp
  · simp
  · simp [hkind]
  · simp [hout]

/-- RESUME ends KIND 8. -/
theorem heddle_parked_resume (h : Reaches s p) (hst : tstate s (refThr p.ref) = 3) (hkind : bits (getC s (refThr p.ref) 2) 0 4 = 8) :
    heddle s p 4 = commandDone (unpark (taken s p 4) (refThr p.ref)) p := by
  rw [command_reaches h]
  dsimp only
  rw [tstate_taken, if_pos hst, taken_getC s p 4 (by decide), if_neg (by decide), if_pos ⟨rfl, hkind⟩]

/-- STOP, CANCEL and a REDIRECT within the code settle first what is outstanding. -/
theorem heddle_parked_settles (h : Reaches s p) (hst : tstate s (refThr p.ref) = 3) (hcmd : cmd ∈ [2, 3, 6])
    (hin : cmd = 3 → 4 * bits p.x 16 32 < codeBytes (storeHeddle s (refThr p.ref) p.x) (refThr p.ref).core (codeOf s (refThr p.ref))) :
    heddle s p cmd =
      if (settle (taken s p cmd) (refThr p.ref)).2 then
        commandDone (actCommand (settle (taken s p cmd) (refThr p.ref)).1 (refThr p.ref) p.x cmd) p
      else modThr (settle (taken s p cmd) (refThr p.ref)).1 (refThr p.ref) fun c => { c with cmds := c.cmds ++ [{ p with stored := true }] } := by
  simp only [List.mem_cons, List.not_mem_nil, or_false] at hcmd
  rw [command_reaches h]
  dsimp only
  rw [tstate_taken, if_pos hst, if_neg (by omega), if_neg (by omega), codeBytes_taken, if_neg (fun hout => hout.2 (hin hout.1)), if_pos hcmd]

/-- The state in which a load that was outstanding has been withdrawn. -/
def withdrawn (s : State) (p : RowPkt) (cmd : Nat) (r : Req) : State := unpark (withdrawReq (taken s p cmd) r) (refThr p.ref)

theorem settle_load (hr : reqOf s (refThr p.ref) = some r) (hi : ∃ d q o z, r.insn = .ldo d q o z) (cmd : Nat) :
    settle (taken s p cmd) (refThr p.ref) = (withdrawn s p cmd r, true) := by
  obtain ⟨d, q, o, z, hi⟩ := hi
  have hreq : reqOf (taken s p cmd) (refThr p.ref) = some r := by rw [reqOf, taken_reqs]; exact hr
  simp only [settle, hreq, settlingOf, hi, withdrawn]

theorem settle_commit (hr : reqOf s (refThr p.ref) = some r) (hi : ∃ d a q, r.insn = .commit d a q) (cmd : Nat) :
    settle (taken s p cmd) (refThr p.ref) = (taken s p cmd, false) := by
  obtain ⟨d, a, q, hi⟩ := hi
  have hreq : reqOf (taken s p cmd) (refThr p.ref) = some r := by rw [reqOf, taken_reqs]; exact hr
  simp only [settle, hreq, settlingOf, hi]

theorem withdrawn_unchanged (s : State) (p : RowPkt) (cmd : Nat) (r : Req) :
    UnchangedBut s (withdrawn s p cmd r) (parkBytes (refThr p.ref)) := by
  have htaken : UnchangedBut s (taken s p cmd) (parkBytes (refThr p.ref)) :=
    (obeys_taken s p cmd).steered.frame.mono fun _ hw => .inl (hw.resolve_right id)
  exact htaken.trans (unpark_unchanged (withdrawReq (taken s p cmd) r) _)

theorem tstate_withdrawn (s : State) (p : RowPkt) (cmd : Nat) (r : Req) : tstate (withdrawn s p cmd r) (refThr p.ref) = 2 :=
  tstate_unpark ..

theorem park_withdrawn (s : State) (p : RowPkt) (cmd : Nat) (r : Req) : getC (withdrawn s p cmd r) (refThr p.ref) 2 = 0 :=
  getC_unpark_park ..

theorem findReq_withdrawn {u : State} (s : State) (p : RowPkt) (cmd : Nat) (r : Req)
    (h : u.reqs = (withdrawn s p cmd r).reqs) : findReq u r.id = none := by
  refine findReq_eq_none.2 fun q hq => ?_
  rw [h] at hq
  exact of_decide_eq_true (List.mem_filter.1 hq).2

theorem tstate_idled (s : State) (t : Thr) : tstate (idled s t) t = 1 :=
  (tstate_congr (getC_of_mem (modThr_mem ..) ..)).trans (tstate_setTState s t (by decide))

theorem idled_unchanged (s : State) (t : Thr) : UnchangedBut s (idled s t) (within (cAddr t 0) 8) := fun a ha => by
  rw [idled, modThr_mem]
  exact setC_unchanged s t 0 _ a ha

theorem idled_reqs (s : State) (t : Thr) : (idled s t).reqs = s.reqs := rfl
theorem redirectPc_reqs (s : State) (t : Thr) (x : Word) : (redirectPc s t x).reqs = s.reqs := rfl
theorem cancelThread_reqs (s : State) (t : Thr) : (cancelThread s t).reqs = s.reqs := by
  rw [cancelThread_eq, threadEnded_reqs, modThr_reqs]
  rfl

theorem codeOf_withdrawn (s : State) (p : RowPkt) (cmd : Nat) (r : Req) :
    codeOf (withdrawn s p cmd r) (refThr p.ref) = codeOf s (refThr p.ref) := by
  rw [codeOf, codeOf, (withdrawn_unchanged s p cmd r).getC fun _ hi => not_parkBytes_cAddr (by decide) (by decide) hi]

namespace ReadOnly
variable {t : State}

/-- Reads before a withdrawal are reads after it. -/
theorem withdrawReq (h : ReadOnly s t) (r : Req) : ReadOnly (withdrawReq s r) (withdrawReq t r) := by
  obtain ⟨a, b, hio⟩ := h.io
  refine { h with tiles := ?_, reqs := ?_, io := ⟨a, b, ?_⟩ }
  · simp only [Machine.withdrawReq, dropReq, h.tiles]
  · simp only [Machine.withdrawReq, dropReq, h.reqs]
  · simp only [Machine.withdrawReq, dropReq, hio]

theorem unpark (h : ReadOnly s t) (th : Thr) : ReadOnly (unpark s th) (unpark t th) := by
  unfold Machine.unpark setTState
  rw [h.getC]
  exact (h.putWord ..).putWord ..

end ReadOnly

theorem codeBytes_withdrawn (s : State) (p : RowPkt) (cmd : Nat) (r : Req) :
    codeBytes (withdrawn s p cmd r) (refThr p.ref).core (codeOf (withdrawn s p cmd r) (refThr p.ref)) =
      codeBytes (unpark (withdrawReq (storeHeddle s (refThr p.ref) p.x) r) (refThr p.ref)) (refThr p.ref).core (codeOf s (refThr p.ref)) := by
  rw [codeOf_withdrawn]
  exact (((taken_readOnly s p cmd).withdrawReq r).unpark _).codeBytes ..

end

section
variable {s : State} {p : RowPkt} {r : Req}

theorem parked_refused (h : Reaches s p) (hst : tstate s (refThr p.ref) = 3) {cmd : Nat}
    (he : heddle s p cmd = commandDone (refuse (taken s p cmd) (refThr p.ref)) p) :
    Steered s (heddle s p cmd) (refThr p.ref) p.x 3 1 (fun _ => False) ∧ (heddle s p cmd).reqs = s.reqs ∧
      Answered s (heddle s p cmd) p 0 false := by
  rw [he, ← hst]
  exact (obeys_taken s p cmd).refuse.done h

theorem load_stopped (h : Reaches s p) (hst : tstate s (refThr p.ref) = 3) (hr : reqOf s (refThr p.ref) = some r)
    (hi : ∃ d q o z, r.insn = .ldo d q o z) :
    let t := heddle s p 2
    tstate t (refThr p.ref) = 1 ∧ getC t (refThr p.ref) 2 = 0 ∧ findReq t r.id = none ∧ UnchangedBut s t (parkBytes (refThr p.ref)) := by
  have hstate := tstate_withdrawn s p 2 r
  have he : heddle s p 2 = commandDone (idled (withdrawn s p 2 r) (refThr p.ref)) p := by
    rw [heddle_parked_settles h hst (cmd := 2) (by decide) nofun, settle_load hr hi, if_pos rfl, actCommand_stop, hstate,
      if_neg (by decide), if_pos (.inl rfl)]
  have hs := commandDone_sends h (idled (withdrawn s p 2 r) (refThr p.ref))
  rw [he]
  refine ⟨?_, ?_, findReq_withdrawn s p 2 r (hs.reqs.trans (idled_reqs ..)), ?_⟩
  · rw [tstate_congr (getC_commandDone h ..), tstate_idled]
  · rw [getC_commandDone h, getC_idled _ _ (by decide), park_withdrawn]
  · refine (withdrawn_unchanged s p 2 r).trans fun a ha => ?_
    rw [hs.mem]
    exact idled_unchanged _ _ a fun hw => ha (.inl hw)

theorem load_cancelled (h : Reaches s p) (hst : tstate s (refThr p.ref) = 3) (hr : reqOf s (refThr p.ref) = some r)
    (hi : ∃ d q o z, r.insn = .ldo d q o z) :
    let t := heddle s p 6
    tstate t (refThr p.ref) = 5 ∧ getC t (refThr p.ref) 2 = 0 ∧ findReq t r.id = none := by
  have he : heddle s p 6 = commandDone (cancelThread (withdrawn s p 6 r) (refThr p.ref)) p := by
    rw [heddle_parked_settles h hst (cmd := 6) (by decide) nofun, settle_load hr hi, if_pos rfl, actCommand_cancel,
      if_pos (.inr (.inl (tstate_withdrawn ..)))]
  have hs := commandDone_sends h (cancelThread (withdrawn s p 6 r) (refThr p.ref))
  rw [he]
  refine ⟨?_, ?_, findReq_withdrawn s p 6 r (hs.reqs.trans (cancelThread_reqs ..))⟩
  · rw [tstate_congr (getC_commandDone h ..), tstate_congr (getC_cancelThread ..), cancelledByCommand,
      tstate_congr (getC_setC_other _ _ _ (by decide)), tstate_setTState _ _ (by decide)]
  · rw [getC_commandDone h, getC_cancelThread_park]

theorem load_redirected (h : Reaches s p) (hst : tstate s (refThr p.ref) = 3) (hr : reqOf s (refThr p.ref) = some r)
    (hi : ∃ d q o z, r.insn = .ldo d q o z)
    (hbefore : 4 * bits p.x 16 32 < codeBytes (storeHeddle s (refThr p.ref) p.x) (refThr p.ref).core (codeOf s (refThr p.ref)))
    (hafter : 4 * bits p.x 16 32 < codeBytes (unpark (withdrawReq (storeHeddle s (refThr p.ref) p.x) r) (refThr p.ref))
      (refThr p.ref).core (codeOf s (refThr p.ref))) :
    let t := heddle s p 3
    tstate t (refThr p.ref) = 2 ∧ getC t (refThr p.ref) 2 = 0 ∧ findReq t r.id = none ∧
      pcOf t (refThr p.ref) = 4 * bits p.x 16 32 % 4294967296 ∧
      UnchangedBut s t fun a =>
        within (cAddr (refThr p.ref) 0) 8 a ∨ within (cAddr (refThr p.ref) 1) 8 a ∨ within (cAddr (refThr p.ref) 2) 8 a := by
  have hstate := tstate_withdrawn s p 3 r
  rw [← codeBytes_withdrawn s p 3 r] at hafter
  have hact := actCommand_redirect_inside hafter (.inr (.inl hstate))
  rw [hstate, if_neg (by decide)] at hact
  obtain ⟨hpc, -⟩ := redirected_at hafter (.inr (.inl hstate))
  rw [hact] at hpc
  have he : heddle s p 3 = commandDone (redirectPc (withdrawn s p 3 r) (refThr p.ref) p.x) p := by
    rw [heddle_parked_settles h hst (by decide) (fun _ => hbefore), settle_load hr hi, if_pos rfl, hact]
  have hs := commandDone_sends h (redirectPc (withdrawn s p 3 r) (refThr p.ref) p.x)
  rw [he]
  refine ⟨?_, ?_, findReq_withdrawn s p 3 r (hs.reqs.trans (redirectPc_reqs ..)), ?_, ?_⟩
  · rw [tstate_congr (getC_commandDone h ..), redirectPc, setPc, tstate_congr (getC_setC_other _ _ _ (by decide)), hstate]
  · rw [getC_commandDone h, redirectPc, setPc, getC_setC_other _ _ _ (by decide), park_withdrawn]
  · rw [pcOf, getC_commandDone h]
    exact hpc
  · refine ((withdrawn_unchanged s p 3 r).mono fun a hw => hw.imp_right .inr).trans fun a ha => ?_
    rw [hs.mem]
    exact setC_unchanged _ _ _ _ a fun hw => ha (.inr (.inl hw))

theorem commit_awaited (h : Reaches s p) (hst : tstate s (refThr p.ref) = 3) (hr : reqOf s (refThr p.ref) = some r)
    (hi : ∃ d a q, r.insn = .commit d a q) {cmd : Nat} (hcmd : cmd ∈ [2, 3, 6])
    (hin : cmd = 3 → 4 * bits p.x 16 32 < codeBytes (storeHeddle s (refThr p.ref) p.x) (refThr p.ref).core (codeOf s (refThr p.ref))) :
    let t := heddle s p cmd
    Steered s t (refThr p.ref) p.x 3 (herrOf s (refThr p.ref) p.x) (fun _ => False) ∧
      (getThr t (refThr p.ref)).cmds = [{ p with stored := true }] ∧ t.reqs = s.reqs := by
  have he : heddle s p cmd = modThr (taken s p cmd) (refThr p.ref) fun c => { c with cmds := c.cmds ++ [{ p with stored := true }] } := by
    rw [heddle_parked_settles h hst hcmd hin, settle_commit hr hi, if_neg Bool.false_ne_true]
  have hwaits := (obeys_taken s p cmd).modThr (refThr p.ref) fun c => { c with cmds := c.cmds ++ [{ p with stored := true }] }
  rw [he, ← hst]
  refine ⟨hwaits.steered, ?_, hwaits.reqs⟩
  rw [getThr_modThr, taken_getThr, h.cmds]
  rfl

theorem kind8_resumed (h : Reaches s p) (hst : tstate s (refThr p.ref) = 3) (hkind : bits (getC s (refThr p.ref) 2) 0 4 = 8) :
    let t := heddle s p 4
    Steered s t (refThr p.ref) p.x 2 (herrOf s (refThr p.ref) p.x) (within (cAddr (refThr p.ref) 2) 8) ∧ getC t (refThr p.ref) 2 = 0 ∧
      Answered s t p 0 false := by
  have hobeys : Obeys s (unpark (taken s p 4) (refThr p.ref)) (refThr p.ref) p.x 2 (herrOf s (refThr p.ref) p.x) fun a =>
    False ∨ within (cAddr (refThr p.ref) 2) 8 a := ((obeys_taken s p 4).setState (by decide)).setC (by decide) 0
  obtain ⟨hsteered, -, hans⟩ := (hobeys.mono fun _ hw => hw.resolve_left id).done h
  rw [heddle_parked_resume h hst hkind]
  exact ⟨hsteered, (getC_commandDone h ..).trans (getC_unpark_park ..), hans⟩

end

theorem commandsOnParkedThread : CommandsOnParkedThread := by
  intro s p h hst th
  have hstart : (Event.start p, 1) ∈ heddleEvents p := List.mem_append_left _ (.tail _ (.head _))
  have hstep : (Event.step p, 5) ∈ heddleEvents p := List.mem_append_left _ (.tail _ (.tail _ (.tail _ (.tail _ (.head _)))))
  have hreserved : (Event.reservedCommand p, 7) ∈ heddleEvents p :=
    List.mem_append_left _ (.tail _ (.tail _ (.tail _ (.tail _ (.tail _ (.head _))))))
  have hstop : (Event.stop p, 2) ∈ heddleEvents p := List.mem_append_left _ (.tail _ (.tail _ (.head _)))
  have hredirect : (Event.redirect p, 3) ∈ heddleEvents p := List.mem_append_right _ (.head _)
  have hcancel : (Event.heddleCancel p, 6) ∈ heddleEvents p := List.mem_append_right _ (.tail _ (.head _))
  have hresume : (Event.resume p, 4) ∈ heddleEvents p := List.mem_append_left _ (.tail _ (.tail _ (.tail _ (.head _))))
  refine ⟨fun ec hec hd hkind => ?_, fun hd hkind => performs_heddle hresume hd (kind8_resumed h hst hkind), fun r hr hi =>
    ⟨fun hd => performs_heddle hstop hd (load_stopped h hst hr hi), fun hd => performs_heddle hcancel hd (load_cancelled h hst hr hi),
      fun hd hbefore hafter => performs_heddle hredirect hd (load_redirected h hst hr hi hbefore hafter)⟩,
    fun hd hout => performs_heddle hredirect hd (parked_refused h hst (heddle_parked_refused h hst (.inr (.inr ⟨rfl, hout⟩)))),
    fun r hr hi e he hd hin => ?_⟩
  · simp only [List.mem_cons, List.not_mem_nil, or_false] at hec
    obtain rfl | rfl | rfl | rfl := hec
    · exact performs_heddle hstart hd (parked_refused h hst (heddle_parked_refused h hst (cmd := 1) (.inl (by decide))))
    · exact performs_heddle hstep hd (parked_refused h hst (heddle_parked_refused h hst (cmd := 5) (.inl (by decide))))
    · exact performs_heddle hreserved hd (parked_refused h hst (heddle_parked_refused h hst (cmd := 7) (.inl (by decide))))
    · exact performs_heddle hresume hd (parked_refused h hst (heddle_parked_refused h hst (.inr (.inl ⟨rfl, hkind rfl⟩))))
  · simp only [List.mem_cons, List.not_mem_nil, or_false] at he
    obtain rfl | rfl | rfl := he
    · exact performs_heddle hstop hd (commit_awaited h hst hr hi (cmd := 2) (by decide) nofun)
    · exact performs_heddle hredirect hd (commit_awaited h hst hr hi (cmd := 3) (by decide) fun _ => hin rfl)
    · exact performs_heddle hcancel hd (commit_awaited h hst hr hi (cmd := 6) (by decide) nofun)

end Sys2Proof.Machine

namespace Sys2Proof
open Machine

/-- Settles O21: `heddleCommands`, `redirectAndCancel` and `commandsOnParkedThread`. -/
theorem heddle : Obligations.Heddle := ⟨heddleCommands, redirectAndCancel, commandsOnParkedThread⟩

end Sys2Proof
end

section
/-! PROOFS. The key check (O23): a packet that it turns away leaves its record and its answer and changes nothing else; what it asks of
a packet that it lets pass.

The check reads c7 of the row's thread. Where that word holds no stored error and no poison, what the check finds is not changed by its
own reads (`rowCheck_meetKey`), it ends no thread (`checkPoison_of_clean`), and each step comes to one diversion (`checked_diverts`). -/
namespace Sys2Proof.Machine
open Claims

section
variable {s : State} {p : RowPkt} {f : RowFn} {sub : Nat}

/-- c7 of the row's thread can be read, where the packet names a row that has one. -/
abbrev KeyReadable (s : State) (p : RowPkt) : Prop := refRow p.ref < 84 → Readable s [cAddr (pktHome s p) 7]

theorem KeyReadable.unerring (h : KeyReadable s p) (hrow : refRow p.ref < 84) : Unerring s (cAddr (pktHome s p) 7) :=
  (h hrow _ (.head _)).2

theorem KeyReadable.clean (h : KeyReadable s p) (hrow : refRow p.ref < 84) : isPoisoned s (cAddr (pktHome s p) 7) = false :=
  (h hrow _ (.head _)).1

/-! ### A packet that is turned away -/

/-- The check of a row that is no thread's reads neither a frame-state entry nor a c7. -/
theorem meetKey_of_no_thread (h : ¬ refRow p.ref < 84) : meetKey s p = s := by
  simp [meetKey, touchFrame, refThr, readsKey, h]

theorem rowCheck_meetKey (hk : KeyReadable s p) (f : RowFn) : rowCheck (meetKey s p) p f = rowCheck s p f := by
  by_cases hrow : refRow p.ref < 84
  · exact rowCheck_readOnly (meetKey_readOnly s p) (hk.unerring hrow) f
  · rw [meetKey_of_no_thread hrow]

/-- A key check that meets no poisoned c7 ends no thread. -/
theorem checkPoison_of_clean (h : refRow p.ref < 84 → isPoisoned s (cAddr (pktHome s p) 7) = false) : checkPoison s p = s := by
  by_cases hrow : refRow p.ref < 84
  · simp [checkPoison, h hrow]
  · simp [checkPoison, readsKey, hrow]

theorem pktHome_divert (s : State) (p : RowPkt) (sub : Nat) : pktHome (divert (meetKey s p) p sub) p = pktHome s p := by
  obtain ⟨-, hsends, -⟩ := divert_gives (meetKey_readOnly s p) p sub
  rw [pktHome, hsends.getCore, ← pktHome, pktHome_readOnly (meetKey_readOnly s p)]

theorem isPoisoned_divert {w : Nat} (h : Unerring s w) (sub : Nat) : isPoisoned (divert (meetKey s p) p sub) w = isPoisoned s w := by
  have hm := meetKey_readOnly s p
  obtain ⟨-, hsends, -⟩ := divert_gives hm p sub
  rw [isPoisoned, hsends.poison, ← isPoisoned, hm.poison w h]

theorem checked_diverts (hk : KeyReadable s p) (h : rowCheck s p f = some sub) (k : State → State) :
    checked s p f k = divert (meetKey s p) p sub := by
  have hclean : checkPoison (divert (meetKey s p) p sub) p = divert (meetKey s p) p sub :=
    checkPoison_of_clean fun hrow => by rw [pktHome_divert, isPoisoned_divert (hk.unerring hrow), hk.clean hrow]
  simp only [checked, rowCheck_meetKey hk, h, hclean]

/-- A packet that no CANCEL instruction sent to a row answers none: it has no word of one, or it has a sender (R375). -/
theorem cancelEcho_of_sender (h : p.y = 0 ∨ p.req ≠ 0 ∨ p.sender ≠ 0) (s : State) : cancelEcho s p = s := by
  have hnone : (p.y = 0 || p.req ≠ 0 || p.sender ≠ 0) = true := by simpa [or_assoc] using h
  rw [cancelEcho, if_pos hnone]

/-- A heddle packet is turned away like any write, be its word c0 or row data of a second row. -/
theorem heddle_diverts (hk : KeyReadable s p) (hecho : p.y = 0 ∨ p.req ≠ 0 ∨ p.sender ≠ 0) (hfirst : p.stored = false)
    (h : rowCheck s p .write = some sub) (cmd : Nat) : heddle s p cmd = divert (meetKey s p) p sub := by
  unfold heddle
  rw [if_neg (by simp [hfirst])]
  split
  · exact checked_diverts hk h _
  · simp only [checked_diverts hk h, cancelEcho_of_sender hecho, ite_self]

theorem outsideWrite_diverts (hk : KeyReadable s p) (hecho : p.y = 0 ∨ p.req ≠ 0 ∨ p.sender ≠ 0) (hfirst : p.stored = false)
    (h : rowCheck s p .write = some sub) : outsideWrite s p = divert (meetKey s p) p sub := by
  unfold outsideWrite
  split
  · exact heddle_diverts hk hecho hfirst h _
  · exact checked_diverts hk h _

/-- What a diversion leaves: the record, the answer, and every row and core as it was. -/
theorem divert_protects (s : State) (p : RowPkt) (sub : Nat) :
    let t := divert (meetKey s p) p sub
    Diverted s t p sub ∧ OnlyBytes s t (fun _ => False) ∧
      ((findReq s p.req).isSome → p.req ≠ 0 → Coming t (.run (.reply p.req (.value 0 false)))) := by
  have hm := meetKey_readOnly s p
  obtain ⟨hrecord, hsends, hreply, -⟩ := divert_gives hm p sub
  exact ⟨hrecord, (OnlyBytes.ofReadOnly hm _).trans hsends.onlyBytes, fun hsome hreq => hreply hreq hsome⟩

end

/-- Each of the steps comes to the same diversion. -/
theorem keyCheckProtects : KeyCheckProtects := by
  intro s p sub hk hecho hfirst ef hef hd hcheck
  have hdiverts : exec ef.1.instr s = .next (divert (meetKey s p) p sub) := by
    simp only [List.mem_cons, List.not_mem_nil, or_false] at hef
    obtain rfl | rfl | rfl | rfl | rfl | hheddle := hef
    · show execOutsideRead s = _
      simp only [execOutsideRead, hd, rowStepOf, outsideRead, checked_diverts hk hcheck]
    · show execOutsideWrite s = _
      simp only [execOutsideWrite, hd, rowStepOf, outsideWrite_diverts hk hecho hfirst hcheck]
    · show execOutsideRamoadd s = _
      simp only [execOutsideRamoadd, hd, rowStepOf, outsideAdd, checked_diverts hk hcheck]
    · show execOutsideRcas s = _
      simp only [execOutsideRcas, hd, rowStepOf, outsideCas, checked_diverts hk hcheck]
    · show execCorestatWrite s = _
      simp only [execCorestatWrite, hd, checked_diverts hk hcheck]
    · obtain ⟨cmd, hcmd, hwrite⟩ : ∃ cmd, (ef.1, cmd) ∈ heddleEvents p ∧ ef.2 = .write := by
        rcases hheddle with rfl | rfl | rfl | rfl | rfl | rfl | rfl | rfl <;> simp [heddleEvents, plainCommands]
      obtain ⟨t, hexec, rfl⟩ := performs_heddle hcmd hd (R := (· = heddle s p cmd)) rfl
      rw [hexec, heddle_diverts hk hecho hfirst (hwrite ▸ hcheck)]
  exact ⟨_, hdiverts, divert_protects s p sub⟩

/-! ### A packet that passes -/

/-- In a thread's first row the control words are those from 496 on. -/
theorem isControl_of_home {s : State} {p : RowPkt} (h : (pktHome s p).row = refRow p.ref) :
    isControl s (refCore p.ref) (refRow p.ref) p.widx = true ↔ 496 ≤ p.widx := by
  have hhome : homeRow (getCore s (refCore p.ref)) (refRow p.ref) = refRow p.ref := h
  simp [isControl, hhome]

/-- Each branch of the check that turns packets away is closed to a packet that passes. -/
theorem keyCheckRequires : KeyCheckRequires := by
  intro s p f h hrow th
  simp only [rowCheck, if_neg hrow] at h
  split_ifs at h with hbad hpoison habsent hkey hpriv
  simp only [Bool.or_eq_true, Bool.and_eq_true, Bool.not_eq_true', decide_eq_true_eq, not_or, not_and, Bool.not_eq_true, Bool.not_eq_false,
    not_not, not_le, ne_eq] at hbad hkey hpriv
  obtain ⟨⟨⟨⟨⟨⟨hzero, hreserved⟩, hpresent⟩, hbelow⟩, hframe⟩, hadd⟩, hpair⟩ := hbad
  obtain ⟨hnokey, hsame⟩ := hkey
  refine ⟨by omega, hpresent, hreserved, hframe, hpair, hsame.symm, hnokey, habsent, fun hf hhome hw => ?_, fun hf hhome => ?_⟩
  · exact hpriv ⟨⟨hf, (isControl_of_home hhome).2 (by omega)⟩, hw⟩
  · have hdata := hadd hf
    rw [← Bool.not_eq_true, isControl_of_home hhome] at hdata
    omega

end Sys2Proof.Machine

namespace Sys2Proof
open Machine

/-- Settles O23: `keyCheckProtects` and `keyCheckRequires`. -/
theorem keyChecks : Obligations.KeyChecks := ⟨keyCheckProtects, keyCheckRequires⟩

end Sys2Proof
end

section
/-! PROOFS. Messages (O32): an inbox entry is written and taken (R89, R106, R109), and the handler of an active message starts or waits
(R106 to R108).

Two facts carry the part on the inbox. An arrival changes nothing that a reply to a thread's request looks at (`SameThread`), so that the
IBRECV that was awaited before it is awaited after it; and the words of an entry are whole words, so that they are readable once they are
written, whatever stood there (`readable_entry`). -/
namespace Sys2Proof.Machine
open Claims

/-! ### Two words side by side -/

theorem ofBytes_append (l r : List Byte) : ofBytes (l ++ r) = ofBytes l + 256 ^ l.length * ofBytes r := by
  induction l with
  | nil => simp [ofBytes]
  | cons b l ih => simp only [List.cons_append, ofBytes, ih, List.length_cons, Nat.pow_succ]; ring

theorem getNat_add (s : State) (a m n : Nat) : getNat s a (m + n) = getNat s a m + 256 ^ m * getNat s (a + m) n := by
  have h : getBytes s a (m + n) = getBytes s a m ++ getBytes s (a + m) n := by
    simp [getBytes, Memory.slice_eq, List.range_add, Function.comp_def, Nat.add_assoc]
  rw [getNat, h, ofBytes_append, getBytes, Memory.length_slice]
  rfl

theorem toNat_getWord (s : State) (a : Nat) : (getWord s a).toNat = getNat s a 8 := by
  rw [getWord, BitVec.toNat_ofNat]
  exact Nat.mod_eq_of_lt (getNat_lt s a 8)

theorem getNat_pair (s : State) (a : Nat) : getNat s a 16 = (getWord s a).toNat + 2 ^ 64 * (getWord s (a + 8)).toNat := by
  rw [toNat_getWord, toNat_getWord]
  exact getNat_add s a 8 8

/-- The words of an answer that holds two. -/
theorem extract_pair (x y : Word) :
    (BitVec.ofNat 256 (x.toNat + 2 ^ 64 * y.toNat)).extractLsb' 0 64 = x ∧
      (BitVec.ofNat 256 (x.toNat + 2 ^ 64 * y.toNat)).extractLsb' 64 64 = y := by
  have hx := x.isLt
  have hy := y.isLt
  constructor <;> apply BitVec.eq_of_toNat_eq
  · rw [BitVec.extractLsb'_toNat, BitVec.toNat_ofNat, Nat.shiftRight_zero]
    omega
  · rw [BitVec.extractLsb'_toNat, BitVec.toNat_ofNat, Nat.shiftRight_eq_div_pow]
    omega

theorem bits_one (x : Word) (i : Nat) : bits x i 1 = (x.getLsbD i).toNat := by
  have h : x.extractLsb' i 1 = BitVec.ofBool (x.getLsbD i) := by
    apply BitVec.eq_of_getLsbD_eq
    intro j hj
    obtain rfl : j = 0 := by omega
    simp
  rw [bits, h, BitVec.toNat_ofBool]

/-! ### Reads of a module without stored errors -/

section
variable {s : State} (h : s.bitErrs = [])
include h

theorem touchWords_clean (ws : List Nat) : ws.foldl touchWord s = s := by
  induction ws with
  | nil => rfl
  | cons w l ih => rw [List.foldl_cons, touchWord_id s w (by simp [h]), ih]

theorem touchFrame_clean (t : Thr) : touchFrame s t = s := by
  unfold touchFrame touch
  rw [touchWords_clean h, ite_self]

theorem meetKey_clean (p : RowPkt) : meetKey s p = s := by
  unfold meetKey
  rw [touchFrame_clean h]
  dsimp only
  rw [touchWord_id s _ (by simp [h]), ite_self]

theorem touchHandler_clean (tile n : Nat) : touchHandler s tile n = s := by
  have hrecord : meetRecord s (slotOf s tile) 3 = s := by simp [meetRecord, h]
  unfold touchHandler
  rw [hrecord]
  dsimp only
  split
  · exact touchWords_clean h _
  · rfl

end

/-! ### Registers and control words of one row -/

theorem getCore_congr {s u : State} (hc : u.cores = s.cores) (hn : u.now = s.now) (c : Nat) : getCore u c = getCore s c := by
  rw [getCore, getCore, hc, hn]

theorem getS_of_mem {s u : State} (h : u.mem = s.mem) (t : Thr) (d : SReg) : getS u t d = getS s t d :=
  getS_unchanged (w := fun _ => False) (fun a _ => by rw [h]) fun _ _ => id

theorem getS_setS_other (s : State) (t : Thr) {d e : SReg} (x : Word) (h : d ≠ e) : getS (setS s t d x) t e = getS s t e := by
  have hne : d.toNat ≠ e.toNat := fun he => h (BitVec.eq_of_toNat_eq he)
  refine getS_unchanged (setS_unchanged s t d x) fun i hi hw => ?_
  obtain ⟨-, hw⟩ := hw
  unfold within sAddr at hw
  omega

theorem getS_setC (s : State) (t : Thr) (n : Nat) (x : Word) (d : SReg) : getS (setC s t n x) t d = getS s t d := by
  refine getS_unchanged (setC_unchanged s t n x) fun i hi hw => ?_
  have hlt := sAddr_toNat_lt t d
  unfold within cAddr at hw
  omega

theorem getC_unpark_other (s : State) (t : Thr) {n : Nat} (h0 : n ≠ 0) (h2 : n ≠ 2) : getC (unpark s t) t n = getC s t n :=
  (unpark_unchanged s t).getC fun _ hi => not_parkBytes_cAddr h0 h2 hi

/-- The bytes of a thread's first row. -/
def rowBytes (t : Thr) (a : Nat) : Prop := within (rowAddr t.core t.row) 4096 a

theorem setS_in_row (s : State) (t : Thr) (d : SReg) (x : Word) : UnchangedBut s (setS s t d x) (rowBytes t) := by
  refine (setS_unchanged s t d x).mono fun a ha => ?_
  obtain ⟨-, hw⟩ := ha
  have hlt := sAddr_toNat_lt t d
  unfold within at hw
  unfold sAddr at hw hlt
  unfold rowBytes within
  omega

theorem setC_in_row (s : State) (t : Thr) {n : Nat} (hn : n < 16) (x : Word) : UnchangedBut s (setC s t n x) (rowBytes t) := by
  refine (setC_unchanged s t n x).mono fun a hw => ?_
  unfold within cAddr at hw
  unfold rowBytes within
  omega

theorem unpark_in_row (s : State) (t : Thr) : UnchangedBut s (unpark s t) (rowBytes t) :=
  (setC_in_row s t (by decide) _).trans (setC_in_row _ t (by decide) _)

/-! ### A thread that an arrival leaves as it is -/

/-- What a reply to a thread's request looks at is the same: its requests and pairs, its row and its control words. -/
structure SameThread (s u : State) (t : Thr) : Prop where
  reqs  : u.reqs = s.reqs
  pairs : u.pairs = s.pairs
  subs  : (getCore u t.core).subs = (getCore s t.core).subs
  wide  : (getCore u t.core).wide = (getCore s t.core).wide
  ctl   : getThr u t = getThr s t
  words : ∀ n, n < 16 → getC u t n = getC s t n
  reads : ∀ ws, Readable s ws → Readable u ws

namespace SameThread
variable {s u v : State} {t : Thr}

theorem trans (h : SameThread s u t) (k : SameThread u v t) : SameThread s v t :=
  ⟨k.reqs.trans h.reqs, k.pairs.trans h.pairs, k.subs.trans h.subs, k.wide.trans h.wide, k.ctl.trans h.ctl,
    fun n hn => (k.words n hn).trans (h.words n hn), fun ws hw => k.reads ws (h.reads ws hw)⟩

theorem ofCores (hr : u.reqs = s.reqs) (hp : u.pairs = s.pairs) (hc : u.cores = s.cores) (hn : u.now = s.now)
    (hw : ∀ n, getC u t n = getC s t n) (hread : ∀ ws, Readable s ws → Readable u ws) : SameThread s u t :=
  ⟨hr, hp, by rw [getCore_congr hc hn], by rw [getCore_congr hc hn], getThr_congr hc hn t, fun n _ => hw n, hread⟩

theorem ofReadOnly (h : ReadOnly s u) (t : Thr) : SameThread s u t :=
  ofCores h.reqs h.pairs h.cores h.now (h.getC t) fun _ hws w hw =>
    ⟨(h.poison w (hws w hw).2).trans (hws w hw).1, h.unerring (hws w hw).2⟩

theorem ofSendsOnly (h : SendsOnly s u) (hb : u.bitErrs = s.bitErrs) (t : Thr) : SameThread s u t :=
  ofCores h.reqs h.pairs h.cores h.now (getC_of_mem h.mem t) fun _ => readable_congr h.poison hb

theorem ofModCore (s : State) (t : Thr) {f : CoreSt → CoreSt} (hf : ∀ c, (f c).subs = c.subs ∧ (f c).wide = c.wide ∧ (f c).thr = c.thr) :
    SameThread s (modCore s t.core f) t := by
  have hcore : getCore (modCore s t.core f) t.core = f (getCore s t.core) := getCore_setCore ..
  obtain ⟨hsubs, hwide, hthr⟩ := hf (getCore s t.core)
  exact ⟨modCore_reqs .., modCore_pairs .., by rw [hcore, hsubs], by rw [hcore, hwide], by rw [getThr, getThr, hcore, hthr],
    fun n _ => getC_of_mem (modCore_mem ..) t n, fun _ => readable_congr (modCore_poison ..) (modCore_bitErrs ..)⟩

theorem awaits {id : Nat} {r : Req} (h : SameThread s u r.thr) (k : Awaits s id r) : Awaits u id r where
  found  := by rw [findReq, h.reqs]; exact k.found
  held   := k.held
  parked := (tstate_congr (h.words 0 (by decide))).trans k.parked
  opened := by
    have hopen : rowOpen u r.thr = rowOpen s r.thr := by
      unfold rowOpen getSub subOf homeRow
      dsimp only
      rw [h.subs, h.wide]
    exact hopen.trans k.opened
  alone  := by rw [pairOf, h.pairs]; exact k.alone
  cmds   := by rw [h.ctl]; exact k.cmds
  fresh  := k.fresh
  reads  := by rw [RetireReadable, isPaired_congr (h.words 7 (by decide))]; exact h.reads _ k.reads

theorem nextPc (h : SameThread s u t) : nextPc u t = nextPc s t := by
  rw [Machine.nextPc, Machine.nextPc, pcOf, pcOf, h.words 1 (by decide)]

end SameThread

/-! ### An entry is written (R109) -/

section
variable (s : State) (core e : Nat) (m : InboxMsg)

/-- The bytes of an entry. -/
def entryBytes (m : InboxMsg) : List Byte := toBytes 8 m.w0.toNat ++ toBytes 8 m.w1.toNat

theorem length_entryBytes : (entryBytes m).length = 16 := by simp [entryBytes]

theorem putEntry_mem : (putEntry s core e m).mem = Memory.put s.mem (inboxAddr core e) (entryBytes m) := by
  rw [putEntry, modCore_mem, putFull_mem, entryBytes]

theorem putEntry_unchanged : UnchangedBut s (putEntry s core e m) (within (inboxAddr core e) 16) := by
  intro a ha
  rw [putEntry_mem, Memory.get_put_other]
  rw [length_entryBytes]
  unfold within at ha
  omega

theorem getNat_putEntry : getNat (putEntry s core e m) (inboxAddr core e) 16 = m.w0.toNat + 2 ^ 64 * m.w1.toNat := by
  have hw0 := m.w0.isLt
  have hw1 := m.w1.isLt
  have hslice := Memory.slice_put_self s.mem (inboxAddr core e) (entryBytes m)
  rw [length_entryBytes] at hslice
  rw [getNat, getBytes, putEntry_mem, hslice, entryBytes, ofBytes_append, length_toBytes, ofBytes_toBytes, ofBytes_toBytes]
  omega

theorem getWord_putEntry :
    getWord (putEntry s core e m) (inboxAddr core e) = m.w0 ∧ getWord (putEntry s core e m) (inboxAddr core e + 8) = m.w1 := by
  have h := (getNat_pair ..).symm.trans (getNat_putEntry s core e m)
  have hw0 := m.w0.isLt
  have hw1 := m.w1.isLt
  have hu0 := (getWord (putEntry s core e m) (inboxAddr core e)).isLt
  have hu1 := (getWord (putEntry s core e m) (inboxAddr core e + 8)).isLt
  constructor <;> apply BitVec.eq_of_toNat_eq <;> omega

theorem putEntry_reqs : (putEntry s core e m).reqs = s.reqs := by rw [putEntry, modCore_reqs, putFull_reqs]

theorem getCore_putEntry :
    getCore (putEntry s core e m) core = { getCore s core with ibOrder := (getCore s core).ibOrder ++ [(e, refRow m.target, m.scope)] } := by
  rw [putEntry, modCore, getCore_setCore, getCore_congr (putFull_cores ..) (putFull_now ..)]

theorem readable_putEntry_of {ws : List Nat} (h : Readable (putBytes s (inboxAddr core e) (entryBytes m)) ws) :
    Readable (putEntry s core e m) ws :=
  readable_congr (by rw [putEntry, modCore_poison, putFull, fillFE_poison, entryBytes])
    (by rw [putEntry, modCore_bitErrs, putFull, fillFE_bitErrs, entryBytes]) h

end

/-- A word written whole loses POISON and its stored errors (R99). -/
theorem readable_putBytes_within (s : State) {a w : Nat} {bs : List Byte} (ha : a ≤ w) (hw : w + 8 ≤ a + bs.length) :
    isPoisoned (putBytes s a bs) w = false ∧ Unerring (putBytes s a bs) w := by
  have hin : (!(decide (a ≤ w) && decide (w + 8 ≤ a + bs.length))) = false := by simp [ha, hw]
  refine ⟨?_, ?_⟩
  · rw [isPoisoned, putBytes, List.contains_eq_mem, decide_eq_false_iff_not, List.mem_filter, hin]
    simp
  · rintro e he rfl
    have hout := (List.mem_filter.1 he).2
    rw [hin] at hout
    exact Bool.noConfusion hout

/-- The words of a run that begins and ends with a word lie in it. -/
theorem mem_wordsOf {a n w : Nat} (ha : a % 8 = 0) (hn : n % 8 = 0) (h : w ∈ wordsOf a n) : a ≤ w ∧ w + 8 ≤ a + n := by
  obtain ⟨i, hi, rfl⟩ := List.mem_map.1 h
  rw [List.mem_range] at hi
  omega

theorem inboxAddr_aligned (core e : Nat) : inboxAddr core e % 8 = 0 := by
  unfold inboxAddr rowAddr Config.inboxBase
  omega

theorem readable_entry (s : State) (core e : Nat) (m : InboxMsg) : Readable (putEntry s core e m) (wordsOf (inboxAddr core e) 16) := by
  refine readable_putEntry_of s core e m fun w hw => ?_
  obtain ⟨hlo, hhi⟩ := mem_wordsOf (inboxAddr_aligned core e) (by decide) hw
  exact readable_putBytes_within s hlo (by rw [length_entryBytes]; exact hhi)

/-- The inbox stands above the rows of threads. -/
theorem sameThread_putEntry (s : State) {t : Thr} (hrow : t.row < 84) (e : Nat) (m : InboxMsg) : SameThread s (putEntry s t.core e m) t := by
  have hcore := getCore_putEntry s t.core e m
  refine ⟨putEntry_reqs .., ?_, by rw [hcore], by rw [hcore], by rw [getThr, getThr, hcore], fun n hn => ?_, fun ws hws => ?_⟩
  · rw [putEntry, modCore_pairs, putFull_pairs]
  · refine (putEntry_unchanged s t.core e m).getC fun i hi hw => ?_
    unfold within inboxAddr cAddr rowAddr at hw
    omega
  · exact readable_putEntry_of s t.core e m (readable_putBytes hws _ _)

/-! ### The sender of a message is answered (R106) -/

theorem answerMessage_sends (s : State) (m : InboxMsg) : SendsOnly s (answerMessage s m) := by
  unfold answerMessage
  split
  · exact .ofAnswer ..
  · exact .refl s

theorem answerMessage_bitErrs (s : State) (m : InboxMsg) : (answerMessage s m).bitErrs = s.bitErrs := by
  unfold answerMessage answer
  split
  · split <;> rfl
  · rfl

theorem answerMessage_coming {s : State} {m : InboxMsg} (hk : m.kind = .message) (h0 : m.req ≠ 0) (hr : (findReq s m.req).isSome) :
    Coming (answerMessage s m) (.run (.reply m.req (.value 0 false))) := by
  obtain ⟨r, hr⟩ := Option.isSome_iff_exists.1 hr
  simp only [answerMessage, if_pos (And.intro hk h0), answer, hr]
  exact mem_agenda_send ..

theorem enterEntry_gives (s : State) (core e : Nat) (m : InboxMsg) :
    let u := enterEntry s core e m
    getCore u core = { getCore s core with ibOrder := (getCore s core).ibOrder ++ [(e, refRow m.target, m.scope)] } ∧
      u.reqs = s.reqs ∧ UnchangedBut s u (within (inboxAddr core e) 16) ∧
      getNat u (inboxAddr core e) 16 = m.w0.toNat + 2 ^ 64 * m.w1.toNat ∧
      getWord u (inboxAddr core e) = m.w0 ∧ getWord u (inboxAddr core e + 8) = m.w1 := by
  have hs := answerMessage_sends (putEntry s core e m) m
  have hmem : UnchangedBut (putEntry s core e m) (enterEntry s core e m) fun _ => False := fun a _ => by rw [enterEntry, hs.mem]
  obtain ⟨hw0, hw1⟩ := getWord_putEntry s core e m
  refine ⟨(hs.getCore core).trans (getCore_putEntry ..), hs.reqs.trans (putEntry_reqs ..), fun a ha => ?_, ?_,
    (hmem.getWord fun _ _ => id).trans hw0, (hmem.getWord fun _ _ => id).trans hw1⟩
  · exact (hmem a id).trans (putEntry_unchanged s core e m a ha)
  · exact (getNat_congr fun _ _ => hmem _ id).trans (getNat_putEntry ..)

theorem readable_enterEntry (s : State) (core e : Nat) (m : InboxMsg) : Readable (enterEntry s core e m) (wordsOf (inboxAddr core e) 16) :=
  readable_congr (answerMessage_sends ..).poison (answerMessage_bitErrs ..) (readable_entry s core e m)

theorem sameThread_enterEntry (s : State) {t : Thr} (hrow : t.row < 84) (e : Nat) (m : InboxMsg) : SameThread s (enterEntry s t.core e m) t :=
  (sameThread_putEntry s hrow e m).trans (.ofSendsOnly (answerMessage_sends ..) (answerMessage_bitErrs ..) t)

/-! ### Nobody waits for an entry, or a thread in IBRECV does (R89, R376) -/

theorem refillInbox_none {s : State} {core : Nat} (h : (getCore s core).ibHeld = []) : refillInbox s core = s := by
  rw [refillInbox, h]
  rfl

theorem wakePark_none {s : State} {t : Thr} (h : ∀ r ∈ s.reqs, r.thr = t → r.insn ≠ .park) : wakePark s t = s := by
  have hnone : (s.reqs.find? fun r => r.thr = t && !r.held && r.insn == .park) = none := by
    simpa [List.find?_eq_none] using fun r hr ht _ => h r hr ht
  rw [wakePark, hnone]

theorem takeEntry_none {s : State} {t : Thr} (h : ∀ r ∈ s.reqs, r.thr = t → r.insn ≠ .park ∧ ∀ d, r.insn ≠ .ibrecv d) :
    takeEntry s t = s := by
  rw [takeEntry, wakePark_none fun r hr ht => (h r hr ht).1]
  dsimp only
  split
  · next r _ _ hfind _ =>
    have hp := List.find?_some hfind
    simp only [Bool.and_eq_true, decide_eq_true_eq] at hp
    obtain ⟨⟨ht, -⟩, hrecv⟩ := hp
    split at hrecv
    · next d hi => exact absurd hi ((h r (List.mem_of_find?_eq_some hfind) ht).2 d)
    · cases hrecv
  · rfl

theorem find?_of_unique {α : Type} {p : α → Bool} {l : List α} {a : α} (ha : a ∈ l) (hp : p a = true) (hu : ∀ b ∈ l, p b = true → b = a) :
    l.find? p = some a := by
  obtain ⟨b, hb⟩ := Option.isSome_iff_exists.1 (List.find?_isSome.2 ⟨a, ha, hp⟩)
  rw [hb, hu b (List.mem_of_find?_eq_some hb) (List.find?_some hb)]

/-- An entry is out of the inbox. -/
def entryGone (s : State) (core e : Nat) : State := modCore s core fun c => { c with ibOrder := c.ibOrder.filter fun x => x.1 ≠ e }

theorem entryGone_inbox (s : State) (core e : Nat) :
    (getCore (entryGone s core e) core).ibOrder = (getCore s core).ibOrder.filter (fun x => x.1 ≠ e) ∧
      (getCore (entryGone s core e) core).ibHeld = (getCore s core).ibHeld := by
  rw [entryGone, modCore, getCore_setCore]
  exact ⟨rfl, rfl⟩

theorem sameThread_entryGone (s : State) (t : Thr) (e : Nat) : SameThread s (entryGone s t.core e) t :=
  .ofModCore s t fun _ => ⟨rfl, rfl, rfl⟩

/-- Retiring leaves the inbox of the thread's core as it is. -/
theorem retireTo_inbox (s : State) (t : Thr) (pc : Nat) (v : Word) :
    (getCore (retireTo s t pc v) t.core).ibOrder = (getCore s t.core).ibOrder ∧
      (getCore (retireTo s t pc v) t.core).ibHeld = (getCore s t.core).ibHeld := by
  have hcount : getCore (countRetired s t pc v) t.core = getCore s t.core := by
    refine getCore_congr ?_ (countRetired_same s t pc v).now _
    dsimp only [countRetired]
    split <;> rfl
  have hinterval : ∀ u, getCore (endInterval u t) t.core = getCore u t.core := fun u => by
    refine getCore_congr ?_ (endInterval_same u t).now _
    unfold endInterval
    split
    · rfl
    · split <;> rfl
  have hidle : ∀ u : State, getCore (if tstate u t = stRun then setTState u t stIdle else u) t.core = getCore u t.core := fun u => by
    split
    · exact getCore_congr (setTState_cores ..) (setTState_now ..) _
    · rfl
  rw [retireTo, hinterval, endStep]
  split
  · rw [getCore_modThr, hidle, hcount]
    exact ⟨rfl, rfl⟩
  · rw [hcount]
    exact ⟨rfl, rfl⟩

section
variable {s : State} {r : Req} {d : SReg}

/-- The thread's one request is the IBRECV it is parked in: the entry is the answer to it (R89). -/
theorem takeEntry_awaited (h : Awaits s r.id r) (hi : r.insn = .ibrecv d) (hu : ∀ q ∈ s.reqs, q.thr = r.thr → q = r) {e : Nat}
    {x : Option Scope} {k : Nat} (hf : firstEntry s r.thr = some (e, k, x)) (hr : Readable s (wordsOf (inboxAddr r.thr.core e) 16)) :
    takeEntry s r.thr = replyArrives (entryGone s r.thr.core e) r.id
      (.value (BitVec.ofNat 256 (getNat s (inboxAddr r.thr.core e) 16)) false) := by
  have hpark : ∀ q ∈ s.reqs, q.thr = r.thr → q.insn ≠ .park := fun q hq ht => by rw [hu q hq ht, hi]; exact Instr.noConfusion
  rw [takeEntry, wakePark_none hpark]
  dsimp only
  rw [find?_of_unique (a := r) (List.mem_of_find?_eq_some h.found) ?_ ?_, hf]
  · dsimp only
    rw [if_pos (show tstate s r.thr = stParked from h.parked), touch, touchWords_id s _ hr, entryAns, runPoisoned, any_poisoned_false s _ hr]
    rfl
  · simp [h.held, hi]
  · simp only [Bool.and_eq_true, decide_eq_true_eq]
    exact fun q hq hp => hu q hq hp.1.1

/-- The row of a thread that runs again, with an answer of two words in s[d] and s[d + 1]. -/
def pairWritten (s : State) (id : Nat) (t : Thr) (d : SReg) (x y : Word) : State :=
  setS (setS (unpark (settled s id) t) t d x) t (d + 1) y

theorem pairWritten_rest (s : State) (id : Nat) (t : Thr) (d : SReg) (x y : Word) :
    (pairWritten s id t d x y).cores = s.cores ∧ (pairWritten s id t d x y).now = s.now ∧
      (pairWritten s id t d x y).reqs = (settled s id).reqs := by
  rw [pairWritten, setS_cores, setS_cores, unpark_cores, setS_now, setS_now, unpark_now, setS_reqs, setS_reqs, unpark_reqs]
  exact ⟨rfl, rfl, rfl⟩

/-- The answer of an IBRECV is written, and the inbox of its core stays as it is. -/
theorem replyArrives_recv (h : Awaits s r.id r) (hi : r.insn = .ibrecv d) (h0 : d ≠ 0) (h2 : d.toNat % 2 = 0) (x y : Word) :
    let u := replyArrives s r.id (.value (BitVec.ofNat 256 (x.toNat + 2 ^ 64 * y.toNat)) false)
    getS u r.thr d = x ∧ getS u r.thr (d + 1) = y ∧ pcOf u r.thr = nextPc s r.thr ∧ findReq u r.id = none ∧
      (getCore u r.thr.core).ibOrder = (getCore s r.thr.core).ibOrder ∧ (getCore u r.thr.core).ibHeld = (getCore s r.thr.core).ibHeld := by
  have hd := deliver_ibrecv (s := unpark (settled s r.id) r.thr) (x := BitVec.ofNat 256 (x.toNat + 2 ^ 64 * y.toNat)) hi
  obtain ⟨hx, hy⟩ := extract_pair x y
  obtain ⟨hgx, hgy, hpc, -⟩ := retire_two (unpark (settled s r.id) r.thr) r.thr x y (x ^^^ y) h2 h0
  obtain ⟨hcores, hnow, hreqs⟩ := pairWritten_rest s r.id r.thr d x y
  rw [hx, hy, ← pairWritten] at hd
  rw [nextPc_unpark] at hpc
  rw [← pairWritten] at hgx hgy hpc
  rw [replyArrives_awaited h, complete_value h _ hd hcores hnow]
  obtain ⟨hord, hheld⟩ := retireTo_inbox (pairWritten s r.id r.thr d x y) r.thr
    ((pcOf (pairWritten s r.id r.thr d x y) r.thr + 4) % 4294967296) (x ^^^ y)
  have hcore := getCore_congr hcores hnow r.thr.core
  refine ⟨hgx, hgy, hpc, findReq_settled s r.id fun q hq => ⟨q, ?_, rfl⟩, by rw [hord, hcore], by rw [hheld, hcore]⟩
  rwa [(retireTo_same ..).reqs, hreqs] at hq

/-- The inbox holds one entry: the thread that waits for it takes its two words, and the inbox is empty. -/
theorem wakeReceiver_recv (h : Awaits s r.id r) (hi : r.insn = .ibrecv d) (h0 : d ≠ 0) (h2 : d.toNat % 2 = 0)
    (hu : ∀ q ∈ s.reqs, q.thr = r.thr → q = r) {e : Nat} {x : Option Scope} {w0 w1 : Word}
    (ho : (getCore s r.thr.core).ibOrder = [(e, r.thr.row, x)]) (hh : (getCore s r.thr.core).ibHeld = [])
    (hr : Readable s (wordsOf (inboxAddr r.thr.core e) 16))
    (hw : getNat s (inboxAddr r.thr.core e) 16 = w0.toNat + 2 ^ 64 * w1.toNat) :
    let t := wakeReceiver s r.thr
    getS t r.thr d = w0 ∧ getS t r.thr (d + 1) = w1 ∧ pcOf t r.thr = nextPc s r.thr ∧ (getCore t r.thr.core).ibOrder = [] ∧
      findReq t r.id = none := by
  have hfirst : firstEntry s r.thr = some (e, r.thr.row, x) := by simp [firstEntry, ho]
  have hsame := sameThread_entryGone s r.thr e
  obtain ⟨hgo, hgh⟩ := entryGone_inbox s r.thr.core e
  obtain ⟨hx, hy, hpc, hreq, hord, hheld⟩ := replyArrives_recv (hsame.awaits h) hi h0 h2 w0 w1
  rw [wakeReceiver, takeEntry_awaited h hi hu hfirst hr, hw, refillInbox_none (hheld.trans (hgh.trans hh))]
  refine ⟨hx, hy, hpc.trans hsame.nextPc, ?_, hreq⟩
  rw [hord, hgo, ho]
  simp

end

/-! ### An entry arrives (R106, R109) -/

theorem exec_inboxEntry {s : State} {m : InboxMsg} (h : s.doing = some (.inboxEntry m)) :
    exec (Event.inboxEntry m).instr s = .next (inboxArrives s m) := by
  show execInboxEntry s = _
  simp only [execInboxEntry, h]

/-- An entry goes to the row of a thread: only core-status words of the service row may be accessed from outside (R67). -/
theorem row_of_inboxCheck {s : State} {m : InboxMsg} (h : inboxCheck s m = none) : refRow m.target < 84 := by
  by_cases h84 : refRow m.target = 84
  · simp [inboxCheck, rowCheck, inboxPkt, h84] at h
  · by_contra hrow
    have hbeyond : 85 ≤ refRow m.target := by omega
    simp [inboxCheck, rowCheck, inboxPkt, h84, hbeyond] at h

/-! An entry that the key check lets pass, and for which there is room. -/

section
variable {s : State} {m : InboxMsg} {e : Nat} (hd : s.doing = some (.inboxEntry m)) (hc : inboxCheck s m = none)
  (hr : Readable s [cAddr (pktHome s (inboxPkt m)) 7]) (hf : freeEntry s (refCore m.target) = some e)
  (hh : (getCore s (refCore m.target)).ibHeld = [])
include hd hc hr hf hh

theorem exec_inboxEntry_passes :
    exec (Event.inboxEntry m).instr s =
      .next (wakeReceiver (enterEntry (meetKey s (inboxPkt m)) (refCore m.target) e m) (refThr m.target)) := by
  have hm := meetKey_readOnly s (inboxPkt m)
  have hc' : inboxCheck (meetKey s (inboxPkt m)) m = none := (rowCheck_readOnly hm (hr _ (.head _)).2 .write).trans hc
  have hf' : freeEntry (meetKey s (inboxPkt m)) (refCore m.target) = some e := by rw [freeEntry, hm.getCore]; exact hf
  rw [exec_inboxEntry hd, inboxArrives]
  dsimp only
  rw [hc', hf']
  dsimp only
  rw [hm.getCore, hh]
  rfl

/-- Nobody waits for it: the entry stands in the inbox. -/
theorem inboxEntry_stands (hn : ∀ r ∈ s.reqs, r.thr = refThr m.target → r.insn ≠ .park ∧ ∀ d, r.insn ≠ .ibrecv d) :
    Performs s (.inboxEntry m) fun t =>
      getWord t (inboxAddr (refCore m.target) e) = m.w0 ∧ getWord t (inboxAddr (refCore m.target) e + 8) = m.w1 ∧
      (getCore t (refCore m.target)).ibOrder = (getCore s (refCore m.target)).ibOrder ++ [(e, refRow m.target, m.scope)] ∧
      UnchangedBut s t (within (inboxAddr (refCore m.target) e) 16) ∧
      (m.kind = .message → m.req ≠ 0 → (findReq s m.req).isSome → Coming t (.run (.reply m.req (.value 0 false)))) := by
  have hm := meetKey_readOnly s (inboxPkt m)
  obtain ⟨hcore, hreqs, hframe, -, hw0, hw1⟩ := enterEntry_gives (meetKey s (inboxPkt m)) (refCore m.target) e m
  rw [hm.getCore] at hcore
  refine ⟨_, exec_inboxEntry_passes hd hc hr hf hh, ?_⟩
  rw [wakeReceiver, takeEntry_none fun r hr => hn r (hm.reqs ▸ hreqs ▸ hr), refillInbox_none]
  · refine ⟨hw0, hw1, by rw [hcore], (hm.unchangedBut _).trans hframe, fun hk h0 hsome => answerMessage_coming hk h0 ?_⟩
    rwa [findReq, putEntry_reqs, hm.reqs, ← findReq]
  · rw [refThr, hcore, hh]

/-- A thread that is parked in IBRECV takes it. -/
theorem inboxEntry_taken {r : Req} {d : SReg} (h : Awaits s r.id r) (ht : r.thr = refThr m.target) (hi : r.insn = .ibrecv d) (h0 : d ≠ 0)
    (h2 : d.toNat % 2 = 0) (hu : ∀ q ∈ s.reqs, q.thr = refThr m.target → q = r) (ho : (getCore s (refCore m.target)).ibOrder = []) :
    Performs s (.inboxEntry m) fun t =>
      getS t (refThr m.target) d = m.w0 ∧ getS t (refThr m.target) (d + 1) = m.w1 ∧
      pcOf t (refThr m.target) = nextPc s (refThr m.target) ∧ (getCore t (refCore m.target)).ibOrder = [] ∧ findReq t r.id = none := by
  have hm := meetKey_readOnly s (inboxPkt m)
  have hcoreOf : refCore m.target = r.thr.core := (congrArg Thr.core ht).symm
  have hrowOf : refRow m.target = r.thr.row := (congrArg Thr.row ht).symm
  have hrow : r.thr.row < 84 := hrowOf ▸ row_of_inboxCheck hc
  refine ⟨_, exec_inboxEntry_passes hd hc hr hf hh, ?_⟩
  rw [← ht] at hu ⊢
  rw [hcoreOf] at ho hh ⊢
  obtain ⟨hcore, -, -, hentry, -⟩ := enterEntry_gives (meetKey s (inboxPkt m)) r.thr.core e m
  have hread := readable_enterEntry (meetKey s (inboxPkt m)) r.thr.core e m
  have hsame := (SameThread.ofReadOnly hm r.thr).trans (sameThread_enterEntry _ hrow e m)
  rw [hm.getCore, ho, hrowOf] at hcore
  generalize enterEntry (meetKey s (inboxPkt m)) r.thr.core e m = u at *
  rw [← hsame.nextPc]
  exact wakeReceiver_recv (hsame.awaits h) hi h0 h2 (fun q hq => hu q (by rwa [hsame.reqs] at hq)) (by rw [hcore]; rfl)
    (by rw [hcore]; exact hh) hread hentry

end

/-! ### Handlers (R108) -/

/-- The operands of a handler. -/
def withOperands (s : State) (t : Thr) (m : Msg) : State :=
  setS (setS (setS (setS (setS (setS s t 1 (refKey m.target ++ 0#2 ++ m.sender)) t 2 m.target) t 3 m.a) t 4 m.b) t 5 m.c) t 6
    (BitVec.ofNat 64 m.h)

theorem getS_withOperands (s : State) (t : Thr) (m : Msg) :
    let u := withOperands s t m
    getS u t 1 = refKey m.target ++ 0#2 ++ m.sender ∧ getS u t 2 = m.target ∧ getS u t 3 = m.a ∧ getS u t 4 = m.b ∧
      getS u t 5 = m.c ∧ getS u t 6 = BitVec.ofNat 64 m.h := by
  simp [withOperands, getS_setS_other, getS_setS_self]

theorem withOperands_in_row (s : State) (t : Thr) (m : Msg) : UnchangedBut s (withOperands s t m) (rowBytes t) :=
  (((((setS_in_row s t 1 _).trans (setS_in_row _ t 2 _)).trans (setS_in_row _ t 3 _)).trans (setS_in_row _ t 4 _)).trans
    (setS_in_row _ t 5 _)).trans (setS_in_row _ t 6 _)

theorem getCore_withOperands (s : State) (t : Thr) (m : Msg) (c : Nat) : getCore (withOperands s t m) c = getCore s c := by
  simp only [getCore, withOperands, setS_cores, setS_now]

/-- The control words of a handler that runs: PC and code object, key, and the row that its traps go to. -/
def withControl (s : State) (t : Thr) (pc key sup : Word) : State := unpark (setC (setC (setC (setC s t 1 pc) t 7 key) t 12 sup) t 3 0) t

section
variable (s : State) (t : Thr) (pc key sup : Word)

theorem getC_withControl :
    let u := withControl s t pc key sup
    getC u t 1 = pc ∧ getC u t 3 = 0 ∧ getC u t 7 = key := by
  simp [withControl, getC_unpark_other, getC_setC_other, getC_setC_self]

theorem tstate_withControl : tstate (withControl s t pc key sup) t = stRun := tstate_unpark ..

theorem withControl_in_row : UnchangedBut s (withControl s t pc key sup) (rowBytes t) :=
  ((((setC_in_row s t (by decide) _).trans (setC_in_row _ t (by decide) _)).trans (setC_in_row _ t (by decide) _)).trans
    (setC_in_row _ t (by decide) _)).trans (unpark_in_row _ t)

/-- The operands stand below the control words. -/
theorem getS_withControl (d : SReg) : getS (withControl s t pc key sup) t d = getS s t d := by
  simp only [withControl, unpark, setTState, getS_setC]

theorem getCore_withControl (c : Nat) : getCore (withControl s t pc key sup) c = getCore s c :=
  getCore_congr (by rw [withControl, unpark_cores, setC_cores, setC_cores, setC_cores, setC_cores])
    (by rw [withControl, unpark_now, setC_now, setC_now, setC_now, setC_now]) c

end

theorem bits_halves {hi lo : Nat} (hhi : hi < 2 ^ 32) (hlo : lo < 2 ^ 32) :
    bits (BitVec.ofNat 64 (hi * 4294967296 + lo)) 0 32 = lo ∧ bits (BitVec.ofNat 64 (hi * 4294967296 + lo)) 32 32 = hi := by
  rw [bits, bits, BitVec.extractLsb'_toNat, BitVec.extractLsb'_toNat, BitVec.toNat_ofNat, Nat.shiftRight_zero, Nat.shiftRight_eq_div_pow]
  constructor <;> omega

/-- KEY and PRIV of c7. -/
theorem key_priv_of_c7 (key : BitVec 16) (b : Bool) :
    (BitVec.ofNat 64 (key.toNat + b.toNat * 65536)).extractLsb' 0 16 = key ∧
      bits (BitVec.ofNat 64 (key.toNat + b.toNat * 65536)) 16 1 = b.toNat := by
  have hkey := key.isLt
  have hb := b.toNat_lt
  constructor
  · apply BitVec.eq_of_toNat_eq
    rw [BitVec.extractLsb'_toNat, BitVec.toNat_ofNat, Nat.shiftRight_zero]
    omega
  · rw [bits, BitVec.extractLsb'_toNat, BitVec.toNat_ofNat, Nat.shiftRight_eq_div_pow]
    omega

/-- The service slot is busy with a handler that has issued nothing yet. -/
def withHandler (s : State) (core : Nat) : State := modCore (setThr s ⟨core, 84⟩ {}) core fun c => { c with handler := true }

theorem withHandler_mem (s : State) (core : Nat) : (withHandler s core).mem = s.mem := by rw [withHandler, modCore_mem, setThr_mem]

theorem getCore_withHandler (s : State) (core : Nat) :
    (getCore (withHandler s core) core).handler = true ∧ (getCore (withHandler s core) core).msgs = (getCore s core).msgs := by
  rw [withHandler, modCore, getCore_setCore, setThr, modCore, getCore_setCore]
  exact ⟨rfl, rfl⟩

theorem startHandler_eq (s : State) (core : Nat) (m : Msg) (w0 w1 : Word) :
    ∃ sup, startHandler s core m w0 w1 =
      withHandler (withControl (withOperands s ⟨core, 84⟩ m) ⟨core, 84⟩ (BitVec.ofNat 64 (bits w0 32 32 * 4294967296 + bits w0 0 32))
        (BitVec.ofNat 64 ((refKey m.target).toNat + bits w1 1 1 * 65536)) sup) core := ⟨_, rfl⟩

theorem startHandler_handles (s : State) (core : Nat) (m : Msg) (w0 w1 : Word) : Handles s (startHandler s core m w0 w1) core m w0 w1 := by
  obtain ⟨sup, e⟩ := startHandler_eq s core m w0 w1
  have hhi : bits w0 32 32 < 2 ^ 32 := BitVec.isLt _
  have hlo : bits w0 0 32 < 2 ^ 32 := BitVec.isLt _
  obtain ⟨hpc, hcode⟩ := bits_halves hhi hlo
  obtain ⟨hkey, hpriv⟩ := key_priv_of_c7 (refKey m.target) (w1.getLsbD 1)
  rw [e, bits_one]
  generalize BitVec.ofNat 64 (bits w0 32 32 * 4294967296 + bits w0 0 32) = pc at hpc hcode ⊢
  generalize BitVec.ofNat 64 ((refKey m.target).toNat + (w1.getLsbD 1).toNat * 65536) = key at hkey hpriv ⊢
  obtain ⟨h1, h2, h3, h4, h5, h6⟩ := getS_withOperands s ⟨core, 84⟩ m
  obtain ⟨hc1, hc3, hc7⟩ := getC_withControl (withOperands s ⟨core, 84⟩ m) ⟨core, 84⟩ pc key sup
  have hS := getS_withControl (withOperands s ⟨core, 84⟩ m) ⟨core, 84⟩ pc key sup
  have hst := tstate_withControl (withOperands s ⟨core, 84⟩ m) ⟨core, 84⟩ pc key sup
  have hin := (withOperands_in_row s ⟨core, 84⟩ m).trans (withControl_in_row _ ⟨core, 84⟩ pc key sup)
  generalize withControl (withOperands s ⟨core, 84⟩ m) ⟨core, 84⟩ pc key sup = v at *
  have hmem := withHandler_mem v core
  have hc := getC_of_mem hmem ⟨core, 84⟩
  have hs := getS_of_mem hmem ⟨core, 84⟩
  exact
    { state := (tstate_congr (hc 0)).trans hst
      pc := by rw [pcOf, hc, hc1, hpc]
      code := by rw [codeOf, hc, hc1, hcode]
      sender := by rw [hs, hS, h1]
      target := by rw [hs, hS, h2]
      words := ⟨by rw [hs, hS, h3], by rw [hs, hS, h4], by rw [hs, hS, h5]⟩
      number := by rw [hs, hS, h6]
      key := ⟨by rw [keyOf, hc, hc7, hkey], by rw [isPriv, hc, hc7, hpriv]; cases w1.getLsbD 1 <;> rfl⟩
      flags := by rw [hc, hc3]
      busy := (getCore_withHandler v core).1
      frame := fun a ha => by rw [hmem]; exact hin a ha }

theorem startHandler_msgs (s : State) (core : Nat) (m : Msg) (w0 w1 : Word) :
    (getCore (startHandler s core m w0 w1) core).msgs = (getCore s core).msgs := by
  obtain ⟨sup, e⟩ := startHandler_eq s core m w0 w1
  rw [e, (getCore_withHandler ..).2, getCore_withControl, getCore_withOperands]

/-! ### A message arrives, and one that has waited starts (R106, R108) -/

theorem exec_activeMessage {s : State} {m : Msg} (h : s.doing = some (.activeMessage m)) :
    exec (Event.activeMessage m).instr s = .next (messageArrives s m) := by
  show execActiveMessage s = _
  simp only [execActiveMessage, h]

theorem exec_handlerStart {s : State} {core : Nat} (h : s.doing = some (.handlerStart core)) :
    exec (Event.handlerStart core).instr s = .next (handlerStarts s core) := by
  show execHandlerStart s = _
  simp only [execHandlerStart, h]

/-- A message as the key check and its sender's answer see it. -/
def entryOf (m : Msg) : InboxMsg := ⟨.message, m.target, m.a, m.b, m.sender, m.req, m.scope⟩

/-- An accepted message: its handler starts in the idle service slot, or it waits behind those that wait. -/
def acceptMessage (s : State) (m : Msg) (w0 w1 : Word) : State :=
  let c := getCore s (refCore m.target)
  if c.handler || !c.msgs.isEmpty then setCore s (refCore m.target) { c with msgs := c.msgs ++ [m] }
  else startHandler s (refCore m.target) m w0 w1

theorem startHandler_reqs (s : State) (core : Nat) (m : Msg) (w0 w1 : Word) : (startHandler s core m w0 w1).reqs = s.reqs := by
  obtain ⟨sup, e⟩ := startHandler_eq s core m w0 w1
  rw [e]
  simp [withHandler, withControl, withOperands]

section
variable {s : State} {m : Msg} {w0 w1 : Word}

theorem acceptMessage_reqs : (acceptMessage s m w0 w1).reqs = s.reqs := by
  unfold acceptMessage
  dsimp only
  split
  · exact setCore_reqs ..
  · exact startHandler_reqs ..

theorem acceptMessage_idle (hh : (getCore s (refCore m.target)).handler = false) (hm : (getCore s (refCore m.target)).msgs = []) :
    acceptMessage s m w0 w1 = startHandler s (refCore m.target) m w0 w1 := by
  rw [acceptMessage, hh, hm]
  rfl

theorem acceptMessage_busy (hh : (getCore s (refCore m.target)).handler = true) :
    (getCore (acceptMessage s m w0 w1) (refCore m.target)).msgs = (getCore s (refCore m.target)).msgs ++ [m] ∧
      (acceptMessage s m w0 w1).mem = s.mem := by
  rw [acceptMessage, hh, Bool.true_or, if_pos rfl, getCore_setCore]
  exact ⟨rfl, setCore_mem ..⟩

/-- A message that the key check lets pass and whose table entry is enabled is accepted, and its sender answered. -/
theorem messageArrives_passes (hb : s.bitErrs = []) (hc : inboxCheck s (entryOf m) = none)
    (he : handlerEntry s (tileOf (refCore m.target)) m.h = some (w0, w1)) (hen : w1.getLsbD 0 = true) :
    messageArrives s m = answerMessage (acceptMessage s m w0 w1) (entryOf m) := by
  have hbit : ¬ bits w1 0 1 = 0 := by rw [bits_one, hen]; decide
  have hm := meetKey_clean hb (inboxPkt (entryOf m))
  unfold messageArrives
  dsimp only
  rw [← entryOf, hm, hc]
  dsimp only
  rw [touchHandler_clean hb, he]
  dsimp only
  rw [if_neg hbit]
  by_cases h0 : m.req = 0 <;> simp [answerMessage, acceptMessage, entryOf, h0]

end

theorem handlerEntry_setCore (s : State) (c : Nat) (x : CoreSt) (tile k : Nat) :
    handlerEntry (setCore s c x) tile k = handlerEntry s tile k := by
  have h : SameTables s (setCore s c x) :=
    ⟨setCore_mem .., setCore_poison .., setCore_bitErrs .., setCore_tiles .., setCore_absent .., by rw [setCore_io], by rw [setCore_io],
      by rw [setCore_io]⟩
  have hslot : slotOf (setCore s c x) tile = slotOf s tile := by rw [slotOf, slotOf, h.getTile]
  simp only [handlerEntry, handlerAddr, hslot, h.recordNow, h.elemAddr, h.getWord]

theorem handlerStarts_passes {s : State} {core : Nat} {m : Msg} {l : List Msg} {w0 w1 : Word} (hb : s.bitErrs = [])
    (hl : (getCore s core).msgs = m :: l) (hh : (getCore s core).handler = false)
    (he : handlerEntry s (tileOf core) m.h = some (w0, w1)) :
    handlerStarts s core = startHandler (setCore s core { getCore s core with msgs := l }) core m w0 w1 := by
  unfold handlerStarts
  dsimp only
  rw [hl]
  dsimp only
  rw [if_neg (by rw [hh]; decide), touchHandler_clean ((setCore_bitErrs ..).trans hb), handlerEntry_setCore, he]

/-- A handler is what its row and its core say. -/
theorem handles_of_mem {s t u : State} {core : Nat} {m : Msg} {w0 w1 : Word} (h : Handles s t core m w0 w1) (hm : u.mem = t.mem)
    (hbusy : (getCore u core).handler = true) : Handles s u core m w0 w1 := by
  have hc := getC_of_mem hm ⟨core, 84⟩
  have hs := getS_of_mem hm ⟨core, 84⟩
  exact
    { state := (tstate_congr (hc 0)).trans h.state
      pc := by rw [pcOf, hc]; exact h.pc
      code := by rw [codeOf, hc]; exact h.code
      sender := (hs 1).trans h.sender
      target := (hs 2).trans h.target
      words := by rw [hs, hs, hs]; exact h.words
      number := (hs 6).trans h.number
      key := by rw [keyOf, isPriv, hc]; exact h.key
      flags := (hc 3).trans h.flags
      busy := hbusy
      frame := fun a ha => by rw [hm]; exact h.frame a ha }

theorem activeMessage_arrives {s : State} {m : Msg} {w0 w1 : Word} (hd : s.doing = some (.activeMessage m)) (hb : s.bitErrs = [])
    (hc : inboxCheck s (entryOf m) = none) (he : handlerEntry s (tileOf (refCore m.target)) m.h = some (w0, w1))
    (hen : w1.getLsbD 0 = true) :
    Performs s (.activeMessage m) fun t =>
      let c := getCore s (refCore m.target)
      (c.handler = false → c.msgs = [] → Handles s t (refCore m.target) m w0 w1) ∧
      (c.handler = true → (getCore t (refCore m.target)).msgs = c.msgs ++ [m] ∧ t.mem = s.mem) ∧
      (m.req ≠ 0 → (findReq s m.req).isSome → Coming t (.run (.reply m.req (.value 0 false)))) := by
  have hs := answerMessage_sends (acceptMessage s m w0 w1) (entryOf m)
  refine ⟨_, exec_activeMessage hd, ?_⟩
  rw [messageArrives_passes hb hc he hen]
  refine ⟨fun hh hm => ?_, fun hh => ?_, fun h0 hsome => answerMessage_coming (m := entryOf m) rfl h0 ?_⟩
  · have hstarts := startHandler_handles s (refCore m.target) m w0 w1
    rw [← acceptMessage_idle hh hm] at hstarts
    exact handles_of_mem hstarts hs.mem (by rw [hs.getCore]; exact hstarts.busy)
  · obtain ⟨hmsgs, hmem⟩ := acceptMessage_busy (w0 := w0) (w1 := w1) hh
    exact ⟨by rw [hs.getCore, hmsgs], hs.mem.trans hmem⟩
  · rwa [findReq, acceptMessage_reqs, ← findReq]

theorem handlerStart_starts {s : State} {core : Nat} {m : Msg} {l : List Msg} {w0 w1 : Word} (hd : s.doing = some (.handlerStart core))
    (hl : (getCore s core).msgs = m :: l) (hh : (getCore s core).handler = false) (hb : s.bitErrs = [])
    (he : handlerEntry s (tileOf core) m.h = some (w0, w1)) :
    Performs s (.handlerStart core) fun t => Handles s t core m w0 w1 ∧ (getCore t core).msgs = l := by
  refine ⟨_, exec_handlerStart hd, ?_⟩
  rw [handlerStarts_passes hb hl hh he]
  refine ⟨?_, by rw [startHandler_msgs, getCore_setCore]⟩
  have hstarts := startHandler_handles (setCore s core { getCore s core with msgs := l }) core m w0 w1
  exact { hstarts with frame := hstarts.frame }

end Sys2Proof.Machine

namespace Sys2Proof
open Machine

/-- Settles O32: `inboxEntry_stands` and `inboxEntry_taken`, `activeMessage_arrives`, `handlerStart_starts`. -/
theorem messagesArrive : Obligations.MessagesArrive := fun _ =>
  ⟨fun _ _ hd hc hr hf hh => ⟨fun hn => inboxEntry_stands hd hc hr hf hh hn,
      fun _ _ h ht hi h0 h2 hu ho => inboxEntry_taken hd hc hr hf hh h ht hi h0 h2 hu ho⟩,
    fun _ _ _ hd hc _ hb he hen => activeMessage_arrives hd hb hc he hen,
    fun _ _ _ _ _ hd hl hh hb he => handlerStart_starts hd hl hh hb he⟩

end Sys2Proof
end

section
/-! PROOFS. The accesses of jobs that no engine runs (O46). -/
namespace Sys2Proof.Machine
open Claims

/-- A job of the matrix queue whose command is none that an engine runs, with one access under way. -/
def strayJob : Job :=
  { entry := 0, cmd := .nop, thr := ⟨0, 0⟩, block := [], fmt := 0, key := 0, priv := false, req := 0, feeding := 1 }

/-- Its last access, which writes nothing. -/
def strayFeed : Feed := { gran := 0, act := .meet }

/-- A module where that access is being served. -/
def strayState : State :=
  { State.reset with tiles := [(0, { jobs := [strayJob] })], agenda := [⟨0, .local, 0, 0, .serve 0 0 0 (.feed strayFeed false)⟩] }

theorem runs_nop (e : Event) : runs e .nop = false := by cases e <;> rfl

theorem strayState_fedJob : fedJob strayState strayFeed.no = some (0, .mat, strayJob) := by decide

theorem strayState_free : serveWaits { strayState with agenda := [] } 0 0 = false := by decide

end Sys2Proof.Machine

namespace Sys2Proof
open Machine

/-- Refutes O46: its clause on the last access of a job does not ask that the job's command is one that an engine runs, and none of
the steps in the conclusion runs that of `strayJob`. -/
theorem not_jobsStop : ¬ Obligations.JobsStop := by
  intro h
  obtain ⟨-, hland, -⟩ := h
  obtain ⟨-, -, hlast⟩ := hland strayState _ [] strayFeed 0 0 0 rfl (Nat.zero_le _) rfl strayState_free rfl rfl rfl (by decide)
  obtain ⟨t, -, hcomes, -⟩ := hlast 0 .mat strayJob strayState_fedJob (by decide) (.inr (.inl rfl)) (.inl rfl)
  obtain ⟨e, hruns, -⟩ := hcomes rfl
  exact absurd hruns (by rw [show strayJob.cmd = .nop from rfl, runs_nop]; decide)

end Sys2Proof
end

section
/-! PROOFS. RETRY, REDIRECT, walks, and the withdrawal of waiting accesses (O29). -/
namespace Sys2Proof.Machine
open Claims

/-! ### Tiles and requests -/

theorem getTile_setTile (s : State) (t : Nat) (x : TileSt) : getTile (setTile s t x) t = x := by
  simp [getTile, setTile, look_store]

theorem getTile_modTile (s : State) (t : Nat) (f : TileSt → TileSt) : getTile (modTile s t f) t = f (getTile s t) :=
  getTile_setTile ..

/-- A change of a request that keeps its name is found under the name. -/
theorem findReq_modReq {s : State} {id : Nat} {r : Req} (h : findReq s id = some r) {f : Req → Req} (hf : ∀ x, (f x).id = x.id) :
    findReq (modReq s id f) id = some (f r) := by
  have hid : (fun x : Req => decide (x.id = id)) ∘ (fun x => if x.id = id then f x else x) = fun x => decide (x.id = id) := by
    funext x
    dsimp only [Function.comp]
    split
    · rw [hf]
    · rfl
  unfold findReq modReq at *
  rw [List.find?_map, hid, h, Option.map_some, if_pos (by simpa using List.find?_some h)]

theorem coming_send (s : State) (cls : Cls) (src dst : Nat) (a : Act) : Coming (send s cls src dst a) a := mem_agenda_send ..

/-! ### What changes only the tiles -/

/-- Beside the tiles' own lists only packets and steps leave: memory with its side bits, the cores, the requests and the time stay. -/
structure TilesOnly (s t : State) : Prop where
  mem    : t.mem = s.mem
  empty  : t.empty = s.empty
  poison : t.poison = s.poison
  errs   : t.bitErrs = s.bitErrs
  now    : t.now = s.now
  cores  : t.cores = s.cores
  reqs   : t.reqs = s.reqs
  pairs  : t.pairs = s.pairs
  agenda : ∀ x ∈ s.agenda, x ∈ t.agenda

namespace TilesOnly
variable {s t u : State}

theorem refl (s : State) : TilesOnly s s := ⟨rfl, rfl, rfl, rfl, rfl, rfl, rfl, rfl, fun _ h => h⟩

theorem trans (h : TilesOnly s t) (k : TilesOnly t u) : TilesOnly s u :=
  ⟨k.mem.trans h.mem, k.empty.trans h.empty, k.poison.trans h.poison, k.errs.trans h.errs, k.now.trans h.now,
    k.cores.trans h.cores, k.reqs.trans h.reqs, k.pairs.trans h.pairs, fun x hx => k.agenda x (h.agenda x hx)⟩

theorem ofSend (s : State) (cls : Cls) (src dst : Nat) (a : Act) : TilesOnly s (send s cls src dst a) :=
  ⟨rfl, rfl, rfl, rfl, rfl, rfl, rfl, rfl, fun _ h => mem_insertSched.2 (.inr h)⟩

theorem ofPost (s : State) (d : Nat) (e : Event) : TilesOnly s (post s d e) :=
  ⟨rfl, rfl, rfl, rfl, rfl, rfl, rfl, rfl, fun _ h => mem_insertSched.2 (.inr h)⟩

theorem ofModTile (s : State) (t : Nat) (f : TileSt → TileSt) : TilesOnly s (modTile s t f) :=
  ⟨rfl, rfl, rfl, rfl, rfl, rfl, rfl, rfl, fun _ h => h⟩

theorem ofFoldl {ι : Type} {f : State → ι → State} (hf : ∀ s i, TilesOnly s (f s i)) (l : List ι) (s : State) :
    TilesOnly s (l.foldl f s) :=
  l.foldlRecOn (motive := TilesOnly s) f (refl s) fun _ h i _ => h.trans (hf _ i)

theorem coming (h : TilesOnly s t) {a : Act} (hc : Coming s a) : Coming t a := by
  obtain ⟨x, hx, e⟩ := hc
  exact ⟨x, h.agenda x hx, e⟩

theorem ofIssueWalk (s : State) (tile : Nat) (x : WalkSt) : TilesOnly s (issueWalk s tile x) := by
  unfold issueWalk
  dsimp only
  split
  · exact (ofModTile ..).trans (ofFoldl (fun _ _ => ofPost ..) ..)
  · split
    · exact (ofModTile ..).trans (ofFoldl (fun _ _ => ofPost ..) ..)
    · exact ofSend ..

theorem ofIssueNext (s : State) (tile n : Nat) : TilesOnly s (issueNext s tile n) := by
  induction n generalizing s with
  | zero => exact refl s
  | succ n ih =>
    unfold issueNext
    split
    · exact refl s
    · dsimp only
      split
      · exact ofIssueWalk ..
      · exact (ofIssueWalk ..).trans (ih _)

theorem ofEndWalk (s : State) (tile no : Nat) : TilesOnly s (endWalk s tile no) := (ofModTile ..).trans (ofIssueNext ..)

end TilesOnly

/-! ### RETRY and REDIRECT (R103, R154) -/

section
variable {s : State} {id : Nat} {r : Req}

theorem exec_retry (hd : s.doing = some (.retry id)) : exec (Event.retry id).instr s = .next (retried s id) := by
  show execRetry s = _
  simp only [execRetry, hd]

theorem exec_retryBackoff (hd : s.doing = some (.retryBackoff id)) : exec (Event.retryBackoff id).instr s = .next (backedOff s id) := by
  show execRetryBackoff s = _
  simp only [execRetryBackoff, hd]

theorem exec_redirectAnswer (hd : s.doing = some (.redirectAnswer id)) :
    exec (Event.redirectAnswer id).instr s = .next (redirected s id) := by
  show execRedirectAnswer s = _
  simp only [execRedirectAnswer, hd]

theorem retried_eq (hf : findReq s id = some r) (hc : r.cw = .none) :
    retried s id = post (modReq s id fun q => { q with retries := r.retries + 1, phase := .backoff }) (256 * 2 ^ min r.retries 4)
      (.retryBackoff id) := by
  unfold retried
  rw [hf]
  exact if_pos hc

theorem retry_backs_off (hd : s.doing = some (.retry id)) (hf : findReq s id = some r) (hc : r.cw = .none) :
    Performs s (.retry id) fun t =>
      findReq t id = some { r with retries := r.retries + 1, phase := .backoff } ∧
      DueIn s t (256 * 2 ^ min r.retries 4) (.retryBackoff id) ∧ t.mem = s.mem := by
  refine ⟨_, exec_retry hd, ?_⟩
  rw [retried_eq hf hc]
  exact ⟨findReq_modReq hf fun _ => rfl, dueIn_post rfl _ _, rfl⟩

theorem backedOff_eq (hf : findReq s id = some r) (hp : r.phase = .backoff) (hi : ∀ d a p k, r.insn ≠ .msend d a p k) :
    backedOff s id = translateReq s id none := by
  unfold backedOff
  rw [hf]
  dsimp only
  rw [if_neg (not_not.2 hp)]
  split
  next h => exact absurd h (hi _ _ _ _)
  next => rfl

theorem retryBackoff_resends (hd : s.doing = some (.retryBackoff id)) (hf : findReq s id = some r) (hp : r.phase = .backoff)
    (hi : ∀ d a p k, r.insn ≠ .msend d a p k) : Performs s (.retryBackoff id) fun t => t = translateReq s id none :=
  ⟨_, exec_retryBackoff hd, backedOff_eq hf hp hi⟩

theorem dropEntry_drops (s : State) (tile h n : Nat) :
    ∀ e ∈ (getTile (dropEntry s tile h n) tile).subs, ¬ (e.handle = h ∧ e.sub = n) := by
  rintro e he ⟨rfl, rfl⟩
  rw [dropEntry, getTile_modTile] at he
  simpa using (List.mem_filter.1 he).2

theorem redirect_translates (hd : s.doing = some (.redirectAnswer id)) (hf : findReq s id = some r) :
    Performs s (.redirectAnswer id) fun t =>
      ∃ u, (∀ e ∈ (getTile u (tileOf r.thr.core)).subs, ¬ (e.handle = r.oh ∧ e.sub = r.sub)) ∧ u.mem = s.mem ∧ u.reqs = s.reqs ∧
        t = translateReq u id none := by
  refine ⟨_, exec_redirectAnswer hd, dropEntry s (tileOf r.thr.core) r.oh r.sub, dropEntry_drops _ _ _ _, rfl, rfl, ?_⟩
  unfold redirected
  rw [hf]

end

/-! ### Walks (R153, R160) -/

theorem touch_clean {s : State} (h : s.bitErrs = []) (a n : Nat) : touch s a n = s := touchWords_clean h _

section
variable {s : State} {p : WalkPkt} {h n : Nat}

theorem exec_walk (hd : s.doing = some (.walk p)) : exec (Event.walk p).instr s = .next (walkAdmitted s p) := by
  show execWalk s = _
  simp only [execWalk, hd]

theorem walk_answers (hd : s.doing = some (.walk p)) (ha : p.addr = .record h) (hr : p.recAt = none) (hb : s.bitErrs = []) :
    Performs s (.walk p) fun t =>
      t.mem = s.mem ∧ Coming t (.run (.walkReply p
        ⟨(List.range p.count).map fun i => getWord s (p.place + 8 * i), runPoisoned s p.place (8 * p.count)⟩)) := by
  refine ⟨_, exec_walk hd, ?_⟩
  have hheld : ∀ x, entryHeld s p x = false := fun x => by rw [entryHeld, ha]
  have he : walkAdmitted s p = send s .rsp (tileOf (coreOfAddr p.place)) p.tile
      (.run (.walkReply p ⟨readWords s p.place p.count, runPoisoned s p.place (8 * p.count)⟩)) := by
    simp only [walkAdmitted, answerWalk, touch_clean hb, hheld, hr, List.append_nil, Bool.or_false, Bool.false_eq_true, if_false]
  rw [he]
  exact ⟨rfl, coming_send ..⟩

theorem walk_waits (hd : s.doing = some (.walk p)) (ha : p.addr = .entry h n)
    (hc : (h, n) ∈ (getTile s (tileOf (coreOfAddr p.place))).claims) (hb : s.bitErrs = []) :
    Performs s (.walk p) fun t =>
      p ∈ (getTile t (tileOf (coreOfAddr p.place))).walks ∧ t.mem = s.mem ∧ t.agenda = s.agenda := by
  refine ⟨_, exec_walk hd, ?_⟩
  have hheld : ∀ x, entryHeld s p x = true := fun x => by
    simp only [entryHeld, ha, List.contains_iff_mem.2 hc, Bool.true_or]
  simp only [walkAdmitted, touch_clean hb, hheld, if_true]
  refine ⟨?_, rfl, rfl⟩
  rw [getTile_modTile]
  simp

theorem exec_walkReply {x : WalkData} (hd : s.doing = some (.walkReply p x)) :
    exec (Event.walkReply p x).instr s = .next (walkReplied s p x) := by
  show execWalkReply s = _
  simp only [execWalkReply, hd]

/-- The record that a tile has just cached is the one that it finds. -/
theorem find?_cacheRecord (s : State) (tile h : Nat) (x : Rec) :
    (getTile (cacheRecord s tile h x) tile).recs.find? (fun q => q.1 = h) = some (h, x) := by
  rw [cacheRecord, getTile_modTile]
  dsimp only
  generalize (getTile s tile).recs = l
  have hsize : (l.filter (fun q => q.1 ≠ h) ++ [(h, x)]).length - Config.recordCacheSize ≤ (l.filter fun q => q.1 ≠ h).length := by
    rw [List.length_append, List.length_singleton]
    have : 0 < Config.recordCacheSize := by decide
    omega
  rw [List.drop_append_of_le_length hsize, List.find?_append, List.find?_eq_none.2, Option.none_or]
  · simp
  · intro q hq
    have hne := (List.mem_filter.1 (List.mem_of_mem_drop hq)).2
    simpa using hne

theorem walkReply_caches {y : WalkSt} {words : List Word} {tile id : Nat} (hd : s.doing = some (.walkReply p ⟨words, false⟩))
    (ha : p.addr = .record h) (ht : p.tile = tile) (hs : y.stale = false)
    (hy : (getTile s tile).walking.find? (fun x => x.no = p.no) = some y) (hw : y.waiters = [id]) :
    Performs s (.walkReply p ⟨words, false⟩) fun t =>
      ∃ u, (getTile u tile).recs.find? (fun x => x.1 = h) = some (h, words) ∧ u.mem = s.mem ∧ u.reqs = s.reqs ∧
        t = retranslate u id none := by
  subst ht
  have hend := TilesOnly.ofEndWalk s p.tile p.no
  refine ⟨_, exec_walkReply hd, cacheRecord (endWalk s p.tile p.no) p.tile h words, find?_cacheRecord .., hend.mem, hend.reqs, ?_⟩
  unfold walkReplied
  rw [hy]
  dsimp only
  rw [hs, ha, hw]
  rfl

end

/-! ### Withdrawal of a wait (R78, R87, R105) -/

section
variable {s : State} {id : Nat} {r : Req}

theorem exec_waitLimitExpiry (hd : s.doing = some (.waitLimitExpiry id)) :
    exec (Event.waitLimitExpiry id).instr s = .next (limitExpired s id) := by
  show execWaitLimitExpiry s = _
  simp only [execWaitLimitExpiry, hd]

theorem exec_cancelWait {core : Nat} (hd : s.doing = some (.cancelWait id core)) :
    exec (Event.cancelWait id core).instr s = .next (cancelWaitArrives s id core) := by
  show execCancelWait s = _
  simp only [execCancelWait, hd]

theorem exec_cancelWaitAnswer {served : Bool} (hd : s.doing = some (.cancelWaitAnswer id served)) :
    exec (Event.cancelWaitAnswer id served).instr s = .next (cancelWaitAnswered s id served) := by
  show execCancelWaitAnswer s = _
  simp only [execCancelWaitAnswer, hd]

/-- An answer that raises a trap, for a request that its thread awaits. -/
theorem replyArrives_traps {c : Cause} {sub : Nat} (h : Awaits s id r) (hrow : r.thr.row ≠ 84) (hr : Readable s [cAddr r.thr 12]) :
    let t := replyArrives s id (.trap c sub)
    Trapped s t r.thr c r.word ∧ findReq t id = none := by
  have hkept : ∀ n, n ≠ 0 → n ≠ 2 → getC (unpark (settled s id) r.thr) r.thr n = getC s r.thr n := fun _ => getC_settled s id r.thr
  obtain ⟨⟨hst, hpc, hcount, hpark, hfinfo⟩, hreqs, hcmds, -⟩ :=
    takeTrap_gives (s := unpark (settled s id) r.thr) c r.word (if Cause.writesC9 c then some (withSubtile r.handle sub) else none)
      h.alone hrow (readable_unpark (s := settled s id) hr r.thr)
  have hnone := hcmds.trans ((congrArg ThrCtl.cmds (getThr_settled s id r.thr)).trans h.cmds)
  rw [replyArrives_awaited h, complete_trap h, runCmds_none hnone]
  exact ⟨⟨hst, hpc.trans (hkept 1 (by decide) (by decide)), hcount.trans (hkept 14 (by decide) (by decide)), hpark, hfinfo⟩,
    findReq_settled s id fun q hq => ⟨q, hreqs ▸ hq, rfl⟩⟩

theorem waitCancelled_limit (hc : r.cw = .limit) : waitCancelled s r = replyArrives s r.id (.trap .waitLimit 0) := by
  rw [waitCancelled, hc]

/-- A wait limit of a request that its thread awaits and that no cancel-wait is out for. -/
theorem limitExpired_eq (h : Awaits s id r) (hc : r.cw = .none) :
    limitExpired s id = if r.phase = .sent then sendCancelWait (modReq s id fun q => { q with cw := .limit }) r
      else replyArrives s id (.trap .waitLimit 0) := by
  unfold limitExpired
  rw [h.found]
  dsimp only
  rw [if_neg (by simp [hc, h.parked, stParked]), waitCancelled_limit rfl, findReq_id h.found]

theorem waitLimit_traps (h : Awaits s id r) (hrow : r.thr.row ≠ 84) (hr : Readable s [cAddr r.thr 12])
    (hd : s.doing = some (.waitLimitExpiry id)) (hc : r.cw = .none) (hp : r.phase ≠ .sent) :
    Performs s (.waitLimitExpiry id) fun t => Trapped s t r.thr .waitLimit r.word ∧ findReq t id = none := by
  refine ⟨_, exec_waitLimitExpiry hd, ?_⟩
  rw [limitExpired_eq h hc, if_neg hp]
  exact replyArrives_traps h hrow hr

theorem sendCancelWait_home {u : State} (hdev : r.dev = u.io.devid.toNat) :
    sendCancelWait u r = send u .req (tileOf r.thr.core) (tileOf (r.frame / 128))
      (.arrive (r.frame / 128) (r.frame % 128) (.cancelWait r.id (r.frame / 128))) :=
  if_neg (not_not.2 hdev)

theorem waitLimit_cancels (h : Awaits s id r) (hd : s.doing = some (.waitLimitExpiry id)) (hc : r.cw = .none) (hp : r.phase = .sent)
    (hdev : r.dev = s.io.devid.toNat) :
    Performs s (.waitLimitExpiry id) fun t =>
      findReq t id = some { r with cw := .limit } ∧ t.mem = s.mem ∧
      Coming t (.arrive (r.frame / 128) (r.frame % 128) (.cancelWait id (r.frame / 128))) := by
  obtain rfl := findReq_id h.found
  refine ⟨_, exec_waitLimitExpiry hd, ?_⟩
  rw [limitExpired_eq h hc, if_pos hp, sendCancelWait_home (u := modReq s r.id _) hdev]
  exact ⟨findReq_modReq h.found fun _ => rfl, rfl, coming_send ..⟩

/-- The two words of an entry, as they are written. -/
theorem putWord_pair (s : State) (a : Nat) (x y : Word) :
    let t := putWord (putWord s a x) (a + 8) y
    getWord t a = x ∧ getWord t (a + 8) = y ∧ UnchangedBut s t (within a 16) := by
  have hlow := putWord_unchanged s a x
  have hhigh := putWord_unchanged (putWord s a x) (a + 8) y
  refine ⟨(hhigh.getWord fun i hi => by unfold within; omega).trans (getWord_putWord_self ..), getWord_putWord_self .., ?_⟩
  refine (hlow.mono fun b hb => ?_).trans (hhigh.mono fun b hb => ?_) <;> unfold within at * <;> omega

/-- What freeing an entry of a wait list leaves (R103). -/
theorem clearWait_gives (s : State) (core e : Nat) :
    let t := clearWait s core e
    waitOp t core e = 0 ∧ (∀ p ∈ (getCore t core).waits, p.1 ≠ e) ∧ UnchangedBut s t (within (waitAddr core e) 16) := by
  obtain ⟨hfirst, -, hframe⟩ := putWord_pair s (waitAddr core e) 0 0
  have hmem : (clearWait s core e).mem = (putWord (putWord s (waitAddr core e) 0) (waitAddr core e + 8) 0).mem := setCore_mem ..
  refine ⟨?_, fun p hp => ?_, fun b hb => (congrArg (Memory.get · b) hmem).trans (hframe b hb)⟩
  · have hword : getWord (clearWait s core e) (waitAddr core e) = 0 := (getWord_congr fun _ _ => by rw [hmem]).trans hfirst
    rw [waitOp, hword]
    decide
  · rw [clearWait, modCore, getCore_setCore] at hp
    simpa using (List.mem_filter.1 hp).2

theorem cancelWait_frees {core e : Nat} (hf : findReq s id = some r) (hd : s.doing = some (.cancelWait id core))
    (hw : (getCore s core).waits.find? (fun p => p.2 = id) = some (e, id)) :
    Performs s (.cancelWait id core) fun t =>
      waitOp t core e = 0 ∧ (∀ p ∈ (getCore t core).waits, p.1 ≠ e) ∧ Coming t (.run (.cancelWaitAnswer id false)) ∧
      UnchangedBut s t (within (waitAddr core e) 16) := by
  obtain ⟨hop, hwaits, hmem⟩ := clearWait_gives s core e
  refine ⟨_, exec_cancelWait hd, ?_⟩
  unfold cancelWaitArrives
  rw [hf]
  dsimp only
  rw [hw]
  exact ⟨hop, hwaits, coming_send .., hmem⟩

theorem cancelWait_served {core : Nat} (hf : findReq s id = some r) (hd : s.doing = some (.cancelWait id core))
    (hw : ∀ p ∈ (getCore s core).waits, p.2 ≠ id) :
    Performs s (.cancelWait id core) fun t => t.mem = s.mem ∧ Coming t (.run (.cancelWaitAnswer id true)) := by
  refine ⟨_, exec_cancelWait hd, ?_⟩
  unfold cancelWaitArrives
  rw [hf, List.find?_eq_none.2 fun p hp => by simpa using hw p hp]
  exact ⟨rfl, coming_send ..⟩

theorem cancelWaitAnswered_withdrawn (hf : findReq s id = some r) : cancelWaitAnswered s id false = waitCancelled s r := by
  unfold cancelWaitAnswered
  rw [hf]
  rfl

theorem cancelWaitAnswer_traps (h : Awaits s id r) (hrow : r.thr.row ≠ 84) (hr : Readable s [cAddr r.thr 12])
    (hd : s.doing = some (.cancelWaitAnswer id false)) (hc : r.cw = .limit) :
    Performs s (.cancelWaitAnswer id false) fun t => Trapped s t r.thr .waitLimit r.word ∧ findReq t id = none := by
  refine ⟨_, exec_cancelWaitAnswer hd, ?_⟩
  rw [cancelWaitAnswered_withdrawn h.found, waitCancelled_limit hc, findReq_id h.found]
  exact replyArrives_traps h hrow hr

theorem cancelWaitAnswer_stops (h : Awaits s id r) (hd : s.doing = some (.cancelWaitAnswer id false)) (hc : r.cw = .stop) :
    Performs s (.cancelWaitAnswer id false) fun t =>
      tstate t r.thr = 2 ∧ getC t r.thr 2 = 0 ∧ findReq t id = none ∧ UnchangedBut s t (parkBytes r.thr) := by
  refine ⟨_, exec_cancelWaitAnswer hd, ?_⟩
  have he : waitCancelled s r = unpark (dropReq s id) r.thr := by
    rw [waitCancelled, hc, findReq_id h.found]
    exact runCmds_none ((congrArg ThrCtl.cmds (getThr_congr rfl rfl r.thr)).trans h.cmds)
  rw [cancelWaitAnswered_withdrawn h.found, he]
  exact ⟨tstate_unpark .., getC_unpark_park .., findReq_settled s id fun q hq => ⟨q, hq, rfl⟩, unpark_unchanged (dropReq s id) r.thr⟩

end

end Sys2Proof.Machine

namespace Sys2Proof
open Machine

theorem retriesAndWalks : Claims.RetriesAndWalks := fun _ _ _ hf _ =>
  ⟨fun hd hc => retry_backs_off hd hf hc, fun hd hp hi => retryBackoff_resends hd hf hp hi, fun hd => redirect_translates hd hf,
    fun _ _ hd ha hr hb => walk_answers hd ha hr hb, fun _ _ _ hd ha hc hb => walk_waits hd ha hc hb,
    fun _ _ _ _ hd ha ht hs hy hw => walkReply_caches hd ha ht hs hy hw⟩

theorem waitsAreWithdrawn : Claims.WaitsAreWithdrawn := fun _ _ _ h hrow _ hr =>
  ⟨fun hd hc hp => waitLimit_traps h hrow hr hd hc hp, fun hd hc hp hdev => waitLimit_cancels h hd hc hp hdev,
    fun _ hd hw => cancelWait_frees h.found hd hw, fun hd hw => cancelWait_served h.found hd hw,
    fun hd hc => cancelWaitAnswer_traps h hrow hr hd hc, fun hd hc => cancelWaitAnswer_stops h hd hc⟩

/-- Settles O29: one lemma for each answer and each end of a wait. -/
theorem retriesAndWaits : Obligations.RetriesAndWaits := ⟨retriesAndWalks, waitsAreWithdrawn⟩

end Sys2Proof
end

section
/-! PROOFS. Object accesses at their owner: arrival and admission (O30). -/
namespace Sys2Proof.Machine
open Claims

/-! ### What answers and echoes leave -/

/-- The echoes of one tile. -/
def echoTile (l : List ObjPkt) (m : List MajPkt) (u : State) (t : Nat × TileSt) : State :=
  let due := t.2.probes.filter (probeDue u l t.1)
  let drops := t.2.drops.filter (dropDue u l m t.1)
  if due.isEmpty && drops.isEmpty then u
  else
    let u := modTile u t.1 fun x => { x with probes := x.probes.filter fun p => !due.contains p
                                             drops := x.drops.filter fun p => !drops.contains p }
    drops.foldl (fun u p => send u .rsp t.1 t.1 (.run (.fenceEcho p.1 t.1))) (due.foldl (fun u p => post u 0 (.probeEcho p.1 t.1)) u)

/-- An echo of the I/O die. -/
def echoIo (u : State) (p : Nat × Nat × Nat) : State :=
  post { u with io := { u.io with probes := u.io.probes.filter (· ≠ p) } } 0 (.probeEcho p.1 ioDie)

theorem echoes_eq (s : State) :
    echoes s =
      if s.io.probes.isEmpty && s.tiles.all (fun t => t.2.probes.isEmpty && t.2.drops.isEmpty) then s
      else
        let u := s.tiles.foldl (echoTile (unadmitted s) (unadmittedMaj s)) s
        (u.io.probes.filter (probeDue u (unadmitted s) ioDie)).foldl echoIo u := rfl

namespace TilesOnly
variable {s t : State}

theorem ofIo (s : State) (x : IoSt) : TilesOnly s { s with io := x } := ⟨rfl, rfl, rfl, rfl, rfl, rfl, rfl, rfl, fun _ h => h⟩

theorem ofEchoTile (l : List ObjPkt) (m : List MajPkt) (u : State) (t : Nat × TileSt) : TilesOnly u (echoTile l m u t) := by
  unfold echoTile
  dsimp only
  split
  · exact refl u
  · exact (ofModTile ..).trans ((ofFoldl (fun _ _ => ofPost ..) ..).trans (ofFoldl (fun _ _ => ofSend ..) ..))

theorem ofEchoIo (u : State) (p : Nat × Nat × Nat) : TilesOnly u (echoIo u p) := (ofIo u _).trans (ofPost ..)

theorem ofEchoes (s : State) : TilesOnly s (echoes s) := by
  rw [echoes_eq]
  split
  · exact refl s
  · exact (ofFoldl (ofEchoTile _ _) ..).trans (ofFoldl ofEchoIo ..)

theorem ofUseCache (s : State) (p : ObjPkt) : TilesOnly s (useCache s p) := by
  unfold useCache
  dsimp only
  split
  · exact ofModTile ..
  · exact refl s

theorem ofAnswerObj (s : State) (p : ObjPkt) (a : Ans) : TilesOnly s (answerObj s p a) := by
  unfold answerObj
  split
  · exact refl s
  · exact ofSend ..

theorem getCore (h : TilesOnly s t) (c : Nat) : getCore t c = getCore s c := getCore_congr h.cores h.now c
theorem getNat (h : TilesOnly s t) (a n : Nat) : getNat t a n = getNat s a n := getNat_congr fun _ _ => by rw [h.mem]
theorem getWord (h : TilesOnly s t) (a : Nat) : getWord t a = getWord s a := getWord_congr fun _ _ => by rw [h.mem]
theorem isFull (h : TilesOnly s t) (a : Nat) : isFull t a = isFull s a := by rw [Machine.isFull, Machine.isFull, h.empty]
theorem isPoisoned (h : TilesOnly s t) (a : Nat) : isPoisoned t a = isPoisoned s a := by
  rw [Machine.isPoisoned, Machine.isPoisoned, h.poison]
theorem runPoisoned (h : TilesOnly s t) (a n : Nat) : runPoisoned t a n = runPoisoned s a n := by
  rw [Machine.runPoisoned, Machine.runPoisoned, funext h.isPoisoned]

/-- What stands in memory, and in its words' full bits, is as before. -/
theorem wrote {u : State} {w : Nat → Prop} (h : TilesOnly s t) (hu : Wrote u s w) : Wrote u t w :=
  ⟨fun b hb => by rw [h.mem]; exact hu.1 b hb, h.empty.trans hu.2⟩

end TilesOnly

theorem coming_answerObj (s : State) {p : ObjPkt} (a : Ans) (h : p.req ≠ 0) : Coming (answerObj s p a) (.run (.reply p.req a)) := by
  rw [answerObj, if_neg h]
  exact coming_send ..

/-! ### Arrival (R92, R104, R110, R190) -/

section
variable {s : State} {p : ObjPkt}

theorem exec_objectAccessArrival (hd : s.doing = some (.objectAccessArrival p)) :
    exec (Event.objectAccessArrival p).instr s = .next (echoes (accessArrives s p)) := by
  show execObjectAccessArrival s = _
  simp only [execObjectAccessArrival, hd]

theorem arrival_down (hd : s.doing = some (.objectAccessArrival p)) (hm : p.handle ≠ Config.moduleObj) (hb : s.bitErrs = [])
    (hdown : stackDown s (stackOf p.frame.core) = true) (hop : p.op ≠ .retire) (hreq : p.req ≠ 0) :
    Performs s (.objectAccessArrival p) fun t => t.mem = s.mem ∧ Coming t (.run (.reply p.req (.trap .stackDown p.sub))) := by
  have he : accessArrives s p = answerObj s p (.trap .stackDown p.sub) := by
    rw [accessArrives, touchFrame_clean hb, if_neg hm, if_pos hdown, downAnswer, if_neg hop]
  refine ⟨_, exec_objectAccessArrival hd, ?_⟩
  rw [he]
  have hecho := TilesOnly.ofEchoes (answerObj s p (.trap .stackDown p.sub))
  exact ⟨hecho.mem.trans (TilesOnly.ofAnswerObj ..).mem, hecho.coming (coming_answerObj s _ hreq)⟩

theorem arrival_elsewhere (hd : s.doing = some (.objectAccessArrival p)) (hm : p.handle ≠ Config.moduleObj) (hb : s.bitErrs = [])
    (hup : stackDown s (stackOf p.frame.core) = false) (hfits : frameFits s p = false) :
    Performs s (.objectAccessArrival p) fun t => t.mem = s.mem ∧ Coming t (.run (.redirectAnswer p.req)) := by
  have he : accessArrives s p = redirect s p := by
    rw [accessArrives, touchFrame_clean hb, if_neg hm, if_neg (by simp [hup]), if_pos (by simp [hfits])]
  refine ⟨_, exec_objectAccessArrival hd, ?_⟩
  rw [he]
  have hecho := TilesOnly.ofEchoes (redirect s p)
  exact ⟨hecho.mem, hecho.coming (coming_send ..)⟩

/-- The access is posted: its issuer's request is that of a store that waits for nothing. -/
def Posts (s : State) (p : ObjPkt) : Prop := ∃ r, findReq s p.req = some r ∧ posted r.insn = true

theorem accept_posts (h : Posts s p) : accept s p = (answerObj s p (ansWord 0), { p with req := 0 }) := by
  obtain ⟨r, hf, hp⟩ := h
  rw [accept, hf]
  exact if_pos hp

theorem accept_waits (h : ¬ Posts s p) : accept s p = (s, p) := by
  rw [accept]
  split
  next => rfl
  next r hf => exact if_neg fun hp => h ⟨r, hf, hp⟩

/-- Seeing to a subarray leaves memory, the queues and what is on its way. -/
theorem kick_gives (s : State) (core k : Nat) :
    let t := kick s core k
    t.mem = s.mem ∧ (getCore t core).oq = (getCore s core).oq ∧ ∀ x ∈ s.agenda, x ∈ t.agenda := by
  unfold kick
  split
  · split
    · exact ⟨rfl, rfl, fun _ h => mem_insertSched.2 (.inr h)⟩
    · exact ⟨rfl, rfl, fun _ h => h⟩
  · split
    · exact ⟨rfl, rfl, fun _ h => mem_insertSched.2 (.inr h)⟩
    · exact ⟨rfl, rfl, fun _ h => h⟩
  · split
    · exact ⟨rfl, by rw [getCore_post, getCore_modSub], fun _ h => mem_insertSched.2 (.inr h)⟩
    · exact ⟨rfl, rfl, fun _ h => h⟩
  · exact ⟨rfl, rfl, fun _ h => h⟩

/-- A closed subarray with an access in its queue opens a row for it. -/
theorem kick_opens {core k : Nat} (hm : mode s core k = .closed) (ho : (oldest s core k).isSome) :
    Coming (kick s core k) (.run (.outsideActivation core k)) := by
  have hk : kick s core k = post s 0 (.outsideActivation core k) := by
    unfold kick
    rw [show (getSub s core k).mode = .closed from hm]
    exact if_pos ho
  rw [hk]
  exact ⟨_, mem_insertSched.2 (.inl rfl), rfl⟩

/-- An access joins its core's queue, and a closed subarray opens its row. -/
theorem joinQueue_gives (s : State) {core row : Nat} (a : QDo) (hrow : row < 84) :
    let t := joinQueue s core row a
    let k := subOf (getCore s core) row
    t.mem = s.mem ∧ (getCore t core).oq = (getCore s core).oq ++ [⟨s.now, row, a⟩] ∧ (∀ x ∈ s.agenda, x ∈ t.agenda) ∧
      (mode s core k = .closed → Coming t (.run (.outsideActivation core k))) := by
  obtain ⟨hmem, hoq, hagenda⟩ :=
    kick_gives (setCore s core { getCore s core with oq := (getCore s core).oq ++ [⟨s.now, row, a⟩] }) core (subOf (getCore s core) row)
  refine ⟨hmem, hoq.trans (by rw [getCore_setCore]), hagenda, fun hm => kick_opens ?_ ?_⟩
  · rw [mode, getSub, getCore_setCore]
    exact hm
  · rw [oldest, getCore_setCore]
    exact List.find?_isSome.2 ⟨⟨s.now, row, a⟩, by simp, by simpa using ⟨rfl, hrow⟩⟩

/-- An access that is not admitted on its arrival joins its core's queue, where that has room. -/
theorem enqueue_eq {u : State} {q : ObjPkt} (hr : opReads q.op = true → frameCache u q.frame.core q.frame.row = false)
    (hg : (getCore u q.frame.core).gated = false) (hh : (getCore u q.frame.core).held = [])
    (hfull : queueFull (getCore u q.frame.core) = false) :
    enqueue u q = joinQueue u q.frame.core q.frame.row (.step (.admission q)) := by
  have hlate : (opReads q.op && onArrival u q.frame.core q.frame.row) = false := by
    cases ho : opReads q.op
    · rfl
    · simp [onArrival, hr ho]
  have hin : arrive u q.frame.core q.frame.row (.admission q) = ingress u q.frame.core q.frame.row (.step (.admission q)) :=
    if_neg (by simp [isReplicaPkt])
  unfold enqueue
  dsimp only
  rw [if_neg (by simp [hlate]), hin]
  unfold ingress
  dsimp only
  rw [if_neg (by simp [hg]), if_neg (by simp [hh, hfull])]

theorem accessArrives_eq (hb : s.bitErrs = []) (h : AtOwner s p) (hr : retirementQueued s p.frame = false) :
    accessArrives s p = enqueue (accept s p).1 (accept s p).2 := by
  unfold accessArrives
  dsimp only
  rw [touchFrame_clean hb, if_neg h.object, if_neg (by simp [h.up]), if_neg (by simp [h.fits]), if_neg (by simp [h.here]),
    if_neg (by simp [hr])]

/-- What an access that has been accepted leaves when it joins its core's queue and the tiles echo. -/
theorem accepted_joins {u : State} {q : ObjPkt} (hu : TilesOnly s u) (hrow : q.frame.row < 84)
    (hc : opReads q.op = true → frameCache s q.frame.core q.frame.row = false) (hg : (getCore s q.frame.core).gated = false)
    (hh : (getCore s q.frame.core).held = []) (hfull : queueFull (getCore s q.frame.core) = false) :
    let core := q.frame.core
    let k := subOf (getCore s core) q.frame.row
    let t := echoes (enqueue u q)
    t.mem = s.mem ∧ (∀ a, Coming u a → Coming t a) ∧
      (getCore t core).oq = (getCore s core).oq ++ [⟨s.now, q.frame.row, .step (.admission q)⟩] ∧
      (mode s core k = .closed → Coming t (.run (.outsideActivation core k))) := by
  have hcore := hu.getCore q.frame.core
  have hsub : ∀ k, mode u q.frame.core k = mode s q.frame.core k := fun k => by rw [mode, mode, getSub, getSub, hcore]
  have hcache : frameCache u q.frame.core q.frame.row = frameCache s q.frame.core q.frame.row := by
    rw [frameCache, frameCache, hu.getWord]
  have hecho := TilesOnly.ofEchoes (enqueue u q)
  rw [enqueue_eq (by rwa [hcache]) (by rwa [hcore]) (by rwa [hcore]) (by rwa [hcore])] at *
  obtain ⟨hmem, hoq, hagenda, hopens⟩ := joinQueue_gives u (core := q.frame.core) (.step (.admission q)) hrow
  rw [hcore] at hoq hopens
  rw [hsub] at hopens
  refine ⟨hecho.mem.trans (hmem.trans hu.mem), fun a hx => hecho.coming ?_, ?_, fun hm => hecho.coming (hopens hm)⟩
  · obtain ⟨x, hx, e⟩ := hx
    exact ⟨x, hagenda x hx, e⟩
  · rw [hecho.getCore, hoq, hu.now]

theorem arrival_queues (hd : s.doing = some (.objectAccessArrival p)) (hrow : p.frame.row < 84) (hb : s.bitErrs = []) (h : AtOwner s p)
    (hr : retirementQueued s p.frame = false) (hc : opReads p.op = true → frameCache s p.frame.core p.frame.row = false)
    (hg : (getCore s p.frame.core).gated = false) (hh : (getCore s p.frame.core).held = [])
    (hfull : queueFull (getCore s p.frame.core) = false) :
    Performs s (.objectAccessArrival p) fun t =>
      t.mem = s.mem ∧ (Posts s p → p.req ≠ 0 → Replied t p 0 false) ∧
      ∃ q, (q = p ∧ ¬ Posts s p ∨ q = { p with req := 0 } ∧ Posts s p) ∧
        (getCore t p.frame.core).oq = (getCore s p.frame.core).oq ++ [⟨s.now, p.frame.row, .step (.admission q)⟩] ∧
        (mode s p.frame.core (subOf (getCore s p.frame.core) p.frame.row) = .closed →
          Coming t (.run (.outsideActivation p.frame.core (subOf (getCore s p.frame.core) p.frame.row)))) := by
  refine ⟨_, exec_objectAccessArrival hd, ?_⟩
  rw [accessArrives_eq hb h hr]
  by_cases hp : Posts s p
  · rw [accept_posts hp]
    obtain ⟨hmem, hcoming, hoq, hopens⟩ :=
      accepted_joins (q := { p with req := 0 }) (TilesOnly.ofAnswerObj s p (ansWord 0)) hrow hc hg hh hfull
    exact ⟨hmem, fun _ h0 _ => hcoming _ (coming_answerObj s _ h0), _, .inr ⟨rfl, hp⟩, hoq, hopens⟩
  · rw [accept_waits hp]
    obtain ⟨hmem, -, hoq, hopens⟩ := accepted_joins (TilesOnly.refl s) hrow hc hg hh hfull
    exact ⟨hmem, fun hq => absurd hq hp, p, .inl ⟨rfl, hp⟩, hoq, hopens⟩

end

/-! ### The byte lanes of a vector access (R329) -/

/-- A mask that is full over a word holds each of the word's bytes. -/
theorem getLsbD_of_full {m : Pred} {w i : Nat} (h : m.extractLsb' (8 * w) 8 = 0xFF#8) (hi : i < 8) : m.getLsbD (8 * w + i) = true := by
  have hones : ∀ k, k < 8 → (0xFF#8).getLsbD k = true := by decide
  have hbit := congrArg (·.getLsbD i) h
  rw [hones _ hi] at hbit
  simpa [BitVec.getLsbD_extractLsb', hi] using hbit

/-- One word of a vector store: whole, or by its bytes. -/
def storeLaneWord (a : Nat) (m : Pred) (x : Vec) (s : State) (w : Nat) : State :=
  if m.extractLsb' (8 * w) 8 = 0xFF#8 then putBytes s (a + 8 * w) ((List.range 8).map fun i => x.extractLsb' (64 * w + 8 * i) 8)
  else (List.range 8).foldl (fun s i =>
    if m.getLsbD (8 * w + i) then putBytes s (a + 8 * w + i) [x.extractLsb' (64 * w + 8 * i) 8] else s) s

theorem storeLanes_eq (s : State) (a : Nat) (m : Pred) (x : Vec) :
    storeLanes s a m x = (List.range 4).foldl (storeLaneWord a m x) s := rfl

theorem get_storeLaneWord (s : State) (a : Nat) (m : Pred) (x : Vec) (w b : Nat) :
    Memory.get (storeLaneWord a m x s w).mem b =
      if (a + 8 * w ≤ b ∧ b < a + 8 * w + 8) ∧ m.getLsbD (b - a) = true then x.extractLsb' (8 * (b - a)) 8 else Memory.get s.mem b := by
  unfold storeLaneWord
  split
  next hfull =>
    rw [putBytes_mem, Memory.get_put, List.length_map, List.length_range]
    by_cases hb : a + 8 * w ≤ b ∧ b < a + 8 * w + 8
    · have hlane := getLsbD_of_full hfull (i := b - (a + 8 * w)) (by omega)
      rw [show 8 * w + (b - (a + 8 * w)) = b - a by omega] at hlane
      rw [if_pos hb, if_pos ⟨hb, hlane⟩, List.getD_eq_getElem _ _ (by simp; omega)]
      simp only [List.getElem_map, List.getElem_range]
      congr 1
      omega
    · rw [if_neg hb, if_neg fun h => hb h.1]
  next =>
    rw [get_foldl_writes b (x.extractLsb' (8 * (b - a)) 8) (fun i => a + 8 * w + i = b ∧ m.getLsbD (b - a) = true)]
    · refine if_congr ⟨?_, fun ⟨hb, hm⟩ => ?_⟩ rfl rfl
      · rintro ⟨i, hi, rfl, hm⟩
        exact ⟨by have := List.mem_range.1 hi; omega, hm⟩
      · exact ⟨b - (a + 8 * w), List.mem_range.2 (by omega), by omega, hm⟩
    · intro u i _
      by_cases hb : a + 8 * w + i = b
      · subst hb
        rw [show a + 8 * w + i - a = 8 * w + i by omega]
        cases m.getLsbD (8 * w + i)
        · simp
        · simp [Memory.get_put, show 8 * (8 * w + i) = 64 * w + 8 * i by omega]
      · have hno : ¬ (a + 8 * w + i = b ∧ m.getLsbD (b - a) = true) := fun h => hb h.1
        rw [if_neg hno]
        split
        · rw [putBytes_mem, Memory.get_put_other]
          simp only [List.length_singleton]
          omega
        · rfl

/-- A vector store writes the bytes of its mask, and no others. -/
theorem get_storeLanes (s : State) (a : Nat) (m : Pred) (x : Vec) (b : Nat) :
    Memory.get (storeLanes s a m x).mem b =
      if (a ≤ b ∧ b < a + 32) ∧ m.getLsbD (b - a) = true then x.extractLsb' (8 * (b - a)) 8 else Memory.get s.mem b := by
  rw [storeLanes_eq, get_foldl_writes b _ _ _ _ fun u w _ => get_storeLaneWord u a m x w b]
  refine if_congr ⟨?_, fun ⟨hb, hm⟩ => ⟨(b - a) / 8, List.mem_range.2 (by omega), by omega, hm⟩⟩ rfl rfl
  rintro ⟨w, hw, hb, hm⟩
  exact ⟨by have := List.mem_range.1 hw; omega, hm⟩

theorem storeLanes_empty (s : State) (a : Nat) (m : Pred) (x : Vec) : (storeLanes s a m x).empty = s.empty := by
  have hword : ∀ u w, (storeLaneWord a m x u w).empty = u.empty := fun u w => by
    unfold storeLaneWord
    split
    · rfl
    · refine (List.range 8).foldlRecOn (motive := fun v : State => v.empty = u.empty) _ rfl fun v hv i _ => ?_
      split
      · exact hv
      · exact hv
  exact (List.range 4).foldlRecOn (motive := fun v : State => v.empty = s.empty) _ rfl fun v hv w _ => (hword v w).trans hv

/-- The number that a vector load answers, byte by byte. -/
theorem ofBytes_masked (s : State) (a : Nat) (m : Pred) {i : Nat} (hi : i < 32) :
    ofBytes ((getBytes s a 32).mapIdx fun i b => if m.getLsbD i then b else 0) / 256 ^ i % 256 =
      if m.getLsbD i then (Memory.get s.mem (a + i)).toNat else 0 := by
  rw [ofBytes_byte (by simpa [getBytes_length] using hi), List.getElem_mapIdx]
  have hbyte : (getBytes s a 32)[i]'(by simpa [getBytes_length] using hi) = Memory.get s.mem (a + i) := by
    rw [← getD_getBytes s hi, List.getD_eq_getElem]
  rw [hbyte]
  split <;> rfl

/-! ### Atomics (R328) -/

theorem sval_eq_toInt {w x : Nat} (h : w = 64 ∨ w = 32) : sval w x = (BitVec.ofNat w x).toInt := by
  rw [sval, BitVec.toInt_eq_toNat_cond, BitVec.toNat_ofNat]
  obtain rfl | rfl := h <;> split <;> split <;> omega

/-- An atomic that writes nothing leaves the old value. -/
theorem amoNew_eq (o : AmoOp) (w : AmoW) (old x cmp : Nat) :
    (amoNew o (8 * amoBytes w) old x cmp).getD old = amoValue (8 * amoBytes w) o old x cmp := by
  have hw : 8 * amoBytes w = 64 ∨ 8 * amoBytes w = 32 := by cases w <;> decide
  have hs := fun y => sval_eq_toInt (x := y) hw
  cases o
  case smin | smax => simp only [amoNew, amoValue, hs, Option.getD_some]
  case umin => simp only [amoNew, amoValue, Option.getD_some]; split <;> omega
  case umax => simp only [amoNew, amoValue, Option.getD_some]; split <;> omega
  case cas => simp only [amoNew, amoValue]; split <;> rfl
  all_goals rfl

/-! ### Admission (R93, R326 to R329) -/

section
variable {s : State} {p : ObjPkt}

theorem exec_admission (hd : s.doing = some (.admission p)) : exec (Event.admission p).instr s = .next (echoes (admitAccess s p)) := by
  show execAdmission s = _
  simp only [execAdmission, hd]

/-- At its owner an access acts; what it has written of the handler table's reserved bits is discarded. -/
theorem admitAccess_atOwner (h : AtOwner s p) (hb : s.bitErrs = []) :
    admitAccess s p =
      if p.handle = 3 && !opReads p.op then clearReserved (applyOp s p) (pktAddr p) (opWidth p.op) else applyOp s p := by
  unfold admitAccess
  dsimp only
  rw [touchFrame_clean hb, if_neg h.object, if_neg (by simp [h.up]), if_neg (by simp [h.fits]), if_neg (by simp [h.here])]

/-- The access acts and answers; the tiles' echoes follow. -/
theorem admission_acts (hd : s.doing = some (.admission p)) (h : AtOwner s p) (hb : s.bitErrs = [])
    (hk : p.handle ≠ 3 ∨ opReads p.op = true) : exec (Event.admission p).instr s = .next (echoes (applyOp s p)) := by
  rw [exec_admission hd, admitAccess_atOwner h hb, if_neg]
  obtain hk | hk := hk <;> simp [hk]

theorem admission_answers (hd : s.doing = some (.admission p)) (h : AtOwner s p) (hb : s.bitErrs = [])
    (hk : p.handle ≠ 3 ∨ opReads p.op = true) {v : State} {x : Nat} {bad : Bool}
    (he : applyOp s p = answerObj v p (.value (BitVec.ofNat 256 x) bad)) :
    Performs s (.admission p) fun t => TilesOnly v t ∧ Replied t p x bad := by
  refine ⟨_, admission_acts hd h hb hk, ?_⟩
  have hecho := TilesOnly.ofEchoes (applyOp s p)
  rw [he] at *
  exact ⟨(TilesOnly.ofAnswerObj ..).trans hecho, fun h0 => hecho.coming (coming_answerObj v _ h0)⟩

theorem performs_mono {e : Event} {R Q : State → Prop} (h : Performs s e R) (hRQ : ∀ t, R t → Q t) : Performs s e Q := by
  obtain ⟨t, he, ht⟩ := h
  exact ⟨t, he, hRQ t ht⟩

/-- An access that only reads, with its answer. -/
theorem admission_reads (hd : s.doing = some (.admission p)) (h : AtOwner s p) (hb : s.bitErrs = [])
    (hk : p.handle ≠ 3 ∨ opReads p.op = true) {x : Nat} {bad : Bool}
    (he : applyOp s p = answerObj (useCache s p) p (.value (BitVec.ofNat 256 x) bad)) :
    Performs s (.admission p) fun t => Wrote s t (fun _ => False) ∧ Replied t p x bad :=
  performs_mono (admission_answers hd h hb hk he) fun _ ⟨ht, hr⟩ =>
    ⟨((TilesOnly.ofUseCache s p).trans ht).wrote ⟨.refl s _, rfl⟩, hr⟩

/-- An access that writes, with its answer. -/
theorem admission_writes (hd : s.doing = some (.admission p)) (h : AtOwner s p) (hb : s.bitErrs = [])
    (hk : p.handle ≠ 3 ∨ opReads p.op = true) {v : State} {x : Nat} {bad : Bool} {w : Nat → Prop}
    (he : applyOp s p = answerObj v p (.value (BitVec.ofNat 256 x) bad)) (hv : Wrote (useCache s p) v w) :
    Performs s (.admission p) fun t => Wrote s t w ∧ TilesOnly v t ∧ Replied t p x bad :=
  have hu := TilesOnly.ofUseCache s p
  performs_mono (admission_answers hd h hb hk he) fun _ ⟨ht, hr⟩ =>
    ⟨ht.wrote ⟨fun b hb => (hv.1 b hb).trans (by rw [hu.mem]), hv.2.trans hu.empty⟩, ht, hr⟩

theorem clean_useCache (hb : s.bitErrs = []) (p : ObjPkt) : (useCache s p).bitErrs = [] := (TilesOnly.ofUseCache s p).errs.trans hb

theorem applyOp_load (hb : s.bitErrs = []) {n : Nat} (hop : p.op = .load n) :
    applyOp s p = answerObj (useCache s p) p (.value (BitVec.ofNat 256 (getNat s (pktAddr p) n)) (runPoisoned s (pktAddr p) n)) := by
  have hu := TilesOnly.ofUseCache s p
  unfold applyOp
  simp only [hop, touch_clean (clean_useCache hb p), hu.getNat, hu.runPoisoned]

theorem applyOp_vbcast (hb : s.bitErrs = []) {n : Nat} (hop : p.op = .vbcast n true) :
    applyOp s p = answerObj (useCache s p) p (.value (BitVec.ofNat 256 (getNat s (pktAddr p) n)) (runPoisoned s (pktAddr p) n)) := by
  have hu := TilesOnly.ofUseCache s p
  unfold applyOp
  simp only [hop, touch_clean (clean_useCache hb p), hu.getNat, hu.runPoisoned, Bool.true_and]

theorem applyOp_vload (hb : s.bitErrs = []) {m : Pred} (hop : p.op = .vload m) :
    applyOp s p = answerObj (useCache s p) p
      (.value (BitVec.ofNat 256 (ofBytes ((getBytes s (pktAddr p) 32).mapIdx fun i b => if m.getLsbD i then b else 0)))
        ((List.range 4).any fun w => m.extractLsb' (8 * w) 8 ≠ 0 && isPoisoned s (pktAddr p + 8 * w))) := by
  have hu := TilesOnly.ofUseCache s p
  unfold applyOp
  simp only [hop, touch_clean (clean_useCache hb p), hu.isPoisoned, getBytes, hu.mem]

theorem applyOp_store {n : Nat} {x : Word} (hop : p.op = .store n x) :
    applyOp s p = answerObj (putBytes (useCache s p) (pktAddr p) (toBytes n x.toNat)) p (.value (BitVec.ofNat 256 0) false) := by
  unfold applyOp
  rw [hop]
  rfl

theorem applyOp_vstore {m : Pred} {x : Vec} (hop : p.op = .vstore m x) :
    applyOp s p = answerObj (storeLanes (useCache s p) (pktAddr p) m x) p (.value (BitVec.ofNat 256 0) false) := by
  unfold applyOp
  rw [hop]
  rfl

/-- The state after an atomic has written its new value. -/
def amoWritten (s : State) (a : Nat) (w : AmoW) (v : Option Nat) : State :=
  match v with
  | some v => putBytes s a (toBytes (amoBytes w) v)
  | none => s

theorem applyOp_amo (hb : s.bitErrs = []) {o : AmoOp} {w : AmoW} {x cmp : Word} (hop : p.op = .amo o w x cmp) :
    let n := amoBytes w
    let a := pktAddr p
    applyOp s p =
      if runPoisoned s a n then answerObj (useCache s p) p (.value (BitVec.ofNat 256 (getNat s a n)) true)
      else answerObj (amoWritten (useCache s p) a w
        (amoNew o (8 * n) (getNat s a n) (x.toNat % 2 ^ (8 * n)) (cmp.toNat % 2 ^ (8 * n)))) p
        (.value (BitVec.ofNat 256 (getNat s a n)) false) := by
  have hu := TilesOnly.ofUseCache s p
  intro n a
  rw [← hu.getNat, ← hu.runPoisoned, ← touch_clean (clean_useCache hb p) a n]
  unfold applyOp
  rw [hop]
  cases w <;> rfl

/-- Writing n bytes of a number. -/
theorem wrote_putBytes (s : State) (a n x : Nat) : Wrote s (putBytes s a (toBytes n x)) (within a n) := by
  have h := putBytes_unchanged s a (toBytes n x)
  rw [length_toBytes] at h
  exact ⟨h, rfl⟩

theorem getNat_putBytes_toBytes (s : State) (a n x : Nat) : getNat (putBytes s a (toBytes n x)) a n = x % 2 ^ (8 * n) := by
  have h := getNat_putBytes_self s a (toBytes n x)
  rw [length_toBytes, ofBytes_toBytes] at h
  rw [h, Nat.pow_mul]

theorem wrote_amoWritten (s : State) (a : Nat) (w : AmoW) (v : Option Nat) : Wrote s (amoWritten s a w v) (within a (amoBytes w)) := by
  cases v with
  | none => exact ⟨.refl s _, rfl⟩
  | some v => exact wrote_putBytes ..

theorem getNat_amoWritten (s : State) (a : Nat) (w : AmoW) (v : Option Nat) :
    getNat (amoWritten s a w v) a (amoBytes w) = v.getD (getNat s a (amoBytes w)) % 2 ^ (8 * amoBytes w) := by
  cases v with
  | none =>
    have h := getNat_lt s a (amoBytes w)
    rw [show 256 = 2 ^ 8 from rfl, ← Nat.pow_mul] at h
    exact (Nat.mod_eq_of_lt h).symm
  | some v => exact getNat_putBytes_toBytes ..

theorem wrote_storeLanes (s : State) (a : Nat) (m : Pred) (x : Vec) :
    Wrote s (storeLanes s a m x) fun b => within a 32 b ∧ m.getLsbD (b - a) :=
  ⟨fun b hb => by rw [get_storeLanes]; exact if_neg hb, storeLanes_empty ..⟩

theorem wordsOf_word {a : Nat} (h : a % 8 = 0) : wordsOf a 8 = [a] := by
  have h1 : (a + 8 + 7) / 8 - a / 8 = 1 := by omega
  rw [wordsOf, h1]
  simp
  omega

theorem wrote_trans {s t u : State} {w : Nat → Prop} (h : Wrote s t w) (k : Wrote t u w) : Wrote s u w :=
  ⟨h.1.trans k.1, k.2.trans h.2⟩

/-- A word of the handler table keeps, of an entry's second word, the two low bits (R5, R107). -/
theorem clearReserved_word (s : State) {a : Nat} (h : a % 8 = 0) :
    let t := clearReserved s a 8
    Wrote s t (within a 8) ∧ getWord t a = if a / 8 % 2 = 1 then BitVec.ofNat 64 ((getWord s a).toNat % 4) else getWord s a := by
  have hlow : bits (getWord s a) 0 2 = (BitVec.ofNat 64 ((getWord s a).toNat % 4)).toNat := by
    rw [bits, BitVec.extractLsb'_toNat, Nat.shiftRight_zero, BitVec.toNat_ofNat]
    omega
  generalize BitVec.ofNat 64 ((getWord s a).toNat % 4) = y at *
  rw [clearReserved, wordsOf_word h, List.foldl_cons, List.foldl_nil, hlow]
  dsimp only
  split
  next => exact ⟨⟨fun b hb => putWord_unchanged s a y b hb, rfl⟩,
      (getWord_congr (s := putWord s a y) fun _ _ => by rw [putWord_mem]).trans (getWord_putWord_self s a y)⟩
  next => exact ⟨⟨.refl s _, rfl⟩, rfl⟩

theorem admission_amo (hd : s.doing = some (.admission p)) (h : AtOwner s p) (hb : s.bitErrs = []) {o : AmoOp} {w : AmoW} {x cmp : Word}
    (hop : p.op = .amo o w x cmp) (hp : runPoisoned s (pktAddr p) (amoBytes w) = false) (hk : p.handle ≠ 3) :
    Performs s (.admission p) fun t =>
      let a := pktAddr p
      let n := amoBytes w
      Wrote s t (within a n) ∧ Replied t p (getNat s a n) false ∧
      getNat t a n = amoValue (8 * n) o (getNat s a n) (x.toNat % 2 ^ (8 * n)) (cmp.toNat % 2 ^ (8 * n)) % 2 ^ (8 * n) := by
  have he := (applyOp_amo hb hop).trans (if_neg (by simp [hp]))
  refine performs_mono (admission_writes hd h hb (.inl hk) he (wrote_amoWritten ..)) fun t ⟨hw, ht, hr⟩ => ⟨hw, hr, ?_⟩
  rw [ht.getNat, getNat_amoWritten, (TilesOnly.ofUseCache s p).getNat, amoNew_eq]

theorem admission_handler_entry (hd : s.doing = some (.admission p)) (h : AtOwner s p) (hb : s.bitErrs = []) {x : Word}
    (hop : p.op = .store 8 x) (hk : p.handle = 3) (ha : pktAddr p % 8 = 0) :
    Performs s (.admission p) fun t =>
      Wrote s t (within (pktAddr p) 8) ∧ getWord t (pktAddr p) = if pktAddr p / 8 % 2 = 1 then BitVec.ofNat 64 (x.toNat % 4) else x := by
  have hu := TilesOnly.ofUseCache s p
  have hanswer := TilesOnly.ofAnswerObj (putBytes (useCache s p) (pktAddr p) (toBytes 8 x.toNat)) p (.value (BitVec.ofNat 256 0) false)
  have hstore := wrote_putBytes (useCache s p) (pktAddr p) 8 x.toNat
  have hword : getWord (applyOp s p) (pktAddr p) = x := by
    rw [applyOp_store hop, hanswer.getWord]
    exact getWord_putWord_self ..
  have hbefore : Wrote s (applyOp s p) (within (pktAddr p) 8) := by
    rw [applyOp_store hop]
    exact hanswer.wrote ⟨fun b hb => (hstore.1 b hb).trans (by rw [hu.mem]), hstore.2.trans hu.empty⟩
  obtain ⟨hclear, hlow⟩ := clearReserved_word (applyOp s p) ha
  have hecho := TilesOnly.ofEchoes (clearReserved (applyOp s p) (pktAddr p) 8)
  have hacts : admitAccess s p = clearReserved (applyOp s p) (pktAddr p) 8 := by
    rw [admitAccess_atOwner h hb, if_pos (by simp [hk, hop, opReads]), hop, opWidth]
  refine ⟨_, exec_admission hd, ?_⟩
  rw [hacts]
  exact ⟨hecho.wrote (wrote_trans hbefore hclear), by rw [hecho.getWord, hlow, hword]⟩

end

end Sys2Proof.Machine

namespace Sys2Proof
open Machine

theorem accessesArrive : Claims.AccessesArrive := fun _ _ hd hm hrow hb =>
  ⟨fun hdown hop hreq => arrival_down hd hm hb hdown hop hreq, fun hup hfits => arrival_elsewhere hd hm hb hup hfits,
    fun h hr hc hg hh hfull => arrival_queues hd hrow hb h hr hc hg hh hfull⟩

theorem admittedAccesses : Claims.AdmittedAccesses := fun s p hd h hb =>
  ⟨fun _ hop => admission_reads hd h hb (.inr (by rw [hop]; rfl)) (applyOp_load hb hop),
    fun _ hop => admission_reads hd h hb (.inr (by rw [hop]; rfl)) (applyOp_vbcast hb hop),
    fun m hop => ⟨_, admission_reads hd h hb (.inr (by rw [hop]; rfl)) (applyOp_vload hb hop), fun _ hi => ofBytes_masked s _ m hi⟩,
    fun n x hop _ hk => performs_mono (admission_writes hd h hb (.inl hk) (applyOp_store hop) (wrote_putBytes ..)) fun t ⟨hw, ht, hr⟩ =>
      ⟨hw, by rw [ht.getNat, getNat_putBytes_toBytes], hr⟩,
    fun m x hop hk => performs_mono (admission_writes hd h hb (.inl hk) (applyOp_vstore hop) (wrote_storeLanes ..)) fun t ⟨hw, ht, hr⟩ =>
      ⟨hw, fun i hi hm => by
        rw [ht.mem, get_storeLanes, Nat.add_sub_cancel_left, if_pos ⟨⟨by omega, by omega⟩, hm⟩], hr⟩,
    fun x hop hk ha => admission_handler_entry hd h hb hop hk ha,
    fun _ _ _ _ hop hp hk => admission_amo hd h hb hop hp hk,
    fun _ _ _ _ hop hp hk => admission_reads hd h hb (.inl hk) ((applyOp_amo hb hop).trans (if_pos hp))⟩

/-- Settles O30: an arrival is answered, sent on or queued, and an admission is one case for each operation. -/
theorem ownerAccesses : Obligations.OwnerAccesses := ⟨accessesArrive, admittedAccesses⟩

end Sys2Proof
end

section
/-! PROOFS. Full/empty accesses, and the echoes of fence probes (O31). -/
namespace Sys2Proof.Machine
open Claims

/-! ### Full bits -/

theorem isFull_setFull_self (s : State) (a : Nat) (full : Bool) : isFull (setFull s a full) a = full := by
  cases full
  · simp [isFull, setFull, mem_insertNat]
  · simp [isFull, setFull]

theorem isFull_setFull_other (s : State) {a b : Nat} (h : b ≠ a) (full : Bool) : isFull (setFull s a full) b = isFull s b := by
  cases full
  · simp [isFull, setFull, mem_insertNat, h]
  · simp [isFull, setFull, h]

theorem setFull_answerObj (s : State) (p : ObjPkt) (x : Ans) (a : Nat) (full : Bool) :
    setFull (answerObj s p x) a full = answerObj (setFull s a full) p x := by
  unfold answerObj
  split <;> rfl

/-- Where nobody waits nobody is served. -/
theorem serve_none {s : State} {core : Nat} (h : (getCore s core).waits = []) (row a : Nat) (fill : Bool) :
    serve s core row a fill = s := by
  rw [serve, touchWaits, h]
  cases fill <;> simp [serveWord, h]

/-! ### Full/empty accesses of words that nobody waits for (R101, R327) -/

/-- What a full/empty access changes: bytes of its word, and its FE. -/
structure ActsOnWord (s t : State) (a : Nat) (w : Nat → Prop) (full : Bool) : Prop where
  bytes  : UnchangedBut s t w
  word   : isFull t a = full
  others : ∀ b, b ≠ a → isFull t b = isFull s b

namespace ActsOnWord
variable {s t u : State} {a : Nat} {w : Nat → Prop} {full : Bool}

theorem ofSetFull (h : TilesOnly s u) (a : Nat) (full : Bool) : ActsOnWord s (setFull u a full) a (fun _ => False) full :=
  ⟨fun b _ => congrArg (Memory.get · b) h.mem, isFull_setFull_self .., fun b hb => (isFull_setFull_other u hb full).trans (h.isFull b)⟩

theorem ofSame (h : TilesOnly s u) (hf : isFull s a = full) : ActsOnWord s u a (fun _ => False) full :=
  ⟨fun b _ => congrArg (Memory.get · b) h.mem, (h.isFull a).trans hf, fun b _ => h.isFull b⟩

theorem ofPutWord (h : TilesOnly s u) (hf : isFull s a = full) (x : Word) : ActsOnWord s (putWord u a x) a (within a 8) full :=
  ⟨fun b hb => (putWord_unchanged u a x b hb).trans (congrArg (Memory.get · b) h.mem), (h.isFull a).trans hf, fun b _ => h.isFull b⟩

theorem ofFill (h : TilesOnly s u) (a : Nat) (x : Word) : ActsOnWord s (setFull (putWord u a x) a true) a (within a 8) true :=
  ⟨fun b hb => (putWord_unchanged u a x b hb).trans (congrArg (Memory.get · b) h.mem), isFull_setFull_self ..,
    fun b hb => (isFull_setFull_other (putWord u a x) hb true).trans (h.isFull b)⟩

theorem tilesOnly (h : ActsOnWord s u a w full) (k : TilesOnly u t) : ActsOnWord s t a w full :=
  ⟨fun b hb => (congrArg (Memory.get · b) k.mem).trans (h.bytes b hb), (k.isFull a).trans h.word,
    fun b hb => (k.isFull b).trans (h.others b hb)⟩

end ActsOnWord

section
variable {s : State} {p : ObjPkt}

theorem touchWord_clean (h : s.bitErrs = []) (a : Nat) : touchWord s a = s := touchWord_id s a (by simp [h])

/-- Nobody is served after an access that nobody waits for, whatever it has done to its word. -/
theorem serve_answerObj {v : State} (hw : (getCore s p.frame.core).waits = []) (hc : v.cores = s.cores) (hn : v.now = s.now) (x : Ans)
    (row a : Nat) (fill : Bool) : serve (answerObj v p x) p.frame.core row a fill = answerObj v p x := by
  refine serve_none ?_ row a fill
  rw [(TilesOnly.ofAnswerObj v p x).getCore, getCore_congr hc hn, hw]

theorem ansWord_eq (x : Word) : ansWord x = .value (BitVec.ofNat 256 x.toNat) false := by rw [ansWord, BitVec.ofNat_toNat]

theorem applyOp_ldff (hb : s.bitErrs = []) (hop : p.op = .ldff) : applyOp s p =
    if isFull s (pktAddr p) then
      answerObj (useCache s p) p (.value (BitVec.ofNat 256 (getWord s (pktAddr p)).toNat) (isPoisoned s (pktAddr p)))
    else waitFor (useCache s p) p 2 0 := by
  have hu := TilesOnly.ofUseCache s p
  unfold applyOp
  simp only [hop, touchWord_clean (clean_useCache hb p), hu.isFull, hu.getWord, hu.isPoisoned, BitVec.ofNat_toNat]

section
variable (hb : s.bitErrs = []) (hw : (getCore s p.frame.core).waits = [])
include hb hw

theorem applyOp_ldfe (hop : p.op = .ldfe) : applyOp s p =
    if isFull s (pktAddr p) then answerObj (setFull (useCache s p) (pktAddr p) false) p
      (.value (BitVec.ofNat 256 (getWord s (pktAddr p)).toNat) (isPoisoned s (pktAddr p)))
    else waitFor (useCache s p) p 1 0 := by
  have hu := TilesOnly.ofUseCache s p
  unfold applyOp
  simp only [hop, touchWord_clean (clean_useCache hb p), hu.isFull, hu.getWord, hu.isPoisoned, setFull_answerObj, BitVec.ofNat_toNat]
  rw [serve_answerObj hw]
  exacts [hu.cores, hu.now]

theorem applyOp_stef {x : Word} (hop : p.op = .stef x) : applyOp s p =
    if isFull s (pktAddr p) then waitFor (useCache s p) p 3 x
    else answerObj (setFull (putWord (useCache s p) (pktAddr p) x) (pktAddr p) true) p (ansWord 0) := by
  have hu := TilesOnly.ofUseCache s p
  unfold applyOp
  simp only [hop, touchWord_clean (clean_useCache hb p), hu.isFull]
  rw [serve_answerObj hw]
  exacts [hu.cores, hu.now]

theorem applyOp_stff {x : Word} (hop : p.op = .stff x) : applyOp s p =
    if isFull s (pktAddr p) then answerObj (putWord (useCache s p) (pktAddr p) x) p (ansWord 0)
    else answerObj (setFull (putWord (useCache s p) (pktAddr p) x) (pktAddr p) true) p (ansWord 0) := by
  have hu := TilesOnly.ofUseCache s p
  unfold applyOp
  simp only [hop, touchWord_clean (clean_useCache hb p), hu.isFull]
  rw [serve_answerObj hw]
  exacts [hu.cores, hu.now]

theorem applyOp_sete (hop : p.op = .sete) : applyOp s p =
    if isFull s (pktAddr p) then answerObj (setFull (useCache s p) (pktAddr p) false) p (ansWord 0)
    else answerObj (useCache s p) p (ansWord 0) := by
  have hu := TilesOnly.ofUseCache s p
  unfold applyOp
  simp only [hop, touchWord_clean (clean_useCache hb p), hu.isFull]
  rw [serve_answerObj hw]
  exacts [hu.cores, hu.now]

end

section
variable (hd : s.doing = some (.admission p)) (h : AtOwner s p) (hb : s.bitErrs = []) (hk : p.handle ≠ 3)
include hd h hb hk

/-- What a full/empty access that is served at once gives. -/
theorem admission_gives {v : State} {w : Nat → Prop} {full bad : Bool} {x : Word}
    (he : applyOp s p = answerObj v p (.value (BitVec.ofNat 256 x.toNat) bad)) (hv : ActsOnWord s v (pktAddr p) w full) :
    Performs s (.admission p) fun t =>
      UnchangedBut s t w ∧ isFull t (pktAddr p) = full ∧ (∀ b, b ≠ pktAddr p → isFull t b = isFull s b) ∧ Replied t p x.toNat bad :=
  performs_mono (admission_answers hd h hb (.inl hk) he) fun _ ⟨ht, hr⟩ =>
    have hgives := hv.tilesOnly ht
    ⟨hgives.bytes, hgives.word, hgives.others, hr⟩

/-- What a full/empty store that is served at once gives: it answers, and its word is the one stored, full and with no poison. -/
theorem admission_fills {v : State} {x : Word} (he : applyOp s p = answerObj v p (ansWord 0))
    (hv : ActsOnWord s v (pktAddr p) (within (pktAddr p) 8) true) (hx : getWord v (pktAddr p) = x) (hp : isPoisoned v (pktAddr p) = false) :
    (Performs s (.admission p) fun t =>
      UnchangedBut s t (within (pktAddr p) 8) ∧ isFull t (pktAddr p) = true ∧
        (∀ b, b ≠ pktAddr p → isFull t b = isFull s b) ∧ Replied t p (0 : Word).toNat false) ∧
    ∀ t, exec (Event.admission p).instr s = .next t → getWord t (pktAddr p) = x ∧ isPoisoned t (pktAddr p) = false := by
  rw [ansWord_eq] at he
  obtain ⟨u, hexec, ht, hr⟩ := admission_answers hd h hb (.inl hk) he
  have hgives := hv.tilesOnly ht
  refine ⟨⟨u, hexec, hgives.bytes, hgives.word, hgives.others, hr⟩, fun t hexec' => ?_⟩
  obtain rfl := Host.Outcome.next.inj (hexec.symm.trans hexec')
  exact ⟨(ht.getWord _).trans hx, (ht.isPoisoned _).trans hp⟩

end

/-! ### Waiting (R103) -/

/-- The reference of the thread that waits. -/
def waiterRef (s : State) (p : ObjPkt) : BitVec 46 := match findReq s p.req with | some r => refOf s r.thr | none => 0

/-- The first word of the wait-list entry that an access takes. -/
def waitWord (s : State) (p : ObjPkt) (op : Nat) : Word :=
  BitVec.ofNat 64 (op * 2 ^ 62 + p.frame.row * 2 ^ 55 + p.off / 8 * 2 ^ 46 + (waiterRef s p).toNat)

/-- The state after an access has taken entry e. -/
def withWait (s : State) (p : ObjPkt) (op : Nat) (x : Word) (e : Nat) : State :=
  modCore (putWord (putWord s (waitAddr p.frame.core e) (waitWord s p op)) (waitAddr p.frame.core e + 8) x) p.frame.core fun c =>
    { c with waits := c.waits ++ [(e, p.req)] }

theorem withWait_mem (s : State) (p : ObjPkt) (op : Nat) (x : Word) (e : Nat) :
    (withWait s p op x e).mem =
      (putWord (putWord s (waitAddr p.frame.core e) (waitWord s p op)) (waitAddr p.frame.core e + 8) x).mem := setCore_mem ..

/-- An access that must wait takes an entry that holds nothing, or is answered RETRY. -/
theorem waitFor_cases (hw : (getCore s p.frame.core).waits = []) (op : Nat) (x : Word) :
    (∀ n, n < 32 → waitOp s p.frame.core n ≠ 0) ∧
      waitFor s p op x = send s .rsp (tileOf p.frame.core) p.srcTile (.run (.retry p.req)) ∨
    ∃ n, n < 32 ∧ waitOp s p.frame.core n = 0 ∧ waitFor s p op x = withWait s p op x n := by
  have htouch : touchWaits s p.frame.core = s := by rw [touchWaits, hw]; rfl
  unfold waitFor
  dsimp only
  rw [htouch]
  cases hfind : (List.range Config.waitListSize).find? fun e => waitOp s p.frame.core e = 0 with
  | none => exact .inl ⟨fun n hn => by simpa using List.find?_eq_none.1 hfind n (List.mem_range.2 hn), rfl⟩
  | some e =>
    exact .inr ⟨e, List.mem_range.1 (List.mem_of_find?_eq_some hfind), by simpa using List.find?_some hfind, rfl⟩

theorem bits_ofNat {n lo len : Nat} (h : lo + len ≤ 64) : bits (BitVec.ofNat 64 n) lo len = n / 2 ^ lo % 2 ^ len := by
  rw [bits, BitVec.extractLsb'_toNat, BitVec.toNat_ofNat, Nat.shiftRight_eq_div_pow,
    show 2 ^ 64 = 2 ^ lo * 2 ^ (64 - lo) by rw [← Nat.pow_add]; congr 1; omega, Nat.mod_mul_right_div_self,
    Nat.mod_mod_of_dvd _ (Nat.pow_dvd_pow 2 (by omega))]

/-- The fields of an entry as it is taken. -/
theorem bits_waitWord (s : State) {op : Nat} (hop : op < 4) (hrow : p.frame.row < 84) (hoff : p.off < 4096) :
    bits (waitWord s p op) 62 2 = op ∧ bits (waitWord s p op) 55 7 = p.frame.row % 128 ∧ bits (waitWord s p op) 46 9 = p.off / 8 % 512 := by
  have href := (waiterRef s p).isLt
  rw [waitWord, bits_ofNat (by decide), bits_ofNat (by decide), bits_ofNat (by decide)]
  omega

/-- What an access that waits has written of its core's wait list. -/
theorem withWait_gives (hw : (getCore s p.frame.core).waits = []) {op : Nat} (hop : op < 4) (hrow : p.frame.row < 84) (hoff : p.off < 4096)
    (x : Word) (n : Nat) :
    let t := withWait s p op x n
    let core := p.frame.core
    waitOp t core n = op ∧ waitRow t core n = p.frame.row % 128 ∧ waitWidx t core n = p.off / 8 % 512 ∧ waitValue t core n = x ∧
      (getCore t core).waits = [(n, p.req)] ∧ Wrote s t (within (waitAddr core n) 16) := by
  obtain ⟨hfirst, hsecond, hframe⟩ := putWord_pair s (waitAddr p.frame.core n) (waitWord s p op) x
  obtain ⟨h1, h2, h3⟩ := bits_waitWord (p := p) s hop hrow hoff
  have hmem := withWait_mem s p op x n
  have hfirst' : getWord (withWait s p op x n) (waitAddr p.frame.core n) = waitWord s p op :=
    (getWord_congr fun _ _ => by rw [hmem]).trans hfirst
  refine ⟨by rw [waitOp, hfirst', h1], by rw [waitRow, hfirst', h2], by rw [waitWidx, hfirst', h3],
    (getWord_congr fun _ _ => by rw [hmem]).trans hsecond, ?_, fun b hb => (congrArg (Memory.get · b) hmem).trans (hframe b hb), rfl⟩
  rw [withWait, modCore, getCore_setCore]
  exact congrArg (· ++ [(n, p.req)]) hw

theorem waitOp_of_mem {s t : State} (h : t.mem = s.mem) (core n : Nat) : waitOp t core n = waitOp s core n := by
  rw [waitOp, waitOp, getWord_congr (s := s) fun _ _ => by rw [h]]

/-- What an access that must wait gives: RETRY where the wait list is full, and else its entry. -/
theorem admission_waits (hd : s.doing = some (.admission p)) (h : AtOwner s p) (hb : s.bitErrs = [])
    (hw : (getCore s p.frame.core).waits = []) (hk : p.handle ≠ 3) (hrow : p.frame.row < 84) (hoff : p.off < 4096) {op : Nat} {x : Word}
    (hop : op < 4) (he : applyOp s p = waitFor (useCache s p) p op x) :
    let core := p.frame.core
    (∀ n, n < 32 → waitOp s core n ≠ 0) ∧
      (Performs s (.admission p) fun t => Wrote s t (fun _ => False) ∧ Coming t (.run (.retry p.req))) ∨
    ∃ n, n < 32 ∧ waitOp s core n = 0 ∧ Performs s (.admission p) fun t =>
      waitOp t core n = op ∧ waitRow t core n = p.frame.row % 128 ∧ waitWidx t core n = p.off / 8 % 512 ∧ waitValue t core n = x ∧
      (getCore t core).waits = [(n, p.req)] ∧ Wrote s t (within (waitAddr core n) 16) := by
  have hu := TilesOnly.ofUseCache s p
  have hw' : (getCore (useCache s p) p.frame.core).waits = [] := by rw [hu.getCore, hw]
  have hops := waitOp_of_mem hu.mem p.frame.core
  have hacts := admission_acts hd h hb (.inl hk)
  have hecho := TilesOnly.ofEchoes (applyOp s p)
  rw [he] at hacts hecho
  obtain ⟨hfull, hsends⟩ | ⟨n, hn, hfree, htakes⟩ := waitFor_cases hw' op x
  · rw [hsends] at hacts hecho
    exact .inl ⟨fun n hn => by rw [← hops]; exact hfull n hn, _, hacts,
      ((hu.trans (TilesOnly.ofSend ..)).trans hecho).wrote ⟨.refl s _, rfl⟩, hecho.coming (coming_send ..)⟩
  · rw [htakes] at hacts hecho
    obtain ⟨hop', hrow', hwidx, hval, hwaits, hwrote⟩ := withWait_gives hw' hop hrow hoff x n
    refine .inr ⟨n, hn, by rw [← hops]; exact hfree, _, hacts, ?_⟩
    refine ⟨by rw [waitOp_of_mem hecho.mem]; exact hop', ?_, ?_, ?_, by rw [hecho.getCore]; exact hwaits, ?_⟩
    · rw [waitRow, hecho.getWord]; exact hrow'
    · rw [waitWidx, hecho.getWord]; exact hwidx
    · rw [waitValue, hecho.getWord]; exact hval
    · exact hecho.wrote ⟨fun b hm => (hwrote.1 b hm).trans (congrArg (Memory.get · b) hu.mem), hwrote.2.trans hu.empty⟩

end

/-! ### Which probes are echoed (R112) -/

/-- What one step of a fold brings, and every other one keeps, is coming at its end. -/
theorem coming_foldl {ι : Type} {f : State → ι → State} (hf : ∀ s i, TilesOnly s (f s i)) {a : Act} {i : ι} (hi : ∀ s, Coming (f s i) a) :
    ∀ {l : List ι} (_ : i ∈ l) (s : State), Coming (l.foldl f s) a
  | j :: l, h, s => by
    rw [List.foldl_cons]
    obtain rfl | h := List.mem_cons.1 h
    · exact (TilesOnly.ofFoldl hf l _).coming (hi s)
    · exact coming_foldl hf hi h _

theorem mem_store {α : Type} (l : List (Nat × α)) (n : Nat) (y : α) : (n, y) ∈ store l n y := by
  induction l with
  | nil => simp [store]
  | cons x l ih =>
    unfold store
    split
    · simp
    · split
      · simp
      · exact List.mem_cons_of_mem _ ih

theorem getTile_setTile_of_ne (s : State) (x : TileSt) {t k : Nat} (h : k ≠ t) : getTile (setTile s t x) k = getTile s k := by
  simp [getTile, setTile, look_store, h.symm]

section
variable {s u : State} {l : List ObjPkt} {m : List MajPkt} {pr : Nat × Nat × Nat}

/-- A tile looks at what its sender's accesses to it have not yet been admitted. -/
theorem probeDue_iff {tile : Nat} (h : tile < 2048) :
    probeDue s l tile pr = true ↔ ∀ q ∈ l, q.via = tile → q.srcTile = pr.2.1 → pr.2.2 ≤ q.seq := by
  have hio : tile ≠ ioDie := by unfold ioDie; omega
  simp only [probeDue, hio, ne_eq, not_false_eq_true, decide_true, Bool.true_or, Bool.and_true, List.all_eq_true,
    Bool.not_eq_true', Bool.and_eq_false_iff, decide_eq_false_iff_not, Nat.not_lt]
  exact forall₂_congr fun q _ => by tauto

theorem probeDue_congr {tile : Nat} (h : tile < 2048) : probeDue u l tile pr = probeDue s l tile pr :=
  Bool.eq_iff_iff.2 ((probeDue_iff h).trans (probeDue_iff h).symm)

theorem echoTile_echoes {t : Nat × TileSt} (hp : pr ∈ t.2.probes) (hdue : probeDue u l t.1 pr = true) :
    Coming (echoTile l m u t) (.run (.probeEcho pr.1 t.1)) := by
  have hmem : pr ∈ t.2.probes.filter (probeDue u l t.1) := List.mem_filter.2 ⟨hp, hdue⟩
  unfold echoTile
  dsimp only
  rw [if_neg fun h => by simp [List.isEmpty_iff.1 (Bool.and_eq_true_iff.1 h).1] at hmem]
  exact (TilesOnly.ofFoldl (fun _ _ => .ofSend ..) _ _).coming
    (coming_foldl (fun _ _ => .ofPost ..) (fun _ => ⟨_, mem_insertSched.2 (.inl rfl), rfl⟩) hmem _)

theorem echoTile_keeps {t : Nat × TileSt} {k : Nat} (hp : pr ∈ (getTile u k).probes) (hdue : probeDue u l k pr = false) :
    pr ∈ (getTile (echoTile l m u t) k).probes := by
  unfold echoTile
  dsimp only
  split
  · exact hp
  · have htiles : ∀ (ds : List (Nat × Nat)) (ps : List (Nat × Nat × Nat)) (v : State),
        (ds.foldl (fun u p => send u .rsp t.1 t.1 (.run (.fenceEcho p.1 t.1)))
          (ps.foldl (fun u p => post u 0 (.probeEcho p.1 t.1)) v)).tiles = v.tiles := fun ds ps v =>
      ds.foldlRecOn (motive := fun w : State => w.tiles = v.tiles) _
        (ps.foldlRecOn (motive := fun w : State => w.tiles = v.tiles) _ rfl fun _ h _ _ => h) fun _ h _ _ => h
    rw [getTile, htiles, ← getTile]
    by_cases hk : k = t.1
    · subst hk
      rw [getTile_modTile]
      refine List.mem_filter.2 ⟨hp, ?_⟩
      simp [hdue]
    · rwa [modTile, getTile_setTile_of_ne _ _ hk]

/-- A probe that is due where it waits is echoed. -/
theorem echoes_echo {t : Nat × TileSt} (ht : t ∈ s.tiles) (hk : t.1 < 2048) (hp : pr ∈ t.2.probes)
    (hdue : probeDue s (unadmitted s) t.1 pr = true) :
    Coming (echoes s) (.run (.probeEcho pr.1 t.1)) := by
  rw [echoes_eq, if_neg]
  · exact (TilesOnly.ofFoldl TilesOnly.ofEchoIo _ _).coming
      (coming_foldl (TilesOnly.ofEchoTile _ _) (fun u => echoTile_echoes hp ((probeDue_congr hk).trans hdue)) ht s)
  · intro h
    have hnone := List.all_eq_true.1 (Bool.and_eq_true_iff.1 h).2 t ht
    rw [List.isEmpty_iff.1 (Bool.and_eq_true_iff.1 hnone).1] at hp
    simp at hp

/-- A probe that is not due stays. -/
theorem echoes_keep {k : Nat} (hk : k < 2048) (hp : pr ∈ (getTile s k).probes)
    (hdue : probeDue s (unadmitted s) k pr = false) :
    pr ∈ (getTile (echoes s) k).probes := by
  rw [echoes_eq]
  split
  · exact hp
  · have hio : ∀ (ps : List (Nat × Nat × Nat)) (v : State), (ps.foldl echoIo v).tiles = v.tiles := fun ps v =>
      ps.foldlRecOn (motive := fun w : State => w.tiles = v.tiles) _ rfl fun _ h _ _ => h
    rw [getTile, hio, ← getTile]
    exact s.tiles.foldlRecOn (motive := fun v => pr ∈ (getTile v k).probes) _ hp fun u h _ _ =>
      echoTile_keeps h ((probeDue_congr hk).trans hdue)

end

/-! ### Fence probes and their echoes (R112, R336) -/

section
variable {s : State} {id tile : Nat} {r : Req}

theorem exec_fenceProbe {seq : Nat} (hd : s.doing = some (.fenceProbe id tile seq)) :
    exec (Event.fenceProbe id tile seq).instr s = .next (echoes (fenceProbe s id tile seq)) := by
  show execFenceProbe s = _
  simp only [execFenceProbe, hd]

theorem exec_probeEcho (hd : s.doing = some (.probeEcho id tile)) :
    exec (Event.probeEcho id tile).instr s = .next (probeEcho s id tile) := by
  show execProbeEcho s = _
  simp only [execProbeEcho, hd]

theorem exec_fenceEcho (hd : s.doing = some (.fenceEcho id tile)) :
    exec (Event.fenceEcho id tile).instr s = .next (echoArrives s id tile) := by
  show execFenceEcho s = _
  simp only [execFenceEcho, hd]

/-- The probe of a request waits at a tile. -/
def probeWaits (s : State) (tile : Nat) (pr : Nat × Nat × Nat) : State := modTile s tile fun t => { t with probes := t.probes ++ [pr] }

theorem fenceProbe_eq {seq : Nat} (hf : findReq s id = some r) (ht : tile < 2048) :
    fenceProbe s id tile seq = probeWaits s tile (id, tileOf r.thr.core, seq) := by
  unfold fenceProbe
  rw [hf]
  exact if_neg (by unfold ioDie; omega)

theorem fenceProbe_echoed {seq : Nat} (hd : s.doing = some (.fenceProbe id tile seq)) (hf : findReq s id = some r) (ht : tile < 2048)
    (hq : ∀ q ∈ unadmitted s, q.via = tile → q.srcTile = tileOf r.thr.core → seq ≤ q.seq) :
    Performs s (.fenceProbe id tile seq) fun t => t.mem = s.mem ∧ Coming t (.run (.probeEcho id tile)) := by
  refine ⟨_, exec_fenceProbe hd, ?_⟩
  rw [fenceProbe_eq hf ht]
  refine ⟨echoes_mem _, ?_⟩
  exact echoes_echo (s := probeWaits s tile (id, tileOf r.thr.core, seq)) (pr := (id, tileOf r.thr.core, seq)) (mem_store ..) ht (by simp)
    ((probeDue_iff ht).2 hq)

theorem fenceProbe_held {seq : Nat} (hd : s.doing = some (.fenceProbe id tile seq)) (hf : findReq s id = some r) (ht : tile < 2048)
    (hq : ∃ q ∈ unadmitted s, q.via = tile ∧ q.srcTile = tileOf r.thr.core ∧ q.seq < seq) :
    Performs s (.fenceProbe id tile seq) fun t => t.mem = s.mem ∧ (id, tileOf r.thr.core, seq) ∈ (getTile t tile).probes := by
  refine ⟨_, exec_fenceProbe hd, ?_⟩
  rw [fenceProbe_eq hf ht]
  refine ⟨echoes_mem _, echoes_keep ht ?_ ?_⟩
  · rw [probeWaits, getTile_modTile]
    simp
  · obtain ⟨q, hmem, hvia, hsrc, hseq⟩ := hq
    refine Bool.eq_false_iff.2 fun hdue => ?_
    have hle := (probeDue_iff ht).1 hdue q hmem hvia hsrc
    exact absurd hle (Nat.not_le_of_lt hseq)

/-- An echo goes back to its sender's tile, and at a tile the probe waits no more. -/
theorem probeEcho_answers (hd : s.doing = some (.probeEcho id tile)) (hf : findReq s id = some r) :
    Performs s (.probeEcho id tile) fun t =>
      t.mem = s.mem ∧ Coming t (.run (.fenceEcho id tile)) ∧ (tile < 2048 → ∀ q ∈ (getTile t tile).probes, q.1 ≠ id) := by
  refine ⟨_, exec_probeEcho hd, ?_⟩
  unfold probeEcho
  rw [hf]
  dsimp only
  by_cases hio : tile = ioDie
  · rw [if_pos hio]
    refine ⟨?_, coming_send .., fun ht => absurd hio (by unfold ioDie; omega)⟩
    split <;> rfl
  · rw [if_neg hio]
    refine ⟨rfl, coming_send .., fun _ q hq => ?_⟩
    have hleft : q ∈ (getTile (modTile s tile fun t => { t with probes := t.probes.filter fun q => q.1 ≠ id }) tile).probes := hq
    rw [getTile_modTile] at hleft
    simpa using (List.mem_filter.1 hleft).2

/-- The fence has this echo, and waits for others. -/
theorem echoArrives_waits (hf : findReq s id = some r) (hp : r.phase = .fence) (hx : ∃ x ∈ r.echoes, x ≠ tile) :
    echoArrives s id tile = modReq s id fun q => { q with echoes := r.echoes.filter (· ≠ tile) } := by
  have hne : (r.echoes.filter (· ≠ tile)).isEmpty = false := by
    obtain ⟨x, hx, hxt⟩ := hx
    exact List.isEmpty_eq_false_iff_exists_mem.2 ⟨x, List.mem_filter.2 ⟨hx, by simpa using hxt⟩⟩
  unfold echoArrives
  rw [hf]
  dsimp only
  rw [hp]
  exact if_pos (by simp only [hne, Bool.not_false])

theorem fenceEcho_waits (hd : s.doing = some (.fenceEcho id tile)) (hf : findReq s id = some r) (hp : r.phase = .fence)
    (hx : ∃ x ∈ r.echoes, x ≠ tile) :
    Performs s (.fenceEcho id tile) fun t =>
      t.mem = s.mem ∧ findReq t id = some { r with echoes := r.echoes.filter (· ≠ tile) } := by
  refine ⟨_, exec_fenceEcho hd, ?_⟩
  rw [echoArrives_waits hf hp hx]
  exact ⟨rfl, findReq_modReq hf fun _ => rfl⟩

/-- The last echo of a FENCE's probes: its tiles' bits of c4 are clear. -/
def fenced (s : State) (id : Nat) (r : Req) : State :=
  setC (modReq s id fun q => { q with echoes := [] }) r.thr 4 (getC s r.thr 4 &&& ~~~r.mask)

theorem echoArrives_last {sc : Scope} (h : Awaits s id r) (hp : r.phase = .fence) (hi : r.insn = .fence sc)
    (hx : ∀ x ∈ r.echoes, x = tile) : echoArrives s id tile = replyArrives (fenced s id r) id (ansWord 0) := by
  have hnil : r.echoes.filter (· ≠ tile) = [] := List.filter_eq_nil_iff.2 fun x hm => by simp [hx x hm]
  have halone : pairOf (modReq s id fun q => { q with echoes := [] }) r.thr = none := h.alone
  unfold echoArrives
  rw [h.found]
  dsimp only
  rw [hp]
  dsimp only
  rw [hnil, if_neg (by simp), h.held, if_neg (by decide), setTouch, halone]
  dsimp only
  rw [afterFence, hi, findReq_id h.found]
  rfl

/-- The thread awaits its FENCE as before. -/
theorem awaits_fenced (h : Awaits s id r) : Awaits (fenced s id r) id { r with echoes := [] } where
  found  := findReq_modReq h.found (f := fun q => { q with echoes := [] }) fun _ => rfl
  held   := h.held
  parked := (tstate_congr (getC_setC_other _ _ _ (by decide))).trans h.parked
  opened := h.opened
  alone  := h.alone
  cmds   := h.cmds
  fresh  := h.fresh
  reads  := by
    have h7 : getC (fenced s id r) r.thr 7 = getC s r.thr 7 := getC_setC_other _ _ _ (by decide)
    rw [RetireReadable, isPaired_congr h7]
    exact readable_setC (s := modReq s id fun q => { q with echoes := [] }) h.reads r.thr 4 _

/-- An awaited answer that only lets its instruction complete retires it. -/
theorem replyArrives_retires (h : Awaits s id r) (hi : noAnswer r.insn = true) (x : Word) :
    ∃ y, replyArrives s id (ansWord x) = retireTo (unpark (settled s id) r.thr) r.thr (nextPc s r.thr) y := by
  obtain ⟨y, hy⟩ := deliver_none (s := unpark (settled s id) r.thr) (x.setWidth 256) hi
  have hpc : nextPc (unpark (settled s id) r.thr) r.thr = nextPc s r.thr := nextPc_unpark (settled s id) r.thr
  rw [retire, ← nextPc, hpc] at hy
  exact ⟨y, (replyArrives_awaited h _).trans (complete_value h _ hy rfl rfl)⟩

theorem getThr_countRetired (s : State) (t : Thr) (pc : Nat) (v : Word) : getThr (countRetired s t pc v) t = getThr s t := by
  refine getThr_congr ?_ (countRetired_same s t pc v).now t
  dsimp only [countRetired]
  split <;> rfl

theorem endStep_pairs (s : State) (t : Thr) : (endStep s t).pairs = s.pairs := by
  unfold endStep
  split
  · split <;> rfl
  · rfl

theorem endInterval_alone {s : State} {t : Thr} (h : pairOf s t = none) : endInterval s t = s := by rw [endInterval, h]

/-- A running thread outside a pair runs on when it retires, or is IDLE where it was stepped (R75). -/
theorem tstate_retireTo {s : State} {t : Thr} (halone : pairOf s t = none) (hrun : tstate s t = stRun) (pc : Nat) (v : Word) :
    tstate (retireTo s t pc v) t = if (getThr s t).stepping then 1 else 2 := by
  have hcount : (countRetired s t pc v).pairs = s.pairs := by
    dsimp only [countRetired]
    split <;> rfl
  have h0 : getC (countRetired s t pc v) t 0 = getC s t 0 := (countRetired_unchanged s t pc v).getC fun i hi hw => by
    obtain hw | hw | ⟨-, hw⟩ := hw
    · exact cAddr_apart t (by decide) hi hw
    · exact cAddr_apart t (by decide) hi hw
    · exact cAddr_apart t (by decide) hi hw
  have hst : tstate (countRetired s t pc v) t = stRun := (tstate_congr h0).trans hrun
  rw [retireTo, endInterval_alone (by rw [pairOf, endStep_pairs, hcount]; exact halone), endStep, getThr_countRetired]
  split
  next hstep =>
    rw [tstate_congr (getC_of_mem (modThr_mem ..) t 0)]
    exact tstate_setTState _ t (by decide)
  next => exact hst

/-- What an awaited answer that only lets its instruction complete leaves. -/
theorem replyArrives_completes (h : Awaits s id r) (hi : noAnswer r.insn = true) (x : Word) :
    let t := replyArrives s id (ansWord x)
    getC t r.thr 4 = getC s r.thr 4 ∧ tstate t r.thr = (if (getThr s r.thr).stepping then 1 else 2) ∧ pcOf t r.thr = nextPc s r.thr ∧
      findReq t id = none ∧ UnchangedBut s t fun b => parkBytes r.thr b ∨ retireBytes s r.thr b := by
  obtain ⟨y, hreply⟩ := replyArrives_retires h hi x
  have hkept : ∀ n, n ≠ 0 → n ≠ 2 → getC (unpark (settled s id) r.thr) r.thr n = getC s r.thr n := fun _ => getC_settled s id r.thr
  have hthr := getThr_settled s id r.thr
  have halone : pairOf (unpark (settled s id) r.thr) r.thr = none := h.alone
  have hpark := unpark_unchanged (settled s id) r.thr
  obtain ⟨hret, hframe, hrest⟩ := retireTo_plain (unpark (settled s id) r.thr) r.thr (nextPc s r.thr) y (nextPc_lt ..)
  rw [show retireBytes _ r.thr = _ from funext (retireBytes_congr (hkept 7 (by decide) (by decide)) hthr)] at hframe
  rw [hreply]
  refine ⟨?_, ?_, hret.pc, findReq_settled s id fun q hq => ⟨q, hrest.reqs ▸ hq, rfl⟩, ?_⟩
  · refine (hframe.getC fun i hlt => ?_).trans (hkept 4 (by decide) (by decide))
    exact not_retireBytes_cAddr (by decide) hlt
  · rw [tstate_retireTo halone (tstate_unpark ..), hthr]
  · exact UnchangedBut.trans (t := unpark (settled s id) r.thr) (fun b hb => hpark b fun hw => hb (.inl hw))
      (hframe.mono fun _ => .inr)

/-- The last echo completes a FENCE: its tiles' bits of c4 are clear, and its thread goes on (R112, R336). -/
theorem fenceEcho_completes {sc : Scope} (hd : s.doing = some (.fenceEcho id tile)) (h : Awaits s id r) (hp : r.phase = .fence)
    (hi : r.insn = .fence sc) (hx : ∀ x ∈ r.echoes, x = tile) :
    Performs s (.fenceEcho id tile) fun t =>
      getC t r.thr 4 = getC s r.thr 4 &&& ~~~r.mask ∧ tstate t r.thr = (if (getThr s r.thr).stepping then 1 else 2) ∧
      pcOf t r.thr = nextPc s r.thr ∧ findReq t id = none ∧
      UnchangedBut s t fun b => parkBytes r.thr b ∨ within (cAddr r.thr 4) 8 b ∨ retireBytes s r.thr b := by
  have hother : ∀ n, 4 ≠ n → getC (fenced s id r) r.thr n = getC s r.thr n := fun n hn => getC_setC_other _ _ _ hn
  have hclear : UnchangedBut s (fenced s id r) (within (cAddr r.thr 4) 8) :=
    fun b hb => setC_unchanged (modReq s id fun q => { q with echoes := [] }) r.thr 4 _ b hb
  have hthr : getThr (fenced s id r) r.thr = getThr s r.thr := getThr_congr rfl rfl r.thr
  have hpc : nextPc (fenced s id r) r.thr = nextPc s r.thr := by rw [nextPc, nextPc, pcOf, pcOf, hother 1 (by decide)]
  obtain ⟨h4, hst, hpc', hnone, hframe⟩ := replyArrives_completes (awaits_fenced h) (by rw [hi]; rfl) 0
  dsimp only at h4 hst hpc' hframe
  rw [hthr] at hst
  have hbytes := retireBytes_congr (hother 7 (by decide)) hthr
  refine ⟨_, exec_fenceEcho hd, ?_⟩
  rw [echoArrives_last h hp hi hx]
  exact ⟨h4.trans (getC_setC_self _ _ _ _ (by decide)), hst, hpc'.trans hpc, hnone,
    UnchangedBut.trans (t := fenced s id r) (fun b hb => hclear b fun hw => hb (.inr (.inl hw)))
      fun b hb => hframe b fun hw => hb (hw.imp_right fun hr => .inr (hbytes b ▸ hr))⟩

end

end Sys2Proof.Machine

namespace Sys2Proof
open Machine

theorem fullEmptyAccesses : Claims.FullEmptyAccesses := by
  intro s p hd h hb hw hk
  have hu := TilesOnly.ofUseCache s p
  have waits := fun hrow hoff op x => admission_waits hd h hb hw hk hrow hoff (op := op) (x := x)
  have fills := fun v x => admission_fills hd h hb hk (v := v) (x := x)
  refine ⟨fun hop hf => ?_, fun hop hf => ?_, fun x hop hf => ?_, fun x hop => ?_, fun hop => ?_, fun hrow hoff =>
    ⟨fun hop hf => ?_, fun hop hf => ?_, fun x hop hf => ?_⟩⟩
  · exact admission_gives hd h hb hk ((applyOp_ldfe hb hw hop).trans (if_pos hf)) (.ofSetFull hu _ false)
  · exact admission_gives hd h hb hk ((applyOp_ldff hb hop).trans (if_pos hf)) (.ofSame hu hf)
  · exact fills _ x ((applyOp_stef hb hw hop).trans (if_neg (by simp [hf]))) (.ofFill hu _ x) (getWord_putWord_self ..)
      (isPoisoned_putWord_self ..)
  · have he := applyOp_stff hb hw hop
    cases hf : isFull s (pktAddr p)
    · exact fills _ x (he.trans (if_neg (by simp [hf]))) (.ofFill hu _ x) (getWord_putWord_self ..) (isPoisoned_putWord_self ..)
    · exact fills _ x (he.trans (if_pos hf)) (.ofPutWord hu hf x) (getWord_putWord_self ..) (isPoisoned_putWord_self ..)
  · have he := applyOp_sete hb hw hop
    rw [ansWord_eq] at he
    cases hf : isFull s (pktAddr p)
    · exact admission_gives hd h hb hk (he.trans (if_neg (by simp [hf]))) (.ofSame hu hf)
    · exact admission_gives hd h hb hk (he.trans (if_pos hf)) (.ofSetFull hu _ false)
  · exact waits hrow hoff 1 0 (by decide) ((applyOp_ldfe hb hw hop).trans (if_neg (by simp [hf])))
  · exact waits hrow hoff 2 0 (by decide) ((applyOp_ldff hb hop).trans (if_neg (by simp [hf])))
  · exact waits hrow hoff 3 x (by decide) ((applyOp_stef hb hw hop).trans (if_pos hf))

theorem fenceProbes : Claims.FenceProbes := fun _ _ _ _ hf =>
  ⟨fun _ hd ht => ⟨fun hq => fenceProbe_echoed hd hf ht hq, fun hq => fenceProbe_held hd hf ht hq⟩, fun hd => probeEcho_answers hd hf,
    fun hd hp => ⟨fun hx => fenceEcho_waits hd hf hp hx, fun _ hi hx h _ => fenceEcho_completes hd h hp hi hx⟩⟩

/-- Settles O31: a full/empty access of a word with no waiter, and each step of a fence's probe. -/
theorem fullEmptyAndFences : Obligations.FullEmptyAndFences := ⟨fullEmptyAccesses, fenceProbes⟩

end Sys2Proof
end
